-- ==== Sys2Proof/Word.lean ====
section
/-! DEFINITION. The word types of the machine (R3) and their plainest arithmetic. -/

namespace Sys2Proof

/-- A doubleword of 64 bits (R3). -/
abbrev Word := BitVec 64

/-- A byte (R3). -/
abbrev Byte := BitVec 8

/-- The number of an integer register, x0 to x31 (R25). -/
abbrev Reg := BitVec 5

end Sys2Proof
end

