-- ==== Sys2Proof/Syntax.lean ====
section
/-! DEFINITION. The instruction type: one constructor for each row of the opcode table. The first 130 are the
control words of R45; the rest are the indivisible steps of the part's other agents, with the operands that
name the agent and what comes from outside the package. -/

namespace Sys2Proof

/-- One loop level of a `nest` word: extent − 1 and the strides of d, a and b, as encoded (R34, R35). -/
structure NestLevel where
  ext : BitVec 10
  sd : BitVec 10
  sa : BitVec 10
  sb : BitVec 10
deriving DecidableEq, Repr, Inhabited

/-- The fields of a `nest` word (R34). `lv` holds its levels from level 0. -/
structure NestWord where
  xd : Reg
  xa : Reg
  xb : Reg
  lv : List NestLevel
  rm : BitVec 2
  acc : Bool
  ds : Bool
  as : Bool
  bs : Bool
  op : BitVec 8
  rl : BitVec 3
  sat : Bool
  scan : Bool
deriving DecidableEq, Repr, Inhabited

/-- Where a UALink write lands: at a physical address, or as a forwarded entry in a channel (R274, R287). -/
inductive LinkTarget where
  | addr (a : Nat)
  | chan (ctx num : Nat)
deriving DecidableEq, Repr

/-- How stage B fails: the die and the cause that the stage entry names (R352). -/
structure StageFailure where
  die : BitVec 2
  cause : BitVec 7
deriving DecidableEq, Repr

/-- A message of a peer on an outbound channel: the local channel it names, whether it acknowledges an entry, and the further credit that
the far channel grants (R274). -/
structure PeerAck where
  num : Nat
  entry : Bool
  credit : Nat
deriving DecidableEq, Repr

/-- What a binding peer offers: the direction, and the credit that the far channel grants (R274, R280). -/
structure PeerOffer where
  inbound : Bool
  credit : Nat
deriving DecidableEq, Repr

/-- A migration's choice: the next or the previous cluster of the ring, and the place of the command in the queue (R262). -/
structure Migration where
  next : Bool
  pos : Nat
deriving DecidableEq, Repr

/-- The instructions and steps of the opcode table. -/
inductive Instr where
  /-- R138. xD gets the 64-bit truncated sum of xA and xB. -/
  | add (d a b : Reg)
  /-- R138. xD gets the 64-bit truncated difference xA minus xB. -/
  | sub (d a b : Reg)
  /-- R138. xD gets the bitwise AND of xA and xB. -/
  | and (d a b : Reg)
  /-- R138. xD gets the bitwise OR of xA and xB. -/
  | or (d a b : Reg)
  /-- R138. xD gets the bitwise XOR of xA and xB. -/
  | xor (d a b : Reg)
  /-- R138. xD gets xA shifted left by xB[5:0], truncated to 64 bits. -/
  | sll (d a b : Reg)
  /-- R138. xD gets xA shifted right logically by xB[5:0]. -/
  | srl (d a b : Reg)
  /-- R138. xD gets xA shifted right arithmetically by xB[5:0]. -/
  | sra (d a b : Reg)
  /-- R138. xD gets 1 if xA is less than xB as signed values, else 0. -/
  | slt (d a b : Reg)
  /-- R138. xD gets 1 if xA is less than xB as unsigned values, else 0. -/
  | sltu (d a b : Reg)
  /-- R138. xD gets the low 64 bits of the product of xA and xB. -/
  | mul (d a b : Reg)
  /-- R138. xD gets the high 64 bits of the signed product of xA and xB. -/
  | mulh (d a b : Reg)
  /-- R138. xD gets the high 64 bits of the unsigned product of xA and xB. -/
  | mulhu (d a b : Reg)
  /-- R138. xD gets the signed quotient rounded toward zero, saturating where it cannot be represented. -/
  | div (d a b : Reg)
  /-- R138. xD gets the unsigned quotient, with all ones for division by zero. -/
  | divu (d a b : Reg)
  /-- R138. xD gets the signed remainder that matches the div quotient. -/
  | rem (d a b : Reg)
  /-- R138. xD gets the unsigned remainder that matches the divu quotient. -/
  | remu (d a b : Reg)
  /-- R138. xD gets the smaller of xA and xB as signed values. -/
  | min (d a b : Reg)
  /-- R138. xD gets the larger of xA and xB as signed values. -/
  | max (d a b : Reg)
  /-- R138. xD gets the smaller of xA and xB as unsigned values. -/
  | minu (d a b : Reg)
  /-- R138. xD gets the larger of xA and xB as unsigned values. -/
  | maxu (d a b : Reg)
  /-- R138. xD gets the count of leading zero bits of xA. -/
  | clz (d a : Reg)
  /-- R138. xD gets the count of trailing zero bits of xA. -/
  | ctz (d a : Reg)
  /-- R138. xD gets the count of one bits of xA. -/
  | pop (d a : Reg)
  /-- R139. xD gets xA plus the sign-extended imm12. -/
  | addi (d a : Reg) (imm : BitVec 12)
  /-- R139. xD gets xA AND the sign-extended imm12. -/
  | andi (d a : Reg) (imm : BitVec 12)
  /-- R139. xD gets xA OR the sign-extended imm12. -/
  | ori (d a : Reg) (imm : BitVec 12)
  /-- R139. xD gets xA XOR the sign-extended imm12. -/
  | xori (d a : Reg) (imm : BitVec 12)
  /-- R139. xD gets xA shifted left by imm12[5:0]. -/
  | slli (d a : Reg) (sh : BitVec 6)
  /-- R139. xD gets xA shifted right logically by imm12[5:0]. -/
  | srli (d a : Reg) (sh : BitVec 6)
  /-- R139. xD gets xA shifted right arithmetically by imm12[5:0]. -/
  | srai (d a : Reg) (sh : BitVec 6)
  /-- R139. xD gets 1 if xA is less than the sign-extended imm12 as signed values, else 0. -/
  | slti (d a : Reg) (imm : BitVec 12)
  /-- R140. xD gets the sign-extended imm32 held in the second word. -/
  | li (d : Reg) (imm : BitVec 32)
  /-- R140. xD gets imm32 in its upper half and xA[31:0] in its lower half. -/
  | lih (d a : Reg) (imm : BitVec 32)
  /-- R140. xD gets xA plus the sign-extended imm32. -/
  | addiw (d a : Reg) (imm : BitVec 32)
  /-- R141. Branches to pc plus offset times 4 when xA equals xB. -/
  | beq (a b : Reg) (off : BitVec 12)
  /-- R141. Branches when xA differs from xB. -/
  | bne (a b : Reg) (off : BitVec 12)
  /-- R141. Branches when xA is less than xB as signed values. -/
  | blt (a b : Reg) (off : BitVec 12)
  /-- R141. Branches when xA is at least xB as signed values. -/
  | bge (a b : Reg) (off : BitVec 12)
  /-- R141. Branches when xA is less than xB as unsigned values. -/
  | bltu (a b : Reg) (off : BitVec 12)
  /-- R141. Branches when xA is at least xB as unsigned values. -/
  | bgeu (a b : Reg) (off : BitVec 12)
  /-- R142. Jumps pc-relative and writes the return address pc plus 4 to xD. -/
  | jal (d : Reg) (off : BitVec 20)
  /-- R142. Jumps to xA plus imm12, trapping MISALIGN on a bad target, and writes the return address to xD. -/
  | jalr (d a : Reg) (imm : BitVec 12)
  /-- R144. Loads a sign-extended byte from the task's scratch. -/
  | ldsB (d base : Reg) (off : BitVec 12)
  /-- R144. Loads a sign-extended half from scratch. -/
  | ldsH (d base : Reg) (off : BitVec 12)
  /-- R144. Loads a sign-extended word from scratch. -/
  | ldsW (d base : Reg) (off : BitVec 12)
  /-- R144. Loads a doubleword from scratch. -/
  | ldsD (d base : Reg) (off : BitVec 12)
  /-- R144. Loads a zero-extended byte from scratch. -/
  | ldsBu (d base : Reg) (off : BitVec 12)
  /-- R144. Loads a zero-extended half from scratch. -/
  | ldsHu (d base : Reg) (off : BitVec 12)
  /-- R144. Loads a zero-extended word from scratch. -/
  | ldsWu (d base : Reg) (off : BitVec 12)
  /-- R144. Stores the low byte of xS to scratch at once. -/
  | stsB (src base : Reg) (off : BitVec 12)
  /-- R144. Stores the low half of xS to scratch. -/
  | stsH (src base : Reg) (off : BitVec 12)
  /-- R144. Stores the low word of xS to scratch. -/
  | stsW (src base : Reg) (off : BitVec 12)
  /-- R144. Stores xS to scratch. -/
  | stsD (src base : Reg) (off : BitVec 12)
  /-- R145. Loads a sign-extended byte of global memory in the task's own view and records the line in the read set. -/
  | ldgB (d base : Reg) (off : BitVec 12)
  /-- R145. Loads a sign-extended global half in the task's own view. -/
  | ldgH (d base : Reg) (off : BitVec 12)
  /-- R145. Loads a sign-extended global word in the task's own view. -/
  | ldgW (d base : Reg) (off : BitVec 12)
  /-- R145. Loads a global doubleword in the task's own view. -/
  | ldgD (d base : Reg) (off : BitVec 12)
  /-- R145. Loads a zero-extended global byte in the task's own view. -/
  | ldgBu (d base : Reg) (off : BitVec 12)
  /-- R145. Loads a zero-extended global half in the task's own view. -/
  | ldgHu (d base : Reg) (off : BitVec 12)
  /-- R145. Loads a zero-extended global word in the task's own view. -/
  | ldgWu (d base : Reg) (off : BitVec 12)
  /-- R146. Writes the low byte of xS into the Cupboard, to be published at commit. -/
  | stgB (src base : Reg) (off : BitVec 12)
  /-- R146. Writes the low half of xS into the Cupboard. -/
  | stgH (src base : Reg) (off : BitVec 12)
  /-- R146. Writes the low word of xS into the Cupboard. -/
  | stgW (src base : Reg) (off : BitVec 12)
  /-- R146. Writes xS into the Cupboard. -/
  | stgD (src base : Reg) (off : BitVec 12)
  /-- R299. Opens an atomic region, requesting the line's lock under wound-wait. -/
  | arBegin (a : Reg)
  /-- R299. Loads a sign-extended word from the locked line's working value. -/
  | arLdW (d a : Reg)
  /-- R299. Loads a doubleword from the locked line's working value. -/
  | arLdD (d a : Reg)
  /-- R299. Stores a word into the locked line's working value. -/
  | arStW (a b : Reg)
  /-- R299. Stores a doubleword into the locked line's working value. -/
  | arStD (a b : Reg)
  /-- R299. Waits until the region's operations have been performed, then closes the region. -/
  | arEnd
  /-- R301. Holds a 32-bit modular add of xB into the word at xA, folded at commit. -/
  | redAddW (a b : Reg)
  /-- R301. Holds a 64-bit modular add of xB, folded at commit. -/
  | redAddD (a b : Reg)
  /-- R301. Holds a signed-minimum reduction, folded at commit. -/
  | redMinW (a b : Reg)
  /-- R301. Holds a signed-maximum reduction, folded at commit. -/
  | redMaxW (a b : Reg)
  /-- R301. Holds an OR reduction, folded at commit. -/
  | redOrW (a b : Reg)
  /-- R301. Holds an AND reduction, folded at commit. -/
  | redAndW (a b : Reg)
  /-- R301. Holds an FP32 RNE add reduction, folded at commit. -/
  | redFaddS (a b : Reg)
  /-- R334. Reads the named system register into xD. -/
  | sysRd (d : Reg) (num : BitVec 12)
  /-- R334. Writes xA to the RW and WO fields of the named system register and clears its W1C fields where xA is 1. -/
  | sysWr (num : BitVec 12) (a : Reg)
  /-- R334. ORs xA into the RW fields of the register, clears W1C fields where xA is 1, and returns the old value. -/
  | sysSet (d : Reg) (num : BitVec 12) (a : Reg)
  /-- R334. Clears the RW field bits of the register where xA is 1 and returns the old value. -/
  | sysClr (d : Reg) (num : BitVec 12) (a : Reg)
  /-- R335. In a task, ends the task FAULTED with BREAK and subcode imm; on the Bureau, enters the trap handler. -/
  | trap (imm : BitVec 12)
  /-- R336. Restores IE from PIE, clears INTRAP and returns to PC. -/
  | eret
  /-- R336. Stops Bureau issue until an enabled interrupt is pending. -/
  | wfi
  /-- R295. Waits for copies, the fabric or portal replies as its mask selects. -/
  | fence (k : BitVec 3)
  /-- R150. Stages a configuration image frame by frame, checking each frame. -/
  | cfgLoad (a : Reg)
  /-- R151. Stops issue until every section is drained and every nest, matrix command and walker arm has completed; it is a funding point. -/
  | bar
  /-- R152. Completes as bar, then puts the staged image in force. -/
  | barCfg
  /-- R153. Arms the engines bound to a section for xB tiles. -/
  | arm (sec : BitVec 5) (b : Reg)
  /-- R154. Stops issue until one section is drained. -/
  | drain (sec : BitVec 5)
  /-- R156. Grants waves and starts the selected sources into a section now. -/
  | strmGo (sec : BitVec 5) (a : Reg)
  /-- R156. Grants waves and starts the selected sources once a timeline reaches a value. -/
  | strmCond (sec : BitVec 5) (a b : Reg)
  /-- R161. Applies one node operation over up to five loop levels, element-wise or as a reduction or scan. -/
  | nest (w : NestWord)
  /-- R217. Checks a copy descriptor, grants its blocks and queues the copy on a timeline. -/
  | tcopy (tl : BitVec 5) (a : Reg)
  /-- R219. Issues a copy in demand mode that fills an MU FIFO. -/
  | tcopyDmd (tl : BitVec 5) (a : Reg)
  /-- R220. Cancels every uncompleted copy on a timeline and returns their count. -/
  | tcopyCancel (d : Reg) (tl : BitVec 5)
  /-- R211. Stops issue until a timeline reaches xB, then acquires its effects. -/
  | tlWait (tl : BitVec 5) (b : Reg)
  /-- R212. Reads a timeline's value into xD without acquiring. -/
  | tlRead (d : Reg) (tl : BitVec 5)
  /-- R213. Advances timeline 4-7 by xB, releasing the commands gated on it. -/
  | tlAdv (tl : BitVec 5) (b : Reg)
  /-- R95. Reads a record and holds it for delivery at commit. -/
  | spawn (a : Reg)
  /-- R95. Spawns a record with join address xB and holds an increment of that join cell. -/
  | spawnj (a b : Reg)
  /-- R340. Ends the task's work; it waits as bar, for copies and for commit order, then commits. -/
  | done
  /-- R341. Takes the context out of issue arbitration until another context issues. -/
  | yield
  /-- R342. Discards the task's effects, then re-queues the task or retires it DISCARDED. -/
  | abort (a : Reg)
  /-- R96. xD gets the task handle. -/
  | tskSelf (d : Reg)
  /-- R96. xD gets the task's timestamp. -/
  | tskTs (d : Reg)
  /-- R118. Tops up the gate named by xA with xB packets from the issuer's quota and die budget. -/
  | chgAdd (d a b : Reg)
  /-- R119. Reads the Account at the gate named by handle xA. -/
  | chgRead (d a : Reg)
  /-- R120. Sets the low-water mark and returns the old one. -/
  | chgLow (d a : Reg)
  /-- R120. Sets the hold interval and returns the old one. -/
  | chgHold (d a : Reg)
  /-- R120. Reads the task's own Account after this instruction's debit. -/
  | chgSelf (d : Reg)
  /-- R276. Claims a channel side, opening a CLOSED channel, and returns a code. -/
  | chOpen (d a : Reg)
  /-- R277. Holds a 4-byte push until commit, blocking while there is no room. -/
  | chPushW (a b : Reg)
  /-- R277. Holds a push of 8 or more bytes until commit, blocking while there is no room. -/
  | chPushD (a b : Reg)
  /-- R277. Tentatively pops a 4-byte entry, blocking until one is published. -/
  | chPopW (d a : Reg)
  /-- R277. Tentatively pops a larger entry, writing bytes beyond 8 to scratch. -/
  | chPopD (d a b : Reg)
  /-- R277. Reads the next entry without popping it. -/
  | chPeek (d a : Reg)
  /-- R278. Holds the release of a side until commit, which may close the channel. -/
  | chClose (d a : Reg)
  /-- R279. Returns a status snapshot of a channel. -/
  | chStat (d a : Reg)
  /-- R280. Binds an OPEN channel to a channel on a UALink peer. -/
  | chBind (d a b : Reg)
  /-- R253. Waits for the engine's queues to empty, then binds the engine to a section and sets its format and destination. -/
  | mxFmt (sec : BitVec 5) (a b : Reg)
  /-- R254. Grants blocks and queues a dense load of the shadow plane. -/
  | mxLds (a b : Reg)
  /-- R255. Queues an exchange of the active and shadow planes. -/
  | mxSwap (a : Reg)
  /-- R256. Sets the cursors and arms the section's engines for n tiles, with OVW and MIG. -/
  | mxArm (sec : BitVec 5) (a b : Reg)
  /-- R257. Runs a table of tile groups on one engine. -/
  | mxGroup (a b : Reg)
  /-- R258. Queues a build of the shadow plane from a CSR window. -/
  | mxCsr (a b : Reg)
  /-- R259. Queues a condensed plane built from a CSR window and an activation mask. -/
  | mxCond (a b : Reg)
  /-- R260. Returns an engine status snapshot. -/
  | mxStat (d a : Reg)
  /-- R261. Waits for the engine to go idle, then clears both planes and the cursor. -/
  | mxClr (a : Reg)
  /-- R81. A 32-bit write to a die's notification page notifies a queue. -/
  | notificationWrite (die : Nat) (off : BitVec 12) (value : BitVec 32)
  /-- R83. A pending queue takes a free hardware queue slot. -/
  | queueSlotMap (die : Nat)
  /-- R83. At slice end a slot gives its place to a waiting queue of equal or higher priority. -/
  | timeSliceEnd (die slot : Nat)
  /-- R85. A slot reads and checks the launch entry at head and advances head. -/
  | launchEntryRead (die slot : Nat)
  /-- R87. Once its target is admitted, a held section-arm node arms the target's section. -/
  | walkerArmDelivery (inst node : Nat)
  /-- R90. Each 10 ms of waiting raises a ready record's aged level by one, up to 43. -/
  | recordAging (id : Nat)
  /-- R126. A die takes the highest-level record that fits and can be funded, and allots its gang. -/
  | placementDecision (die : Nat)
  /-- R103. A record unfunded for 1 ms at the head of its level stops lower-level admissions. -/
  | fundingStall (die : Nat)
  /-- R126. A record unfitted for 1 ms at the head of the top level stops lower-level placements. -/
  | placementStall (die : Nat)
  /-- R127. The device debits the budget, zeroes rows, reads the frame, loads the image and issues the first instruction. -/
  | admission (h : Word)
  /-- R93. A cluster with a free slot and no fitting record posts a steal request to a victim's mailbox. -/
  | stealRequest (die cluster : Nat)
  /-- R93. A thief withdraws its request after 64 µs. -/
  | stealWithdraw (die cluster : Nat)
  /-- R108. When a granted prefix completes, the gate grants further units or enters HOLD. -/
  | prefixEnd (h : Word)
  /-- R111. The hold interval expires and the gate enters STOPPED. -/
  | holdTimerExpiry (h : Word)
  /-- R164. A compute unit takes a record from each input, runs four stages and emits on its outputs. -/
  | cuFire (h : Word) (cell : Nat)
  /-- R226. A fibre-mode compute unit takes one token per input and computes or passes stops. -/
  | fibreUnitFire (h : Word) (cell : Nat)
  /-- R228. A join stage compares two heads and applies the actions and emission of its table. -/
  | joinStep (h : Word) (cell : Nat)
  /-- R311. A portal reply returns, and with all replies in, the result record leaves. -/
  | portalReply (h : Word) (cell req : Nat) (ok : Bool) (value : Word)
  /-- R306. Counts returned permits and passes a contender while a permit is free. -/
  | pmtEnter (h : Word) (cell : Nat)
  /-- R306. Passes a record and returns a permit record. -/
  | pmtExit (h : Word) (cell : Nat)
  /-- R307. Drives children sequentially over N iterations. -/
  | ctlSeq (h : Word) (cell : Nat)
  /-- R307. Drives children as a pipeline over N iterations. -/
  | ctlPipe (h : Word) (cell : Nat)
  /-- R307. Sends one go to every child and answers done once all have returned one. -/
  | ctlStrm (h : Word) (cell : Nat)
  /-- R308. A rendezvous that fires once every enabled input holds a record. -/
  | barNode (h : Word) (cell : Nat)
  /-- R190. An MU stream performs one scratch access and emits or stores a record. -/
  | muAccess (h : Word) (cell : Nat)
  /-- R235. An AFFINE generator reads or writes one box element. -/
  | affineElement (h : Word) (place : Nat)
  /-- R236. A GATHER consumes an index item and issues a read. -/
  | gatherRequest (h : Word) (place : Nat)
  /-- R236. A gather read returns, and results leave in item order. -/
  | gatherReply (h : Word) (place idx : Nat)
  /-- R237. A SCATTER pairs an index and a value and stores into the Cupboard. -/
  | scatterStore (h : Word) (place : Nat)
  /-- R238. The index engine expands one reference into a coordinate and reference fibre. -/
  | levelExpand (h : Word) (place : Nat)
  /-- R239. A CHANNEL-mode AG pops or pushes one token. -/
  | channelAgElement (h : Word) (place : Nat)
  /-- R156. A strm.cond gate is reached and its sources launch. -/
  | streamGateLaunch (h : Word) (go : Nat)
  /-- R151. A waiting bar, drain or bar.cfg completes once its condition holds. -/
  | barRelease (h : Word)
  /-- R161. A nest finishes its granted elements, releasing thread accesses that wait on it. -/
  | nestComplete (h : Word)
  /-- R211. A tl.wait is released when its timeline reaches the value. -/
  | timelineWaitRelease (h : Word)
  /-- R217. A copy engine starts a copy once its gate is reached and earlier copies are done. -/
  | copyLaunch (h : Word) (cluster n : Nat)
  /-- R217. A copy completes, holds its join decrement and advances its timeline. -/
  | copyComplete (h : Word) (cluster n : Nat)
  /-- R249. A queued load, CSR or condense command writes the shadow plane. -/
  | planeLoadRun (h : Word) (k : Nat)
  /-- R249. A queued swap exchanges the planes once earlier work is done. -/
  | planeSwapRun (h : Word) (k : Nat)
  /-- R248. An engine runs a tile of 64 activation rows against the active plane. -/
  | matrixTile (h : Word) (k : Nat)
  /-- R246. An engine takes one activation row from its four edge links. -/
  | activationRow (h : Word) (k : Nat)
  /-- R262. A queued MIG command moves to an idle neighbouring engine. -/
  | matrixMigration (h : Word) (k : Nat) (move : Migration)
  /-- R267. A blocked push proceeds once room appears. -/
  | channelPushRelease (h : Word)
  /-- R268. A blocked pop or peek proceeds once an entry is published. -/
  | channelPopRelease (h : Word)
  /-- R271. Every 10 µs the deadlock detector samples blocked endpoints and finds cycles. -/
  | channelDetectorSample (die : Nat)
  /-- R274. An outbound bound channel forwards a published entry to the peer. -/
  | channelForward (ctx num : Nat)
  /-- R274. A peer acknowledges a forwarded entry, and it leaves the local channel; `credit` is what the far channel grants with it. -/
  | channelPeerAck (ctx : Nat) (ack : PeerAck)
  /-- R274. A UALink failure makes both ends of a bound channel BROKEN. -/
  | linkFailure (die port : Nat)
  /-- R298. A released line lock goes to the oldest waiter. -/
  | lockGrant (line : Nat)
  /-- R340. After its waits, done takes a commit number and publishes the write set. -/
  | taskCommit (h : Word)
  /-- R130. A space deadlock aborts one Cupboard holder, chosen by age. -/
  | cupboardSpaceAbort (die cluster : Nat)
  /-- R316. A resolver's retry action makes the frozen port translate again. -/
  | faultRetry (die index : Nat)
  /-- R316. A resolver's fail action ends the task FAULTED with XLATE. -/
  | faultFail (die index : Nat)
  /-- R320. The hang count reaches its interval and the task ends HANG with a blocked-port map. -/
  | hangDetect (h : Word)
  /-- R322. Pre-empts a task by its record's mode, Discard or Save. -/
  | preemptByRecord (die : Nat)
  /-- R323. Pre-empts a task with Discard, re-queueing it. -/
  | preemptDiscard (die : Nat)
  /-- R323. Pre-empts a task and retires it DISCARDED. -/
  | preemptDrop (die : Nat)
  /-- R329. Suspends the package keeping the retention rail. -/
  | suspendShallow (discard : Bool)
  /-- R329. Suspends the package and turns off the retention rail. -/
  | suspendDeep (discard : Bool)
  /-- R330. Deep suspend followed by the Wardrobe write. -/
  | suspendWardrobe (discard : Bool)
  /-- R330. After deep suspend, memory and the descriptor are copied to the safe tier. -/
  | wardrobeWrite
  /-- R331. Restores the rails, unfreezes channels, re-queues saved records and restarts the slots. -/
  | resume
  /-- R333. An enabled pending interrupt enters the Bureau trap handler. -/
  | bureauTrapEntry (die : Nat)
  /-- R336. A waiting wfi resumes once PEND AND MASK is not zero. -/
  | wfiWake (die : Nat)
  /-- R344. Every 1 µs a token distributes budget units to the dies. -/
  | budgetRingTurn
  /-- R346. Every 1 µs a region's temperature is sampled and its damage integral updated. -/
  | thermalSample (die region : Nat) (temp : BitVec 16)
  /-- R349. Sets the throttle step of the selected cluster. -/
  | throttleSetOne (die : Nat) (level : BitVec 3)
  /-- R349. Sets the throttle step on every enabled cluster of the die. -/
  | throttleSetAll (die : Nat) (level : BitVec 3)
  /-- R350. NOW reaches TIMER_CMP and TIMER becomes pending. -/
  | timerExpiry (die : Nat)
  /-- R351. An ECC event is counted, and an uncorrected one raises ECC_UNCORRECTED. -/
  | eccEvent (die region : Nat) (uncorrected : Bool) (victim : Word) (sub : BitVec 2)
  /-- R197. Invalidates one page of a context over every TLB. -/
  | tlbiPage (die : Nat) (ctx : BitVec 16)
  /-- R197. Invalidates all translations of a context. -/
  | tlbiContext (die : Nat) (ctx : BitVec 16)
  /-- R197. Invalidates translations of every context. -/
  | tlbiAll (die : Nat)
  /-- R197. An invalidation completes and BUSY falls. -/
  | tlbInvalidateComplete (die : Nat)
  /-- R199. Moves a home page to another slice, or refuses and sets ERR. -/
  | homeSliceWrite (die : Nat) (value : Word)
  /-- R199. Every line of a moved page has left the old slice. -/
  | homePageMoveComplete (die page : Nat)
  /-- R206. Setting GATE writes back and invalidates a way and clears AWAKE. -/
  | wayGate (die : Nat) (ways : BitVec 16)
  /-- R206. Clearing GATE starts waking a way. -/
  | wayWake (die : Nat) (ways : BitVec 16)
  /-- R206. 2 µs after a wake the way becomes usable. -/
  | wayAwake (die cluster slice way : Nat)
  /-- R356. A host write to DOORBELL sets HOST pending. -/
  | doorbellWrite (die : Nat) (value : BitVec 32)
  /-- R356. A Bureau read of DOORBELL clears HOST pending. -/
  | doorbellRead (die : Nat)
  /-- R362. Enables a host-coherent window, or disables it after writing back modified lines. -/
  | hcwCtlWrite (window : Nat) (value : Word)
  /-- R334. A write to a register with no behaviour of its own updates its writable fields. -/
  | registerWrite (die : Nat) (num : BitVec 12) (value : Word)
  /-- R287. A PCIe or CXL.io memory write lands at home as one external commit. -/
  | hostWrite (addr : Nat) (data : List Byte)
  /-- R287. A CXL.mem write of one line lands as an external commit. -/
  | cxlMemWrite (addr : Nat) (data : List Byte)
  /-- R363. A host access to a window line snoops the device, and a write lands as an external commit. -/
  | cxlCacheSnoop (addr : Nat) (data : Option (List Byte))
  /-- R287. A UALink peer write or forwarded entry lands as an external commit. -/
  | ualinkWrite (target : LinkTarget) (data : List Byte)
  /-- R288. A host or peer read returns committed state only. -/
  | hostRead (addr len : Nat)
  /-- R352. Power-good starts stage A bring-up. -/
  | powerGood
  /-- R352. A host write of GO starts stage B. -/
  | bootGo
  /-- R352. Stage B starts 50 ms after stage A ends without GO. -/
  | stageBTimeout
  /-- R352. Training and zeroing complete and stage C is announced. -/
  | stageBComplete (failing : Option StageFailure)
  /-- R353. The second-tier sweep passes and zeroes one 64 KiB block. -/
  | zeroingSweep (block : Nat)
  /-- R357. Stage B copies the Wardrobe back and sets the commit sequence to N. -/
  | wardrobeRestore
  /-- R359. A host write to RESYNC requests a summary into its buffer. -/
  | resyncRequest (value : Word)
  /-- R359. The summary lands, truncated if needed, and BUSY falls. -/
  | resyncSummaryWritten
  /-- R361. A write of ATTEST makes the device write a signed report. -/
  | attestRequest (value : Word)
  /-- R311. A portal request whose reply does not arrive in time completes by timeout and ends its task FAULTED with HOST. -/
  | portalTimeout (h : Word) (cell req : Nat)
  /-- R278. An unbind, or its acknowledgement, arrives from a bound UALink peer, and the local channel loses its link side and clears REMOTE. -/
  | peerUnbind (ctx num : Nat) (ack : Bool)
  /-- R280. A bind handshake from a UALink peer arrives and binds, or refuses to bind, a local OPEN channel as the far end. -/
  | peerBindHandshake (ctx num : Nat) (peer far : BitVec 16) (port : BitVec 4) (offer : PeerOffer)
deriving DecidableEq, Repr

end Sys2Proof
end

