-- ==== Sys2Proof/WellFormed.lean ====
section
/-! DEFINITION. Which instruction terms are well formed: the number fields in the ranges that R29, R34 and
R216 give them, and for a step of another agent the numbers of dies, slots, cells and places in the
ranges of R8, R10, R37 and R83. -/

namespace Sys2Proof

/-- A die number, 0 to 3. -/
def okDie (d : Nat) : Bool := d < 4

/-- A cluster number, 0 to 103 (R8). -/
def okCluster (c : Nat) : Bool := c < 104

/-- A cell index of a gang, at most 16 clusters of 64 cells (R37). -/
def okCell (c : Nat) : Bool := c < 1024

/-- The place of an edge generator: ten bits whose low two are reserved (R37). -/
def okPlace (p : Nat) : Bool := p < 1024 && p % 4 == 0

/-- The field rules of a `nest` word: one to five levels and a reduction level below them (R34). -/
def NestWord.wf (w : NestWord) : Bool :=
  1 ≤ w.lv.length && w.lv.length ≤ 5 && w.rl.toNat < w.lv.length

/-- Well-formed instructions. -/
def Instr.wf : Instr → Bool
  | .arm sec _ | .drain sec | .strmGo sec _ | .strmCond sec _ _ | .mxFmt sec _ _ | .mxArm sec _ _ => sec.toNat < 8
  | .nest w => w.wf
  | .tcopy tl _ | .tcopyDmd tl _ | .tcopyCancel _ tl => tl.toNat < 2
  | .tlWait tl _ | .tlRead _ tl | .tlAdv tl _ => tl.toNat < 8
  | .notificationWrite d off _ => okDie d && off.toNat % 4 == 0
  | .queueSlotMap d | .placementDecision d | .fundingStall d | .placementStall d | .channelDetectorSample d
  | .bureauTrapEntry d | .wfiWake d | .timerExpiry d | .preemptByRecord d | .preemptDiscard d | .preemptDrop d
  | .tlbInvalidateComplete d | .doorbellRead d | .throttleSetOne d _ | .throttleSetAll d _ | .tlbiPage d _
  | .tlbiContext d _ | .tlbiAll d | .homeSliceWrite d _ | .homePageMoveComplete d _ | .wayGate d _ | .wayWake d _
  | .doorbellWrite d _ | .registerWrite d _ _ => okDie d
  | .timeSliceEnd d s | .launchEntryRead d s => okDie d && s < 64
  | .stealRequest d c | .stealWithdraw d c | .cupboardSpaceAbort d c => okDie d && okCluster c
  | .cuFire _ c | .fibreUnitFire _ c | .joinStep _ c | .pmtEnter _ c | .pmtExit _ c | .ctlSeq _ c | .ctlPipe _ c
  | .ctlStrm _ c | .barNode _ c | .muAccess _ c | .portalReply _ c _ _ _ | .portalTimeout _ c _ => okCell c
  | .affineElement _ p | .gatherRequest _ p | .scatterStore _ p | .levelExpand _ p | .channelAgElement _ p
  | .gatherReply _ p _ => okPlace p
  | .copyLaunch _ c n | .copyComplete _ c n => c < 16 && n < 2
  | .planeLoadRun _ k | .planeSwapRun _ k | .matrixTile _ k | .activationRow _ k | .matrixMigration _ k _ => k < 16
  | .channelForward _ n | .channelPeerAck _ ⟨n, _, _⟩ | .peerUnbind _ n _ | .peerBindHandshake _ n _ _ _ _ => n < 65536
  | .linkFailure d p => okDie d && p < 16
  | .faultRetry d i | .faultFail d i => okDie d && i < 1024
  | .thermalSample d r _ | .eccEvent d r _ _ _ => okDie d && r < 107
  | .wayAwake d c s w => okDie d && okCluster c && s < 4 && w < 16
  | .hcwCtlWrite w _ => w < 8
  | .hostWrite _ data => data.length ≤ 4096
  | .cxlMemWrite a data => a % 64 == 0 && data.length == 64
  | .cxlCacheSnoop a data => a % 64 == 0 && (match data with | none => true | some bs => bs.length == 64)
  | .hostRead _ n => n ≤ 4096
  | .add .. | .sub .. | .and .. | .or .. | .xor .. | .sll .. | .srl .. | .sra .. | .slt .. | .sltu .. | .mul ..
  | .mulh .. | .mulhu .. | .div .. | .divu .. | .rem .. | .remu .. | .min .. | .max .. | .minu .. | .maxu ..
  | .clz .. | .ctz .. | .pop .. | .addi .. | .andi .. | .ori .. | .xori .. | .slli .. | .srli .. | .srai ..
  | .slti .. | .li .. | .lih .. | .addiw .. | .beq .. | .bne .. | .blt .. | .bge .. | .bltu .. | .bgeu ..
  | .jal .. | .jalr .. | .ldsB .. | .ldsH .. | .ldsW .. | .ldsD .. | .ldsBu .. | .ldsHu .. | .ldsWu ..
  | .stsB .. | .stsH .. | .stsW .. | .stsD .. | .ldgB .. | .ldgH .. | .ldgW .. | .ldgD .. | .ldgBu .. | .ldgHu ..
  | .ldgWu .. | .stgB .. | .stgH .. | .stgW .. | .stgD .. | .arBegin .. | .arLdW .. | .arLdD .. | .arStW ..
  | .arStD .. | .arEnd | .redAddW .. | .redAddD .. | .redMinW .. | .redMaxW .. | .redOrW .. | .redAndW ..
  | .redFaddS .. | .sysRd .. | .sysWr .. | .sysSet .. | .sysClr .. | .trap .. | .eret | .wfi | .fence .. | .cfgLoad ..
  | .bar | .barCfg | .spawn .. | .spawnj .. | .done | .yield | .abort .. | .tskSelf .. | .tskTs .. | .chgAdd ..
  | .chgRead .. | .chgLow .. | .chgHold .. | .chgSelf .. | .chOpen .. | .chPushW .. | .chPushD .. | .chPopW ..
  | .chPopD .. | .chPeek .. | .chClose .. | .chStat .. | .chBind .. | .mxLds .. | .mxSwap .. | .mxGroup ..
  | .mxCsr .. | .mxCond .. | .mxStat .. | .mxClr .. | .walkerArmDelivery .. | .recordAging .. | .admission ..
  | .prefixEnd .. | .holdTimerExpiry .. | .barRelease .. | .nestComplete .. | .timelineWaitRelease ..
  | .channelPushRelease .. | .channelPopRelease .. | .taskCommit .. | .hangDetect .. | .streamGateLaunch ..
  | .lockGrant .. | .suspendShallow .. | .suspendDeep .. | .suspendWardrobe .. | .wardrobeWrite | .resume
  | .budgetRingTurn | .powerGood | .bootGo | .stageBTimeout | .wardrobeRestore | .resyncSummaryWritten
  | .ualinkWrite .. | .stageBComplete .. | .zeroingSweep .. | .resyncRequest .. | .attestRequest .. => true

end Sys2Proof
end

