-- ==== Sys2Proof/Decode.lean ====
section
/-! DEFINITION. The decoder of control words (R28–R35, R45, R46), total on any bytes, and the encoder, both
written from the encoding tables of the spec. -/

namespace Sys2Proof

/-- Why a control word is no instruction (R46). Each is raised at issue as ILLEGAL_OP; `short` says that the bytes
given hold no whole instruction. -/
inductive Reject where
  | short
  | zeroWord
  | unassignedMajor
  | unlistedMinor
  | reservedBits
  | numberRange
deriving DecidableEq, Repr

/-- Bits [lo + n − 1 : lo] of a word. -/
abbrev field {m : Nat} (w : BitVec m) (lo n : Nat) : BitVec n := w.extractLsb' lo n

/-- The byte string of a word, low byte first (R2). -/
def leBytes {m : Nat} (w : BitVec m) (n : Nat) : List Byte := (List.range n).map fun i => w.extractLsb' (8 * i) 8

/-- The number that bytes hold, low byte first (R2). -/
def ofLeBytes : List Byte → Nat
  | [] => 0
  | b :: bs => b.toNat + 256 * ofLeBytes bs

/-- The first `n` bytes as a word of `m` bits. -/
def wordAt (bs : List Byte) (m n : Nat) : BitVec m := BitVec.ofNat m (ofLeBytes (bs.take n))

/-- Accept `i` when the reserved field is zero (R4, R29). -/
def needZero {n : Nat} (r : BitVec n) (i : Instr) : Except Reject Instr :=
  if r = 0 then .ok i else .error .reservedBits

/-- Accept `i` when a timeline or section field is below 8 (R29). -/
def needNumber (n : BitVec 5) (i : Instr) : Except Reject Instr :=
  if n.toNat < 8 then .ok i else .error .numberRange

/-- Major 0x01, the ALU group (R138). -/
def decodeAlu (w : BitVec 32) : Except Reject Instr :=
  let d := field w 7 5
  let a := field w 12 5
  let b := field w 17 5
  match (field w 22 10).toNat with
  | 0 => .ok (.add d a b)
  | 1 => .ok (.sub d a b)
  | 2 => .ok (.and d a b)
  | 3 => .ok (.or d a b)
  | 4 => .ok (.xor d a b)
  | 5 => .ok (.sll d a b)
  | 6 => .ok (.srl d a b)
  | 7 => .ok (.sra d a b)
  | 8 => .ok (.slt d a b)
  | 9 => .ok (.sltu d a b)
  | 10 => .ok (.mul d a b)
  | 11 => .ok (.mulh d a b)
  | 12 => .ok (.mulhu d a b)
  | 13 => .ok (.div d a b)
  | 14 => .ok (.divu d a b)
  | 15 => .ok (.rem d a b)
  | 16 => .ok (.remu d a b)
  | 17 => .ok (.min d a b)
  | 18 => .ok (.max d a b)
  | 19 => .ok (.minu d a b)
  | 20 => .ok (.maxu d a b)
  | 21 => needZero b (.clz d a)
  | 22 => needZero b (.ctz d a)
  | 23 => needZero b (.pop d a)
  | _ => .error .unlistedMinor

/-- Major 0x02, the ALUI group (R139). A shift with imm12[11:6] not zero is refused (R46). -/
def decodeAlui (w : BitVec 32) : Except Reject Instr :=
  let d := field w 7 5
  let a := field w 12 5
  let imm := field w 20 12
  let sh := field w 20 6
  match (field w 17 3).toNat with
  | 0 => .ok (.addi d a imm)
  | 1 => .ok (.andi d a imm)
  | 2 => .ok (.ori d a imm)
  | 3 => .ok (.xori d a imm)
  | 4 => needZero (field w 26 6) (.slli d a sh)
  | 5 => needZero (field w 26 6) (.srli d a sh)
  | 6 => needZero (field w 26 6) (.srai d a sh)
  | _ => .ok (.slti d a imm)

/-- Major 0x04, branches, Format C (R141). -/
def decodeBranch (w : BitVec 32) : Except Reject Instr :=
  let a := field w 7 5
  let b := field w 12 5
  let off := field w 20 12
  match (field w 17 3).toNat with
  | 0 => .ok (.beq a b off)
  | 1 => .ok (.bne a b off)
  | 2 => .ok (.blt a b off)
  | 3 => .ok (.bge a b off)
  | 4 => .ok (.bltu a b off)
  | 5 => .ok (.bgeu a b off)
  | _ => .error .unlistedMinor

/-- Major 0x06, `jalr`, whose FN3 must be 0 (R142). -/
def decodeJalr (w : BitVec 32) : Except Reject Instr :=
  if field w 17 3 = 0 then .ok (.jalr (field w 7 5) (field w 12 5) (field w 20 12)) else .error .unlistedMinor

/-- Major 0x07, scratch loads, Format M (R143, R144). -/
def decodeLds (w : BitVec 32) : Except Reject Instr :=
  let x := field w 7 5
  let base := field w 12 5
  let off := field w 20 12
  match (field w 17 3).toNat with
  | 0 => .ok (.ldsB x base off)
  | 1 => .ok (.ldsH x base off)
  | 2 => .ok (.ldsW x base off)
  | 3 => .ok (.ldsD x base off)
  | 4 => .ok (.ldsBu x base off)
  | 5 => .ok (.ldsHu x base off)
  | 6 => .ok (.ldsWu x base off)
  | _ => .error .unlistedMinor

/-- Major 0x08, scratch stores (R143, R144). -/
def decodeSts (w : BitVec 32) : Except Reject Instr :=
  let x := field w 7 5
  let base := field w 12 5
  let off := field w 20 12
  match (field w 17 3).toNat with
  | 0 => .ok (.stsB x base off)
  | 1 => .ok (.stsH x base off)
  | 2 => .ok (.stsW x base off)
  | 3 => .ok (.stsD x base off)
  | _ => .error .unlistedMinor

/-- Major 0x09, global loads (R143, R145). -/
def decodeLdg (w : BitVec 32) : Except Reject Instr :=
  let x := field w 7 5
  let base := field w 12 5
  let off := field w 20 12
  match (field w 17 3).toNat with
  | 0 => .ok (.ldgB x base off)
  | 1 => .ok (.ldgH x base off)
  | 2 => .ok (.ldgW x base off)
  | 3 => .ok (.ldgD x base off)
  | 4 => .ok (.ldgBu x base off)
  | 5 => .ok (.ldgHu x base off)
  | 6 => .ok (.ldgWu x base off)
  | _ => .error .unlistedMinor

/-- Major 0x0A, global stores (R143, R146). -/
def decodeStg (w : BitVec 32) : Except Reject Instr :=
  let x := field w 7 5
  let base := field w 12 5
  let off := field w 20 12
  match (field w 17 3).toNat with
  | 0 => .ok (.stgB x base off)
  | 1 => .ok (.stgH x base off)
  | 2 => .ok (.stgW x base off)
  | 3 => .ok (.stgD x base off)
  | _ => .error .unlistedMinor

/-- Major 0x0B, atomic regions (R299). -/
def decodeAtomic (w : BitVec 32) : Except Reject Instr :=
  let d := field w 7 5
  let a := field w 12 5
  let b := field w 17 5
  match (field w 22 10).toNat with
  | 0 => needZero (d ++ b) (.arBegin a)
  | 1 => needZero b (.arLdW d a)
  | 2 => needZero b (.arLdD d a)
  | 3 => needZero (d) (.arStW a b)
  | 4 => needZero (d) (.arStD a b)
  | 5 => needZero (d ++ a ++ b) .arEnd
  | _ => .error .unlistedMinor

/-- Major 0x0C, commit-time reductions (R301). -/
def decodeRed (w : BitVec 32) : Except Reject Instr :=
  let d := field w 7 5
  let a := field w 12 5
  let b := field w 17 5
  match (field w 22 10).toNat with
  | 0 => needZero (d) (.redAddW a b)
  | 1 => needZero (d) (.redAddD a b)
  | 2 => needZero (d) (.redMinW a b)
  | 3 => needZero (d) (.redMaxW a b)
  | 4 => needZero (d) (.redOrW a b)
  | 5 => needZero (d) (.redAndW a b)
  | 6 => needZero (d) (.redFaddS a b)
  | _ => .error .unlistedMinor

/-- Major 0x0D, the system group, Format S (R295, R334–R336). -/
def decodeSys (w : BitVec 32) : Except Reject Instr :=
  let d := field w 7 5
  let a := field w 12 5
  let num := field w 20 12
  match (field w 17 3).toNat with
  | 0 => needZero a (.sysRd d num)
  | 1 => needZero d (.sysWr num a)
  | 2 => .ok (.sysSet d num a)
  | 3 => .ok (.sysClr d num a)
  | 4 => needZero (a ++ d) (.trap num)
  | 5 => needZero (num ++ a ++ d) .eret
  | 6 => needZero (num ++ a ++ d) .wfi
  | _ => needZero (field w 23 9 ++ a ++ d) (.fence (field w 20 3))

/-- Major 0x10, stream commands (R149). -/
def decodeStream (w : BitVec 32) : Except Reject Instr :=
  let d := field w 7 5
  let a := field w 12 5
  let b := field w 17 5
  match (field w 22 10).toNat with
  | 0 => needZero (d ++ b) (.cfgLoad a)
  | 1 => needZero (d ++ a ++ b) .bar
  | 2 => needZero (d ++ a ++ b) .barCfg
  | 3 => if a = 0 then needNumber d (.arm d b) else .error .reservedBits
  | 4 => if (a ++ b : BitVec 10) = 0 then needNumber d (.drain d) else .error .reservedBits
  | 5 => if b = 0 then needNumber d (.strmGo d a) else .error .reservedBits
  | 6 => needNumber d (.strmCond d a b)
  | _ => .error .unlistedMinor

/-- Major 0x12, copies: N of 2 and above is refused (R216). -/
def decodeCopy (w : BitVec 32) : Except Reject Instr :=
  let d := field w 7 5
  let a := field w 12 5
  let b := field w 17 5
  match (field w 22 10).toNat with
  | 0 => if d.toNat < 2 then needZero b (.tcopy d a) else .error .numberRange
  | 1 => if d.toNat < 2 then needZero b (.tcopyDmd d a) else .error .numberRange
  | 2 => if a.toNat < 2 then needZero b (.tcopyCancel d a) else .error .numberRange
  | _ => .error .unlistedMinor

/-- Major 0x13, timelines (R210–R213): `tl.adv` refuses N below 4. -/
def decodeTimeline (w : BitVec 32) : Except Reject Instr :=
  let d := field w 7 5
  let a := field w 12 5
  let b := field w 17 5
  match (field w 22 10).toNat with
  | 0 => if a = 0 then needNumber d (.tlWait d b) else .error .reservedBits
  | 1 => if b = 0 then needNumber a (.tlRead d a) else .error .reservedBits
  | 2 => if a = 0 then needNumber d (.tlAdv d b) else .error .reservedBits
  | _ => .error .unlistedMinor

/-- Major 0x15, task commands (R95, R96, R340–R342). -/
def decodeTask (w : BitVec 32) : Except Reject Instr :=
  let d := field w 7 5
  let a := field w 12 5
  let b := field w 17 5
  match (field w 22 10).toNat with
  | 0 => needZero (d ++ b) (.spawn a)
  | 1 => needZero (d) (.spawnj a b)
  | 2 => needZero (d ++ a ++ b) .done
  | 3 => needZero (d ++ a ++ b) .yield
  | 4 => needZero (d ++ b) (.abort a)
  | 5 => needZero (a ++ b) (.tskSelf d)
  | 6 => needZero (a ++ b) (.tskTs d)
  | _ => .error .unlistedMinor

/-- Major 0x16, charge commands (R118–R120). -/
def decodeCharge (w : BitVec 32) : Except Reject Instr :=
  let d := field w 7 5
  let a := field w 12 5
  let b := field w 17 5
  match (field w 22 10).toNat with
  | 0 => .ok (.chgAdd d a b)
  | 1 => needZero b (.chgRead d a)
  | 2 => needZero b (.chgLow d a)
  | 3 => needZero b (.chgHold d a)
  | 4 => needZero (a ++ b) (.chgSelf d)
  | _ => .error .unlistedMinor

/-- Major 0x17, channel commands (R275). -/
def decodeChannel (w : BitVec 32) : Except Reject Instr :=
  let d := field w 7 5
  let a := field w 12 5
  let b := field w 17 5
  match (field w 22 10).toNat with
  | 0 => needZero b (.chOpen d a)
  | 1 => needZero (d) (.chPushW a b)
  | 2 => needZero (d) (.chPushD a b)
  | 3 => needZero b (.chPopW d a)
  | 4 => .ok (.chPopD d a b)
  | 5 => needZero b (.chPeek d a)
  | 6 => needZero b (.chClose d a)
  | 7 => needZero b (.chStat d a)
  | 8 => .ok (.chBind d a b)
  | _ => .error .unlistedMinor

/-- Major 0x18, matrix commands (R252). -/
def decodeMatrix (w : BitVec 32) : Except Reject Instr :=
  let d := field w 7 5
  let a := field w 12 5
  let b := field w 17 5
  match (field w 22 10).toNat with
  | 0 => needNumber d (.mxFmt d a b)
  | 1 => needZero (d) (.mxLds a b)
  | 2 => needZero (d ++ b) (.mxSwap a)
  | 3 => needNumber d (.mxArm d a b)
  | 4 => needZero (d) (.mxGroup a b)
  | 5 => needZero (d) (.mxCsr a b)
  | 6 => needZero (d) (.mxCond a b)
  | 7 => needZero b (.mxStat d a)
  | 8 => needZero (d ++ b) (.mxClr a)
  | _ => .error .unlistedMinor

/-- The instructions of one 32-bit word (R45). Majors 0x03 and 0x11 are longer and not among them. -/
def decodeWord (w : BitVec 32) : Except Reject Instr :=
  if w = 0 then .error .zeroWord
  else match (field w 0 7).toNat with
  | 0x01 => decodeAlu w
  | 0x02 => decodeAlui w
  | 0x04 => decodeBranch w
  | 0x05 => .ok (.jal (field w 7 5) (field w 12 20))
  | 0x06 => decodeJalr w
  | 0x07 => decodeLds w
  | 0x08 => decodeSts w
  | 0x09 => decodeLdg w
  | 0x0A => decodeStg w
  | 0x0B => decodeAtomic w
  | 0x0C => decodeRed w
  | 0x0D => decodeSys w
  | 0x10 => decodeStream w
  | 0x12 => decodeCopy w
  | 0x13 => decodeTimeline w
  | 0x15 => decodeTask w
  | 0x16 => decodeCharge w
  | 0x17 => decodeChannel w
  | 0x18 => decodeMatrix w
  | _ => .error .unassignedMajor

/-- Major 0x03, Format W: a Format A word, then one word holding imm32 (R30, R140). -/
def decodeWide (w : BitVec 32) (imm : BitVec 32) : Except Reject Instr :=
  let d := field w 7 5
  let a := field w 12 5
  let b := field w 17 5
  match (field w 22 10).toNat with
  | 0 => needZero (b ++ a) (.li d imm)
  | 1 => needZero b (.lih d a imm)
  | 2 => needZero b (.addiw d a imm)
  | _ => .error .unlistedMinor

/-- Level k of a `nest` word: its extent field and its strides d, a, b from bit 98 + 30k (R34, R35). -/
def nestLevel (w : BitVec 256) (k : Nat) : NestLevel :=
  { ext := field w (48 + 10 * k) 10, sd := field w (98 + 30 * k) 10, sa := field w (108 + 30 * k) 10,
    sb := field w (118 + 30 * k) 10 }

/-- Major 0x11, Format N, the `nest` word (R34, R35). The operation code and the operand pattern are checked at
issue (R158). -/
def decodeNest (w : BitVec 256) : Except Reject Instr :=
  let n := (field w 22 3).toNat + 1
  if 5 < n then .error .numberRange
  else if field w 31 1 ≠ 0 ∨ field w 45 3 ≠ 0 ∨ field w 248 8 ≠ 0 then .error .reservedBits
  else if ((List.range 5).drop n).any (fun k => nestLevel w k ≠ ⟨0, 0, 0, 0⟩) then .error .reservedBits
  else if n ≤ (field w 40 3).toNat then .error .numberRange
  else .ok (.nest
    { xd := field w 7 5, xa := field w 12 5, xb := field w 17 5, lv := (List.range n).map (nestLevel w),
      rm := field w 25 2, acc := field w 27 1 = 1, ds := field w 28 1 = 1, as := field w 29 1 = 1,
      bs := field w 30 1 = 1, op := field w 32 8, rl := field w 40 3, sat := field w 43 1 = 1,
      scan := field w 44 1 = 1 })

/-- The instruction at the head of `bs` and its length in bytes, decoded by its own bits (R32). -/
def decode (bs : List Byte) : Except Reject (Instr × Nat) :=
  if bs.length < 4 then .error .short
  else
    let w := wordAt bs 32 4
    match (field w 0 7).toNat with
    | 0x03 =>
      if bs.length < 8 then .error .short
      else (decodeWide w (wordAt (bs.drop 4) 32 4)).map fun i => (i, 8)
    | 0x11 =>
      if bs.length < 32 then .error .short
      else (decodeNest (wordAt bs 256 32)).map fun i => (i, 32)
    | _ => (decodeWord w).map fun i => (i, 4)

/-- How many bytes the instruction at an address takes, read from its first word alone (R28). -/
def instrLength (w : BitVec 32) : Nat :=
  match (field w 0 7).toNat with
  | 0x03 => 8
  | 0x11 => 32
  | _ => 4

/-- The instruction the decoder reads from `w`, whose bits above `nbits` are zero, laid out low byte first. -/
def decodeTableWord (nbits w : Nat) : Option Instr :=
  match decode (leBytes (BitVec.ofNat 256 (w % 2 ^ nbits)) 32) with
  | .ok (i, _) => some i
  | .error _ => none

/-! ### The encoder -/

/-- A Format A word (R28). -/
def encA (major : BitVec 7) (d a b : BitVec 5) (fn : BitVec 10) : BitVec 32 := fn ++ b ++ a ++ d ++ major

/-- A Format B, M or S word: [31:20], FN3 or size, xa, xd, major (R28). -/
def encB (major : BitVec 7) (d a : BitVec 5) (fn3 : BitVec 3) (imm : BitVec 12) : BitVec 32 :=
  imm ++ fn3 ++ a ++ d ++ major

/-- A Format J word (R28). -/
def encJ (major : BitVec 7) (d : BitVec 5) (off : BitVec 20) : BitVec 32 := off ++ d ++ major

/-- One bit. -/
def bit1 (b : Bool) : BitVec 1 := BitVec.ofBool b

/-- Level k of the list, or zeros at and above the level count (R35). -/
def levelOr (l : List NestLevel) (k : Nat) : NestLevel := l.getD k ⟨0, 0, 0, 0⟩

/-- The strides d, a, b of one level, from the low end (R35). -/
def encStrides (l : NestLevel) : BitVec 30 := l.sb ++ l.sa ++ l.sd

/-- The 256-bit `nest` word (R34). -/
def encNest (w : NestWord) : BitVec 256 :=
  let l := levelOr w.lv
  let lo : BitVec 32 := (0 : BitVec 1) ++ bit1 w.bs ++ bit1 w.as ++ bit1 w.ds ++ bit1 w.acc ++ w.rm ++
    BitVec.ofNat 3 (w.lv.length - 1) ++ w.xb ++ w.xa ++ w.xd ++ (0x11 : BitVec 7)
  let mid : BitVec 16 := (0 : BitVec 3) ++ bit1 w.scan ++ bit1 w.sat ++ w.rl ++ w.op
  let exts : BitVec 50 := (l 4).ext ++ (l 3).ext ++ (l 2).ext ++ (l 1).ext ++ (l 0).ext
  let strs : BitVec 150 := encStrides (l 4) ++ encStrides (l 3) ++ encStrides (l 2) ++ encStrides (l 1) ++
    encStrides (l 0)
  (0 : BitVec 8) ++ strs ++ exts ++ mid ++ lo

/-- The 32-bit words of a control word's instruction, first word first; none for a step of another agent. -/
def encode : Instr → Option (List (BitVec 32))
  | .add d a b => some [encA 0x01 d a b 0]
  | .sub d a b => some [encA 0x01 d a b 1]
  | .and d a b => some [encA 0x01 d a b 2]
  | .or d a b => some [encA 0x01 d a b 3]
  | .xor d a b => some [encA 0x01 d a b 4]
  | .sll d a b => some [encA 0x01 d a b 5]
  | .srl d a b => some [encA 0x01 d a b 6]
  | .sra d a b => some [encA 0x01 d a b 7]
  | .slt d a b => some [encA 0x01 d a b 8]
  | .sltu d a b => some [encA 0x01 d a b 9]
  | .mul d a b => some [encA 0x01 d a b 10]
  | .mulh d a b => some [encA 0x01 d a b 11]
  | .mulhu d a b => some [encA 0x01 d a b 12]
  | .div d a b => some [encA 0x01 d a b 13]
  | .divu d a b => some [encA 0x01 d a b 14]
  | .rem d a b => some [encA 0x01 d a b 15]
  | .remu d a b => some [encA 0x01 d a b 16]
  | .min d a b => some [encA 0x01 d a b 17]
  | .max d a b => some [encA 0x01 d a b 18]
  | .minu d a b => some [encA 0x01 d a b 19]
  | .maxu d a b => some [encA 0x01 d a b 20]
  | .clz d a => some [encA 0x01 d a 0 21]
  | .ctz d a => some [encA 0x01 d a 0 22]
  | .pop d a => some [encA 0x01 d a 0 23]
  | .addi d a imm => some [encB 0x02 d a 0 imm]
  | .andi d a imm => some [encB 0x02 d a 1 imm]
  | .ori d a imm => some [encB 0x02 d a 2 imm]
  | .xori d a imm => some [encB 0x02 d a 3 imm]
  | .slli d a sh => some [encB 0x02 d a 4 ((0 : BitVec 6) ++ sh)]
  | .srli d a sh => some [encB 0x02 d a 5 ((0 : BitVec 6) ++ sh)]
  | .srai d a sh => some [encB 0x02 d a 6 ((0 : BitVec 6) ++ sh)]
  | .slti d a imm => some [encB 0x02 d a 7 imm]
  | .li d imm => some [encA 0x03 d 0 0 0, imm]
  | .lih d a imm => some [encA 0x03 d a 0 1, imm]
  | .addiw d a imm => some [encA 0x03 d a 0 2, imm]
  | .beq a b off => some [encB 0x04 a b 0 off]
  | .bne a b off => some [encB 0x04 a b 1 off]
  | .blt a b off => some [encB 0x04 a b 2 off]
  | .bge a b off => some [encB 0x04 a b 3 off]
  | .bltu a b off => some [encB 0x04 a b 4 off]
  | .bgeu a b off => some [encB 0x04 a b 5 off]
  | .jal d off => some [encJ 0x05 d off]
  | .jalr d a imm => some [encB 0x06 d a 0 imm]
  | .ldsB d base off => some [encB 0x07 d base 0 off]
  | .ldsH d base off => some [encB 0x07 d base 1 off]
  | .ldsW d base off => some [encB 0x07 d base 2 off]
  | .ldsD d base off => some [encB 0x07 d base 3 off]
  | .ldsBu d base off => some [encB 0x07 d base 4 off]
  | .ldsHu d base off => some [encB 0x07 d base 5 off]
  | .ldsWu d base off => some [encB 0x07 d base 6 off]
  | .stsB src base off => some [encB 0x08 src base 0 off]
  | .stsH src base off => some [encB 0x08 src base 1 off]
  | .stsW src base off => some [encB 0x08 src base 2 off]
  | .stsD src base off => some [encB 0x08 src base 3 off]
  | .ldgB d base off => some [encB 0x09 d base 0 off]
  | .ldgH d base off => some [encB 0x09 d base 1 off]
  | .ldgW d base off => some [encB 0x09 d base 2 off]
  | .ldgD d base off => some [encB 0x09 d base 3 off]
  | .ldgBu d base off => some [encB 0x09 d base 4 off]
  | .ldgHu d base off => some [encB 0x09 d base 5 off]
  | .ldgWu d base off => some [encB 0x09 d base 6 off]
  | .stgB src base off => some [encB 0x0A src base 0 off]
  | .stgH src base off => some [encB 0x0A src base 1 off]
  | .stgW src base off => some [encB 0x0A src base 2 off]
  | .stgD src base off => some [encB 0x0A src base 3 off]
  | .arBegin a => some [encA 0x0B 0 a 0 0]
  | .arLdW d a => some [encA 0x0B d a 0 1]
  | .arLdD d a => some [encA 0x0B d a 0 2]
  | .arStW a b => some [encA 0x0B 0 a b 3]
  | .arStD a b => some [encA 0x0B 0 a b 4]
  | .arEnd => some [encA 0x0B 0 0 0 5]
  | .redAddW a b => some [encA 0x0C 0 a b 0]
  | .redAddD a b => some [encA 0x0C 0 a b 1]
  | .redMinW a b => some [encA 0x0C 0 a b 2]
  | .redMaxW a b => some [encA 0x0C 0 a b 3]
  | .redOrW a b => some [encA 0x0C 0 a b 4]
  | .redAndW a b => some [encA 0x0C 0 a b 5]
  | .redFaddS a b => some [encA 0x0C 0 a b 6]
  | .sysRd d num => some [encB 0x0D d 0 0 num]
  | .sysWr num a => some [encB 0x0D 0 a 1 num]
  | .sysSet d num a => some [encB 0x0D d a 2 num]
  | .sysClr d num a => some [encB 0x0D d a 3 num]
  | .trap imm => some [encB 0x0D 0 0 4 imm]
  | .eret => some [encB 0x0D 0 0 5 0]
  | .wfi => some [encB 0x0D 0 0 6 0]
  | .fence k => some [encB 0x0D 0 0 7 ((0 : BitVec 9) ++ k)]
  | .cfgLoad a => some [encA 0x10 0 a 0 0]
  | .bar => some [encA 0x10 0 0 0 1]
  | .barCfg => some [encA 0x10 0 0 0 2]
  | .arm sec b => some [encA 0x10 sec 0 b 3]
  | .drain sec => some [encA 0x10 sec 0 0 4]
  | .strmGo sec a => some [encA 0x10 sec a 0 5]
  | .strmCond sec a b => some [encA 0x10 sec a b 6]
  | .nest w => some ((List.range 8).map fun k => field (encNest w) (32 * k) 32)
  | .tcopy tl a => some [encA 0x12 tl a 0 0]
  | .tcopyDmd tl a => some [encA 0x12 tl a 0 1]
  | .tcopyCancel d tl => some [encA 0x12 d tl 0 2]
  | .tlWait tl b => some [encA 0x13 tl 0 b 0]
  | .tlRead d tl => some [encA 0x13 d tl 0 1]
  | .tlAdv tl b => some [encA 0x13 tl 0 b 2]
  | .spawn a => some [encA 0x15 0 a 0 0]
  | .spawnj a b => some [encA 0x15 0 a b 1]
  | .done => some [encA 0x15 0 0 0 2]
  | .yield => some [encA 0x15 0 0 0 3]
  | .abort a => some [encA 0x15 0 a 0 4]
  | .tskSelf d => some [encA 0x15 d 0 0 5]
  | .tskTs d => some [encA 0x15 d 0 0 6]
  | .chgAdd d a b => some [encA 0x16 d a b 0]
  | .chgRead d a => some [encA 0x16 d a 0 1]
  | .chgLow d a => some [encA 0x16 d a 0 2]
  | .chgHold d a => some [encA 0x16 d a 0 3]
  | .chgSelf d => some [encA 0x16 d 0 0 4]
  | .chOpen d a => some [encA 0x17 d a 0 0]
  | .chPushW a b => some [encA 0x17 0 a b 1]
  | .chPushD a b => some [encA 0x17 0 a b 2]
  | .chPopW d a => some [encA 0x17 d a 0 3]
  | .chPopD d a b => some [encA 0x17 d a b 4]
  | .chPeek d a => some [encA 0x17 d a 0 5]
  | .chClose d a => some [encA 0x17 d a 0 6]
  | .chStat d a => some [encA 0x17 d a 0 7]
  | .chBind d a b => some [encA 0x17 d a b 8]
  | .mxFmt sec a b => some [encA 0x18 sec a b 0]
  | .mxLds a b => some [encA 0x18 0 a b 1]
  | .mxSwap a => some [encA 0x18 0 a 0 2]
  | .mxArm sec a b => some [encA 0x18 sec a b 3]
  | .mxGroup a b => some [encA 0x18 0 a b 4]
  | .mxCsr a b => some [encA 0x18 0 a b 5]
  | .mxCond a b => some [encA 0x18 0 a b 6]
  | .mxStat d a => some [encA 0x18 d a 0 7]
  | .mxClr a => some [encA 0x18 0 a 0 8]
  | .notificationWrite .. | .queueSlotMap .. | .timeSliceEnd .. | .launchEntryRead .. | .walkerArmDelivery ..
  | .recordAging .. | .placementDecision .. | .fundingStall .. | .placementStall .. | .admission ..
  | .stealRequest .. | .stealWithdraw .. | .prefixEnd .. | .holdTimerExpiry .. | .cuFire .. | .fibreUnitFire ..
  | .joinStep .. | .portalReply .. | .pmtEnter .. | .pmtExit .. | .ctlSeq .. | .ctlPipe .. | .ctlStrm ..
  | .barNode .. | .muAccess .. | .affineElement .. | .gatherRequest .. | .gatherReply .. | .scatterStore ..
  | .levelExpand .. | .channelAgElement .. | .streamGateLaunch .. | .barRelease .. | .nestComplete ..
  | .timelineWaitRelease .. | .copyLaunch .. | .copyComplete .. | .planeLoadRun .. | .planeSwapRun ..
  | .matrixTile .. | .activationRow .. | .matrixMigration .. | .channelPushRelease .. | .channelPopRelease ..
  | .channelDetectorSample .. | .channelForward .. | .channelPeerAck .. | .linkFailure .. | .lockGrant ..
  | .taskCommit .. | .cupboardSpaceAbort .. | .faultRetry .. | .faultFail .. | .hangDetect ..
  | .preemptByRecord .. | .preemptDiscard .. | .preemptDrop .. | .suspendShallow .. | .suspendDeep ..
  | .suspendWardrobe .. | .wardrobeWrite | .resume | .bureauTrapEntry .. | .wfiWake .. | .budgetRingTurn
  | .thermalSample .. | .throttleSetOne .. | .throttleSetAll .. | .timerExpiry .. | .eccEvent .. | .tlbiPage ..
  | .tlbiContext .. | .tlbiAll .. | .tlbInvalidateComplete .. | .homeSliceWrite .. | .homePageMoveComplete ..
  | .wayGate .. | .wayWake .. | .wayAwake .. | .doorbellWrite .. | .doorbellRead .. | .hcwCtlWrite ..
  | .registerWrite .. | .hostWrite .. | .cxlMemWrite .. | .cxlCacheSnoop .. | .ualinkWrite .. | .hostRead ..
  | .powerGood | .bootGo | .stageBTimeout | .stageBComplete .. | .zeroingSweep .. | .wardrobeRestore
  | .resyncRequest .. | .resyncSummaryWritten | .attestRequest .. | .portalTimeout .. | .peerUnbind ..
  | .peerBindHandshake .. => none

/-- The bytes of an instruction's words, in rising address order (R2). -/
def encodeBytes (i : Instr) : Option (List Byte) :=
  (encode i).map fun ws => ws.flatMap fun w => leBytes w 4

end Sys2Proof
end

