-- ==== Sys2Proof/Config.lean ====
section
/-! DEFINITION. The fixed numbers of the part (R8–R10) and its free values: constants with no body, applied to a
counter of the state, for what the spec leaves open. -/

namespace Sys2Proof.Config

/-- Cluster positions of a die (R8). -/
def clusters : Nat := 104

/-- The most packets' worth of grains a die budget holds (R103). -/
def budgetCap : Nat := 2 ^ 38

/-- Bytes of scratch in a cell (R189). -/
def scratchBytes : Nat := 98304

/-- The share of one cluster's Cupboard that a task may hold (R130). -/
def shareCap : Nat := 262144

/-- A cluster's Cupboard (R10). -/
def cupboardBytes : Nat := 524288

/-- Lines of the read set that one cluster tracks (R289). -/
def readSetLines : Nat := 4096

/-- Lines of a die's RDC: 32 MiB (R8, R201). -/
def rdcLines : Nat := 262144

/-- Lines of an instruction cache: 16 KiB (R134). -/
def icacheLines : Nat := 128

/-- Free value (log entry 12): a byte that the spec leaves open. -/
opaque freeByte : Nat → BitVec 8

/-- Free value (log entry 60): which line leaves a full RDC. -/
opaque rdcVictim : Nat → Nat

/-- Free value (log entry 62): when stage A of the n-th start ends, in microseconds; the model takes it modulo 10,001
(R352). -/
opaque stageATime : Nat → Nat

/-- Free value (log entry 4): how many 64 KiB blocks of memory stand behind a CXL port (R199, R355). -/
opaque cxlBlocks : Nat → Nat

/-- Free value (log entry 5): what the link training of a start finds (R355): the operators the host completes, the UALink
ports trained and those with atomics, the CXL ports trained, CXL.cache. -/
opaque links : Nat → BitVec 16

/-- Free value (log entry 5): the CXL ports behind which memory is persistent (R355, R360). -/
opaque cxlPersistent : BitVec 16

/-- Free value (log entry 17): what host memory behind the host link holds, by link address (R361, R362). -/
opaque hostMemory : Nat → BitVec 8

end Sys2Proof.Config
end

