-- ==== Sys2Proof/Machine/State.lean ====
section
/-! DEFINITION. The state of the package as plain data: everything the spec gives the machine, the model's own
schedule, and the state after reset. -/

namespace Sys2Proof.Machine

open Sys2Proof

/-- Bytes by address, addresses strictly rising, no entry equal to what an unlisted address reads as (zero). -/
abbrev Memory := List Host.Cell

/-- Bytes held over a memory, addresses strictly rising; an address not listed holds none. -/
abbrev Overlay := List Host.Cell

/-- The trap codes (R314). -/
inductive Trap where
  | none | illegalOp | priv | misalign | xlate | perm | cupboardFull | shortfall | fibreMalformed | channelMisuse
  | channelSpillExhausted | hang | atomLimit | configReject | eccUncorrected | mxFormat | nestRange | brk | thermal
  | timer | host
deriving DecidableEq, Repr

/-- The outcomes of a completion record (R343). -/
inductive Ending where
  | committed | shortfall | faulted | conflictLimit | discarded | hang
deriving DecidableEq, Repr

/-- The states of a packet gate that holds a task (R101); a gate without a task is IDLE. -/
inductive Gate where
  | running | short | hold | stopped
deriving DecidableEq, Repr

/-- A continuation record of 64 bytes (R15). -/
structure Record where
  dw0 : Word
  dw1 : Word
  dw2 : Word
  dw3 : Word
  dw4 : Word
  dw5 : Word
  dw6 : Word
  dw7 : Word
deriving DecidableEq, Repr, Inhabited

/-- What a metered command is (R104); the subcode of R113 follows from it. -/
inductive CmdKind where
  | instr
  | nest (id : Nat)
  | go (id : Nat)
  | arm (op : Nat)
  | copy (id : Nat)
  | lds (k id : Nat)
  | walkerArm (node : Nat)
  | cfgLoad
  | image
  | group (first n : Nat)
deriving DecidableEq, Repr

/-- A metered command with its units as runs of equal draws (R108): `done` units are granted; `issued` says that
its issue draw was funded. `instr` is an instruction that was refused at its issue draw and has not had its effect. -/
structure Cmd where
  kind : CmdKind
  addr : Word
  issue : Nat
  issued : Bool
  runs : List (Nat × Nat)
  done : Nat
  instr : Option Instr := none
deriving DecidableEq, Repr

/-- One cluster of a gang: the cluster, its slot and the first of its rows (R121, R122). -/
structure Member where
  cluster : Nat
  slot : Nat
  row : Nat
deriving DecidableEq, Repr, Inhabited

/-- A record on a link outside fibre mode (R162). -/
structure LinkRec where
  v : List (BitVec 32)
  m : BitVec 16
  a : BitVec 16
  t : BitVec 8
  p : BitVec 16
deriving DecidableEq, Repr, Inhabited

/-- What a link carries: a record, or a fibre token of 36 bits (R162, R222). -/
inductive Carried where
  | record (r : LinkRec)
  | token (t : BitVec 36)
deriving DecidableEq, Repr

/-- What a link slot holds, with the stream goes whose sources it stems from (R149). -/
structure Item where
  body : Carried
  own : List Nat := []
deriving DecidableEq, Repr

/-- A record, and a token, that no source claims yet. -/
def Item.record (r : LinkRec) : Item := { body := .record r }
def Item.token (t : BitVec 36) : Item := { body := .token t }

/-- One pass of a source: the stream go that asked for it, its elements, how many are granted and how many ran
(R156, R190, R209); `num` is its number on tl3 and `lo` where a compressed LEVEL source starts (R241). -/
structure Pass where
  go : Nat
  total : Nat
  granted : Nat
  pos : Nat
  num : Nat
  lo : Nat
deriving DecidableEq, Repr

/-- Bookkeeping of one fibre input port: tokens rewound by a reset, tokens read since the mark, the last
coordinate of the open fibre, whether the pass has begun and whether its D was delivered (R228, R229, R243). -/
structure PortState where
  replay : List (BitVec 36)
  window : List (BitVec 36)
  last : Option (BitVec 32)
  begun : Bool
  delivered : Bool
  lastStop : Option Nat
deriving DecidableEq, Repr, Inhabited

/-- A controller node (R307): the go being answered, and for each child its next iteration and whether a done is
awaited. -/
structure CtlState where
  go : Option LinkRec
  next : List Nat
  await : List Bool
deriving DecidableEq, Repr, Inhabited

/-- One portal firing whose replies are outstanding (R311). -/
structure PortalFiring where
  item : LinkRec
  waiting : List (Nat × Nat)
  out : Bool
deriving DecidableEq, Repr

/-- A cell of a gang's region: its frames and everything its units hold (R38–R42, R163, R167, R190, R219). `own` names the goes
of whose items its compute unit still holds something (R149); `tail` of a writing MU says that a pass has begun (R240). -/
structure Cell where
  idx : Nat
  cu : Option (BitVec 240)
  mu : Option (BitVec 240)
  sw : Option (BitVec 240)
  links : List (List Item)
  acc : List (List (BitVec 32))
  turn : Bool
  permits : Nat
  ctl : CtlState
  ports : List PortState
  runCoord : Option (BitVec 32)
  runValue : Option (BitVec 32)
  count : Nat
  afterItem : Bool
  headers : List (BitVec 29)
  passes : List Pass
  pos : Nat
  tail : Nat
  fifo : List Bool
  fifoRd : Nat
  fifoWr : Nat
  portal : List PortalFiring
  own : List Nat
deriving DecidableEq, Repr, Inhabited

/-- An edge address generator: its place (R37), frame, passes, position, the gathers outstanding or the items still to
be emitted on its two outputs, what its two inputs hold, and its fibre bookkeeping (R234–R240). `open?` says that the
fibre of a LEVEL transformer's last item still wants its stop, `own` names the goes of whose items it holds something. -/
structure Ag where
  place : Nat
  frame : BitVec 240
  passes : List Pass
  pos : Nat
  gathers : List (Nat × Option (BitVec 36))
  out : List Item
  out2 : List Item
  q : List Item
  q2 : List Item
  inp : PortState
  inp2 : PortState
  open? : Bool
  headers : List (BitVec 29)
  own : List Nat
deriving DecidableEq, Repr, Inhabited

/-- A source named by a stream go: the MU of a cell or an AG (R155). -/
inductive Source where
  | mu (cell : Nat)
  | ag (place : Nat)
deriving DecidableEq, Repr

/-- A stream go (R156): section, instruction address, gate, and its sources with their counts and element draws. -/
structure Go where
  id : Nat
  sec : Nat
  addr : Word
  gate : Option (Nat × Nat)
  launched : Bool
  srcs : List (Source × Nat × Nat)
deriving DecidableEq, Repr

/-- A stationary plane (R245): 64 rows of 64 elements, the ZERO mark, the width q and the condensed column list. -/
structure Plane where
  e : List (List (BitVec 16))
  zero : Bool
  q : Nat
  sel : List Nat
deriving DecidableEq, Repr, Inhabited

/-- A load command on an engine's load queue (R249, R254, R258, R259): the space and pitch of a dense load, the
width of a condensed plane. -/
inductive LoadKind where
  | lds (scratch : Bool) (pitch : Nat)
  | csr
  | cond (q : Nat)
deriving DecidableEq, Repr

/-- A load: `seq` orders it among the engine's commands, `swaps` is how many swaps must have run before it, `buf` holds
the bytes of the blocks read. -/
structure LoadCmd where
  id : Nat
  kind : LoadKind
  base : Word
  addr : Word
  seq : Nat
  swaps : Nat
  granted : Nat
  total : Nat
  buf : List Byte
deriving DecidableEq, Repr

/-- A command on an engine's array queue (R249, R256): tiles of the tl2 operation `op`, a cursor write, or a swap.
A cursor write with `group` is all that a group of 0 tiles queues (R257, R260).
`seq` is the order of issue on the engine;
`mig` says that the command may still migrate (R262); the tiles are number `tile`, `tile + step`, … of their operation (R256). -/
inductive ArrKind where
  | tiles (op n : Nat) (ovw mig : Bool) (tile step : Nat)
  | cursor (row : BitVec 32) (group : Bool)
  | swap
deriving DecidableEq, Repr

structure ArrCmd where
  kind : ArrKind
  seq : Nat
  addr : Word
deriving DecidableEq, Repr

/-- A matrix engine of a gang (R245). `inq` holds what its four activation links and its header link hold; `rows` are
the activation rows taken for the tile in progress and not yet multiplied, none standing for a value that an absent lane or an undriven
link supplies (R246), `rowsDone` counts those that are;
`headerTaken` says that its header token was taken and `tileOvw` the OVW it runs with; `migrated` gives the operations that run on
another cluster's engine, each with that cluster (R262). -/
structure Engine where
  k : Nat
  fmt : Option Nat
  sec : Option Nat
  rm : BitVec 2
  sat : Bool
  header : Bool
  side : Nat
  dscratch : Bool
  dbase : Word
  pitch : Nat
  cursor : BitVec 32
  active : Plane
  shadow : Plane
  loads : List LoadCmd
  arr : List ArrCmd
  seq : Nat
  swaps : Nat
  inq : List (List Item)
  rows : List (List (Option (BitVec 16)))
  rowsDone : Nat
  beats : List (Option (BitVec 16))
  headerTaken : Bool
  tileOvw : Option Bool
  migrated : List (Nat × Nat)
deriving DecidableEq, Repr, Inhabited

/-- An operation counted on tl2 (R153, R209, R257): tiles not yet granted, tiles granted and not done; for a walker
arm its graph node. `zero` marks a group of no tiles, whose one unit runs nothing (R257). -/
structure Op2 where
  id : Nat
  addr : Word
  sec : Nat
  ungranted : Nat
  left : Nat
  granted : Nat
  start : Option (BitVec 32)
  zero : Bool
  ovw : Bool
  mig : Bool
  engine : Option Nat
  node : Option Nat
deriving DecidableEq, Repr

/-- What one row of a tile has still to do to its destination (R74, R247, R248, R250): the operation and the number of its tile, the
address of its first element and the 64 destination elements by physical or scratch address, each with whether its page is an IO page, how values are added, and the chunk value of each 32-bit word. -/
structure DestRow where
  op : Nat
  tile : Nat
  scratch : Bool
  va : Nat
  addrs : List (Nat × Bool)
  code : Nat
  rm : BitVec 2
  sat : Bool
  ovw : Bool
  vals : List (BitVec 32)
deriving DecidableEq, Repr

/-- The fields of a copy descriptor (R214). -/
structure CopyDesc where
  src : Word
  dst : Word
  sscratch : Bool
  dscratch : Bool
  esize : Nat
  gate : Option (Nat × Nat)
  dmd : Bool
  conv : Nat
  rm : BitVec 2
  cluster : Nat
  join : Word
  dims : List (Nat × Int × Int)
deriving DecidableEq, Repr

/-- A copy of a task (R217): number `num` on tl`n`, blocks granted, elements performed (`ran`); `rest` holds the bytes of the element
under way that found no empty slot of a FIFO yet (R219). -/
structure Copy where
  id : Nat
  n : Nat
  num : Nat
  addr : Word
  d : CopyDesc
  granted : Nat
  ran : Nat
  running : Bool
  cancelled : Bool
  finished : Bool
  rest : List Byte
deriving DecidableEq, Repr

/-- A nest whose granted elements are not all performed (R161), with the base values it issued with. -/
structure Nest where
  id : Nat
  addr : Word
  w : NestWord
  bd : Word
  ba : Word
  bb : Word
  granted : Nat
  ran : Nat
  v : BitVec 32
deriving DecidableEq, Repr

/-- A held commit-time reduction (R300–R303): operation FN, physical address, width, operand, and its fold order:
none for the thread, the cell index for an rnode. -/
structure Reduction where
  op : Nat
  addr : Nat
  width : Nat
  operand : Word
  cell : Option Nat
deriving DecidableEq, Repr

/-- A walker arm aimed at a task (R87, R107): instance, node, section, tiles; funded once its tl2 operation exists. -/
structure WalkerArm where
  inst : Nat
  node : Nat
  sec : Nat
  tiles : Nat
  op : Option Nat
deriving DecidableEq, Repr

/-- A port frozen by a resolvable fault (R316, R317); `part` tells apart the ports that share kind and place (the two
copy engines of a cluster). `addr` is the instruction the port works for; `record` is its record's place in the
fault ring, none while the ring is full. -/
structure Frozen where
  kind : Nat
  place : Nat
  part : Nat
  va : Word
  counter : Nat
  access : Nat
  addr : Word
  record : Option Nat
deriving DecidableEq, Repr

/-- A port of a task that may freeze or wait (R130, R316, R317): kind, place, and what tells apart ports that share them. -/
structure PortId where
  kind : Nat
  place : Nat
  part : Nat
deriving DecidableEq, Repr

/-- A resident task with its gang: the control thread (R25), the gate (R98–R116), its effects (R286), its fabric and
its engines. `pushData` is the element that a waiting push read at issue (R277); `holdLeft` is in
nanoseconds; `framed` says that the frame was read, so that a load that a miss stopped goes on after it (R127). `fenceReqs` are the
portal requests that the `fence` under way waits for (R295), `sparedBy` the commits of its own context that were made while it was the
oldest timed task of it (R269, R290). `ioLines` are the lines stored through IO pages (R201), `icache` those that its
instruction cache holds (R134). `loading` holds the
frames that a load under way has read and checked, `loadGrant` how many it was granted (R129, R150). `dest` holds the destination rows of
armed commands that tl2 does not count yet (R250); `beatFault` is the fault of a firing within the beat under way, and none between
steps. DESIGN CHOICE (log entry 64): R10 gives a cluster 16 address generators and is silent on two resident tasks that configure the
same one; each task has a set of its own. `spaceWait` lists the waits for Cupboard space: the port, the cluster-in-gang and the bytes of a share there that would end the wait (R130); `hangCount` is the hang monitor's count in microseconds; `admitId` orders admissions. -/
structure Task where
  handle : Word
  crec : Record
  die : Nat
  members : List Member
  ready : Bool
  rerun : Nat
  origin : Option (Nat × Nat)
  hint : Option Nat
  irrevocable : Bool
  admitId : Nat
  snapNum : Nat
  snap : Memory
  snapHost : Overlay
  -- the gate
  gate : Gate
  account : Nat
  added : Nat
  cmd : Option Cmd
  mark : Nat
  armed : Bool
  holdField : BitVec 16
  holdLeft : Nat
  skipRefund : Nat
  flags : BitVec 8
  -- the thread
  pc : Word
  icache : List Nat
  regs : Vector Word 32
  wait : Option Instr
  paid : Bool
  committing : Bool
  framed : Bool
  fenceReqs : Option (List Nat)
  exempt : Nat
  tl : Vector Word 8
  issued : List Nat
  finished : List (Nat × Nat)
  rwin : Vector Word 8
  -- effects held until commit
  cup : Overlay
  cupLines : List (Nat × Nat)
  ioLines : List Nat
  redLines : List (Nat × Nat)
  share : List Nat
  spaceWait : List (PortId × Nat × Nat)
  readSet : List (Nat × Nat)
  sparedBy : List Nat
  spawns : List Record
  joinIncs : List Word
  joinDecs : List Word
  reds : List Reduction
  pushes : List (Nat × List Byte)
  pushData : Option (List Byte)
  closes : List (Nat × Bool)
  lockLine : Option Nat
  regionOpen : Bool
  arOps : Nat
  -- the fabric
  frames : List (BitVec 256)
  staged : Option (List (BitVec 256))
  loading : List (BitVec 256)
  loadGrant : Nat
  cells : List Cell
  ags : List Ag
  gos : List Go
  engines : List Engine
  ops2 : List Op2
  dest : List DestRow
  arms : List WalkerArm
  copies : List Copy
  nests : List Nest
  frozen : List Frozen
  portalReqs : Nat
  hangCount : Nat
  beatFault : Option (Trap × Nat × Nat)
deriving DecidableEq, Repr

/-- A task held in a Save image, with the scratch of its region by scratch address, and the place and length of its image in
the save pool (R144, R324). -/
structure Saved where
  id : Nat
  task : Task
  scratch : List Host.Cell
  off : Nat
  len : Nat
deriving DecidableEq, Repr

/-- The holdings section of a Save image (R324): the channel sides held, true for the reader; the entries popped tentatively, by channel; the
locked line with its working values. -/
structure Holdings where
  sides : List (Nat × Bool)
  pops : List (Nat × List (List Byte))
  lock : Option (Nat × Overlay)
deriving DecidableEq, Repr

/-- A record waiting to be placed (R90, R91, R125, R339): its re-run count, aged level, the time it was queued, the
graph node it came from, the hinted cluster, and the saved image it restores. `fundSince` and `fitSince` say since when it
has stood unfunded at the head of its level, and unfitted at the head of the highest level (R103, R126). -/
structure QRec where
  id : Nat
  crec : Record
  rerun : Nat
  origin : Option (Nat × Nat)
  since : Nat
  gained : Nat
  fundSince : Nat
  fitSince : Nat
  hint : Option Nat
  irrevocable : Bool
  front : Bool
  image : Option Nat
deriving DecidableEq, Repr

/-- The life of a graph node within an instance (R86–R88). -/
inductive NodeLife where
  | waiting | pending | running (h : Word) | held | armed | committed | failed (e : Ending) (t : Trap) | armDone
  | discarded
deriving DecidableEq, Repr

/-- A graph node of an instance (R19, R20): successors, working count, and what it is. `target` is none for a task
node, and `paid` says that its successors' counts were lowered. -/
structure Node where
  succ : List Nat
  count : Nat
  tmpl : Word
  tsOff : Word
  target : Option (Nat × Nat × Nat)
  life : NodeLife
  everReady : Bool
  targetSeen : Bool
  paid : Bool
deriving DecidableEq, Repr

/-- A launch in flight (R23, R85–R88). -/
structure Instance where
  id : Nat
  queue : Nat
  die : Nat
  frame : Word
  tsbase : Word
  prio : BitVec 6
  cls : BitVec 4
  ctx : Nat
  completion : Word
  nodes : List Node
  retired : Nat
deriving DecidableEq, Repr

/-- A hardware queue slot: the queue mapped onto it, when its time slice began (R83), whether its final read of tail has
begun, and whether a notification was taken that no final read has answered yet, the one that mapped it among them (R82). -/
structure QSlot where
  idx : Nat
  queue : Nat
  since : Nat
  final : Bool
  renotified : Bool
deriving DecidableEq, Repr

/-- A thermal region (R346–R348, R351). -/
structure Region where
  temp : BitVec 16
  dmg : Nat
  alertLevel : BitVec 32
  release : BitVec 32
  inAlert : Bool
  tripped : Bool
  corr : BitVec 32
  uncorr : BitVec 16
deriving DecidableEq, Repr, Inhabited

/-- A Bureau (R332, R350, R371). `homeWait` is the page that its last write of HOME_SLICE moves, until that write
completes (R199). -/
structure Bureau where
  pc : Word
  regs : Vector Word 32
  priv : Memory
  code : BitVec 8
  tpc : Word
  val : Word
  vec : BitVec 16
  ie : Bool
  pie : Bool
  intrap : Bool
  dt : Bool
  mask : BitVec 4
  pad : Word
  waiting : Bool
  homeWait : Option Nat
deriving DecidableEq, Repr

/-- A portal window (R310). -/
structure PWin where
  base : Word
  ctx : BitVec 16
  size : BitVec 6
  ual : Bool
  port : BitVec 4
  en : Bool
deriving DecidableEq, Repr

/-- A host-coherent window (R362). -/
structure HWin where
  dev : BitVec 52
  hostBase : Word
  size : BitVec 6
  en : Bool
  wr : Bool
deriving DecidableEq, Repr

/-- A pending or settled fault record (R317, R318): state 0 pending, 1 retried, 2 failed, 3 withdrawn. -/
structure FaultRec where
  index : Nat
  handle : Word
  kind : Nat
  place : Nat
  state : Nat
deriving DecidableEq, Repr

/-- A blocked endpoint as a channel detector saw it (R271): the task, the channel, the side, HEAD and TAIL, the task's
held or tentative count, and whether the sample before showed the same. -/
structure Sample where
  task : Word
  ctx : Nat
  num : Nat
  reader : Bool
  head : BitVec 32
  tail : BitVec 32
  own : Nat
  confirmed : Bool
deriving DecidableEq, Repr

/-- One die: budget, placement, launch, Bureau and registers. `mail` gives for a cluster the thieves in its mailbox with the
times of their requests; `pending` the waiting queues with the times they became pending, in notification order; `overrun` the
queues stopped for a tail beyond the ring. -/
structure Die where
  enabled : BitVec 104
  budget : Nat
  allot : BitVec 8
  sliceLen : BitVec 16
  hangIvl : BitVec 32
  hangSeq : Nat
  hmapBase : BitVec 52
  fringBase : BitVec 52
  fringHead : BitVec 10
  fringTail : BitVec 10
  faults : List FaultRec
  preHandle : Word
  preResult : BitVec 3
  preBusy : Option Word
  savePool : BitVec 52
  saveSize : BitVec 40
  tlbiVpn : BitVec 40
  tlbiCtx : BitVec 16
  tlbiScope : BitVec 2
  tlbiOp : Option (Nat × Nat × Nat)
  homeSel : BitVec 36
  homeErr : Bool
  l2pSel : BitVec 9
  thermSel : BitVec 7
  trip : Bool
  regions : List Region
  steps : List (BitVec 3)
  timerCmp : Word
  ctxSel : BitVec 16
  quotas : List (Nat × Nat × Nat)
  doorbell : BitVec 32
  rung : Bool
  pwin : List PWin
  bureau : Bureau
  taskQueue : List QRec
  deques : List (Nat × List QRec)
  mail : List (Nat × List (Nat × Nat))
  lastVictim : List (Nat × Nat)
  lastDeque : Nat
  fundStops : List Nat
  placeStops : List Nat
  pending : List (Nat × Nat)
  overrun : List Nat
  slots : List QSlot
  samples : List Sample
deriving DecidableEq, Repr

/-- The kinds of physical memory ranges (R199, R355). -/
inductive RangeKind where
  | hbm | second | cxl
deriving DecidableEq, Repr

/-- A physical range of the capability list (R199). -/
structure Range where
  base : Nat
  size : Nat
  die : Nat
  kind : RangeKind
deriving DecidableEq, Repr

/-- A leaf translation held by the TLBs (R195, R196): page base and size, frame, attributes. -/
structure TlbEntry where
  ctx : Nat
  va : Nat
  size : Nat
  pa : Nat
  w : Bool
  ch : Bool
  io : Bool
deriving DecidableEq, Repr

/-- One way of a set that holds a line (R202–R206). -/
structure Way where
  set : Nat
  way : Nat
  line : Nat
  owner : Nat
  stamp : Nat
deriving DecidableEq, Repr

/-- An L2 slice that has been touched: lines held, masks, gates (R202–R206). A slice not listed is empty. -/
structure Slice where
  die : Nat
  cluster : Nat
  slice : Nat
  ways : List Way
  masks : List (BitVec 16)
  gate : BitVec 16
  awake : BitVec 16
  waking : List (Nat × Nat)
  slotWays : List (Nat × Nat)
  clock : Nat
deriving DecidableEq, Repr

/-- A line lock (R297, R298): holder, the bytes of the working value that were stored over the committed line, and
the waiting requesters. -/
structure Lock where
  line : Nat
  holder : Option Word
  work : Overlay
  waiters : List Word
deriving DecidableEq, Repr

/-- An entry of a channel: its bytes, the task that has popped it tentatively, the page of the spill list and the
place on it when it lies in the Hutch, and whether it was forwarded and not yet acknowledged; `notice` marks a
low-charge notice. -/
structure Entry where
  data : List Byte
  tent : Option Word
  page : Option (Nat × Nat)
  sent : Bool
  notice : Bool
deriving DecidableEq, Repr

/-- The states of a channel (R264). -/
inductive ChanState where
  | closed | opened | broken
deriving DecidableEq, Repr

/-- The live state of a channel that is not CLOSED (R264, R265), with the physical addresses of its spill-list pages
and the (set, way) lines of its slots (R206, R270). `closing` says that a committed `ch.close` found the channel not yet
free to close, `unbinding` that an unbind was sent and is not acknowledged (R278); `credit` is how many more entries the far channel
grants, `granted` how many this channel has granted a far writer and not received (R274). -/
structure Chan where
  ctx : Nat
  num : Nat
  state : ChanState
  esize : Nat
  cap : Nat
  len : Nat
  budget : Nat
  grown : Nat
  list : Word
  rdie : Nat
  rcluster : Nat
  rslice : Nat
  remote : Bool
  rdir : Bool
  peer : BitVec 16
  far : BitVec 16
  port : BitVec 4
  head : BitVec 32
  tail : BitVec 32
  pages : List Nat
  slots : List (Nat × Nat)
  writer : Word
  reader : Word
  entries : List Entry
  closing : Bool
  unbinding : Bool
  frozen : Bool
  credit : Nat
  granted : Nat
deriving DecidableEq, Repr

/-- The stages of bring-up (R352, R355). -/
inductive Stage where
  | a | b | c
deriving DecidableEq, Repr

/-- SUSPEND STATE (R328). -/
inductive Susp where
  | running | suspending | shallow | deep | writing | complete | resuming
deriving DecidableEq, Repr

/-- The agents that fetch instructions: the Bureau of a die, and the control thread of a task. -/
inductive Agent where
  | bureau (die : Nat)
  | thread (h : Word)
deriving DecidableEq, Repr

/-- One turn of the schedule: an agent issues, or a step of another agent takes place. -/
inductive Turn where
  | agent (a : Agent)
  | event (i : Instr)
deriving DecidableEq, Repr

/-- What leaves the package: answers to reads, requests over a portal (over the host link, or over a UALink port), entries,
their acknowledgements and messages to a peer; a handshake grants credit to a far writer, and room that becomes free grants it more
(R274). -/
inductive Output where
  | read (addr : Nat) (data : List Byte)
  | errorStatus (addr : Nat)
  | portal (h : Word) (cell req op : Nat) (addr : Nat) (operand swap : Word) (ualPort : Option Nat)
  | forward (ctx num : Nat) (data : List Byte)
  | entryAck (ctx num : Nat)
  | unbind (ctx num : Nat)
  | unbindAck (ctx num : Nat)
  | bindRequest (ctx num : Nat) (peer far : BitVec 16) (port : BitVec 4) (rdir : Bool) (credit : Nat)
  | bindReply (ctx num : Nat) (ok : Bool) (credit : Nat)
  | credit (ctx num n : Nat)
  | bureauLog (die code : Nat)
deriving DecidableEq, Repr

/-- A firmware image with the signature it carries (R14, R352). -/
inductive SigScheme where
  | ecdsaP384Sha384
  | other (n : Nat)
deriving DecidableEq, Repr

structure Firmware where
  code : List Byte
  scheme : SigScheme
  sig : List Byte
deriving DecidableEq, Repr

/-- The suspend descriptor (R329): the commit number, the die budgets, the queue-slot state, the fault rings' HEAD and TAIL,
the saved images, and the channel slots. It also carries what the device holds of them, their launches and their locks. -/
structure Descriptor where
  n : Nat
  dies : List Die
  saved : List Saved
  instances : List Instance
  channels : List Chan
  slotWays : List Slice
  locks : List Lock
  generations : List (Nat × BitVec 32)
  published : List (Nat × Option Nat × Nat)
deriving DecidableEq, Repr

/-- The state of the package. `published` lists, newest first, the lines that commits published, each with the context that committed it
(none for an external commit) and the commit's number (R269, R290). `firmware` is what the boot memory outside the package holds
(R352), `boots` counts power-goods. `suspMem` is memory as a suspend found it (R330), `descriptor` the suspend descriptor last
written, `wardrobe` the bases and the descriptors of the Wardrobes written to CXL memory, newest first. `cacheWaits` lists the accesses that wait at L2
slices: reading die, address, class (R199, R206). -/
structure State where
  schedule : List Turn
  current : Agent
  fresh : Nat
  nextId : Nat
  stage : Stage
  fwInvalid : Bool
  failDie : BitVec 2
  cause : BitVec 7
  restoring : Bool
  restoreRun : Bool
  boots : Nat
  firmware : List Firmware
  sweeping : Bool
  swept : List Nat
  map : List Range
  cxlCache : Bool
  hostAtomics : BitVec 8
  ualTrained : BitVec 16
  ualAtomics : BitVec 16
  cxlPorts : BitVec 4
  cxlPersist : BitVec 4
  mem : Memory
  hostMem : Overlay
  scratch : Memory
  commitSeq : Nat
  published : List (Nat × Option Nat × Nat)
  now : Nat
  susp : Susp
  suspDesc : BitVec 52
  suspN : Nat
  suspCmd : Nat
  suspDiscard : Bool
  suspMem : Memory
  descriptor : Option Descriptor
  wardrobe : List (Nat × Descriptor)
  resyncAddr : Nat
  resyncBusy : Bool
  attestAddr : Nat
  pkgLimit : BitVec 8
  qtBase : BitVec 52
  qtCount : BitVec 17
  ctxBase : BitVec 52
  ctxCount : BitVec 17
  safeBase : BitVec 52
  restore : Bool
  hcw : List HWin
  modified : List Nat
  tlb : List TlbEntry
  tlbDrops : List Bool
  peerAnswers : List (Option Nat)
  rdc : List (Nat × Nat × Nat)
  cacheWaits : List (Nat × Nat × Nat)
  slices : List Slice
  homing : List (Nat × Nat × Nat)
  moving : List (Nat × Nat)
  locks : List Lock
  channels : List Chan
  generations : List (Nat × BitVec 32)
  rowOwner : List (Nat × Nat × Bool)
  tasks : List Task
  saved : List Saved
  instances : List Instance
  dies : List Die
  out : List Output
deriving DecidableEq, Repr

/-- Why the machine stops. -/
inductive Fault where
  /-- Raised by `exec` on a control word when `current` names a Bureau or a task that does not exist: nothing
  can issue it. Safe: the hardware has no such agent. -/
  | noAgent
deriving DecidableEq, Repr

/-- Why an instruction has no meaning. -/
inductive Refusal where
  /-- Raised by an arm of `exec` whose meaning is not written. Safe: nothing is claimed of it. -/
  | notModelled (mnemonic : String)
deriving DecidableEq, Repr

/-! ### Reset -/

/-- A region at stage A (R346, R348, R351). -/
def Region.reset : Region :=
  { temp := 0, dmg := 0, alertLevel := 4000000, release := 1000000, inAlert := false, tripped := false, corr := 0,
    uncorr := 0 }

/-- A portal window at reset (R310). -/
def PWin.reset : PWin := { base := 0, ctx := 0, size := 12, ual := false, port := 0, en := false }

/-- A host-coherent window at reset (R362). -/
def HWin.reset : HWin := { dev := 0, hostBase := 0, size := 21, en := false, wr := false }

/-- A Bureau at reset (R332). DESIGN CHOICE: its pc, its registers and its private memory are 0, which the spec
does not give; unsafe (log entry 2). -/
def Bureau.reset : Bureau :=
  { pc := 0, regs := Vector.replicate 32 0, priv := [], code := 0, tpc := 0, val := 0, vec := 0, ie := false,
    pie := false, intrap := false, dt := false, mask := 0, pad := 0, waiting := false, homeWait := none }

/-- Die `d` at reset, with the allotment of R345. DESIGN CHOICE: every cluster is enabled and the die budget is 0;
unsafe (log entries 5 and 8). -/
def Die.reset (d : Nat) : Die :=
  { enabled := BitVec.allOnes 104, budget := 0, allot := if d < 2 then 41 else 42, sliceLen := 200,
    hangIvl := 100000, hangSeq := 0, hmapBase := 0, fringBase := 0, fringHead := 0, fringTail := 0, faults := [],
    preHandle := 0, preResult := 0, preBusy := none, savePool := 0, saveSize := 0, tlbiVpn := 0, tlbiCtx := 0,
    tlbiScope := 0, tlbiOp := none, homeSel := 0, homeErr := false, l2pSel := 0, thermSel := 0, trip := false,
    regions := List.replicate 107 Region.reset, steps := List.replicate 104 0, timerCmp := BitVec.allOnes 64,
    ctxSel := 0, quotas := [], doorbell := 0, rung := false, pwin := List.replicate 16 PWin.reset,
    bureau := Bureau.reset, taskQueue := [], deques := [], mail := [], lastVictim := [], lastDeque := 103,
    fundStops := [], placeStops := [], pending := [], overrun := [], slots := [], samples := [] }

/-- Where the memory of the package lies at reset: for each die 96 GiB of HBM4 and 768 GB of second tier, no CXL
memory. DESIGN CHOICE: the spec fixes no layout (R199); unsafe (log entry 4). -/
def mapReset : List Range :=
  (List.range 4).map (fun d => { base := d * 0x1800000000, size := 0x1800000000, die := d, kind := .hbm }) ++
  (List.range 4).map (fun d =>
    { base := 0x6000000000 + d * 0xB2D05E0000, size := 0xB2D05E0000, die := d, kind := .second })

/-- The package right after power-good, at the start of stage A (R352), with nothing scheduled and Bureau 0 to
move (log entries 1 to 3). -/
def State.reset : State :=
  { schedule := [], current := .bureau 0, fresh := 0, nextId := 0, stage := .a, fwInvalid := false, failDie := 0,
    cause := 0, restoring := false, restoreRun := false, boots := 0, firmware := [], sweeping := false, swept := [], map := mapReset, cxlCache := false,
    hostAtomics := 0, ualTrained := 0, ualAtomics := 0, cxlPorts := 0, cxlPersist := 0, mem := [], hostMem := [], scratch := [],
    commitSeq := 0, published := [], now := 0, susp := .running, suspDesc := 0, suspN := 0, suspCmd := 0, suspDiscard := false,
    suspMem := [], descriptor := none, wardrobe := [],
    resyncAddr := 0, resyncBusy := false, attestAddr := 0, pkgLimit := 166, qtBase := 0,
    qtCount := 0, ctxBase := 0, ctxCount := 0, safeBase := 0, restore := false,
    hcw := List.replicate 8 HWin.reset, modified := [], tlb := [], tlbDrops := [], peerAnswers := [], rdc := [], cacheWaits := [], slices := [], homing := [],
    moving := [], locks := [], channels := [], generations := [], rowOwner := [], tasks := [], saved := [],
    instances := [], dies := (List.range 4).map Die.reset, out := [] }

end Sys2Proof.Machine
end

