-- ==== Sys2Proof/Machine/Memory.lean ====
section
/-! DEFINITION. Bytes by address, physical memory and its homes, the L2 and RDC tags, and address translation
(R189–R206). -/

namespace Sys2Proof.Machine

open Sys2Proof

/-! ### Bytes by address -/

/-- The byte at an address; an unlisted address reads 0 (R353; log entry 6). -/
def Memory.get : Memory → Nat → Byte
  | [], _ => 0
  | (k, b) :: r, a => if a = k then b else if a < k then 0 else Memory.get r a

/-- Write one byte. Writing 0 removes the entry, so that equal memories are equal lists. -/
def Memory.set : Memory → Nat → Byte → Memory
  | [], a, v => if v = 0 then [] else [(a, v)]
  | (k, b) :: r, a, v =>
    if a = k then (if v = 0 then r else (a, v) :: r)
    else if a < k then (if v = 0 then (k, b) :: r else (a, v) :: (k, b) :: r)
    else (k, b) :: Memory.set r a v

/-- `n` bytes from address `a` upwards. -/
def Memory.read (m : Memory) (a n : Nat) : List Byte := (List.range n).map fun i => m.get (a + i)

/-- Store bytes from address `a` upwards. -/
def Memory.write (m : Memory) (a : Nat) : List Byte → Memory
  | [] => m
  | b :: bs => Memory.write (m.set a b) (a + 1) bs

/-- The number that `n` bytes at `a` hold, low byte first (R2). -/
def Memory.nat (m : Memory) (a n : Nat) : Nat := ofLeBytes (m.read a n)

/-- The addresses of a list of cells rise strictly, all at or above `lo`, and no byte is 0. -/
def Memory.wfFrom : Nat → Memory → Bool
  | _, [] => true
  | lo, (k, b) :: r => lo ≤ k && b ≠ 0 && Memory.wfFrom (k + 1) r

/-- The canonical form of a memory. -/
def Memory.wf (m : Memory) : Bool := Memory.wfFrom 0 m

/-- The byte an overlay holds at an address, if any. -/
def Overlay.get? : Overlay → Nat → Option Byte
  | [], _ => none
  | (k, b) :: r, a => if a = k then some b else if a < k then none else Overlay.get? r a

/-- Hold a byte in an overlay, in place of the one it held there. -/
def Overlay.set : Overlay → Nat → Byte → Overlay
  | [], a, v => [(a, v)]
  | (k, b) :: r, a, v =>
    if a = k then (a, v) :: r
    else if a < k then (a, v) :: (k, b) :: r
    else (k, b) :: Overlay.set r a v

/-- Hold bytes from address `a` upwards. -/
def Overlay.write (m : Overlay) (a : Nat) : List Byte → Overlay
  | [] => m
  | b :: bs => Overlay.write (m.set a b) (a + 1) bs

/-- The addresses of an overlay rise strictly, all at or above `lo`. -/
def Overlay.wfFrom : Nat → Overlay → Bool
  | _, [] => true
  | lo, (k, _) :: r => lo ≤ k && Overlay.wfFrom (k + 1) r

/-- The canonical form of an overlay. -/
def Overlay.wf (m : Overlay) : Bool := Overlay.wfFrom 0 m

/-- Put every byte of an overlay into a memory. -/
def Memory.apply (m : Memory) (o : Overlay) : Memory := o.foldl (fun m c => m.set c.1 c.2) m

/-- The 128-byte line of an address. -/
def lineOf (a : Nat) : Nat := a / 128

/-- The little-endian bytes of a number (R2). -/
def natBytes : Nat → Nat → List Byte
  | 0, _ => []
  | n + 1, v => BitVec.ofNat 8 v :: natBytes n (v / 256)

/-- Lists: replace the element at an index, or leave the list as it is. -/
def setAt {α : Type} : List α → Nat → α → List α
  | [], _, _ => []
  | _ :: r, 0, v => v :: r
  | x :: r, i + 1, v => x :: setAt r i v

/-- Lists: apply a function to the element at an index. -/
def modAt {α : Type} : List α → Nat → (α → α) → List α
  | [], _, _ => []
  | x :: r, 0, f => f x :: r
  | x :: r, i + 1, f => x :: modAt r i f

/-- Association lists by number: what `k` has, or `d`. -/
def assocD {α : Type} (l : List (Nat × α)) (k : Nat) (d : α) : α :=
  match l.find? (fun p => p.1 == k) with
  | some p => p.2
  | none => d

/-- Association lists: give `k` the value `v`. -/
def assocSet {α : Type} (l : List (Nat × α)) (k : Nat) (v : α) : List (Nat × α) :=
  if l.any (fun p => p.1 == k) then l.map (fun p => if p.1 == k then (k, v) else p) else l ++ [(k, v)]

/-- Put a number into a rising list. -/
def insertNat (n : Nat) : List Nat → List Nat
  | [] => [n]
  | x :: r => if n ≤ x then n :: x :: r else x :: insertNat n r

/-- A list of numbers in rising order. -/
def sortNat (l : List Nat) : List Nat := l.foldr insertNat []

/-! ### Ranges, homes and slices -/

/-- The memory range a physical address lies in (R199). -/
def State.rangeOf (s : State) (pa : Nat) : Option Range :=
  s.map.find? fun r => r.base ≤ pa && pa < r.base + r.size

/-- Whether a 64 KiB block lies in a second tier (R353). -/
def State.secondTier (s : State) (block : Nat) : Bool :=
  match s.rangeOf (block * 65536) with
  | some r => r.kind == .second
  | none => false

/-- The 64 KiB blocks of the second tier. -/
def State.tierBlocks (s : State) : Nat :=
  (s.map.filter fun r => r.kind == .second).foldl (fun n r => n + r.size / 65536) 0

/-- Whether a physical address lies in a window (R362). -/
def HWin.covers (w : HWin) (pa : Nat) : Bool :=
  w.en && w.dev.toNat ≤ pa && pa < w.dev.toNat + 2 ^ w.size.toNat

/-- The enabled host-coherent window a physical address lies in (R362). -/
def State.winOf (s : State) (pa : Nat) : Option HWin := s.hcw.find? fun w => w.covers pa

/-- The die that homes a physical address, if it has a home (R199, R363). -/
def State.homeDie (s : State) (pa : Nat) : Option Nat :=
  match s.rangeOf pa with
  | some r => some r.die
  | none => if (s.winOf pa).isSome then some 0 else none

/-- The host byte at a link address: what was last written there, or what the host holds (log entry 17). -/
def State.hostByte (s : State) (a : Nat) : Byte :=
  match s.hostMem.get? a with
  | some b => b
  | none => Config.hostMemory a

/-- The committed byte at a physical address; a window maps onto host memory (R362, R363). -/
def State.byteAt (s : State) (pa : Nat) : Byte :=
  match s.winOf pa with
  | some w => s.hostByte (w.hostBase.toNat + (pa - w.dev.toNat))
  | none => s.mem.get pa

/-- Committed bytes from a physical address upwards. -/
def State.bytesAt (s : State) (pa n : Nat) : List Byte := (List.range n).map fun i => s.byteAt (pa + i)

/-- The number that committed bytes hold (R2). -/
def State.natAt (s : State) (pa n : Nat) : Nat := ofLeBytes (s.bytesAt pa n)

/-- Set a committed byte. -/
def State.setByte (s : State) (pa : Nat) (b : Byte) : State :=
  match s.winOf pa with
  | some w => { s with hostMem := s.hostMem.set (w.hostBase.toNat + (pa - w.dev.toNat)) b }
  | none => { s with mem := s.mem.set pa b }

/-- Blocks of the second tier have been passed by the sweep, or written; with the last of them it ends (R353). -/
def State.sweepPass (s : State) (blocks : List Nat) : State :=
  if !s.sweeping then s
  else
    let swept := (blocks.filter fun b => s.secondTier b && !s.swept.contains b) ++ s.swept
    { s with swept := swept, sweeping := swept.length < s.tierBlocks }

/-- Set committed bytes. -/
def State.setBytes (s : State) (l : List (Nat × Byte)) : State := l.foldl (fun s p => s.setByte p.1 p.2) s

/-- Pair bytes with the addresses from `a` upwards. -/
def atAddr (a : Nat) : List Byte → List (Nat × Byte)
  | [] => []
  | b :: bs => (a, b) :: atAddr (a + 1) bs

/-- Whether memory stands behind a physical address (R199). -/
def State.hasHome (s : State) (pa : Nat) : Bool := (s.homeDie pa).isSome

/-- Whether a physical address lies in a window while CXL.cache is not trained on the host link (R363). -/
def State.linkDown (s : State) (pa : Nat) : Bool := (s.winOf pa).isSome && !s.cxlCache

/-- Whether the device reaches memory behind a physical address (R199, R363). -/
def State.reaches (s : State) (pa : Nat) : Bool := s.hasHome pa && !s.linkDown pa

/-- Bytes land at home: copies of their lines in RDCs are invalid, a window line is held modified, a second-tier block counts as written
(R201, R353, R363). -/
def State.land (s : State) (bytes : List (Nat × Byte)) : State :=
  let lines := (bytes.map fun p => lineOf p.1).eraseDups
  let s := s.setBytes bytes
  let s := { s with rdc := s.rdc.filter (fun r => !lines.contains r.2.1) }
  let s := { s with modified := ((bytes.map fun (p : Nat × Byte) => p.1 / 64).eraseDups.filter fun l =>
    (s.winOf (64 * l)).isSome && !s.modified.contains l) ++ s.modified }
  s.sweepPass ((bytes.map fun p => p.1 / 65536).eraseDups)

/-- The device writes bytes of its own at a physical address: queue heads, records, maps, images. DESIGN CHOICE: bytes at an address with
no home, or in a window whose link is down, are dropped (log entry 80). -/
def State.setHomed (s : State) (a : Nat) (l : List Byte) : State := s.land ((atAddr a l).filter fun p => s.reaches p.1)

/-- A die of the package. -/
def State.die? (s : State) (d : Nat) : Option Die := s.dies[d]?

/-- The die `d`; beyond 3 the reset of a die, which nothing reaches. -/
def State.die (s : State) (d : Nat) : Die := s.dies.getD d (Die.reset d)

/-- Change one die. -/
def State.updDie (s : State) (d : Nat) (f : Die → Die) : State := { s with dies := modAt s.dies d f }

/-- Whether a cluster is enabled (R9). -/
def Die.has (d : Die) (c : Nat) : Bool := d.enabled.getLsbD c

/-- The enabled clusters of a die in rising number. -/
def Die.clusters (d : Die) : List Nat := (List.range 104).filter d.has

/-- The L2 slice that homes a physical address: its die, cluster and slice (R199, R200). -/
def State.homeSlice (s : State) (pa : Nat) : Option (Nat × Nat × Nat) :=
  match s.homeDie pa with
  | none => none
  | some d =>
    let page := pa / 65536
    match s.homing.find? fun h => h.1 == page with
    | some h => some (d, h.2)
    | none =>
      let cs := (s.die d).clusters
      if cs.length = 0 then none
      else
        let n := page % (4 * cs.length)
        some (d, cs.getD (n / 4) 0, n % 4)

/-- An L2 slice as at reset (R205). -/
def Slice.fresh (d c k : Nat) : Slice :=
  { die := d, cluster := c, slice := k, ways := [], masks := List.replicate 16 0xFFFF, gate := 0, awake := 0xFFFF,
    waking := [], slotWays := [], clock := 0 }

/-- A slice of the package. -/
def State.slice (s : State) (d c k : Nat) : Slice :=
  match s.slices.find? fun x => x.die == d && x.cluster == c && x.slice == k with
  | some x => x
  | none => Slice.fresh d c k

/-- Put a slice back. -/
def State.setSlice (s : State) (x : Slice) : State :=
  let rest := s.slices.filter fun y => !(y.die == x.die && y.cluster == x.cluster && y.slice == x.slice)
  { s with slices := x :: rest }

/-- Whether a fill may choose the way `w` of set `i`: awake, not gated, and holding no channel slot (R204). -/
def Slice.usable (x : Slice) (i w : Nat) : Bool :=
  x.awake.getLsbD w && !x.gate.getLsbD w && !x.slotWays.contains (i, w)

/-- When a way of a set was last used; 0 for a way that holds no line. -/
def Slice.stampOf (x : Slice) (i w : Nat) : Nat :=
  match x.ways.find? (fun y => y.set == i && y.way == w) with
  | some y => y.stamp
  | none => 0

/-- The least recently used of some ways of a set. -/
def Slice.lru (x : Slice) (i : Nat) : List Nat → Option Nat
  | [] => none
  | w :: r =>
    match x.lru i r with
    | none => some w
    | some b => if x.stampOf i b < x.stampOf i w then some b else some w

/-- Whether an access of a class waits at a slice: the mask of its class holds a waking way (R204, R206; log entry
61). -/
def Slice.waits (x : Slice) (cls : Nat) : Bool := x.waking.any fun p => (x.masks.getD cls 0).getLsbD p.1

/-- One access of a class to a line at its home slice: a hit makes the way the most recent, a miss fills the victim
of R204 or bypasses the slice. -/
def Slice.access (x : Slice) (line cls : Nat) : Slice :=
  let i := line % 64
  let x := { x with clock := x.clock + 1 }
  match x.ways.find? fun y => y.set == i && y.line == line with
  | some y => { x with ways := x.ways.map fun z =>
      if z.set == i && z.way == y.way then { z with stamp := x.clock } else z }
  | none =>
    let us := ((List.range 16).filter (x.masks.getD cls 0).getLsbD).filter (x.usable i)
    let invalid := us.find? fun w => !(x.ways.any fun y => y.set == i && y.way == w)
    match (match invalid with | some w => some w | none => x.lru i us) with
    | none => x
    | some w =>
      { x with ways := { set := i, way := w, line := line, owner := cls, stamp := x.clock } ::
          x.ways.filter fun y => !(y.set == i && y.way == w) }

/-- The valid lines a class owns (R205). -/
def Slice.occ (x : Slice) (cls : Nat) : Nat := (x.ways.filter fun y => y.owner == cls).length

/-- A line homed elsewhere enters the RDC of a die, which holds 32 MiB; which line leaves a full one is a free value
(R8, R201; log entry 60). -/
def State.rdcFill (s : State) (source line : Nat) : State :=
  let mine := s.rdc.filter fun r => r.1 == source
  if mine.length < Config.rdcLines then { s with rdc := (source, line, s.commitSeq) :: s.rdc }
  else
    let out := (mine.getD (Config.rdcVictim s.fresh % mine.length) (source, line, 0)).2.1
    { s with fresh := s.fresh + 1,
             rdc := (source, line, s.commitSeq) :: s.rdc.filter fun r => !(r.1 == source && r.2.1 == out) }

/-- An access by an agent of die `source` in a class: through the RDC of that die when the line is homed elsewhere, and
at the home slice, where it waits for a page that moves and for a way that wakes (R199, R201–R206). -/
def State.touch (s : State) (source : Nat) (pa cls : Nat) : State :=
  match s.homeSlice pa with
  | none => s
  | some (d, c, k) =>
    let line := lineOf pa
    if d ≠ source && s.rdc.any (fun r => r.1 == source && r.2.1 == line) then s
    else if s.moving.any (fun m => m.1 == pa / 65536) || (s.slice d c k).waits cls then
      { s with cacheWaits := s.cacheWaits ++ [(source, pa, cls)] }
    else
      let s := if d ≠ source then s.rdcFill source line else s
      s.setSlice ((s.slice d c k).access line cls)

/-- An access made at the home slice itself, in a class (R94, R203, R297). -/
def State.touchHome (s : State) (pa cls : Nat) : State :=
  match s.homeDie pa with
  | some d => s.touch d pa cls
  | none => s

/-- The lines of some addresses are accessed, each once (R203). -/
def State.touchLines (s : State) (source cls : Nat) (pas : List Nat) : State :=
  (pas.map lineOf).eraseDups.foldl (fun s l => s.touch source (128 * l) cls) s

/-- A line leaves its home slice and every RDC: another agent has taken it (R201, R363). -/
def State.dropLine (s : State) (line : Nat) : State :=
  let s := { s with rdc := s.rdc.filter fun r => r.2.1 != line }
  match s.homeSlice (128 * line) with
  | none => s
  | some (d, c, k) => s.setSlice { s.slice d c k with ways := (s.slice d c k).ways.filter fun w => w.line != line }

/-- The accesses that wait at slices are tried again, in the order in which they came (R199, R206). -/
def State.cacheGoOn (s : State) : State :=
  s.cacheWaits.foldl (fun s w => s.touch w.1 w.2.1 w.2.2) { s with cacheWaits := [] }

/-! ### Translation -/

/-- Why an address has no translation: a miss that a resolver may mend, one that ends the task, or a table in a window
whose link is down (R195, R363). -/
inductive XErr where
  | miss
  | bad
  | host
deriving DecidableEq, Repr

/-- Bits [hi:lo] of a number. -/
def bitsOf (v hi lo : Nat) : Nat := v / 2 ^ lo % 2 ^ (hi - lo + 1)

/-- Whether a table entry is malformed at a level, apart from its alignment (R195). -/
def badEntry (e level : Nat) : Bool :=
  bitsOf e 11 6 ≠ 0 || bitsOf e 63 52 ≠ 0 || (level == 0 && bitsOf e 1 1 == 1) ||
  (level == 3 && bitsOf e 1 1 == 0) || (bitsOf e 3 3 == 1 && bitsOf e 4 4 == 1) ||
  (level ≠ 3 && bitsOf e 5 5 == 1)

/-- The leaf that an entry gives for a page of `size` bytes, if its frame is aligned (R194, R195). -/
def leafOf (ctx va e size : Nat) : Except XErr TlbEntry :=
  let pa := bitsOf e 51 12 * 4096
  if pa % size ≠ 0 then .error .bad
  else .ok { ctx := ctx, va := va / size * size, size := size, pa := pa, w := bitsOf e 2 2 == 1,
             ch := bitsOf e 3 3 == 1, io := bitsOf e 4 4 == 1 }

/-- One entry of a table in committed memory, read by a walker of die `d` in class 0; a table with no home is not
resolvable, and one in a window whose link is down faults HOST (R195, R199, R203, R363). -/
def State.tableEntry (s : State) (d table idx : Nat) : State × Except XErr Nat :=
  let a := table + 8 * idx
  if !s.hasHome a then (s, .error .bad)
  else if s.linkDown a then (s, .error .host)
  else (s.touch d a 0, .ok (s.natAt a 8))

/-- The last level: a 64 KiB page by the first entry of its group, or a 4 KiB page by entry i (R195). An entry with
V = 0 is a miss whatever its C bit (log entry 21). -/
def State.walkLast (s : State) (d ctx va table : Nat) : State × Except XErr TlbEntry :=
  let i := bitsOf va 20 12
  match s.tableEntry d table (i / 16 * 16) with
  | (s, .error x) => (s, .error x)
  | (s, .ok first) =>
    if bitsOf first 0 0 == 1 && bitsOf first 5 5 == 1 then
      (s, if badEntry first 3 then .error .bad else leafOf ctx va first 65536)
    else match (if i % 16 = 0 then (s, .ok first) else s.tableEntry d table i) with
      | (s, .error x) => (s, .error x)
      | (s, .ok e) =>
        (s, if bitsOf e 0 0 == 0 then .error .miss
            else if badEntry e 3 || bitsOf e 5 5 == 1 then .error .bad
            else leafOf ctx va e 4096)

/-- The upper levels of a walk: (level, index high bit, index low bit, bytes a leaf maps) (R194, R195). -/
def State.walkFrom (s : State) (d ctx va : Nat) : Nat → List (Nat × Nat × Nat × Nat) → State × Except XErr TlbEntry
  | table, [] => s.walkLast d ctx va table
  | table, (level, hi, lo, size) :: rest =>
    match s.tableEntry d table (bitsOf va hi lo) with
    | (s, .error x) => (s, .error x)
    | (s, .ok e) =>
      if bitsOf e 0 0 == 0 then (s, .error .miss)
      else if badEntry e level then (s, .error .bad)
      else if bitsOf e 1 1 == 1 then (s, leafOf ctx va e size)
      else s.walkFrom d ctx va (bitsOf e 51 12 * 4096) rest

/-- A doubleword of a context-table entry (R193); an id at or above CTXCOUNT has V = 0 (R356). -/
def State.ctxWord (s : State) (ctx n : Nat) : Nat :=
  if ctx < s.ctxCount.toNat then s.natAt (s.ctxBase.toNat + 64 * ctx + 8 * n) 8 else 0

/-- Whether a context is a system context (R89, R193). -/
def State.isSystem (s : State) (ctx : Nat) : Bool := bitsOf (s.ctxWord ctx 1) 1 1 == 1

/-- Whether the context-table entry of a context lies in a window whose link is down (R363). -/
def State.ctxDown (s : State) (ctx : Nat) : Bool :=
  ctx < s.ctxCount.toNat && s.linkDown (s.ctxBase.toNat + 64 * ctx)

/-- The trap of what only a system context may do (R89, R193): PRIV in another one, HOST where its table entry cannot be read (R363). -/
def State.systemErr (s : State) (ctx : Nat) : Option Trap :=
  if s.ctxDown ctx then some .host else if s.isSystem ctx then none else some .priv

/-- A walker of die `d` reads the context-table entry of a context, in class 0 (R193, R203); there is none at or above CTXCOUNT (R356). -/
def State.ctxRead (s : State) (d ctx : Nat) : State :=
  if ctx < s.ctxCount.toNat then s.touch d (s.ctxBase.toNat + 64 * ctx) 0 else s

/-- The four-level walk (R193–R195), by a walker of die `d`. -/
def State.walk (s : State) (d ctx va : Nat) : State × Except XErr TlbEntry :=
  if 2 ^ 52 ≤ va then (s, .error .bad)
  else if s.ctxDown ctx then (s, .error .host)
  else if bitsOf (s.ctxWord ctx 1) 0 0 == 0 then (s.ctxRead d ctx, .error .bad)
  else (s.ctxRead d ctx).walkFrom d ctx va (bitsOf (s.ctxWord ctx 0) 51 16 * 65536)
    [(0, 51, 39, 1), (1, 38, 30, 2 ^ 30), (2, 29, 21, 2 ^ 21)]

/-- Whether a TLB entry covers an address of a context. -/
def TlbEntry.covers (e : TlbEntry) (ctx va : Nat) : Bool := e.ctx == ctx && e.va ≤ va && va < e.va + e.size

/-- Translate an address at a port of die `d` (R193–R196). A TLB that still holds the leaf gives it, unless `tlbDrops`
says that the entry was evicted; a walk that finds a leaf leaves it in the TLBs. -/
def State.translate (s : State) (d ctx va : Nat) : State × Except XErr TlbEntry :=
  let doWalk (s : State) : State × Except XErr TlbEntry :=
    match s.walk d ctx va with
    | (s, .ok e) => ({ s with tlb := e :: s.tlb }, .ok e)
    | (s, .error x) => (s, .error x)
  if 2 ^ 52 ≤ va then (s, .error .bad)
  else match s.tlb.find? fun e => e.covers ctx va with
    | none => doWalk s
    | some e =>
      match s.tlbDrops with
      | true :: r => doWalk { s with tlbDrops := r, tlb := s.tlb.filter fun x => !x.covers ctx va }
      | false :: r => ({ s with tlbDrops := r }, .ok e)
      | [] => (s, .ok e)

/-- The addresses of a context at which leaves of its tables map a physical address, from a table on that maps `va` upwards: the entries
of a table of each level and the bytes that one of them maps (R194, R195). -/
def State.mappedFrom (s : State) (pa : Nat) : List (Nat × Nat) → Nat → Nat → List Nat
  | [], _, _ => []
  | (n, step) :: rest, table, va =>
    (List.range n).flatMap fun i =>
      let e := s.natAt (table + 8 * i) 8
      let frame := bitsOf e 51 12 * 4096
      let size := if step = 4096 && bitsOf e 5 5 == 1 then 65536 else step
      if bitsOf e 0 0 == 0 then []
      else if bitsOf e 1 1 == 0 then s.mappedFrom pa rest frame (va + i * step)
      else if frame ≤ pa && pa < frame + size then [va + i * step + (pa - frame)]
      else []

/-- The physical address of a virtual one through a leaf. -/
def TlbEntry.phys (e : TlbEntry) (va : Nat) : Nat := e.pa + (va - e.va)

/-- The addresses of a context that lead to a physical one: by the leaves that the TLBs hold, and by the tables (R193–R196). -/
def State.aliases (s : State) (d ctx pa : Nat) : List Nat :=
  let held := (s.tlb.filter fun e => e.ctx == ctx && e.pa ≤ pa && pa < e.pa + e.size).map fun e => e.va + (pa - e.pa)
  let mapped := s.mappedFrom pa [(8192, 2 ^ 39), (512, 2 ^ 30), (512, 2 ^ 21), (512, 4096)]
    (bitsOf (s.ctxWord ctx 0) 51 16 * 65536) 0
  held ++ mapped.filter fun va => match (s.walk d ctx va).2 with
    | .ok e => e.phys va == pa
    | .error _ => false

end Sys2Proof.Machine
end

