-- ==== Sys2Proof/Machine/Access.lean ====
section
/-! DEFINITION. The fields of records and handles, the tasks of the package, and a task's own view of global memory
and of scratch (R15, R27, R144–R146, R198, R207, R285). -/

namespace Sys2Proof.Machine

open Sys2Proof

/-! ### Records and handles (R15, R27) -/

/-- A record from its eight doublewords. -/
def Record.ofWords (f : Nat → Word) : Record :=
  { dw0 := f 0, dw1 := f 1, dw2 := f 2, dw3 := f 3, dw4 := f 4, dw5 := f 5, dw6 := f 6, dw7 := f 7 }

/-- A record from its 64 bytes. -/
def Record.ofBytes (l : List Byte) : Record :=
  Record.ofWords fun k => BitVec.ofNat 64 (ofLeBytes ((l.drop (8 * k)).take 8))

/-- The doublewords of a record in order. -/
def Record.words (r : Record) : List Word := [r.dw0, r.dw1, r.dw2, r.dw3, r.dw4, r.dw5, r.dw6, r.dw7]

/-- The 64 bytes of a record. -/
def Record.bytes (r : Record) : List Byte := r.words.flatMap fun w => natBytes 8 w.toNat

/-- Bits [hi:lo] of a doubleword as a number. -/
def wbits (w : Word) (hi lo : Nat) : Nat := bitsOf w.toNat hi lo

def Record.ts (r : Record) : Nat := r.dw3.toNat
def Record.packets (r : Record) : Nat := wbits r.dw4 31 0
def Record.hold (r : Record) : Nat := wbits r.dw4 47 32
def Record.prio (r : Record) : Nat := wbits r.dw4 53 48
def Record.pmode (r : Record) : Nat := wbits r.dw4 55 54
def Record.ftz (r : Record) : Bool := r.dw4.getLsbD 56
def Record.mig (r : Record) : Bool := r.dw4.getLsbD 57
def Record.rohint (r : Record) : Bool := r.dw4.getLsbD 58
def Record.homehint (r : Record) : Bool := r.dw4.getLsbD 59
def Record.notice (r : Record) : Bool := r.dw4.getLsbD 60
def Record.rows (r : Record) : Nat := wbits r.dw5 3 0 + 1
def Record.clusters (r : Record) : Nat := wbits r.dw5 7 4 + 1
def Record.engines (r : Record) : Nat := wbits r.dw5 12 8
def Record.low (r : Record) : Nat := wbits r.dw5 63 32
def Record.noticeChan (r : Record) : Nat := wbits r.dw7 15 0
def Record.cls (r : Record) : Nat := wbits r.dw7 19 16
def Record.ctx (r : Record) : Nat := wbits r.dw7 35 20
def Record.report (r : Record) : Nat := wbits r.dw7 63 36 * 64

/-- The slot, cluster and die of a handle (R27). -/
def hSlot (h : Word) : Nat := wbits h 1 0
def hCluster (h : Word) : Nat := wbits h 8 2
def hDie (h : Word) : Nat := wbits h 10 9

/-- The handle of an admission (R27). -/
def mkHandle (die cluster slot : Nat) (gen : BitVec 32) : Word :=
  BitVec.ofNat 64 (slot + 4 * cluster + 512 * die + 2 ^ 32 * gen.toNat)

/-- A timestamp as an age: 0 counts as 2^64 (R290). -/
def tsKey (ts : Nat) : Nat := if ts = 0 then 2 ^ 64 else ts

/-- Compare lists of numbers in order. -/
def lexLt : List Nat → List Nat → Bool
  | a :: as, b :: bs => a < b || (a == b && lexLt as bs)
  | _, _ => false

/-- The age key of a task: timestamp, snapshot number, handle (R290). The smaller is the older. -/
def Task.age (t : Task) : List Nat := [tsKey t.crec.ts, t.snapNum, t.handle.toNat]

/-- Whether one task is older than another (R290). -/
def Task.older (t u : Task) : Bool := lexLt t.age u.age

/-! ### The tasks of the package -/

/-- The resident task a handle names (R27). -/
def State.task? (s : State) (h : Word) : Option Task := s.tasks.find? fun t => t.handle == h

/-- Put a task back. -/
def State.putTask (s : State) (t : Task) : State :=
  { s with tasks := s.tasks.map fun u => if u.handle == t.handle then t else u }

/-- Remove a resident task. -/
def State.dropTask (s : State) (h : Word) : State := { s with tasks := s.tasks.filter fun u => u.handle != h }

/-- Every task that is admitted and not retired, the saved ones among them (R290). -/
def State.allTasks (s : State) : List Task := s.tasks ++ s.saved.map Saved.task

/-- A fresh number of the model. -/
def State.newId (s : State) : State × Nat := ({ s with nextId := s.nextId + 1 }, s.nextId)

/-- A fresh free value of `n` bytes (log entry 12). -/
def State.freeBytes (s : State) (n : Nat) : State × List Byte :=
  ({ s with fresh := s.fresh + n }, (List.range n).map fun i => Config.freeByte (s.fresh + i))

/-- The Bureau of a die logs an event. -/
def State.log (s : State) (die code : Nat) : State := { s with out := s.out ++ [.bureauLog die code] }

/-- The lead cluster of a task (R122). -/
def Task.lead (t : Task) : Nat := (t.members.headD default).cluster

/-- The member of cluster-in-gang `k`. -/
def Task.member (t : Task) (k : Nat) : Member := t.members.getD k default

/-! ### Registers of a thread (R25) -/

/-- Read an integer register; x0 reads 0. -/
def readReg (r : Vector Word 32) (i : Reg) : Word := if i = 0 then 0 else r[i.toNat]

/-- Write an integer register; a write to x0 is discarded. -/
def writeReg (r : Vector Word 32) (i : Reg) (v : Word) : Vector Word 32 := if i = 0 then r else r.set i.toNat v

def Task.x (t : Task) (i : Reg) : Word := readReg t.regs i
def Task.setX (t : Task) (i : Reg) (v : Word) : Task := { t with regs := writeReg t.regs i v }

/-- The instruction is complete: the program counter moves on and the thread waits for nothing. -/
def Task.advance (t : Task) (n : Nat) : Task :=
  { t with pc := t.pc + BitVec.ofNat 64 n, wait := none, paid := false }

/-- The thread is blocked in an instruction whose issue draw was taken (R135). -/
def Task.block (t : Task) (i : Instr) : Task := { t with wait := some i, paid := true }

/-- Set sticky flags (R78). -/
def Task.flag (t : Task) (f : BitVec 8) : Task := { t with flags := t.flags ||| f }

/-- The value of a timeline. -/
def Task.timeline (t : Task) (n : Nat) : Nat := (t.tl.toList.getD n 0).toNat

/-- Set a timeline. -/
def Task.setTimeline (t : Task) (n v : Nat) : Task :=
  { t with tl := t.tl.setIfInBounds n (BitVec.ofNat 64 v) }

/-! ### Scratch (R144, R189) -/

/-- Whether a cell index lies in the region of a task (R37). -/
def Task.cellOk (t : Task) (c : Nat) : Bool := c / 64 < t.members.length && c % 64 / 8 < t.crec.rows

/-- Where offset `o` of cell `c` of a task's region lies in the package's scratch. -/
def Task.scratchAt (t : Task) (c o : Nat) : Nat :=
  let m := t.member (c / 64)
  ((t.die * 104 + m.cluster) * 64 + (m.row + c % 64 / 8) * 8 + c % 8) * 2 ^ 17 + o

/-- Whether a scratch address of `n` bytes lies within a cell of the region (R144). -/
def Task.scratchOk (t : Task) (a n : Nat) : Bool :=
  a < 2 ^ 32 && a % 2 ^ 17 + n ≤ Config.scratchBytes && t.cellOk (a / 2 ^ 17)

/-- Bytes of scratch at an address in the form of R144. -/
def State.scratchRead (s : State) (t : Task) (a n : Nat) : List Byte :=
  s.scratch.read (t.scratchAt (a / 2 ^ 17) (a % 2 ^ 17)) n

/-- Write bytes of scratch, at once. -/
def State.scratchWrite (s : State) (t : Task) (a : Nat) (l : List Byte) : State :=
  { s with scratch := s.scratch.write (t.scratchAt (a / 2 ^ 17) (a % 2 ^ 17)) l }

/-! ### Pages (R195, R198, R199, R363) -/

/-- Why an access fails: a miss that is resolvable, an address with no translation, a page that forbids it, a
window whose link is down. -/
inductive AccErr where
  | miss
  | bad
  | perm
  | host
deriving DecidableEq, Repr

/-- The trap of a failed access. -/
def AccErr.trap : AccErr → Trap
  | .miss => .xlate
  | .bad => .xlate
  | .perm => .perm
  | .host => .host

/-- The kinds of access (R317). -/
inductive AccKind where
  | load
  | store
  | fetch
deriving DecidableEq, Repr

/-- Check a physical address for an access through a leaf: a window whose link is down, the RO, CH and IO columns of
R198, the home (R199), the window's WR bit (R362, R363). -/
def State.checkPage (s : State) (e : TlbEntry) (pa : Nat) (k : AccKind) : Option AccErr :=
  if s.linkDown pa then some .host
  else if e.ch then some .perm
  else if k == .fetch && e.io then some .perm
  else if k == .store && !e.w then some .perm
  else if !s.hasHome pa then some .perm
  else match s.winOf pa with
    | none => none
    | some w => if k == .store && !w.wr then some .perm else none

/-- Why a translation failed, as a failed access. -/
def XErr.acc : XErr → AccErr
  | .miss => .miss
  | .bad => .bad
  | .host => .host

/-- Translate and check one access of a context at a port of die `d` (R195–R199). -/
def State.access (s : State) (d ctx va : Nat) (k : AccKind) : State × Except AccErr (Nat × TlbEntry) :=
  match s.translate d ctx va with
  | (s, .error x) => (s, .error x.acc)
  | (s, .ok e) =>
    let pa := e.phys va
    match s.checkPage e pa k with
    | some x => (s, .error x)
    | none => (s, .ok (pa, e))

/-- Translate and check an access of `n` bytes that may cross pages: one translation for each byte's page. The
physical address of every byte, in order, with its leaf. -/
def State.accessRange (s : State) (d ctx : Nat) (k : AccKind) : Nat → Nat → State × Except (AccErr × Nat) (List (Nat × TlbEntry))
  | _, 0 => (s, .ok [])
  | va, n + 1 =>
    match s.access d ctx va k with
    | (s, .error e) => (s, .error (e, va))
    | (s, .ok p) =>
      match s.accessRange d ctx k (va + 1) n with
      | (s, .error e) => (s, .error e)
      | (s, .ok r) => (s, .ok (p :: r))

/-! ### A task's own view (R145, R285) -/

/-- The Snapshot byte at a physical address (R284). -/
def Task.snapByte (t : Task) (s : State) (pa : Nat) : Byte :=
  match s.winOf pa with
  | none => t.snap.get pa
  | some w =>
    let a := w.hostBase.toNat + (pa - w.dev.toNat)
    match t.snapHost.get? a with
    | some b => b
    | none => Config.hostMemory a

/-- The byte a task's global read returns: from an IO page the committed byte now, else its own latest write, else
the Snapshot (R145, R198, R285). -/
def Task.ownByte (t : Task) (s : State) (p : Nat × TlbEntry) : Byte :=
  if p.2.io then s.byteAt p.1
  else match t.cup.get? p.1 with
    | some b => b
    | none => t.snapByte s p.1

/-- Whether a read is tracked: not from an RO or IO page, not under ROHINT, not by an irrevocable task (R289, R293). -/
def Task.tracked (t : Task) (e : TlbEntry) : Bool := e.w && !e.io && !t.crec.rohint && !t.irrevocable

/-- Add a line to the read set of a cluster-in-gang; none when it would overflow (R289, R293). -/
def Task.track (t : Task) (k line : Nat) : Option Task :=
  if t.readSet.contains (k, line) then some t
  else if (t.readSet.filter fun r => r.1 == k).length ≥ Config.readSetLines then none
  else some { t with readSet := (k, line) :: t.readSet }

/-- How a read or a write of a task ends, apart from success: a failed access at an address, a read set that would
overflow, a share at its limit, a write that waits for Cupboard space, another trap. -/
inductive ViewErr where
  | acc (e : AccErr) (va : Nat)
  | overflow
  | full
  | space (k n : Nat)
  | trap (c : Trap)
deriving DecidableEq, Repr

/-- The lines of a tracked read. -/
def Task.trackAll (t : Task) (k : Nat) : List (Nat × TlbEntry) → Option Task
  | [] => some t
  | p :: r =>
    if t.tracked p.2 then
      match t.track k (lineOf p.1) with
      | none => none
      | some t => t.trackAll k r
    else t.trackAll k r

/-- The ports of the control thread's loads and stores and of its nests (R317). -/
def threadPort : PortId := { kind := 1, place := 0, part := 0 }
def nestPort : PortId := { kind := 6, place := 0, part := 0 }

/-- A port waits for no space any more: its write has found it, or was given up (R130, R220). -/
def Task.gotSpace (t : Task) (p : PortId) : Task := { t with spaceWait := t.spaceWait.filter fun w => w.1 != p }

/-- A port waits until its task's share in cluster-in-gang `k` may grow to `n` bytes (R130). -/
def Task.awaitSpace (t : Task) (p : PortId) (k n : Nat) : Task :=
  { t with spaceWait := (p, k, n) :: (t.gotSpace p).spaceWait }

/-- Read `n` global bytes in a task's own view through a port of cluster-in-gang `k` (R145, R285, R289): the task
with its read set, and the bytes. Non-IO lines pass through the caches in the task's class (R201–R204). -/
def State.viewRead (s : State) (t : Task) (k va n : Nat) : State × Except ViewErr (Task × List Byte) :=
  match s.accessRange t.die t.crec.ctx .load va n with
  | (s, .error (e, a)) => (s, .error (.acc e a))
  | (s, .ok ps) =>
    match t.trackAll k ps with
    | none => (s, .error .overflow)
    | some t =>
      let s := s.touchLines t.die t.crec.cls ((ps.filter fun p => !p.2.io).map Prod.fst)
      (s, .ok (t, ps.map fun p => t.ownByte s p))

/-! ### The Cupboard (R130, R146, R207) -/

/-- Bytes of a cluster's Cupboard in use by resident tasks. -/
def State.cupUsed (s : State) (die cluster : Nat) : Nat :=
  (s.tasks.filter fun t => t.die == die).foldl (fun n t =>
    (List.range t.members.length).foldl (fun n k =>
      if (t.member k).cluster == cluster then n + t.share.getD k 0 else n) n) 0

/-- Grow a task's share in a cluster-in-gang: CUPBOARD_FULL beyond 256 KiB, a wait for the grown share while the Cupboard is full. The
share that counts is the one the task has now, in the midst of a step. -/
def State.growShare (s : State) (t : Task) (k n : Nat) : Except ViewErr Task :=
  if t.share.getD k 0 + n > Config.shareCap then .error .full
  else if (s.putTask t).cupUsed t.die (t.member k).cluster + n > Config.cupboardBytes then .error (.space k (t.share.getD k 0 + n))
  else .ok { t with share := setAt t.share k (t.share.getD k 0 + n) }

/-- Make sure a line has room in a task's Cupboard of cluster-in-gang `k`. -/
def State.cupLine (s : State) (t : Task) (k line : Nat) : Except ViewErr Task :=
  if t.cupLines.contains (k, line) then .ok t
  else match s.growShare t k 128 with
    | .error e => .error e
    | .ok t => .ok { t with cupLines := (k, line) :: t.cupLines }

/-- Make sure every line has room. -/
def State.cupLineAll (s : State) (t : Task) (k : Nat) : List Nat → Except ViewErr Task
  | [] => .ok t
  | a :: r =>
    match s.cupLine t k (lineOf a) with
    | .error e => .error e
    | .ok t => (s.putTask t).cupLineAll t k r

/-- The share that a task needs in cluster-in-gang `k` for a write to some lines. -/
def Task.shareFor (t : Task) (k : Nat) (l : List Nat) : Nat :=
  t.share.getD k 0 + 128 * ((l.map lineOf).eraseDups.filter fun a => !t.cupLines.contains (k, a)).length

/-- Put bytes into a task's Cupboard of cluster-in-gang `k` at translated addresses (R146). -/
def State.cupWrite (s : State) (t : Task) (k : Nat) (ps : List (Nat × TlbEntry)) (l : List Byte) : Except ViewErr Task :=
  match s.cupLineAll t k (ps.map Prod.fst) with
  | .error (.space k _) => .error (.space k (t.shareFor k (ps.map Prod.fst)))
  | .error e => .error e
  | .ok t => .ok { t with
      cup := (ps.zip l).foldl (fun o p => o.set p.1.1 p.2) t.cup
      ioLines := ((ps.filter fun p => p.2.io).map fun p => lineOf p.1).eraseDups.filter (fun l => !t.ioLines.contains l) ++
        t.ioLines }

/-- Write global bytes in a task's own view (R146, R207). -/
def State.viewWrite (s : State) (t : Task) (k va : Nat) (l : List Byte) : State × Except ViewErr Task :=
  match s.accessRange t.die t.crec.ctx .store va l.length with
  | (s, .error (e, a)) => (s, .error (.acc e a))
  | (s, .ok ps) => (s, s.cupWrite t k ps l)

/-- Make room for global bytes that a task will store: the checks and the lines of a store, and no byte of it yet (R247). -/
def State.viewClaim (s : State) (t : Task) (k va n : Nat) : State × Except ViewErr (Task × List (Nat × TlbEntry)) :=
  match s.accessRange t.die t.crec.ctx .store va n with
  | (s, .error (e, a)) => (s, .error (.acc e a))
  | (s, .ok ps) => (s, (s.cupWrite t k ps []).map fun t => (t, ps))

end Sys2Proof.Machine
end

