-- ==== Sys2Proof/Machine/Channels.lean ====
section
/-! DEFINITION. The live state of channels: capacity, placement of entries, publication, tentative pops, release of
sides and closing (R263–R270, R278, R358, R364). -/

namespace Sys2Proof.Machine

open Sys2Proof

/-- Bytes of an element (R264). -/
def Chan.size (c : Chan) : Nat := 4 * 2 ^ c.esize

/-- Elements that one Hutch page holds (R264). -/
def Chan.perPage (c : Chan) : Nat := 4096 / c.size

/-- The capacity of a channel in elements (R265). -/
def Chan.capacity (c : Chan) : Nat := c.cap + (c.budget + c.grown) * c.perPage

/-- Published entries held in the Hutch (R264 SPILLED). -/
def Chan.spilled (c : Chan) : Nat := (c.entries.filter fun e => e.page.isSome).length

/-- The Hutch pages in use (R264 INUSE). -/
def Chan.usedPages (c : Chan) : List Nat := (c.entries.filterMap fun e => e.page.map Prod.fst).eraseDups

/-- The channel `num` of a context, when it is not CLOSED. -/
def State.chan? (s : State) (ctx num : Nat) : Option Chan := s.channels.find? fun c => c.ctx == ctx && c.num == num

/-- Put a channel back. -/
def State.putChan (s : State) (c : Chan) : State :=
  { s with channels := s.channels.map fun x => if x.ctx == c.ctx && x.num == c.num then c else x }

/-- The entry count of a context's channel table (R193, R263). -/
def State.chanCount (s : State) (ctx : Nat) : Nat := bitsOf (s.ctxWord ctx 3) 16 0

/-- The virtual address of a channel table entry (R263). -/
def State.cteAddr (s : State) (ctx num : Nat) : Nat := (s.ctxWord ctx 2 + 64 * num) % 2 ^ 64

/-- The places of the Hutch pages that a channel may use, BUDGET + GROWN of its list, in list order (R264, R270). -/
def Chan.hutch (c : Chan) : List (Nat × Nat) :=
  (List.range (min (c.budget + c.grown) c.len)).flatMap fun p => (List.range c.perPage).map fun i => (p, i)

/-- Where the next Hutch entry goes: behind the last one on its page, else on the first page that is not in use, else in
the first place of the pages in use that an entry has left (R270; log entry 18). -/
def Chan.hutchTail (c : Chan) : Option (Nat × Nat) :=
  let used := c.entries.filterMap fun e => e.page
  let free := c.hutch.filter fun p => !used.contains p
  let next := match used.getLast? with
    | some (p, i) => free.find? fun q => q == (p, i + 1)
    | none => none
  match next with
  | some q => some q
  | none => match free.find? fun q => !c.usedPages.contains q.1 with
    | some q => some q
    | none => free.head?

/-- Publish one entry at the tail (R270). A commit, a notice and the link publish within the capacity only, so that a
place is free. -/
def Chan.place (c : Chan) (data : List Byte) (notice : Bool) : Chan :=
  let onChip := c.spilled == 0 && c.entries.length < c.cap
  { c with
    entries := c.entries ++ [{ data := data, tent := none, page := if onChip then none else c.hutchTail,
                               sent := false, notice := notice }],
    tail := c.tail + 1 }

/-- Move the oldest Hutch entries into free slots (R270). -/
def Chan.refill (c : Chan) : Chan :=
  let free := c.cap - (c.entries.length - c.spilled)
  let rec go : Nat → List Entry → List Entry
    | _, [] => []
    | 0, l => l
    | n + 1, e :: r => if e.page.isSome then { e with page := none } :: go n r else e :: go (n + 1) r
  { c with entries := go free c.entries }

/-- Zero the pages that a change of the entries released (R270, R358); of a page that the device does not reach it writes nothing (R199,
R363). -/
def State.zeroPages (s : State) (before after : Chan) : State :=
  (before.usedPages.filter fun p => !after.usedPages.contains p).foldl
    (fun s p => s.setHomed (before.pages.getD p 0) (List.replicate 4096 0)) s

/-- Advance HEAD past the entries a task popped tentatively (R268, R270). -/
def Chan.commitPops (c : Chan) (h : Word) : Chan :=
  let kept := c.entries.filter fun e => e.tent != some h
  Chan.refill { c with entries := kept, head := c.head + BitVec.ofNat 32 (c.entries.length - kept.length) }

/-- Return the entries a task popped tentatively (R268). -/
def Chan.returnPops (c : Chan) (h : Word) : Chan :=
  { c with entries := c.entries.map fun e => if e.tent == some h then { e with tent := none } else e }

/-- Whether any task holds pushes for a channel. -/
def State.heldPushes (s : State) (ctx num : Nat) : Nat :=
  s.allTasks.foldl (fun n t =>
    if t.crec.ctx == ctx then n + (t.pushes.filter fun p => p.1 == num).length else n) 0

/-- The DEV fields of a channel in its table entry (R264, R265): the lines of an IO page among them (R201), and the bytes to write, if the
entry is mapped. -/
def State.devBytes (s : State) (c : Chan) (state : Nat) : State × List Nat × List (Nat × Byte) :=
  match s.access c.rdie c.ctx (s.cteAddr c.ctx c.num) .load with
  | (s, .error _) => (s, [], [])
  | (s, .ok (pa, e)) =>
    let w (k : Nat) : Nat := s.natAt (pa + 8 * k) 8
    let dw0 := bitsOf (w 0) 15 0 + state % 8 * 2 ^ 16 + bitsOf (w 0) 47 19 * 2 ^ 19 + c.grown % 2 ^ 16 * 2 ^ 48
    let dw2 := bitsOf (w 2) 10 0 + (if c.remote then 2 ^ 11 else 0) + (if c.rdir then 2 ^ 12 else 0) +
      bitsOf (w 2) 63 13 * 2 ^ 13
    let dw3 := c.peer.toNat + c.far.toNat * 2 ^ 16 + c.port.toNat * 2 ^ 32 + bitsOf (w 3) 63 36 * 2 ^ 36
    let dw4 := c.head.toNat + c.tail.toNat * 2 ^ 32
    let dw5 := c.spilled + c.usedPages.length * 2 ^ 32 + bitsOf (w 5) 63 48 * 2 ^ 48
    (s, if e.io then [lineOf pa] else [], atAddr pa (natBytes 8 dw0) ++
      atAddr (pa + 16) (natBytes 8 dw2 ++ natBytes 8 dw3 ++ natBytes 8 dw4 ++ natBytes 8 dw5 ++
        natBytes 8 c.writer.toNat ++ natBytes 8 c.reader.toNat))

/-- The spill reserve of a context on a die, in pages (R272, R356). -/
def Die.reserve (d : Die) (ctx : Nat) : Nat := (assocD d.quotas ctx (0, 0)).2

/-- The top-up quota of a context on a die, in packets (R117, R356). -/
def Die.quota (d : Die) (ctx : Nat) : Nat := (assocD d.quotas ctx (0, 0)).1

/-- Set quota and reserve of a context on a die. -/
def Die.setQuota (d : Die) (ctx q r : Nat) : Die := { d with quotas := assocSet d.quotas ctx (q, r) }

/-! ### Landing bytes at home (R201, R203) -/

/-- Put bytes at home in a class. The lines of `out` enter no cache: those written through an IO page, and one that the
host takes (R201, R363). -/
def State.publish (s : State) (cls : Nat) (out : List Nat) (bytes : List (Nat × Byte)) : State :=
  ((bytes.map fun p => lineOf p.1).eraseDups.filter fun l => !out.contains l).foldl
    (fun s l => s.touchHome (128 * l) cls) (s.land bytes)

/-- The DEV fields of a channel are written back to memory (R265). -/
def State.writeBack (s : State) (c : Chan) (state : Nat) : State :=
  let (s, out, bytes) := s.devBytes c state
  s.publish 0 out bytes

/-! ### Closing (R278) -/

/-- Return a channel to CLOSED: its slots and pages are released and zeroed, its grown pages return to the reserve,
and its DEV fields are written back under a commit number that publishes no data (R265, R272, R278, R283). -/
def State.closeChan (s : State) (c : Chan) : State :=
  let shut := { c with entries := [], grown := 0, remote := false, writer := 0, reader := 0 }
  let s := s.zeroPages c shut
  let s := { s with channels := s.channels.filter (fun x => !(x.ctx == c.ctx && x.num == c.num)),
                    commitSeq := s.commitSeq + 1 }
  let s := s.writeBack shut 0
  let s := s.updDie c.rdie fun d => d.setQuota c.ctx (d.quota c.ctx) (d.reserve c.ctx + c.grown)
  let x := s.slice c.rdie c.rcluster c.rslice
  s.setSlice { x with slotWays := x.slotWays.filter fun p => !c.slots.contains p }

/-- Release the sides a task holds on a channel; the last release closes a BROKEN one (R266, R278). -/
def State.releaseChan (s : State) (c : Chan) (h : Word) (w r : Bool) : State :=
  let c' := { c with writer := if w && c.writer == h then 0 else c.writer,
                     reader := if r && c.reader == h then 0 else c.reader }
  if c'.state == .broken && c'.writer == 0 && c'.reader == 0 && c' != c then s.closeChan c' else s.putChan c'

/-- A task that does not commit leaves its channels: tentative pops return to the heads, then its sides are released
(R112, R266, R268). -/
def State.leaveChannels (s : State) (h : Word) : State :=
  s.channels.foldl (fun s c0 =>
    match s.chan? c0.ctx c0.num with
    | none => s
    | some c => (s.putChan (c.returnPops h)).releaseChan (c.returnPops h) h true true) s

/-- The condition of R278 under which a channel returns to CLOSED. -/
def State.canClose (s : State) (c : Chan) : Bool :=
  match c.state with
  | .closed => false
  | .broken => c.writer == 0 && c.reader == 0
  | .opened =>
    if c.remote then
      if c.rdir then c.reader == 0 && c.entries.isEmpty else c.writer == 0 && c.entries.isEmpty
    else c.writer == 0 && c.reader == 0 && c.entries.isEmpty && s.heldPushes c.ctx c.num == 0

/-- Check the closing condition at the commit of a `ch.close`, and on a REMOTE channel again at an acknowledgement: a
bound channel sends an unbind first and closes once that is acknowledged (R278). -/
def State.tryClose (s : State) (ctx num : Nat) : State :=
  match s.chan? ctx num with
  | none => s
  | some c =>
    if s.canClose c then
      if c.state == .opened && c.unbinding then s
      else if c.remote && c.state == .opened then
        { s.putChan { c with unbinding := true } with out := s.out ++ [.unbind ctx num] }
      else s.closeChan c
    else s.putChan { c with closing := true }

/-- The link side of an inbound channel grants its far writer credit for the room that is free and not granted yet (R274). -/
def State.grantCredit (s : State) (ctx num : Nat) : State :=
  match s.chan? ctx num with
  | none => s
  | some c =>
    let n := c.capacity - (c.entries.length + c.granted)
    if c.remote && c.rdir && c.state == .opened && !c.frozen && n ≠ 0 then
      { s.putChan { c with granted := c.granted + n } with out := s.out ++ [.credit ctx num n] }
    else s

/-- An entry lands in its place of a Hutch page, at home in a class: copies of its line in RDCs are invalid, and a window line is held
modified (R201, R203, R363). DESIGN CHOICE: its bytes stand in the channel alone; a page that the device does not reach takes no part
(log entry 18). -/
def State.landSpill (s : State) (pa cls : Nat) : State :=
  if !s.reaches pa then s
  else { s with rdc := s.rdc.filter (fun r => r.2.1 != lineOf pa),
                modified := (if (s.winOf pa).isSome && !s.modified.contains (pa / 64) then [pa / 64] else []) ++ s.modified }.touchHome pa cls

/-- Publish one entry of a channel in a class; one that spills goes to its place in the Hutch (R203, R270). -/
def State.placeEntry (s : State) (c : Chan) (data : List Byte) (notice : Bool) (cls : Nat) : State :=
  let c' := c.place data notice
  let s := s.putChan c'
  match (c'.entries.getLast?).bind Entry.page with
  | some (p, i) => s.landSpill (c.pages.getD p 0 + i * c.size) cls
  | none => s

/-- Why a push, pop or peek of a channel fails at its Hutch: a page that holds an entry, or that takes the next one, lies in a window whose
link is down, or has lost its home (R199, R363; log entry 18). -/
def State.hutchErr (s : State) (c : Chan) : Option AccErr :=
  let next := if c.spilled == 0 && c.entries.length < c.cap then [] else (c.hutchTail.map Prod.fst).toList
  let pas := (c.usedPages ++ next).map fun p => c.pages.getD p 0
  if pas.any s.linkDown then some .host
  else if pas.any fun pa => !s.hasHome pa then some .perm else none

/-- Push a low-charge notice into its channel, or drop it with a log (R115, R267). DEDUCED: the pushes that tasks hold, and the credit
that a far writer was granted, have taken their room, as R271 says of a writer's own, so that every entry has a place when it is
published (log entry 63). -/
def State.pushNotice (s : State) (t : Task) (account : Nat) : State :=
  let ctx := t.crec.ctx
  let data := natBytes 8 t.handle.toNat ++ natBytes 4 (min account 0xFFFFFFFF) ++ natBytes 4 (t.crec.ts % 2 ^ 32)
  match s.chan? ctx t.crec.noticeChan with
  | some c =>
    if c.state == .opened && c.esize == 2 && c.entries.length + s.heldPushes ctx c.num + c.granted + 1 ≤ c.capacity then
      s.placeEntry c data true 0
    else s.log t.die 1
  | none => s.log t.die 1

end Sys2Proof.Machine
end

