-- ==== Sys2Proof/Machine/Flags.lean ====
section
/-! DEFINITION. The sticky flags (R77) and how results are rounded and flagged: rounding to a grid, overflow, tiny
results and flushing, integer wrap and saturation (R56, R57, R65, R66, R71, R72). -/

namespace Sys2Proof.Machine

open Sys2Proof

/-- Sticky flags (R77). -/
abbrev Flags := BitVec 8

def fNV : Flags := 1
def fOF : Flags := 2
def fUF : Flags := 4
def fNX : Flags := 8
def fDZ : Flags := 16
def fSAT : Flags := 32
def fNFSKIP : Flags := 64

/-- A flag when a condition holds. -/
def flagIf (b : Bool) (f : Flags) : Flags := if b then f else 0

/-- A lane of 32 bits. -/
abbrev Lane := BitVec 32

/-- A 32-bit result with the flags it sets. -/
abbrev Flagged := Lane × Flags

/-- The three floating-point formats (R56). -/
inductive Fmt where
  | s
  | h
  | b
deriving DecidableEq, Repr

/-- Fraction bits (R56). -/
def Fmt.frac : Fmt → Nat
  | .s => 23
  | .h => 10
  | .b => 7

/-- Exponent bits (R56). -/
def Fmt.exp : Fmt → Nat
  | .s => 8
  | .h => 5
  | .b => 8

/-- The bias (R56). -/
def Fmt.bias : Fmt → Nat
  | .s => 127
  | .h => 15
  | .b => 127

/-- The pattern of an infinity, of the largest finite value, and of the canonical NaN (R57). -/
def Fmt.inf (f : Fmt) (neg : Bool) : Nat :=
  (2 ^ f.exp - 1) * 2 ^ f.frac + if neg then 2 ^ (f.exp + f.frac) else 0
def Fmt.maxFin (f : Fmt) (neg : Bool) : Nat := f.inf neg - 1
def Fmt.nan (f : Fmt) : Nat := f.inf false + 2 ^ (f.frac - 1)
def Fmt.zero (f : Fmt) (neg : Bool) : Nat := if neg then 2 ^ (f.exp + f.frac) else 0

/-- What a pattern denotes (R57): a NaN, quiet or signalling, an infinity, or (−1)^neg × m × 2^e. -/
inductive FVal where
  | nan (sig : Bool)
  | inf (neg : Bool)
  | fin (neg : Bool) (m : Nat) (e : Int)
deriving DecidableEq, Repr

/-- Read a pattern (R57). -/
def Fmt.unpack (f : Fmt) (v : Nat) : FVal :=
  let fr := v % 2 ^ f.frac
  let ex := v / 2 ^ f.frac % 2 ^ f.exp
  let neg := v / 2 ^ (f.frac + f.exp) % 2 == 1
  if ex = 2 ^ f.exp - 1 then
    if fr = 0 then .inf neg else .nan (fr < 2 ^ (f.frac - 1))
  else if ex = 0 then .fin neg fr (1 - (f.bias : Int) - f.frac)
  else .fin neg (2 ^ f.frac + fr) ((ex : Int) - f.bias - f.frac)

/-- m × 2^e as a multiple of 2^q, rounded by rm; whether it is inexact (R65). -/
def roundGrid (rm : BitVec 2) (neg : Bool) (m : Nat) (e q : Int) : Nat × Bool :=
  if q ≤ e then (m * 2 ^ (e - q).toNat, false)
  else
    let d := 2 ^ (q - e).toNat
    let n := m / d
    let r := m % d
    let up := match rm.toNat with
      | 0 => 2 * r > d || (2 * r == d && n % 2 == 1)
      | 1 => false
      | 2 => neg && r ≠ 0
      | _ => !neg && r ≠ 0
    (if up then n + 1 else n, r ≠ 0)

/-- The number of bits of a number. -/
def bitLen (m : Nat) : Nat := if m = 0 then 0 else Nat.log2 m + 1

/-- The value of an overflow, by mode (R66). -/
def Fmt.overflow (f : Fmt) (rm : BitVec 2) (neg : Bool) : Nat :=
  match rm.toNat with
  | 0 => f.inf neg
  | 1 => f.maxFin neg
  | 2 => if neg then f.inf true else f.maxFin false
  | _ => if neg then f.maxFin true else f.inf false

/-- Round a nonzero exact value m × 2^e once to a format (R65, R66). A tiny result is flushed when `flush` holds, and
kept as a subnormal otherwise (R71). -/
def Fmt.round (f : Fmt) (rm : BitVec 2) (flush neg : Bool) (m : Nat) (e : Int) : Nat × Flags :=
  let p := f.frac + 1
  let q := e + bitLen m - p
  let emin : Int := 1 - (f.bias : Int) - f.frac
  let sign := f.zero neg
  let (n, ix) := roundGrid rm neg m e q
  let (n, q) := if n = 2 ^ p then (2 ^ f.frac, q + 1) else (n, q)
  if q < emin then
    if flush then (sign, fUF ||| fNX)
    else
      let (n, ix) := roundGrid rm neg m e emin
      (sign + n, flagIf ix (fUF ||| fNX))
  else
    let field := (q - emin).toNat + 1
    if field ≥ 2 ^ f.exp - 1 then (f.overflow rm neg, fOF ||| fNX)
    else (sign + field * 2 ^ f.frac + (n - 2 ^ f.frac), flagIf ix fNX)

/-- Round an exact value m × 2^e, of either sign, once to a format; an exact zero has the sign `zneg`. -/
def Fmt.roundInt (f : Fmt) (rm : BitVec 2) (flush zneg : Bool) (m e : Int) : Nat × Flags :=
  if m = 0 then (f.zero zneg, 0) else f.round rm flush (m < 0) m.natAbs e

/-- A 32-bit result by wrap or saturation (R72). -/
def satInt (sat : Bool) (v : Int) : Flagged :=
  if sat && v > 2147483647 then (0x7FFFFFFF, fSAT)
  else if sat && v < -2147483648 then (0x80000000, fSAT)
  else (BitVec.ofInt 32 v, 0)

end Sys2Proof.Machine
end

