-- ==== Sys2Proof/Machine/Float.lean ====
section
/-! DEFINITION. Floating-point arithmetic, conversions and approximations, each formed exactly and rounded once (R65–R71,
R171–R177). -/

namespace Sys2Proof.Machine

open Sys2Proof

/-- An exact dyadic number m × 2^e. -/
abbrev Dy := Int × Int

/-- Sum and product of dyadic numbers, and their order. -/
def Dy.add (x y : Dy) : Dy :=
  let e := min x.2 y.2
  (x.1 * 2 ^ (x.2 - e).toNat + y.1 * 2 ^ (y.2 - e).toNat, e)
def Dy.mul (x y : Dy) : Dy := (x.1 * y.1, x.2 + y.2)
def Dy.lt (x y : Dy) : Bool := (Dy.add x (-y.1, y.2)).1 < 0
def Dy.eq (x y : Dy) : Bool := (Dy.add x (-y.1, y.2)).1 == 0

/-- The exact number of a finite value. -/
def FVal.dy : FVal → Dy
  | .fin neg m e => (if neg then -(m : Int) else m, e)
  | _ => (0, 0)

def FVal.isNan : FVal → Bool
  | .nan _ => true
  | _ => false
def FVal.isSig : FVal → Bool
  | .nan s => s
  | _ => false
def FVal.neg : FVal → Bool
  | .nan _ => false
  | .inf n => n
  | .fin n _ _ => n
def FVal.isZero : FVal → Bool
  | .fin _ 0 _ => true
  | _ => false
def FVal.isInf : FVal → Bool
  | .inf _ => true
  | _ => false

/-- The opposite of a value. -/
def FVal.flip : FVal → FVal
  | .nan s => .nan s
  | .inf n => .inf !n
  | .fin n m e => .fin (!n) m e

/-- NaN results: the canonical NaN, and NV when an input is signalling (R68, R69). -/
def nanOut (f : Fmt) (l : List FVal) : Nat × Flags := (f.nan, flagIf (l.any FVal.isSig) fNV)

/-- The exact product of two values that are no NaN; none is 0 × ∞ (R67). -/
def FVal.mul (a b : FVal) : Option FVal :=
  match a, b with
  | .fin n m e, .fin n' m' e' => some (.fin (n != n') (m * m') (e + e'))
  | a, b => if a.isZero || b.isZero then none else some (.inf (a.neg != b.neg))

/-- Sum two values that are no NaN and round once (R65–R67, R71). An exact zero sum is −0 for two −0 and, under RDN,
for operands of opposite sign. -/
def fsum (f : Fmt) (rm : BitVec 2) (flush : Bool) (a b : FVal) : Nat × Flags :=
  match a, b with
  | .inf n, .inf n' => if n == n' then (f.inf n, 0) else (f.nan, fNV)
  | .inf n, _ => (f.inf n, 0)
  | _, .inf n => (f.inf n, 0)
  | a, b =>
    let v := Dy.add a.dy b.dy
    let zneg := if a.isZero && b.isZero && a.neg == b.neg then a.neg else rm == 2
    f.roundInt rm flush zneg v.1 v.2

/-- fadd, fsub, fmul, ffma on patterns (R171). -/
def fadd (f : Fmt) (rm : BitVec 2) (flush : Bool) (x y : Nat) : Nat × Flags :=
  let a := f.unpack x
  let b := f.unpack y
  if a.isNan || b.isNan then nanOut f [a, b] else fsum f rm flush a b

def fsub (f : Fmt) (rm : BitVec 2) (flush : Bool) (x y : Nat) : Nat × Flags :=
  let a := f.unpack x
  let b := f.unpack y
  if a.isNan || b.isNan then nanOut f [a, b] else fsum f rm flush a b.flip

def fmul (f : Fmt) (rm : BitVec 2) (flush : Bool) (x y : Nat) : Nat × Flags :=
  let a := f.unpack x
  let b := f.unpack y
  if a.isNan || b.isNan then nanOut f [a, b]
  else match a.mul b with
    | none => (f.nan, fNV)
    | some (.fin n m e) => if m = 0 then (f.zero n, 0) else f.round rm flush n m e
    | some v => (f.inf v.neg, 0)

def ffma (f : Fmt) (rm : BitVec 2) (flush : Bool) (x y z : Nat) : Nat × Flags :=
  let a := f.unpack x
  let b := f.unpack y
  let c := f.unpack z
  if a.isNan || b.isNan then nanOut f [a, b, c]
  else match a.mul b with
    | none => (f.nan, fNV)
    | some p => if c.isNan then nanOut f [c] else fsum f rm flush p c

/-- Order of two values that are no NaN: −0 and +0 equal. -/
def FVal.lt (a b : FVal) : Bool :=
  match a, b with
  | .inf n, .inf n' => n && !n'
  | .inf n, _ => n
  | _, .inf n => !n
  | a, b => Dy.lt a.dy b.dy
def FVal.eq (a b : FVal) : Bool :=
  match a, b with
  | .inf n, .inf n' => n == n'
  | .inf _, _ => false
  | _, .inf _ => false
  | a, b => Dy.eq a.dy b.dy

/-- fmin and fmax: −0 counts as smaller than +0 (R172). -/
def fminmax (f : Fmt) (wantMax : Bool) (x y : Nat) : Nat × Flags :=
  let a := f.unpack x
  let b := f.unpack y
  if a.isNan || b.isNan then nanOut f [a, b]
  else
    let aLess := a.lt b || (a.isZero && b.isZero && a.neg && !b.neg)
    (if aLess != wantMax then x else y, 0)

/-- The comparisons of FP32 (R174). -/
def feq (x y : Nat) : Nat × Flags :=
  let a := Fmt.s.unpack x
  let b := Fmt.s.unpack y
  if a.isNan || b.isNan then (0, flagIf (a.isSig || b.isSig) fNV) else (if a.eq b then 1 else 0, 0)
def flt (x y : Nat) : Nat × Flags :=
  let a := Fmt.s.unpack x
  let b := Fmt.s.unpack y
  if a.isNan || b.isNan then (0, fNV) else (if a.lt b then 1 else 0, 0)
def fle (x y : Nat) : Nat × Flags :=
  let a := Fmt.s.unpack x
  let b := Fmt.s.unpack y
  if a.isNan || b.isNan then (0, fNV) else (if a.lt b || a.eq b then 1 else 0, 0)

/-- Conversion between floating formats (R70): a subnormal result of FP16 or BF16 is kept, and the widening forms are
exact. -/
def fcvt (src dst : Fmt) (rm : BitVec 2) (x : Nat) : Nat × Flags :=
  match src.unpack x with
  | .nan s => (dst.nan, flagIf s fNV)
  | .inf n => (dst.inf n, 0)
  | .fin n m e => if m = 0 then (dst.zero n, 0) else dst.round rm false n m e

/-- INT32 to FP32 (R70). -/
def fcvtSW (rm : BitVec 2) (x : Int) : Nat × Flags := Fmt.s.roundInt rm false false x 0

/-- FP32 to INT32 (R70). -/
def fcvtWS (rm : BitVec 2) (x : Nat) : Flagged :=
  match Fmt.s.unpack x with
  | .nan _ => (0, fNV)
  | .inf n => (if n then 0x80000000 else 0x7FFFFFFF, fNV)
  | .fin n m e =>
    let (k, ix) := roundGrid rm n m e 0
    let v : Int := if n then -(k : Int) else k
    if v > 2147483647 then (0x7FFFFFFF, fNV)
    else if v < -2147483648 then (0x80000000, fNV)
    else (BitVec.ofInt 32 v, flagIf ix fNX)

/-! ### Approximations (R176) -/

/-- An approximation's result from its value r × 2^e truncated to 16 significant bits, `ix` when that is inexact: a
tiny value is truncated to the subnormal grid, or flushed under FTZ; above the largest finite value it is an
infinity. DEDUCED (log entry 69): R176 gives +∞ there, and the reciprocal of a negative subnormal that exceeds the largest finite
value in magnitude is −∞. -/
def approxOut (ftz neg : Bool) (r : Nat) (e : Int) (ix : Bool) : Nat × Flags :=
  let tiny : Bool := e + bitLen r ≤ -126
  let (v, fl) := Fmt.s.round 1 ftz neg r e
  if fl &&& fOF ≠ 0 then (Fmt.s.inf neg, fOF ||| fNX)
  else (v, fl ||| flagIf ix fNX ||| flagIf (ix && tiny) fUF)

/-- frcp.s: 1/a (R176). -/
def frcp (ftz : Bool) (x : Nat) : Nat × Flags :=
  match Fmt.s.unpack x with
  | .nan s => (Fmt.s.nan, flagIf s fNV)
  | .inf n => (Fmt.s.zero n, 0)
  | .fin n m e =>
    if m = 0 then (Fmt.s.inf n, fDZ)
    else
      let k := bitLen m + 15
      approxOut ftz n (2 ^ k / m) (-(k : Int) - e) (2 ^ k % m ≠ 0)

/-- frsq.s: 1/√a (R176). -/
def frsq (ftz : Bool) (x : Nat) : Nat × Flags :=
  match Fmt.s.unpack x with
  | .nan s => (Fmt.s.nan, flagIf s fNV)
  | .inf n => if n then (Fmt.s.nan, fNV) else (0, 0)
  | .fin n m e =>
    if m = 0 then (Fmt.s.inf false, fDZ)
    else if n then (Fmt.s.nan, fNV)
    else
      let (m, e) := if e % 2 = 0 then (m, e) else (2 * m, e - 1)
      let k := (bitLen m + 31) / 2
      let r := Nat.sqrt (2 ^ (2 * k) / m)
      approxOut ftz false r (-(k : Int) - e / 2) (r * r * m ≠ 2 ^ (2 * k))

/-- The greatest number below 2^n, or `base` plus it, that a downward-closed predicate admits. -/
def greatest (p : Nat → Bool) : Nat → Nat → Nat
  | 0, base => base
  | n + 1, base => if p (base + 2 ^ n) then greatest p n (base + 2 ^ n) else greatest p n base

/-- fexp2.s: 2^a (R176). With a = i + f/2^t the significand is the greatest r with r^(2^t) ≤ 2^(15·2^t + f), an exact
comparison of integers (log entry 19). -/
def fexp2 (ftz : Bool) (x : Nat) : Nat × Flags :=
  match Fmt.s.unpack x with
  | .nan s => (Fmt.s.nan, flagIf s fNV)
  | .inf n => if n then (0, 0) else (Fmt.s.inf false, 0)
  | .fin n m e =>
    let v : Int := if n then -(m : Int) else m
    if e ≥ 0 then
      let i := v * 2 ^ e.toNat
      if i ≥ 128 then (Fmt.s.inf false, fOF ||| fNX)
      else if i < -149 then (0, fUF ||| fNX)
      else approxOut ftz false (2 ^ 15) (i - 15) false
    else
      let t := (-e).toNat
      let i := v / 2 ^ t
      let f := (v % 2 ^ t).toNat
      if i ≥ 128 then (Fmt.s.inf false, fOF ||| fNX)
      else if i < -150 then (0, fUF ||| fNX)
      else if f = 0 then approxOut ftz false (2 ^ 15) (i - 15) false
      else
        let r := greatest (fun r => r ^ (2 ^ t) ≤ 2 ^ (15 * 2 ^ t + f)) 15 (2 ^ 15)
        approxOut ftz false r (i - 15) true

/-- Whether 2^(r/2^s) is at most m × 2^e, or at most its reciprocal. -/
def powLe (inv : Bool) (m : Nat) (e : Int) (s r : Nat) : Bool :=
  if inv then
    let k : Int := -e * 2 ^ s - r
    0 ≤ k && m ^ (2 ^ s) ≤ 2 ^ k.toNat
  else
    let k : Int := r - e * 2 ^ s
    k < 0 || 2 ^ k.toNat ≤ m ^ (2 ^ s)

/-- flog2.s: log2 a (R176), its significand by exact comparison of powers (log entry 19). -/
def flog2 (ftz : Bool) (x : Nat) : Nat × Flags :=
  match Fmt.s.unpack x with
  | .nan s => (Fmt.s.nan, flagIf s fNV)
  | .inf n => if n then (Fmt.s.nan, fNV) else (Fmt.s.inf false, 0)
  | .fin n m e =>
    if m = 0 then (Fmt.s.inf true, fDZ)
    else if n then (Fmt.s.nan, fNV)
    else
      let top : Int := e + bitLen m - 1
      if m = 2 ^ (bitLen m - 1) then
        if top = 0 then (0, 0) else approxOut ftz (top < 0) top.natAbs 0 false
      else
        let inv := top < 0
        match (List.range 40).find? fun s => powLe inv m e s (2 ^ 15) with
        | none => (0, 0)
        | some s => approxOut ftz inv (greatest (powLe inv m e s) 15 (2 ^ 15)) (-(s : Int)) true

/-! ### Sums of products (R73, R177) -/

/-- The exact sum of finite products and addends, with what infinities and 0 × ∞ make of it: none is the canonical NaN
with NV. -/
def exactSum : List (Option FVal) → Option FVal
  | [] => some (.fin true 0 0)
  | x :: r =>
    match x, exactSum r with
    | none, _ => none
    | _, none => none
    | some (.inf n), some (.inf n') => if n == n' then some (.inf n) else none
    | some (.inf n), _ => some (.inf n)
    | _, some (.inf n) => some (.inf n)
    | some a, some b =>
      let v := Dy.add a.dy b.dy
      some (.fin (v.1 < 0 || (v.1 == 0 && a.neg && b.neg)) v.1.natAbs v.2)

/-- Round an exact sum once; `allNeg` tells whether every term is −0, which makes an exact zero −0. -/
def roundSum (rm : BitVec 2) (flush : Bool) (terms : List (Option FVal)) : Nat × Flags :=
  match exactSum terms with
  | none => (Fmt.s.nan, fNV)
  | some (.inf n) => (Fmt.s.inf n, 0)
  | some (.nan _) => (Fmt.s.nan, fNV)
  | some (.fin n m e) =>
    if m = 0 then
      let zs := terms.filterMap id
      let zneg := if zs.all FVal.isZero && (zs.all FVal.neg || zs.all fun z => !z.neg) then n else rm == 2
      (Fmt.s.zero zneg, 0)
    else Fmt.s.round rm flush n m e

/-- Whether infinities of both signs meet among the terms of a sum (R69). -/
def infClash (l : List (Option FVal)) : Bool :=
  (l.any fun x => x == some (.inf false)) && l.any fun x => x == some (.inf true)

/-- The products of pairs without a NaN: none for 0 × ∞ (R69). -/
def properTerms (l : List (FVal × FVal)) : List (Option FVal) :=
  (l.filter fun p => !(p.1.isNan || p.2.isNan)).map fun p => p.1.mul p.2

/-- The NV that the terms of a sum of products and addends give beside a NaN: 0 × ∞, or opposite infinities (R69). -/
def clashNV (ps : List (FVal × FVal)) (l : List FVal) : Flags :=
  let terms := properTerms ps ++ (l.filter fun x => !x.isNan).map some
  flagIf (terms.any Option.isNone || infClash terms) fNV

/-- fdot2: c + a0 × b0 + a1 × b1, rounded once (R177). -/
def fdot2 (f : Fmt) (rm : BitVec 2) (flush : Bool) (a b c : Nat) : Nat × Flags :=
  let a0 := f.unpack (a % 65536)
  let a1 := f.unpack (a / 65536)
  let b0 := f.unpack (b % 65536)
  let b1 := f.unpack (b / 65536)
  let cv := Fmt.s.unpack c
  if [a0, a1, b0, b1, cv].any FVal.isNan then
    let (v, fl) := nanOut .s [a0, a1, b0, b1, cv]
    (v, fl ||| clashNV [(a0, b0), (a1, b1)] [cv])
  else roundSum rm flush [a0.mul b0, a1.mul b1, some cv]

end Sys2Proof.Machine
end

