-- ==== Sys2Proof/Machine/Nodes.lean ====
section
/-! DEFINITION. Node operations on one lane (R47, R170–R177, R181, R182), their classes and operand formats (R105,
R158, R166), and the block operations' values (R60–R64). -/

namespace Sys2Proof.Machine

open Sys2Proof

/-! ### Classes -/

/-- Whether a code is assigned (R47). -/
def opAssigned (op : Nat) : Bool :=
  op ≤ 0x14 || (0x20 ≤ op && op ≤ 0x43) || (0x50 ≤ op && op ≤ 0x66) || (0x70 ≤ op && op ≤ 0x74) ||
  (0x80 ≤ op && op ≤ 0x86) || op == 0x90 || op == 0x91

/-- The draw of a node operation by class in a nest (R105). -/
def opDraw (op : Nat) : Nat :=
  if op = 0 then 0
  else if op ≤ 0x14 || (0x50 ≤ op && op ≤ 0x56) then 2
  else if (0x20 ≤ op && op ≤ 0x43) || (0x57 ≤ op && op ≤ 0x5F) then 4
  else 0

/-- The format in which an operation reads operand a, b or c (R166). -/
inductive OpFmt where
  | int
  | flt (f : Fmt)
  | pair (f : Fmt)
deriving DecidableEq, Repr

/-- The formats of .s, .h, .b by place in a triple. -/
def tripleFmt (k : Nat) : Fmt := match k % 3 with | 0 => .s | 1 => .h | _ => .b

/-- The format of operand j (0 a, 1 b, 2 c) of an operation (R166, R170–R182). -/
def opFmt (op j : Nat) : OpFmt :=
  if 0x20 ≤ op && op ≤ 0x31 then .flt (tripleFmt (op - 0x20))
  else if op = 0x37 then (if j = 2 then .int else .flt .s)
  else if op = 0x38 then .flt .h
  else if op = 0x39 then .flt .b
  else if op = 0x3C then .int
  else if 0x32 ≤ op && op ≤ 0x41 then .flt .s
  else if op = 0x42 then (if j = 2 then .flt .s else .pair .h)
  else if op = 0x43 then (if j = 2 then .flt .s else .pair .b)
  else if 0x57 ≤ op && op ≤ 0x5D then .flt .s
  else if op = 0x5E then (if j = 0 then .int else .flt .s)
  else .int

/-- Which operands an operation reads (R170–R182). -/
def opReads (op j : Nat) : Bool :=
  if j = 0 then true
  else if j = 1 then
    !(op == 0 || op == 7 || op == 0x32 || op == 0x33 || (0x38 ≤ op && op ≤ 0x41) || op == 0x5F)
  else op == 4 || (0x11 ≤ op && op ≤ 0x14) || (0x29 ≤ op && op ≤ 0x2B) || op == 0x37 || op == 0x42 || op == 0x43 ||
    (0x50 ≤ op && op ≤ 0x56) || op == 0x5E

/-- The combining operations, which alone have a lane reduction (R158, R178). -/
def opCombining (op : Nat) : Bool :=
  op == 1 || op == 3 || op == 5 || op == 6 || (8 ≤ op && op ≤ 0x0A) || (0x20 ≤ op && op ≤ 0x22) ||
  (0x26 ≤ op && op ≤ 0x28) || (0x2C ≤ op && op ≤ 0x31)

/-- The immediate of a stage as an operand in a format (R166). -/
def immValue (f : OpFmt) (imm : Nat) : Lane :=
  match f with
  | .int => (BitVec.ofNat 24 imm).signExtend 32
  | .flt .s => BitVec.ofNat 32 (imm * 256)
  | .flt .b => BitVec.ofNat 32 (imm / 256)
  | .flt .h => BitVec.ofNat 32 (fcvt .s .h 0 (imm * 256 % 2 ^ 32)).1
  | .pair _ => BitVec.ofNat 32 (imm * 256)

/-! ### One lane -/

/-- A pattern and flags as a lane. -/
def laneOf (p : Nat × Flags) : Flagged := (BitVec.ofNat 32 p.1, p.2)

/-- The pattern an operation of a format reads in a lane (R58). -/
def Fmt.get (f : Fmt) (a : Lane) : Nat := match f with | .s => a.toNat | _ => a.toNat % 65536

/-- A byte of a lane, signed and unsigned. -/
def sByte (a : Lane) (j : Nat) : Int := (a.extractLsb' (8 * j) 8).toInt
def uByte (a : Lane) (j : Nat) : Int := (a.extractLsb' (8 * j) 8).toNat

/-- fabs, fneg and the NaN they output (R173). -/
def fsign (a : Lane) (v : Lane) : Flagged :=
  match Fmt.s.unpack a.toNat with
  | .nan s => (0x7FC00000, flagIf s fNV)
  | _ => (v, 0)

/-- scacc: acc + S × sp × sq, rounded once, always flushed (R63, R181). DESIGN CHOICE: an acc of +0 with a contribution of −0 gives −0 under
RDN, as R67 has it (log entry 81). -/
def scacc (rm : BitVec 2) (s b c acc : Lane) : Flagged :=
  let sp := Fmt.s.unpack b.toNat
  let sq := Fmt.s.unpack c.toNat
  let a := Fmt.s.unpack acc.toNat
  if sp.isNan || sq.isNan || a.isNan then (0x7FC00000, fNV)
  else
    let sv : FVal := .fin (s.toInt < 0) s.toInt.natAbs 0
    match (sv.mul sp).bind fun x => x.mul sq with
    | none => (0x7FC00000, fNV)
    | some p => laneOf (fsum .s rm true a p)

/-- bexp: the FP32 scale of a block exponent (R60, R182). -/
def bexpOf (m e : Nat) : Lane :=
  if e = 0 then 0
  else if e ≥ 255 then 0x7FC00000
  else BitVec.ofNat 32 (Fmt.s.round 1 false false 1 ((e : Int) - 125 - m)).1

/-- What a lane-wise operation computes from its operands, with its flags (R170–R177, R182). The codes of block, join,
record, control and portal operations pass operand a; their own definitions stand elsewhere. -/
def nodeOp (op : Nat) (rm : BitVec 2) (sat ftz : Bool) (imm : Nat) (a b c : Lane) : Flagged :=
  let i (v : Int) : Flagged := satInt sat v
  let f (k : Nat) : Fmt := tripleFmt k
  match op with
  | 0x01 => i (a.toInt + b.toInt)
  | 0x02 => i (a.toInt - b.toInt)
  | 0x03 => i (a.toInt * b.toInt)
  | 0x04 => i (c.toInt + a.toInt * b.toInt)
  | 0x05 => (if a.slt b then a else b, 0)
  | 0x06 => (if a.slt b then b else a, 0)
  | 0x07 => i a.toInt.natAbs
  | 0x08 => (a &&& b, 0)
  | 0x09 => (a ||| b, 0)
  | 0x0A => (a ^^^ b, 0)
  | 0x0B => (a <<< (b.toNat % 32), 0)
  | 0x0C => (a >>> (b.toNat % 32), 0)
  | 0x0D => (a.sshiftRight (b.toNat % 32), 0)
  | 0x0E => (if a = b then 1 else 0, 0)
  | 0x0F => (if a.slt b then 1 else 0, 0)
  | 0x10 => (if a < b then 1 else 0, 0)
  | 0x11 => (if c ≠ 0 then a else b, 0)
  | 0x12 => i (c.toInt + sByte a 0 * sByte b 0 + sByte a 1 * sByte b 1 + sByte a 2 * sByte b 2 + sByte a 3 * sByte b 3)
  | 0x13 => i (c.toInt + uByte a 0 * uByte b 0 + uByte a 1 * uByte b 1 + uByte a 2 * uByte b 2 + uByte a 3 * uByte b 3)
  | 0x14 =>
    let m := if a.slt b then b else a
    (if m.slt c then m else c, 0)
  | 0x32 => fsign a (a &&& 0x7FFFFFFF)
  | 0x33 => fsign a (a ^^^ 0x80000000)
  | 0x34 => laneOf (feq a.toNat b.toNat)
  | 0x35 => laneOf (flt a.toNat b.toNat)
  | 0x36 => laneOf (fle a.toNat b.toNat)
  | 0x37 =>
    let v := if c ≠ 0 then a else b
    (if (Fmt.s.unpack v.toNat).isNan then 0x7FC00000 else v, 0)
  | 0x38 => laneOf (fcvt .h .s rm (Fmt.h.get a))
  | 0x39 => laneOf (fcvt .b .s rm (Fmt.b.get a))
  | 0x3A => laneOf (fcvt .s .h rm a.toNat)
  | 0x3B => laneOf (fcvt .s .b rm a.toNat)
  | 0x3C => laneOf (fcvtSW rm a.toInt)
  | 0x3D => fcvtWS rm a.toNat
  | 0x3E => laneOf (frcp ftz a.toNat)
  | 0x3F => laneOf (frsq ftz a.toNat)
  | 0x40 => laneOf (fexp2 ftz a.toNat)
  | 0x41 => laneOf (flog2 ftz a.toNat)
  | 0x42 => laneOf (fdot2 .h rm ftz a.toNat b.toNat c.toNat)
  | 0x43 => laneOf (fdot2 .b rm ftz a.toNat b.toNat c.toNat)
  | 0x5F => (bexpOf (imm % 16) (a.toNat % 256), 0)
  | _ =>
    if 0x20 ≤ op && op ≤ 0x31 then
      let g := f (op - 0x20)
      let z := ftz && g == .s
      let x := g.get a
      let y := g.get b
      match (op - 0x20) / 3 with
      | 0 => laneOf (fadd g rm z x y)
      | 1 => laneOf (fsub g rm z x y)
      | 2 => laneOf (fmul g rm z x y)
      | 3 => laneOf (ffma g rm z x y (g.get c))
      | 4 => laneOf (fminmax g false x y)
      | _ => laneOf (fminmax g true x y)
    else (a, 0)

/-! ### Blocks (R60–R64) -/

/-- The signed m-bit mantissa of element j in a block packed in m words (R61, R179). -/
def mantissa (m : Nat) (ws : List Lane) (j : Nat) : Int :=
  signedOf32 m (ws.foldr (fun w acc => w.toNat + 2 ^ 32 * acc) 0 / 2 ^ (m * j) % 2 ^ m)
where
  /-- An m-bit number read as two's complement. -/
  signedOf32 (m v : Nat) : Int := if v < 2 ^ (m - 1) then v else (v : Int) - 2 ^ m

/-- The exact block product (R62). -/
def blockProduct (m : Nat) (p q : List Lane) : Int :=
  (List.range 32).foldl (fun s j => s + mantissa m p j * mantissa m q j) 0

/-- The largest h with 2^h at most m × 2^e in magnitude. -/
def floorLog2 (m : Nat) (e : Int) : Int := e + bitLen m - 1

/-- bquant: 32 FP32 values as one DBm block (R64): the exponent, the mantissas, the flags. -/
def bquantOf (m : Nat) (rm : BitVec 2) (vs : List Lane) : Nat × List Int × Flags :=
  let xs := vs.map fun v => Fmt.s.unpack v.toNat
  if xs.any (fun x => x.isNan || x.isInf) then (255, vs.map fun _ => 0, fNV)
  else if xs.all FVal.isZero then (0, vs.map fun _ => 0, 0)
  else
    let h := xs.foldl (fun (b : Option Int) x => match x with
      | .fin _ 0 _ => b
      | .fin _ k e => match b with
        | none => some (floorLog2 k e)
        | some y => some (max y (floorLog2 k e))
      | _ => b) none
    let e := max (h.getD 0 + 127) 1
    let q := e - 125 - m
    let hi : Int := 2 ^ (m - 1) - 1
    let lo : Int := -2 ^ (m - 1)
    let rs := xs.map fun x => match x with
      | .fin n k ex =>
        let (r, ix) := roundGrid rm n k ex q
        let v : Int := if n then -(r : Int) else r
        if v > hi then (hi, fSAT ||| fNX) else if v < lo then (lo, fSAT ||| fNX) else (v, flagIf ix fNX)
      | _ => ((0 : Int), (0 : Flags))
    (e.toNat, rs.map Prod.fst, rs.foldl (fun fl p => fl ||| p.2) 0)

/-- Mantissas packed into m words (R61). -/
def packBlock (m : Nat) (ms : List Int) : List Lane :=
  let str := ms.foldr (fun v acc => (v % 2 ^ m).toNat + 2 ^ m * acc) 0
  (List.range m).map fun w => BitVec.ofNat 32 (str / 2 ^ (32 * w))

/-! ### The lane tree (R75, R178) -/

/-- One level: neighbours combine, and an absent one passes the other. DEDUCED (log entry 66): R75 and R76 pass a single value, and the
first element of a nest reduction, unchanged, a NaN too, though R68 makes every NaN that an operation outputs canonical. -/
def pairUp (op : Lane → Lane → Flagged) : List (Option Lane) → List (Option Lane) × Flags
  | x :: y :: r =>
    let (l, fl) := pairUp op r
    match x, y with
    | some a, some b => (some (op a b).1 :: l, (op a b).2 ||| fl)
    | some a, none => (some a :: l, fl)
    | none, b => (b :: l, fl)
  | l => (l, 0)

/-- Four levels over sixteen lanes. -/
def laneTree (op : Lane → Lane → Flagged) (l : List (Option Lane)) : Option Lane × Flags :=
  let (l1, f1) := pairUp op l
  let (l2, f2) := pairUp op l1
  let (l3, f3) := pairUp op l2
  let (l4, f4) := pairUp op l3
  (l4.headD none, f1 ||| f2 ||| f3 ||| f4)

/-- A reduced lane as a format of 16 bits writes it: bits [31:16] are zero, with one performed lane too (R58; log entry 66). -/
def reducedLane (op : Nat) (w : Lane) : Lane :=
  match opFmt op 0 with
  | .flt .h => w &&& 0xFFFF
  | .flt .b => w &&& 0xFFFF
  | _ => w

end Sys2Proof.Machine
end

