-- ==== Sys2Proof/Machine/Dest.lean ====
section
/-! DEFINITION. What engines have formed for their destinations and how it joins a task's view (R73, R74, R78, R247, R248, R250). -/

namespace Sys2Proof.Machine

open Sys2Proof

/-- The floating-point format of a format code, if it is one (R253). -/
def fmtOf (code : Nat) : Option Fmt := match code with | 0 => some .b | 1 => some .h | _ => none

/-- Bytes of a destination element (R247). -/
def destBytes (code : Nat) : Nat := if code < 2 then 4 else 8

/-- The value of a destination word after a chunk is added to it (R73 step 4, R248). -/
def addChunk (code : Nat) (rm : BitVec 2) (sat : Bool) (prior c : Lane) : Flagged :=
  match fmtOf code with
  | some _ => laneOf (fadd .s rm true prior.toNat c.toNat)
  | none => satInt sat (prior.toInt + c.toInt)

/-- The bytes of a destination element in the task's own view. -/
def State.destBytesAt (s : State) (t : Task) (r : DestRow) (a : Nat × Bool) : List Byte :=
  let w := destBytes r.code
  if r.ovw then List.replicate w 0
  else if r.scratch then s.scratchRead t a.1 w
  else (List.range w).map fun i =>
    if a.2 then s.byteAt (a.1 + i)
    else match t.cup.get? (a.1 + i) with
      | some b => b
      | none => t.snapByte s (a.1 + i)

/-- One destination element of a row is written: scratch at once, global memory into the Cupboard (R247). -/
def State.joinElement (r : DestRow) (p : State × Task) (x : (Nat × Bool) × List Lane) : State × Task :=
  let (s, t) := p
  let prior := s.destBytesAt t r x.1
  let ws := (List.range x.2.length).map fun i =>
    addChunk r.code r.rm r.sat (BitVec.ofNat 32 (ofLeBytes ((prior.drop (4 * i)).take 4))) (x.2.getD i 0)
  let l := ws.flatMap fun v => natBytes 4 v.1.toNat
  let t := t.flag (ws.foldl (fun f v => f ||| v.2) 0)
  if r.scratch then (s.scratchWrite t x.1.1 l, t)
  else (s, { t with cup := (atAddr x.1.1 l).foldl (fun o q => o.set q.1 q.2) t.cup })

/-- The row of a destination is written. -/
def State.joinRow (p : State × Task) (r : DestRow) : State × Task :=
  let k := destBytes r.code / 4
  (((List.range 64).map fun i => (r.addrs.getD i (0, false), (r.vals.drop (k * i)).take k))).foldl (State.joinElement r) p

/-- Put a row behind those of its operation with a tile number that is not higher. -/
def insertRow (r : DestRow) : List DestRow → List DestRow
  | [] => [r]
  | x :: l => if r.tile < x.tile then r :: x :: l else x :: insertRow r l

/-- The rows that an operation has formed, in the order of its tiles (R74). -/
def Task.rowsOf (t : Task) (op : Nat) : List DestRow := (t.dest.filter fun r => r.op == op).foldl (fun l r => insertRow r l) []

/-- Rows join the task's view in the order given (R74, R250). -/
def State.joinRows (s : State) (t : Task) (rs : List DestRow) : State × Task :=
  let (s, t) := rs.foldl State.joinRow (s, t)
  (s, { t with dest := t.dest.filter fun r => !rs.contains r })

/-- The rows of some operations join the task's view, operation after operation (R74, R250). -/
def State.joinDest (s : State) (t : Task) (ops : List Nat) : State × Task := s.joinRows t (ops.flatMap t.rowsOf)

/-- The sticky flags of a task, those of the destination updates of every tile row that its engines have formed among them: what it has
performed (R78). -/
def State.flagsOf (s : State) (t : Task) : BitVec 8 := (s.joinDest t (t.ops2.map Op2.id)).2.flags

/-! ### Which rows join together (R74, R248) -/

/-- Whether the tiles of an operation are all granted and done. -/
def Op2.done (o : Op2) : Bool := o.ungranted = 0 && o.left = 0

/-- Whether two formed rows update a common byte. -/
def DestRow.meets (r q : DestRow) : Bool :=
  r.scratch == q.scratch && r.addrs.any fun a => q.addrs.any fun b =>
    a.1 < b.1 + destBytes q.code && b.1 < a.1 + destBytes r.code

/-- The rows of a list that have a later one, or one of `rs` behind them, add to them, in front of `rs`. -/
def rowsBefore (l rs : List DestRow) : List DestRow := l.foldr (fun r rs => if rs.any r.meets then r :: rs else rs) rs

/-- The rows that join when some finished operations are to be seen: their own, and before them those of operations issued earlier and
finished that a row which joins adds to (R74, R248). -/
def Task.joinSet (t : Task) (p : Op2 → Bool) : List DestRow :=
  t.ops2.foldr (fun o rs =>
    if p o then t.rowsOf o.id ++ rs
    else if o.done then rowsBefore (t.rowsOf o.id) rs
    else rs) []

end Sys2Proof.Machine
end

