-- ==== Sys2Proof/Machine/Retire.lean ====
section
/-! DEFINITION. Commits that land, the tasks they doom, re-queues, retirements, completion records, join cells,
delivery of records, and the graph walker's nodes (R21, R86–R94, R112, R116, R283–R290, R298, R337–R343). -/

namespace Sys2Proof.Machine

open Sys2Proof

/-! ### Codes -/

/-- The 8-bit trap codes (R314). -/
def Trap.code : Trap → Nat
  | .none => 0
  | .illegalOp => 1
  | .priv => 2
  | .misalign => 3
  | .xlate => 4
  | .perm => 5
  | .cupboardFull => 6
  | .shortfall => 7
  | .fibreMalformed => 8
  | .channelMisuse => 9
  | .channelSpillExhausted => 10
  | .hang => 11
  | .atomLimit => 12
  | .configReject => 13
  | .eccUncorrected => 14
  | .mxFormat => 15
  | .nestRange => 16
  | .brk => 17
  | .thermal => 18
  | .timer => 19
  | .host => 20

/-- The outcome codes (R343). -/
def Ending.code : Ending → Nat
  | .committed => 0
  | .shortfall => 1
  | .faulted => 2
  | .conflictLimit => 3
  | .discarded => 4
  | .hang => 5

/-- What follows from a step, still to be done within it: a task is conflict-aborted, on account of a task of its own
context or not; a graph node ends. -/
inductive Job where
  | doom (h : Word) (own : Bool)
  | node (inst node : Nat) (life : NodeLife)
deriving DecidableEq, Repr

/-! ### Landing bytes at home (R201, R283, R287, R290, R298, R353, R363) -/

/-- The uncommitted tasks that have read one of some lines, one task left out (R290). -/
def State.readers (s : State) (lines : List Nat) (but : Word) : List Task :=
  s.allTasks.filter fun t => t.handle != but && t.readSet.any fun r => lines.contains r.2

/-- The tasks that hold a lock on one of some lines, one task left out (R298). -/
def State.holders (s : State) (lines : List Nat) (but : Word) : List Word :=
  (s.locks.filter fun l => lines.contains l.line).filterMap fun l => l.holder.bind fun h => if h == but then none else some h

/-- What a commit of others' bytes does to lock holders and readers: it wounds the former and dooms the latter
(R290, R298). -/
def State.doomJobs (s : State) (lines : List Nat) (but : Word) : List Job :=
  ((s.holders lines but) ++ (s.readers lines but).map Task.handle).eraseDups.map fun h => Job.doom h false

/-- Note the number of a commit for the lines it published (R269, R290). -/
def State.stamp (s : State) (lines : List Nat) (who : Option Nat) : State :=
  { s with published := lines.map (fun l => (l, who, s.commitSeq)) ++ s.published }

/-- An external commit (R287): it takes the next number and lands; the lines of `out` enter no cache (R201). -/
def State.landExternal (s : State) (out : List Nat) (bytes : List (Nat × Byte)) (but : Word) : State × List Job :=
  let lines := (bytes.map fun p => lineOf p.1).eraseDups
  let jobs := s.doomJobs lines but
  (({ s with commitSeq := s.commitSeq + 1 }.publish 0 out bytes).stamp lines none, jobs)

/-! ### Queues of records (R90–R94, R125) -/

/-- A record as queued, with re-run count 0 (R339). -/
def State.newQRec (s : State) (r : Record) : State × QRec :=
  ({ s with nextId := s.nextId + 1 },
   { id := s.nextId, crec := r, rerun := 0, origin := none, since := s.now, gained := 0, fundSince := s.now, fitSince := s.now,
     hint := none, irrevocable := false, front := false, image := none })

/-- Put a record at the end of a die's task queue. -/
def State.enqueue (s : State) (die : Nat) (q : QRec) : State :=
  s.updDie die fun d => { d with taskQueue := d.taskQueue ++ [q] }

/-- Put a record on a cluster's deque. -/
def State.pushDeque (s : State) (die cluster : Nat) (q : QRec) : State :=
  s.updDie die fun d => { d with deques := assocSet d.deques cluster (assocD d.deques cluster [] ++ [q]) }

/-- Deliver a record onto a cluster: to the thief of the oldest request in its mailbox, else onto its deque (R93). -/
def State.deliver (s : State) (die cluster : Nat) (r : Record) : State :=
  let (s, q) := s.newQRec r
  match assocD (s.die die).mail cluster [] with
  | [] => s.pushDeque die cluster q
  | (thief, _) :: rest =>
    (s.updDie die fun d => { d with mail := assocSet d.mail cluster rest }).pushDeque die thief q

/-! ### Join cells (R94) -/

/-- The lines of an access that enter no cache: those of an IO page (R201). -/
def ioOf (e : TlbEntry) (lines : List Nat) : List Nat := if e.io then lines else []

/-- A read of the device at the home slice, in class 0; an IO page is in no cache (R201, R203). -/
def State.readHome (s : State) (e : TlbEntry) (pa : Nat) : State := if e.io then s else s.touchHome pa 0

/-- One change to a join cell in a context (R94): the state, the lines written, and the continuation made ready. DESIGN CHOICE (log entry
73): the misaligned join address of a refused record (R17, subcode 8) changes the 4 bytes that lie where its first byte is translated; a
count that is 0 already is written, and its line listed, as any other; a count brought to 0 whose J + 4 or whose continuation cannot be
read is 0 and logged, and nothing is delivered. -/
def State.joinChange (s : State) (die cls ctx j : Nat) (up : Bool) : State × List Nat × Option Record :=
  match s.access die ctx j .store with
  | (s, .error _) => (s.log die 2, [], none)
  | (s, .ok (pa, e)) =>
    let n := s.natAt pa 4
    let lines := [lineOf pa, lineOf (pa + 3)].eraseDups
    let put (v : Nat) : State := s.publish cls (ioOf e lines) (atAddr pa (natBytes 4 v))
    if up then
      if n = 0xFFFFFFFF then (s.log die 3, [], none) else (put (n + 1), lines, none)
    else if n = 0 then (put 0, lines, none)
    else
      let s := put (n - 1)
      if n ≠ 1 then (s, lines, none)
      else match s.access die ctx (j + 4) .load with
        | (s, .error _) => (s.log die 2, lines, none)
        | (s, .ok (pi, ei)) =>
          let s := s.readHome ei pi
          let k := s.natAt pi 4
          if k = 0 then (s, lines, none)
          else match s.access die ctx (64 * k) .load with
            | (s, .error _) => (s.log die 2, lines, none)
            | (s, .ok (pr, er)) => (s.readHome er pr, lines, some (Record.ofBytes (s.bytesAt pr 64)))

/-- Apply several changes in order, gathering lines and continuations. -/
def State.joinChanges (s : State) (die cls ctx : Nat) (up : Bool) : List Nat → State × List Nat × List Record
  | [] => (s, [], [])
  | j :: r =>
    let (s, l, c) := s.joinChange die cls ctx j up
    let (s, ls, cs) := s.joinChanges die cls ctx up r
    (s, l ++ ls, c.toList ++ cs)

/-! ### Completion records (R113, R343) -/

/-- The contents of a completion record. -/
structure Report where
  ending : Ending
  trap : Trap
  flags : BitVec 8
  added : Nat
  shortfall : Nat
  granted : Nat
  sub : Nat
  addr : Nat
  drawn : Nat
  seq : Nat
deriving DecidableEq, Repr

/-- The 64 bytes of a completion record (R343). -/
def Report.bytes (p : Report) (r : Record) : List Byte :=
  natBytes 1 p.ending.code ++ natBytes 1 p.trap.code ++ natBytes 1 p.flags.toNat ++ natBytes 1 0 ++
  natBytes 4 r.packets ++ natBytes 4 p.added ++ natBytes 4 (min p.shortfall 0xFFFFFFFF) ++
  natBytes 4 (min p.granted 0xFFFFFFFF) ++ natBytes 4 p.sub ++ natBytes 8 p.addr ++ natBytes 8 p.drawn ++
  natBytes 8 r.ts ++ natBytes 8 p.seq ++ natBytes 8 0

/-- Where the completion record of a record goes: its bytes, and its line where that enters no cache; no bytes, and a log, when the page
forbids it (R201, R338). -/
def State.reportBytes (s : State) (die : Nat) (r : Record) (p : Report) : State × List (Nat × Byte) × List Nat :=
  if r.report = 0 then (s, [], [])
  else match s.access die r.ctx r.report .store with
    | (s, .error _) => (s.log die 4, [], [])
    | (s, .ok (pa, e)) => (s, atAddr pa (p.bytes r), ioOf e [lineOf pa])

/-- The device report of a retirement that does not commit: the completion record's bytes first, then the join
decrement, as one external commit; a continuation made ready is delivered to the lead cluster, or to the die's task
queue when there is none (R94, R287, R338). -/
def State.landReport (s : State) (die : Nat) (cluster : Option Nat) (r : Record) (p : Report) (self : Word) :
    State × List Job :=
  let s0 := s
  let (s, bytes, out) := s.reportBytes die r p
  let s := { s with commitSeq := s.commitSeq + 1 }.publish 0 out bytes
  let (s, ls, cont) := if r.dw2 = 0 then (s, [], none) else s.joinChange die 0 r.ctx r.dw2.toNat false
  let lines := ((bytes.map fun b => lineOf b.1) ++ ls).eraseDups
  let s := if lines.isEmpty then { s with commitSeq := s0.commitSeq } else s.stamp lines none
  let jobs := s.doomJobs lines self
  let s := match cont, cluster with
    | none, _ => s
    | some c, some k => s.deliver die k c
    | some c, none => (s.newQRec c).1.enqueue die (s.newQRec c).2
  (s, jobs)

/-! ### What a task leaves (R112, R116, R266, R298) -/

/-- A key for the row `r` of a cluster (R128). -/
def rowKey (die cluster r : Nat) : Nat := (die * 104 + cluster) * 8 + r

/-- The rows of a gang get a previous holder (R128). -/
def State.freeRows (s : State) (t : Task) (committed : Bool) : State :=
  let keys := t.members.flatMap fun m => (List.range t.crec.rows).map fun i => rowKey t.die m.cluster (m.row + i)
  { s with rowOwner := keys.map (fun k => (k, t.crec.ctx, committed)) ++
      s.rowOwner.filter (fun r => !keys.contains r.1) }

/-- The task's lock is undone and its request withdrawn; a lock with waiters stays for the oldest (R298). -/
def State.unlock (s : State) (h : Word) : State :=
  let undo (l : Lock) : Lock :=
    let l := { l with waiters := l.waiters.filter (· != h) }
    if l.holder == some h then { l with holder := none, work := [] } else l
  { s with locks := (s.locks.map undo).filter (fun l => l.holder.isSome || !l.waiters.isEmpty) }

/-! ### Fault records (R316–R318) -/

/-- The 64 bytes of a fault record (R317). -/
def faultBytes (t : Task) (f : Frozen) : List Byte :=
  natBytes 8 t.handle.toNat ++ natBytes 8 f.va.toNat ++
  natBytes 8 (f.kind + 16 * f.access + 64 * (f.place % 1024) + 65536 * t.crec.ctx) ++ natBytes 8 f.counter ++
  natBytes 8 t.crec.ts ++ natBytes 8 0 ++ natBytes 16 0

/-- Whether a die's fault ring has no free slot (R318). -/
def Die.ringFull (d : Die) : Bool := d.fringHead == d.fringTail && d.faults.any fun f => f.state == 0

/-- Write the record of a frozen port into the fault ring, if a slot is free; FAULT is then pending (R316–R318). -/
def State.record (s : State) (t : Task) (f : Frozen) : State × Frozen :=
  let d := s.die t.die
  if d.ringFull then (s, f)
  else
    let i := d.fringTail.toNat
    let base := d.fringBase.toNat + 64 * i
    let s := s.setHomed base (faultBytes t f)
    (s.updDie t.die fun d =>
      { d with fringTail := d.fringTail + 1,
               faults := d.faults.filter (fun (x : FaultRec) => x.index != i) ++
                 [{ index := i, handle := t.handle, kind := f.kind, place := f.place, state := 0 }] },
     { f with record := some i })

/-- Ports that wait for a free record slot write their records, in turn (R316). -/
def State.refillPorts (s : State) (t : Task) : List Frozen → List Frozen → State × List Frozen
  | [], done => (s, done)
  | f :: r, done =>
    if f.record.isSome then s.refillPorts t r (done ++ [f])
    else
      let (s, f) := s.record t f
      s.refillPorts t r (done ++ [f])

/-- The ports of a die's tasks, one of them left out, that have no record yet write theirs while slots are free. -/
def State.refillRing (s : State) (d : Nat) (but : Option Word) : State :=
  (s.tasks.filter fun t => t.die == d && some t.handle != but).foldl (fun s t0 =>
    match s.task? t0.handle with
    | none => s
    | some t =>
      let (s, fs) := s.refillPorts t t.frozen []
      s.putTask { t with frozen := fs }) s

/-- The device withdraws the pending fault records of a task; ports of others that met a full ring then write theirs (R316,
R317). -/
def State.withdrawFaults (s : State) (t : Task) : State :=
  let mine := (s.die t.die).faults.filter fun f => f.handle == t.handle && f.state == 0
  let base := (s.die t.die).fringBase.toNat
  let s := mine.foldl (fun s f => s.setHomed (base + 64 * f.index + 40) (natBytes 8 3)) s
  let s := s.updDie t.die fun d => { d with faults := d.faults.map (fun (f : FaultRec) =>
    if f.handle == t.handle && f.state == 0 then { f with state := 3 } else f) }
  s.refillRing t.die (some t.handle)

/-- The effects of a task vanish (R112): pops return, sides are released, its lock is undone. -/
def State.discard (s : State) (t : Task) : State :=
  ((s.leaveChannels t.handle).unlock t.handle).withdrawFaults t

/-- Fill a die's budget, no higher than 2^38 grains (R103). -/
def State.refund (s : State) (die n : Nat) : State :=
  s.updDie die fun d => { d with budget := min (d.budget + n) Config.budgetCap }

/-- Unused grains of a task (R116). -/
def Task.unused (t : Task) : Nat := t.account + t.skipRefund

/-- Grains drawn over one admission (R116). -/
def Task.drawn (t : Task) : Nat := 16 * t.crec.packets + 16 * t.added - t.unused

/-! ### Graph nodes (R86–R88) -/

/-- Change a graph node of an instance. -/
def State.updNode (s : State) (inst k : Nat) (f : Node → Node) : State :=
  { s with instances := s.instances.map fun i => if i.id == inst then { i with nodes := modAt i.nodes k f } else i }

/-- A task is re-queued: its node waits again, and the arms delivered to it are held again, whole (R87). -/
def State.nodeRequeued (s : State) (origin : Option (Nat × Nat)) : State :=
  match origin with
  | none => s
  | some (inst, k) =>
    { s with instances := s.instances.map fun i =>
        if i.id == inst then
          { i with nodes := modAt (List.map (fun (n : Node) => match n.target with
              | some (tgt, _, _) => if tgt == k && (n.life == .armed || n.life == .armDone) then { n with life := .held } else n
              | none => n) i.nodes) k (fun n => { n with life := .pending }) }
        else i }

/-- A task goes back into its die's queue as its record (R130, R293, R323, R339). -/
def State.requeue (s : State) (t : Task) (rerun : Nat) (irrevocable front : Bool) : State :=
  let s := ((s.discard t).refund t.die t.unused).freeRows t false
  let s := (s.dropTask t.handle).nodeRequeued t.origin
  let (s, q) := s.newQRec t.crec
  s.enqueue t.die { q with rerun := rerun, origin := t.origin, hint := t.hint, irrevocable := irrevocable, front := front }

/-- A task retires without committing (R112, R116, R337, R338): its effects vanish, its unused grains go back, the
gang is released, the report lands with the flags of everything it performed (R78), its graph node ends. -/
def State.retire (s : State) (t : Task) (e : Ending) (tr : Trap) (shortfall granted sub addr : Nat) :
    State × List Job :=
  let flags := s.flagsOf t
  let s := (((s.discard t).refund t.die t.unused).freeRows t false).dropTask t.handle
  let (s, jobs) := s.landReport t.die (some t.lead) t.crec
    { ending := e, trap := tr, flags := flags, added := t.added, shortfall := shortfall, granted := granted,
      sub := sub, addr := addr, drawn := t.drawn, seq := 0 } t.handle
  (s, jobs ++ match t.origin with
    | some (i, k) => [.node i k (.failed e tr)]
    | none => [])

/-- A conflict abort or a wound (R290, R298, R339). A saved image turns into a Discard (R324): its record waits anew, at its
written priority, also where a suspension had not queued it (R331). -/
def State.conflictAbort (s : State) (h : Word) (own : Bool) : State × List Job :=
  match s.task? h with
  | some t =>
    let n := if t.crec.ts == 0 || !own then t.rerun + 1 else t.rerun
    if n ≥ 65 then s.retire t .conflictLimit .none 0 0 0 0 else (s.requeue t n t.irrevocable false, [])
  | none =>
    match s.saved.find? fun p => p.task.handle == h with
    | none => (s, [])
    | some { id := id, task := t, .. } =>
      let s := (s.discard t).refund t.die t.unused
      let s := { s with saved := s.saved.filter (fun p => p.id != id) }
      let (s, q) := (s.nodeRequeued t.origin).newQRec t.crec
      let s := s.updDie t.die fun d => { d with taskQueue := d.taskQueue.filter fun q => q.image != some id }
      (s.enqueue t.die { q with rerun := t.rerun, origin := t.origin, hint := t.hint }, [])

/-- The frame pointer's home, where a record is hinted there (R125). DESIGN CHOICE (log entry 74): R125 names a pointer of 0 and an unmapped
page; a malformed translation, HOST and a page without a home give no hint either. -/
def State.hintOf (s : State) (die : Nat) (r : Record) : State × Option (Nat × Nat) :=
  if !r.homehint || r.dw1 == 0 then (s, none)
  else match s.translate die r.ctx r.dw1.toNat with
    | (s, .error _) => (s, none)
    | (s, .ok e) => (s, (s.homeSlice (e.phys r.dw1.toNat)).map fun h => (h.1, h.2.1))

/-- The record of a task node, built from its template and the launch (R21). -/
def Instance.record (i : Instance) (n : Node) (t : Record) : Record :=
  { t with
    dw1 := i.frame + t.dw1
    dw3 := i.tsbase + n.tsOff
    dw4 := (t.dw4 &&& ~~~(0x003F000000000000 : Word)) ||| (i.prio.setWidth 64 <<< 48)
    dw7 := (t.dw7 &&& ~~~(0x0000000FFFFF0000 : Word)) ||| (i.cls.setWidth 64 <<< 16) |||
      (BitVec.ofNat 64 (i.ctx % 65536) <<< 20) }

/-- A node's working count reached 0 (R87): a task node's record is built and queued, or the node fails; a
section-arm node is held, or discarded when its target has retired. DESIGN CHOICE: a template pointer that is no multiple of 64 has
no stated fate, and its 64 bytes are read as they lie (log entry 64); the hint is taken when the record is built and kept, also over a
re-queue and a move of the page (log entry 74). -/
def State.readyNode (s : State) (inst k : Nat) : State × List Job :=
  match s.instances.find? fun i => i.id == inst with
  | none => (s, [])
  | some i =>
    match i.nodes[k]? with
    | none => (s, [])
    | some n =>
      let s := s.updNode inst k fun n => { n with everReady := true }
      match n.target with
      | some (tgt, _, _) =>
        let gone := match (i.nodes[tgt]?).map Node.life with
          | some .committed => true
          | some (.failed _ _) => true
          | _ => false
        (s.updNode inst k fun n => { n with life := if gone then .discarded else .held }, [])
      | none =>
        let s := s.updNode inst k fun n => { n with life := .pending }
        match s.accessRange i.die i.ctx .load n.tmpl.toNat 64 with
        | (s, .error (.perm, _)) => (s, [.node inst k (.failed .faulted .perm)])
        | (s, .error (.host, _)) => (s, [.node inst k (.failed .faulted .host)])
        | (s, .error _) => (s, [.node inst k (.failed .faulted .xlate)])
        | (s, .ok ps) =>
          let s := s.touchLines i.die 0 ((ps.filter fun p => !p.2.io).map Prod.fst)
          let r := i.record n (Record.ofBytes (ps.map fun p => s.byteAt p.1))
          let (s, q) := s.newQRec r
          match s.hintOf i.die r with
          | (s, some (d, c)) => (s.enqueue d { q with origin := some (inst, k), hint := some c }, [])
          | (s, none) => (s.enqueue i.die { q with origin := some (inst, k) }, [])

/-- Nodes become ready in order. -/
def State.readyAll (s : State) (inst : Nat) : List Nat → State × List Job
  | [] => (s, [])
  | k :: r =>
    let (s, j1) := s.readyNode inst k
    let (s, j2) := s.readyAll inst r
    (s, j1 ++ j2)

/-- Nodes become ready in order, unless the package is suspended: then the walkers ready them on resume (R329, R331). -/
def State.readyNodes (s : State) (inst : Nat) (ks : List Nat) : State × List Job :=
  if s.susp == .running then s.readyAll inst ks else (s, [])

/-- Whether a node holds its instance open (R88): it is to be readied, or it was and has not come to rest. -/
def Node.live (n : Node) : Bool :=
  match n.life with
  | .waiting => n.count == 0
  | .pending => true
  | .running _ => true
  | .armed => true
  | _ => false

/-- The launch completion doubleword of an instance whose nodes have all come to rest (R24, R88). -/
def Instance.completionWord (i : Instance) : Nat :=
  let ns := (List.range i.nodes.length).zip i.nodes
  let tasks := ns.filter fun p => p.2.target.isNone
  let base (o tr node : Nat) : Nat := o + 256 * tr + 65536 * node + 2 ^ 32 * i.retired
  if tasks.all (fun p => p.2.life == .committed) then base 0 0 0
  else match tasks.find? fun p => match p.2.life with | .failed _ _ => true | _ => false with
    | some (k, n) => match n.life with
      | .failed e t => base e.code t.code k
      | _ => base 0 0 k
    | none =>
      match ns.find? fun p => p.2.target.isSome && p.2.life == .discarded && p.2.targetSeen with
      | some (k, _) => base 4 0 k
      | none => match ns.find? fun p => !p.2.everReady with
        | some (k, _) => base 2 1 k
        | none => base 0 0 0

/-- Write a launch completion doubleword as an external commit, or log that its page forbids it (R24). -/
def State.landCompletion (s : State) (die ctx addr v : Nat) : State × List Job :=
  if addr = 0 then (s, [])
  else match s.access die ctx addr .store with
    | (s, .error _) => (s.log die 5, [])
    | (s, .ok (pa, e)) => s.landExternal (ioOf e [lineOf pa]) (atAddr pa (natBytes 8 v)) 0

/-- End an instance in which nothing is live any more; its held arm nodes are discarded first (R87, R88). -/
def State.endInstance (s : State) (inst : Nat) : State × List Job :=
  match s.instances.find? fun i => i.id == inst with
  | none => (s, [])
  | some i =>
    if i.nodes.any Node.live then (s, [])
    else
      let i : Instance := { i with nodes := i.nodes.map (fun (n : Node) => if n.life == NodeLife.held then { n with life := NodeLife.discarded } else n) }
      let s := { s with instances := s.instances.filter (fun (x : Instance) => x.id != inst) }
      s.landCompletion i.die i.ctx i.completion.toNat
        i.completionWord

/-- A node ends (R86, R87): a committed task or a completed arm takes one from each successor's count; when a task
retires, the arms aimed at it that have not completed are discarded. DESIGN CHOICE: several successors that reach 0 at once become
ready in successor-list order (log entry 64); an arm that has lowered its successors' counts neither undoes nor repeats that when its
target is re-queued (log entry 73). -/
def State.nodeEnd (s : State) (inst k : Nat) (life : NodeLife) : State × List Job :=
  match s.instances.find? fun i => i.id == inst with
  | none => (s, [])
  | some i =>
    match i.nodes[k]? with
    | none => (s, [])
    | some n =>
      let isTask := n.target.isNone
      let done := life == .committed || life == .armDone
      let nodes : List Node := modAt i.nodes k fun n => { n with life := life, paid := n.paid || done }
      let nodes := if isTask then nodes.map fun (m : Node) => match m.target with
          | some (tgt, _, _) =>
            if tgt == k && (m.life == .held || m.life == .armed) then { m with life := .discarded } else m
          | none => m
        else nodes
      let succ := if done && !n.paid then n.succ else []
      let dec := succ.foldl (fun (p : List Node × List Nat) j =>
        match p.1[j]? with
        | none => p
        | some m =>
          (modAt p.1 j fun m => { m with count := m.count - 1 }, if m.count == 1 then p.2 ++ [j] else p.2))
        (nodes, ([] : List Nat))
      let s := { s with instances := s.instances.map (fun (x : Instance) =>
        if x.id == inst then { x with nodes := dec.1, retired := if isTask then x.retired + 1 else x.retired } else x) }
      let (s, j1) := s.readyNodes inst dec.2
      if j1.isEmpty then s.endInstance inst else (s, j1)

/-- The walkers go on after a suspension: they ready, instance by instance, the nodes whose count has reached 0, and end an instance in
which nothing is live then (R88, R329, R331). -/
def State.walkersGoOn (s : State) : State × List Job :=
  s.instances.foldl (fun (p : State × List Job) i =>
    let ks := (List.range i.nodes.length).filter fun k => match i.nodes[k]? with
      | some n => n.count == 0 && n.life == .waiting
      | none => false
    let (s, js) := p.1.readyNodes i.id ks
    let (s, js) := if js.isEmpty then s.endInstance i.id else (s, js)
    (s, p.2 ++ js)) (s, [])

/-! ### Doing what follows -/

/-- Do one job. -/
def State.runJob (s : State) : Job → State × List Job
  | .doom h own => s.conflictAbort h own
  | .node i k life => s.nodeEnd i k life

/-- Do jobs until none is left. Each conflict abort removes a resident task or a saved image and each node ends once,
so the fuel of `finish` suffices. -/
def State.runJobs : Nat → List Job → State → State
  | 0, _, s => s
  | _, [], s => s
  | n + 1, j :: r, s =>
    let (s, js) := s.runJob j
    State.runJobs n (r ++ js) s

/-- Enough fuel for every job that can follow from the ones at hand. -/
def State.fuel (s : State) (js : List Job) : Nat :=
  let t := s.tasks.length + s.saved.length + s.instances.length + 2
  (t + js.length) * (t + 2) + 4 * s.instances.foldl (fun n i => n + i.nodes.length + 2) 4

/-- A step's state with what follows from it done. -/
def finish (p : State × List Job) : State := State.runJobs (p.1.fuel p.2) p.2 p.1

end Sys2Proof.Machine
end

