-- ==== Sys2Proof/Machine/Frames.lean ====
section
/-! DEFINITION. The fields of configuration frames (R36–R43) and what a region holds once frames take effect (R44,
R127, R152, R167, R190, R306). -/

namespace Sys2Proof.Machine

open Sys2Proof

/-- Bits [hi:lo] of a payload. -/
def fb (v : BitVec 240) (hi lo : Nat) : Nat := bitsOf v.toNat hi lo

/-- A number of `n` bits read as two's complement. -/
def signedOf (n v : Nat) : Int := if v < 2 ^ (n - 1) then v else (v : Int) - 2 ^ n

def frameKind (f : BitVec 256) : Nat := bitsOf f.toNat 255 252
def framePlace (f : BitVec 256) : Nat := bitsOf f.toNat 249 240
def framePayload (f : BitVec 256) : BitVec 240 := f.setWidth 240

/-! ### CU payloads (R38, R39) -/

def cuOp (v : BitVec 240) (k : Nat) : Nat := fb v (48 * k + 7) (48 * k)
/-- Select a, b or c (j = 0, 1, 2) of stage `k`. -/
def cuSel (v : BitVec 240) (k j : Nat) : Nat := fb v (48 * k + 10 + 3 * j) (48 * k + 8 + 3 * j)
def cuRm (v : BitVec 240) (k : Nat) : BitVec 2 := BitVec.ofNat 2 (fb v (48 * k + 18) (48 * k + 17))
def cuSat (v : BitVec 240) (k : Nat) : Bool := fb v (48 * k + 19) (48 * k + 19) == 1
def cuAcc (v : BitVec 240) (k : Nat) : Bool := fb v (48 * k + 20) (48 * k + 20) == 1
def cuImm (v : BitVec 240) (k : Nat) : Nat := fb v (48 * k + 47) (48 * k + 24)
def cuIn (v : BitVec 240) (n : Nat) : Bool := fb v (192 + n) (192 + n) == 1
def cuOut (v : BitVec 240) (n : Nat) : Bool := fb v (196 + n) (196 + n) == 1
/-- The stage whose result leaves on out0 or out1. -/
def cuOutSrc (v : BitVec 240) (n : Nat) : Nat := fb v (199 + 2 * n) (198 + 2 * n)
def cuFibre (v : BitVec 240) : Bool := fb v 202 202 == 1
/-- Entry k (a, b, emission) of the join action table for outcome o. -/
def cuAct (v : BitVec 240) (o k : Nat) : Nat := fb v (207 + 2 * (3 * o + k)) (206 + 2 * (3 * o + k))

/-! ### MU payloads (R40, R190) -/

def muMode (v : BitVec 240) : Nat := fb v 3 0
def muWidth (v : BitVec 240) : Nat := fb v 5 4
def muBase (v : BitVec 240) : Nat := fb v 22 6
def muStride (v : BitVec 240) : Int := signedOf 16 (fb v 38 23)
def muCount (v : BitVec 240) : Nat := fb v 54 39 + 1
def muPort (v : BitVec 240) : Nat := fb v 58 55
/-- Bytes of one lane of an access. -/
def muLane (v : BitVec 240) : Nat := match muWidth v with | 1 => 2 | 2 => 1 | _ => 4
/-- Lanes of one access. -/
def muLanes (v : BitVec 240) : Nat := if muWidth v = 3 then 1 else 16
/-- The offset of access `i`. -/
def muAt (v : BitVec 240) (i : Nat) : Int := (muBase v : Int) + i * muStride v

/-! ### SW payloads (R42) -/

def swSlots (v : BitVec 240) (n : Nat) : Nat := fb v (8 * n + 3) (8 * n)
def swSrc (v : BitVec 240) (n : Nat) : Nat := fb v (8 * n + 7) (8 * n + 4)
def swFibre (v : BitVec 240) (n : Nat) : Bool := fb v (80 + n) (80 + n) == 1

/-! ### AG payloads (R43) -/

def agMode (v : BitVec 240) : Nat := fb v 2 0
def agTok (v : BitVec 240) : Bool := fb v 3 3 == 1
def agP1 (v : BitVec 240) : Nat := fb v 55 4
def agP2 (v : BitVec 240) : Nat := fb v 107 56
def agEsize (v : BitVec 240) : Nat := fb v 110 108
def agDims (v : BitVec 240) : Nat := fb v 112 111 + 1
def agExt (v : BitVec 240) (i : Nat) : Nat := fb v (128 + 16 * i) (113 + 16 * i) + 1
def agStride (v : BitVec 240) (i : Nat) : Int := signedOf 15 (fb v (191 + 15 * i) (177 + 15 * i))
def agPort (v : BitVec 240) : Nat := fb v 239 237
/-- The side and the cluster-in-gang of an AG place (R37). -/
def placeSide (p : Nat) : Nat := p / 16 % 4
def placeGen (p : Nat) : Nat := p / 4 % 4
def placeCluster (p : Nat) : Nat := p / 64 % 16

/-! ### Frames in force -/

/-- A port before anything reached it. -/
def PortState.fresh : PortState :=
  { replay := [], window := [], last := none, begun := false, delivered := false, lastStop := none }

/-- A cell whose frames have just taken effect: empty links, accumulators of zero, a permit counter from imm24[7:0],
every FIFO slot empty. -/
def Cell.fresh (idx : Nat) (cu mu sw : Option (BitVec 240)) : Cell :=
  { idx := idx, cu := cu, mu := mu, sw := sw, links := List.replicate 10 [],
    acc := List.replicate 4 (List.replicate 16 0), turn := false,
    permits := match cu with | some v => if cuOp v 0 = 0x80 then cuImm v 0 % 256 else 0 | none => 0,
    ctl := { go := none, next := [], await := [] }, ports := List.replicate 4 PortState.fresh, runCoord := none,
    runValue := none, count := 0, afterItem := false, headers := [], passes := [], pos := 0, tail := 0,
    fifo := match mu with | some v => if muMode v = 4 then List.replicate (muCount v) false else [] | none => [],
    fifoRd := 0, fifoWr := 0, portal := [], own := [] }

/-- An AG whose frame has just taken effect. -/
def Ag.fresh (place : Nat) (f : BitVec 240) : Ag :=
  { place := place, frame := f, passes := [], pos := 0, gathers := [], out := [], out2 := [], q := [], q2 := [], inp := PortState.fresh,
    inp2 := PortState.fresh, open? := false, headers := [], own := [] }

/-- The payload of the frame of a kind for a place, if the image has one. -/
def frameFor (fs : List (BitVec 256)) (kind place : Nat) : Option (BitVec 240) :=
  (fs.find? fun f => frameKind f == kind && framePlace f == place).map framePayload

/-- Put the frames of an image in force: every other cell and AG of the gang has no frame (R44, R127, R152). -/
def Task.install (t : Task) (fs : List (BitVec 256)) : Task :=
  let cells := ((fs.filter fun f => 1 ≤ frameKind f && frameKind f ≤ 3).map framePlace).eraseDups
  { t with
    frames := fs
    cells := cells.map fun c => Cell.fresh c (frameFor fs 1 c) (frameFor fs 2 c) (frameFor fs 3 c)
    ags := (fs.filter fun f => frameKind f == 4).map fun f => Ag.fresh (framePlace f / 4 * 4) (framePayload f)
    engines := t.engines.map fun (e : Engine) => { e with inq := List.replicate 5 [] }
    gos := [] }

/-- A cell of a task's region that has a frame. -/
def Task.cell? (t : Task) (c : Nat) : Option Cell := t.cells.find? fun x => x.idx == c

/-- Put a cell back. -/
def Task.putCell (t : Task) (c : Cell) : Task :=
  { t with cells := t.cells.map fun x => if x.idx == c.idx then c else x }

/-- An AG of a task that has a frame. -/
def Task.ag? (t : Task) (p : Nat) : Option Ag := t.ags.find? fun x => x.place == p

/-- Put an AG back. -/
def Task.putAg (t : Task) (a : Ag) : Task :=
  { t with ags := t.ags.map fun x => if x.place == a.place then a else x }

/-- An engine of a task. -/
def Task.engine? (t : Task) (k : Nat) : Option Engine := t.engines.find? fun e => e.k == k

/-- Put an engine back. -/
def Task.putEngine (t : Task) (e : Engine) : Task :=
  { t with engines := t.engines.map fun x => if x.k == e.k then e else x }

/-- The engines bound to a section, by rank (R256). -/
def Task.sectionEngines (t : Task) (sec : Nat) : List Engine := t.engines.filter fun e => e.sec == some sec

end Sys2Proof.Machine
end

