-- ==== Sys2Proof/Machine/Charge.lean ====
section
/-! DEFINITION. The packet gate: debits, low-charge notices, prefix grants, refusal and shortfall, and the funding of
walker arms (R98–R116, R153, R256, R257, R365). -/

namespace Sys2Proof.Machine

open Sys2Proof

/-- The subcode of a shortfall by the kind of the refused command (R113). -/
def CmdKind.subcode : CmdKind → Nat
  | .instr => 0
  | .nest _ => 1
  | .go _ => 2
  | .arm _ => 3
  | .copy _ => 4
  | .lds _ _ => 4
  | .walkerArm _ => 5
  | .cfgLoad => 7
  | .image => 7
  | .group _ _ => 8

/-- Units of a command. -/
def Cmd.units (c : Cmd) : Nat := c.runs.foldl (fun n r => n + r.1) 0

/-- The draws of the units from number `skip` on. -/
def restDraw : List (Nat × Nat) → Nat → Nat
  | [], _ => 0
  | (c, d) :: r, skip => if skip ≥ c then restDraw r (skip - c) else (c - skip) * d + restDraw r 0

/-- The largest prefix of the units from number `skip` on that an account covers, and its draw (R108). -/
def takeUnits : List (Nat × Nat) → Nat → Nat → Nat × Nat
  | [], _, _ => (0, 0)
  | (c, d) :: r, skip, acc =>
    if skip ≥ c then takeUnits r (skip - c) acc
    else
      let m := c - skip
      let k := if d = 0 then m else min m (acc / d)
      if k < m then (k, k * d)
      else
        let p := takeUnits r 0 (acc - k * d)
        (k + p.1, k * d + p.2)

/-- One debit: the account falls, and a notice is pushed when it crosses the mark (R115, R365). A debit is an issue or
a grant, so the hang monitor's count starts again (R319). -/
def State.debit (s : State) (t : Task) (n : Nat) : State × Task :=
  let t' := { t with account := t.account - n, hangCount := 0 }
  if t.armed && t.crec.notice && t.mark ≠ 0 && t.mark < t.account && t'.account ≤ t.mark then
    let t' := { t' with armed := false }
    (s.pushNotice t' t'.account, t')
  else (s, t')

/-- A task in STOPPED for want of charge retires SHORTFALL (R113). -/
def State.shortfall (s : State) (t : Task) (c : Cmd) : State × List Job :=
  let addr := match c.kind with
    | .walkerArm n => n
    | .image => 0
    | _ => c.addr.toNat
  s.retire { t with gate := .stopped } .shortfall .shortfall ((if c.issued then 0 else c.issue) + restDraw c.runs c.done)
    c.done c.kind.subcode addr

/-- Whether a cell holds no granted work: no item on a link, no portal firing, no granted element of a pass to come. -/
def Cell.idle (c : Cell) : Bool :=
  c.links.all List.isEmpty && c.portal.isEmpty && c.passes.all fun p => p.pos ≥ p.granted

/-- Whether a generator holds no granted work. -/
def Ag.idle (a : Ag) : Bool :=
  a.gathers.isEmpty && a.out.isEmpty && a.out2.isEmpty && a.q.isEmpty && a.q2.isEmpty &&
  a.passes.all fun p => p.pos ≥ p.granted

/-- Whether an engine holds no granted work. -/
def Engine.idle (e : Engine) : Bool :=
  e.inq.all List.isEmpty && e.rows.isEmpty && e.beats.isEmpty && e.arr.isEmpty && e.loads.isEmpty

/-- Whether nothing that was granted to a task is left to do. -/
def Task.idle (t : Task) : Bool :=
  (t.nests.all fun n => n.ran ≥ n.granted) && t.copies.all Copy.finished && (t.ops2.all fun o => o.left = 0) &&
  t.dest.isEmpty && t.cells.all Cell.idle && t.ags.all Ag.idle && t.engines.all Engine.idle && t.portalReqs = 0

/-- Refuse a command: the gate is in HOLD and its timer starts, or goes on. A hold of 0 expires at once: a task with no
granted work left ends SHORTFALL, another one once its granted work is done, so that its flags cover the granted prefix (R78,
R108, R111). -/
def State.refuse (s : State) (t : Task) (c : Cmd) : State × List Job :=
  let t := { t with cmd := some c, gate := .hold,
                    holdLeft := if t.gate == .hold then t.holdLeft else t.holdField.toNat * 64 }
  if t.holdLeft = 0 && t.idle then s.shortfall t c else (s.putTask t, [])

/-- Tiles `g` to `g + k - 1` of a command, those of the engine of rank `r` among `e` (R256). -/
def tilesOf (g k r e : Nat) : Nat := (g + k + e - 1 - r) / e - (g + e - 1 - r) / e

/-- The first tile from number `g` on that runs on the engine of rank `r` among `e` (R256). -/
def firstTile (g r e : Nat) : Nat := g + (r + e - g % e) % e

/-- Cursor writes at the head of the array queue are executed. -/
def Engine.runCursors (e : Engine) : Engine :=
  let rec go : List ArrCmd → BitVec 32 → List ArrCmd × BitVec 32
    | [], c => ([], c)
    | x :: r, c => match x.kind with
      | .cursor row _ => go r row
      | _ => (x :: r, c)
  let (l, c) := go e.arr e.cursor
  { e with arr := l, cursor := c }

/-- Put a command at the end of an engine's array queue. -/
def Engine.pushArr (x : Engine) (k : ArrKind) (addr : Word) : Engine :=
  { x with seq := x.seq + 1, arr := x.arr ++ [{ kind := k, seq := x.seq + 1, addr := addr }] }

/-- Queue `k` further tiles of an operation on the engines of its section, tile t on the engine of rank t mod e, or on
its one engine (R256, R257). -/
def Task.queueTiles (t : Task) (o : Op2) (k : Nat) : Task :=
  let es := match o.engine with
    | some i => t.engines.filter fun (e : Engine) => e.k == i
    | none => t.sectionEngines o.sec
  let ranked := (List.range es.length).zip (es.map Engine.k)
  ranked.foldl (fun t p =>
    let n := tilesOf o.granted k p.1 es.length
    match t.engine? p.2 with
    | none => t
    | some e =>
      let e := match o.start, o.engine with
        | some row, some _ => if o.granted = 0 then e.pushArr (.cursor row o.zero) o.addr else e
        | _, _ => e
      t.putEngine (Engine.runCursors (if n = 0 || o.zero then e else e.pushArr (.tiles o.id n o.ovw (o.mig && o.granted == 0)
        (firstTile o.granted p.1 es.length) es.length) o.addr))) t

/-- Grant `k` tiles of one operation. -/
def Task.grantTiles (t : Task) (id k : Nat) : Task :=
  match t.ops2.find? fun o => o.id == id with
  | none => t
  | some o =>
    let t := t.queueTiles o k
    { t with ops2 := t.ops2.map fun x => if x.id == id then
        { x with ungranted := x.ungranted - k, granted := x.granted + k, left := if x.zero then 0 else x.left + k }
      else x }

/-- Grant `k` units over consecutive operations (R257). -/
def Task.grantGroups (t : Task) : List Nat → Nat → Task
  | [], _ => t
  | id :: r, k =>
    match t.ops2.find? fun o => o.id == id with
    | none => t.grantGroups r k
    | some o =>
      let m := min k o.ungranted
      if m = 0 then t.grantGroups r k else (t.grantTiles id m).grantGroups r (k - m)

/-- The walker arms whose tiles have all completed are done, whatever stands before them on tl2: their graph nodes complete (R86). -/
def Task.endArms (t : Task) : Task × List Job :=
  let ended := t.ops2.filter fun o => o.node.isSome && o.done
  ({ t with ops2 := t.ops2.map (fun (o : Op2) => if o.done then { o with node := none } else o),
            arms := t.arms.filter fun a => !ended.any fun o => a.op == some o.id },
   ended.filterMap fun o => match o.node, t.origin with
     | some k, some (i, _) => some (Job.node i k .armDone)
     | _, _ => none)

/-- The operations at the head of tl2 that are done advance it, in order (R153). -/
def Task.advanceTl2 (t : Task) : Nat → Task
  | 0 => t
  | n + 1 =>
    match t.ops2 with
    | [] => t
    | o :: r => if o.done then ({ t with ops2 := r }.setTimeline 2 (t.timeline 2 + 1)).advanceTl2 n else t

/-- What granting `k` more units does to the command's object. -/
def Task.applyGrant (t : Task) (c : Cmd) (k : Nat) : Task :=
  match c.kind with
  | .instr => t
  | .nest id => { t with nests := t.nests.map fun x => if x.id == id then { x with granted := x.granted + k } else x }
  | .go id =>
    let up (ps : List Pass) : List Pass :=
      ps.map fun p => if p.go == id then { p with granted := min p.total (c.done + k) } else p
    { t with cells := t.cells.map (fun x => { x with passes := up x.passes }),
             ags := t.ags.map (fun x => { x with passes := up x.passes }) }
  | .arm op => t.grantTiles op k
  | .walkerArm node =>
    match t.arms.find? fun a => a.node == node with
    | some { op := some op, .. } => t.grantTiles op k
    | _ => t
  | .copy id => { t with copies := t.copies.map fun x => if x.id == id then { x with granted := x.granted + k } else x }
  | .lds e id =>
    match t.engine? e with
    | none => t
    | some x => t.putEngine { x with loads := x.loads.map fun l => if l.id == id then { l with granted := l.granted + k } else l }
  | .cfgLoad => t
  | .image => t
  | .group first n => t.grantGroups ((List.range n).map (first + ·)) k

/-- Grant a command, other than a load of frames, the largest prefix the account covers (R108). -/
def State.grantCmd (s : State) (t : Task) (c : Cmd) : State × List Job :=
  let n := c.units
  if c.done = n then (s.putTask { t with gate := .running, cmd := none }, [])
  else
    let (k, sum) := takeUnits c.runs c.done t.account
    if k = 0 then s.refuse t c
    else
      let (s, t) := s.debit t sum
      let t := t.applyGrant c k
      let c := { c with done := c.done + k }
      if c.done < n then (s.putTask { t with gate := .short, cmd := some c }, [])
      else (s.putTask { t with gate := .running, cmd := none }, [])

/-- The draw of one tile by format code (R104). -/
def tileDraw (fmt : Nat) : Nat := if fmt < 2 then 96 else if fmt = 2 then 24 else if fmt ≤ 4 then 40 else 64

/-- Whether a lower-numbered arm aimed at the same task as node `k` is still to be funded: one that is not yet delivered, or
that was delivered and has no operation yet (R107). -/
def State.armBefore (s : State) (t : Task) (inst k : Nat) : Bool :=
  match s.instances.find? fun i => i.id == inst with
  | none => false
  | some i =>
    let same := (i.nodes[k]?).bind fun n => n.target.map Prod.fst
    ((List.range k).zip i.nodes).any fun p =>
      (p.2.target.map Prod.fst) == same && same.isSome &&
      (p.2.life == .waiting || p.2.life == .held ||
        (p.2.life == .armed && t.arms.any fun a => a.node == p.1 && a.op.isNone))

/-- Fund the walker arms delivered to a task, in node order, while the gate is RUNNING; none before a lower-numbered one aimed at
the task (R107). -/
def State.fundArms (s : State) (h : Word) : Nat → State × List Job
  | 0 => (s, [])
  | n + 1 =>
    match s.task? h with
    | none => (s, [])
    | some t =>
      if t.gate != .running then (s, [])
      else
        let waiting := t.arms.filter fun a => a.op.isNone
        match waiting.foldl (fun (b : Option WalkerArm) a => match b with
            | none => some a
            | some x => if a.node < x.node then some a else some x) none with
        | none => (s, [])
        | some a =>
          if s.armBefore t a.inst a.node then (s, [])
          else match t.sectionEngines a.sec with
          | [] => s.retire { t with gate := .stopped } .faulted .illegalOp 0 0 0 a.node
          | e :: _ =>
            let draw := tileDraw (e.fmt.getD 0)
            let (s, id) := s.newId
            let o : Op2 := { id := id, addr := 0, sec := a.sec, ungranted := a.tiles, left := 0, granted := 0,
                             start := none, zero := false, ovw := false, mig := false, engine := none,
                             node := some a.node }
            let t := { t with ops2 := t.ops2 ++ [o],
                              arms := t.arms.map fun x => if x.node == a.node then { x with op := some id } else x }
            let (s, js) := s.grantCmd t { kind := .walkerArm a.node, addr := 0, issue := 0, issued := true,
                                          runs := [(a.tiles, draw)], done := 0 }
            let (s, js') := s.fundArms h n
            (s, js ++ js')

end Sys2Proof.Machine
end

