-- ==== Sys2Proof/Machine/Ops.lean ====
section
/-! DEFINITION. What instructions share: taking an exception and returning from one, frozen ports, issue with its
draw, blocking (R46, R108, R135, R137, R293, R314–R318, R332–R336). -/

namespace Sys2Proof.Machine

open Sys2Proof

/-- The outcome of a step of this machine. -/
abbrev Out := Host.Outcome State Fault Refusal

/-- Change one Bureau. -/
def State.updBureau (s : State) (d : Nat) (f : Bureau → Bureau) : State :=
  s.updDie d fun x => { x with bureau := f x.bureau }

def Bureau.x (b : Bureau) (i : Reg) : Word := readReg b.regs i
def Bureau.setX (b : Bureau) (i : Reg) (v : Word) : Bureau := { b with regs := writeReg b.regs i v }

/-- The Bureau's instruction is complete. -/
def Bureau.advance (b : Bureau) (n : Nat) : Bureau := { b with pc := b.pc + BitVec.ofNat 64 n }

/-! ### Exceptions -/

/-- Trap entry on a Bureau (R333). `sync` tells a synchronous trap from an interrupt; the pc is the trapping
instruction's, or the next one's for an interrupt. -/
def Bureau.enter (b : Bureau) (code : BitVec 8) (val : Word) (sync : Bool) : Bureau :=
  { b with
    dt := b.dt || (sync && b.intrap)
    tpc := b.pc
    code := code
    val := val
    pie := b.ie
    ie := false
    intrap := true
    waiting := false
    pc := b.vec.setWidth 64 &&& ~~~(3 : Word) }

/-- Return from a trap on a Bureau (R336). -/
def Bureau.eret (b : Bureau) : Bureau := { b with ie := b.pie, intrap := false, pc := b.tpc }

/-- Take an exception. On a Bureau its trap entry follows (R333) with VAL `val`. A task ends FAULTED with the trap
code, `sub` in bytes 20–23 of its completion record and `addr` in bytes 24–31 (R315). -/
def State.takeTrap (s : State) (a : Agent) (code : Trap) (sub addr val : Nat) : State × List Job :=
  match a with
  | .bureau d => (s.updBureau d fun b => b.enter (BitVec.ofNat 8 code.code) (BitVec.ofNat 64 val) true, [])
  | .thread h =>
    match s.task? h with
    | none => (s, [])
    | some t => s.retire { t with gate := .stopped } .faulted code 0 0 sub addr

/-- A task's instruction traps at its own address. -/
def State.trapAt (s : State) (t : Task) (code : Trap) (sub : Nat) : State × List Job :=
  s.takeTrap (.thread t.handle) code sub t.pc.toNat 0

/-- A read set would overflow: the task is re-queued as irrevocable (R293). -/
def State.overflow (s : State) (t : Task) : State × List Job := (s.requeue t t.rerun true false, [])

/-! ### Frozen ports (R316–R318) -/

/-- Whether a port is frozen. -/
def Task.isFrozen (t : Task) (kind place part : Nat) : Bool :=
  t.frozen.any fun f => f.kind == kind && f.place == place && f.part == part

/-- Freeze a port: a fault record is written and the port waits for a resolver (R316). -/
def State.freeze (s : State) (t : Task) (f : Frozen) : State :=
  if t.isFrozen f.kind f.place f.part then s.putTask t
  else
    let (s, f) := s.record t f
    s.putTask { t with frozen := t.frozen ++ [f] }

/-- The control thread is frozen: at a fetch, a load or store, a frame read or its own read of a channel
table. -/
def Task.threadFrozen (t : Task) : Bool := t.frozen.any fun f => f.part == 0 && (f.kind ≤ 1 || f.kind == 5 || f.kind == 7)

/-- The control thread freezes in an instruction, at an address. -/
def State.freezeThread (s : State) (t : Task) (i : Instr) (kind va access : Nat) : State :=
  s.freeze (if t.paid then t else { t with wait := some i })
    { kind := kind, place := 0, part := 0, va := BitVec.ofNat 64 va, counter := 0, access := access, addr := t.pc,
      record := none }

/-- How an instruction of the thread ends when its access fails: a miss freezes the thread, a read set that would
overflow ends speculation, a full Cupboard makes it wait, and the rest traps (R130, R145–R147, R293). -/
def State.threadErr (s : State) (t : Task) (i : Instr) (access : Nat) (e : ViewErr) : State × List Job :=
  match e with
  | .acc .miss va => (s.freezeThread (t.block i) i 1 va access, [])
  | .acc x _ => s.trapAt t x.trap 0
  | .overflow => s.overflow t
  | .full => s.trapAt t .cupboardFull 0
  | .trap c => s.trapAt t c 0
  | .space k n => (s.putTask ((t.block i).awaitSpace threadPort k n), [])

/-! ### Issue (R46, R104, R108, R135, R137) -/

/-- An instruction issues on a task's thread. Nothing happens while the task is not yet started, its gate is not
RUNNING, its thread is frozen, or it is blocked in another instruction. A trap at issue draws nothing (R46); an issue
draw that the account does not cover is refused (R108); a blocked instruction goes on without a draw. -/
def State.issueThread (s : State) (h : Word) (i : Instr) (draw : Nat) (kind : CmdKind)
    (pre : Task → Option (Trap × Nat)) (units : State → Task → List (Nat × Nat))
    (body : State → Task → State × List Job) : Out :=
  match s.task? h with
  | none => .fault .noAgent
  | some t =>
    if !t.ready || t.gate != .running || t.threadFrozen then .next s
    else if t.wait.isSome && t.wait != some i then .next s
    else if t.paid then .next (finish (body s t))
    else match pre t with
      | some (tr, sub) => .next (finish (s.trapAt t tr sub))
      | none =>
        if t.account < draw then
          .next (finish (s.refuse t { kind := kind, addr := t.pc, issue := draw, issued := false, runs := units s t,
                                      done := 0, instr := some i }))
        else
          let (s, t) := s.debit t draw
          let t := { t with wait := none, exempt := t.exempt - 1 }
          .next (finish (body (s.putTask t) t))

/-- An instruction issues on a Bureau, which draws nothing and does nothing while it waits in `wfi`, or for a write of HOME_SLICE to
complete (R137, R199, R336). -/
def State.issueBureau (s : State) (d : Nat) (body : State → Bureau → State × List Job) : Out :=
  match s.die? d with
  | none => .fault .noAgent
  | some x => if x.bureau.waiting || x.bureau.homeWait.isSome then .next s else .next (finish (body s x.bureau))

/-- An instruction that both modes have: `bur` on the Bureau, `thr` in a task. -/
def issueBoth (i : Instr) (draw : Nat) (pre : Task → Option (Trap × Nat))
    (bur : State → Nat → Bureau → State × List Job) (thr : State → Task → State × List Job) (s : State) : Out :=
  match s.current with
  | .bureau d => s.issueBureau d fun s b => bur s d b
  | .thread h => s.issueThread h i draw .instr pre (fun _ _ => []) thr

/-- No trap at issue. -/
def noTrap (_ : Task) : Option (Trap × Nat) := none

/-- An instruction of a group that only tasks have: on the Bureau it traps ILLEGAL_OP (R137). -/
def issueTask (i : Instr) (draw : Nat) (pre : Task → Option (Trap × Nat)) (thr : State → Task → State × List Job)
    (s : State) : Out :=
  issueBoth i draw pre (fun s d _ => s.takeTrap (.bureau d) .illegalOp 0 0 0) thr s

/-- A metered command of a task (R108): `units` gives its runs of units, for the report of a refused issue. -/
def issueCmd (i : Instr) (draw : Nat) (kind : CmdKind) (pre : Task → Option (Trap × Nat))
    (units : State → Task → List (Nat × Nat)) (thr : State → Task → State × List Job) (s : State) : Out :=
  match s.current with
  | .bureau d => s.issueBureau d fun s _ => s.takeTrap (.bureau d) .illegalOp 0 0 0
  | .thread h => s.issueThread h i draw kind pre units thr

/-- An instruction that computes one register from registers and moves on by `len` bytes. -/
def issueScalar (i : Instr) (len : Nat) (d : Reg) (f : (Reg → Word) → Word) (s : State) : Out :=
  issueBoth i 1 noTrap
    (fun s k b => (s.updBureau k fun _ => (b.setX d (f b.x)).advance len, []))
    (fun s t => (s.putTask ((t.setX d (f t.x)).advance len), [])) s

/-- A task-only instruction that completes at once with a change of the task. -/
def issueSimple (i : Instr) (f : Task → Task) (s : State) : Out :=
  issueTask i 1 noTrap (fun s t => (s.putTask ((f t).advance 4), [])) s

/-- A step of another agent on a task: nothing when the task is not there. -/
def State.onTask (s : State) (h : Word) (f : State → Task → State × List Job) : Out :=
  match s.task? h with
  | none => .next s
  | some t => .next (finish (f s t))

/-- A step on a die: nothing when there is no such die. -/
def State.onDie (s : State) (d : Nat) (f : State → Die → State × List Job) : Out :=
  match s.die? d with
  | none => .next s
  | some x => .next (finish (f s x))

/-- A task whose gate lets granted work run: RUNNING, SHORT or HOLD, and its image in force (R101, R111). -/
def Task.works (t : Task) : Bool := t.gate != .stopped

/-- Progress in a gang: the hang monitor's count starts again (R319). -/
def State.fired (s : State) (t : Task) : State := s.putTask { t with hangCount := 0 }

/-- A fault raised by outstanding work of a task (R315). -/
def State.taskFault (s : State) (t : Task) (code : Trap) (sub addr : Nat) : State × List Job :=
  (s.putTask t).takeTrap (.thread t.handle) code sub addr 0

end Sys2Proof.Machine
end

