-- ==== Sys2Proof/Machine/Fetch.lean ====
section
/-! DEFINITION. A task as it starts (R26, R102, R127), and fetching: the bytes at a program counter, and what a fetch
that finds no instruction does (R32, R46, R134, R371). -/

namespace Sys2Proof.Machine

open Sys2Proof

/-- A plane of an engine that has just been allotted or cleared (R245, R261). -/
def Plane.fresh : Plane := { e := List.replicate 64 (List.replicate 64 0), zero := true, q := 1, sel := List.range 64 }

/-- An engine that has just been allotted (R128, R245). -/
def Engine.fresh (k : Nat) : Engine :=
  { k := k, fmt := none, sec := none, rm := 0, sat := false, header := false, side := 0, dscratch := false, dbase := 0,
    pitch := 0, cursor := 0, active := Plane.fresh, shadow := Plane.fresh, loads := [], arr := [], seq := 0, swaps := 0,
    inq := List.replicate 5 [], rows := [], rowsDone := 0, beats := [], headerTaken := false, tileOvw := none, migrated := [] }

/-- A task that has just been allotted its gang: account and commit reserve set aside, flags and counts 0, the notice
armed when the account stands above the mark (R78, R102, R127). `ready` becomes true when its first instruction may
issue. DESIGN CHOICE: the notice is armed against the account after the commit reserve, and the reserve's debit pushes none (log
entry 65). -/
def Task.fresh (h : Word) (r : Record) (die : Nat) (ms : List Member) (admitId snapNum : Nat) (snap : Memory)
    (snapHost : Overlay) : Task :=
  { handle := h, crec := r, die := die, members := ms, ready := false, rerun := 0, origin := none, hint := none,
    irrevocable := false, admitId := admitId, snapNum := snapNum, snap := snap, snapHost := snapHost,
    gate := .running, account := 16 * r.packets - 16, added := 0, cmd := none, mark := r.low,
    armed := 16 * r.packets - 16 > r.low, holdField := BitVec.ofNat 16 r.hold, holdLeft := 0, skipRefund := 0,
    flags := 0, pc := r.dw0, regs := ((Vector.replicate 32 0).set 2 r.dw1).set 3 h, wait := none, paid := false,
    committing := false, exempt := 0, tl := Vector.replicate 8 0, issued := [0, 0, 0, 0], finished := [],
    rwin := Vector.replicate 8 0, cup := [], cupLines := [], ioLines := [], icache := [], framed := false, fenceReqs := none, redLines := [], share := ms.map fun _ => 0,
    spaceWait := [], readSet := [], sparedBy := [], spawns := [], joinIncs := [], joinDecs := [], reds := [], pushes := [], pushData := none,
    closes := [], lockLine := none, regionOpen := false, arOps := 0, frames := [], staged := none, loading := [], loadGrant := 0, cells := [],
    ags := [], gos := [], engines := (List.range r.engines).map Engine.fresh, ops2 := [], dest := [], arms := [], copies := [],
    nests := [], frozen := [], portalReqs := 0, hangCount := 0, beatFault := none }

/-! ### Fetch -/

/-- What a fetch gives: an instruction, the trap of a word that is none, or a translation that failed at an
address. -/
inductive Fetched where
  | instr (i : Instr)
  | trap (c : Trap)
  | err (e : AccErr) (va : Nat)
deriving DecidableEq, Repr

/-- The instruction in the bytes at a program counter; a `nest` word elsewhere than at a multiple of 32 traps
MISALIGN, and bytes that are no instruction trap ILLEGAL_OP (R31, R46). -/
def fetchOf (pc : Nat) (bs : List Byte) : Fetched :=
  if instrLength (wordAt bs 32 4) == 32 && pc % 32 ≠ 0 then .trap .misalign
  else match decode bs with
    | .ok (i, _) => .instr i
    | .error _ => .trap .illegalOp

/-- Bytes of code that an instruction whose first bytes are given takes at a program counter. -/
def codeLength (pc : Nat) (first : List Byte) : Nat :=
  let n := instrLength (wordAt first 32 4)
  if n == 32 && pc % 32 ≠ 0 then 4 else n

/-- Fetch on a Bureau, from its private memory; bytes at 65,536 or above trap PERM (R371). -/
def Bureau.fetch (b : Bureau) : Fetched :=
  let pc := b.pc.toNat
  if pc + 4 > 65536 then .trap .perm
  else
    let n := codeLength pc (b.priv.read pc 4)
    if pc + n > 65536 then .trap .perm else fetchOf pc (b.priv.read pc n)

/-- The lines of a fetch pass through the instruction cache of the thread; those it does not hold are read in the task's class
(R134, R203; log entry 61). -/
def State.fetchLines (s : State) (t : Task) (pas : List Nat) : State :=
  let new := (pas.map lineOf).eraseDups.filter fun l => !t.icache.contains l
  if new.isEmpty then s
  else (new.foldl (fun s l => s.touch t.die (128 * l) t.crec.cls) s).putTask
    { t with icache := (new ++ t.icache).take Config.icacheLines }

/-- Fetch on a task's thread, from its Snapshot (R134). DESIGN CHOICE: both words of a two-word instruction are read before it is judged, so
that a miss of the second comes before ILLEGAL_OP for the first (log entry 76). -/
def State.fetchTask (s : State) (t : Task) : State × Fetched :=
  let pc := t.pc.toNat
  match s.accessRange t.die t.crec.ctx .fetch pc 4 with
  | (s, .error (e, va)) => (s, .err e va)
  | (s, .ok ps) =>
    let first := ps.map fun p => t.snapByte s p.1
    let n := codeLength pc first
    if n = 4 then (s.fetchLines t (ps.map Prod.fst), fetchOf pc first)
    else match s.accessRange t.die t.crec.ctx .fetch (pc + 4) (n - 4) with
      | (s, .error (e, va)) => (s, .err e va)
      | (s, .ok qs) =>
        (s.fetchLines t ((ps ++ qs).map Prod.fst), fetchOf pc (first ++ qs.map fun p => t.snapByte s p.1))

/-- Fetch for the agent that moves: the instruction it issues, or the state after a turn in which it issues none. A
blocked thread goes on with its instruction; a thread that cannot issue does nothing; a fetch fault is taken by the
instruction about to issue (R134, R135). -/
def State.fetch (s : State) (a : Agent) : Except State Instr × State :=
  match a with
  | .bureau d =>
    match s.die? d with
    | none => (.error s, s)
    | some x =>
      if x.bureau.waiting || x.bureau.homeWait.isSome then (.error s, s)
      else match x.bureau.fetch with
        | .instr i => (.ok i, s)
        | .trap c => (.error (finish (s.takeTrap a c 0 0 (if c == .illegalOp then 0 else x.bureau.pc.toNat))), s)
        | .err e va => (.error (finish (s.takeTrap a e.trap 0 0 va)), s)
  | .thread h =>
    match s.task? h with
    | none => (.error s, s)
    | some t =>
      if !t.ready || t.gate != .running || t.threadFrozen then (.error s, s)
      else match t.wait with
        | some i => (.ok i, s)
        | none =>
          match s.fetchTask t with
          | (s, .instr i) => (.ok i, s)
          | (s, .trap c) => (.error (finish (s.trapAt t c 0)), s)
          | (s, .err .miss va) =>
            (.error (s.freeze t { kind := 0, place := 0, part := 0, va := BitVec.ofNat 64 va, counter := 0,
                                  access := 2, addr := t.pc, record := none }), s)
          | (s, .err e _) => (.error (finish (s.trapAt t e.trap 0)), s)

/-! ### A word where the next step fetches it -/

/-- Major opcodes that only a task has (R137). -/
def taskMajor (m : Nat) : Bool :=
  m == 0x0B || m == 0x0C || (0x10 ≤ m && m ≤ 0x13) || (0x15 ≤ m && m ≤ 0x18)

/-- The task that `placeWord` lays out: slot 0 of cluster 0 on die 0, context 0, one row, one engine, 100 packets. -/
def wordTask (code : Memory) : Task :=
  { Task.fresh (mkHandle 0 0 0 1)
      { dw0 := 0, dw1 := 0, dw2 := 0, dw3 := 0, dw4 := 100, dw5 := 0x100, dw6 := 0, dw7 := 0 }
      0 [{ cluster := 0, slot := 0, row := 0 }] 0 0 code [] with ready := true }

/-- An instruction word where the next step fetches it (log entry 3): a word of a task-only group in the code of a
resident task whose page the TLBs hold, any other at the pc of Bureau 0. -/
def State.placeWord (s : State) (nbits w : Nat) : State :=
  let bytes := leBytes (BitVec.ofNat 256 (w % 2 ^ nbits)) 32
  if taskMajor (w % 128) then
    let t := wordTask (Memory.write [] 0 bytes)
    { s with schedule := [], current := .thread t.handle, stage := .c, tasks := t :: s.tasks,
             tlb := { ctx := 0, va := 0, size := 4096, pa := 0, w := false, ch := false, io := false } :: s.tlb }
  else
    { s.updBureau 0 (fun b => { b with priv := b.priv.write b.pc.toNat bytes, waiting := false, homeWait := none }) with
      schedule := [], current := .bureau 0 }

end Sys2Proof.Machine
end

