-- ==== Sys2Proof/Machine/Alu.lean ====
section
/-! DEFINITION. The ALU, ALUI and wide-immediate groups (R138–R140). -/

namespace Sys2Proof.Machine

open Sys2Proof

/-! ### What the ALU computes (R138) -/

/-- The largest and the smallest signed doubleword. -/
def maxS : Word := 0x7FFFFFFFFFFFFFFF
def minS : Word := 0x8000000000000000

/-- 1 for true. -/
def bitWord (b : Bool) : Word := if b then 1 else 0

/-- The shift count in the low six bits. -/
def shamt (b : Word) : Nat := b.toNat % 64

/-- Signed division, rounded toward zero; it saturates where the quotient cannot be represented (R138). -/
def aluDiv (a b : Word) : Word :=
  if b = 0 then (if a = 0 then 0 else if a.toInt > 0 then maxS else minS)
  else if a = minS ∧ b = BitVec.allOnes 64 then maxS
  else BitVec.ofInt 64 (a.toInt.tdiv b.toInt)

/-- Unsigned division, rounded down (R138). -/
def aluDivu (a b : Word) : Word :=
  if b = 0 then (if a = 0 then 0 else BitVec.allOnes 64) else BitVec.ofNat 64 (a.toNat / b.toNat)

/-- The signed remainder (R138). -/
def aluRem (a b : Word) : Word :=
  if b = 0 then a
  else if a = minS ∧ b = BitVec.allOnes 64 then 0
  else BitVec.ofInt 64 (a.toInt.tmod b.toInt)

/-- The unsigned remainder (R138). -/
def aluRemu (a b : Word) : Word := if b = 0 then a else BitVec.ofNat 64 (a.toNat % b.toNat)

/-- Bits [127:64] of a product (R138). -/
def aluMulh (a b : Word) : Word := BitVec.ofInt 64 ((a.toInt * b.toInt) / 2 ^ 64)
def aluMulhu (a b : Word) : Word := BitVec.ofNat 64 (a.toNat * b.toNat / 2 ^ 64)

/-- How many bits from bit `n - 1` downwards are 0 before the first 1. -/
def leadingZeros (a : Word) : Nat → Nat
  | 0 => 0
  | n + 1 => if a.getLsbD n then 0 else leadingZeros a n + 1

/-- How many bits from bit 0 upwards are 0 before the first 1. -/
def trailingZeros (a : Word) : Nat → Nat → Nat
  | _, 0 => 0
  | i, n + 1 => if a.getLsbD i then 0 else trailingZeros a (i + 1) n + 1

/-- How many of the bits below `n` are 1. -/
def onesBelow (a : Word) : Nat → Nat
  | 0 => 0
  | n + 1 => (if a.getLsbD n then 1 else 0) + onesBelow a n

def aluClz (a : Word) : Word := BitVec.ofNat 64 (leadingZeros a 64)
def aluCtz (a : Word) : Word := BitVec.ofNat 64 (trailingZeros a 0 64)
def aluPop (a : Word) : Word := BitVec.ofNat 64 (onesBelow a 64)

/-- The smaller and the larger, signed and unsigned. -/
def aluMin (a b : Word) : Word := if a.slt b then a else b
def aluMax (a b : Word) : Word := if a.slt b then b else a
def aluMinu (a b : Word) : Word := if a < b then a else b
def aluMaxu (a b : Word) : Word := if a < b then b else a

/-! ### The instructions -/

/-- `add` (R138). -/
def execAdd (d a b : Reg) (s : State) : Out := issueScalar (.add d a b) 4 d (fun x => x a + x b) s

/-- `sub` (R138). -/
def execSub (d a b : Reg) (s : State) : Out := issueScalar (.sub d a b) 4 d (fun x => x a - x b) s

/-- `and` (R138). -/
def execAnd (d a b : Reg) (s : State) : Out := issueScalar (.and d a b) 4 d (fun x => x a &&& x b) s

/-- `or` (R138). -/
def execOr (d a b : Reg) (s : State) : Out := issueScalar (.or d a b) 4 d (fun x => x a ||| x b) s

/-- `xor` (R138). -/
def execXor (d a b : Reg) (s : State) : Out := issueScalar (.xor d a b) 4 d (fun x => x a ^^^ x b) s

/-- `sll` (R138). -/
def execSll (d a b : Reg) (s : State) : Out := issueScalar (.sll d a b) 4 d (fun x => x a <<< shamt (x b)) s

/-- `srl` (R138). -/
def execSrl (d a b : Reg) (s : State) : Out := issueScalar (.srl d a b) 4 d (fun x => x a >>> shamt (x b)) s

/-- `sra` (R138). -/
def execSra (d a b : Reg) (s : State) : Out := issueScalar (.sra d a b) 4 d (fun x => (x a).sshiftRight (shamt (x b))) s

/-- `slt` (R138). -/
def execSlt (d a b : Reg) (s : State) : Out := issueScalar (.slt d a b) 4 d (fun x => bitWord ((x a).slt (x b))) s

/-- `sltu` (R138). -/
def execSltu (d a b : Reg) (s : State) : Out := issueScalar (.sltu d a b) 4 d (fun x => bitWord (x a < x b)) s

/-- `mul` (R138). -/
def execMul (d a b : Reg) (s : State) : Out := issueScalar (.mul d a b) 4 d (fun x => x a * x b) s

/-- `mulh` (R138). -/
def execMulh (d a b : Reg) (s : State) : Out := issueScalar (.mulh d a b) 4 d (fun x => aluMulh (x a) (x b)) s

/-- `mulhu` (R138). -/
def execMulhu (d a b : Reg) (s : State) : Out := issueScalar (.mulhu d a b) 4 d (fun x => aluMulhu (x a) (x b)) s

/-- `div` (R138). -/
def execDiv (d a b : Reg) (s : State) : Out := issueScalar (.div d a b) 4 d (fun x => aluDiv (x a) (x b)) s

/-- `divu` (R138). -/
def execDivu (d a b : Reg) (s : State) : Out := issueScalar (.divu d a b) 4 d (fun x => aluDivu (x a) (x b)) s

/-- `rem` (R138). -/
def execRem (d a b : Reg) (s : State) : Out := issueScalar (.rem d a b) 4 d (fun x => aluRem (x a) (x b)) s

/-- `remu` (R138). -/
def execRemu (d a b : Reg) (s : State) : Out := issueScalar (.remu d a b) 4 d (fun x => aluRemu (x a) (x b)) s

/-- `min` (R138). -/
def execMin (d a b : Reg) (s : State) : Out := issueScalar (.min d a b) 4 d (fun x => aluMin (x a) (x b)) s

/-- `max` (R138). -/
def execMax (d a b : Reg) (s : State) : Out := issueScalar (.max d a b) 4 d (fun x => aluMax (x a) (x b)) s

/-- `minu` (R138). -/
def execMinu (d a b : Reg) (s : State) : Out := issueScalar (.minu d a b) 4 d (fun x => aluMinu (x a) (x b)) s

/-- `maxu` (R138). -/
def execMaxu (d a b : Reg) (s : State) : Out := issueScalar (.maxu d a b) 4 d (fun x => aluMaxu (x a) (x b)) s

/-- `clz` (R138). -/
def execClz (d a : Reg) (s : State) : Out := issueScalar (.clz d a) 4 d (fun x => aluClz (x a)) s

/-- `ctz` (R138). -/
def execCtz (d a : Reg) (s : State) : Out := issueScalar (.ctz d a) 4 d (fun x => aluCtz (x a)) s

/-- `pop` (R138). -/
def execPop (d a : Reg) (s : State) : Out := issueScalar (.pop d a) 4 d (fun x => aluPop (x a)) s

/-- `addi` (R139). -/
def execAddi (d a : Reg) (imm : BitVec 12) (s : State) : Out :=
  issueScalar (.addi d a imm) 4 d (fun x => x a + imm.signExtend 64) s

/-- `andi` (R139). -/
def execAndi (d a : Reg) (imm : BitVec 12) (s : State) : Out :=
  issueScalar (.andi d a imm) 4 d (fun x => x a &&& imm.signExtend 64) s

/-- `ori` (R139). -/
def execOri (d a : Reg) (imm : BitVec 12) (s : State) : Out :=
  issueScalar (.ori d a imm) 4 d (fun x => x a ||| imm.signExtend 64) s

/-- `xori` (R139). -/
def execXori (d a : Reg) (imm : BitVec 12) (s : State) : Out :=
  issueScalar (.xori d a imm) 4 d (fun x => x a ^^^ imm.signExtend 64) s

/-- `slti` (R139). -/
def execSlti (d a : Reg) (imm : BitVec 12) (s : State) : Out :=
  issueScalar (.slti d a imm) 4 d (fun x => bitWord ((x a).slt (imm.signExtend 64))) s

/-- `slli` (R139). -/
def execSlli (d a : Reg) (sh : BitVec 6) (s : State) : Out :=
  issueScalar (.slli d a sh) 4 d (fun x => x a <<< sh.toNat) s

/-- `srli` (R139). -/
def execSrli (d a : Reg) (sh : BitVec 6) (s : State) : Out :=
  issueScalar (.srli d a sh) 4 d (fun x => x a >>> sh.toNat) s

/-- `srai` (R139). -/
def execSrai (d a : Reg) (sh : BitVec 6) (s : State) : Out :=
  issueScalar (.srai d a sh) 4 d (fun x => (x a).sshiftRight sh.toNat) s

/-- `li` (R140): eight bytes long (R30). -/
def execLi (d : Reg) (imm : BitVec 32) (s : State) : Out :=
  issueScalar (.li d imm) 8 d (fun _ => imm.signExtend 64) s

/-- `lih` (R140). -/
def execLih (d a : Reg) (imm : BitVec 32) (s : State) : Out :=
  issueScalar (.lih d a imm) 8 d (fun x => imm ++ (x a).setWidth 32) s

/-- `addiw` (R140). -/
def execAddiw (d a : Reg) (imm : BitVec 32) (s : State) : Out :=
  issueScalar (.addiw d a imm) 8 d (fun x => x a + imm.signExtend 64) s

end Sys2Proof.Machine
end

