-- ==== Sys2Proof/Machine/Operands.lean ====
section
/-! DEFINITION. Operand forms: memory operands (R143), nest elements (R160), source descriptors (R155), channel and
engine operands (R252, R275), and which bytes a pending nest touches (R161). -/

namespace Sys2Proof.Machine

open Sys2Proof

/-- The address of a memory operand (R143). -/
def memAddr (base : Word) (off : BitVec 12) : Word := base + off.signExtend 64

/-- Bytes of an access by its size code (R143). -/
def sizeBytes (size : Nat) : Nat := 2 ^ (size % 4)

/-- What a load gives for the bytes it read: sizes 0–2 sign-extend, 4–6 zero-extend (R143). -/
def extendLoad (size : Nat) (l : List Byte) : Word :=
  let v := ofLeBytes l
  match size with
  | 0 => (BitVec.ofNat 8 v).signExtend 64
  | 1 => (BitVec.ofNat 16 v).signExtend 64
  | 2 => (BitVec.ofNat 32 v).signExtend 64
  | _ => BitVec.ofNat 64 v

/-! ### Nest operands (R35, R158, R160) -/

/-- The operands of a nest. -/
inductive Opnd where
  | d
  | a
  | b
deriving DecidableEq, Repr

/-- The number of an operand in a fault subcode (R160). -/
def Opnd.num : Opnd → Nat
  | .d => 0
  | .a => 1
  | .b => 2

/-- Bytes of a format in memory: FP16 and BF16 take 2, the rest 4 (R158). -/
def OpFmt.bytes : OpFmt → Nat
  | .flt .h => 2
  | .flt .b => 2
  | _ => 4

/-- Bytes of a node operation's result (R158). -/
def outBytes (op : Nat) : Nat :=
  if 0x20 ≤ op && op ≤ 0x31 then (if (op - 0x20) % 3 = 0 then 4 else 2)
  else if op = 0x3A || op = 0x3B then 2 else 4

/-- Bytes of an element of an operand. -/
def nestWidth (w : NestWord) : Opnd → Nat
  | .d => outBytes w.op.toNat
  | .a => (opFmt w.op.toNat 0).bytes
  | .b => (opFmt w.op.toNat 1).bytes

/-- The extent of a level and its strides. -/
def levelCount (l : NestLevel) : Nat := l.ext.toNat + 1
def levelStride (l : NestLevel) : Opnd → Int
  | .d => l.sd.toInt
  | .a => l.sa.toInt
  | .b => l.sb.toInt

/-- Elements of a nest. -/
def nestTotal (w : NestWord) : Nat := w.lv.foldl (fun n l => n * levelCount l) 1

/-- The displacement in elements of element number `j`, level 0 fastest (R160). -/
def nestDisp (o : Opnd) : List NestLevel → Nat → Int
  | [], _ => 0
  | l :: r, j => (j % levelCount l : Nat) * levelStride l o + nestDisp o r (j / levelCount l)

/-- Whether an operand lies in scratch. -/
def nestScratch (w : NestWord) : Opnd → Bool
  | .d => w.ds
  | .a => w.as
  | .b => w.bs

/-- The address of element `j` of an operand, computed exactly (R160). -/
def nestAddr (w : NestWord) (base : Word) (o : Opnd) (j : Nat) : Int :=
  base.toNat + nestWidth w o * nestDisp o w.lv j

/-- The base value of an operand of a pending nest. -/
def Nest.base (n : Nest) : Opnd → Word
  | .d => n.bd
  | .a => n.ba
  | .b => n.bb

/-- The operands a nest uses. -/
def nestUsed (w : NestWord) : List Opnd := if w.xb = 0 then [.d, .a] else [.d, .a, .b]

/-- Whether some choice of indices brings a displacement into an interval; `s` are byte strides. -/
def strideHits : List (Nat × Int) → Int → Int → Bool
  | [], lo, hi => lo ≤ 0 && 0 ≤ hi
  | (n, s) :: r, lo, hi =>
    let reach := ((n, s) :: r).foldl (fun (p : Int × Int) l =>
      let e : Int := ((l.1 : Int) - 1) * l.2
      (p.1 + min 0 e, p.2 + max 0 e)) (0, 0)
    reach.1 ≤ hi && lo ≤ reach.2 && (List.range n).any fun (i : Nat) => strideHits r (lo - (i : Int) * s) (hi - (i : Int) * s)

/-- Whether a pending nest reads or writes a byte of an access of the thread, by address in its space (R161). -/
def Nest.touches (n : Nest) (scratch : Bool) (a len : Nat) : Bool :=
  (nestUsed n.w).any fun o =>
    nestScratch n.w o == scratch &&
    strideHits (n.w.lv.map fun l => (levelCount l, nestWidth n.w o * levelStride l o))
      ((a : Int) - (n.base o).toNat - nestWidth n.w o + 1) ((a : Int) + len - 1 - (n.base o).toNat)

/-- Whether a thread access must wait for a pending nest (R161). -/
def Task.nestTouches (t : Task) (scratch : Bool) (a len : Nat) : Bool := t.nests.any fun n => n.touches scratch a len

/-! ### Source descriptors (R155) -/

def srcClusters (x : Word) : Nat := wbits x 15 0
def srcRows (x : Word) : Nat := wbits x 23 16
def srcCols (x : Word) : Nat := wbits x 31 24
def srcMu (x : Word) : Bool := x.getLsbD 32
def srcAg (x : Word) : Bool := x.getLsbD 33
def srcSides (x : Word) : Nat := wbits x 37 34
def srcGens (x : Word) : Nat := wbits x 41 38

/-- A descriptor with a reserved bit set, or naming a cluster or row outside the region, traps (R155). -/
def Task.srcBad (t : Task) (x : Word) : Bool :=
  wbits x 63 42 ≠ 0 || srcClusters x ≥ 2 ^ t.members.length || srcRows x ≥ 2 ^ t.crec.rows

/-- Whether a descriptor selects a cell, or an AG place. -/
def srcCell (x : Word) (c : Nat) : Bool :=
  srcMu x && (srcClusters x).testBit (c / 64) && (srcRows x).testBit (c % 64 / 8) && (srcCols x).testBit (c % 8)
def srcPlace (x : Word) (p : Nat) : Bool :=
  srcAg x && (srcClusters x).testBit (placeCluster p) && (srcSides x).testBit (placeSide p) &&
  (srcGens x).testBit (placeGen p)

/-! ### Channel operands (R275) -/

def chanNum (x : Word) : Nat := wbits x 15 0
/-- The side named: true for the reader. -/
def chanSide (x : Word) : Bool := x.getLsbD 16
/-- The reserved bits of a channel operand; a form that names no side does not read bit 16 (R275, as the `ch.pop.d` of
the running-sum program shows). -/
def chanBad (x : Word) : Bool := wbits x 63 17 ≠ 0

end Sys2Proof.Machine
end

