-- ==== Sys2Proof/Machine/LoadStore.lean ====
section
/-! DEFINITION. Loads and stores of scratch and of global memory (R137, R143–R148, R161, R287, R288, R371). -/

namespace Sys2Proof.Machine

open Sys2Proof

/-- The access of a Bureau to a physical address: MISALIGN first, then PERM where no memory lies and HOST for a window
whose link is down (R143, R199, R363, R371). -/
def State.bureauCheck (s : State) (a n : Nat) (store : Bool) : Option Trap :=
  if a % n ≠ 0 then some .misalign
  else if !s.hasHome a then some .perm
  else match s.winOf a with
    | none => none
    | some w => if !s.cxlCache then some .host else if store && !w.wr then some .perm else none

/-- The faults of a scratch access: PERM before MISALIGN in a task (R144); on a Bureau MISALIGN before PERM at 65,536
and above (R137, R143). -/
def Task.scratchTrap (t : Task) (a n : Nat) : Option Trap :=
  if a ≥ 2 ^ 32 || a % 2 ^ 17 ≥ Config.scratchBytes || !t.cellOk (a / 2 ^ 17) then some .perm
  else if a % n ≠ 0 then some .misalign else none

def bureauScratchTrap (a n : Nat) : Option Trap :=
  if a % n ≠ 0 then some .misalign else if a ≥ 65536 then some .perm else none

/-- A scratch load (R144), or a load of a Bureau's private memory (R137). It waits for a nest that touches its bytes
(R161). -/
def issueLds (i : Instr) (size : Nat) (d base : Reg) (off : BitVec 12) (s : State) : Out :=
  let n := sizeBytes size
  issueBoth i 1 noTrap
    (fun s k b =>
      let a := (memAddr (b.x base) off).toNat
      match bureauScratchTrap a n with
      | some tr => s.takeTrap (.bureau k) tr 0 0 a
      | none => (s.updBureau k fun b => (b.setX d (extendLoad size (b.priv.read a n))).advance 4, []))
    (fun s t =>
      let a := (memAddr (t.x base) off).toNat
      match t.scratchTrap a n with
      | some tr => s.trapAt t tr 0
      | none =>
        if t.nestTouches true a n then (s.putTask (t.block i), [])
        else (s.putTask ((t.setX d (extendLoad size (s.scratchRead t a n))).advance 4), [])) s

/-- A scratch store, performed at once (R144). -/
def issueSts (i : Instr) (size : Nat) (src base : Reg) (off : BitVec 12) (s : State) : Out :=
  let n := sizeBytes size
  issueBoth i 1 noTrap
    (fun s k b =>
      let a := (memAddr (b.x base) off).toNat
      match bureauScratchTrap a n with
      | some tr => s.takeTrap (.bureau k) tr 0 0 a
      | none => (s.updBureau k fun b =>
          { b with priv := b.priv.write a (natBytes n (b.x src).toNat) }.advance 4, []))
    (fun s t =>
      let a := (memAddr (t.x base) off).toNat
      match t.scratchTrap a n with
      | some tr => s.trapAt t tr 0
      | none =>
        if t.nestTouches true a n then (s.putTask (t.block i), [])
        else (((s.scratchWrite t a (natBytes n (t.x src).toNat)).putTask (t.advance 4)), [])) s

/-- The physical address that a virtual one of a task has now, if it has one. -/
def State.physOf (s : State) (t : Task) (va : Nat) : Option Nat :=
  match (s.translate t.die t.crec.ctx va).2 with
  | .ok e => some (e.phys va)
  | .error _ => none

/-- The 4 KiB pages between the extreme elements of an operand of a nest. -/
def Nest.pages (n : Nest) (o : Opnd) : List Nat :=
  let w := nestWidth n.w o
  let reach := n.w.lv.foldl (fun (p : Int × Int) l =>
    let e : Int := ((levelCount l : Int) - 1) * (w * levelStride l o)
    (p.1 + min 0 e, p.2 + max 0 e)) ((n.base o).toNat, (n.base o).toNat)
  let lo := reach.1.toNat / 4096
  (List.range (reach.2.toNat / 4096 + 1 - lo)).map (lo + ·)

/-- Whether a global access of the thread must wait for a pending nest: it touches a byte of the nest, by its own address or through
another page of the same frame (R161). -/
def State.nestTouches (s : State) (t : Task) (va len : Nat) : Bool :=
  t.nestTouches false va len || t.nests.any fun n => (nestUsed n.w).any fun o =>
    !nestScratch n.w o && (n.pages o).any fun p =>
      n.touches false (4096 * p + va % 4096) len && match s.physOf t va, s.physOf t (4096 * p + va % 4096) with
        | some a, some b => a == b
        | _, _ => false

/-- A global load in the task's own view (R145); on a Bureau, of committed memory (R137, R288). -/
def issueLdg (i : Instr) (size : Nat) (d base : Reg) (off : BitVec 12) (s : State) : Out :=
  let n := sizeBytes size
  issueBoth i 1 noTrap
    (fun s k b =>
      let a := (memAddr (b.x base) off).toNat
      match s.bureauCheck a n false with
      | some tr => s.takeTrap (.bureau k) tr 0 0 a
      | none =>
        let s := s.touch k a 0
        (s.updBureau k fun b => (b.setX d (extendLoad size (s.bytesAt a n))).advance 4, []))
    (fun s t =>
      let a := (memAddr (t.x base) off).toNat
      if a % n ≠ 0 then s.trapAt t .misalign 0
      else if a ≥ 2 ^ 52 then s.trapAt t .xlate 0
      else if s.nestTouches t a n then (s.putTask (t.block i), [])
      else match s.viewRead t 0 a n with
        | (s, .error e) => s.threadErr t i 0 e
        | (s, .ok (t, l)) => (s.putTask ((t.setX d (extendLoad size l)).advance 4), [])) s

/-- A global store into the lead cluster's Cupboard (R146); on a Bureau, an external commit (R137, R287). -/
def issueStg (i : Instr) (size : Nat) (src base : Reg) (off : BitVec 12) (s : State) : Out :=
  let n := sizeBytes size
  issueBoth i 1 noTrap
    (fun s k b =>
      let a := (memAddr (b.x base) off).toNat
      match s.bureauCheck a n true with
      | some tr => s.takeTrap (.bureau k) tr 0 0 a
      | none =>
        (s.updBureau k fun b => b.advance 4).landExternal [] (atAddr a (natBytes n (b.x src).toNat)) 0)
    (fun s t =>
      let a := (memAddr (t.x base) off).toNat
      if a % n ≠ 0 then s.trapAt t .misalign 0
      else if t.crec.rohint then s.trapAt t .perm 0
      else if a ≥ 2 ^ 52 then s.trapAt t .xlate 0
      else if s.nestTouches t a n then (s.putTask (t.block i), [])
      else match s.viewWrite t 0 a (natBytes n (t.x src).toNat) with
        | (s, .error e) => s.threadErr t i 1 e
        | (s, .ok t) => (s.putTask ((t.gotSpace threadPort).advance 4), [])) s

/-- `lds.b` (R144). -/
def execLdsB (d base : Reg) (off : BitVec 12) (s : State) : Out := issueLds (.ldsB d base off) 0 d base off s

/-- `lds.h` (R144). -/
def execLdsH (d base : Reg) (off : BitVec 12) (s : State) : Out := issueLds (.ldsH d base off) 1 d base off s

/-- `lds.w` (R144). -/
def execLdsW (d base : Reg) (off : BitVec 12) (s : State) : Out := issueLds (.ldsW d base off) 2 d base off s

/-- `lds.d` (R144). -/
def execLdsD (d base : Reg) (off : BitVec 12) (s : State) : Out := issueLds (.ldsD d base off) 3 d base off s

/-- `lds.bu` (R144). -/
def execLdsBu (d base : Reg) (off : BitVec 12) (s : State) : Out := issueLds (.ldsBu d base off) 4 d base off s

/-- `lds.hu` (R144). -/
def execLdsHu (d base : Reg) (off : BitVec 12) (s : State) : Out := issueLds (.ldsHu d base off) 5 d base off s

/-- `lds.wu` (R144). -/
def execLdsWu (d base : Reg) (off : BitVec 12) (s : State) : Out := issueLds (.ldsWu d base off) 6 d base off s

/-- `ldg.b` (R145). -/
def execLdgB (d base : Reg) (off : BitVec 12) (s : State) : Out := issueLdg (.ldgB d base off) 0 d base off s

/-- `ldg.h` (R145). -/
def execLdgH (d base : Reg) (off : BitVec 12) (s : State) : Out := issueLdg (.ldgH d base off) 1 d base off s

/-- `ldg.w` (R145). -/
def execLdgW (d base : Reg) (off : BitVec 12) (s : State) : Out := issueLdg (.ldgW d base off) 2 d base off s

/-- `ldg.d` (R145). -/
def execLdgD (d base : Reg) (off : BitVec 12) (s : State) : Out := issueLdg (.ldgD d base off) 3 d base off s

/-- `ldg.bu` (R145). -/
def execLdgBu (d base : Reg) (off : BitVec 12) (s : State) : Out := issueLdg (.ldgBu d base off) 4 d base off s

/-- `ldg.hu` (R145). -/
def execLdgHu (d base : Reg) (off : BitVec 12) (s : State) : Out := issueLdg (.ldgHu d base off) 5 d base off s

/-- `ldg.wu` (R145). -/
def execLdgWu (d base : Reg) (off : BitVec 12) (s : State) : Out := issueLdg (.ldgWu d base off) 6 d base off s

/-- `sts.b` (R144). -/
def execStsB (src base : Reg) (off : BitVec 12) (s : State) : Out := issueSts (.stsB src base off) 0 src base off s

/-- `sts.h` (R144). -/
def execStsH (src base : Reg) (off : BitVec 12) (s : State) : Out := issueSts (.stsH src base off) 1 src base off s

/-- `sts.w` (R144). -/
def execStsW (src base : Reg) (off : BitVec 12) (s : State) : Out := issueSts (.stsW src base off) 2 src base off s

/-- `sts.d` (R144). -/
def execStsD (src base : Reg) (off : BitVec 12) (s : State) : Out := issueSts (.stsD src base off) 3 src base off s

/-- `stg.b` (R146). -/
def execStgB (src base : Reg) (off : BitVec 12) (s : State) : Out := issueStg (.stgB src base off) 0 src base off s

/-- `stg.h` (R146). -/
def execStgH (src base : Reg) (off : BitVec 12) (s : State) : Out := issueStg (.stgH src base off) 1 src base off s

/-- `stg.w` (R146). -/
def execStgW (src base : Reg) (off : BitVec 12) (s : State) : Out := issueStg (.stgW src base off) 2 src base off s

/-- `stg.d` (R146). -/
def execStgD (src base : Reg) (off : BitVec 12) (s : State) : Out := issueStg (.stgD src base off) 3 src base off s

end Sys2Proof.Machine
end

