-- ==== Sys2Proof/Machine/Atomic.lean ====
section
/-! DEFINITION. Atomic regions and line locks under wound-wait (R296–R299). -/

namespace Sys2Proof.Machine

open Sys2Proof

/-- The lock of a line, if there is one. -/
def State.lock? (s : State) (line : Nat) : Option Lock := s.locks.find? fun l => l.line == line

/-- Put a lock back, or add it. -/
def State.setLock (s : State) (l : Lock) : State :=
  if s.locks.any fun x => x.line == l.line then
    { s with locks := s.locks.map fun x => if x.line == l.line then l else x }
  else { s with locks := s.locks ++ [l] }

/-- The task of a handle, resident or saved. -/
def State.anyTask? (s : State) (h : Word) : Option Task := s.allTasks.find? fun t => t.handle == h

/-- Whether no task that waits for a lock is older than `t` (R298). -/
def State.firstInLine (s : State) (l : Lock) (t : Task) : Bool :=
  l.waiters.all fun h => h == t.handle || match s.task? h with
    | some u => t.older u
    | none => true

/-- A request for a lock by a task, under wound-wait (R298): whether it holds it now or may pass it, and the holder it
wounds. A requester that must wait joins the waiters. -/
def State.request (s : State) (t : Task) (line : Nat) : State × Bool × List Job :=
  match s.lock? line with
  | none => (s, true, [])
  | some l =>
    let wait : State := s.setLock { l with waiters := if l.waiters.contains t.handle then l.waiters else l.waiters ++ [t.handle] }
    match l.holder with
    | none => if s.firstInLine l t then (s, true, []) else (wait, false, [])
    | some h =>
      if h == t.handle then (s, true, [])
      else match s.anyTask? h with
        | none => (wait, false, [])
        | some u => (wait, false, if t.older u then [.doom h (t.crec.ctx == u.crec.ctx)] else [])

/-- A task takes the lock of a line, which it may; the working value is the committed one, read at home in the task's class (R203,
R297). -/
def State.takeLock (s : State) (t : Task) (line : Nat) : State × Task :=
  let ws := match s.lock? line with
    | some l => l.waiters.filter (· != t.handle)
    | none => []
  ((s.setLock { line := line, holder := some t.handle, work := [], waiters := ws }).touchHome (128 * line) t.crec.cls,
   { t with lockLine := some line })

/-- `ar.begin` (R299). -/
def execArBegin (a : Reg) (s : State) : Out :=
  let i := Instr.arBegin a
  issueTask i 1 noTrap (fun s t =>
    let va := (t.x a).toNat
    if t.regionOpen then s.trapAt t .illegalOp 0
    else if t.crec.rohint then s.trapAt t .perm 0
    else if va ≥ 2 ^ 52 then s.trapAt t .xlate 0
    else match s.access t.die t.crec.ctx va .store with
      | (s, .error e) => s.threadErr t i 1 (.acc e va)
      | (s, .ok (pa, e)) =>
        let line := lineOf pa
        if e.io then s.trapAt t .perm 0
        else if t.lockLine.isSome && t.lockLine != some line then s.trapAt t .atomLimit 0
        else if t.lockLine.isSome then (s.putTask ({ t with regionOpen := true }.advance 4), [])
        else match s.request t line with
          | (s, true, js) =>
            let (s, t) := s.takeLock t line
            (s.putTask ({ t with regionOpen := true }.advance 4), js)
          | (s, false, js) => (s.putTask (t.block i), js)) s

/-- One load or store of an open region: ILLEGAL_OP, MISALIGN, ATOM_LIMIT, then the access on the working value, at the home slice in
the task's class (R203, R299). -/
def issueAr (i : Instr) (n : Nat) (a : Reg) (act : State → Task → Nat → Lock → State × Task) (s : State) : Out :=
  issueTask i 1 noTrap (fun s t =>
    let va := (t.x a).toNat
    if !t.regionOpen then s.trapAt t .illegalOp 0
    else if va % n ≠ 0 then s.trapAt t .misalign 0
    else match s.translate t.die t.crec.ctx va with
      | (s, .error _) => s.trapAt t .atomLimit 0
      | (s, .ok e) =>
        let pa := e.phys va
        if t.lockLine != some (lineOf pa) || t.arOps ≥ 8 then s.trapAt t .atomLimit 0
        else match s.lock? (lineOf pa) with
          | none => s.trapAt t .atomLimit 0
          | some l =>
            let (s, t) := act (s.touchHome pa t.crec.cls) { t with arOps := t.arOps + 1 } pa l
            (s.putTask (t.advance 4), [])) s

/-- Bytes of the working value of a locked line (R297). -/
def State.working (s : State) (l : Lock) (pa n : Nat) : List Byte :=
  (List.range n).map fun i => match l.work.get? (pa + i) with
    | some b => b
    | none => s.byteAt (pa + i)

/-- `ar.ld.w` (R299). -/
def execArLdW (d a : Reg) (s : State) : Out :=
  issueAr (.arLdW d a) 4 a (fun s t pa l => (s, t.setX d (extendLoad 2 (s.working l pa 4)))) s

/-- `ar.ld.d` (R299). -/
def execArLdD (d a : Reg) (s : State) : Out :=
  issueAr (.arLdD d a) 8 a (fun s t pa l => (s, t.setX d (extendLoad 3 (s.working l pa 8)))) s

/-- `ar.st.w` (R299). -/
def execArStW (a b : Reg) (s : State) : Out :=
  issueAr (.arStW a b) 4 a (fun s t pa l =>
    (s.setLock { l with work := l.work.write pa (natBytes 4 (t.x b).toNat) }, t)) s

/-- `ar.st.d` (R299). -/
def execArStD (a b : Reg) (s : State) : Out :=
  issueAr (.arStD a b) 8 a (fun s t pa l =>
    (s.setLock { l with work := l.work.write pa (natBytes 8 (t.x b).toNat) }, t)) s

/-- `ar.end` (R299): every operation of the region has been performed when it issues. -/
def execArEnd (s : State) : Out :=
  issueTask .arEnd 1 noTrap (fun s t =>
    if !t.regionOpen then s.trapAt t .illegalOp 0
    else (s.putTask ({ t with regionOpen := false }.advance 4), [])) s

end Sys2Proof.Machine
end

