-- ==== Sys2Proof/Machine/Signature.lean ====
section
/-! DEFINITION. The one signature scheme that the package accepts: ECDSA on P-384 over SHA-384 (R14). PRESUMED: the functions are those
of the standards that R14 names (FIPS 180-4, FIPS 186), from outside the spec; signatures and keys are two numbers of 48 bytes each,
highest byte first (log entry 15). -/

namespace Sys2Proof.Config

/-- Free value (log entry 15): the public key that firmware stages are verified with, as a point of the curve. -/
opaque firmwareKey : Nat × Nat

/-- Free value (log entry 15): the secret of the identity key (R361). -/
opaque identitySecret : Nat

/-- Free value (log entry 15): the number that a signature over a digest takes at its k-th attempt. -/
opaque signNonce : List (BitVec 8) → Nat → Nat

end Sys2Proof.Config

namespace Sys2Proof.Machine

open Sys2Proof

/-! ### SHA-384 -/

/-- The largest number of at most 68 bits whose `n`-th power does not exceed `x`, found bit by bit from the highest. -/
def rootFloor (n x : Nat) : Nat :=
  (List.range 68).foldr (fun i r => if (r + 2 ^ i) ^ n ≤ x then r + 2 ^ i else r) 0

/-- The primes below 410: there are 80. -/
def shaPrimes : List Nat := (List.range 410).filter fun p => 2 ≤ p && (List.range p).all fun d => d < 2 || p % d ≠ 0

/-- The first 64 bits of the fractional part of the `n`-th root of `p`. -/
def rootFraction (n p : Nat) : BitVec 64 := BitVec.ofNat 64 (rootFloor n (p * 2 ^ (64 * n)))

/-- The constants of the 80 rounds come from the cube roots of the primes. -/
def shaKeys : List (BitVec 64) := shaPrimes.map (rootFraction 3)

/-- The chaining value at the start comes from the square roots of the 9th to the 16th prime. -/
def shaStart : List (BitVec 64) := ((shaPrimes.drop 8).take 8).map (rootFraction 2)

/-- Bytes as a number, highest byte first. -/
def ofBeBytes (l : List Byte) : Nat := l.foldl (fun n b => 256 * n + b.toNat) 0

/-- A number as `n` bytes, highest byte first. -/
def beBytes (n v : Nat) : List Byte := (List.range n).map fun i => BitVec.ofNat 8 (v / 256 ^ (n - 1 - i))

/-- A message, padded: a 1, zeros, and its length in bits as 16 bytes, in blocks of 128 bytes. -/
def shaPad (l : List Byte) : List Byte :=
  l ++ 0x80 :: List.replicate ((239 - l.length % 128) % 128) 0 ++ beBytes 16 (8 * l.length)

/-- A word mixed with itself at several offsets: rotated by each of `turns`, and shifted by `shift` where that is not 0. -/
def shaMix (turns : List Nat) (shift : Nat) (x : BitVec 64) : BitVec 64 :=
  turns.foldl (fun y n => y ^^^ x.rotateRight n) (if shift = 0 then 0 else x >>> shift)

/-- The schedule's next word, after sixteen of them. -/
def shaNext (w : List (BitVec 64)) : BitVec 64 :=
  shaMix [19, 61] 6 (w.getD 14 0) + shaMix [1, 8] 7 (w.getD 1 0) + w.getD 9 0 + w.getD 0 0

/-- One round on the eight working words, with the next sixteen words of the schedule, the first of which is the round's. The second and
third of each half choose by its first: the lower half bit by bit, the upper half by majority. -/
def shaRound (p : List (BitVec 64) × List (BitVec 64)) (key : BitVec 64) : List (BitVec 64) × List (BitVec 64) :=
  let at' (i : Nat) : BitVec 64 := p.1.getD i 0
  let low := shaMix [14, 18, 41] 0 (at' 4) + (at' 6 ^^^ (at' 4 &&& (at' 5 ^^^ at' 6))) + at' 7 + key + p.2.getD 0 0
  let high := shaMix [28, 34, 39] 0 (at' 0) + ((at' 0 &&& (at' 1 ||| at' 2)) ||| (at' 1 &&& at' 2))
  ((low + high) :: p.1.take 3 ++ (at' 3 + low) :: (p.1.drop 4).take 3, p.2.drop 1 ++ [shaNext p.2])

/-- A block of 128 bytes taken into the chaining value. -/
def shaBlock (h : List (BitVec 64)) (block : List Byte) : List (BitVec 64) :=
  let w := (List.range 16).map fun i => BitVec.ofNat 64 (ofBeBytes ((block.drop (8 * i)).take 8))
  (h.zip (shaKeys.foldl shaRound (h, w)).1).map fun p => p.1 + p.2

/-- The SHA-384 digest of a message: 48 bytes. -/
def sha384 (l : List Byte) : List Byte :=
  let m := shaPad l
  let h := (List.range (m.length / 128)).foldl (fun h i => shaBlock h ((m.drop (128 * i)).take 128)) shaStart
  (h.take 6).flatMap fun x => beBytes 8 x.toNat

/-! ### The curve P-384 -/

/-- The prime of the field. -/
def curveP : Nat := 2 ^ 384 - 2 ^ 128 - 2 ^ 96 + 2 ^ 32 - 1

/-- The curve is y² = x³ - 3x + b. -/
def curveB : Nat := 0xb3312fa7e23ee7e4988e056be3f82d19181d9c6efe8141120314088f5013875ac656398d8a2ed19d2a85c8edd3ec2aef

/-- The order of the base point. -/
def curveN : Nat := 0xffffffffffffffffffffffffffffffffffffffffffffffffc7634d81f4372ddf581a0db248b0a77aecec196accc52973

/-- The base point. -/
def curveG : Nat × Nat :=
  (0xaa87ca22be8b05378eb1c71ef320ad746e1d3b628ba79b9859f741e082542a385502f25dbf55296c3a545e3872760ab7,
   0x3617de4a96262c6f5d9e98bf9292dc29f8f41dbd289a147ce9da3113b5f0b8c00a60b1ce1d7e819d7a431d7c90ea0e5f)

/-- The bits of a number of 384 bits, highest first. -/
def bits384 (k : Nat) : List Bool := (List.range 384).map fun i => k.testBit (383 - i)

/-- A power modulo `m`. -/
def powMod (m x k : Nat) : Nat :=
  (bits384 k).foldl (fun r b => if b then r * r % m * x % m else r * r % m) (1 % m)

/-- The inverse modulo a prime. -/
def invMod (m x : Nat) : Nat := powMod m x (m - 2)

/-- The sum of two points; none is the point at infinity. -/
def pointAdd : Option (Nat × Nat) → Option (Nat × Nat) → Option (Nat × Nat)
  | none, b => b
  | a, none => a
  | some (x, y), some (u, v) =>
    if x == u && (y + v) % curveP == 0 then none
    else
      let l := if x == u then (3 * x * x + curveP - 3) * invMod curveP (2 * y) % curveP
        else (v + curveP - y) * invMod curveP ((u + curveP - x) % curveP) % curveP
      let z := (l * l + 2 * curveP - x - u) % curveP
      some (z, (l * (x + curveP - z) + curveP - y) % curveP)

/-- A multiple of a point. -/
def pointMul (k : Nat) (a : Nat × Nat) : Option (Nat × Nat) :=
  (bits384 k).foldl (fun r b => if b then pointAdd (pointAdd r r) (some a) else pointAdd r r) none

/-- Whether a pair is a point of the curve. -/
def onCurve (a : Nat × Nat) : Bool :=
  a.1 < curveP && a.2 < curveP && a.2 * a.2 % curveP == (a.1 * a.1 * a.1 + 3 * (curveP - a.1) + curveB) % curveP

/-! ### ECDSA -/

/-- Whether a signature over a digest is valid under a public key. -/
def ecdsaVerify (key : Nat × Nat) (digest sig : List Byte) : Bool :=
  let r := ofBeBytes (sig.take 48)
  let s := ofBeBytes (sig.drop 48)
  let w := invMod curveN s
  sig.length == 96 && onCurve key && 1 ≤ r && r < curveN && 1 ≤ s && s < curveN &&
  (match pointAdd (pointMul (ofBeBytes digest * w % curveN) curveG) (pointMul (r * w % curveN) key) with
    | none => false
    | some a => a.1 % curveN == r)

/-- The two numbers of a signature over a digest with a secret and the number `k`; 0 where `k` does not serve. -/
def ecdsaPair (d k : Nat) (digest : List Byte) : Nat × Nat :=
  let r := match pointMul k curveG with | some a => a.1 % curveN | none => 0
  (r, invMod curveN k * (ofBeBytes digest + r * d) % curveN)

/-- A signature over a digest with a secret: the first attempt of a few whose numbers are not 0. -/
def ecdsaSign (d : Nat) (digest : List Byte) : List Byte :=
  let tries := (List.range 8).map fun i => ecdsaPair d (Config.signNonce digest i % (curveN - 1) + 1) digest
  let p := (tries.find? fun p => p.1 ≠ 0 && p.2 ≠ 0).getD (0, 0)
  beBytes 48 p.1 ++ beBytes 48 p.2

/-- The secret of the identity key, in its range. -/
def identitySecret : Nat := Config.identitySecret % (curveN - 1) + 1

/-- The bytes of the public identity key (R361). -/
def identityKey : List Byte :=
  match pointMul identitySecret curveG with
  | some a => beBytes 48 a.1 ++ beBytes 48 a.2
  | none => []

end Sys2Proof.Machine
end

