-- ==== Sys2Proof/Machine/Reduce.lean ====
section
/-! DEFINITION. Commit-time reductions: holding and folding (R300–R302). -/

namespace Sys2Proof.Machine

open Sys2Proof

/-- Bytes of a reduction by its FN code (R301). -/
def redWidth (op : Nat) : Nat := if op = 1 then 8 else 4

/-- Hold one reduction of operation `op` at a virtual address in cluster-in-gang `k` (R300, R301). -/
def State.holdRed (s : State) (t : Task) (k op va : Nat) (operand : Word) (cell : Option Nat) :
    State × Except ViewErr Task :=
  let w := redWidth op
  if t.crec.rohint then (s, .error (.trap .perm))
  else if va % w ≠ 0 then (s, .error (.trap .misalign))
  else if va ≥ 2 ^ 52 then (s, .error (.trap .xlate))
  else match s.access t.die t.crec.ctx va .store with
    | (s, .error e) => (s, .error (.acc e va))
    | (s, .ok (pa, e)) =>
      if e.io then (s, .error (.trap .perm))
      else if t.reds.any fun r => r.addr < pa + w && pa < r.addr + r.width && !(r.addr == pa && r.width == w) then
        (s, .error (.trap .misalign))
      else
        let held (t : Task) : Task :=
          { t with reds := t.reds ++ [{ op := op, addr := pa, width := w,
                                        operand := BitVec.ofNat 64 (operand.toNat % 2 ^ (8 * w)), cell := cell }] }
        if t.redLines.contains (k, lineOf pa) then (s, .ok (held t))
        else match s.growShare t k 128 with
          | .error x => (s, .error x)
          | .ok t => (s, .ok (held { t with redLines := (k, lineOf pa) :: t.redLines }))

/-- A reduction of the thread. -/
def issueRed (i : Instr) (op : Nat) (a b : Reg) (s : State) : Out :=
  issueTask i 1 noTrap (fun s t =>
    match s.holdRed t 0 op (t.x a).toNat (t.x b) none with
    | (s, .error e) => s.threadErr t i 1 e
    | (s, .ok t) => (s.putTask ((t.gotSpace threadPort).advance 4), [])) s

/-- `red.add.w` (R301). -/
def execRedAddW (a b : Reg) (s : State) : Out := issueRed (.redAddW a b) 0 a b s

/-- `red.add.d` (R301). -/
def execRedAddD (a b : Reg) (s : State) : Out := issueRed (.redAddD a b) 1 a b s

/-- `red.min.w` (R301). -/
def execRedMinW (a b : Reg) (s : State) : Out := issueRed (.redMinW a b) 2 a b s

/-- `red.max.w` (R301). -/
def execRedMaxW (a b : Reg) (s : State) : Out := issueRed (.redMaxW a b) 3 a b s

/-- `red.or.w` (R301). -/
def execRedOrW (a b : Reg) (s : State) : Out := issueRed (.redOrW a b) 4 a b s

/-- `red.and.w` (R301). -/
def execRedAndW (a b : Reg) (s : State) : Out := issueRed (.redAndW a b) 5 a b s

/-- `red.fadd.s` (R301). -/
def execRedFaddS (a b : Reg) (s : State) : Out := issueRed (.redFaddS a b) 6 a b s

/-! ### Folding (R302) -/

/-- v ⊕ operand, with the flags it raises (R301). -/
def redCombine (op : Nat) (ftz : Bool) (v x : Nat) : Nat × Flags :=
  let a := BitVec.ofNat 32 v
  let b := BitVec.ofNat 32 x
  match op with
  | 0 => ((v + x) % 2 ^ 32, 0)
  | 1 => ((v + x) % 2 ^ 64, 0)
  | 2 => ((if a.slt b then a else b).toNat, 0)
  | 3 => ((if a.slt b then b else a).toNat, 0)
  | 4 => ((a ||| b).toNat, 0)
  | 5 => ((a &&& b).toNat, 0)
  | _ => fadd .s 0 ftz v x

/-- The held reductions of an address in fold order: the thread's in issue order, then each rnode's by rising cell
index in the order held (R302). -/
def Task.foldOrder (t : Task) (addr : Nat) : List Reduction :=
  let mine := t.reds.filter fun r => r.addr == addr
  let cells := sortNat (mine.filterMap Reduction.cell).eraseDups
  (mine.filter fun r => r.cell.isNone) ++ cells.flatMap fun c => mine.filter fun r => r.cell == some c

/-- The bytes that the folds of a task publish over `own`, the bytes it stored, and the flags they raise (R302). -/
def State.foldReds (s : State) (t : Task) (own : Overlay) : List (Nat × Byte) × Flags :=
  ((t.reds.map Reduction.addr).eraseDups).foldl (fun (acc : List (Nat × Byte) × Flags) a =>
    let rs := t.foldOrder a
    let w := (rs.head?.map Reduction.width).getD 4
    let v0 := ofLeBytes ((List.range w).map fun i => match own.get? (a + i) with
      | some b => b
      | none => s.byteAt (a + i))
    let (v, fl) := rs.foldl (fun (p : Nat × Flags) r =>
      let (v, f) := redCombine r.op t.crec.ftz p.1 r.operand.toNat
      (v, p.2 ||| f)) (v0, (0 : Flags))
    (acc.1 ++ atAddr a (natBytes w v), acc.2 ||| fl)) ([], 0)

end Sys2Proof.Machine
end

