-- ==== Sys2Proof/Machine/Caches.lean ====
section
/-! DEFINITION. TLB invalidation, the slice homing table, way partitioning and gating (R197, R199, R200, R205, R206,
R373). -/

namespace Sys2Proof.Machine

open Sys2Proof

/-! ### TLB invalidation (R197) -/

/-- Whether an invalidation (scope, context, page) removes a TLB entry. -/
def tlbiHits (op : Nat × Nat × Nat) (e : TlbEntry) : Bool :=
  match op with
  | (0, ctx, vpn) => e.covers ctx (vpn * 4096)
  | (1, ctx, _) => e.ctx == ctx
  | _ => true

/-- The invalidation of a die completes: no TLB of the package holds a matching entry, and BUSY falls. -/
def State.tlbiDone (s : State) (d : Nat) : State :=
  match (s.die d).tlbiOp with
  | none => s
  | some op => { s with tlb := s.tlb.filter fun e => !tlbiHits op e }.updDie d fun x => { x with tlbiOp := none }

/-- A write of TLBI_CTL: a scope of 3 is ignored, else an invalidation starts. One that is still running completes
first (log entry 11). -/
def State.tlbiStart (s : State) (d : Nat) (ctx : BitVec 16) (scope : BitVec 2) : State :=
  if scope = 3 then s
  else (s.tlbiDone d).updDie d fun x =>
    { x with tlbiCtx := ctx, tlbiScope := scope, tlbiOp := some (scope.toNat, ctx.toNat, x.tlbiVpn.toNat) }

/-- TLBI_PAGE (R197): a write of TLBI_CTL with scope 0. -/
def execTlbiPage (die : Nat) (ctx : BitVec 16) (s : State) : Out := s.onDie die fun s _ => (s.tlbiStart die ctx 0, [])

/-- TLBI_CONTEXT (R197): a write of TLBI_CTL with scope 1. -/
def execTlbiContext (die : Nat) (ctx : BitVec 16) (s : State) : Out := s.onDie die fun s _ => (s.tlbiStart die ctx 1, [])

/-- TLBI_ALL (R197): a write of TLBI_CTL with scope 2 and context 0. -/
def execTlbiAll (die : Nat) (s : State) : Out := s.onDie die fun s _ => (s.tlbiStart die 0 2, [])

/-- TLB_INVALIDATE_COMPLETE (R197). -/
def execTlbInvalidateComplete (die : Nat) (s : State) : Out := s.onDie die fun s _ => (s.tlbiDone die, [])

/-! ### The slice homing table (R199, R200) -/

/-- HOME_SLICE as read: cluster and slice of the selected page, or NOHOME; ERR as the last write left it. -/
def State.homeRead (s : State) (d : Nat) : Word :=
  let x := s.die d
  let e := if x.homeErr then 2 ^ 63 else 0
  let pa := x.homeSel.toNat * 65536
  match (if s.homeDie pa = some d then s.homeSlice pa else none) with
  | some (_, c, k) => BitVec.ofNat 64 (c + 128 * k + e)
  | none => BitVec.ofNat 64 (2 ^ 62 + e)

/-- A write of HOME_SLICE: refused for a disabled cluster or a page that is not homed on the die, else the page moves
to its new slice, where its accesses wait until every line of the page has left the old one. -/
def State.homeWrite (s : State) (d cluster slice : Nat) : State :=
  let x := s.die d
  let page := x.homeSel.toNat
  match (if s.homeDie (page * 65536) = some d then s.homeSlice (page * 65536) else none) with
  | none => s.updDie d fun x => { x with homeErr := true }
  | some (_, c, k) =>
    if !x.has cluster then s.updDie d fun x => { x with homeErr := true }
    else
      let s := s.updDie d fun x => { x with homeErr := false }
      if c = cluster && k = slice then s
      else { s with homing := (page, cluster, slice) :: s.homing.filter (fun h => h.1 != page),
                    moving := s.moving ++ [(page, 4 * c + k)] }

/-- A Bureau that wrote HOME_SLICE itself waits until its page has moved (R199). -/
def State.homeWaits (s : State) (d : Nat) : State :=
  let page := (s.die d).homeSel.toNat
  if s.moving.any fun m => m.1 == page then
    s.updDie d fun x => { x with bureau := { x.bureau with homeWait := some page } }
  else s

/-- HOME_SLICE_WRITE (R199). -/
def execHomeSliceWrite (die : Nat) (value : Word) (s : State) : Out :=
  s.onDie die fun s _ => (s.homeWrite die (wbits value 6 0) (wbits value 8 7), [])

/-- HOME_PAGE_MOVE_COMPLETE (R199): every line of the page has left its old slice; the write that moved it and the accesses
that waited complete. -/
def execHomePageMoveComplete (die page : Nat) (s : State) : Out :=
  s.onDie die fun s _ =>
    if s.homeDie (page * 65536) ≠ some die then (s, [])
    else
      let olds := (s.moving.filter fun m => m.1 == page).map Prod.snd
      let now := s.homeSlice (page * 65536)
      let s := olds.foldl (fun s o =>
        if now = some (die, o / 4, o % 4) then s
        else
          let x := s.slice die (o / 4) (o % 4)
          s.setSlice { x with ways := x.ways.filter fun w => w.line / 512 != page }) s
      let s := s.updDie die fun x =>
        if x.bureau.homeWait == some page then { x with bureau := { x.bureau with homeWait := none } } else x
      ({ s with moving := s.moving.filter fun m => m.1 != page }.cacheGoOn, [])

/-! ### Ways (R205, R206, R373) -/

/-- The slice that L2P_SEL of a die selects, unless its cluster is disabled. -/
def State.selected (s : State) (d : Nat) : Option Slice :=
  let sel := (s.die d).l2pSel.toNat
  if (s.die d).has (sel % 128) then some (s.slice d (sel % 128) (sel / 128)) else none

/-- Whether a way of a slice holds a channel slot. -/
def Slice.slotWay (x : Slice) (w : Nat) : Bool := x.slotWays.any fun p => p.2 == w

/-- Gate one way: its lines are written back and invalidated and AWAKE falls; a way that holds channel slots is not
gated. -/
def Slice.gateWay (x : Slice) (w : Nat) : Slice :=
  if x.slotWay w then x
  else { x with
    ways := x.ways.filter fun y => y.way != w
    gate := x.gate ||| (1#16 <<< w)
    awake := x.awake &&& ~~~(1#16 <<< w)
    waking := x.waking.filter fun p => p.1 != w }

/-- Start waking one way, empty; it is awake 2 µs later. -/
def Slice.wakeWay (x : Slice) (now w : Nat) : Slice :=
  { x with gate := x.gate &&& ~~~(1#16 <<< w), waking := (w, now + 2) :: x.waking }

/-- Write GATE of a slice: bits that rise gate their ways, bits that fall wake theirs. -/
def Slice.writeGate (x : Slice) (now : Nat) (v : BitVec 16) : Slice :=
  (List.range 16).foldl (fun x w =>
    if v.getLsbD w && !x.gate.getLsbD w then x.gateWay w
    else if !v.getLsbD w && x.gate.getLsbD w then x.wakeWay now w
    else x) x

/-- Write GATE of the selected slice; accesses that no way keeps waiting go on. -/
def State.gateWrite (s : State) (d : Nat) (v : BitVec 16) : State :=
  match s.selected d with
  | none => s
  | some x => (s.setSlice (x.writeGate s.now v)).cacheGoOn

/-- WAY_GATE (R206): a write of GATE that sets bits. -/
def execWayGate (die : Nat) (ways : BitVec 16) (s : State) : Out :=
  s.onDie die fun s _ => match s.selected die with
    | none => (s, [])
    | some x => (s.gateWrite die (x.gate ||| ways), [])

/-- WAY_WAKE (R206): a write of GATE that clears bits. -/
def execWayWake (die : Nat) (ways : BitVec 16) (s : State) : Out :=
  s.onDie die fun s _ => match s.selected die with
    | none => (s, [])
    | some x => (s.gateWrite die (x.gate &&& ~~~ways), [])

/-- WAY_AWAKE (R206): a waking way becomes usable 2 µs after the wake, and the accesses that waited for it go on. -/
def execWayAwake (die cluster slice way : Nat) (s : State) : Out :=
  s.onDie die fun s _ =>
    let x := s.slice die cluster slice
    if x.waking.any fun p => p.1 == way && p.2 ≤ s.now then
      ((s.setSlice { x with awake := x.awake ||| (1#16 <<< way),
                            waking := x.waking.filter fun p => p.1 != way }).cacheGoOn, [])
    else (s, [])

/-- OCC of a class: the valid lines it owns, channel slots among those of class 15 (R205, R206). -/
def Slice.count (x : Slice) (cls : Nat) : Nat := x.occ cls + (if cls = 15 then x.slotWays.length else 0)

/-- Write the way mask of a class of the selected slice; an access that waited for a way outside the new mask goes on. -/
def State.maskWrite (s : State) (d cls : Nat) (v : BitVec 16) : State :=
  match s.selected d with
  | none => s
  | some x => (s.setSlice { x with masks := setAt x.masks cls v }).cacheGoOn

end Sys2Proof.Machine
end

