-- ==== Sys2Proof/Machine/Image.lean ====
section
/-! DEFINITION. The checks on configuration images, and loading one (R36–R44, R129, R150, R165, R178–R188, R219,
R225–R240, R303–R310, R366, R369, R374). -/

namespace Sys2Proof.Machine

open Sys2Proof

/-! ### The shape of the fabric -/

/-- The cell of a region of `rows` rows whose switch edge link is edge link `p` of a side, as row × 8 + column (R366). -/
def edgeCell (side p rows : Nat) : Option Nat :=
  match side with
  | 0 => some (2 * p)
  | 2 => some ((rows - 1) * 8 + 2 * p + 1)
  | 1 => if p < rows then some (p * 8 + 7) else none
  | _ => if p < rows then some (p * 8) else none

/-- The edge links (side, p) on which a cell stands (R366). -/
def edgesOf (rows c : Nat) : List (Nat × Nat) :=
  ((List.range 4).flatMap fun sd => (List.range 4).map fun p => (sd, p)).filter fun e =>
    edgeCell e.1 e.2 rows == some (c % 64)

/-- The neighbour of a cell over link `n` (0 north, 1 east, 2 south, 3 west) within its cluster's region (R374). -/
def neighbour (rows c n : Nat) : Option Nat :=
  let r := c % 64 / 8
  let col := c % 8
  match n with
  | 0 => if r = 0 then none else some (c - 8)
  | 1 => if col = 7 then none else some (c + 1)
  | 2 => if r + 1 ≥ rows then none else some (c + 8)
  | _ => if col = 0 then none else some (c - 1)

/-- The source code under which what leaves over link `n` arrives (R374). -/
def arrivesAs (n : Nat) : Nat := match n with | 0 => 3 | 1 => 4 | 2 => 1 | _ => 2

/-- Outgoing links of a switch with a source. -/
def linksFrom (sw : Option (BitVec 240)) (src : Nat) : List Nat :=
  match sw with
  | none => []
  | some v => (List.range 10).filter fun n => swSrc v n == src

/-! ### One CU frame (R38, R39, R165, R178–R188, R226–R232, R303–R309) -/

/-- The selects that an operation of a stage reads, by operand (R166). -/
def stageReads (op imm j : Nat) : Bool :=
  if op = 0x70 then j = 0 || (j = 1 && imm % 2 = 0)
  else if 0x71 ≤ op && op ≤ 0x73 then j ≤ 1
  else if op = 0x74 || op = 0x81 then j = 0
  else if 0x60 ≤ op && op ≤ 0x66 then j = 0 || (j = 1 && op ≤ 0x62) || (j = 1 && op = 0x64)
  else if 0x80 ≤ op && op ≤ 0x86 then j ≤ 1
  else if op = 0x90 || op = 0x91 then j ≤ 1 || (j = 2 && (imm % 8 = 4 || imm % 8 = 5))
  else opReads op j

/-- The lane-reduction form of a stage (R178). -/
def laneReduction (op selC : Nat) : Bool := opCombining op && selC = 6

/-- The stages of a compute unit that are not `pass`. -/
def busyStages (v : BitVec 240) : List Nat := (List.range 4).filter fun k => cuOp v k ≠ 0

/-- Whether a select names an enabled input port. -/
def isPort (v : BitVec 240) (sel : Nat) : Bool := sel < 4 && cuIn v sel

/-- Every enabled output comes from stage `k`. -/
def outsFrom (v : BitVec 240) (k : Nat) : Bool :=
  (List.range 2).all fun n => !cuOut v n || cuOutSrc v n == k

/-- The rules of a record operation in stage `k` (R183–R188). -/
def recordOpOk (v : BitVec 240) (k : Nat) : Bool :=
  let op := cuOp v k
  let imm := cuImm v k
  let a := cuSel v k 0
  let b := cuSel v k 1
  let twoIn := k = 0 && a < 4 && b < 4 && a ≠ b && (List.range 4).all fun n => cuIn v n == (n == a || n == b)
  let lastOne := (busyStages v).all (· ≤ k) && cuOut v 0 && cuOut v 1 && outsFrom v k
  match op with
  | 0x70 => lastOne && imm / 2 ^ 16 = 0 && imm % 256 < 2
  | 0x71 => twoIn && imm < 3
  | 0x72 => twoIn && imm ≠ 0
  | 0x73 => lastOne
  | _ => imm < 256

/-- The rules of the order nodes, rnode and portals in stage 0 (R303, R305–R309). -/
def orderOpOk (v : BitVec 240) : Bool :=
  let op := cuOp v 0
  let imm := cuImm v 0
  let a := cuSel v 0 0
  let b := cuSel v 0 1
  let c := cuSel v 0 2
  let two := isPort v a && isPort v b && a ≠ b
  let nIn := ((List.range 4).filter (cuIn v)).length
  outsFrom v 0 &&
  match op with
  | 0x80 => two && cuOut v 0 && imm < 256
  | 0x81 => isPort v a && cuOut v 0 && cuOut v 1
  | 0x82 => two && cuOut v 0 && cuOut v 1 && imm < 2 ^ 15
  | 0x83 => two && cuOut v 0 && cuOut v 1 && imm < 2 ^ 15
  | 0x84 => two && cuOut v 0 && cuOut v 1 && imm < 2 ^ 15
  | 0x85 => c = 7 && imm % 8 ≠ 1 && imm % 8 ≠ 7 && imm < 64
  | 0x86 => two && nIn ≥ 2
  | _ => imm % 8 < 6 && (c = 7 || imm % 8 ≥ 4)

/-- Declared depth, parameter and companions of a join stage (R227). -/
def joinDepth (imm : Nat) : Nat := bitsOf imm 12 10
def joinParam (imm : Nat) : Nat := bitsOf imm 19 16
def joinCompA (imm : Nat) : Option Nat := if bitsOf imm 6 6 = 1 then some (bitsOf imm 5 4) else none
def joinCompB (imm : Nat) : Option Nat := if bitsOf imm 9 9 = 1 then some (bitsOf imm 8 7) else none
def joinContent (imm n : Nat) : Nat := bitsOf imm (2 * n + 1) (2 * n)

/-- Join operations with input a only. -/
def joinOneInput (op : Nat) : Bool := op = 0x63 || op = 0x65 || op = 0x66

/-- Outcomes whose table entries an operation uses (R229). DESIGN CHOICE: the entries that R229 calls ignored are exempt from R228's refusal
of a table without a discard (log entry 75). -/
def joinOutcomes (op : Nat) : Nat := if op = 0x62 then 1 else if joinOneInput op then 0 else 3

/-- The rules of a join stage on its immediate, its selects and its action table (R227–R232). -/
def joinOk (v : BitVec 240) (imm : Nat) (act : Nat → Nat → Nat) : Bool :=
  let op := cuOp v 0
  let a := cuSel v 0 0
  let b := cuSel v 0 1
  let ca := joinCompA imm
  let cb := joinCompB imm
  let ports := [a] ++ (if b < 4 then [b] else []) ++ ca.toList ++ cb.toList
  a < 4 && (b < 4 || (b = 7 && joinOneInput op)) && cuSel v 0 2 = 7 &&
  ports.eraseDups.length = ports.length && ports.all (cuIn v) &&
  (List.range 2).all (fun n => match joinContent imm n with
    | 0 => true
    | 1 => ca.isSome
    | 2 => cb.isSome || op = 0x62
    | _ => false) &&
  1 ≤ joinDepth imm && joinDepth imm ≤ 6 &&
  !(op = 0x62 && (cb.isSome || joinDepth imm < 2)) &&
  !(op = 0x63 && joinParam imm % 8 > 5) &&
  !(op = 0x65 && (joinParam imm = 0 || joinParam imm ≥ joinDepth imm)) &&
  !((op = 0x66 || op ≤ 0x62 || op = 0x64) && joinParam imm ≠ 0) &&
  (List.range (joinOutcomes op)).all (fun o => act o 0 = 0 || act o 1 = 0)

/-- Whether a CU payload breaks no rule of subcode 5. -/
def cuOk (v : BitVec 240) : Bool :=
  let st := List.range 4
  let recs := st.filter fun k => 0x70 ≤ cuOp v k && cuOp v k ≤ 0x74
  let joins := st.filter fun k => 0x60 ≤ cuOp v k && cuOp v k ≤ 0x66
  let orders := st.filter fun k => 0x80 ≤ cuOp v k
  (List.range 3).all (fun j => cuSel v 0 j ≠ 4) &&
  (List.range 9).all (fun e => cuAct v (e / 3) (e % 3) ≠ 3) &&
  st.all (fun k => (List.range 3).all fun j =>
    !stageReads (cuOp v k) (cuImm v k) j || (j = 1 && laneReduction (cuOp v k) (cuSel v k 2)) || cuSel v k j > 3 ||
    cuIn v (cuSel v k j)) &&
  st.all (fun k => cuOp v k ≠ 0x5E || cuAcc v k) &&
  st.all (fun k => cuOp v k ≠ 0x5F || (2 ≤ cuImm v k && cuImm v k ≤ 8)) &&
  recs.length ≤ 1 && recs.all (recordOpOk v) &&
  (orders.isEmpty || (orders == [0] && busyStages v == [0] && orderOpOk v)) &&
  if cuFibre v then
    if joins.isEmpty then st.all fun k => cuOp v k ≤ 0x43 && !laneReduction (cuOp v k) (cuSel v k 2)
    else joins == [0] && busyStages v == [0] && cuOutSrc v 0 = 0 && cuOutSrc v 1 = 0 && joinOk v (cuImm v 0) (cuAct v)
  else joins.isEmpty

/-- Whether the attached link serves a portal of a context (R309, R310). -/
def State.portalOk (s : State) (die ctx op imm : Nat) : Bool :=
  let w := (s.die die).pwin.getD (bitsOf imm 7 4) PWin.reset
  w.en && w.ctx.toNat == ctx && w.ual == (op == 0x91) &&
  if op = 0x91 then s.ualTrained.getLsbD w.port.toNat && s.ualAtomics.getLsbD w.port.toNat
  else s.hostAtomics.getLsbD (imm % 8)

/-! ### MU, SW and AG frames (R40, R42, R43, R234) -/

/-- Whether every access of an MU is aligned and within scratch (R40). -/
def muInRange (v : BitVec 240) : Bool :=
  let w := muLane v
  let last := muAt v (muCount v - 1)
  let base := muAt v 0
  muBase v % w = 0 && (muCount v = 1 || muStride v % w = 0) && 0 ≤ last &&
  max base last + w * muLanes v ≤ Config.scratchBytes

/-- Whether a SW frame names no refused source, no link that leaves the region, and no edge link that carries nothing
(R42, R366, R374). -/
def swOk (rows c : Nat) (v : BitVec 240) : Bool :=
  (List.range 10).all (fun n => swSrc v n ≤ 8) &&
  (List.range 4).all (fun n => swSrc v n = 0 || (neighbour rows c n).isSome) &&
  (swSrc v 4 = 0 || !(edgesOf rows c).isEmpty)

/-- Bound − 1, fan-out − 1 and declared depth of a token-mode AG (R234). -/
def agBound (v : BitVec 240) : Nat := fb v 144 113 + 1
def agFan (v : BitVec 240) : Nat := fb v 160 145 + 1
def agDepth (v : BitVec 240) : Nat := fb v 163 161

/-- Whether an AG runs in a token mode (R225, R234). -/
def agTokens (v : BitVec 240) : Bool := agTok v || agMode v ≥ 2

/-- Whether an AG payload breaks no rule of subcode 5. -/
def agOk (v : BitVec 240) : Bool :=
  agMode v ≤ 5 && agPort v ≤ 3 &&
  (agMode v = 0 || !agTokens v ||
    ((if agMode v ≤ 2 then agEsize v ≤ 2 else agEsize v = 2) &&
     !((agMode v = 2 || agMode v = 3) && agDepth v = 0) && !(agMode v ≥ 2 && agDepth v = 7)))

/-- The SW payload of a cell in an image. -/
def swOf (fs : List (BitVec 256)) (c : Nat) : Option (BitVec 240) := frameFor fs 3 c

/-- The MU of a cell agrees with its switch; a FIFO is fed by nothing (R41, R219). -/
def muRouted (fs : List (BitVec 256)) (c : Nat) (v : BitVec 240) : Bool :=
  let sw := swOf fs c
  let src (n : Nat) : Nat := match sw with | some w => swSrc w n | none => 0
  match muMode v with
  | 0 => true
  | 2 => muPort v = 9
  | m => muPort v < 9 && src (muPort v) = 8 && (m ≠ 3 || src 9 ≠ 0) && (m ≠ 4 || src 9 = 0)

/-- Whether the rule of R41 that an MU breaks, or keeps, shows at its own frame: its mode and port decide, or its cell's SW frame
has been read. -/
def muRouteKnown (before : List (BitVec 256)) (c : Nat) (v : BitVec 240) : Bool :=
  muMode v = 2 || muPort v = 9 || (swOf before c).isSome

/-- The refusal of one frame after the frames before it, if it is refused (R44). Check 6 of an MU frame waits for the end frame
where check 5 of the same frame, listed before it, needs a SW frame that is still to come (log entry 22). -/
def State.frameCheck (s : State) (t : Task) (before : List (BitVec 256)) (f : BitVec 256) : Option Nat :=
  let k := frameKind f
  let p := if k = 4 then framePlace f / 4 * 4 else framePlace f
  let v := framePayload f
  if k > 4 then some 1
  else if k = 0 then none
  else if placeCluster p ≥ t.members.length || (k ≠ 4 && p % 64 / 8 ≥ t.crec.rows) then some 2
  else if before.any fun g => frameKind g == k && (if k = 4 then framePlace g / 4 * 4 else framePlace g) == p then some 3
  else if k = 1 then
    if (List.range 4).any fun j => !opAssigned (cuOp v j) then some 4
    else if !cuOk v then some 5
    else if (cuOp v 0 = 0x90 || cuOp v 0 = 0x91) && !s.portalOk t.die t.crec.ctx (cuOp v 0) (cuImm v 0) then some 8
    else none
  else if k = 2 then
    if muMode v = 0 then none
    else if muMode v > 4 || muPort v > 9 then some 5
    else if muInRange v || !muRouteKnown before p v then none
    else if muRouted before p v then some 6
    else some 5
  else if k = 3 then (if swOk t.crec.rows p v then none else some 5)
  else if agOk v then none else some 5

/-! ### Checks over several frames -/

/-- An MU stream on a fibre link has width w1 (R240). -/
def muFibreOk (fs : List (BitVec 256)) (c : Nat) (v : BitVec 240) : Bool :=
  match swOf fs c with
  | none => true
  | some w => muMode v = 0 || muWidth v = 3 || (List.range 10).all fun n =>
      swSrc w n = 0 || !((n = 9 && muMode v ≠ 1 && muMode v ≠ 4) || (swSrc w n = 8 && muMode v ≠ 2)) || !swFibre w n

/-- The fibre bits of the links at a compute unit are its own (R225). -/
def cuFibreOk (fs : List (BitVec 256)) (c : Nat) (w : BitVec 240) : Bool :=
  let cf := match frameFor fs 1 c with | some v => cuFibre v | none => false
  (List.range 10).all fun n =>
    let src := swSrc w n
    src = 0 || !((5 ≤ n && n ≤ 8) || src = 6 || src = 7) || swFibre w n == cf

/-- What a neighbour link carries is taken where it arrives (R374). -/
def takersOk (fs : List (BitVec 256)) (rows c : Nat) (w : BitVec 240) : Bool :=
  (List.range 4).all fun n => swSrc w n = 0 || match neighbour rows c n with
    | none => false
    | some d => !(linksFrom (swOf fs d) (arrivesAs n)).isEmpty

/-- Whether a cell's switch drives its edge link. -/
def feedsEdge (fs : List (BitVec 256)) (c : Nat) : Bool :=
  match swOf fs c with
  | some w => swSrc w 4 ≠ 0
  | none => false

/-- The edge links an AG reads from and emits on, by port (R235–R239, R369). An AFFINE generator writes where the cell
on its port drives the edge link, and reads otherwise; a CHANNEL generator is a sink when a depth is declared (log
entry 23). -/
def agIns (fs : List (BitVec 256)) (rows p : Nat) (v : BitVec 240) : List Nat :=
  let q := agPort v
  let fed := match edgeCell (placeSide p) q rows with
    | some c => feedsEdge fs (placeCluster p * 64 + c)
    | none => false
  match agMode v with
  | 1 => if fed then [q] else []
  | 2 => [q]
  | 3 => [q, q ^^^ 1]
  | 4 => if agDepth v = 0 then [] else [q]
  | 5 => if agDepth v = 0 then [] else [q]
  | _ => []
def agOuts (fs : List (BitVec 256)) (rows p : Nat) (v : BitVec 240) : List Nat :=
  let q := agPort v
  match agMode v with
  | 1 => if (agIns fs rows p v).isEmpty then [q] else []
  | 2 => [q]
  | 4 => [q, q ^^^ 1]
  | 5 => if agDepth v = 0 then [q] else []
  | _ => []

/-- The cells that the edge links of some ports of an AG's side meet. -/
def portCells (rows p : Nat) (qs : List Nat) : List Nat :=
  qs.filterMap fun q => (edgeCell (placeSide p) q rows).map fun c => placeCluster p * 64 + c

/-- An AG's links have its token mode, and no link it drives is driven by the switch (R225, R366, R369). -/
def agRouted (fs : List (BitVec 256)) (rows p : Nat) (v : BitVec 240) : Bool :=
  let ins := portCells rows p (agIns fs rows p v)
  let outs := portCells rows p (agOuts fs rows p v)
  agMode v = 0 ||
  (ins.all (fun c => match swOf fs c with
    | some w => swSrc w 4 = 0 || swFibre w 4 == agTokens v
    | none => true) &&
   outs.all (fun c => match swOf fs c with
    | some w => (List.range 10).all fun n => swSrc w n ≠ 5 || swFibre w n == agTokens v
    | none => true) &&
   outs.all (fun c => !feedsEdge fs c || ins.contains c))

/-- Every cell that some AG drives over an edge link, once for each. -/
def edgeDrivers (fs : List (BitVec 256)) (rows : Nat) : List Nat :=
  (fs.filter fun f => frameKind f == 4).flatMap fun f =>
    let p := framePlace f / 4 * 4
    portCells rows p (agOuts fs rows p (framePayload f))

/-- Zero-slot links that a record on link `n` of cell `c` may join in the same beat. -/
def zeroNext (fs : List (BitVec 256)) (rows c n : Nat) : List (Nat × Nat) :=
  let zero (d : Nat) (srcs : List Nat) : List (Nat × Nat) :=
    match swOf fs d with
    | none => []
    | some w => ((List.range 10).filter fun m => srcs.contains (swSrc w m) && swSlots w m == 0).map fun m => (d, m)
  if n < 4 then
    match neighbour rows c n with
    | some d => zero d [arrivesAs n]
    | none => []
  else if n = 4 then
    (edgesOf rows c).flatMap fun e =>
      (fs.filter fun f => frameKind f == 4 && placeCluster (framePlace f) == c / 64 && placeSide (framePlace f) == e.1).flatMap
        fun f =>
          let p := framePlace f / 4 * 4
          if (agIns fs rows p (framePayload f)).contains e.2 then
            (portCells rows p (agOuts fs rows p (framePayload f))).flatMap fun d => zero d [5]
          else []
  else if 5 ≤ n && n ≤ 8 then (if (frameFor fs 1 c).isSome then zero c [6, 7] else [])
  else if n = 9 then
    match frameFor fs 2 c with
    | some v => if muMode v = 3 then zero c [8] else []
    | none => []
  else []

/-- Take away links that lead to none left, as often as `k` says. -/
def peelZero (fs : List (BitVec 256)) (rows : Nat) : Nat → List (Nat × Nat) → List (Nat × Nat)
  | 0, l => l
  | k + 1, l =>
    let l' := l.filter fun x => (zeroNext fs rows x.1 x.2).any l.contains
    if l'.length = l.length then l else peelZero fs rows k l'

/-- Whether some cycle of links has no slot (R44). -/
def zeroCycle (fs : List (BitVec 256)) (rows : Nat) : Bool :=
  let zs := (fs.filter fun f => frameKind f == 3).flatMap fun f =>
    ((List.range 10).filter fun n => swSrc (framePayload f) n ≠ 0 && swSlots (framePayload f) n == 0).map
      fun n => (framePlace f, n)
  !(peelZero fs rows zs.length zs).isEmpty

/-- The refusal of a whole image, at its end frame (R41, R44, R219, R225, R240, R366, R374; log entry 22). -/
def Task.imageCheck (t : Task) (fs : List (BitVec 256)) : Option Nat :=
  let rows := t.crec.rows
  let ds := edgeDrivers fs rows
  let ok := fs.all fun f =>
    let v := framePayload f
    let c := framePlace f
    match frameKind f with
    | 2 => muRouted fs c v && muFibreOk fs c v
    | 3 => cuFibreOk fs c v && takersOk fs rows c v
    | 4 => agRouted fs rows (c / 4 * 4) v
    | _ => true
  if !ok || ds.eraseDups.length ≠ ds.length then some 5
  else if fs.any fun f => frameKind f == 2 && muMode (framePayload f) ≠ 0 && !muInRange (framePayload f) then some 6
  else if zeroCycle fs rows then some 7
  else none

/-! ### Loading an image (R129, R150) -/

/-- How the reading of frames ends: the granted ones are read and the end frame is not among them, the image is whole, the last
frame read is refused or lies where it may not be read, or a read cannot be made now. -/
inductive LoadEnd where
  | more
  | whole
  | bad (c : Trap) (sub : Nat)
  | stop (e : ViewErr)
deriving DecidableEq, Repr

/-- Read and check up to `n` further frames of the image at an address, in the task's own view, after the frames `fs` (R44): the
task with its read set, the frames, and how it ends. -/
def State.scanImage (a : Nat) : Nat → State → Task → List (BitVec 256) → State × Task × List (BitVec 256) × LoadEnd
  | 0, s, t, fs => (s, t, fs, .more)
  | n + 1, s, t, fs =>
    match s.viewRead t 0 (a + 32 * fs.length) 32 with
    | (s, .error (.acc .miss va)) => (s, t, fs, .stop (.acc .miss va))
    | (s, .error (.acc e _)) => (s, t, fs ++ [0], .bad e.trap 0)
    | (s, .error e) => (s, t, fs, .stop e)
    | (s, .ok (t, l)) =>
      let f : BitVec 256 := BitVec.ofNat 256 (ofLeBytes l)
      match s.frameCheck t fs f with
      | some k => (s, t, fs ++ [f], .bad .configReject k)
      | none =>
        if frameKind f = 0 then
          (s, t, fs ++ [f], match t.imageCheck fs with | some k => .bad .configReject k | none => .whole)
        else if fs.length + 1 ≥ 4096 then (s, t, fs ++ [f], .bad .configReject 9)
        else State.scanImage a n s t (fs ++ [f])

/-- The frames of the image at an address that are still to be granted after `fs`, its end frame or the one where reading ends
included: the units of the load (R104). The device draws them as it reads them; the count has no effect of its own. -/
def State.framesLeft (s : State) (t : Task) (a : Nat) (fs : List (BitVec 256)) : Nat :=
  match s.scanImage a 4096 t fs with
  | (_, _, l, .stop _) => l.length + 1 - fs.length
  | (_, _, l, _) => l.length - fs.length

/-- The address of the image that a task loads: that of the `cfg.load` which its thread is in, else dw6. -/
def Task.loadBase (t : Task) : Nat :=
  match t.wait with
  | some (.cfgLoad a) => (t.x a).toNat
  | _ => t.crec.dw6.toNat

/-- The address that a load reports: its instruction's, or 0 at admission (R113, R129). -/
def Task.loadAddr (t : Task) : Word := if t.ready then t.pc else 0

/-- The load of a task as a command with `n` frames still to be granted. -/
def Task.loadCmd (t : Task) (n : Nat) : Cmd :=
  { kind := if t.ready then .cfgLoad else .image, addr := t.loadAddr, issue := 8, issued := true,
    runs := [(t.loadGrant + n, 1)], done := t.loadGrant }

/-- A port of the thread freezes before its first instruction. -/
def State.freezeEarly (s : State) (t : Task) (va : Nat) : State × List Job :=
  (s.freeze t { kind := 5, place := 0, part := 0, va := BitVec.ofNat 64 va, counter := 0, access := 0, addr := 0,
                record := none }, [])

/-- The frames granted so far are read; what follows their reading: a frozen thread, a re-queue, a refusal of the image, the image
staged or in force, or, while frames are still to be granted, `k` (R129, R150). -/
def State.readGranted (s : State) (t : Task) (k : State → Task → State × List Job) : State × List Job :=
  let (s, t, fs, fin) := s.scanImage t.loadBase (t.loadGrant - t.loading.length) t t.loading
  let t := { t with loading := fs }
  let ended : Task := { t with gate := .running, cmd := none, loading := [], loadGrant := 0 }
  match fin with
  | .more => k s t
  | .stop (.acc .miss va) =>
    if t.ready then (s.freezeThread t (t.wait.getD (.cfgLoad 0)) 5 va 0, []) else s.freezeEarly t va
  | .stop .overflow => s.overflow t
  | .stop _ => (s.putTask t, [])
  | .bad c sub => (s.putTask t).takeTrap (.thread t.handle) c sub t.loadAddr.toNat 0
  | .whole =>
    if t.ready then (s.putTask ({ ended with staged := some fs }.advance 4), [])
    else (s.putTask { ended.install fs with ready := true, paid := false }, [])

/-- A load goes on: the frames that are granted are read, then the largest prefix of the rest that the account covers is
granted and read; none refuses the load, a part of them leaves it SHORT (R108, R129, R150). -/
def State.loadGo (s : State) (t : Task) : State × List Job :=
  s.readGranted t fun s t =>
    let n := s.framesLeft t t.loadBase t.loading
    let k := min n t.account
    if k = 0 then s.refuse t (t.loadCmd n)
    else
      let (s, t) := s.debit t k
      let t := { t with loadGrant := t.loadGrant + k }
      let t : Task := { t with gate := if k < n then .short else .running, cmd := if k < n then some (t.loadCmd (n - k)) else none }
      s.readGranted t fun s t => (s.putTask t, [])

end Sys2Proof.Machine
end

