-- ==== Sys2Proof/Machine/Links.lean ====
section
/-! DEFINITION. The links of a gang's fabric: what is joined to what, what a link holds, placing items, hops between
neighbouring switches, and why a unit of the fabric does not fire (R41, R162, R163, R225, R244, R316, R366, R369, R374;
log entry 9). -/

namespace Sys2Proof.Machine

open Sys2Proof

/-- Where an item waits: on outgoing link `n` of a cell's switch, at an input of an AG (the second is a SCATTER's value
input), or at a link of an engine (0–3 activation, 4 header). -/
inductive Dest where
  | cell (c n : Nat)
  | ag (place : Nat) (second : Bool)
  | eng (k i : Nat)
deriving DecidableEq, Repr

/-- The units that fire. -/
inductive FUnit where
  | cu (c : Nat)
  | mu (c : Nat)
  | ag (place : Nat)
  | eng (k : Nat)
deriving DecidableEq, Repr

/-- Why a unit does not fire now: nothing for it to do, a fault with its trap, subcode and address, or an access that
fails at a port of cluster-in-gang `k` with counter and access kind. -/
inductive Stop where
  | idle
  | fault (c : Trap) (sub addr : Nat)
  | port (e : ViewErr) (p : PortId) (k counter access addr : Nat)
deriving DecidableEq, Repr

/-- What a firing gives. -/
abbrev Fired := Except Stop (State × Task)

/-- What a stop does to its task: nothing, the fault, a frozen port, a re-queue, or a wait for Cupboard space (R130,
R293, R315, R316). -/
def State.stop (s : State) (t : Task) : Stop → State × List Job
  | .idle => (s, [])
  | .fault c sub addr => s.taskFault t c sub addr
  | .port (.acc .miss va) p _ n acc addr =>
    (s.freeze t { kind := p.kind, place := p.place, part := p.part, va := BitVec.ofNat 64 va,
                  counter := n, access := acc, addr := BitVec.ofNat 64 addr, record := none }, [])
  | .port (.acc e _) _ _ _ _ addr => s.taskFault t e.trap 0 addr
  | .port .overflow _ _ _ _ _ => s.overflow t
  | .port .full _ _ _ _ addr => s.taskFault t .cupboardFull 0 addr
  | .port (.trap c) _ _ _ _ addr => s.taskFault t c 0 addr
  | .port (.space k n) p _ _ _ _ => (s.putTask (t.awaitSpace p k n), [])

/-- Whether a port is frozen. -/
def Task.portFrozen (t : Task) (p : PortId) : Bool := t.isFrozen p.kind p.place p.part

/-- A cell's switch frame in force. -/
def Task.sw? (t : Task) (c : Nat) : Option (BitVec 240) := (t.cell? c).bind Cell.sw

/-! ### Destinations -/

/-- The AGs of a cluster-in-gang that read edge link `p` of a side. -/
def Task.agReaders (t : Task) (k side p : Nat) : List Dest :=
  (t.ags.filter fun a => placeCluster a.place == k && placeSide a.place == side &&
    (agIns t.frames t.crec.rows a.place a.frame).contains p).map fun a => .ag a.place (agPort a.frame != p)

/-- The engine that receives on edge link `p` of a side, if any (R366). -/
def Task.engineReaders (t : Task) (k side p : Nat) : List Dest :=
  match t.engine? k with
  | none => []
  | some e =>
    if e.fmt.isNone then []
    else if e.side = side then [.eng k p]
    else if e.header && (e.side + 2) % 4 = side && p = 0 then [.eng k 4]
    else []

/-- Every receiver on edge link `p` of a side of a cluster-in-gang. -/
def Task.edgeReaders (t : Task) (k side p : Nat) : List Dest := t.agReaders k side p ++ t.engineReaders k side p

/-- Where an item that arrives at a cell's switch from source `src` goes: its outgoing links with that source; over the
edge link, each receiver on each of the cell's edge links (R42, R366). -/
def Task.dests (t : Task) (c src : Nat) : List Dest :=
  (linksFrom (t.sw? c) src).flatMap fun n =>
    if n = 4 then (edgesOf t.crec.rows c).flatMap fun e => t.edgeReaders (c / 64) e.1 e.2 else [.cell c n]

/-- Where an item that a generator emits on edge link `p` of its side goes: the cell's switch, as source `edge`, and an
engine on that link (R369). -/
def Task.agDests (t : Task) (place p : Nat) : List Dest :=
  let k := placeCluster place
  let sd := placeSide place
  (match edgeCell sd p t.crec.rows with
    | some c => t.dests (k * 64 + c) 5
    | none => []) ++ t.engineReaders k sd p

/-- The slots of an edge link: those of the switch link that drives it, else none (R42). -/
def Task.edgeSlots (t : Task) (k side p : Nat) : Nat :=
  match edgeCell side p t.crec.rows with
  | none => 0
  | some c => match t.sw? (k * 64 + c) with
    | some v => if swSrc v 4 = 0 then 0 else swSlots v 4
    | none => 0

/-- The edge link of a destination at an AG or an engine: cluster-in-gang, side, port. -/
def Task.edgeAt (t : Task) : Dest → Nat × Nat × Nat
  | .cell c _ => (c / 64, 0, 0)
  | .ag p second => (placeCluster p, placeSide p, match t.ag? p with
    | some a => if second then agPort a.frame ^^^ 1 else agPort a.frame
    | none => 0)
  | .eng k i => match t.engine? k with
    | some e => if i = 4 then (k, (e.side + 2) % 4, 0) else (k, e.side, i)
    | none => (k, 0, i)

/-- Whether a compute unit holds a join stage (R228). -/
def Cell.joins (c : Cell) : Bool :=
  match c.cu with
  | some v => cuFibre v && 0x60 ≤ cuOp v 0 && cuOp v 0 ≤ 0x66
  | none => false

/-- The slots of a destination (R42). -/
def Task.slots (t : Task) (d : Dest) : Nat :=
  match d with
  | .cell c n => match t.sw? c with
    | some v => swSlots v n
    | none => 0
  | d => let (k, sd, p) := t.edgeAt d; t.edgeSlots k sd p

/-- What a destination holds, oldest first. -/
def Task.queue (t : Task) : Dest → List Item
  | .cell c n => match t.cell? c with | some x => x.links.getD n [] | none => []
  | .ag p second => match t.ag? p with | some a => if second then a.q2 else a.q | none => []
  | .eng k i => match t.engine? k with | some e => e.inq.getD i [] | none => []

/-- Change what a destination holds. -/
def Task.setQueue (t : Task) (d : Dest) (l : List Item) : Task :=
  match d with
  | .cell c n => match t.cell? c with | some x => t.putCell { x with links := setAt x.links n l } | none => t
  | .ag p second => match t.ag? p with
    | some a => t.putAg (if second then { a with q2 := l } else { a with q := l })
    | none => t
  | .eng k i => match t.engine? k with | some e => t.putEngine { e with inq := setAt e.inq i l } | none => t

/-- Whether a destination can take an item; a zero-slot one takes it for the beat (R163). -/
def Task.room (t : Task) (d : Dest) : Bool := (t.queue d).length < max (t.slots d) 1

/-- A token as it is written: the payloads of E, of a stop and of D are ignored on input and written 0 (R222). -/
def canonTok (k : BitVec 36) : BitVec 36 :=
  let n := (k.extractLsb' 32 4).toNat
  if n = 3 || (8 ≤ n && n ≤ 14) then BitVec.ofNat 4 n ++ (0 : BitVec 32) else k

/-- An item as a unit writes it. -/
def Item.canon (x : Item) : Item :=
  match x.body with
  | .record _ => x
  | .token k => { x with body := .token (canonTok k) }

/-- Place an item on every destination of a source in one beat, if every one can take it (R41, R225, R366). An item
without a destination is dropped. -/
def Task.place (t : Task) (ds : List Dest) (x : Item) : Option Task :=
  if ds.all t.room then some (ds.foldl (fun t d => t.setQueue d (t.queue d ++ [x.canon])) t) else none

/-- The item at the head of a destination. -/
def Task.head (t : Task) (d : Dest) : Option Item := (t.queue d).head?

/-- Take the head of a destination. -/
def Task.take (t : Task) (d : Dest) : Task := t.setQueue d ((t.queue d).drop 1)

/-- Every destination of a task. -/
def Task.allDests (t : Task) : List Dest :=
  (t.cells.flatMap fun c => (List.range 10).map fun n => Dest.cell c.idx n) ++
  (t.ags.flatMap fun a => [Dest.ag a.place false, Dest.ag a.place true]) ++
  t.engines.flatMap fun e => (List.range 5).map fun i => Dest.eng e.k i

/-- The zero-slot destinations that hold an item. -/
def Task.zeroHeld (t : Task) : List Dest := t.allDests.filter fun d => t.slots d == 0 && !(t.queue d).isEmpty

/-! ### Hops -/

/-- The destinations behind link `n` of a cell, a link to a neighbour. -/
def Task.hopDests (t : Task) (c n : Nat) : List Dest :=
  match neighbour t.crec.rows c n with
  | some d => t.dests d (arrivesAs n)
  | none => []

/-- The head of a neighbour link crosses the neighbour's switch. -/
def Task.hop (t : Task) (c n : Nat) : Option Task :=
  match t.head (.cell c n) with
  | none => none
  | some x => (t.take (.cell c n)).place (t.hopDests c n) x

/-- The destinations with slots where an item on its way to a destination comes to rest: a neighbour link without slots passes it on in
the same beat; none where a unit must take it in that beat (R42). -/
def Task.landing (t : Task) : Nat → Dest → Option (List Dest)
  | 0, _ => none
  | n + 1, d =>
    if t.slots d ≠ 0 then some [d]
    else match d with
      | .cell c m => if m < 4 then ((t.hopDests c m).mapM (t.landing n)).map List.flatten else none
      | _ => none

/-- The head of a neighbour link crosses switches until it rests on links with slots. -/
def Task.hopFar (t : Task) (c n : Nat) : Option Task :=
  match t.head (.cell c n) with
  | none => none
  | some x => match (t.hopDests c n).mapM (t.landing (t.allDests.length + 1)) with
    | none => none
    | some l => (t.take (.cell c n)).place l.flatten x

/-- One hop that leads onto links with slots, if one can be made. -/
def Task.hop1 (t : Task) : Option Task :=
  (t.cells.flatMap fun c => (List.range 4).map fun n => (c.idx, n)).findSome? fun p => t.hopFar p.1 p.2

/-- Hops until none can be made. -/
def Task.settle : Nat → Task → Task
  | 0, t => t
  | n + 1, t => match t.hop1 with
    | some t => t.settle n
    | none => t

/-! ### Passes and faults -/

/-- A record as a fibre token: lane 0 as a V token. -/
def Item.asToken (x : Item) : BitVec 36 :=
  match x.body with
  | .token t => t
  | .record r => (2 : BitVec 4) ++ r.v.headD 0

/-- A token as a record: its payload in lane 0. -/
def Item.asRecord (x : Item) : LinkRec :=
  match x.body with
  | .record r => r
  | .token t => { v := t.setWidth 32 :: List.replicate 15 0, m := 1, a := 1, t := 0, p := 0 }

/-- Whether a pass belongs to a go that has launched (R156). -/
def Task.launched (t : Task) (p : Pass) : Bool := t.gos.any fun g => g.id == p.go && g.launched

/-- Whether a go still has a pass. -/
def Task.goOpen (t : Task) (id : Nat) : Bool :=
  (t.cells.any fun c => c.passes.any fun p => p.go == id) || t.ags.any fun a => a.passes.any fun p => p.go == id

/-- The address of the earliest-issued stream go that has a source pass open, or 0 (R244). -/
def Task.openGo (t : Task) : Nat :=
  match t.gos.find? fun g => t.goOpen g.id with
  | some g => g.addr.toNat
  | none => 0

/-- The address of the go that a started source runs for, else that of the earliest open one (R244). -/
def Task.goAddr (t : Task) (ps : List Pass) : Nat :=
  match ps.head?.bind fun p => t.gos.find? fun g => g.id == p.go with
  | some g => g.addr.toNat
  | none => t.openGo

/-- FIBRE_MALFORMED: the subcode word of R244. -/
def malformed (sub place port : Nat) (ag : Bool) (addr : Nat) : Stop :=
  .fault .fibreMalformed (sub + 256 * place + 2 ^ 18 * port + (if ag then 2 ^ 20 else 0)) addr

/-- One operation of a timeline that counts to the largest finished prefix is done (R209). -/
def Task.finish (t : Task) (n num : Nat) : Task :=
  let rec go : Nat → Task → Task
    | 0, t => t
    | k + 1, t => if t.finished.contains (n, t.timeline n + 1) then
        go k ({ t with finished := t.finished.filter (· != (n, t.timeline n + 1)) }.setTimeline n (t.timeline n + 1))
      else t
  go (t.finished.length + 1) { t with finished := (n, num) :: t.finished }

/-! ### Tokens (R222) -/

def tokTag (t : BitVec 36) : Nat := (t.extractLsb' 32 4).toNat
def tokVal (t : BitVec 36) : BitVec 32 := t.setWidth 32
def mkTok (tag : Nat) (v : BitVec 32) : BitVec 36 := BitVec.ofNat 4 tag ++ v

/-- What a token is. -/
inductive Tok where
  | c (v : BitVec 32)
  | f (v : BitVec 32)
  | v (v : BitVec 32)
  | e
  | stop (k : Nat)
  | done
  | h (v : BitVec 32)
  | bad
deriving DecidableEq, Repr

/-- Read a token. -/
def tokOf (t : BitVec 36) : Tok :=
  match tokTag t with
  | 0 => .c (tokVal t)
  | 1 => .f (tokVal t)
  | 2 => .v (tokVal t)
  | 3 => .e
  | 14 => .done
  | 15 => .h (tokVal t)
  | n => if 8 ≤ n && n ≤ 13 then .stop (n - 8) else .bad

/-- A stop, D and E as written. -/
def stopTok (k : Nat) : BitVec 36 := mkTok (8 + k) 0
def doneTok : BitVec 36 := mkTok 14 0
def absentTok : BitVec 36 := mkTok 3 0

/-- The hop count, field and value of a header (R233). -/
def hHop (v : BitVec 32) : Nat := bitsOf v.toNat 31 29
def hId (v : BitVec 32) : Nat := bitsOf v.toNat 28 24
def hVal (v : BitVec 32) : Nat := bitsOf v.toNat 23 0
/-- A header with its hop count lowered by 1. -/
def hNext (v : BitVec 32) : BitVec 36 := mkTok 15 (v - 0x20000000)

/-- The structure checks of a token input of declared depth `d` (R223, R243): the subcode they give, or the port after
the token. -/
def PortState.check (p : PortState) (d : Nat) (t : Tok) : Except Nat PortState :=
  if p.delivered then .error 3
  else match t with
    | .bad => .error 5
    | .done => if p.lastStop = some (d - 1) then .ok { p with begun := true, delivered := true } else .error 2
    | .stop k => if k ≥ d || p.lastStop = some (d - 1) then .error 2 else .ok { p with begun := true, lastStop := some k }
    | .h _ => if p.begun then .error 7 else .ok p
    | _ => if p.lastStop = some (d - 1) then .error 2 else .ok { p with begun := true, lastStop := none }

end Sys2Proof.Machine
end

