-- ==== Sys2Proof/Machine/Reach.lean ====
section
/-! DEFINITION. What items reach through a gang's fabric: from a source (R106, R241), and from a port that is frozen (R316, R326). -/

namespace Sys2Proof.Machine

open Sys2Proof

/-! ### Where items go -/

/-- Enabled input and output ports. -/
def cuIns (v : BitVec 240) : List Nat := (List.range 4).filter (cuIn v)
def cuOuts (v : BitVec 240) : List Nat := (List.range 2).filter (cuOut v)

/-- The destinations of an output port. -/
def Task.outDests (t : Task) (c n : Nat) : List Dest := t.dests c (6 + n)

/-- The CU payload of a cell and the payload of a generator in the image in force, before any header. -/
def Task.cuFrame (t : Task) (c : Nat) : Option (BitVec 240) := frameFor t.frames 1 c
def Task.agFrame (t : Task) (p : Nat) : Option (BitVec 240) :=
  (t.frames.find? fun f => frameKind f == 4 && framePlace f / 4 * 4 == p).map framePayload

/-- Where what a generator emits goes. -/
def Task.agOutDests (t : Task) (p : Nat) : List Dest :=
  match t.agFrame p with
  | some v => (agOuts t.frames t.crec.rows p v).flatMap fun q => t.agDests p q
  | none => []

/-- Where what a compute unit emits goes. -/
def Task.cuOutDests (t : Task) (c : Nat) : List Dest :=
  match t.cuFrame c with
  | some v => (cuOuts v).flatMap fun n => t.outDests c n
  | none => []

/-- Where an item at a destination may go on to, with the factor by which a LEVEL transformer multiplies it. -/
def Task.onward (t : Task) (d : Dest) : List (Dest × Nat) :=
  match d with
  | .cell c n =>
    if n < 4 then (t.hopDests c n).map fun x => (x, 1)
    else if n = 9 then match frameFor t.frames 2 c with
      | some v => if muMode v = 3 then (t.dests c 8).map fun x => (x, 1) else []
      | none => []
    else (t.cuOutDests c).map fun x => (x, 1)
  | .ag p _ => match t.agFrame p with
    | some v => (t.agOutDests p).map fun x => (x, if agMode v = 4 then agFan v else 1)
    | none => []
  | .eng _ _ => []

/-- Keep the larger factor of a destination. -/
def keepMax (l : List (Dest × Nat)) (x : Dest × Nat) : List (Dest × Nat) :=
  match l.find? fun y => y.1 == x.1 with
  | none => l ++ [x]
  | some y => if y.2 < x.2 then l.map fun z => if z.1 == x.1 then x else z else l

/-- Everything that items at some destinations reach, with the largest product of fan-outs over the ways there. -/
def Task.spread (t : Task) : Nat → List (Dest × Nat) → List (Dest × Nat)
  | 0, l => l
  | n + 1, l =>
    let l' := (l.flatMap fun d => (t.onward d.1).map fun x => (x.1, x.2 * d.2)).foldl keepMax l
    if l' == l then l else t.spread n l'

/-- Everything that the items of some destinations reach. -/
def Task.reach (t : Task) (l : List Dest) : List (Dest × Nat) :=
  t.spread (t.allDests.length + 1) ((l.map fun d => (d, 1)).foldl keepMax [])

/-- The unit that takes from a destination, unless it is a link to a neighbour. -/
def Dest.unit? : Dest → Option FUnit
  | .cell c n => if n < 4 || n = 4 then none else if n = 9 then some (.mu c) else some (.cu c)
  | .ag p _ => some (.ag p)
  | .eng k _ => some (.eng k)

/-! ### What a frozen port holds up (R316, R326) -/

/-- The cell that the destination base of a demand copy names. -/
def CopyDesc.fifoCell (d : CopyDesc) : Nat := d.dst.toNat / 2 ^ 17

/-- Where what a frozen port owes would go, or what it no longer takes: the output of a generator, an rnode or the FIFO of a copy, the
outputs of the streams whose gate waits for that copy, the links of an engine. -/
def Task.owedDests (t : Task) (f : Frozen) : List Dest :=
  if f.kind = 3 then
    let held (p : Pass) : Bool := t.gos.any fun g => g.id == p.go && !g.launched && match g.gate with
      | some (tl, _) => tl == f.part
      | none => false
    ((t.copies.filter fun c => c.d.dmd && !c.finished && c.n == f.part && c.d.cluster == f.place).flatMap fun c =>
      t.dests c.d.fifoCell 8) ++
    ((t.cells.filter fun x => x.passes.any held).flatMap fun x => t.dests x.idx 8) ++
    (t.ags.filter fun a => a.passes.any held).flatMap fun a => t.agOutDests a.place
  else if f.kind = 4 then (List.range 5).map fun i => .eng f.place i
  else if f.kind = 2 && f.part = 1 then t.cuOutDests f.place
  else if f.kind = 2 || f.kind = 7 then t.agOutDests f.place
  else []

/-- Whether a frozen port of the thread holds up all that a task could still start: no stream is open, but for those whose gate is on a
timeline that the thread advances (R209). -/
def Task.threadHeld (t : Task) : Bool :=
  t.threadFrozen && t.gos.all fun g => !g.launched && match g.gate with
    | some (n, _) => n ≥ 4
    | none => false

/-- Whether a frozen port holds up the row that an engine has taken in part: its own, or one that feeds a link that is empty. -/
def Task.rowHeld (t : Task) (e : Engine) : Bool :=
  t.threadHeld || t.frozen.any fun f =>
    f.kind = 4 && f.place = e.k || f.kind ≠ 4 && (t.reach (t.owedDests f)).any fun d => match d.1 with
      | .eng k p => k == e.k && p < 4 && (t.queue d.1).isEmpty
      | _ => false

/-- Whether a frozen port holds up a copy that waits for a slot of its FIFO: some unit depends on both. -/
def Task.fifoHeld (t : Task) (c : Copy) : Bool :=
  let behind := (t.reach (t.dests c.d.fifoCell 8)).filterMap fun d => d.1.unit?
  c.d.dmd && (match t.cell? c.d.fifoCell with | some x => x.fifo.getD x.fifoWr true | none => true) &&
  (t.threadHeld || t.frozen.any fun f => (t.reach (t.owedDests f)).any fun d => match d.1.unit? with
    | some u => behind.contains u
    | none => false)

end Sys2Proof.Machine
end

