-- ==== Sys2Proof/Machine/Preempt.lean ====
section
/-! DEFINITION. Resolving faults (R316–R318) and pre-emption: Discard, drop and Save (R322–R326). -/

namespace Sys2Proof.Config

open Sys2Proof.Machine

/-- Free value (log entry 13): the bytes of a Save image, by the task, the scratch of its region and its holdings; R324
gives the sections and their order, not their layout. -/
opaque imageBytes : Task → List Host.Cell → Holdings → List (BitVec 8)

end Sys2Proof.Config

namespace Sys2Proof.Machine

open Sys2Proof

/-! ### Blocks of a copy (R215) -/

/-- Source and destination element bytes. -/
def CopyDesc.srcBytes (d : CopyDesc) : Nat := 2 ^ d.esize
def CopyDesc.dstBytes (d : CopyDesc) : Nat := match d.conv with | 0 => 2 ^ d.esize | 1 => 2 | 2 => 2 | _ => 4
/-- The larger of the two, by which blocks are counted. -/
def CopyDesc.width (d : CopyDesc) : Nat := max d.srcBytes d.dstBytes
/-- Elements. -/
def CopyDesc.total (d : CopyDesc) : Nat := d.dims.foldl (fun n x => n * x.1) 1

/-! ### The fault ring -/

/-- A write of HEAD: the slots of the records it passes are free (R318). -/
def State.headWrite (s : State) (d : Nat) (v : BitVec 10) : State :=
  (s.updDie d fun x => { x with fringHead := v }).refillRing d none

/-- Set the state of a pending record, in the ring and in memory (R317, R318). -/
def State.settleFault (s : State) (d index st : Nat) : State :=
  let base := (s.die d).fringBase.toNat + 64 * index + 40
  let s := s.setHomed base (natBytes 8 st)
  s.updDie d fun x => { x with faults := x.faults.map fun (f : FaultRec) =>
    if f.index == index && f.state == 0 then { f with state := st } else f }

/-- A resolver's action on a record: 1 retry, 2 fail; others, and records that are not pending, are ignored (R316,
R318). -/
def State.resolve (s : State) (d index action : Nat) : State × List Job :=
  match (s.die d).faults.find? fun f => f.index == index && f.state == 0 with
  | none => (s, [])
  | some r =>
    match s.task? r.handle with
    | none => (s, [])
    | some t =>
      match t.frozen.find? fun f => f.record == some index with
      | none => (s, [])
      | some f =>
        if action = 1 then
          (((s.settleFault d index 1).putTask
            { t with frozen := t.frozen.filter fun x => x.record != some index }).refillRing d none, [])
        else if action = 2 then
          let (s, js) := (s.settleFault d index 2).takeTrap (.thread t.handle) .xlate f.kind f.addr.toNat 0
          (s.refillRing d none, js)
        else (s, [])

/-- FAULT_RETRY (R316): a write of FRING_RES with action 1. -/
def execFaultRetry (die index : Nat) (s : State) : Out := s.onDie die fun s _ => s.resolve die index 1

/-- FAULT_FAIL (R316): a write of FRING_RES with action 2. -/
def execFaultFail (die index : Nat) (s : State) : Out := s.onDie die fun s _ => s.resolve die index 2

/-! ### Pre-emption -/

/-- Where an image of `n` bytes fits into the save pool of a die, as an offset from its base: the first gap between the images
that stand there (R324; log entry 13). -/
def State.poolRoom (s : State) (d n : Nat) : Option Nat :=
  let mine := s.saved.filter fun x => x.task.die == d
  (0 :: mine.map fun x => x.off + x.len).find? fun o =>
    o + n ≤ (s.die d).saveSize.toNat && mine.all fun x => o + n ≤ x.off || x.off + x.len ≤ o

/-- The scratch of a task's region by scratch address. -/
def State.regionScratch (s : State) (t : Task) : List Host.Cell :=
  let cells := (List.range t.members.length).flatMap fun k => (List.range (8 * t.crec.rows)).map fun i => 64 * k + i
  cells.flatMap fun c => (s.scratch.filter fun p => t.scratchAt c 0 ≤ p.1 && p.1 < t.scratchAt c 0 + 2 ^ 17).map
    fun p => (c * 2 ^ 17 + (p.1 - t.scratchAt c 0), p.2)

/-- What the device holds for a task outside its gang (R324, R325). -/
def State.holdings (s : State) (t : Task) : Holdings :=
  let cs := s.channels.filter fun c => c.ctx == t.crec.ctx
  { sides := cs.flatMap fun c =>
      (if c.writer == t.handle then [(c.num, false)] else []) ++ (if c.reader == t.handle then [(c.num, true)] else []),
    pops := cs.filterMap fun c =>
      let l := (c.entries.filter fun e => e.tent == some t.handle).map Entry.data
      if l.isEmpty then none else some (c.num, l),
    lock := match t.lockLine.bind s.lock? with
      | some l => if l.holder == some t.handle then some (l.line, l.work) else none
      | none => none }

/-- The bytes of the Save image of a task (R324), at most 1 GiB of them: DESIGN CHOICE, R324 bounds no image (log entry 13). -/
def State.imageOfTask (s : State) (t : Task) : List Byte := (Config.imageBytes t (s.regionScratch t) (s.holdings t)).take (2 ^ 30)

/-- Whether a Save of a task is made as a Discard: it is irrevocable, or the pool lacks room (R324). -/
def State.cannotSave (s : State) (t : Task) : Bool :=
  t.irrevocable || (s.poolRoom t.die (s.imageOfTask t).length).isNone

/-- Queue the record of a saved image, with the image, on its die (R324, R325, R331). -/
def State.queueImage (s : State) (x : Saved) : State :=
  let (s, q) := s.newQRec x.task.crec
  s.enqueue x.task.die { q with rerun := x.task.rerun, origin := x.task.origin, hint := x.task.hint, image := some x.id }

/-- Whether the record of a saved image waits in a queue. -/
def State.imageQueued (s : State) (x : Saved) : Bool := s.dies.any fun d => d.taskQueue.any fun q => q.image == some x.id

/-- Save a task: its image is written, its gang is released; its record is queued with the image, or, while the package is suspended, on
resume (R331); its lock and its tentative pops stay (R324–R326). The instruction cache is no part of an image. DEDUCED: a row whose holder was saved has neither ended nor committed, and is zeroed for its next
holder as after an end without a commit (R128; log entry 68). -/
def State.save (s : State) (t : Task) : State :=
  let (s, id) := s.newId
  let bytes := s.imageOfTask t
  let off := (s.poolRoom t.die bytes.length).getD 0
  let base := (s.die t.die).savePool.toNat + off
  let s := s.setHomed base bytes
  let s := s.withdrawFaults t
  let image : Saved :=
    { id := id, scratch := s.regionScratch t, off := off, len := bytes.length,
      task := { t with frozen := [], hangCount := 0, spaceWait := [], icache := [] } }
  let s := { s with saved := s.saved ++ [image],
                    locks := s.locks.map fun (l : Lock) => { l with waiters := l.waiters.filter (· != t.handle) } }
  let s := (s.freeRows t false).dropTask t.handle
  if s.susp == .running then s.queueImage image else s

/-- Pre-empt a task with Discard (R323). -/
def State.preemptDiscard (s : State) (t : Task) : State := s.requeue t t.rerun false false

/-- Pre-empt a resident task that has not begun `done`, by mode 0 (its record), 1 (Discard) or 2 (drop): the state, the
RESULT, what follows (R322–R324). -/
def State.preempt (s : State) (t : Task) (mode : Nat) : State × BitVec 3 × List Job :=
  if mode = 2 then
    let (s, js) := s.retire t .discarded .none 0 0 0 0
    (s, 0, js)
  else if mode = 0 && t.crec.pmode == 1 then
    if s.cannotSave t then (s.preemptDiscard t, 2, []) else (s.save t, 0, [])
  else (s.preemptDiscard t, 0, [])

/-- Whether a gather of a generator is outstanding and will arrive: its port is not frozen. -/
def Task.gathering (t : Task) (a : Ag) : Bool :=
  agMode a.frame == 2 && (a.gathers.any fun g => g.2.isNone) && !t.isFrozen 2 a.place 0

/-- Whether a copy stands within a block and will go on: neither its own port nor another that it depends on is frozen (R215, R326). -/
def Task.midBlock (t : Task) (c : Copy) : Bool :=
  !c.finished && c.ran ≠ c.d.total && c.ran * c.d.width % 128 ≠ 0 && !t.isFrozen 3 c.d.cluster c.n && !t.fifoHeld c

/-- Whether a task's hang count has reached the interval of its die (R319). -/
def State.hung (s : State) (t : Task) : Bool :=
  let ivl := (s.die t.die).hangIvl.toNat
  ivl ≠ 0 && t.hangCount ≥ ivl

/-- A Save first lets every outstanding gather, portal reply and current matrix row arrive, and copies reach the end of a block;
BUSY stays 1 until then (R322, R324). A row or a block that a frozen port holds up is not waited for (R326). DEDUCED: nor is one of a gang
whose hang count has reached the interval, since pre-emption wins over the count (log entry 78). -/
def State.mustWait (s : State) (t : Task) (mode : Nat) : Bool :=
  mode = 0 && t.crec.pmode == 1 &&
  (t.portalReqs ≠ 0 || t.ags.any t.gathering ||
   !s.hung t && ((t.engines.any fun e => !e.beats.isEmpty && !t.rowHeld e) || t.copies.any t.midBlock))

/-- A write of PRE_CTL (R322): mode 3, and any write while BUSY, is ignored. -/
def State.preemptWrite (s : State) (d mode : Nat) : State × List Job :=
  let x := s.die d
  if mode = 3 || x.preBusy.isSome then (s, [])
  else
    let none1 : State := s.updDie d fun x => { x with preResult := 1 }
    match s.task? x.preHandle with
    | none => (none1, [])
    | some t =>
      if t.die ≠ d || t.committing then (none1, [])
      else if s.mustWait t mode then (s.updDie d fun x => { x with preBusy := some t.handle }, [])
      else
        let (s, r, js) := s.preempt t mode
        (s.updDie d fun x => { x with preResult := r }, js)

/-- A Save that waited goes on when all has arrived, or gives RESULT 1 when its task is gone or
committing. -/
def State.preemptGoOn (s : State) (d : Nat) : State :=
  match (s.die d).preBusy with
  | none => s
  | some h =>
    let settle (r : BitVec 3) (s : State) : State := s.updDie d fun x => { x with preBusy := none, preResult := r }
    match s.task? h with
    | none => settle 1 s
    | some t =>
      if t.committing then settle 1 s
      else if s.mustWait t 0 then s
      else if s.cannotSave t then settle 2 (s.preemptDiscard t) else settle 0 (s.save t)

/-- PREEMPT_BY_RECORD (R322): a write of PRE_CTL with mode 0. -/
def execPreemptByRecord (die : Nat) (s : State) : Out := s.onDie die fun s _ => s.preemptWrite die 0

/-- PREEMPT_DISCARD (R323): a write of PRE_CTL with mode 1. -/
def execPreemptDiscard (die : Nat) (s : State) : Out := s.onDie die fun s _ => s.preemptWrite die 1

/-- PREEMPT_DROP (R323): a write of PRE_CTL with mode 2. -/
def execPreemptDrop (die : Nat) (s : State) : Out := s.onDie die fun s _ => s.preemptWrite die 2

end Sys2Proof.Machine
end

