-- ==== Sys2Proof/Machine/Suspend.lean ====
section
/-! DEFINITION. Suspension, the Wardrobe and resume (R328–R331, R357). -/

namespace Sys2Proof.Config

open Sys2Proof.Machine

/-- Free value (log entry 13): the bytes of a suspend descriptor, by what it holds; R329 gives the contents, not their layout. -/
opaque descriptorBytes : Descriptor → List (BitVec 8)

end Sys2Proof.Config

namespace Sys2Proof.Machine

open Sys2Proof

/-- The STATE code of R328. -/
def Susp.code : Susp → Nat
  | .running => 0
  | .suspending => 1
  | .shallow => 2
  | .deep => 3
  | .writing => 4
  | .complete => 5
  | .resuming => 6

/-- The STATE code of a channel (R264). -/
def ChanState.code : ChanState → Nat
  | .closed => 0
  | .opened => 1
  | .broken => 2

/-- Pre-empt the resident tasks that have neither begun `done` nor wait for something to arrive: by their mode, or with
Discard (R329). -/
def State.clearTasks (s : State) (mode : Nat) : State :=
  s.tasks.foldl (fun s t0 =>
    match s.task? t0.handle with
    | none => s
    | some t => if t.committing || s.mustWait t mode then s else (s.preempt t mode).1) s

/-- The suspend descriptor of the package as it stands (R329). -/
def State.describe (s : State) : Descriptor :=
  { n := s.suspN, dies := s.dies, saved := s.saved, instances := s.instances, channels := s.channels,
    slotWays := s.slices.map (fun (x : Slice) => { Slice.fresh x.die x.cluster x.slice with slotWays := x.slotWays }),
    locks := s.locks, generations := s.generations, published := s.published }

/-- The package goes down: links freeze, DEV fields, dirty lines and the descriptor are written, the rails fall (R329). What a
deep suspend turns off comes back empty; a shallow one leaves SRAM, scratch and slices, as it stands (R100). Memory as it
then stands is what the Wardrobe takes (R330). -/
def State.powerDown (s : State) : State :=
  let s := { s with suspN := s.commitSeq,
                    channels := s.channels.map fun (c : Chan) => { c with frozen := c.remote } }
  let s := s.channels.foldl (fun s c => s.writeBack c c.state.code) s
  let d := s.describe
  let bytes := (Config.descriptorBytes d).take (2 ^ 22)
  let s := s.setHomed s.suspDesc.toNat bytes
  let s : State := { s with descriptor := some d, suspMem := s.mem, modified := [] }
  if s.suspCmd = 1 then { s with susp := .shallow }
  else
    { s with susp := if s.suspCmd = 3 then .writing else .deep, tlb := [], rdc := [], cacheWaits := [], scratch := [],
             rowOwner := [], slices := s.slices.map fun (x : Slice) => { x with ways := [] } }

/-- A suspension that has begun ends once no task is resident (R329). -/
def State.suspendGoOn (s : State) : State :=
  if s.susp != .suspending then s
  else
    let s := s.clearTasks (if s.suspDiscard then 1 else 0)
    if s.tasks.isEmpty then s.powerDown else s

/-- The records of the images that the suspension made are queued, in the order they were saved (R331). -/
def State.requeueSaved (s : State) : State :=
  s.saved.foldl (fun s x => if s.imageQueued x then s else s.queueImage x) s

/-- Resume: cross-device channels unfreeze, the saved records are queued, the queue slots restart and the walkers go on (R331). -/
def State.resumeAll (s : State) : State × List Job :=
  State.walkersGoOn (State.requeueSaved { s with susp := .running, suspMem := [],
                                                 channels := s.channels.map fun (c : Chan) => { c with frozen := false } })

/-- A write of SUSPEND on Bureau 0: a command that does not fit STATE is ignored (R328). -/
def State.suspendWrite (s : State) (cmd : Nat) (discard : Bool) : State × List Job :=
  if 1 ≤ cmd && cmd ≤ 3 && s.susp == .running then
    ({ s with susp := .suspending, suspCmd := cmd, suspDiscard := discard }.suspendGoOn, [])
  else if cmd = 4 && (s.susp == .shallow || s.susp == .deep || s.susp == .complete) then s.resumeAll
  else (s, [])

/-- What waits for tasks to leave goes on: Saves and a suspension. -/
def State.tidy (s : State) : State := ((List.range 4).foldl State.preemptGoOn s).suspendGoOn

/-- SUSPEND_SHALLOW (R329): CMD 1. -/
def execSuspendShallow (discard : Bool) (s : State) : Out := .next (finish (s.suspendWrite 1 discard))

/-- SUSPEND_DEEP (R329): CMD 2. -/
def execSuspendDeep (discard : Bool) (s : State) : Out := .next (finish (s.suspendWrite 2 discard))

/-- SUSPEND_WARDROBE (R330): CMD 3. -/
def execSuspendWardrobe (discard : Bool) (s : State) : Out := .next (finish (s.suspendWrite 3 discard))

/-! ### The Wardrobe (R330, R356, R357; log entry 13 for its layout) -/

/-- The ranges that the Wardrobe holds, HBM4 and the second tier in the order of the map, each with its offset from the
Wardrobe's base. -/
def tierPlaces : Nat → List Range → List (Nat × Range)
  | _, [] => []
  | o, r :: rs => if r.kind == .cxl then tierPlaces o rs else (o, r) :: tierPlaces (o + r.size) rs

/-- Bytes of the Wardrobe before its descriptor. -/
def State.tierSize (s : State) : Nat := (s.map.filter fun r => r.kind != .cxl).foldl (fun n r => n + r.size) 0

/-- Whether an address lies in CXL memory. -/
def State.inCxl (s : State) (a : Nat) : Bool := match s.rangeOf a with | some r => r.kind == .cxl | none => false

/-- Where the Wardrobe keeps the byte of an address, counted from its base. -/
def State.safeOffset (s : State) (pa : Nat) : Option Nat :=
  ((tierPlaces 0 s.map).find? fun p => p.2.base ≤ pa && pa < p.2.base + p.2.size).map fun p => p.1 + (pa - p.2.base)

/-- The address whose byte the Wardrobe keeps at an offset. -/
def State.safeSource (s : State) (o : Nat) : Option Nat :=
  ((tierPlaces 0 s.map).find? fun p => p.1 ≤ o && o < p.1 + p.2.size).map fun p => p.2.base + (o - p.1)

/-- Memory with the Wardrobe written at SAFEBASE: the bytes of `m`, then those of a descriptor, as far as CXL memory is
there. -/
def State.safeWrite (s : State) (m : Memory) (d : Descriptor) : Memory :=
  let base := s.safeBase.toNat
  let bytes := (Config.descriptorBytes d).take (2 ^ 22)
  let total := s.tierSize + bytes.length
  let kept := s.mem.filter fun c => !(s.inCxl c.1 && base ≤ c.1 && c.1 < base + total)
  let cells := m.filterMap fun c => (s.safeOffset c.1).map fun o => (base + o, c.2)
  Memory.apply kept ((cells ++ atAddr (base + s.tierSize) bytes).filter fun p => s.inCxl p.1)

/-- Whether an address lies in HBM4 or the second tier. -/
def State.inTiers (s : State) (a : Nat) : Bool := match s.rangeOf a with | some r => r.kind != .cxl | none => false

/-- Whether `n` bytes from SAFEBASE on lie in the memory behind one trained CXL port. -/
def State.safeThere (s : State) (n : Nat) : Bool :=
  match s.rangeOf s.safeBase.toNat with
  | some r => r.kind == .cxl && s.safeBase.toNat + n ≤ r.base + r.size
  | none => false

/-- The descriptor of the Wardrobe at SAFEBASE: the newest one written there, if all of it lies in memory that is there and the descriptor's
bytes still stand in it (R357). -/
def State.wardrobeAt (s : State) : Option Descriptor :=
  (s.wardrobe.find? fun p => p.1 == s.safeBase.toNat &&
    let bytes := (Config.descriptorBytes p.2).take (2 ^ 22)
    s.safeThere (s.tierSize + bytes.length) && s.bytesAt (p.1 + s.tierSize) bytes.length == bytes).map Prod.snd

/-- Memory with the Wardrobe copied back from SAFEBASE; memory outside HBM4 and the second tier stays. -/
def State.safeRead (s : State) : Memory :=
  let base := s.safeBase.toNat
  let cells := s.mem.filterMap fun c =>
    if base ≤ c.1 && s.inCxl c.1 then (s.safeSource (c.1 - base)).map fun a => (a, c.2) else none
  Memory.apply (s.mem.filter fun c => !s.inTiers c.1) cells

/-- WARDROBE_WRITE (R330): memory and the descriptor as the suspend left them are copied to SAFEBASE. -/
def execWardrobeWrite (s : State) : Out :=
  match s.descriptor with
  | none => .next s
  | some d =>
    if s.susp == .writing then
      .next { s with susp := .complete, mem := s.safeWrite s.suspMem d, wardrobe := (s.safeBase.toNat, d) :: s.wardrobe }
    else .next s

/-- RESUME (R331): CMD 4. -/
def execResume (s : State) : Out := .next (finish (s.suspendWrite 4 false))

/-- A die as the descriptor restores it: budget, queues and slots, ring positions; its registers are those of a start
(R329, R357). DESIGN CHOICE: R329 lists no times, and what waits, or has its time slice, begins to do so at the restore (log entry
13). -/
def Die.restored (d w : Die) (now : Nat) : Die :=
  let q (q : QRec) : QRec := { q with since := now, gained := 0, fundSince := now, fitSince := now }
  { d with budget := w.budget, taskQueue := w.taskQueue.map q, deques := w.deques.map (fun p => (p.1, p.2.map q))
           mail := w.mail.map fun p => (p.1, p.2.map fun r => (r.1, now)), pending := w.pending.map fun p => (p.1, now)
           overrun := w.overrun, slots := w.slots.map fun (y : QSlot) => { y with since := now }
           fringHead := w.fringHead, fringTail := w.fringTail, faults := w.faults }

/-- The memory behind a CXL port: port p's stands from 2^50 + p × 2^42 on and is homed on die p (R199, R355; log entry 4). -/
def cxlRange (p : Nat) : Range :=
  { base := 2 ^ 50 + p * 2 ^ 42, size := Config.cxlBlocks p % 2 ^ 26 * 65536, die := p, kind := .cxl }

/-- Whether memory behind a CXL port is there and persistent (R355, R360). -/
def cxlKeeps (p : Nat) : Bool := (cxlRange p).size ≠ 0 && Config.cxlPersistent.getLsbD p

/-- What link training finds, and the CXL memory that it brings (R309, R355; log entries 4 and 5): no operator beyond those of R309,
atomics on trained ports only, persistence only of memory that is there. -/
def State.train (s : State) : State :=
  let l (n : Nat) : BitVec 16 := Config.links (5 * s.boots + n)
  let ports : BitVec 4 := (l 3).setWidth 4
  { s with hostAtomics := ((l 0).setWidth 6).setWidth 8, ualTrained := l 1, ualAtomics := l 1 &&& l 2, cxlPorts := ports,
           cxlPersist := ports &&& (BitVec.ofBoolListLE [cxlKeeps 0, cxlKeeps 1, cxlKeeps 2, cxlKeeps 3] : BitVec 4), cxlCache := (l 4).getLsbD 0,
           map := mapReset ++ ((List.range 4).filter fun p => ports.getLsbD p && (cxlRange p).size ≠ 0).map cxlRange }

/-- WARDROBE_RESTORE (R357): the restore that follows training copies the Wardrobe back from SAFEBASE, the sequence resumes at N,
STATE reads 3 and stage C is announced. DESIGN CHOICE: where no Wardrobe stands at SAFEBASE the stage fails, with the home die of
SAFEBASE and a free value as its cause (R352; log entry 13). -/
def execWardrobeRestore (s : State) : Out :=
  if s.stage != .b || !s.restoreRun then .next s
  else match s.wardrobeAt with
    | none =>
      .next { s with stage := .a, restoring := false, restoreRun := false, fresh := s.fresh + 1,
                     failDie := BitVec.ofNat 2 ((s.homeDie s.safeBase.toNat).getD 0),
                     cause := (Config.freeByte s.fresh).setWidth 7 }
    | some w =>
      .next { s with
        homing := [], moving := [], mem := s.safeRead, commitSeq := w.n, suspN := w.n, susp := .deep, stage := .c
        restoring := false, restoreRun := false, saved := w.saved, instances := w.instances, channels := w.channels
        slices := w.slotWays, locks := w.locks, published := w.published
        generations := w.generations, dies := (s.dies.zip w.dies).map fun p => p.1.restored p.2 s.now }

end Sys2Proof.Machine
end

