-- ==== Sys2Proof/Machine/Thermal.lean ====
section
/-! DEFINITION. Thermal regions, hard trips, throttle, soft errors and the timer (R326, R346–R351). -/

namespace Sys2Proof.Machine

open Sys2Proof

/-- A region of a die. -/
def Die.region (x : Die) (r : Nat) : Region := x.regions.getD r Region.reset

/-- Change a region of a die. -/
def Die.setRegion (x : Die) (r : Nat) (g : Region) : Die := { x with regions := setAt x.regions r g }

/-- The temperature in whole degrees (R346). -/
def Region.degrees (g : Region) : Int := g.temp.toInt / 16

/-- What one sample adds to the damage integral before the leak (R346). -/
def damageRate (t : Int) : Int := if t < 85 then 0 else 2 ^ ((t - 85) / 5).toNat

/-- The damage integral after one sample (R346). -/
def damageNext (d : Nat) (t : Int) : Nat := min ((d : Int) + damageRate t - 4).toNat (2 ^ 32 - 1)

/-- Alert is entered at ALERT and left at the effective release level (R347). -/
def Region.judge (g : Region) : Region :=
  { g with inAlert :=
      if g.dmg ≥ g.alertLevel.toNat then true
      else if (g.dmg : Int) ≤ min (g.release.toNat : Int) ((g.alertLevel.toNat : Int) - 1) then false
      else g.inAlert }

/-- Whether a region that holds what a trip brought releases it (R348). -/
def Region.cool (g : Region) (cluster : Bool) : Bool := g.degrees < 105 && (!cluster || !g.inAlert)

/-- A region after a sample, and whether it trips: its temperature reaches 120 °C, also while it still holds what an earlier
trip brought (R346–R348). -/
def Region.sample (g : Region) (r : Nat) (temp : BitVec 16) : Region × Bool :=
  let below := g.degrees < 120
  let g := { g with temp := temp }
  let g := { g with dmg := damageNext g.dmg g.degrees }.judge
  let g := { g with tripped := g.tripped && !g.cool (r < 104) }
  if g.degrees ≥ 120 then ({ g with tripped := true }, below || !g.tripped) else (g, false)

/-- The tasks with a member on a cluster are discarded, whatever their mode (R326); scratch stands as it is (R100). -/
def State.dropCluster (s : State) (d cluster : Nat) : State :=
  (s.tasks.filter fun t => t.die == d && t.members.any fun m => m.cluster == cluster).foldl (fun s t0 =>
    match s.task? t0.handle with
    | none => s
    | some t => s.preemptDiscard t) s

/-- THERMAL_SAMPLE (R346–R348). -/
def execThermalSample (die region : Nat) (temp : BitVec 16) (s : State) : Out :=
  s.onDie die fun s x =>
    if region ≥ 107 then (s, [])
    else
      let (g, trips) := (x.region region).sample region temp
      let s := s.updDie die fun x => x.setRegion region g
      if trips then
        let s := s.updDie die fun x => { x with trip := true }
        (if region < 104 then s.dropCluster die region else s, [])
      else (s, [])

/-- Whether a cluster's rail is gated by a hard trip (R348). -/
def Die.gated (x : Die) (c : Nat) : Bool := c < 104 && (x.region c).tripped

/-- Whether a hard trip of an HBM or uncore region holds every cluster at step 7 (R348). -/
def Die.held7 (x : Die) : Bool := [104, 105, 106].any fun r => (x.region r).tripped

/-- The throttle step in force on a cluster (R348, R349). -/
def Die.step (x : Die) (c : Nat) : Nat := if x.held7 then 7 else (x.steps.getD c 0).toNat

/-- Set the step of every enabled cluster. -/
def Die.stepAll (x : Die) (v : BitVec 3) : Die :=
  { x with steps := (List.range 104).map fun c => if x.has c then v else x.steps.getD c 0 }

/-- Set the step of the cluster that THERM_SEL names, if it names one. -/
def Die.stepOne (x : Die) (v : BitVec 3) : Die :=
  if x.thermSel.toNat < 104 then { x with steps := setAt x.steps x.thermSel.toNat v } else x

/-- THROTTLE_SET_ONE (R349). -/
def execThrottleSetOne (die : Nat) (level : BitVec 3) (s : State) : Out :=
  s.onDie die fun s _ => (s.updDie die fun x => x.stepOne level, [])

/-- THROTTLE_SET_ALL (R349). -/
def execThrottleSetAll (die : Nat) (level : BitVec 3) (s : State) : Out :=
  s.onDie die fun s _ => (s.updDie die fun x => x.stepAll level, [])

/-! ### Interrupt sources (R332) -/

/-- Some region of the die is in alert. -/
def Die.anyAlert (x : Die) : Bool := x.regions.any Region.inAlert

/-- The PEND bits THERMAL, TIMER, HOST, FAULT (R332). -/
def Die.pend (x : Die) (now : Nat) : BitVec 4 :=
  BitVec.ofNat 4 ((if x.anyAlert || x.trip then 1 else 0) + (if now ≥ x.timerCmp.toNat then 2 else 0) +
    (if x.rung then 4 else 0) + (if x.faults.any fun f => f.state == 0 then 8 else 0))

/-- TIMER_EXPIRY (R350): TIMER is a level that follows NOW and CMP, so the event itself changes nothing. -/
def execTimerExpiry (die : Nat) (s : State) : Out := s.onDie die fun s _ => (s, [])

/-- ECC_EVENT (R314, R351): the event is counted in its region; an uncorrected one ends the task that meets it with
ECC_UNCORRECTED, or traps the Bureau when the Bureau meets it (victim 0). -/
def execEccEvent (die region : Nat) (uncorrected : Bool) (victim : Word) (sub : BitVec 2) (s : State) : Out :=
  s.onDie die fun s x =>
    let g := x.region region
    if !uncorrected then
      (s.updDie die fun x => x.setRegion region { g with corr := if g.corr = BitVec.allOnes 32 then g.corr else g.corr + 1 }, [])
    else
      let s := s.updDie die fun x =>
        x.setRegion region { g with uncorr := if g.uncorr = BitVec.allOnes 16 then g.uncorr else g.uncorr + 1 }
      match s.task? victim with
      | some t => s.takeTrap (.thread t.handle) .eccUncorrected sub.toNat t.pc.toNat 0
      | none => if victim = 0 then s.takeTrap (.bureau die) .eccUncorrected 0 0 0 else (s, [])

end Sys2Proof.Machine
end

