-- ==== Sys2Proof/Machine/Registers.lean ====
section
/-! DEFINITION. The system registers: which fields they have, how they read, what a write does (R84, R197, R199, R205,
R304, R310, R318–R322, R328, R332, R334, R345–R351, R356, R362). -/

namespace Sys2Proof.Machine

open Sys2Proof

/-- The RW, WO and W1C bits of a register. -/
structure RegFields where
  rw : Word
  wo : Word
  w1c : Word
deriving DecidableEq, Repr

/-- Bits [hi:lo] of a doubleword set. -/
def onesFrom (hi lo : Nat) : Word := BitVec.ofNat 64 ((2 ^ (hi - lo + 1) - 1) * 2 ^ lo)

/-- A register with RW bits [hi:lo] only. -/
def rwBits (hi lo : Nat) : Option RegFields := some { rw := onesFrom hi lo, wo := 0, w1c := 0 }

/-- A register that no write changes. -/
def roReg : Option RegFields := some { rw := 0, wo := 0, w1c := 0 }

/-- Numbers of task registers (R334). -/
def taskReg (num : Nat) : Bool := 0x130 ≤ num && num ≤ 0x138

/-- The fields of an assigned register. -/
def regFields (num : Nat) : Option RegFields :=
  if num = 0x100 then roReg
  else if num = 0x101 then rwBits 6 0
  else if num = 0x102 then roReg
  else if num = 0x103 || num = 0x104 then rwBits 31 0
  else if num = 0x105 then some { rw := 0, wo := 0, w1c := 2 }
  else if num = 0x110 then some { rw := 7, wo := 0x100, w1c := 0 }
  else if num = 0x111 then rwBits 63 0
  else if num = 0x112 then roReg
  else if num = 0x114 || num = 0x115 then rwBits 7 0
  else if num = 0x116 then rwBits 47 0
  else if num = 0x120 then rwBits 15 0
  else if num = 0x121 then rwBits 31 0
  else if 0x130 ≤ num && num ≤ 0x137 then rwBits 51 2
  else if num = 0x138 then roReg
  else if 0x140 ≤ num && num ≤ 0x14F then rwBits 63 0
  else if 0x150 ≤ num && num ≤ 0x15F then rwBits 27 0
  else if 0x160 ≤ num && num ≤ 0x167 then rwBits 51 0
  else if 0x168 ≤ num && num ≤ 0x16F then rwBits 63 0
  else if 0x170 ≤ num && num ≤ 0x177 then rwBits 7 0
  else if num = 0x200 then rwBits 8 0
  else if num = 0x201 then rwBits 15 0
  else if 0x210 ≤ num && num ≤ 0x21F then rwBits 15 0
  else if 0x220 ≤ num && num ≤ 0x22F then roReg
  else if num = 0x230 then rwBits 35 0
  else if num = 0x231 then rwBits 8 0
  else if num = 0x240 then rwBits 39 0
  else if num = 0x241 then rwBits 17 0
  else if num = 0x300 || num = 0x302 then roReg
  else if num = 0x301 || num = 0x305 then rwBits 63 0
  else if num = 0x303 then rwBits 15 0
  else if num = 0x304 then some { rw := 0xF0003, wo := 0, w1c := 8 }
  else if num = 0x306 then rwBits 51 16
  else if num = 0x307 then rwBits 9 0
  else if num = 0x308 then some { rw := 0, wo := 0xFFF, w1c := 0 }
  else if num = 0x309 then rwBits 51 12
  else if num = 0x30A then rwBits 63 0
  else if num = 0x30B then some { rw := 0, wo := 3, w1c := 0 }
  else if num = 0x30C then rwBits 51 0
  else if num = 0x30D then rwBits 39 0
  else if num = 0x30E then some { rw := 0, wo := 0xF, w1c := 0 }
  else if num = 0x30F || num = 0x310 || num = 0x312 || num = 0x314 then rwBits 51 0
  else if num = 0x311 || num = 0x313 then rwBits 16 0
  else if num = 0x315 then rwBits 15 0
  else if num = 0x316 then rwBits 47 0
  else if num = 0x317 then rwBits 31 0
  else if num = 0x318 then some { rw := 1, wo := 2, w1c := 0 }
  else none

/-- Registers that only Bureau 0 writes (R328, R345, R356, R362). -/
def bureau0Only (num : Nat) : Bool :=
  num = 0x114 || (0x160 ≤ num && num ≤ 0x177) || num = 0x30E || num = 0x30F || (0x310 ≤ num && num ≤ 0x314)

/-! ### Reading -/

/-- The region that THERM_SEL selects. -/
def Die.selRegion (x : Die) : Region := x.region x.thermSel.toNat

/-- FIRST: the lowest region in alert or tripped, 127 when none (R348; log entry 22). -/
def Die.firstHot (x : Die) : Nat :=
  ((List.range 107).find? fun r => (x.region r).inAlert || (x.region r).tripped).getD 127

/-- The value of a supervisor register, its reserved and WO fields 0. DEDUCED: while L2P_SEL selects a disabled cluster the
registers of the slice it selects read 0, and L2P_SEL itself reads back and takes writes (R205; log entry 70). -/
def State.regRead (s : State) (d num : Nat) : Word :=
  let x := s.die d
  let b := x.bureau
  let n (v : Nat) : Word := BitVec.ofNat 64 v
  let bit (c : Bool) (k : Nat) : Nat := if c then 2 ^ k else 0
  if num = 0x100 then n x.selRegion.temp.toNat
  else if num = 0x101 then n x.thermSel.toNat
  else if num = 0x102 then n x.selRegion.dmg
  else if num = 0x103 then n x.selRegion.alertLevel.toNat
  else if num = 0x104 then n x.selRegion.release.toNat
  else if num = 0x105 then
    n (bit x.anyAlert 0 + bit x.trip 1 + x.firstHot * 256 + bit x.selRegion.inAlert 15)
  else if num = 0x110 then n (if x.thermSel.toNat < 104 then x.step x.thermSel.toNat else 0)
  else if num = 0x111 then x.timerCmp
  else if num = 0x112 then n s.now
  else if num = 0x114 then n s.pkgLimit.toNat
  else if num = 0x115 then n x.allot.toNat
  else if num = 0x116 then n (x.selRegion.corr.toNat + 2 ^ 32 * x.selRegion.uncorr.toNat)
  else if num = 0x120 then n x.sliceLen.toNat
  else if num = 0x121 then n x.hangIvl.toNat
  else if 0x140 ≤ num && num ≤ 0x14F then (x.pwin.getD (num - 0x140) PWin.reset).base
  else if 0x150 ≤ num && num ≤ 0x15F then
    let w := x.pwin.getD (num - 0x150) PWin.reset
    n (w.ctx.toNat + 2 ^ 16 * w.size.toNat + bit w.ual 22 + 2 ^ 23 * w.port.toNat + bit w.en 27)
  else if 0x160 ≤ num && num ≤ 0x167 then n (s.hcw.getD (num - 0x160) HWin.reset).dev.toNat
  else if 0x168 ≤ num && num ≤ 0x16F then (s.hcw.getD (num - 0x168) HWin.reset).hostBase
  else if 0x170 ≤ num && num ≤ 0x177 then
    let w := s.hcw.getD (num - 0x170) HWin.reset
    n (w.size.toNat + bit w.en 6 + bit w.wr 7)
  else if num = 0x200 then n x.l2pSel.toNat
  else if num = 0x201 then
    match s.selected d with
    | some y => n (y.gate.toNat + 2 ^ 16 * y.awake.toNat)
    | none => 0
  else if 0x210 ≤ num && num ≤ 0x21F then
    match s.selected d with
    | some y => n (y.masks.getD (num - 0x210) 0).toNat
    | none => 0
  else if 0x220 ≤ num && num ≤ 0x22F then
    match s.selected d with
    | some y => n (y.count (num - 0x220))
    | none => 0
  else if num = 0x230 then n x.homeSel.toNat
  else if num = 0x231 then s.homeRead d
  else if num = 0x240 then n x.tlbiVpn.toNat
  else if num = 0x241 then n (x.tlbiCtx.toNat + 2 ^ 16 * x.tlbiScope.toNat + bit x.tlbiOp.isSome 63)
  else if num = 0x300 then n b.code.toNat
  else if num = 0x301 then b.tpc
  else if num = 0x302 then b.val
  else if num = 0x303 then n b.vec.toNat
  else if num = 0x304 then
    n (bit b.ie 0 + bit b.pie 1 + bit b.intrap 2 + bit b.dt 3 + 256 * (x.pend s.now).toNat + 2 ^ 16 * b.mask.toNat)
  else if num = 0x305 then b.pad
  else if num = 0x306 then n x.fringBase.toNat
  else if num = 0x307 then n (x.fringHead.toNat + 2 ^ 16 * x.fringTail.toNat)
  else if num = 0x309 then n x.hmapBase.toNat
  else if num = 0x30A then x.preHandle
  else if num = 0x30B then n (2 ^ 60 * x.preResult.toNat + bit x.preBusy.isSome 63)
  else if num = 0x30C then n x.savePool.toNat
  else if num = 0x30D then n x.saveSize.toNat
  else if num = 0x30E then n (16 * s.susp.code)
  else if num = 0x30F then n s.suspDesc.toNat
  else if num = 0x310 then n s.qtBase.toNat
  else if num = 0x311 then n s.qtCount.toNat
  else if num = 0x312 then n s.ctxBase.toNat
  else if num = 0x313 then n s.ctxCount.toNat
  else if num = 0x314 then n s.safeBase.toNat
  else if num = 0x315 then n x.ctxSel.toNat
  else if num = 0x316 then n (x.quota x.ctxSel.toNat + 2 ^ 32 * x.reserve x.ctxSel.toNat)
  else if num = 0x317 then n x.doorbell.toNat
  else if num = 0x318 then n (bit s.restore 0)
  else 0

/-! ### Writing -/

/-- Whether two ranges of addresses meet. -/
def rangesMeet (a n b m : Nat) : Bool := a < b + m && b < a + n

/-- Whether window `k` may be enabled: its range meets no other enabled window and no memory range (R362). -/
def State.windowFree (s : State) (k : Nat) (w : HWin) : Bool :=
  let lo := w.dev.toNat
  let n := 2 ^ w.size.toNat
  ((List.range s.hcw.length).zip s.hcw).all (fun p =>
    p.1 == k || !p.2.en || !rangesMeet lo n p.2.dev.toNat (2 ^ p.2.size.toNat)) &&
  s.map.all fun r => !rangesMeet lo n r.base r.size

/-- A write of HCW_CTL (R362): while EN = 1 only a write that clears EN counts; it writes back the window's modified
lines and drops the window. -/
def State.hcwCtl (s : State) (k : Nat) (v : Word) : State :=
  let w := s.hcw.getD k HWin.reset
  let size := wbits v 5 0
  let w' : HWin := { w with size := if 21 ≤ size && size ≤ 40 then BitVec.ofNat 6 size else 21, wr := v.getLsbD 7,
                            en := v.getLsbD 6 }
  if w.en && w'.en then s
  else
    let s := if w.en then { s with modified := s.modified.filter fun l => !w.covers (64 * l) } else s
    { s with hcw := setAt s.hcw k { w' with en := w'.en && s.windowFree k w' } }

/-- Whether a firmware stage verifies with the firmware key: the only scheme is ECDSA on P-384 over SHA-384 (R14, R352). -/
def Firmware.verified (f : Firmware) : Bool :=
  f.scheme == .ecdsaP384Sha384 && ecdsaVerify Config.firmwareKey (sha384 f.code) f.sig

/-- Stage B begins, under RESTORE as it then stands: without it the second tier reads zero from here on and the sweep starts
(R352, R353, R357). -/
def State.stageB (s : State) : State :=
  let s := { s with stage := .b, restoring := s.restore, restoreRun := false, failDie := 0, cause := 0 }
  if s.restoring then s
  else { s with mem := s.mem.filter (fun c => !s.secondTier (c.1 / 65536)), sweeping := true, swept := [] }

/-- GO: stage B begins from stage A, unless a firmware stage fails verification: then it is not run and the package stays in
stage A (R352). -/
def State.bootGo (s : State) : State :=
  if s.stage != .a || s.fwInvalid then s
  else if s.firmware.all Firmware.verified then s.stageB
  else { s with fwInvalid := true }

/-- When stage A ends, in microseconds after power-good (R352; log entry 62). -/
def State.stageAEnd (s : State) : Nat := Config.stageATime s.boots % 10001

/-- Whether some queue slot is mapped (R356). -/
def State.slotMapped (s : State) : Bool := s.dies.any fun x => !x.slots.isEmpty

/-- A write of a register: `rw` is the new value of its RW fields, `wo` what is written to its WO fields if they are
written, `clear` the W1C bits to clear. `host` tells a write through the register window. -/
def State.regWrite (s : State) (d num : Nat) (host : Bool) (rw : Word) (wo : Option Word) (clear : Word) :
    State × List Job :=
  let up (f : Die → Die) : State × List Job := (s.updDie d f, [])
  let bu (f : Bureau → Bureau) : State × List Job := (s.updBureau d f, [])
  let bv (w hi lo : Nat) : BitVec w := BitVec.ofNat w (wbits rw hi lo)
  if bureau0Only num && d ≠ 0 then (s, [])
  else if num = 0x101 then up fun x => { x with thermSel := if wbits rw 6 0 > 106 then 106 else bv 7 6 0 }
  else if num = 0x103 || num = 0x104 then up fun x =>
    let g := x.selRegion
    let g := (if num = 0x103 then { g with alertLevel := bv 32 31 0 } else { g with release := bv 32 31 0 }).judge
    x.setRegion x.thermSel.toNat { g with tripped := g.tripped && !g.cool (x.thermSel.toNat < 104) }
  else if num = 0x105 then up fun x => { x with trip := x.trip && !clear.getLsbD 1 }
  else if num = 0x110 then up fun x =>
    match wo with
    | some w => if w.getLsbD 8 then x.stepAll (bv 3 2 0) else x.stepOne (bv 3 2 0)
    | none => x.stepOne (bv 3 2 0)
  else if num = 0x111 then up fun x => { x with timerCmp := rw }
  else if num = 0x114 then
    let v := wbits rw 7 0
    ({ s with pkgLimit := if v > 166 then 166 else if v = 0 then 1 else BitVec.ofNat 8 v }, [])
  else if num = 0x115 then up fun x => { x with allot := bv 8 7 0 }
  else if num = 0x116 then up fun x =>
    x.setRegion x.thermSel.toNat { x.selRegion with corr := bv 32 31 0, uncorr := bv 16 47 32 }
  else if num = 0x120 then up fun x => { x with sliceLen := if wbits rw 15 0 = 0 then 1 else bv 16 15 0 }
  else if num = 0x121 then up fun x => { x with hangIvl := bv 32 31 0 }
  else if 0x140 ≤ num && num ≤ 0x14F then up fun x =>
    { x with pwin := modAt x.pwin (num - 0x140) fun w => { w with base := rw } }
  else if 0x150 ≤ num && num ≤ 0x15F then up fun x =>
    { x with pwin := modAt x.pwin (num - 0x150) fun w =>
        { w with ctx := bv 16 15 0, ual := rw.getLsbD 22, port := bv 4 26 23, en := rw.getLsbD 27,
                 size := if 12 ≤ wbits rw 21 16 && wbits rw 21 16 ≤ 44 then bv 6 21 16 else 12 } }
  else if 0x160 ≤ num && num ≤ 0x167 then
    ({ s with hcw := modAt s.hcw (num - 0x160) fun w => if w.en then w else { w with dev := bv 52 51 0 } }, [])
  else if 0x168 ≤ num && num ≤ 0x16F then
    ({ s with hcw := modAt s.hcw (num - 0x168) fun w => if w.en then w else { w with hostBase := rw } }, [])
  else if 0x170 ≤ num && num ≤ 0x177 then (s.hcwCtl (num - 0x170) rw, [])
  else if num = 0x200 then up fun x => { x with l2pSel := bv 9 8 0 }
  else if num = 0x201 then (s.gateWrite d (bv 16 15 0), [])
  else if 0x210 ≤ num && num ≤ 0x21F then (s.maskWrite d (num - 0x210) (bv 16 15 0), [])
  else if num = 0x230 then up fun x => { x with homeSel := bv 36 35 0 }
  else if num = 0x231 then
    let s := s.homeWrite d (wbits rw 6 0) (wbits rw 8 7)
    (if host then s else s.homeWaits d, [])
  else if num = 0x240 then up fun x => { x with tlbiVpn := bv 40 39 0 }
  else if num = 0x241 then (s.tlbiStart d (bv 16 15 0) (bv 2 17 16), [])
  else if num = 0x301 then bu fun b => { b with tpc := rw }
  else if num = 0x303 then bu fun b => { b with vec := bv 16 15 0 &&& 0xFFFC }
  else if num = 0x304 then bu fun b =>
    { b with ie := rw.getLsbD 0, pie := rw.getLsbD 1, mask := bv 4 19 16, dt := b.dt && !clear.getLsbD 3 }
  else if num = 0x305 then bu fun b => { b with pad := rw }
  else if num = 0x306 then up fun x => { x with fringBase := bv 52 51 0 }
  else if num = 0x307 then (s.headWrite d (bv 10 9 0), [])
  else if num = 0x308 then
    match wo with
    | some w => s.resolve d (wbits w 9 0) (wbits w 11 10)
    | none => (s, [])
  else if num = 0x309 then up fun x => { x with hmapBase := bv 52 51 0 }
  else if num = 0x30A then up fun x => { x with preHandle := rw }
  else if num = 0x30B then
    match wo with
    | some w => s.preemptWrite d (wbits w 1 0)
    | none => (s, [])
  else if num = 0x30C then up fun x => { x with savePool := bv 52 51 0 }
  else if num = 0x30D then up fun x => { x with saveSize := bv 40 39 0 }
  else if num = 0x30E then
    match wo with
    | some w => s.suspendWrite (wbits w 2 0) (w.getLsbD 3)
    | none => (s, [])
  else if num = 0x30F then ({ s with suspDesc := bv 52 51 0 }, [])
  else if num = 0x310 then ((if s.slotMapped then s else { s with qtBase := bv 52 51 0 }), [])
  else if num = 0x311 then ({ s with qtCount := bv 17 16 0 }, [])
  else if num = 0x312 then ((if s.slotMapped then s else { s with ctxBase := bv 52 51 0 }), [])
  else if num = 0x313 then ({ s with ctxCount := bv 17 16 0 }, [])
  else if num = 0x314 then ({ s with safeBase := bv 52 51 0 }, [])
  else if num = 0x315 then up fun x => { x with ctxSel := bv 16 15 0 }
  else if num = 0x316 then up fun x => x.setQuota x.ctxSel.toNat (wbits rw 31 0) (wbits rw 47 32)
  else if num = 0x317 then up fun x => { x with doorbell := bv 32 31 0, rung := x.rung || host }
  else if num = 0x318 then
    let s := { s with restore := rw.getLsbD 0 }
    match wo with
    | some w => ((if w.getLsbD 1 then s.bootGo else s), [])
    | none => (s, [])
  else (s, [])

/-- The effect of `sys.wr`, and of a write through the register window, with value `v` (R334, R354). -/
def State.regSet (s : State) (d num : Nat) (host : Bool) (v : Word) : State × List Job :=
  match regFields num with
  | none => (s, [])
  | some f => if taskReg num then (s, []) else s.regWrite d num host (v &&& f.rw) (some (v &&& f.wo)) (v &&& f.w1c)

/-- REGISTER_WRITE (R334, R354). -/
def execRegisterWrite (die : Nat) (num : BitVec 12) (value : Word) (s : State) : Out :=
  s.onDie die fun s _ => s.regSet die num.toNat true value

/-- DOORBELL_WRITE (R356). -/
def execDoorbellWrite (die : Nat) (value : BitVec 32) (s : State) : Out :=
  s.onDie die fun s _ => s.regSet die 0x317 true (value.setWidth 64)

/-- DOORBELL_READ (R356). -/
def execDoorbellRead (die : Nat) (s : State) : Out :=
  s.onDie die fun s _ => (s.updDie die fun x => { x with rung := false }, [])

/-- HCW_CTL_WRITE (R362). -/
def execHcwCtlWrite (window : Nat) (value : Word) (s : State) : Out :=
  if window < 8 then .next (s.hcwCtl window (value &&& 0xFF)) else .next s

/-- BOOT_GO (R352). -/
def execBootGo (s : State) : Out := .next s.bootGo

/-- STAGE_B_TIMEOUT (R352): 50 ms after stage A ends. -/
def execStageBTimeout (s : State) : Out := if s.now ≥ s.stageAEnd + 50000 then .next s.bootGo else .next s

end Sys2Proof.Machine
end

