-- ==== Sys2Proof/Machine/System.lean ====
section
/-! DEFINITION. System instructions and the Bureau's interrupts (R46, R304, R332–R336). -/

namespace Sys2Proof.Machine

open Sys2Proof

/-- The value of a task register: RWIN 0–7 or FLAGS (R304, R334). -/
def Task.regRead (t : Task) (num : Nat) : Word :=
  if num = 0x138 then t.flags.setWidth 64 else t.rwin.toList.getD (num - 0x130) 0

/-- Write the RW field of a task register. -/
def Task.regWrite (t : Task) (num : Nat) (v : Word) : Task :=
  if 0x130 ≤ num && num ≤ 0x137 then { t with rwin := t.rwin.setIfInBounds (num - 0x130) (v &&& onesFrom 51 2) } else t

/-- The trap at issue of a task's `sys` form (R46, R334). -/
def taskRegTrap (num : Nat) : Option (Trap × Nat) :=
  if (regFields num).isNone then some (.illegalOp, 0) else if taskReg num then none else some (.priv, 0)

/-- The value a Bureau reads: the fields of a task register have no value there (log entry 12), its reserved bits read 0 (R4);
its own read of DOORBELL clears HOST (R356). -/
def State.bureauRegRead (s : State) (d num : Nat) : State × Word :=
  if taskReg num then
    let (s, l) := s.freeBytes 8
    (s, BitVec.ofNat 64 (ofLeBytes l) &&& (if num = 0x138 then onesFrom 7 0 else onesFrom 51 2))
  else
    let v := s.regRead d num
    ((if num = 0x317 then s.updDie d fun x => { x with rung := false } else s), v)

/-- A register form: `f` gives, from the fields, the old value and xA, what is written: RW value, WO value, W1C bits
(R334). DESIGN CHOICE: what a Bureau writes to a register of tasks, 0x130 to 0x138, is ignored (log entry 12). -/
def issueReg (i : Instr) (num : BitVec 12) (d a : Reg) (reads : Bool)
    (f : Option (RegFields → Word → Word → Word × Option Word × Word)) (s : State) : Out :=
  let n := num.toNat
  issueBoth i 1 (fun _ => taskRegTrap n)
    (fun s k b =>
      match regFields n with
      | none => s.takeTrap (.bureau k) .illegalOp 0 0 0
      | some fs =>
        let v := b.x a
        let (s, old) := if reads then s.bureauRegRead k n else (s, s.regRead k n)
        let s := s.updBureau k fun b => (b.setX d old).advance 4
        match f with
        | none => (s, [])
        | some f =>
          if taskReg n then (s, [])
          else
            let (rw, wo, clear) := f fs (old &&& fs.rw) v
            s.regWrite k n false rw wo clear)
    (fun s t =>
      match regFields n with
      | none => s.trapAt t .illegalOp 0
      | some fs =>
        let old := t.regRead n
        let v := t.x a
        let t := match f with
          | none => t
          | some f => t.regWrite n (f fs (old &&& fs.rw) v).1
        (s.putTask ((t.setX d old).advance 4), [])) s

/-- `sys.rd` (R334). -/
def execSysRd (d : Reg) (num : BitVec 12) (s : State) : Out := issueReg (.sysRd d num) num d 0 true none s

/-- `sys.wr` (R334). -/
def execSysWr (num : BitVec 12) (a : Reg) (s : State) : Out :=
  issueReg (.sysWr num a) num 0 a false (some fun fs _ v => (v &&& fs.rw, some (v &&& fs.wo), v &&& fs.w1c)) s

/-- `sys.set` (R334). -/
def execSysSet (d : Reg) (num : BitVec 12) (a : Reg) (s : State) : Out :=
  issueReg (.sysSet d num a) num d a true (some fun fs old v => ((old ||| v) &&& fs.rw, none, v &&& fs.w1c)) s

/-- `sys.clr` (R334). -/
def execSysClr (d : Reg) (num : BitVec 12) (a : Reg) (s : State) : Out :=
  issueReg (.sysClr d num a) num d a true (some fun _ old v => (old &&& ~~~v, none, 0)) s

/-- `trap` (R335). -/
def execTrap (imm : BitVec 12) (s : State) : Out :=
  issueBoth (.trap imm) 1 noTrap
    (fun s k _ => s.takeTrap (.bureau k) .brk 0 0 imm.toNat)
    (fun s t => s.trapAt t .brk imm.toNat) s

/-- `eret` (R336); PRIV in a task (R334). -/
def execEret (s : State) : Out :=
  issueBoth .eret 1 (fun _ => some (.priv, 0))
    (fun s k _ => (s.updBureau k Bureau.eret, []))
    (fun s t => s.trapAt t .priv 0) s

/-! ### Interrupts -/

/-- The source taken first among pending, enabled ones (R333). -/
def Die.source (x : Die) (now : Nat) : Option Nat := (List.range 4).find? fun k => (x.pend now &&& x.bureau.mask).getLsbD k

/-- Entry for an interrupt source; the spec gives FAULT no code: it is one of those that R314 assigns (log entry 12). -/
def State.interrupt (s : State) (d k : Nat) : State :=
  if k < 3 then s.updBureau d fun b => b.enter (BitVec.ofNat 8 (0x12 + k)) 0 false
  else
    let (s, l) := s.freeBytes 1
    s.updBureau d fun b => b.enter (BitVec.ofNat 8 ((l.headD 0).toNat % 0x15)) 0 false

/-- An enabled interrupt is pending: a waiting Bureau goes on, and with IE = 1 trap entry follows (R333, R336). -/
def State.wake (s : State) (d : Nat) : State :=
  let x := s.die d
  match x.source s.now with
  | none => s
  | some k =>
    let s := s.updBureau d fun b => { b with waiting := false }
    if x.bureau.ie then s.interrupt d k else s

/-- `wfi` (R336); PRIV in a task (R334). -/
def execWfi (s : State) : Out :=
  issueBoth .wfi 1 (fun _ => some (.priv, 0))
    (fun s k _ => ((s.updBureau k fun b => { b.advance 4 with waiting := true }).wake k, []))
    (fun s t => s.trapAt t .priv 0) s

/-- BUREAU_TRAP_ENTRY (R333). -/
def execBureauTrapEntry (die : Nat) (s : State) : Out :=
  s.onDie die fun s x => (if x.bureau.ie then s.wake die else s, [])

/-- WFI_WAKE (R336). -/
def execWfiWake (die : Nat) (s : State) : Out :=
  s.onDie die fun s x => (if x.bureau.waiting then s.wake die else s, [])

end Sys2Proof.Machine
end

