-- ==== Sys2Proof/Machine/ChannelOps.lean ====
section
/-! DEFINITION. The channel instructions, their waits, and what peers bring (R263–R280, R327, R372). -/

namespace Sys2Proof.Machine

open Sys2Proof

/-! ### Reading the table -/

/-- CHANNEL_MISUSE's subcode word (R275). -/
def misuseSub (sub num : Nat) : Nat := sub + 16 * num

/-- Why a channel operation fails: its own subcode, or an access to the table (R263, R275). -/
inductive ChanErr where
  | misuse (sub : Nat)
  | acc (e : AccErr) (va : Nat)
deriving DecidableEq, Repr

/-- The physical address of a channel's table entry, which a task reads; none at or above the entry count. -/
def State.cte (s : State) (t : Task) (num : Nat) : State × Except ChanErr (Option Nat) :=
  if s.ctxDown t.crec.ctx then (s, .error (.acc .host 0))
  else if num ≥ s.chanCount t.crec.ctx then (s, .ok none)
  else match s.access t.die t.crec.ctx (s.cteAddr t.crec.ctx num) .load with
    | (s, .error e) => (s, .error (.acc e (s.cteAddr t.crec.ctx num)))
    | (s, .ok (pa, e)) => (if e.io then s else s.touch t.die pa t.crec.cls, .ok (some pa))

/-- The OPEN channel that a push, pop or peek names: subcodes 1 and 2 (R275); its Hutch is reached (R199, R363). -/
def State.openChan (s : State) (t : Task) (num : Nat) : State × Except ChanErr Chan :=
  match s.cte t num with
  | (s, .error e) => (s, .error e)
  | (s, .ok none) => (s, .error (.misuse 1))
  | (s, .ok (some _)) => match s.chan? t.crec.ctx num with
    | some c =>
      if c.state != .opened then (s, .error (.misuse 2))
      else match s.hutchErr c with
        | some e => (s, .error (.acc e 0))
        | none => (s, .ok c)
    | none => (s, .error (.misuse 2))

/-- A channel instruction of the thread ends in a failure. -/
def State.chanErr (s : State) (t : Task) (i : Instr) (num : Nat) : ChanErr → State × List Job
  | .misuse sub => s.trapAt t .channelMisuse (misuseSub sub num)
  | .acc .miss va => (s.freezeThread (t.block i) i 7 va 0, [])
  | .acc e _ => s.trapAt t e.trap 0

/-! ### Pushing and popping (R266–R268, R277) -/

/-- Whether a task may push to a channel, by side and width class (`word` for ESIZE 0): subcodes 3 and 5. -/
def Chan.pushBad (c : Chan) (h : Word) (word : Bool) : Option Nat :=
  if c.writer != h || (c.remote && c.rdir) then some 3 else if (c.esize == 0) != word then some 5 else none

/-- Whether a task may pop from a channel: subcodes 4 and 5. -/
def Chan.popBad (c : Chan) (h : Word) (word : Option Bool) : Option Nat :=
  if c.reader != h || (c.remote && !c.rdir) then some 4
  else match word with
    | some w => if (c.esize == 0) != w then some 5 else none
    | none => none

/-- The pushes that a task holds for a channel. -/
def Task.heldFor (t : Task) (num : Nat) : Nat := (t.pushes.filter fun p => p.1 == num).length

/-- Whether a push has room (R267). -/
def Chan.roomFor (c : Chan) (t : Task) : Bool := c.entries.length + t.heldFor c.num + 1 ≤ c.capacity

/-- Hold a push; the share of cluster-in-gang `k` grows by each 128-byte line begun (R130, R267). -/
def State.holdPush (s : State) (t : Task) (k : Nat) (c : Chan) (e : List Byte) : Except ViewErr Task :=
  let held (t : Task) : Task := { t with pushes := t.pushes ++ [(c.num, e)], pushData := none }
  if t.heldFor c.num * c.size % 128 = 0 then (s.growShare t k 128).map held else .ok (held t)

/-- The oldest entry that the reader has not popped (R268). -/
def Chan.next (c : Chan) : Option Entry := c.entries.find? fun e => e.tent.isNone

/-- Mark the oldest such entry as popped by a task. -/
def Chan.popNext (c : Chan) (h : Word) : Chan :=
  let rec go : List Entry → List Entry
    | [] => []
    | e :: r => if e.tent.isNone then { e with tent := some h } :: r else e :: go r
  { c with entries := go c.entries }

/-- A popped low-charge notice exempts a task on a throttled lead cluster for its next 2,048 instructions; a further notice
popped in that time restarts the exemption (R327, R372). -/
def State.noticePopped (s : State) (t : Task) (e : Entry) : Task :=
  if e.notice && ((s.die t.die).step t.lead ≥ 1 || t.exempt > 0) then { t with exempt := 2048 } else t

/-- The scratch operand of a large element (R275): PERM before MISALIGN, as in R144. -/
def Task.elementTrap (t : Task) (a size : Nat) : Option Trap :=
  if a ≥ 2 ^ 32 || a % 2 ^ 17 ≥ Config.scratchBytes || !t.cellOk (a / 2 ^ 17) then some .perm
  else if a % 16 ≠ 0 then some .misalign
  else if a % 2 ^ 17 + size > Config.scratchBytes then some .perm
  else none

/-- What a push does once it is checked: it waits for room, then its element is held (R267, R277). -/
def State.pushWait (s : State) (t : Task) (i : Instr) (c : Chan) (e : List Byte) : State × List Job :=
  let t := { t with pushData := some e }
  if !c.roomFor t then (s.putTask (t.block i), [])
  else match s.holdPush t 0 c e with
    | .error x => s.threadErr t i 1 x
    | .ok t => (s.putTask ((t.gotSpace threadPort).advance 4), [])

/-- `ch.push` (R277). -/
def pushBody (i : Instr) (word : Bool) (a b : Reg) (s : State) (t : Task) : State × List Job :=
  let num := chanNum (t.x a)
  if chanBad (t.x a) then s.trapAt t .illegalOp 0
  else match s.openChan t num with
    | (s, .error e) => s.chanErr t i num e
    | (s, .ok c) =>
      match c.pushBad t.handle word with
      | some sub => s.trapAt t .channelMisuse (misuseSub sub num)
      | none =>
        match t.pushData with
        | some e => s.pushWait t i c e
        | none =>
          let xb := (t.x b).toNat
          if c.size ≤ 8 then
            if t.crec.rohint then s.trapAt t .perm 0 else s.pushWait t i c (natBytes c.size xb)
          else match t.elementTrap xb c.size with
            | some tr => s.trapAt t tr 0
            | none =>
              if t.crec.rohint then s.trapAt t .perm 0
              else if t.nestTouches true xb c.size then (s.putTask (t.block i), [])
              else s.pushWait t i c (s.scratchRead t xb c.size)

/-- The register that a pop or peek gives. -/
def Chan.lowWord (c : Chan) (e : Entry) : Word := BitVec.ofNat 64 (ofLeBytes (e.data.take (min c.size 8)))

/-- `ch.pop` (R268, R277). -/
def popBody (i : Instr) (word : Bool) (d a b : Reg) (s : State) (t : Task) : State × List Job :=
  let num := chanNum (t.x a)
  let xb := (t.x b).toNat
  if chanBad (t.x a) then s.trapAt t .illegalOp 0
  else match s.openChan t num with
    | (s, .error e) => s.chanErr t i num e
    | (s, .ok c) =>
      match c.popBad t.handle (some word) with
      | some sub => s.trapAt t .channelMisuse (misuseSub sub num)
      | none =>
        let store := c.size ≥ 16 && b ≠ 0
        match (if store then t.elementTrap xb c.size else none) with
        | some tr => s.trapAt t tr 0
        | none =>
          match c.next with
          | none => (s.putTask (t.block i), [])
          | some e =>
            if store && t.nestTouches true xb c.size then (s.putTask (t.block i), [])
            else
              let s := s.putChan (c.popNext t.handle)
              let s := if store then s.scratchWrite t xb e.data else s
              (s.putTask ((s.noticePopped (t.setX d (c.lowWord e)) e).advance 4), [])

/-- `ch.peek` (R277). -/
def peekBody (d a : Reg) (s : State) (t : Task) : State × List Job :=
  let i := Instr.chPeek d a
  let num := chanNum (t.x a)
  if chanBad (t.x a) then s.trapAt t .illegalOp 0
  else match s.openChan t num with
    | (s, .error e) => s.chanErr t i num e
    | (s, .ok c) =>
      match c.popBad t.handle none with
      | some sub => s.trapAt t .channelMisuse (misuseSub sub num)
      | none => match c.next with
        | none => (s.putTask (t.block i), [])
        | some e => (s.putTask ((t.setX d (c.lowWord e)).advance 4), [])

/-- `ch.push.w` (R277). -/
def execChPushW (a b : Reg) (s : State) : Out :=
  issueTask (.chPushW a b) 2 noTrap (pushBody (.chPushW a b) true a b) s

/-- `ch.push.d` (R277). -/
def execChPushD (a b : Reg) (s : State) : Out :=
  issueTask (.chPushD a b) 2 noTrap (pushBody (.chPushD a b) false a b) s

/-- `ch.pop.w` (R277). -/
def execChPopW (d a : Reg) (s : State) : Out :=
  issueTask (.chPopW d a) 2 noTrap (popBody (.chPopW d a) true d a 0) s

/-- `ch.pop.d` (R277). -/
def execChPopD (d a b : Reg) (s : State) : Out :=
  issueTask (.chPopD d a b) 2 noTrap (popBody (.chPopD d a b) false d a b) s

/-- `ch.peek` (R277). -/
def execChPeek (d a : Reg) (s : State) : Out := issueTask (.chPeek d a) 1 noTrap (peekBody d a) s

/-! ### Opening (R264–R266, R276) -/

/-- Why a channel is not opened: a code that is written to xD, or a trap (R276, R363). -/
inductive OpenErr where
  | code (k : Nat)
  | trap (c : Trap)
deriving DecidableEq, Repr

/-- How an access to a spill list, or to a page it names, fails: code 3, or HOST for a window whose link is down (R276, R363). -/
def listErr (host : Bool) : OpenErr := if host then .trap .host else .code 3

/-- The pages of a spill list of `n` doublewords at `va`: their physical addresses, when the list lies on ordinary
pages and each entry is an aligned page of the CH class. The list is read in class `cls` (R203). -/
def State.spillPages (s : State) (d ctx cls : Nat) : Nat → Nat → State × Except OpenErr (List Nat)
  | _, 0 => (s, .ok [])
  | va, n + 1 =>
    match s.access d ctx va .load with
    | (s, .error e) => (s, .error (listErr (e == .host)))
    | (s, .ok (pa, e)) =>
      if e.io then (s, .error (.code 3))
      else
        let s := s.touch d pa cls
        let page := s.natAt pa 8
        match s.translate d ctx page with
        | (s, .error e) => (s, .error (listErr (e == .host)))
        | (s, .ok p) =>
          if page % 4096 ≠ 0 || !p.ch then (s, .error (.code 3))
          else if !s.reaches (p.phys page) then (s, .error (listErr (s.linkDown (p.phys page))))
          else match s.spillPages d ctx cls (va + 8) n with
            | (s, .error e) => (s, .error e)
            | (s, .ok l) => (s, .ok (p.phys page :: l))

/-- The lines of a slice that may still hold channel slots under class 15's mask: awake, not gated, free of slots (R206;
log entry 18). -/
def Slice.freeSlots (x : Slice) : List (Nat × Nat) :=
  ((List.range 16).filter ((x.masks.getD 15 0).getLsbD ·)).flatMap fun w =>
    ((List.range 64).filter fun i => x.usable i w).map fun i => (i, w)

/-- Put channel slots into lines of a slice; what those lines held leaves. -/
def Slice.addSlots (x : Slice) (l : List (Nat × Nat)) : Slice :=
  { x with ways := x.ways.filter (fun y => !l.contains (y.set, y.way)), slotWays := x.slotWays ++ l }

/-- A CLOSED channel becomes OPEN for a task of class `cls`, or what refuses it (R276). -/
def State.makeChan (s : State) (d ctx cls num pa : Nat) : State × Except OpenErr Chan :=
  let w (k : Nat) : Nat := s.natAt (pa + 8 * k) 8
  let esize := bitsOf (w 0) 2 0
  let cap := bitsOf (w 0) 15 4 + 1
  let len := bitsOf (w 0) 31 20
  let budget := bitsOf (w 0) 47 32
  let die := bitsOf (w 2) 1 0
  let cluster := bitsOf (w 2) 8 2
  let slice := bitsOf (w 2) 10 9
  if esize > 5 || budget > len || w 1 % 8 ≠ 0 || !(s.die die).has cluster then (s, .error (.code 3))
  else match s.spillPages d ctx cls (w 1) len with
    | (s, .error e) => (s, .error e)
    | (s, .ok pages) =>
      let need := (cap * (4 * 2 ^ esize) + 127) / 128
      let x := s.slice die cluster slice
      if x.freeSlots.length < need then (s, .error (.code 4))
      else
        let slots := x.freeSlots.take need
        let c : Chan :=
          { ctx := ctx, num := num, state := .opened, esize := esize, cap := cap, len := len, budget := budget,
            grown := 0, list := BitVec.ofNat 64 (w 1), rdie := die, rcluster := cluster, rslice := slice,
            remote := false, rdir := false, peer := 0, far := 0, port := 0, head := 0, tail := 0, pages := pages,
            slots := slots, writer := 0, reader := 0, entries := [], closing := false, unbinding := false,
            frozen := false, credit := 0, granted := 0 }
        ({ s.setSlice (x.addSlots slots) with channels := s.channels ++ [c] }, .ok c)

/-- Claim a side of a channel: the code of R276. A task that holds the side gets 0 whatever the state; the side where a link
works is free unless a task holds it (R266). -/
def State.claim (s : State) (c : Chan) (h : Word) (side : Bool) : State × Nat :=
  let cur := if side then c.reader else c.writer
  if cur == h then (s, 0)
  else if c.state == .broken then (s, 5)
  else if cur ≠ 0 then (s, 1)
  else (s.putChan (if side then { c with reader := h } else { c with writer := h }), 0)

/-- `ch.open` (R276). -/
def execChOpen (d a : Reg) (s : State) : Out :=
  let i := Instr.chOpen d a
  issueTask i 1 noTrap (fun s t =>
    let num := chanNum (t.x a)
    let give (s : State) (k : Nat) : State × List Job := (s.putTask ((t.setX d (BitVec.ofNat 64 k)).advance 4), [])
    if chanBad (t.x a) then s.trapAt t .illegalOp 0
    else match s.cte t num with
      | (s, .error e) => s.chanErr t i num e
      | (s, .ok none) => give s 2
      | (s, .ok (some pa)) =>
        match s.chan? t.crec.ctx num with
        | some c => let (s, k) := s.claim c t.handle (chanSide (t.x a)); give s k
        | none => match s.makeChan t.die t.crec.ctx t.crec.cls num pa with
          | (s, .error (.code k)) => give s k
          | (s, .error (.trap c)) => s.trapAt t c 0
          | (s, .ok c) => let (s, k) := s.claim c t.handle (chanSide (t.x a)); give s k) s

/-- `ch.close` (R278): the release is held until commit. -/
def execChClose (d a : Reg) (s : State) : Out :=
  let i := Instr.chClose d a
  issueTask i 1 noTrap (fun s t =>
    let num := chanNum (t.x a)
    let side := chanSide (t.x a)
    if chanBad (t.x a) then s.trapAt t .illegalOp 0
    else match s.cte t num with
      | (s, .error e) => s.chanErr t i num e
      | (s, .ok none) => s.chanErr t i num (.misuse 1)
      | (s, .ok (some _)) =>
        let ok : Bool := match s.chan? t.crec.ctx num with
          | some c => c.state == .broken || (if side then c.reader else c.writer) == t.handle
          | none => false
        if ok then (s.putTask (({ t with closes := t.closes ++ [(num, side)] }.setX d 0).advance 4), [])
        else (s.putTask ((t.setX d 1).advance 4), [])) s

/-- The status word of a channel (R279). -/
def Chan.status (c : Chan) : Nat :=
  (c.entries.filter fun e => e.tent.isNone).length % 2 ^ 32 + 2 ^ 32 * (c.usedPages.length % 2 ^ 16) +
  2 ^ 48 * c.state.code + (if c.writer ≠ 0 then 2 ^ 51 else 0) + (if c.reader ≠ 0 then 2 ^ 52 else 0) +
  (if c.remote then 2 ^ 53 else 0)

/-- `ch.stat` (R279). -/
def execChStat (d a : Reg) (s : State) : Out :=
  let i := Instr.chStat d a
  issueTask i 1 noTrap (fun s t =>
    let num := chanNum (t.x a)
    let give (s : State) (v : Word) : State × List Job := (s.putTask ((t.setX d v).advance 4), [])
    if chanBad (t.x a) then s.trapAt t .illegalOp 0
    else match s.cte t num with
      | (s, .error e) => s.chanErr t i num e
      | (s, .ok none) => give s (BitVec.allOnes 64)
      | (s, .ok (some _)) => match s.chan? t.crec.ctx num with
        | some c => give s (BitVec.ofNat 64 c.status)
        | none => give s 0) s

/-! ### Peers (R274, R278, R280) -/

/-- Bind a channel to its peer: the far channel of an outbound one grants credit for entries, none of which has been forwarded to it; an
inbound one grants its far writer all the room it has (R274). -/
def Chan.bind (c : Chan) (peer far : BitVec 16) (port : BitVec 4) (rdir : Bool) (credit : Nat) : Chan :=
  { c with remote := true, rdir := rdir, peer := peer, far := far, port := port, credit := if rdir then 0 else credit,
           granted := if rdir then c.capacity - c.entries.length else 0,
           entries := c.entries.map fun e => { e with sent := false } }

/-- A channel loses its link side: what was forwarded and not acknowledged has not left (R274, R278). An unbind of its own stays
outstanding. -/
def Chan.unbind (c : Chan) : Chan :=
  { c with remote := false, credit := 0, granted := 0, entries := c.entries.map fun e => { e with sent := false } }

/-- Whether the side that a link would take is free on an OPEN channel (R280). -/
def Chan.bindable (c : Chan) (rdir : Bool) : Bool :=
  c.state == .opened && !c.remote && !c.unbinding && (if rdir then c.writer else c.reader) == 0

/-- The peer's answer to a handshake, with the credit it grants: a port that is not trained reaches nobody (R274, R280; log
entry 17). -/
def State.peerAnswer (s : State) (port : BitVec 4) : State × Option Nat :=
  if !s.ualTrained.getLsbD port.toNat then (s, none)
  else match s.peerAnswers with
    | b :: r => ({ s with peerAnswers := r }, b)
    | [] => (s, none)

/-- `ch.bind` (R280). -/
def execChBind (d a b : Reg) (s : State) : Out :=
  let i := Instr.chBind d a b
  issueTask i 1 noTrap (fun s t =>
    let num := chanNum (t.x a)
    let xb := t.x b
    let rdir := xb.getLsbD 36
    let port : BitVec 4 := BitVec.ofNat 4 (wbits xb 35 32)
    let give (s : State) (k : Nat) : State × List Job := (s.putTask ((t.setX d (BitVec.ofNat 64 k)).advance 4), [])
    match s.systemErr t.crec.ctx with
    | some c => s.trapAt t c 0
    | none =>
    if chanBad (t.x a) || wbits xb 63 37 ≠ 0 then s.trapAt t .illegalOp 0
    else match s.cte t num with
      | (s, .error e) => s.chanErr t i num e
      | (s, .ok none) => s.chanErr t i num (.misuse 1)
      | (s, .ok (some _)) => match s.chan? t.crec.ctx num with
        | none => give s 1
        | some c =>
          if !c.bindable rdir then give s 1
          else
            let peer := BitVec.ofNat 16 (wbits xb 15 0)
            let far := BitVec.ofNat 16 (wbits xb 31 16)
            let s : State := { s with out := s.out ++ [.bindRequest t.crec.ctx num peer far port rdir (c.bind peer far port rdir 0).granted] }
            match s.peerAnswer port with
            | (s, some n) => give (s.putChan (c.bind peer far port rdir n)) 0
            | (s, none) => give s 2) s

/-- CHANNEL_FORWARD (R274): the oldest entry not yet forwarded goes to the peer, if the far channel grants credit. -/
def execChannelForward (ctx num : Nat) (s : State) : Out :=
  match s.chan? ctx num with
  | none => .next s
  | some c =>
    if c.state != .opened || !c.remote || c.rdir || c.frozen || c.credit = 0 then .next s
    else
      let rec mark : List Entry → List Entry
        | [] => []
        | e :: r => if e.sent then e :: mark r else { e with sent := true } :: r
      match c.entries.find? fun e => !e.sent with
      | none => .next s
      | some e => .next { s.putChan { c with entries := mark c.entries, credit := c.credit - 1 } with
          out := s.out ++ [.forward ctx num e.data] }

/-- What an acknowledgement of its oldest entry leaves of an outbound channel; a message that only grants credit acknowledges none
(R274). -/
def Chan.acked (c : Chan) (ack : PeerAck) : Chan :=
  let c : Chan := { c with credit := c.credit + ack.credit }
  match c.entries with
  | e :: r => if ack.entry && e.sent then Chan.refill { c with entries := r, head := c.head + 1 } else c
  | [] => c

/-- CHANNEL_PEER_ACK (R274, R278): the oldest forwarded entry leaves, the far channel grants further credit, and a closing channel is
checked again. -/
def execChannelPeerAck (ctx : Nat) (ack : PeerAck) (s : State) : Out :=
  match s.chan? ctx ack.num with
  | none => .next s
  | some c =>
    if c.remote && !c.rdir then
      let s := (s.zeroPages c (c.acked ack)).putChan (c.acked ack)
      .next (if c.closing then s.tryClose ctx ack.num else s)
    else .next s

/-- LINK_FAILURE (R274): the channels bound over a port become BROKEN, those that wait for an unbind's acknowledgement among them. -/
def execLinkFailure (die port : Nat) (s : State) : Out :=
  s.onDie die fun s _ =>
    ({ s with ualTrained := s.ualTrained &&& ~~~(1#16 <<< port), ualAtomics := s.ualAtomics &&& ~~~(1#16 <<< port),
              channels := s.channels.map fun (c : Chan) =>
                if (c.remote || c.unbinding) && c.port.toNat == port then { c with state := .broken } else c }, [])

/-- PEER_UNBIND (R278): an unbind ends the link side and is acknowledged; the acknowledgement of an own unbind ends it too, and the
channel closes. DEDUCED: a channel on which a side was claimed or an entry pushed meanwhile no longer meets the condition, and stays OPEN
(log entry 77). -/
def execPeerUnbind (ctx num : Nat) (ack : Bool) (s : State) : Out :=
  match s.chan? ctx num with
  | none => .next s
  | some c =>
    if ack then
      if !c.unbinding then .next s
      else
        let c' : Chan := { c.unbind with unbinding := false }
        .next (if s.canClose c' then s.closeChan c' else s.putChan c')
    else if c.remote then .next { s.putChan c.unbind with out := s.out ++ [.unbindAck ctx num] }
    else .next s

/-- PEER_BIND_HANDSHAKE (R280): a peer asks to bind a local channel, with the credit that the far channel grants. -/
def execPeerBindHandshake (ctx num : Nat) (peer far : BitVec 16) (port : BitVec 4) (offer : PeerOffer)
    (s : State) : Out :=
  match s.chan? ctx num with
  | some c =>
    if c.bindable offer.inbound then
      let c := c.bind peer far port offer.inbound offer.credit
      .next { s.putChan c with out := s.out ++ [.bindReply ctx num true c.granted] }
    else .next { s with out := s.out ++ [.bindReply ctx num false 0] }
  | none => .next { s with out := s.out ++ [.bindReply ctx num false 0] }

/-! ### Waits that end (R267, R268) -/

/-- Whether the thread of a task waits in an instruction and may go on. -/
def Task.waiting (t : Task) : Option Instr := if t.paid && t.gate == .running && !t.threadFrozen then t.wait else none

/-- CHANNEL_PUSH_RELEASE (R267): a push that waited proceeds. -/
def execChannelPushRelease (h : Word) (s : State) : Out :=
  s.onTask h fun s t => match t.waiting with
    | some (.chPushW a b) => pushBody (.chPushW a b) true a b s t
    | some (.chPushD a b) => pushBody (.chPushD a b) false a b s t
    | _ => (s, [])

/-- CHANNEL_POP_RELEASE (R268): a pop or peek that waited proceeds. -/
def execChannelPopRelease (h : Word) (s : State) : Out :=
  s.onTask h fun s t => match t.waiting with
    | some (.chPopW d a) => popBody (.chPopW d a) true d a 0 s t
    | some (.chPopD d a b) => popBody (.chPopD d a b) false d a b s t
    | some (.chPeek d a) => peekBody d a s t
    | _ => (s, [])

end Sys2Proof.Machine
end

