-- ==== Sys2Proof/Machine/Cu.lean ====
section
/-! DEFINITION. Compute units outside fibre mode: operands, stages, lane reductions, blocks, record operations, order
nodes, rnodes and portals (R164–R188, R303–R312). -/

namespace Sys2Proof.Machine

open Sys2Proof

/-! ### One stage (R166–R182) -/

/-- A mask bit. -/
def bit16 (m : BitVec 16) (i : Nat) : Bool := m.getLsbD i

/-- The mask of the lanes that satisfy a condition. -/
def maskOf (f : Nat → Bool) : BitVec 16 :=
  (List.range 16).foldl (fun m i => if f i then m ||| (1#16 <<< i) else m) 0

/-- A record with no lane (R166). -/
def LinkRec.none : LinkRec := { v := List.replicate 16 0, m := 0, a := 0, t := 0, p := 0 }

/-- What a stage reads: the record of each taken port, the result of the stage before, its accumulator. -/
structure StageIn where
  port : Nat → LinkRec
  prev : LinkRec
  acc : List Lane

/-- The values of operand `j` of stage `k` in the sixteen lanes (R166). -/
def stageOperand (v : BitVec 240) (k j : Nat) (x : StageIn) : List Lane :=
  let sel := cuSel v k j
  if sel < 4 then (x.port sel).v
  else if sel = 4 then x.prev.v
  else if sel = 5 then List.replicate 16 (immValue (opFmt (cuOp v k) j) (cuImm v k))
  else if sel = 6 then x.acc
  else List.replicate 16 0

/-- Whether a stage reads operand `j` as a record, by a select of 0–4 (R168). A lane reduction reads operand a only (R178). -/
def readsRecord (v : BitVec 240) (k j : Nat) : Bool :=
  let op := cuOp v k
  (if laneReduction op (cuSel v k 2) then j == 0 else stageReads op (cuImm v k) j) && cuSel v k j ≤ 4

/-- The records that stage `k` reads among some operands, in operand order (R168). -/
def recordsOf (v : BitVec 240) (k : Nat) (x : StageIn) (js : List Nat) : List LinkRec :=
  (js.filter (readsRecord v k)).map fun j => if cuSel v k j = 4 then x.prev else x.port (cuSel v k j)

/-- The records that stage `k` reads (R168). -/
def stageRecords (v : BitVec 240) (k : Nat) (x : StageIn) : List LinkRec := recordsOf v k x [0, 1, 2]

/-- The lanes that some records have in both M and A (R168). -/
def performed (l : List LinkRec) : BitVec 16 := l.foldl (fun m r => m &&& r.m &&& r.a) (BitVec.allOnes 16)

/-- What a stage gives: its result, the accumulator after it, its flags. -/
structure StageOut where
  res : LinkRec
  acc : List Lane
  flags : Flags

/-- The block operations `bdot` (R179): sums, mask and flags from the lanes performed in a and b. -/
def bdotStage (m : Nat) (sat : Bool) (perf : BitVec 16) (a b c : List Lane) : List Lane × BitVec 16 × Flags :=
  let n := 16 / m
  let r := (List.range 16).map fun j =>
    if j ≥ n then ((0 : Lane), (0 : Flags))
    else
      let cj := c.getD j 0
      if (List.range m).all fun i => bit16 perf (m * j + i) then
        satInt sat (cj.toInt + blockProduct m ((a.drop (m * j)).take m) ((b.drop (m * j)).take m))
      else (cj, 0)
  (r.map Prod.fst, maskOf (· < n), r.foldl (fun f p => f ||| p.2) 0)

/-- `bquant` (R180). -/
def bquantStage (m : Nat) (rm : BitVec 2) (perf : BitVec 16) (a b : List Lane) : List Lane × BitVec 16 × Flags :=
  let vs := (List.range 32).map fun i =>
    if bit16 perf (i % 16) then (if i < 16 then a else b).getD (i % 16) 0 else (0 : Lane)
  let (e, ms, f) := bquantOf m rm vs
  let ws := packBlock m ms
  ((List.range 16).map fun j => if j < m then ws.getD j 0 else if j = 15 then BitVec.ofNat 32 e else 0,
   maskOf fun j => j < m || j = 15, f)

/-- One stage (R166–R182). A stage writes its accumulator in the lanes it performs; a lane reduction performs lane 0,
and a block operation the lanes of its result (log entry 24). -/
def cuStage (ftz : Bool) (v : BitVec 240) (k : Nat) (x : StageIn) : StageOut :=
  let op := cuOp v k
  let rm := cuRm v k
  let sat := cuSat v k
  let a := stageOperand v k 0 x
  let b := stageOperand v k 1 x
  let c := stageOperand v k 2 x
  let rs := stageRecords v k x
  let m := rs.foldl (fun m r => m &&& r.m) (BitVec.allOnes 16)
  let act := rs.foldl (fun m r => m &&& r.a) (BitVec.allOnes 16)
  let perf := m &&& act
  let t := (rs.head?.map LinkRec.t).getD 0
  let p := (rs.head?.map LinkRec.p).getD 0
  let keep (perf : BitVec 16) (l : List Lane) : List Lane :=
    if cuAcc v k then (List.range 16).map fun i => if bit16 perf i then l.getD i 0 else x.acc.getD i 0 else x.acc
  if laneReduction op (cuSel v k 2) then
    let (r, f) := laneTree (fun y z => nodeOp op rm sat ftz 0 y z 0)
      ((List.range 16).map fun i => if bit16 perf i then some (a.getD i 0) else none)
    match r with
    | some w =>
      let l := reducedLane op w :: a.drop 1
      { res := { v := l, m := 1, a := 1, t := t, p := p }, acc := keep 1 l, flags := f }
    | none => { res := { v := a, m := 0, a := 0, t := t, p := p }, acc := x.acc, flags := f }
  else if 0x50 ≤ op && op ≤ 0x56 then
    let (l, mk, f) := bdotStage (op - 0x4E) sat (performed (recordsOf v k x [0, 1])) a b c
    { res := { v := l, m := mk, a := mk, t := t, p := p }, acc := keep mk l, flags := f }
  else if 0x57 ≤ op && op ≤ 0x5D then
    let (l, mk, f) := bquantStage (op - 0x55) rm perf a b
    { res := { v := l, m := mk, a := mk, t := t, p := p }, acc := keep mk l, flags := f }
  else
    let l := (List.range 16).map fun i =>
      if !bit16 perf i then (a.getD i 0, (0 : Flags))
      else if op = 0x5E then scacc rm (a.getD i 0) (b.getD i 0) (c.getD i 0) (x.acc.getD i 0)
      else nodeOp op rm sat ftz (cuImm v k) (a.getD i 0) (b.getD i 0) (c.getD i 0)
    let vs := l.map Prod.fst
    { res := { v := vs, m := m, a := act, t := t, p := p }, acc := keep perf vs,
      flags := l.foldl (fun f q => f ||| q.2) 0 }

/-! ### Record operations (R183–R188) -/

/-- `filter` (R184): what leaves on out0 and on out1. -/
def filterOut (imm : Nat) (a : LinkRec) (b : List Lane) : LinkRec × LinkRec :=
  let pred : BitVec 16 :=
    if imm % 2 = 0 then maskOf fun i => b.getD i 0 ≠ 0
    else if a.t.toNat = bitsOf imm 15 8 then BitVec.allOnes 16 else 0
  ({ a with m := a.m &&& pred, a := a.a &&& pred }, { a with m := a.m &&& ~~~pred, a := a.a &&& ~~~pred })

/-- `exit` (R187): the record, and whether it leaves the loop. -/
def exitOut (a : LinkRec) (b : List Lane) : LinkRec × Bool :=
  let r := { a with a := a.a &&& ~~~(maskOf fun i => b.getD i 0 ≠ 0) }
  if r.a = 0 then ({ r with a := r.m, p := 0 }, true) else (r, false)

/-- `merge` in recombine mode (R185). -/
def recombine (a b : LinkRec) : LinkRec :=
  { v := (List.range 16).map fun i => if bit16 a.m i then a.v.getD i 0 else b.v.getD i 0, m := a.m ||| b.m,
    a := a.a ||| b.a, t := a.t, p := a.p }

/-- What a unit emits: a record for each output port named. -/
def Task.emit (t : Task) (c : Nat) : List (Nat × Item) → Option Task
  | [] => some t
  | (n, x) :: r => match t.place (t.outDests c n) x with
    | none => none
    | some t => t.emit c r

/-- The records at the heads of a unit's input ports. -/
def Task.portHead (t : Task) (c n : Nat) : Option LinkRec := (t.head (.cell c (5 + n))).map Item.asRecord

/-- Take the heads of some input ports. -/
def Task.takePorts (t : Task) (c : Nat) (ps : List Nat) : Task := ps.foldl (fun t n => t.take (.cell c (5 + n))) t

/-- The four stages on the records of the taken ports: results, accumulators, flags. Stage `k0` is where a record
operation gives `first` as its result. -/
def runStages (ftz : Bool) (v : BitVec 240) (acc : List (List Lane)) (port : Nat → LinkRec) (first : Option LinkRec) :
    List LinkRec × List (List Lane) × Flags :=
  (List.range 4).foldl (fun (st : List LinkRec × List (List Lane) × Flags) k =>
    let x : StageIn := { port := port, prev := st.1.getLastD LinkRec.none, acc := acc.getD k [] }
    let o := cuStage ftz v k x
    let o := match first with
      | some r => if k = 0 then { o with res := r, flags := 0 } else o
      | none => o
    let o := if cuOp v k = 0x74 then
        match stageRecords v k x with
        | r :: _ => { o with res := { r with v := stageOperand v k 0 x, t := BitVec.ofNat 8 (cuImm v k % 256) } }
        | [] => { o with res := { o.res with t := BitVec.ofNat 8 (cuImm v k % 256) } }
      else o
    (st.1 ++ [o.res], st.2.1 ++ [o.acc], st.2.2 ||| o.flags)) ([], [], 0)

/-- What leaves on the enabled outputs, given the stages' results (R164, R184, R187). -/
def cuEmits (v : BitVec 240) (port : Nat → LinkRec) (acc : List (List Lane)) (res : List LinkRec) : List (Nat × Item) :=
  let last := (List.range 4).foldl (fun b k => if cuOp v k = 0x70 || cuOp v k = 0x73 then some k else b) none
  match last with
  | none => (cuOuts v).map fun n => (n, .record (res.getD (cuOutSrc v n) LinkRec.none))
  | some k =>
    let x : StageIn := { port := port, prev := if k = 0 then LinkRec.none else res.getD (k - 1) LinkRec.none,
                         acc := acc.getD k [] }
    let b := stageOperand v k 1 x
    let a : LinkRec := match (if cuSel v k 0 < 4 then some (port (cuSel v k 0))
        else if cuSel v k 0 = 4 then some x.prev else none) with
      | some r => r
      | none => { v := stageOperand v k 0 x, m := BitVec.allOnes 16, a := BitVec.allOnes 16, t := 0, p := 0 }
    if cuOp v k = 0x70 then
      let (r0, r1) := filterOut (cuImm v k) a b
      [(0, .record r0), (1, .record r1)]
    else
      let (r, leaves) := exitOut a b
      if leaves then [(0, .record r)] else [(1, .record r)]

/-- Complete one firing: the taken ports, what leaves, accumulators and flags. -/
def Task.fired (t : Task) (x : Cell) (v : BitVec 240) (taken : List Nat) (first : Option LinkRec) : Option Task :=
  let port (n : Nat) : LinkRec :=
    if taken.contains n then (t.portHead x.idx n).getD LinkRec.none else LinkRec.none
  let (res, acc, fl) := runStages t.crec.ftz v x.acc port first
  if !((cuOuts v).all fun n => (t.outDests x.idx n).all t.room) then none
  else
    let t := (t.takePorts x.idx taken).flag fl
    match t.cell? x.idx with
    | none => none
    | some y => (t.putCell { y with acc := acc }).emit x.idx (cuEmits v port x.acc res)

/-- A firing that faults: the beat is the last of its task, once it is known that the firing takes place (R164). -/
def Task.breakBeat (t : Task) (c : Trap) (sub addr : Nat) : Task :=
  { t with beatFault := some (t.beatFault.getD (c, sub, addr)) }

/-- What the next firing of an ordinary unit, a `merge` or a `recirc` takes: the ports served, and the record that a `merge` or a `recirc`
gives its stage 0 (R164, R185, R186); none while it has not what it needs. DESIGN CHOICE (log entry 67): P has 16 bits and `r.P + 1`
wraps, so a pass bound above 65,535 is never reached; the spec does not say what P does past 65,535. -/
def Task.cuNext (t : Task) (x : Cell) (v : BitVec 240) : Option (List Nat × Option LinkRec) :=
  let a := cuSel v 0 0
  let b := cuSel v 0 1
  let ha := t.portHead x.idx a
  let hb := t.portHead x.idx b
  if cuOp v 0 = 0x71 then
    match cuImm v 0 % 4 with
    | 0 => match ha, hb with
      | some p, some q => some ([a, b], some (recombine p q))
      | _, _ => none
    | 1 => if x.turn then hb.map fun r => ([b], some r) else ha.map fun r => ([a], some r)
    | _ => match ha, hb with
      | some r, _ => some ([a], some r)
      | none, some r => some ([b], some r)
      | none, none => none
  else if cuOp v 0 = 0x72 then
    match hb, ha with
    | some r, _ => some ([b], some { r with p := r.p + 1 })
    | none, some r => some ([a], some { r with p := 1, a := r.m })
    | none, none => none
  else if (cuIns v).isEmpty || (cuIns v).any (fun n => (t.portHead x.idx n).isNone) then none
  else some (cuIns v, none)

/-- Whether the back edge of a `recirc` holds a record at the pass bound (R186). -/
def Task.passesOut (t : Task) (x : Cell) (v : BitVec 240) : Bool :=
  cuOp v 0 = 0x72 && match t.portHead x.idx (cuSel v 0 1) with
    | some r => r.p.toNat ≥ cuImm v 0
    | none => false

/-- A firing of an ordinary unit, a `merge` or a `recirc` (R164, R185, R186). A record at the pass bound faults before anything is emitted
or a stage runs. -/
def Task.cuFire (t : Task) (x : Cell) (v : BitVec 240) : Except Stop Task :=
  if t.passesOut x v then
    if (cuOuts v).all fun n => (t.outDests x.idx n).all t.room then
      .ok ((t.takePorts x.idx [cuSel v 0 1]).breakBeat .illegalOp x.idx 0)
    else .error .idle
  else match t.cuNext x v with
    | none => .error .idle
    | some (taken, first) =>
      let t := if cuOp v 0 = 0x71 && cuImm v 0 % 4 = 1 then t.putCell { x with turn := !x.turn } else t
      match t.fired x v taken first with
      | some t => .ok t
      | none => .error .idle

/-! ### Order nodes (R305–R308) -/

/-- `pmt.enter` (R306). -/
def Task.pmtEnter (t : Task) (x : Cell) (v : BitVec 240) : Except Stop Task :=
  let a := cuSel v 0 0
  let b := cuSel v 0 1
  let back := (t.portHead x.idx b).isSome
  if back && x.permits ≥ 255 then .error (.fault .illegalOp x.idx t.openGo)
  else
    let t1 := if back then (t.takePorts x.idx [b]) else t
    let c := if back then x.permits + 1 else x.permits
    let pass := match t1.portHead x.idx a with
      | some r => if c > 0 then (t1.takePorts x.idx [a]).emit x.idx [(0, .record r)] else none
      | none => none
    let put (t : Task) (c : Nat) : Task := match t.cell? x.idx with
      | some y => t.putCell { y with permits := c }
      | none => t
    match pass with
    | some t2 => .ok (put t2 (c - 1))
    | none => if back then .ok (put t1 c) else .error .idle

/-- `pmt.exit` (R306). -/
def Task.pmtExit (t : Task) (x : Cell) (v : BitVec 240) : Except Stop Task :=
  let a := cuSel v 0 0
  match t.portHead x.idx a with
  | none => .error .idle
  | some r =>
    match (t.takePorts x.idx [a]).emit x.idx [(0, .record r), (1, .record LinkRec.none)] with
    | some t => .ok t
    | none => .error .idle

/-- Iterations and children of a controller (R307). -/
def ctlN (imm : Nat) : Nat := imm % 4096 + 1
def ctlKids (imm : Nat) : Nat := bitsOf imm 14 12 + 1

/-- The next go that a controller may send: child and iteration. -/
def ctlNext (op N n : Nat) (c : CtlState) : Option (Nat × Nat) :=
  let sent (k : Nat) : Nat := c.next.getD k 0
  let back (k : Nat) : Nat := sent k - (if c.await.getD k false then 1 else 0)
  if op = 0x82 then
    let p := c.next.foldl (· + ·) 0
    if c.await.any id || p ≥ N * n then none else some (p % n, p / n)
  else if op = 0x83 then
    ((List.range n).find? fun k => sent k < N && !c.await.getD k false && (k = 0 || back (k - 1) > sent k)).map
      fun k => (k, sent k)
  else ((List.range n).find? fun k => sent k = 0).map fun k => (k, 0)

/-- Whether a controller has had every done it waits for. -/
def ctlDone (op N n : Nat) (c : CtlState) : Bool :=
  !c.await.any id &&
  (if op = 0x82 then c.next.foldl (· + ·) 0 = N * n
   else if op = 0x83 then c.next.getD (n - 1) 0 = N
   else c.next.all (· == 1))

/-- A record of a controller: one lane, a tag, a pass count. -/
def ctlRec (v : Nat) (t : BitVec 8) (p : Nat) : LinkRec :=
  { v := BitVec.ofNat 32 v :: List.replicate 15 0, m := 1, a := 1, t := t, p := BitVec.ofNat 16 p }

/-- A controller takes a go while it is idle, or a done that a child owes. -/
def ctlTake (x : Cell) (n : Nat) (ha hb : Option LinkRec) : Except Stop (CtlState × Bool × Bool) :=
  let c := x.ctl
  match c.go, ha, hb with
  | none, some r, none => .ok ({ go := some r, next := List.replicate n 0, await := List.replicate n false }, true, false)
  | none, none, none => .ok (c, false, false)
  | _, _, some d =>
    if c.go.isSome && c.await.getD d.t.toNat false then
      .ok ({ c with await := setAt c.await d.t.toNat false }, false, true)
    else .error (.fault .illegalOp x.idx 0)
  | some _, _, none => .ok (c, false, false)

/-- One beat of a controller (R307): it takes what has come, sends the next go or the done. -/
def Task.ctlBeat (t : Task) (x : Cell) (v : BitVec 240) : Except Stop Task :=
  let op := cuOp v 0
  let imm := cuImm v 0
  let N := ctlN imm
  let n := ctlKids imm
  let a := cuSel v 0 0
  let b := cuSel v 0 1
  match ctlTake x n (t.portHead x.idx a) (t.portHead x.idx b) with
  | .error (.fault c sub _) => .error (.fault c sub t.openGo)
  | .error e => .error e
  | .ok (c, ta, tb) =>
    let t1 := t.takePorts x.idx ((if ta then [a] else []) ++ (if tb then [b] else []))
    let put (t : Task) (c : CtlState) : Task := match t.cell? x.idx with
      | some y => t.putCell { y with ctl := c }
      | none => t
    let send := match c.go with
      | none => none
      | some g =>
        if ctlDone op N n c then
          (t1.emit x.idx [(1, .record (ctlRec N g.t 0))]).map fun t => put t { c with go := none }
        else match ctlNext op N n c with
          | none => none
          | some (k, i) =>
            (t1.emit x.idx [(0, .record (ctlRec (if op = 0x84 then N else i) (BitVec.ofNat 8 k) i))]).map fun t =>
              put t { c with next := modAt c.next k (· + 1), await := setAt c.await k true }
    match send with
    | some t => .ok t
    | none => if ta || tb then .ok (put t1 c) else .error .idle

/-- `bar.node` (R308). -/
def Task.barFire (t : Task) (x : Cell) (v : BitVec 240) : Except Stop Task :=
  if (cuIns v).any (fun n => (t.portHead x.idx n).isNone) then .error .idle
  else match t.portHead x.idx (cuSel v 0 0) with
    | none => .error .idle
    | some r =>
      match (t.takePorts x.idx (cuIns v)).emit x.idx ((cuOuts v).map fun n => (n, .record r)) with
      | some t => .ok t
      | none => .error .idle

/-! ### The rnode (R303) -/

/-- The port of an rnode that may freeze (log entry 25). -/
def rnodePort (c : Nat) : PortId := { kind := 2, place := c, part := 1 }

/-- Hold the reductions of the performed lanes, in rising lane. -/
def State.rnodeLanes (x : Cell) (op : Nat) (base : Nat) (a b : List Lane) (perf : BitVec 16) :
    List Nat → State → Task → Fired
  | [], s, t => .ok (s, t)
  | i :: r, s, t =>
    if !bit16 perf i then State.rnodeLanes x op base a b perf r s t
    else
      let va := ((base : Int) + 4 * (b.getD i 0).toInt) % 2 ^ 64
      match s.holdRed t (x.idx / 64) op va.toNat ((a.getD i 0).setWidth 64) (some x.idx) with
      | (s, .ok t) => State.rnodeLanes x op base a b perf r s (t.gotSpace (rnodePort x.idx))
      | (_, .error e) => .error (.port e (rnodePort x.idx) (x.idx / 64) i 1 0)

/-- A firing of an rnode. -/
def State.rnodeFire (s : State) (t : Task) (x : Cell) (v : BitVec 240) : Fired :=
  if t.portFrozen (rnodePort x.idx) then .error .idle
  else if (cuIns v).isEmpty || (cuIns v).any (fun n => (t.portHead x.idx n).isNone) then .error .idle
  else
    let port (n : Nat) : LinkRec := (t.portHead x.idx n).getD LinkRec.none
    let st : StageIn := { port := port, prev := LinkRec.none, acc := x.acc.getD 0 [] }
    let perf := performed (stageRecords v 0 st)
    let imm := cuImm v 0
    match t.fired x v (cuIns v) none with
    | none => .error .idle
    | some t' =>
      State.rnodeLanes x (imm % 8) ((t.rwin.toList.getD (bitsOf imm 5 3) 0).toNat) (stageOperand v 0 0 st)
        (stageOperand v 0 1 st) perf (List.range 16) s t'

/-! ### Portals (R309–R312) -/

/-- Whether a portal works on 64-bit pairs, and the bytes of its operator. -/
def portalWide (imm : Nat) : Bool := imm % 8 % 2 == 1
def portalBytes (imm : Nat) : Nat := if portalWide imm then 8 else 4

/-- The lanes, or even lanes of pairs, for which a firing issues a request. -/
def portalLanes (imm : Nat) (perf : BitVec 16) : List Nat :=
  if portalWide imm then ((List.range 8).map (2 * ·)).filter fun i => bit16 perf i && bit16 perf (i + 1)
  else (List.range 16).filter (bit16 perf)

/-- The number in a lane, or in a pair with the low half first. -/
def pairValue (imm : Nat) (l : List Lane) (i : Nat) : Word :=
  if portalWide imm then (l.getD (i + 1) 0) ++ (l.getD i 0) else (l.getD i 0).setWidth 64

/-- A portal's window, if it is enabled for the task's context. -/
def State.portalWindow (s : State) (t : Task) (op imm : Nat) : Option PWin :=
  let w := (s.die t.die).pwin.getD (bitsOf imm 7 4) PWin.reset
  if w.en && w.ctx.toNat == t.crec.ctx && w.ual == (op == 0x91) then some w else none

/-- Requests outstanding at a portal. -/
def Cell.outstanding (x : Cell) : Nat := x.portal.foldl (fun n f => n + f.waiting.length) 0

/-- Issue the requests of some lanes one by one in rising order, up to the first lane that faults (R311, R312): the requests with
identity and lane, and that lane's trap and subcode. A peer portal's requests leave on its window's UALink port. -/
def portalIssue (x : Cell) (t : Task) (imm : Nat) (w : Option PWin) (a b c : List Lane) (op : Nat) :
    List Nat → Nat → List (Nat × Nat × Output) × Option (Trap × Nat)
  | [], _ => ([], none)
  | i :: r, id =>
    let off := (a.getD i 0).toNat
    let sub := i + 16 * x.idx
    if off % portalBytes imm ≠ 0 then ([], some (.misalign, sub))
    else match w with
      | none => ([], some (.perm, sub))
      | some win =>
        if off ≥ 2 ^ win.size.toNat then ([], some (.perm, sub))
        else
          let p := portalIssue x t imm w a b c op r (id + 1)
          ((id, i, .portal t.handle x.idx id (imm % 8) (win.base.toNat + off) (pairValue imm b i) (pairValue imm c i)
            (if op = 0x91 then some win.port.toNat else none)) :: p.1, p.2)

/-- The oldest firing of a portal leaves on out0 once all its replies are in, in firing order (R311, R312). -/
def Task.portalOut (t : Task) (x : Cell) (v : BitVec 240) : Option Task :=
  match x.portal with
  | f :: r =>
    if !f.waiting.isEmpty then none
    else
      let t := t.putCell { x with portal := r }
      if f.out && cuOut v 0 then t.emit x.idx [(0, .record f.item)] else some t
  | [] => none

/-- A firing of a portal (R311): the requests of its performed lanes leave, up to 64 outstanding. With reply = 1 the
result waits for the replies on out0; else operand a leaves now. The requests of the lanes before one that faults have left. -/
def State.portalFire (s : State) (t : Task) (x : Cell) (v : BitVec 240) : Fired :=
  match t.portalOut x v with
  | some t => .ok (s, t)
  | none =>
    if (cuIns v).isEmpty || (cuIns v).any (fun n => (t.portHead x.idx n).isNone) then .error .idle
    else
      let op := cuOp v 0
      let imm := cuImm v 0
      let port (n : Nat) : LinkRec := (t.portHead x.idx n).getD LinkRec.none
      let st : StageIn := { port := port, prev := LinkRec.none, acc := x.acc.getD 0 [] }
      let perf := performed (stageRecords v 0 st)
      let lanes := portalLanes imm perf
      let reply := imm.testBit 3
      if x.outstanding + lanes.length > 64 then .error .idle
      else
        let o := cuStage t.crec.ftz v 0 st
        let outs := (cuOuts v).filter fun n => !(reply && n == 0)
        let (reqs, bad) := portalIssue x t imm (s.portalWindow t op imm) (stageOperand v 0 0 st) (stageOperand v 0 1 st)
          (stageOperand v 0 2 st) op lanes s.nextId
        match (t.takePorts x.idx (cuIns v)).emit x.idx (outs.map fun n => (n, .record o.res)) with
        | none => .error .idle
        | some t =>
          match t.cell? x.idx with
          | none => .error .idle
          | some y =>
            let f : PortalFiring := { item := o.res, waiting := reqs.map fun q => (q.1, q.2.1), out := reply }
            let t := { t.putCell { y with portal := y.portal ++ [f] } with portalReqs := t.portalReqs + reqs.length }
            .ok ({ s with nextId := s.nextId + reqs.length, out := s.out ++ reqs.map fun q => q.2.2 },
              match bad with | some b => t.breakBeat b.1 b.2 t.openGo | none => t)

/-! ### A unit outside fibre mode -/

/-- One beat of a compute unit outside fibre mode. -/
def State.cuBeat (s : State) (t : Task) (x : Cell) (v : BitVec 240) : Fired :=
  let lift (e : Except Stop Task) : Fired := e.map fun t => (s, t)
  match cuOp v 0 with
  | 0x80 => lift (t.pmtEnter x v)
  | 0x81 => lift (t.pmtExit x v)
  | 0x82 => lift (t.ctlBeat x v)
  | 0x83 => lift (t.ctlBeat x v)
  | 0x84 => lift (t.ctlBeat x v)
  | 0x85 => s.rnodeFire t x v
  | 0x86 => lift (t.barFire x v)
  | 0x90 => s.portalFire t x v
  | 0x91 => s.portalFire t x v
  | _ => lift (t.cuFire x v)

end Sys2Proof.Machine
end

