-- ==== Sys2Proof/Machine/Mu.lean ====
section
/-! DEFINITION. Memory-unit streams: read, write, read-write and FIFO (R40, R41, R162, R190, R192, R219, R240). -/

namespace Sys2Proof.Machine

open Sys2Proof

/-- The scratch address of access `i` of a cell's MU. -/
def muAddr (x : Cell) (v : BitVec 240) (i : Nat) : Nat := x.idx * 2 ^ 17 + (muAt v i).toNat

/-- The record read from access `i`: lanes zero-extended, A = M (R59, R162, R190). -/
def State.muRead (s : State) (t : Task) (x : Cell) (v : BitVec 240) (i : Nat) : LinkRec :=
  let w := muLane v
  let n := muLanes v
  let m := maskOf (· < n)
  { v := (List.range 16).map fun j =>
      if j < n then BitVec.ofNat 32 (ofLeBytes (s.scratchRead t (muAddr x v i + j * w) w)) else 0,
    m := m, a := m, t := 0, p := 0 }

/-- Store the present lanes of a record at access `i` (R162, R190). -/
def State.muWrite (s : State) (t : Task) (x : Cell) (v : BitVec 240) (i : Nat) (r : LinkRec) : State :=
  let w := muLane v
  (List.range (muLanes v)).foldl (fun s j =>
    if bit16 r.m j then s.scratchWrite t (muAddr x v i + j * w) (natBytes w (r.v.getD j 0).toNat) else s) s

/-- Whether the stream of an MU meets the switch on a fibre link: its port link, or link 9 for a write. -/
def muTokens (x : Cell) (v : BitVec 240) : Bool :=
  match x.sw with
  | some w => swFibre w (muPort v)
  | none => false

/-- The item that an MU emits for a record. -/
def muItem (fibre : Bool) (r : LinkRec) : Item := if fibre then .token (mkTok 2 (r.v.headD 0)) else .record r

/-- The source pass of an MU moves on by one access; after the last one a record stream's pass ends, and a fibre stream
still owes S0 and D (R190, R240). -/
def Cell.muStep (x : Cell) (fibre : Bool) : Cell :=
  match x.passes with
  | [] => x
  | p :: r =>
    if p.pos + 1 < p.total then { x with passes := { p with pos := p.pos + 1 } :: r }
    else if fibre then { x with passes := { p with pos := p.pos + 1 } :: r, tail := 1 }
    else { x with passes := r }

/-- A read or FIFO stream emits its next item. -/
def State.muSource (s : State) (t : Task) (x : Cell) (v : BitVec 240) : Fired :=
  let fibre := muTokens x v
  let give (x : Cell) (i : Item) : Fired :=
    match (t.putCell x).place (t.dests x.idx 8) i with
    | some t => .ok (s, t)
    | none => .error .idle
  match x.passes with
  | [] => .error .idle
  | p :: r =>
    if !t.launched p then .error .idle
    else if x.tail = 1 then give { x with tail := 2 } (.token (stopTok 0))
    else if x.tail = 2 then give { x with tail := 0, passes := r } (.token doneTok)
    else if p.pos ≥ p.granted then .error .idle
    else if muMode v = 4 then
      if x.fifo.getD x.fifoRd false then
        give ({ x with fifo := setAt x.fifo x.fifoRd false, fifoRd := (x.fifoRd + 1) % muCount v }.muStep fibre)
          (muItem fibre (s.muRead t x v x.fifoRd))
      else .error .idle
    else give (x.muStep fibre) (muItem fibre (s.muRead t x v p.pos))

/-- A record arrives at a write or rw stream (R190): an rw stream first emits what the access held. -/
def State.muRecord (s : State) (t : Task) (x : Cell) (v : BitVec 240) (r : LinkRec) : Fired :=
  let old := s.muRead t x v x.pos
  let s' := s.muWrite t x v x.pos r
  let t1 := t.take (.cell x.idx 9)
  match t1.cell? x.idx with
  | none => .error .idle
  | some y =>
    let t1 := t1.putCell { y with pos := if x.pos + 1 < muCount v then x.pos + 1 else 0 }
    if muMode v = 3 then
      match t1.place (t1.dests x.idx 8) (muItem (muTokens x v) old) with
      | some t => .ok (s', t)
      | none => .error .idle
    else .ok (s', t1)

/-- A token arrives at a write or rw stream (R240). An rw stream passes E, stops and D on (log entry 26). -/
def State.muToken (s : State) (t : Task) (x : Cell) (v : BitVec 240) (k : BitVec 36) : Fired :=
  let bad (sub : Nat) : Fired := .error (malformed sub x.idx 0 false t.openGo)
  let pass (y : Cell) : Fired :=
    let t1 := t.take (.cell x.idx 9)
    match t1.cell? x.idx with
    | none => .error .idle
    | some z =>
      let t1 := t1.putCell { z with pos := y.pos, tail := y.tail }
      if muMode v = 3 then match t1.place (t1.dests x.idx 8) (.token k) with
        | some t => .ok (s, t)
        | none => .error .idle
      else .ok (s, t1)
  let item (p : BitVec 32) : Fired :=
    if x.pos ≥ muCount v then bad 6
    else
      let old := s.muRead t x v x.pos
      let s' := s.muWrite t x v x.pos { LinkRec.none with v := p :: List.replicate 15 0, m := 1, a := 1 }
      let t1 := t.take (.cell x.idx 9)
      match t1.cell? x.idx with
      | none => .error .idle
      | some z =>
        let t1 := t1.putCell { z with pos := x.pos + 1, tail := 1 }
        if muMode v = 3 then match t1.place (t1.dests x.idx 8) (muItem true old) with
          | some t => .ok (s', t)
          | none => .error .idle
        else .ok (s', t1)
  match tokOf k with
  | .c p => item p
  | .f p => item p
  | .v p => item p
  | .e => if x.pos ≥ muCount v then bad 6 else pass { x with pos := x.pos + 1, tail := 1 }
  | .stop _ => pass { x with tail := 1 }
  | .done => pass { x with pos := 0, tail := 0 }
  | .h _ => bad 7
  | .bad => bad 5

/-- What has come to a write or rw stream is taken. -/
def State.muTake (s : State) (t : Task) (x : Cell) (v : BitVec 240) : Fired :=
  match (t.head (.cell x.idx 9)).map Item.body with
  | none => .error .idle
  | some (.record r) => s.muRecord t x v r
  | some (.token k) => s.muToken t x v k

/-- One beat of an MU. -/
def State.muBeat (s : State) (t : Task) (x : Cell) (v : BitVec 240) : Fired :=
  match muMode v with
  | 1 => s.muSource t x v
  | 4 => s.muSource t x v
  | 2 => s.muTake t x v
  | 3 => s.muTake t x v
  | _ => .error .idle

end Sys2Proof.Machine
end

