-- ==== Sys2Proof/Machine/FibreCu.lean ====
section
/-! DEFINITION. Compute units in fibre mode: arithmetic units and join stages, headers, and the checks on token inputs
(R222–R233, R243). -/

namespace Sys2Proof.Machine

open Sys2Proof

/-! ### Inputs of a unit -/

/-- A port's bookkeeping. -/
def Cell.port (x : Cell) (n : Nat) : PortState := x.ports.getD n PortState.fresh
def Cell.setPort (x : Cell) (n : Nat) (p : PortState) : Cell := { x with ports := setAt x.ports n p }

/-- The token at a port: the next one rewound by a reset, or the head of its link; whether it comes from the link. -/
def Task.tokHead (t : Task) (x : Cell) (n : Nat) : Option (BitVec 36 × Bool) :=
  match (x.port n).replay with
  | k :: _ => some (k, false)
  | [] => (t.head (.cell x.idx (5 + n))).map fun i => (i.asToken, true)

/-- What an input accepts besides stops, D and headers: coordinate, reference, value and absent items, on a stream of a
declared depth; `order` 1 for strictly rising coordinates, 2 for non-decreasing ones (R229). -/
structure Accept where
  c : Bool
  f : Bool
  v : Bool
  e : Bool
  depth : Nat
  order : Nat
deriving DecidableEq, Repr

/-- Whether an input accepts an item. -/
def Accept.item (a : Accept) : Tok → Bool
  | .c _ => a.c
  | .f _ => a.f
  | .v _ => a.v
  | .e => a.e
  | .bad => false
  | _ => true

/-- The fault of a token that has just reached an input, if it has one: its tag, the structure, then the order (R223,
R229, R243). DESIGN CHOICE: the order binds C items alone, also at the inputs of `jrepeat` (R230; log entry 79). -/
def Accept.fault (a : Accept) (p : PortState) (k : Tok) : Option Nat :=
  if !a.item k then some 5
  else match p.check a.depth k with
    | .error e => some e
    | .ok _ => match k, p.last with
      | .c y, some x => if a.order = 1 && y ≤ x || a.order = 2 && y < x then some 1 else none
      | _, _ => none

/-- The port after it gives up a token of its link. -/
def Accept.took (a : Accept) (p : PortState) (k : Tok) : PortState :=
  let q := match p.check a.depth k with
    | .ok q => q
    | .error _ => p
  match k with
  | .c y => if a.order = 0 then q else { q with last := some y }
  | .stop _ => { q with last := none }
  | .done => { q with last := none }
  | _ => q

/-- Consume the token at a port; a stop sets the mark to the next token (R228). -/
def Task.consume (t : Task) (c : Nat) (n : Nat) (a : Accept) : Task :=
  match t.cell? c with
  | none => t
  | some x =>
    let p := x.port n
    match t.tokHead x n with
    | none => t
    | some (k, fresh) =>
      let item : Bool := match tokOf k with | .stop _ => false | .done => false | _ => true
      let p' := if fresh then a.took p (tokOf k) else { p with replay := p.replay.drop 1 }
      let p' := { p' with window := if item then p'.window ++ [k] else [] }
      let t := if fresh then t.take (.cell c (5 + n)) else t
      match t.cell? c with
      | none => t
      | some y => t.putCell (y.setPort n p')

/-- Change a cell. -/
def Task.updCell (t : Task) (c : Nat) (f : Cell → Cell) : Task :=
  match t.cell? c with
  | some y => t.putCell (f y)
  | none => t

/-- Rewind a port to its mark (R228). -/
def Task.rewind (t : Task) (c n : Nat) : Task :=
  match t.cell? c with
  | none => t
  | some x =>
    let p := x.port n
    t.putCell (x.setPort n { p with replay := p.window ++ p.replay, window := [] })

/-- A pass of a unit ends: its ports are as before a pass. -/
def Task.endPass (t : Task) (c : Nat) : Task :=
  match t.cell? c with
  | none => t
  | some x => t.putCell { x with ports := List.replicate 4 PortState.fresh, runCoord := none, runValue := none,
                                 count := 0, afterItem := false }

/-- Place a token on every enabled output. -/
def Task.emitAll (t : Task) (x : Cell) (v : BitVec 240) (k : BitVec 36) : Option Task :=
  t.emit x.idx ((cuOuts v).map fun n => (n, .token k))

/-- What a firing that could not place its tokens gives. -/
def orIdle (s : State) (o : Option Task) : Fired :=
  match o with
  | some t => .ok (s, t)
  | none => .error .idle

/-! ### Arithmetic units (R226) -/

/-- Every tag, of no declared depth: `check` with depth 7 lets every stop pass. -/
def anyToken : Accept := { c := true, f := true, v := true, e := true, depth := 7, order := 0 }

/-- The fault of a token at an arithmetic unit: an unknown tag, a D that follows no stop, a header inside a pass, on
another port than 0, or for the unit itself, which owns no field (R226, R233, R243). DESIGN CHOICE: such a unit has no declared depth, and
its stops may come in any order (log entry 75). -/
def unitFault (n : Nat) (p : PortState) (k : Tok) : Option Nat :=
  match k with
  | .bad => some 5
  | .done => if p.lastStop.isNone then some 2 else none
  | .h v => if n ≠ 0 || p.begun || hHop v = 0 then some 7 else none
  | _ => none

/-- The token that a unit of `pass` stages emits from stage `k` (R226). DESIGN CHOICE: an operand a that is no token gives a V, of the
immediate's integer or of 0 (log entry 79). -/
def passToken (v : BitVec 240) (toks : Nat → BitVec 36) : Nat → BitVec 36
  | 0 => if cuSel v 0 0 < 4 then toks (cuSel v 0 0)
    else if cuSel v 0 0 = 5 then mkTok 2 (immValue .int (cuImm v 0)) else mkTok 2 0
  | k + 1 => if cuSel v (k + 1) 0 < 4 then toks (cuSel v (k + 1) 0)
    else if cuSel v (k + 1) 0 = 4 then passToken v toks k
    else if cuSel v (k + 1) 0 = 5 then mkTok 2 (immValue .int (cuImm v (k + 1))) else mkTok 2 0

/-- Take a token from every enabled input of an arithmetic unit. -/
def Task.takeUnit (t : Task) (c : Nat) (ps : List Nat) : Task :=
  ps.foldl (fun t n => match t.cell? c with
    | none => t
    | some x => match t.tokHead x n with
      | none => t
      | some (k, _) =>
        let p := x.port n
        let p := match tokOf k with
          | .stop j => { p with begun := true, lastStop := some j }
          | .done => PortState.fresh
          | .h _ => p
          | _ => { p with begun := true, lastStop := none }
        (t.putCell (x.setPort n p)).take (.cell c (5 + n))) t

/-- A firing of an arithmetic unit on items, none of them E. -/
def Task.unitItems (t : Task) (x : Cell) (v : BitVec 240) (toks : Nat → BitVec 36) : Option Task :=
  if (busyStages v).isEmpty then
    (t.takeUnit x.idx (cuIns v)).emit x.idx ((cuOuts v).map fun n => (n, .token (passToken v toks (cuOutSrc v n))))
  else
    let port (n : Nat) : LinkRec := (Item.token (toks n)).asRecord
    let (res, acc, fl) := runStages t.crec.ftz v x.acc port none
    let t := (t.takeUnit x.idx (cuIns v)).flag fl
    match t.cell? x.idx with
    | none => none
    | some y => (t.putCell { y with acc := acc }).emit x.idx
        ((cuOuts v).map fun n => (n, .token (mkTok 2 ((res.getD (cuOutSrc v n) LinkRec.none).v.headD 0))))

/-- One beat of an arithmetic unit (R226). DESIGN CHOICE: heads of several kinds fault at the lowest enabled port, those of a join at its input
a, or at the companion that disagrees (R244; log entry 79). -/
def State.unitBeat (s : State) (t : Task) (x : Cell) (v : BitVec 240) : Fired :=
  let heads := (cuIns v).map fun n => (n, t.tokHead x n)
  let bad (sub n : Nat) : Fired := .error (malformed sub x.idx n false t.openGo)
  match heads.findSome? fun h => h.2.bind fun k => (unitFault h.1 (x.port h.1) (tokOf k.1)).map fun e => (e, h.1) with
  | some (e, n) => bad e n
  | none =>
    match (if cuIn v 0 then (t.tokHead x 0).map fun k => tokOf k.1 else none) with
    | some (.h w) => orIdle s ((t.takeUnit x.idx [0]).emitAll x v (hNext w))
    | _ =>
      if (cuIns v).isEmpty || heads.any (fun h => h.2.isNone) then .error .idle
      else
        let toks (n : Nat) : BitVec 36 := ((t.tokHead x n).map Prod.fst).getD absentTok
        let ks := (cuIns v).map fun n => tokOf (toks n)
        let isItem (k : Tok) : Bool := match k with | .c _ => true | .f _ => true | .v _ => true | .e => true | _ => false
        if ks.all isItem then
          if ks.contains .e then orIdle s ((t.takeUnit x.idx (cuIns v)).emitAll x v absentTok)
          else orIdle s (t.unitItems x v toks)
        else match ks with
          | .stop j :: r => if r.all (· == .stop j) then orIdle s ((t.takeUnit x.idx (cuIns v)).emitAll x v (stopTok j))
            else bad 4 ((cuIns v).headD 0)
          | .done :: r => if r.all (· == .done) then orIdle s ((t.takeUnit x.idx (cuIns v)).emitAll x v doneTok)
            else bad 4 ((cuIns v).headD 0)
          | _ => bad 4 ((cuIns v).headD 0)

/-! ### Join stages (R227–R232) -/

/-- The parts of a join stage as its payload gives them. -/
structure JoinPorts where
  op : Nat
  a : Nat
  b : Option Nat
  ca : Option Nat
  cb : Option Nat
  depth : Nat
  imm : Nat
deriving DecidableEq, Repr

def joinPorts (v : BitVec 240) : JoinPorts :=
  let imm := cuImm v 0
  let op := cuOp v 0
  { op := op, a := cuSel v 0 0, b := if joinOneInput op then none else some (cuSel v 0 1), ca := joinCompA imm,
    cb := joinCompB imm, depth := joinDepth imm, imm := imm }

/-- What each input of a join accepts (R229–R232). -/
def JoinPorts.accept (j : JoinPorts) (n : Nat) : Accept :=
  let base : Accept := { c := false, f := false, v := false, e := false, depth := j.depth, order := 0 }
  if n = j.a then
    match j.op with
    | 0x62 => { base with c := true, f := true, v := true, order := 1 }
    | 0x63 => { base with c := true, order := 2 }
    | 0x65 => { base with c := true, f := true, v := true, e := true, order := 1 }
    | 0x66 => { base with c := true, f := true, v := true, e := true, order := 1 }
    | _ => { base with c := true, order := 1 }
  else if some n = j.b then
    if j.op = 0x62 then { base with c := true, f := true, v := true, e := true, depth := j.depth - 1, order := 1 }
    else { base with c := true, order := 1 }
  else if j.op = 0x63 then { base with v := true, e := true }
  else { base with f := true, v := true, e := true }

/-- The inputs of a join in port order. -/
def JoinPorts.all (j : JoinPorts) : List Nat := [j.a] ++ j.b.toList ++ j.ca.toList ++ j.cb.toList

/-- The inputs of side a, and of side b: the coordinate input and its companion. -/
def JoinPorts.sideA (j : JoinPorts) : List Nat := [j.a] ++ j.ca.toList
def JoinPorts.sideB (j : JoinPorts) : List Nat := j.b.toList ++ j.cb.toList

/-- The fault of a token that has just come to a port of a join. A header is for input a only (R233). -/
def JoinPorts.fault (j : JoinPorts) (x : Cell) (n : Nat) (k : Tok) : Option Nat :=
  match k with
  | .h _ => if n = j.a && !(x.port n).begun then none else some 7
  | k => (j.accept n).fault (x.port n) k

/-- Consume the heads of some ports. -/
def Task.consumeAll (t : Task) (c : Nat) (j : JoinPorts) (ps : List Nat) : Task :=
  ps.foldl (fun t n => t.consume c n (j.accept n)) t

/-- Whether a token is an item. -/
def Tok.isItem : Tok → Bool
  | .c _ => true
  | .f _ => true
  | .v _ => true
  | .e => true
  | _ => false

/-- The payload of an item. -/
def Tok.val : Tok → BitVec 32
  | .c w => w
  | .f w => w
  | .v w => w
  | _ => 0

/-- A companion's head has the kind of its coordinate's head (R224). -/
def sameKind (k m : Tok) : Bool :=
  match k, m with
  | .stop i, .stop j => i == j
  | .done, .done => true
  | k, m => k.isItem && m.isItem

/-- Tokens for the two outputs of a join: result, companion a, companion b by content code (R227). -/
def Task.emitJoin (t : Task) (x : Cell) (v : BitVec 240) (imm : Nat) (r ca cb : BitVec 36) : Option Task :=
  t.emit x.idx ((cuOuts v).map fun n => (n, .token (match joinContent imm n with | 0 => r | 1 => ca | _ => cb)))

/-- The outcome of two heads: 0 less, 1 equal, 2 greater (R228). -/
def joinOutcome : Tok → Tok → Nat
  | k, m => if !k.isItem then 2 else if !m.isItem then 0 else if k.val < m.val then 0 else if k.val = m.val then 1 else 2

/-- The actions of one side under an outcome: consume, leave, or rewind (R228). A side whose head is a stop stays. -/
def Task.act (t : Task) (c : Nat) (j : JoinPorts) (ps : List Nat) (isItem : Bool) (action : Nat) : Task :=
  if !isItem then t
  else match action with
    | 0 => t.consumeAll c j ps
    | 2 => ps.foldl (fun t n => t.rewind c n) t
    | _ => t

/-- Whether a reset of a side reaches beyond its replay window (R228). -/
def Cell.windowOver (x : Cell) (ps : List Nat) : Option Nat := ps.find? fun n => (x.port n).window.length > 1024

/-- A step of `jinter`, `junion` and `jcmp`, or the item step of `jrepeat`, under outcome `o` (R228–R230). -/
def State.joinItems (s : State) (t : Task) (x : Cell) (v : BitVec 240) (j : JoinPorts) (o : Nat) (ka kb : BitVec 36)
    (ca cb : BitVec 36) : Fired :=
  let ta := tokOf ka
  let tb := tokOf kb
  let actA := cuAct v o 0
  let actB := cuAct v o 1
  let em := cuAct v o 2
  match (if actA = 2 && ta.isItem then x.windowOver j.sideA else none),
        (if actB = 2 && tb.isItem then x.windowOver j.sideB else none) with
  | some n, _ => .error (malformed 9 x.idx n false t.openGo)
  | none, some n => .error (malformed 9 x.idx n false t.openGo)
  | none, none =>
    let coord := if o = 2 then tb.val else ta.val
    let holder (k : Tok) (comp : BitVec 36) : BitVec 36 :=
      if !k.isItem then absentTok else if em = 2 && k.val ≠ coord then absentTok else comp
    let r := match j.op with
      | 0x62 => ka
      | 0x64 => mkTok 2 (BitVec.ofNat 32 o)
      | _ => mkTok 0 coord
    let ca := holder ta ca
    let cb := if j.op = 0x62 then kb else holder tb cb
    let t' := (t.act x.idx j j.sideA ta.isItem actA).act x.idx j j.sideB tb.isItem actB
    if em = 0 then .ok (s, t') else orIdle s (t'.emitJoin x v j.imm r ca cb)

/-- A stop or D that leaves on every output while some heads are consumed. -/
def State.joinPass (s : State) (t : Task) (x : Cell) (v : BitVec 240) (j : JoinPorts) (ps : List Nat) (k : BitVec 36) :
    Fired := orIdle s ((t.consumeAll x.idx j ps).emitAll x v k)

/-- A join of two inputs (R228). -/
def State.joinTwo (s : State) (t : Task) (x : Cell) (v : BitVec 240) (j : JoinPorts) (ka kb ca cb : BitVec 36) : Fired :=
  let bad : Fired := .error (malformed 4 x.idx j.a false t.openGo)
  match tokOf ka, tokOf kb with
  | .stop p, .stop q => if p = q then s.joinPass t x v j j.all (stopTok p) else bad
  | .done, .done => (s.joinPass t x v j j.all doneTok).map fun r => (r.1, r.2.endPass x.idx)
  | .done, _ => bad
  | _, .done => bad
  | k, m => s.joinItems t x v j (joinOutcome k m) ka kb ca cb

/-- `jrepeat` (R230). Where a Sk of `a` meets an item of `b`, the item is consumed first, and the S(k−1) that must follow it in a beat of its
own, since a link may hold one token; `afterItem` tells that the item is gone. -/
def State.joinRepeat (s : State) (t : Task) (x : Cell) (v : BitVec 240) (j : JoinPorts) (ka kb ca : BitVec 36) : Fired :=
  let bad : Fired := .error (malformed 4 x.idx j.a false t.openGo)
  let b := j.b.getD 0
  match tokOf ka, tokOf kb with
  | .done, .done => (s.joinPass t x v j j.all doneTok).map fun r => (r.1, r.2.endPass x.idx)
  | .stop 0, m => if m.isItem then s.joinPass t x v j j.all (stopTok 0) else bad
  | .stop (k + 1), .stop q =>
    if q = k then s.joinPass (t.updCell x.idx fun y => { y with afterItem := false }) x v j j.all (stopTok (k + 1)) else bad
  | .stop (_ + 1), m =>
    if !m.isItem then bad
    else if x.afterItem then bad
    else .ok (s, (t.consumeAll x.idx j [b]).updCell x.idx fun y => { y with afterItem := true })
  | k, m => if k.isItem && m.isItem then s.joinItems t x v j 0 ka kb ca kb else bad

/-- The code of a `jreduce` operation (R231). -/
def reduceOp (param : Nat) : Nat :=
  match param % 8 with | 0 => 0x20 | 1 => 0x01 | 2 => 0x2C | 3 => 0x2F | 4 => 0x05 | _ => 0x06

/-- Emit the open run of a `jreduce`. -/
def Task.emitRun (t : Task) (x : Cell) (v : BitVec 240) (j : JoinPorts) (coord : BitVec 32) : Option Task :=
  t.emitJoin x v j.imm (mkTok 0 coord) (match x.runValue with | some w => mkTok 2 w | none => absentTok) absentTok

/-- `jreduce` (R231). DESIGN CHOICE: without companion a every run leaves with E; a companion b is compared with a's heads, and is not
consumed (log entry 79). -/
def State.joinReduce (s : State) (t : Task) (x : Cell) (v : BitVec 240) (j : JoinPorts) (ka ca : BitVec 36) : Fired :=
  let upd (t : Task) (f : Cell → Cell) : Task := t.updCell x.idx f
  match tokOf ka with
  | .c c =>
    let w := match tokOf ca with | .v w => some w | _ => none
    let whole := (joinParam j.imm).testBit 3
    match x.runCoord with
    | none => .ok (s, upd (t.consumeAll x.idx j j.sideA) fun y => { y with runCoord := some c, runValue := w })
    | some c0 =>
      if whole || c0 = c then
        let (w', fl) := match x.runValue, w with
          | some a, some b =>
            let r := nodeOp (reduceOp (joinParam j.imm)) (cuRm v 0) (cuSat v 0) t.crec.ftz 0 a b 0
            (some r.1, r.2)
          | some a, none => (some a, (0 : Flags))
          | none, b => (b, (0 : Flags))
        .ok (s, (upd (t.consumeAll x.idx j j.sideA) fun y => { y with runValue := w' }).flag fl)
      else orIdle s ((upd (t.consumeAll x.idx j j.sideA) fun y => { y with runCoord := some c, runValue := w }).emitRun x v j c0)
  | k =>
    match x.runCoord with
    | some c0 => orIdle s ((upd t fun y => { y with runCoord := none, runValue := none }).emitRun x v j c0)
    | none => match k with
      | .stop n => s.joinPass t x v j j.sideA (stopTok n)
      | _ => (s.joinPass t x v j j.sideA doneTok).map fun r => (r.1, r.2.endPass x.idx)

/-- `jstop` (R232). -/
def State.joinStop (s : State) (t : Task) (x : Cell) (v : BitVec 240) (j : JoinPorts) (ka ca cb : BitVec 36) : Fired :=
  let n := joinParam j.imm
  match tokOf ka with
  | .stop k => if k < n then .ok (s, t.consumeAll x.idx j j.all) else s.joinPass t x v j j.all (stopTok (k - n))
  | .done => (s.joinPass t x v j j.all doneTok).map fun r => (r.1, r.2.endPass x.idx)
  | _ => orIdle s ((t.consumeAll x.idx j j.all).emitJoin x v j.imm ka ca cb)

/-- `jcount` (R232). `runValue` marks that the count of the stop at the head has left. -/
def State.joinCount (s : State) (t : Task) (x : Cell) (v : BitVec 240) (j : JoinPorts) (ka : BitVec 36) : Fired :=
  let upd (t : Task) (f : Cell → Cell) : Task := t.updCell x.idx f
  match tokOf ka with
  | .stop k =>
    if x.runValue.isNone && (k = 0 || x.afterItem) then
      orIdle s ((upd t fun y => { y with runValue := some 1 }).emitJoin x v j.imm (mkTok 2 (BitVec.ofNat 32 x.count))
        absentTok absentTok)
    else (s.joinPass t x v j j.all (stopTok k)).map fun r =>
      (r.1, upd r.2 fun y => { y with runValue := none, count := 0, afterItem := false })
  | .done => (s.joinPass t x v j j.all doneTok).map fun r => (r.1, r.2.endPass x.idx)
  | k => .ok (s, upd (t.consumeAll x.idx j j.all) fun y =>
      { y with count := if k = .e then y.count else y.count + 1, afterItem := true })

/-! ### Headers at a join (R233) -/

/-- The payload with one header field written. -/
def joinField (v : BitVec 240) (w : BitVec 32) : Option (BitVec 240) :=
  if hId w = 1 then
    some ((v &&& ~~~((0xFFFFFF : BitVec 240) <<< 24)) ||| ((BitVec.ofNat 240 (hVal w)) <<< 24))
  else if hId w = 2 && hVal w / 2 ^ 18 = 0 then
    some ((v &&& ~~~((0x3FFFF : BitVec 240) <<< 206)) ||| ((BitVec.ofNat 240 (hVal w)) <<< 206))
  else none

/-- The payload with the headers taken so far. -/
def joinApply (v : BitVec 240) (hs : List (BitVec 29)) : BitVec 240 :=
  hs.foldl (fun v h => (joinField v (h.setWidth 32)).getD v) v

/-- A header at input a of a join: it goes on with its hop count lowered, or its value waits for the next pass. -/
def State.joinHeader (s : State) (t : Task) (x : Cell) (v : BitVec 240) (j : JoinPorts) (w : BitVec 32) : Fired :=
  let t1 := t.take (.cell x.idx (5 + j.a))
  if hHop w ≠ 0 then orIdle s (t1.emitAll x v (hNext w))
  else
    let hs := x.headers ++ [w.setWidth 29]
    let v' := joinApply v hs
    if (joinField v w).isNone || !cuOk v' then .error (malformed 7 x.idx j.a false t.openGo)
    else match t1.cell? x.idx with
      | none => .error .idle
      | some y => .ok (s, t1.putCell { y with headers := hs })

/-- The subcode that a token gives at an input other than a of a join, whatever values are in force: an unknown tag, or a header. -/
def earlyFault (k : Tok) : Option Nat :=
  match k with
  | .bad => some 5
  | .h _ => some 7
  | _ => none

/-- The fault that the heads of a join's enabled inputs other than a have whatever values are in force, those of inputs among them that the
join does not read: judged in every beat, so that no fault depends on which token came first (R233, R242). -/
def Task.joinEarly (t : Task) (x : Cell) (v : BitVec 240) (a : Nat) : Option Stop :=
  ((cuIns v).filter (· != a)).findSome? fun n =>
    (t.tokHead x n).bind fun k => (earlyFault (tokOf k.1)).map fun e => malformed e x.idx n false t.openGo

/-- One beat of a join stage (R228–R233). -/
def State.joinBeat (s : State) (t : Task) (x : Cell) (v0 : BitVec 240) : Fired :=
  let j0 := joinPorts v0
  match t.joinEarly x v0 j0.a, (t.tokHead x j0.a).map fun k => tokOf k.1 with
  | some stop, _ => .error stop
  | none, some (.h w) =>
    match j0.fault x j0.a (.h w) with
    | some e => .error (malformed e x.idx j0.a false t.openGo)
    | none => s.joinHeader t x v0 j0 w
  | none, k0 =>
    -- before the first token of a pass, a header may still come
    if k0.isNone && !(x.port j0.a).begun then .error .idle else
    -- the values taken from headers are in force from the first token of the pass
    let v := joinApply v0 x.headers
    let x := { x with cu := some v, headers := [] }
    let t := t.putCell x
    let j := joinPorts v
    let heads := j.all.map fun n => (n, t.tokHead x n)
    match heads.findSome? fun h => h.2.bind fun k =>
        if k.2 then (j.fault x h.1 (tokOf k.1)).map fun e => (e, h.1) else none with
    | some (e, n) => .error (malformed e x.idx n false t.openGo)
    | none =>
      if heads.any (fun h => h.2.isNone) then .error .idle
      else
        let tok (o : Option Nat) : BitVec 36 := match o with
          | some n => ((t.tokHead x n).map Prod.fst).getD absentTok
          | none => absentTok
        let ka := tok (some j.a)
        let kb := tok j.b
        let ca := tok j.ca
        let cb := tok j.cb
        if j.ca.isSome && !sameKind (tokOf ka) (tokOf ca) then .error (malformed 4 x.idx (j.ca.getD 0) false t.openGo)
        else if j.cb.isSome && j.b.isSome && !sameKind (tokOf kb) (tokOf cb) then
          .error (malformed 4 x.idx (j.cb.getD 0) false t.openGo)
        else if j.cb.isSome && j.b.isNone && !sameKind (tokOf ka) (tokOf cb) then
          .error (malformed 4 x.idx (j.cb.getD 0) false t.openGo)
        else match j.op with
          | 0x62 => s.joinRepeat t x v j ka kb ca
          | 0x63 => s.joinReduce t x v j ka ca
          | 0x65 => s.joinStop t x v j ka ca cb
          | 0x66 => s.joinCount t x v j ka
          | _ => s.joinTwo t x v j ka kb ca cb

/-- Whether a unit holds part of a pass (R243): a token was taken and no D since. -/
def Cell.midPass (x : Cell) : Bool := x.ports.any fun p => p.begun

/-- One beat of a compute unit in fibre mode. -/
def State.fibreBeat (s : State) (t : Task) (x : Cell) (v : BitVec 240) : Fired :=
  if x.joins then s.joinBeat t x v else s.unitBeat t x v

end Sys2Proof.Machine
end

