-- ==== Sys2Proof/Machine/Ag.lean ====
section
/-! DEFINITION. The edge address generators: AFFINE, GATHER, SCATTER, LEVEL and CHANNEL (R43, R233–R243, R281, R369). -/

namespace Sys2Proof.Machine

open Sys2Proof

/-! ### What a generator is -/

/-- Whether a generator is a source under the image in force (R155, R234, R238, R239; log entry 23). -/
def Task.agSource (t : Task) (a : Ag) : Bool :=
  match agMode a.frame with
  | 1 => (agIns t.frames t.crec.rows a.place a.frame).isEmpty
  | 4 => agDepth a.frame = 0
  | 5 => agDepth a.frame = 0
  | _ => false

/-- Bytes of an element. -/
def Ag.width (a : Ag) : Nat := 2 ^ agEsize a.frame

/-- Elements of an AFFINE box (R43). -/
def Ag.boxTotal (a : Ag) : Nat := (List.range (agDims a.frame)).foldl (fun n i => n * agExt a.frame i) 1

/-- The displacement in elements of box element `j`, dimension 0 fastest. -/
def Ag.boxDisp (a : Ag) (j : Nat) : Int :=
  ((List.range (agDims a.frame)).foldl (fun (p : Int × Nat) i =>
    (p.1 + (p.2 % agExt a.frame i : Nat) * agStride a.frame i, p.2 / agExt a.frame i)) (0, j)).1

/-- The address of a signed displacement in elements from p1. -/
def Ag.addr (a : Ag) (disp : Int) : Nat := (((agP1 a.frame : Int) + a.width * disp) % 2 ^ 64).toNat

/-- The highest dimension whose run element `j` completes, if it completes one (R223, R235). -/
def Ag.closes (a : Ag) (j : Nat) : Option Nat :=
  let rec go : Nat → Nat → Nat → Option Nat
    | 0, _, _ => none
    | n + 1, k, q =>
      if q % agExt a.frame k = 0 then
        match go n (k + 1) (q / agExt a.frame k) with
        | some m => some m
        | none => some k
      else none
  go (agDims a.frame) 0 (j + 1)

/-- The port of a generator that may freeze. -/
def Ag.port (a : Ag) : PortId := { kind := 2, place := a.place, part := 0 }

/-- The address that a fault of a generator reports (R244). -/
def Task.agAddr (t : Task) (a : Ag) : Nat := t.goAddr a.passes

/-- FIBRE_MALFORMED at a generator. -/
def Task.agBad (t : Task) (a : Ag) (sub port : Nat) : Fired := .error (malformed sub a.place port true (t.agAddr a))

/-- Change the generator at a place. -/
def Task.updAg (t : Task) (p : Nat) (f : Ag → Ag) : Task :=
  match t.ag? p with
  | some a => t.putAg (f a)
  | none => t

/-! ### Memory -/

/-- Read a number of `n` bytes in the task's own view through a generator. -/
def State.agRead (s : State) (t : Task) (a : Ag) (va n counter : Nat) : Except Stop (State × Task × Nat) :=
  match s.viewRead t (placeCluster a.place) va n with
  | (s, .ok (t, l)) => .ok (s, t, ofLeBytes l)
  | (_, .error e) => .error (.port e a.port (placeCluster a.place) counter 0 (t.agAddr a))

/-- Store bytes into the Cupboard of a generator's cluster (R16, R207). -/
def State.agWrite (s : State) (t : Task) (a : Ag) (va : Nat) (l : List Byte) (counter : Nat) : Fired :=
  let fail (e : ViewErr) : Fired := .error (.port e a.port (placeCluster a.place) counter 1 (t.agAddr a))
  if t.crec.rohint then fail (.trap .perm)
  else match s.viewWrite t (placeCluster a.place) va l with
    | (s, .ok t) => .ok (s, t.gotSpace a.port)
    | (_, .error e) => fail e

/-- A lane value of an element of up to 4 bytes; the value of a larger one is free (log entry 12). -/
def State.laneOfElement (s : State) (a : Ag) (v : Nat) : State × Lane :=
  if a.width ≤ 4 then (s, BitVec.ofNat 32 v)
  else
    let (s, l) := s.freeBytes 4
    (s, BitVec.ofNat 32 (ofLeBytes l))

/-! ### Emitting -/

/-- Emit the next item that waits on either output; none when nothing waits, or nothing can leave. -/
def Task.agEmit (t : Task) (a : Ag) : Option Task :=
  let q := agPort a.frame
  let try1 (t : Task) : Option Task := match a.out with
    | x :: r => (t.updAg a.place fun a => { a with out := r }).place (t.agDests a.place q) x
    | [] => none
  let try2 (t : Task) : Option Task := match a.out2 with
    | x :: r => (t.updAg a.place fun a => { a with out2 := r }).place (t.agDests a.place (q ^^^ 1)) x
    | [] => none
  match try1 t with
  | some t1 => some ((try2 t1).getD t1)
  | none => try2 t

/-- A source's pass is complete once nothing waits to leave. Its tl3 operation is done (R209). -/
def Task.agEndPass (t : Task) (a : Ag) : Task :=
  match a.passes with
  | [] => t
  | p :: r => (t.updAg a.place fun a => { a with passes := r, pos := 0 }).finish 3 p.num

/-! ### Headers (R233) -/

/-- The frame with one header field written. DESIGN CHOICE: a value with a bit above a narrower field fails the check (log entry 79). -/
def agField (v : BitVec 240) (w : BitVec 32) : Option (BitVec 240) :=
  let put (lo n : Nat) : Option (BitVec 240) :=
    if hVal w ≥ 2 ^ n then none
    else some ((v &&& ~~~((BitVec.ofNat 240 (2 ^ n - 1)) <<< lo)) ||| ((BitVec.ofNat 240 (hVal w)) <<< lo))
  match hId w with
  | 0x10 => put 4 24
  | 0x11 => put 28 24
  | 0x12 => put 52 4
  | 0x13 => put 56 24
  | 0x14 => put 80 24
  | 0x15 => put 104 4
  | 0x16 => put 113 24
  | 0x17 => put 137 8
  | 0x18 => put 145 16
  | 0x19 => put 177 15
  | _ => none

/-- The frame with the headers taken so far. -/
def agApply (v : BitVec 240) (hs : List (BitVec 29)) : BitVec 240 :=
  hs.foldl (fun v h => (agField v (h.setWidth 32)).getD v) v

/-- A header at the token input of a generator: it goes on with its hop count lowered, or waits for the next pass. -/
def State.agHeader (s : State) (t : Task) (a : Ag) (w : BitVec 32) : Fired :=
  if a.inp.begun then t.agBad a 7 0
  else
    let t1 := t.take (.ag a.place false)
    if hHop w ≠ 0 then
      .ok (s, t1.updAg a.place fun a => match agMode a.frame with
        | 2 => { a with gathers := a.gathers ++ [(0, some (hNext w))] }
        | 4 => { a with out := a.out ++ [.token (hNext w)], out2 := a.out2 ++ [.token (hNext w)] }
        | _ => a)
    else if (agField a.frame w).isNone || !agOk (agApply a.frame (a.headers ++ [w.setWidth 29])) then t.agBad a 7 0
    else .ok (s, t1.updAg a.place fun a => { a with headers := a.headers ++ [w.setWidth 29] })

/-! ### AFFINE (R43, R235) -/

/-- A record of up to sixteen lanes. -/
def laneRec (l : List Lane) : LinkRec :=
  { v := l ++ List.replicate (16 - l.length) 0, m := maskOf (· < l.length), a := maskOf (· < l.length), t := 0, p := 0 }

/-- The lanes that a record-mode generator has gathered for its next record. -/
def Ag.lanes (a : Ag) : List Lane := a.gathers.map fun g => BitVec.ofNat 32 g.1

/-- The next element of an AFFINE read. -/
def State.affineRead (s : State) (t : Task) (a : Ag) (p : Pass) : Fired :=
  match s.agRead t a (a.addr (a.boxDisp p.pos)) a.width p.pos with
  | .error e => .error e
  | .ok (s, t, n) =>
    let last := p.pos + 1 ≥ p.total
    let step (a : Ag) : Ag := { a with passes := match a.passes with | q :: r => { q with pos := q.pos + 1 } :: r | [] => [] }
    if agTokens a.frame then
      let stops := match a.closes p.pos with | some k => [Item.token (stopTok k)] | none => []
      .ok (s, t.updAg a.place fun a =>
        { step a with out := [.token (mkTok 2 (BitVec.ofNat 32 n))] ++ stops ++ if last then [.token doneTok] else [] })
    else
      let (s, x) := s.laneOfElement a n
      let ls := a.lanes ++ [x]
      let full := ls.length = 16 || last
      .ok (s, t.updAg a.place fun a =>
        { step a with gathers := if full then [] else a.gathers ++ [(x.toNat, none)],
                      out := if full then [.record (laneRec ls)] else [] })

/-- Store the present lanes of a record at successive box elements; a lane that is absent skips its element, and one
beyond the box is dropped (log entry 23). -/
def State.affineLanes (s : State) (t : Task) (a : Ag) (r : LinkRec) (pos : Nat) : List Nat → Fired
  | [] => .ok (s, t)
  | j :: js =>
    if !bit16 r.m j || pos + j ≥ a.boxTotal then s.affineLanes t a r pos js
    else
      let l := natBytes (min a.width 4) (r.v.getD j 0).toNat
      let (s, more) := s.freeBytes (a.width - 4)
      match s.agWrite t a (a.addr (a.boxDisp (pos + j))) (l ++ more) (pos + j) with
      | .error e => .error e
      | .ok (s, t) => s.affineLanes t a r pos js

/-- A token at an AFFINE write (R235): D follows the stop that closes the box, and nothing else does (R223, R243). -/
def State.affineToken (s : State) (t : Task) (a : Ag) (k : BitVec 36) : Fired :=
  let expects := if a.pos = 0 then none else a.closes (a.pos - 1)
  let wants := match expects with
    | some j => if a.inp.lastStop.isNone then some j else none
    | none => none
  let t1 := t.take (.ag a.place false)
  let took (t : Task) (f : Ag → Ag) : Task := t.updAg a.place f
  let closed := a.inp.lastStop = some (agDims a.frame - 1)
  let item (store : Bool) : Fired :=
    if closed then t.agBad a 2 0
    else if a.pos ≥ a.boxTotal then t.agBad a 6 0
    else if wants.isSome then t.agBad a 4 0
    else
      let next (t : Task) : Task := took t fun a =>
        { a with pos := a.pos + 1, inp := { a.inp with begun := true, lastStop := none } }
      if !store then .ok (s, next t1)
      else (s.agWrite t1 a (a.addr (a.boxDisp a.pos)) (natBytes (min a.width 4) (tokVal k).toNat) a.pos).map
        fun r => (r.1, next r.2)
  match tokOf k with
  | .v _ => item true
  | .e => item false
  | .stop j =>
    if closed || j ≥ agDims a.frame then t.agBad a 2 0
    else if wants = some j then .ok (s, took t1 fun a => { a with inp := { a.inp with lastStop := some j } })
    else t.agBad a 4 0
  | .done =>
    if closed then .ok (s, took t1 fun a => { a with pos := 0, inp := PortState.fresh }) else t.agBad a 2 0
  | .h _ => t.agBad a 7 0
  | _ => t.agBad a 5 0

/-- One beat of an AFFINE generator. -/
def State.affineBeat (s : State) (t : Task) (a : Ag) : Fired :=
  if t.agSource a then
    match a.passes with
    | [] => .error .idle
    | p :: _ =>
      if !t.launched p then .error .idle
      else match t.agEmit a with
        | some t1 =>
          match t1.ag? a.place with
          | some b => .ok (s, if b.out.isEmpty && p.pos ≥ p.total then t1.agEndPass b else t1)
          | none => .error .idle
        | none => if !a.out.isEmpty || p.pos ≥ p.granted then .error .idle else s.affineRead t a p
  else match (t.head (.ag a.place false)).map Item.body with
    | none => .error .idle
    | some (.token k) => s.affineToken t a k
    | some (.record r) =>
      (s.affineLanes (t.take (.ag a.place false)) a r a.pos (List.range 16)).map fun q =>
        (q.1, q.2.updAg a.place fun b => { b with pos := if a.pos + 16 < a.boxTotal then a.pos + 16 else 0 })

/-! ### GATHER (R236) -/

/-- The pass of a transformer begins with its first token that is no header: the values taken from headers come into
force. -/
def Ag.start (a : Ag) : Ag := if a.inp.begun then a else { a with frame := agApply a.frame a.headers, headers := [] }

/-- What the token inputs accept. -/
def Ag.accept (a : Ag) : Accept :=
  { c := true, f := true, v := agMode a.frame = 5, e := agMode a.frame ≠ 4, depth := agDepth a.frame, order := 0 }

/-- The port of a transformer after a token; D ends the pass. -/
def tookIn (ac : Accept) (p : PortState) (k : Tok) : PortState := if k = .done then PortState.fresh else ac.took p k

/-- Request number `i` of a GATHER returns: its element is read. -/
def State.gatherReply (s : State) (t : Task) (a : Ag) (i : Nat) : Fired :=
  match a.gathers[i]? with
  | some (va, none) =>
    match s.agRead t a va a.width i with
    | .error e => .error e
    | .ok (s, t, n) => .ok (s, t.updAg a.place fun a =>
        { a with gathers := setAt a.gathers i (va, some (mkTok 2 (BitVec.ofNat 32 n))) })
  | _ => .error .idle

/-- The result at the head of a GATHER leaves, in item order. -/
def Task.gatherEmit (t : Task) (a : Ag) : Option Task :=
  match a.gathers with
  | (_, some k) :: r => (t.updAg a.place fun a => { a with gathers := r }).place (t.agDests a.place (agPort a.frame)) (.token k)
  | _ => none

/-- A GATHER consumes its next token. -/
def State.gatherTake (s : State) (t : Task) (a0 : Ag) : Fired :=
  match t.head (.ag a0.place false) with
  | none => .error .idle
  | some x =>
    let k := x.asToken
    match tokOf k with
    | .h w => s.agHeader t a0 w
    | tk =>
      let a := a0.start
      match a.accept.fault a.inp tk with
      | some e => t.agBad a e 0
      | none =>
        let t1 := (t.putAg a).take (.ag a.place false)
        let push (g : Nat × Option (BitVec 36)) : Fired :=
          .ok (s, t1.updAg a.place fun b => { b with inp := tookIn a.accept b.inp tk, gathers := b.gathers ++ [g] })
        if tk.isItem && tk ≠ .e then
          if tk.val.toNat ≥ agBound a.frame then t.agBad a 6 0
          else push (a.addr ((tk.val.toNat : Int) * agStride a.frame 0), none)
        else push (0, some (canonTok k))

/-- One beat of a GATHER. -/
def State.gatherBeat (s : State) (t : Task) (a : Ag) : Fired :=
  match t.gatherEmit a with
  | some t => .ok (s, t)
  | none => s.gatherTake t a

/-! ### SCATTER (R237) -/

/-- One beat of a SCATTER: a pair of tokens. -/
def State.scatterBeat (s : State) (t : Task) (a0 : Ag) : Fired :=
  match (t.head (.ag a0.place false)).map fun x => tokOf x.asToken with
  | some (.h w) => s.agHeader t a0 w
  | _ =>
    let a := a0.start
    let vAcc : Accept := { c := false, f := false, v := true, e := true, depth := agDepth a.frame, order := 0 }
    let hi := (t.head (.ag a.place false)).map fun x => tokOf x.asToken
    let hv := (t.head (.ag a.place true)).map fun x => tokOf x.asToken
    let vFault (k : Tok) : Option Nat := match k with | .h _ => some 7 | k => vAcc.fault a.inp2 k
    match hi.bind (a.accept.fault a.inp), hv.bind vFault with
    | some e, _ => t.agBad a e 0
    | none, some e => t.agBad a e 1
    | none, none =>
      match hi, hv with
      | some i, some v =>
        let t1 := (((t.putAg a).take (.ag a.place false)).take (.ag a.place true)).updAg a.place fun b =>
          { b with inp := tookIn a.accept b.inp i, inp2 := tookIn vAcc b.inp2 v }
        if !sameKind i v then t.agBad a 4 0
        else if !i.isItem || i = .e then .ok (s, t1)
        else if i.val.toNat ≥ agBound a.frame then t.agBad a 6 0
        else match v with
          | .v w => s.agWrite t1 a (a.addr ((i.val.toNat : Int) * agStride a.frame 0)) (natBytes (min a.width 4) w.toNat) a.pos
          | _ => .ok (s, t1)
      | _, _ => .error .idle

/-! ### LEVEL (R238) -/

/-- Words of an array at a place of p1 or p2. -/
def State.levelWord (s : State) (t : Task) (a : Ag) (base i : Nat) : Except Stop (State × Task × Nat) :=
  s.agRead t a ((base + 4 * i) % 2 ^ 64) 4 i

/-- The bounds of the fibre of a reference, checked (R238). -/
def State.levelFibre (s : State) (t : Task) (a : Ag) (r : Nat) : Except Stop (State × Task × Nat × Nat) :=
  if agP1 a.frame = 0 then .ok (s, t, r * agFan a.frame, agFan a.frame)
  else match s.levelWord t a (agP1 a.frame) r with
    | .error e => .error e
    | .ok (s, t, lo) => match s.levelWord t a (agP1 a.frame) (r + 1) with
      | .error e => .error e
      | .ok (s, t, hi) =>
        if hi < lo || hi - lo > agFan a.frame then .error (malformed 6 a.place 0 true (t.agAddr a))
        else .ok (s, t, lo, hi - lo)

/-- The coordinate at place `p` of a level, the `j`-th of its fibre. -/
def State.levelCoord (s : State) (t : Task) (a : Ag) (p j : Nat) : Except Stop (State × Task × Nat) :=
  if agP1 a.frame = 0 then .ok (s, t, j) else s.levelWord t a (agP2 a.frame) p

/-- The tokens of a fibre from place `lo` on, on both outputs. -/
def State.levelTokens (a : Ag) (lo : Nat) : List Nat → State → Task → Except Stop (State × Task × List Item × List Item)
  | [], s, t => .ok (s, t, [], [])
  | j :: r, s, t => match s.levelCoord t a (lo + j) j with
    | .error e => .error e
    | .ok (s, t, c) => match State.levelTokens a lo r s t with
      | .error e => .error e
      | .ok (s, t, o1, o2) =>
        .ok (s, t, .token (mkTok 0 (BitVec.ofNat 32 c)) :: o1, .token (mkTok 1 (BitVec.ofNat 32 (lo + j))) :: o2)

/-- A transformer takes its next token. -/
def State.levelTake (s : State) (t : Task) (a0 : Ag) : Fired :=
  match t.head (.ag a0.place false) with
  | none => .error .idle
  | some x =>
    match tokOf x.asToken with
    | .h w => s.agHeader t a0 w
    | tk =>
      let a := a0.start
      match a.accept.fault a.inp tk with
      | some e => t.agBad a e 0
      | none =>
        let t1 := ((t.putAg a).take (.ag a.place false)).updAg a.place fun b => { b with inp := tookIn a.accept b.inp tk }
        let both (k : BitVec 36) (open' : Bool) : Fired := .ok (s, t1.updAg a.place fun b =>
          { b with out := b.out ++ [.token k], out2 := b.out2 ++ [.token k], open? := open' })
        match tk with
        | .stop k => if k ≥ 5 then t.agBad a 2 0 else both (stopTok (k + 1)) false
        | .done => both doneTok false
        | k =>
          if k.val.toNat ≥ agBound a.frame then t.agBad a 6 0
          else match s.levelFibre t1 a k.val.toNat with
            | .error e => .error e
            | .ok (s, t1, lo, n) => match State.levelTokens a lo (List.range n) s t1 with
              | .error e => .error e
              | .ok (s, t1, o1, o2) =>
                let sep := if a.open? then [Item.token (stopTok 0)] else []
                .ok (s, t1.updAg a.place fun b => { b with out := b.out ++ sep ++ o1, out2 := b.out2 ++ sep ++ o2, open? := true })

/-- One beat of a LEVEL generator. -/
def State.levelBeat (s : State) (t : Task) (a : Ag) : Fired :=
  match t.agEmit a with
  | some t1 =>
    match t1.ag? a.place with
    | none => .error .idle
    | some b =>
      match b.passes with
      | p :: _ => .ok (s, if agDepth a.frame = 0 && p.pos > p.total && b.out.isEmpty && b.out2.isEmpty then t1.agEndPass b else t1)
      | [] => .ok (s, t1)
  | none =>
    if !a.out.isEmpty || !a.out2.isEmpty then .error .idle
    else if agDepth a.frame ≠ 0 then s.levelTake t a
    else match a.passes with
      | [] => .error .idle
      | p :: r =>
        if !t.launched p then .error .idle
        else
          let step (a : Ag) : Ag := { a with passes := { p with pos := p.pos + 1 } :: r }
          if p.pos < p.total then
            if p.pos ≥ p.granted then .error .idle
            else match State.levelTokens a p.lo [p.pos] s t with
              | .error e => .error e
              | .ok (s, t, o1, o2) => .ok (s, t.updAg a.place fun a => { step a with out := o1, out2 := o2 })
          else if p.pos = p.total then
            let tail : List Item := [.token (stopTok 0), .token doneTok]
            .ok (s, t.updAg a.place fun a => { step a with out := tail, out2 := tail })
          else .error .idle

/-! ### CHANNEL (R239, R281) -/

/-- The channel a generator names. -/
def Ag.chan (a : Ag) : Nat := bitsOf (agP1 a.frame) 15 0

/-- A channel failure at a generator: CHANNEL_MISUSE with the go's address, or a failed read of the table. -/
def Task.agChanErr (t : Task) (a : Ag) (num : Nat) : ChanErr → Stop
  | .misuse sub => .fault .channelMisuse (misuseSub sub num) (t.agAddr a)
  | .acc e va => .port (.acc e va) { kind := 7, place := a.place, part := 1 } (placeCluster a.place) 0 0 (t.agAddr a)

/-- The channel's elements must be 8 bytes: any other width is a mismatch (R239, R275). -/
def Chan.tokenWidth (c : Chan) : Option Nat := if c.esize = 1 then none else some 5

/-- Pop one element as a token. -/
def State.channelPop (s : State) (t : Task) (a : Ag) (p : Pass) : Fired :=
  let num := a.chan
  match s.openChan t num with
  | (_, .error e) => .error (t.agChanErr a num e)
  | (s, .ok c) =>
    match (if p.pos = 0 then (c.popBad t.handle (some false)).orElse fun _ => c.tokenWidth else none) with
    | some sub => .error (t.agChanErr a num (.misuse sub))
    | none =>
      match c.next with
      | none => .error .idle
      | some e =>
        let v := ofLeBytes e.data
        let k := BitVec.ofNat 36 v
        if v / 2 ^ 36 ≠ 0 || tokOf k = .bad then t.agBad a 5 0
        else
          let ends := tokOf k = .done || p.pos + 1 ≥ p.total
          .ok (s.putChan (c.popNext t.handle), t.updAg a.place fun a =>
            { a with out := [.token (canonTok k)],
                     passes := { p with pos := if ends then p.total else p.pos + 1 } :: a.passes.drop 1 })

/-- Push the token at the input. -/
def State.channelPush (s : State) (t : Task) (a : Ag) : Fired :=
  let num := a.chan
  match t.head (.ag a.place false) with
  | none => .error .idle
  | some x =>
    let k := x.asToken
    match a.accept.fault a.inp (tokOf k) with
    | some e => t.agBad a e 0
    | none => match s.openChan t num with
      | (_, .error e) => .error (t.agChanErr a num e)
      | (s, .ok c) =>
        match (if a.inp.begun then none else (c.pushBad t.handle false).orElse fun _ => c.tokenWidth) with
        | some sub => .error (t.agChanErr a num (.misuse sub))
        | none =>
          if t.crec.rohint then .error (.fault .perm 0 (t.agAddr a))
          else if !c.roomFor t then .error .idle
          else match s.holdPush t (placeCluster a.place) c (natBytes 8 (canonTok k).toNat) with
            | .error e => .error (.port e a.port (placeCluster a.place) 0 1 (t.agAddr a))
            | .ok t => .ok (s, ((t.gotSpace a.port).take (.ag a.place false)).updAg a.place fun b => { b with inp := tookIn a.accept b.inp (tokOf k) })

/-- One beat of a CHANNEL generator. -/
def State.channelBeat (s : State) (t : Task) (a : Ag) : Fired :=
  if t.isFrozen 7 a.place 1 then .error .idle
  else if agDepth a.frame ≠ 0 then s.channelPush t a
  else match a.passes with
    | [] => .error .idle
    | p :: _ =>
      if !t.launched p then .error .idle
      else match t.agEmit a with
        | some t1 =>
          match t1.ag? a.place with
          | some b => .ok (s, if b.out.isEmpty && p.pos ≥ p.total then t1.agEndPass b else t1)
          | none => .error .idle
        | none => if !a.out.isEmpty || p.pos ≥ p.granted then .error .idle else s.channelPop t a p

/-- One beat of a generator. -/
def State.agBeat (s : State) (t : Task) (a : Ag) : Fired :=
  if t.portFrozen a.port then .error .idle
  else match agMode a.frame with
    | 1 => s.affineBeat t a
    | 2 => s.gatherBeat t a
    | 3 => s.scatterBeat t a
    | 4 => s.levelBeat t a
    | 5 => s.channelBeat t a
    | _ => .error .idle

/-- Whether a generator holds part of a pass: a token was taken and no D since, or something waits to leave. -/
def Ag.midPass (a : Ag) : Bool := a.inp.begun || a.inp2.begun

/-- Whether something still has to leave a generator or to be read for it. -/
def Ag.busy (a : Ag) : Bool := !a.out.isEmpty || !a.out2.isEmpty || !a.gathers.isEmpty

end Sys2Proof.Machine
end

