-- ==== Sys2Proof/Machine/Engine.lean ====
section
/-! DEFINITION. Matrix engines at work: activation rows, header tokens, tiles, loads of the shadow plane and swaps
(R73, R110, R245–R251, R254, R258, R259, R262, R367, R368). -/

namespace Sys2Proof.Machine

open Sys2Proof

/-! ### Formats -/

/-- The format of an engine in use; an engine that works has one. -/
def Engine.code (e : Engine) : Nat := e.fmt.getD 0

/-! ### Which links carry what (R246, R251) -/

/-- Whether an edge link is a fibre link under an image. -/
def fibreEdge (fs : List (BitVec 256)) (rows k side p : Nat) : Bool :=
  (match edgeCell side p rows with
    | some c => match swOf fs (k * 64 + c) with
      | some w => swFibre w 4
      | none => false
    | none => false) ||
  fs.any fun f => frameKind f == 4 && placeCluster (framePlace f) == k && placeSide (framePlace f) == side &&
    agPort (framePayload f) == p && agMode (framePayload f) ≠ 0 && agTokens (framePayload f)

/-- Whether the links of a binding carry what they must: records on the activation side, tokens on the header link. -/
def sideOk (fs : List (BitVec 256)) (rows k side : Nat) (header : Bool) : Bool :=
  (List.range 4).all (fun p => !fibreEdge fs rows k side p) &&
  (!header || fibreEdge fs rows k ((side + 2) % 4) 0)

/-- Whether an edge link is driven under the image in force: by a cell's switch, or an AG with that port (R246). -/
def Task.driven (t : Task) (k side p : Nat) : Bool :=
  (match edgeCell side p t.crec.rows with
    | some c => match t.sw? (k * 64 + c) with
      | some w => swSrc w 4 ≠ 0
      | none => false
    | none => false) ||
  t.ags.any fun a => placeCluster a.place == k && placeSide a.place == side && agPort a.frame == p && agMode a.frame ≠ 0

/-! ### The array queue (R249) -/

/-- The tiles at the head of the array queue: operation, how many, OVW. -/
def Engine.tile? (e : Engine) : Option (Nat × Nat × Bool) :=
  match e.arr.head?.map ArrCmd.kind with
  | some (.tiles op n ovw _ _ _) => some (op, n, ovw)
  | _ => none

/-- The number of the tile at the head of the array queue within its operation (R256). -/
def Engine.tileNo (e : Engine) : Nat :=
  match e.arr.head?.map ArrCmd.kind with
  | some (.tiles _ _ _ _ i _) => i
  | _ => 0

/-- Rows of the tile in progress that are taken. -/
def Engine.taken (e : Engine) : Nat := e.rowsDone + e.rows.length

/-- The address of the command at the head of the array queue. -/
def Engine.headAddr (e : Engine) : Nat := match e.arr with | x :: _ => x.addr.toNat | [] => 0

/-- The port of an engine that may freeze. -/
def Engine.port (e : Engine) : PortId := { kind := 4, place := e.k, part := 0 }

/-- The value that one lane supplies (R246). -/
def laneValue (code : Nat) (w : Lane) : BitVec 16 :=
  if code < 2 then w.setWidth 16 else BitVec.ofNat 16 (w.toNat % 2 ^ code)

/-- The sixteen values that a record supplies: none for a lane that is absent or inactive, which counts as an exact zero product
(R246). -/
def recordValues (code : Nat) (r : LinkRec) : List (Option (BitVec 16)) :=
  (List.range 16).map fun i => if bit16 (r.m &&& r.a) i then some (laneValue code (r.v.getD i 0)) else none

/-- The header token of a tile (R251). -/
def State.headerBeat (s : State) (t : Task) (e : Engine) : Fired :=
  match t.head (.eng e.k 4) with
  | none => .error .idle
  | some x =>
    let bad (sub : Nat) : Fired := .error (malformed sub (e.k * 64) 0 false t.openGo)
    let t1 := t.take (.eng e.k 4)
    let put (f : Engine → Engine) : Fired := match t1.engine? e.k with
      | some y => .ok (s, t1.putEngine (f { y with headerTaken := true }))
      | none => .error .idle
    match tokOf x.asToken with
    | .e => put id
    | .h w =>
      if hHop w ≠ 0 then bad 7
      else if hId w = 0x20 then put fun e => { e with cursor := BitVec.ofNat 32 (hVal w) }
      else if hId w = 0x21 && hVal w < 2 then put fun e => { e with tileOvw := some (hVal w == 1) }
      else bad 7
    | _ => bad 5

/-- One activation row, or one beat of a wide one, leaves the four links (R246). -/
def State.rowBeat (s : State) (t : Task) (e : Engine) : Fired :=
  let ds := (List.range 4).filter (t.driven e.k e.side ·)
  if ds.any (fun p => (t.head (.eng e.k p)).isNone) then .error .idle
  else
    let vals := (List.range 4).flatMap fun p =>
      if ds.contains p then match t.head (.eng e.k p) with
        | some x => recordValues e.code x.asRecord
        | none => List.replicate 16 none
      else List.replicate 16 none
    let t1 := ds.foldl (fun t p => t.take (.eng e.k p)) t
    match t1.engine? e.k with
    | none => .error .idle
    | some y =>
      let l := y.beats ++ vals
      .ok (s, t1.putEngine (if l.length ≥ 64 * y.active.q then { y with beats := [], rows := y.rows ++ [l] }
        else { y with beats := l }))

/-- One beat of an engine: while a tile stands at the head of its array queue, it takes the tile's header token, then
its rows. -/
def State.engineBeat (s : State) (t : Task) (e : Engine) : Fired :=
  if t.portFrozen e.port || e.tile?.isNone then .error .idle
  else if e.header && !e.headerTaken then s.headerBeat t e
  else if e.taken ≥ 64 then .error .idle
  else s.rowBeat t e

/-! ### Tiles (R73, R247, R248) -/

/-- One chunk: the exact sum of 64 products, rounded once and flushed (R73). A pair whose activation value is absent is an exact zero
product (R246). DESIGN CHOICE: that zero is +0, whatever the sign of the plane's element (log entry 81). -/
def chunkFp (rm : BitVec 2) (l : List (Option FVal × FVal)) : Nat × Flags :=
  let ps := l.filterMap fun p => p.1.map fun x => (x, p.2)
  let vs := ps.flatMap fun p => [p.1, p.2]
  if vs.any FVal.isNan then
    let (v, fl) := nanOut .s vs
    (v, fl ||| clashNV ps [])
  else roundSum rm true (ps.map (fun p => p.1.mul p.2) ++ List.replicate (64 - ps.length) (some (.fin false 0 0)))

/-- A signed mantissa of `m` bits; an absent value is the mantissa 0. -/
def mantOf (m : Nat) (v : Option (BitVec 16)) : Int := signedOf m ((v.getD 0).toNat % 2 ^ m)

/-- What column `n` of a plane adds to its destination element for one row: a word for each 32-bit part, and flags (R248). -/
def chunkOf (code : Nat) (rm : BitVec 2) (P : Plane) (x : List (Option (BitVec 16))) (n : Nat) : List Lane × Flags :=
  let col := (List.range 64).map fun k => (P.e.getD k []).getD n 0
  match fmtOf code with
  | some f =>
    let (c, fl) := chunkFp rm ((P.sel.zip col).map fun p => ((x.getD p.1 none).map fun v => f.unpack v.toNat, f.unpack p.2.toNat))
    ([BitVec.ofNat 32 c], fl)
  | none =>
    ([0, 1].map fun h => BitVec.ofInt 32 ((List.range 32).foldl (fun a j =>
      a + mantOf code (x.getD (32 * h + j) none) * mantOf code (some (col.getD (32 * h + j) 0))) (0 : Int)), 0)

/-- Whether some value of a row that was not multiplied is infinite or NaN (R248). -/
def rowSkips (code : Nat) (P : Plane) (x : List (Option (BitVec 16))) : Bool :=
  match fmtOf code with
  | none => false
  | some f => (List.range x.length).any fun k => (P.zero || !P.sel.contains k) && match x.getD k none with
      | some v => (f.unpack v.toNat).isNan || (f.unpack v.toNat).isInf
      | none => false

/-- The 64 destination elements of a row at an address, checked as its writes are: read in the task's own view unless they are
overwritten, and room made for them in the Cupboard of the engine's cluster (R247). -/
def State.destClaim (s : State) (t : Task) (e : Engine) (ovw : Bool) (va : Nat) :
    Except Stop (State × Task × List (Nat × Bool)) :=
  let w := destBytes e.code
  let fail (x : ViewErr) (access : Nat) : Except Stop (State × Task × List (Nat × Bool)) :=
    .error (.port x e.port e.k e.rowsDone access e.headAddr)
  if e.dscratch then
    if (List.range 64).all fun i => t.scratchOk (va + w * i) w then
      .ok (s, t, (List.range 64).map fun i => (va + w * i, false))
    else .error (.fault .perm 0 e.headAddr)
  else if t.crec.rohint then .error (.fault .perm 0 e.headAddr)
  else match (if ovw then (s, .ok (t, [])) else s.viewRead t e.k va (64 * w)) with
    | (_, .error x) => fail x 0
    | (s, .ok (t, _)) => match s.viewClaim t e.k va (64 * w) with
      | (_, .error x) => fail x 1
      | (s, .ok (t, ps)) =>
        .ok (s, t.gotSpace e.port,
          (List.range 64).map fun i => match ps[w * i]? with
            | some p => (p.1, p.2.io)
            | none => (0, false))

/-- One row of a tile (R248): its chunks are formed now, and join the destination when tl2 counts the command (R250). -/
def State.tileRow (s : State) (t : Task) (e : Engine) (op : Nat) (ovw : Bool) (x : List (Option (BitVec 16))) : Fired :=
  let va := e.dbase.toNat + destBytes e.code * ((e.cursor.toNat + e.rowsDone) * e.pitch)
  let P := e.active
  let skips := flagIf (rowSkips e.code P x) fNFSKIP
  if P.zero && !ovw then .ok (s, t.flag skips)
  else match s.destClaim t e ovw va with
    | .error z => .error z
    | .ok (s, t, as) =>
      let cs := (List.range 64).map fun n =>
        if P.zero then (List.replicate (destBytes e.code / 4) (0 : Lane), (0 : Flags)) else chunkOf e.code e.rm P x n
      let r : DestRow := { op := op, tile := e.tileNo, scratch := e.dscratch, va := va, addrs := as, code := e.code, rm := e.rm,
                           sat := e.sat, ovw := ovw, vals := cs.flatMap Prod.fst }
      .ok (s, { t.flag (cs.foldl (fun f p => f ||| p.2) skips) with dest := t.dest ++ [r] })

/-- The rows that a tile has taken are multiplied in order; the first that stops is reported with the state before it. -/
def State.tileRows (k op : Nat) (ovw : Bool) : Nat → State → Task → State × Task × Option Stop
  | 0, s, t => (s, t, none)
  | n + 1, s, t =>
    match t.engine? k with
    | none => (s, t, none)
    | some e => match e.rows with
      | [] => (s, t, none)
      | x :: r => match s.tileRow t e op ovw x with
        | .error z => (s, t, some z)
        | .ok (s, t) => match t.engine? k with
          | none => (s, t, none)
          | some y => State.tileRows k op ovw n s (t.putEngine { y with rows := r, rowsDone := e.rowsDone + 1 })

/-! ### Destinations (R74, R247, R250) -/

/-- The rows that the array queue of an engine still holds for an operation, with `more` tiles of it to be queued: each run by its first
row and its length. A header may set the cursor of an engine anew, so that any row may follow there (R251). -/
def Engine.rowsAhead (e : Engine) (o : Op2) (more : Nat) : List (Nat × Nat) :=
  let st := e.arr.foldl (fun (st : Nat × List (Nat × Nat)) x => match x.kind with
    | .tiles op n _ _ _ _ => (st.1 + 64 * n, if op == o.id then st.2 ++ [(st.1, 64 * n)] else st.2)
    | .cursor row _ => (row.toNat, st.2)
    | .swap => st) (e.cursor.toNat, [])
  let rest := if more = 0 then [] else [(match o.start with
    | some row => if o.granted = 0 then row.toNat else st.1
    | none => st.1, 64 * more)]
  let all := st.2 ++ rest
  if e.header && !all.isEmpty then [(0, 2 ^ 32)] else all

/-- Where a formed row lies, as ranges of addresses of its task: at its own, and in global memory at every other that leads to the same
pages (R247). -/
def State.rowPlaces (s : State) (t : Task) (r : DestRow) : List (Nat × Nat) :=
  let w := destBytes r.code
  (r.va, 64 * w) :: if r.scratch then [] else
    ((r.addrs.map fun a => a.1 / 4096).eraseDups).flatMap fun page =>
      let mine := (r.addrs.map Prod.fst).filter fun a => a / 4096 == page
      let low := mine.foldl min (4096 * page + 4095)
      (s.aliases t.die t.crec.ctx low).map fun va => (va, mine.foldl max low + w - low)

/-- Whether a run of rows of an engine's destination reaches a byte of a range of addresses (R247). -/
def Engine.rowsReach (e : Engine) (run range : Nat × Nat) : Bool :=
  let w := destBytes e.code
  let stop := range.1 + range.2
  let last := (stop - e.dbase.toNat) / (w * e.pitch)
  let first := (range.1 - e.dbase.toNat - 64 * w) / (w * e.pitch)
  (List.range (last + 1 - first)).any fun i =>
    let at' := e.dbase.toNat + w * ((first + i) * e.pitch)
    at' < stop && range.1 < at' + 64 * w && (first + i + 2 ^ 32 - run.1) % 2 ^ 32 < run.2

/-- Whether an operation whose tiles are not all done has formed a row that a given one adds to, or may still form one (R74, R248). -/
def State.mayReach (s : State) (t : Task) (o : Op2) (r : DestRow) : Bool :=
  let es := match o.engine with
    | some i => t.engines.filter fun (e : Engine) => e.k == i
    | none => t.sectionEngines o.sec
  (t.rowsOf o.id).any r.meets || (!o.zero && ((List.range es.length).zip es).any fun p =>
    p.2.dscratch == r.scratch && (p.2.rowsAhead o (tilesOf o.granted o.ungranted p.1 es.length)).any fun run =>
      (s.rowPlaces t r).any (p.2.rowsReach run))

/-- Whether rows must wait before they join: a command issued earlier, not all of whose tiles are done, may still update a destination
element of theirs, and its update comes first (R74, R248). -/
def State.joinsLate (s : State) (t : Task) (rs : List DestRow) : Bool :=
  rs.any fun r => t.ops2.any fun o => o.id < r.op && !o.done && s.mayReach t o r

/-- Walker arms that are done end; the operations at the head of tl2 that are done advance it, and their destination rows join the view
(R86, R153, R250). -/
def State.advanceTl2 (s : State) (t : Task) : State × Task × List Job :=
  let (t, js) := t.endArms
  let t' := t.advanceTl2 t.ops2.length
  let (s, t') := s.joinDest t' ((t.ops2.map Op2.id).filter fun i => t'.ops2.all fun o => o.id != i)
  (s, t', js)

/-- The tile at the head of an engine's array queue is done: the cursor moves on, a skipped tile is refunded at
retirement, and its operation has a tile less; the engines that ran a command elsewhere are free once it is complete (R110, R248,
R262). -/
def Task.tileDone (t : Task) (e : Engine) (op n : Nat) : Task :=
  let refund := if e.active.zero then tileDraw e.code - 2 else 0
  let last := n ≤ 1
  let arr := match e.arr with
    | x :: r =>
      let kind : ArrKind := match x.kind with
        | .tiles op n ovw mig i k => .tiles op (n - 1) ovw (mig && e.migrated.any fun m => m.1 == op) (i + k) k
        | y => y
      if last then r else { x with kind := kind } :: r
    | [] => []
  let e' : Engine := { e with
    cursor := e.cursor + 64, rows := [], rowsDone := 0, beats := [], headerTaken := false, tileOvw := none, arr := arr }
  let ops := t.ops2.map fun (o : Op2) => if o.id == op then { o with left := o.left - 1 } else o
  let t := t.putEngine e'.runCursors
  { t with
    skipRefund := t.skipRefund + refund, ops2 := ops,
    engines := t.engines.map fun (e : Engine) => { e with
      migrated := e.migrated.filter fun m => ops.any fun o => o.id == m.1 && (o.left ≠ 0 || o.ungranted ≠ 0) } }

/-! ### Loads (R249, R254, R258, R259) -/

/-- A word of an array in the task's own view, with the stop of a failed read. -/
def State.engRead (s : State) (t : Task) (e : Engine) (l : LoadCmd) (va n : Nat) : Except Stop (State × Task × Nat) :=
  match s.viewRead t e.k va n with
  | (s, .ok (t, b)) => .ok (s, t, ofLeBytes b)
  | (_, .error x) => .error (.port x e.port e.k l.buf.length 0 l.addr.toNat)

/-- The address of block `b` of a dense tile (R254). -/
def LoadCmd.blockAt (l : LoadCmd) (code b : Nat) : Nat :=
  match l.kind with
  | .lds _ pitch => if code < 2 then l.base.toNat + 2 * (b * pitch) else l.base.toNat + 128 * b
  | _ => l.base.toNat

/-- Read one block of a dense tile. -/
def State.ldsBlock (s : State) (t : Task) (e : Engine) (l : LoadCmd) (b : Nat) : Except Stop (State × Task × List Byte) :=
  let va := l.blockAt e.code b
  match l.kind with
  | .lds true _ => if t.scratchOk va 128 then .ok (s, t, s.scratchRead t va 128) else .error (.fault .perm 0 l.addr.toNat)
  | _ => match s.viewRead t e.k va 128 with
    | (s, .ok (t, x)) => .ok (s, t, x)
    | (_, .error x) => .error (.port x e.port e.k b 0 l.addr.toNat)

/-- The plane that the bytes of a dense tile give (R61, R254). -/
def planeOf (code : Nat) (buf : List Byte) : Plane :=
  let e : List (List (BitVec 16)) :=
    if code < 2 then
      (List.range 64).map fun k => (List.range 64).map fun n =>
        BitVec.ofNat 16 (ofLeBytes ((buf.drop (2 * (64 * k + n))).take 2))
    else
      (List.range 64).map fun k => (List.range 64).map fun n =>
        let blk := (buf.drop (4 * code * (2 * n + k / 32))).take (4 * code)
        BitVec.ofNat 16 (ofLeBytes blk / 2 ^ (code * (k % 32)) % 2 ^ code)
  { e := e, zero := false, q := 1, sel := List.range 64 }

/-- Run the granted blocks of a dense load, as far as they go. -/
def State.ldsRun (k : Nat) : Nat → State → Task → State × Task × Option Stop
  | 0, s, t => (s, t, none)
  | n + 1, s, t =>
    match t.engine? k with
    | none => (s, t, none)
    | some e => match e.loads with
      | [] => (s, t, none)
      | l :: r =>
        let b := l.buf.length / 128
        if b ≥ l.total then
          (s, t.putEngine { e with loads := r, shadow := planeOf e.code l.buf }, none)
        else if b ≥ l.granted then (s, t, none)
        else match s.ldsBlock t e l b with
          | .error z => (s, t, some z)
          | .ok (s, t, x) => match t.engine? k with
            | none => (s, t, none)
            | some y => State.ldsRun k n s (t.putEngine { y with loads := { l with buf := l.buf ++ x } :: r })

/-- A CSR block (R258): row pointers, column indices, values, k0, n0, R. -/
structure Csr where
  ptr : Nat
  col : Nat
  val : Nat
  k0 : Nat
  n0 : Nat
  rows : Nat

/-- Read a CSR block. -/
def State.csrBlock (s : State) (t : Task) (e : Engine) (l : LoadCmd) : Except Stop (State × Task × Csr) :=
  let rd (s : State) (t : Task) (i : Nat) := s.engRead t e l (l.base.toNat + 8 * i) 8
  match rd s t 0 with
  | .error x => .error x
  | .ok (s, t, p) => match rd s t 1 with
    | .error x => .error x
    | .ok (s, t, c) => match rd s t 2 with
      | .error x => .error x
      | .ok (s, t, v) => match rd s t 3 with
        | .error x => .error x
        | .ok (s, t, d3) => match rd s t 4 with
          | .error x => .error x
          | .ok (s, t, d4) => .ok (s, t, { ptr := p, col := c, val := v, k0 := d3 % 2 ^ 32, n0 := d3 / 2 ^ 32,
                                           rows := d4 % 2 ^ 32 })

/-- The entries `p` to `p + n − 1` of a CSR row: (column, value) pairs within the window; columns must rise (R258). -/
def State.csrEntries (e : Engine) (l : LoadCmd) (c : Csr) :
    Nat → Nat → Option Nat → State → Task → Except Stop (State × Task × List (Nat × BitVec 16))
  | 0, _, _, s, t => .ok (s, t, [])
  | n + 1, p, prev, s, t =>
    match s.engRead t e l (c.col + 4 * p) 4 with
    | .error x => .error x
    | .ok (s, t, j) =>
      if (match prev with | some q => decide (j ≤ q) | none => false) then
        .error (.fault .illegalOp (4 * p % 2 ^ 32) l.addr.toNat)
      else
        let here := c.n0 ≤ j && j < c.n0 + 64
        match (if here then s.engRead t e l (c.val + 2 * p) 2 else .ok (s, t, 0)) with
        | .error x => .error x
        | .ok (s, t, v) => match State.csrEntries e l c n (p + 1) (some j) s t with
          | .error x => .error x
          | .ok (s, t, r) => .ok (s, t, if here then (j - c.n0, BitVec.ofNat 16 v) :: r else r)

/-- Row `i` of the window: its entries; a row beyond R has none. -/
def State.csrRow (s : State) (t : Task) (e : Engine) (l : LoadCmd) (c : Csr) (i : Nat) :
    Except Stop (State × Task × List (Nat × BitVec 16)) :=
  if c.k0 + i ≥ c.rows then .ok (s, t, [])
  else match s.engRead t e l (c.ptr + 4 * (c.k0 + i)) 4 with
    | .error x => .error x
    | .ok (s, t, lo) => match s.engRead t e l (c.ptr + 4 * (c.k0 + i + 1)) 4 with
      | .error x => .error x
      | .ok (s, t, hi) =>
        if hi < lo then .error (.fault .illegalOp (4 * (c.k0 + i + 1) % 2 ^ 32) l.addr.toNat)
        else State.csrEntries e l c (hi - lo) lo none s t

/-- Several rows of the window. -/
def State.csrRows (e : Engine) (l : LoadCmd) (c : Csr) :
    List Nat → State → Task → Except Stop (State × Task × List (List (Nat × BitVec 16)))
  | [], s, t => .ok (s, t, [])
  | i :: r, s, t => match s.csrRow t e l c i with
    | .error x => .error x
    | .ok (s, t, x) => match State.csrRows e l c r s t with
      | .error x => .error x
      | .ok (s, t, xs) => .ok (s, t, x :: xs)

/-- A dense plane row from its entries. -/
def denseRow (l : List (Nat × BitVec 16)) : List (BitVec 16) := (List.range 64).map fun n => assocD l n 0

/-- 64 plane rows, the rest +0. -/
def padRows (l : List (List (BitVec 16))) : List (List (BitVec 16)) :=
  l ++ List.replicate (64 - l.length) (List.replicate 64 0)

/-- `mx.csr` as it runs (R258): the shadow plane. -/
def State.csrRun (s : State) (t : Task) (e : Engine) (l : LoadCmd) : Except Stop (State × Task × Plane) :=
  match s.csrBlock t e l with
  | .error x => .error x
  | .ok (s, t, c) => match State.csrRows e l c (List.range 64) s t with
    | .error x => .error x
    | .ok (s, t, rs) =>
      .ok (s, t, { e := rs.map denseRow, zero := rs.all List.isEmpty, q := 1, sel := List.range 64 })

/-- The activation columns that the mask of a condense block allows, with their rows (R259). -/
def State.condRun (s : State) (t : Task) (e : Engine) (l : LoadCmd) (q : Nat) : Except Stop (State × Task × Plane) :=
  match s.csrBlock t e l with
  | .error x => .error x
  | .ok (s, t, c) => match s.engRead t e l (l.base.toNat + 64) 32 with
    | .error x => .error x
    | .ok (s, t, mask) =>
      let ks := (List.range (64 * q)).filter fun k => mask.testBit k && c.k0 + k < c.rows
      match State.csrRows e l c ks s t with
      | .error x => .error x
      | .ok (s, t, rs) =>
        let kept := (ks.zip rs).filter fun p => !p.2.isEmpty
        if kept.length > 64 then .error (.fault .illegalOp kept.length l.addr.toNat)
        else .ok (s, t, { e := padRows (kept.map fun p => denseRow p.2), zero := kept.isEmpty, q := q,
                          sel := kept.map Prod.fst })

/-- Whether the load at the head of an engine's load queue may run: the swaps issued before it are done (R249). -/
def Engine.loadReady (e : Engine) : Bool :=
  match e.loads with
  | l :: _ => l.swaps ≤ e.swaps
  | [] => false

/-- Run the load at the head of an engine's load queue. -/
def State.loadRun (s : State) (t : Task) (e : Engine) : State × Task × Option Stop :=
  match e.loads with
  | [] => (s, t, none)
  | l :: r =>
    let finish (x : Except Stop (State × Task × Plane)) : State × Task × Option Stop := match x with
      | .error z => (s, t, some z)
      | .ok (s, t, p) => match t.engine? e.k with
        | some y => (s, t.putEngine { y with loads := r, shadow := p }, none)
        | none => (s, t, none)
    match l.kind with
    | .lds _ _ => State.ldsRun e.k (l.total + 2) s t
    | .csr => finish (s.csrRun t e l)
    | .cond q => finish (s.condRun t e l q)

/-- Whether the swap at the head of an engine's array queue may run: every load issued before it is done (R249). -/
def Engine.swapReady (e : Engine) : Bool :=
  match e.arr with
  | x :: _ => x.kind == .swap && e.loads.all fun l => l.seq > x.seq
  | [] => false

/-- Exchange the planes, with marks and widths (R249). -/
def Engine.swapRun (e : Engine) : Engine :=
  Engine.runCursors { e with active := e.shadow, shadow := e.active, swaps := e.swaps + 1, arr := e.arr.drop 1 }

/-- Whether an engine's queues are empty (R253, R261). -/
def Engine.empty (e : Engine) : Bool := e.loads.isEmpty && e.arr.isEmpty

end Sys2Proof.Machine
end

