-- ==== Sys2Proof/Machine/Beat.lean ====
section
/-! DEFINITION. One beat of the fabric: a unit fires, with the firings that zero-slot links join to it, and the hops
that follow; portal replies (R41, R42, R111, R163, R164, R228, R311, R312; log entry 9). -/

namespace Sys2Proof.Machine

open Sys2Proof

/-! ### One unit -/

/-- One unit fires by itself. -/
def State.fireUnit (s : State) (t : Task) (u : FUnit) : Fired :=
  match u with
  | .cu c => match t.cell? c with
    | some x => match x.cu with
      | some v => if cuFibre v then s.fibreBeat t x v else s.cuBeat t x v
      | none => .error .idle
    | none => .error .idle
  | .mu c => match t.cell? c with
    | some x => match x.mu with
      | some v => s.muBeat t x v
      | none => .error .idle
    | none => .error .idle
  | .ag p => match t.ag? p with
    | some a => s.agBeat t a
    | none => .error .idle
  | .eng k => match t.engine? k with
    | some e => s.engineBeat t e
    | none => .error .idle

/-! ### Whose items they are (R149) -/

/-- The links that a unit takes from. -/
def FUnit.inputs : FUnit → List Dest
  | .cu c => (List.range 4).map fun n => .cell c (5 + n)
  | .mu c => [.cell c 9]
  | .ag p => [.ag p false, .ag p true]
  | .eng k => (List.range 5).map fun i => .eng k i

/-- The goes of whose items a unit holds something, and the go that it runs a pass for. -/
def Task.goesAt (t : Task) : FUnit → List Nat
  | .cu c => match t.cell? c with | some x => x.own | none => []
  | .mu c => match t.cell? c with | some x => (x.passes.take 1).map Pass.go | none => []
  | .ag p => match t.ag? p with | some a => a.own ++ (a.passes.take 1).map Pass.go | none => []
  | .eng _ => []

/-- The goes of the items that a unit has taken between two states. -/
def takenOwn (t0 t : Task) (u : FUnit) : List Nat :=
  u.inputs.flatMap fun d =>
    let left := ((t.queue d).filter fun x => !x.own.isEmpty).length
    ((t0.queue d).take ((t0.queue d).length - left)).flatMap Item.own

/-- Whether a compute unit holds something of what it took that has still to leave. -/
def Cell.holds (x : Cell) : Bool := x.ctl.go.isSome || !x.portal.isEmpty || x.ports.any fun p => !p.replay.isEmpty

/-- After a unit's firing: the items that it wrote stem from the goes of those it took and of what it held; what it still holds stems
from them too (R149; log entry 19). -/
def Task.stamp (t0 t : Task) (u : FUnit) : Task :=
  let o := (takenOwn t0 t u ++ t0.goesAt u).eraseDups
  let mark (l : List Item) : List Item := l.map fun x => if x.own.isEmpty then { x with own := o } else x
  { t with
    cells := t.cells.map fun (x : Cell) => { x with
      links := x.links.map mark
      own := if u == .cu x.idx then (if x.holds then o else []) else x.own }
    ags := t.ags.map fun (a : Ag) => { a with
      q := mark a.q, q2 := mark a.q2
      own := if u == .ag a.place then (if a.busy then o else []) else a.own }
    engines := t.engines.map fun (e : Engine) => { e with inq := e.inq.map mark } }

/-- One unit fires by itself, and what it wrote is marked with where it stems from. -/
def State.fireOwned (s : State) (t : Task) (u : FUnit) : Fired := (s.fireUnit t u).map fun r => (r.1, t.stamp r.2 u)

/-! ### What a firing needs -/

/-- The input links of a compute unit that its next firing may use, as alternatives in order of preference. A join looks at the heads
of its ports that hold no token rewound; a header comes alone. -/
def cuWants (x : Cell) (v : BitVec 240) : List (List Dest) :=
  let a := Dest.cell x.idx (5 + cuSel v 0 0)
  let b := Dest.cell x.idx (5 + cuSel v 0 1)
  let en := (cuIns v).map fun n => Dest.cell x.idx (5 + n)
  if cuFibre v then
    if x.joins then [((cuIns v).filter fun n => (x.port n).replay.isEmpty).map fun n => .cell x.idx (5 + n), [a]]
    else [en, [.cell x.idx 5]]
  else match cuOp v 0 with
    | 0x71 => match cuImm v 0 % 4 with
      | 0 => [[a, b]]
      | 1 => [[if x.turn then b else a]]
      | _ => [[a], [b]]
    | 0x72 => [[b], [a]]
    | 0x80 => [[b, a], [b], [a]]
    | 0x82 => [[b], [], [a]]
    | 0x83 => [[b], [], [a]]
    | 0x84 => [[b], [], [a]]
    | 0x90 => [[], en]
    | 0x91 => [[], en]
    | _ => [en]

/-- The links that a unit's next firing may take from, as alternatives in order of preference. -/
def Task.wants (t : Task) (u : FUnit) : List (List Dest) :=
  match u with
  | .cu c => match t.cell? c with
    | some x => match x.cu with
      | some v => cuWants x v
      | none => []
    | none => []
  | .mu c => match (t.cell? c).bind Cell.mu with
    | some v => if muMode v = 2 || muMode v = 3 then [[.cell c 9]] else [[]]
    | none => []
  | .ag p => match t.ag? p with
    | some a =>
      let ins := (agIns t.frames t.crec.rows p a.frame).map fun q => Dest.ag p (q != agPort a.frame)
      if ins.isEmpty then [[]] else [[], ins, ins.take 1]
    | none => []
  | .eng k => match t.engine? k with
    | some e =>
      if e.header && !e.headerTaken then [[.eng k 4]]
      else [((List.range 4).filter (t.driven k e.side ·)).map fun p => Dest.eng k p]
    | none => []

/-! ### What drives a link -/

/-- What puts items on a link: a neighbour's link, a generator, or a unit of the cell. -/
inductive Driver where
  | hop (c n : Nat)
  | unit (u : FUnit)
deriving DecidableEq, Repr

/-- The generators that emit on an edge link. -/
def Task.agDrivers (t : Task) (k side p : Nat) : List Driver :=
  (t.ags.filter fun a => placeCluster a.place == k && placeSide a.place == side &&
    (agOuts t.frames t.crec.rows a.place a.frame).contains p).map fun a => .unit (.ag a.place)

/-- The link of a neighbour over which items arrive at a cell's switch as source 1–4. -/
def Task.hopFrom (t : Task) (c src : Nat) : List Driver :=
  match neighbour t.crec.rows c (src - 1) with
  | some d => [.hop d ((src + 1) % 4)]
  | none => []

/-- What drives the items of a source of a cell's switch. -/
def Task.sourceDrivers (t : Task) (c src : Nat) : List Driver :=
  match src with
  | 0 => []
  | 5 => (edgesOf t.crec.rows c).flatMap fun e => t.agDrivers (c / 64) e.1 e.2
  | 6 => [.unit (.cu c)]
  | 7 => [.unit (.cu c)]
  | 8 => [.unit (.mu c)]
  | n => t.hopFrom c n

/-- What drives a destination. -/
def Task.drivers (t : Task) (d : Dest) : List Driver :=
  match d with
  | .cell c n => match t.sw? c with
    | some v => t.sourceDrivers c (swSrc v n)
    | none => []
  | d =>
    let (k, side, p) := t.edgeAt d
    (match edgeCell side p t.crec.rows with
      | some c => match t.sw? (k * 64 + c) with
        | some v => t.sourceDrivers (k * 64 + c) (swSrc v 4)
        | none => []
      | none => []) ++ t.agDrivers k side p

/-! ### Joined firings -/

/-- What a joined firing has to bring about: a unit fires, or a zero-slot link carries an item. -/
inductive Goal where
  | unit (u : FUnit)
  | link (d : Dest)
deriving DecidableEq, Repr

/-- The first of several attempts that succeeds or faults. -/
def firstFired (f : Driver → Fired) : List Driver → Fired
  | [] => .error .idle
  | d :: r => match f d with
    | .error .idle => firstFired f r
    | x => x

/-- Bring every link of a list to carry an item. -/
def pullAll (f : State → Task → Dest → Fired) : List Dest → State → Task → Fired
  | [], s, t => .ok (s, t)
  | d :: r, s, t => match f s t d with
    | .ok (s, t) => pullAll f r s t
    | .error e => .error e

/-- What takes the item of a destination. -/
def Dest.taker : Dest → FUnit
  | .cell c n => if n = 9 then .mu c else .cu c
  | .ag p _ => .ag p
  | .eng k _ => .eng k

/-- The first alternative of a unit whose links can be brought to carry items and with which it fires. An item that was brought and
not taken has not crossed its link: its sender does not fire, and the unit has only seen what it would send (R163). -/
def firstWay (pull : State → Task → Dest → Fired) (fire : State → Task → Fired) (s : State) (t : Task) :
    List (List Dest) → Fired
  | [] => .error .idle
  | l :: r =>
    let z := l.filter fun d => t.slots d == 0 && (t.queue d).isEmpty
    match pullAll pull z s t with
    | .error .idle => firstWay pull fire s t r
    | .error e => .error e
    | .ok (s1, t1) => match fire s1 t1 with
      | .error .idle => firstWay pull fire s t r
      | .error e => .error e
      | .ok (s2, t2) =>
        let seen := z.filter fun d => !(t2.queue d).isEmpty
        if seen.isEmpty then .ok (s2, t2)
        else match pullAll pull (z.filter fun d => !seen.contains d) s t with
          | .error _ => firstWay pull fire s t r
          | .ok (s3, t3) =>
            if seen.any fun d => !(t3.queue d).isEmpty then firstWay pull fire s t r
            else match fire s3 (seen.foldl (fun t d => t.setQueue d (t1.queue d)) t3) with
              | .error .idle => firstWay pull fire s t r
              | .error e => .error e
              | .ok (s4, t4) => .ok (s4, seen.foldl (fun t d => t.setQueue d []) t4)

/-- The items that zero-slot links carry are taken by their receivers in the same beat, or nothing happens (R163). -/
def pushZero (f : Goal → State → Task → Fired) : Nat → State → Task → Fired
  | 0, s, t => if t.zeroHeld.isEmpty then .ok (s, t) else .error .idle
  | n + 1, s, t =>
    match t.zeroHeld with
    | [] => .ok (s, t)
    | d :: _ =>
      match (match d with
        | .cell c m => if m < 4 then (match t.hop c m with
            | some t => (Except.ok (s, t) : Fired)
            | none => .error .idle)
          else f (.unit d.taker) s t
        | d => f (.unit d.taker) s t) with
      | .error e => .error e
      | .ok (s, t) => if (t.queue d).isEmpty then pushZero f n s t else .error .idle

/-- The zero-slot links that a firing has left empty though it needs their room: those of the output that an `exit` has not chosen, and
every one of a `recirc` that faults. -/
def Task.spareOuts (t : Task) : FUnit → List Dest
  | .cu c => match (t.cell? c).bind Cell.cu with
    | some v =>
      if !cuFibre v && (((List.range 4).any fun k => cuOp v k = 0x73) || cuOp v 0 = 0x72 && t.beatFault.isSome) then
        ((cuOuts v).flatMap fun n => t.outDests c n).filter fun d => t.slots d == 0 && (t.queue d).isEmpty
      else []
    | none => []
  | _ => []

/-- A firing counts only if every output could take a record, one that it leaves empty too: the receivers of its
zero-slot links would take one in this beat (R164, R187). -/
def outsReady (f : Goal → State → Task → Fired) (n : Nat) (s : State) (t : Task) (u : FUnit) : Bool :=
  let ds := t.spareOuts u
  ds.isEmpty || match pushZero f n s (ds.foldl (fun t d => t.setQueue d [.record LinkRec.none]) t) with
    | .error .idle => false
    | _ => true

/-- Make a unit fire, its zero-slot inputs being brought by the firings of their senders. -/
def drive : Nat → Goal → State → Task → Fired
  | 0, _, _, _ => .error .idle
  | n + 1, .unit u, s, t =>
    firstWay (fun s t d => drive n (.link d) s t)
      (fun s t => match s.fireOwned t u with
        | .ok (s, t) => if outsReady (fun g s t => drive n g s t) n s t u then .ok (s, t) else .error .idle
        | x => x) s t (t.wants u)
  | n + 1, .link d, s, t =>
    if !(t.queue d).isEmpty then .ok (s, t)
    else firstFired (fun
      | .unit u => drive n (.unit u) s t
      | .hop c m =>
        match (if t.slots (.cell c m) == 0 then drive n (.link (.cell c m)) s t else .ok (s, t)) with
        | .error e => .error e
        | .ok (s, t) => match t.hop c m with
          | some t => .ok (s, t)
          | none => .error .idle) (t.drivers d)

/-- Enough joined firings for every link of a gang. -/
def Task.beatFuel (t : Task) : Nat := 2 * t.allDests.length + 4

/-- What follows a firing within its beat: zero-slot links empty, items move on to links with room. -/
def State.closeBeat (s : State) (t : Task) : Fired :=
  match pushZero (drive t.beatFuel) t.beatFuel s t with
  | .error e => .error e
  | .ok (s, t) => .ok (s, t.settle (t.allDests.length * 16))

/-- One beat of a unit: hops, its firing, and what is joined to it. -/
def State.beat (s : State) (t : Task) (u : FUnit) : Fired :=
  let t := t.settle (t.allDests.length * 16)
  match drive t.beatFuel (.unit u) s t with
  | .error e => .error e
  | .ok (s, t) => s.closeBeat t

/-- Whether the fabric of a task works. -/
def Task.running (t : Task) : Bool := t.ready && t.works

/-- A beat of a unit of a task; what stops it is taken on the state before it. A firing that faults ends the task with its beat. -/
def State.runBeat (s : State) (t : Task) (u : FUnit) : State × List Job :=
  if !t.running then (s, [])
  else match s.beat t u with
    | .ok (s, t) => match t.beatFault with
      | none => (s.fired t, [])
      | some (c, sub, addr) => (s.putTask { t with beatFault := none }).taskFault { t with beatFault := none } c sub addr
    | .error x => s.stop t x

/-- A beat of a compute unit that holds an operation of a kind. -/
def State.cuEvent (s : State) (h : Word) (cell : Nat) (kind : BitVec 240 → Bool) : Out :=
  s.onTask h fun s t => match (t.cell? cell).bind Cell.cu with
    | some v => if kind v then s.runBeat t (.cu cell) else (s, [])
    | none => (s, [])

/-- A beat of a generator in a mode. -/
def State.agEvent (s : State) (h : Word) (place mode : Nat) : Out :=
  s.onTask h fun s t => match t.ag? place with
    | some a => if agMode a.frame = mode then s.runBeat t (.ag place) else (s, [])
    | none => (s, [])

/-! ### The steps of the fabric -/

/-- CU_FIRE (R164): a compute unit outside fibre mode that is no order node. -/
def execCuFire (h : Word) (cell : Nat) (s : State) : Out :=
  s.cuEvent h cell fun v => !cuFibre v && (cuOp v 0 < 0x80 || cuOp v 0 = 0x85 || 0x90 ≤ cuOp v 0)

/-- FIBRE_UNIT_FIRE (R226): a compute unit in fibre mode without a join stage. -/
def execFibreUnitFire (h : Word) (cell : Nat) (s : State) : Out :=
  s.cuEvent h cell fun v => cuFibre v && !(0x60 ≤ cuOp v 0 && cuOp v 0 ≤ 0x66)

/-- JOIN_STEP (R228). -/
def execJoinStep (h : Word) (cell : Nat) (s : State) : Out :=
  s.cuEvent h cell fun v => cuFibre v && 0x60 ≤ cuOp v 0 && cuOp v 0 ≤ 0x66

/-- PMT_ENTER (R306). -/
def execPmtEnter (h : Word) (cell : Nat) (s : State) : Out := s.cuEvent h cell fun v => !cuFibre v && cuOp v 0 = 0x80

/-- PMT_EXIT (R306). -/
def execPmtExit (h : Word) (cell : Nat) (s : State) : Out := s.cuEvent h cell fun v => !cuFibre v && cuOp v 0 = 0x81

/-- CTL_SEQ (R307). -/
def execCtlSeq (h : Word) (cell : Nat) (s : State) : Out := s.cuEvent h cell fun v => !cuFibre v && cuOp v 0 = 0x82

/-- CTL_PIPE (R307). -/
def execCtlPipe (h : Word) (cell : Nat) (s : State) : Out := s.cuEvent h cell fun v => !cuFibre v && cuOp v 0 = 0x83

/-- CTL_STRM (R307). -/
def execCtlStrm (h : Word) (cell : Nat) (s : State) : Out := s.cuEvent h cell fun v => !cuFibre v && cuOp v 0 = 0x84

/-- BAR_NODE (R308). -/
def execBarNode (h : Word) (cell : Nat) (s : State) : Out := s.cuEvent h cell fun v => !cuFibre v && cuOp v 0 = 0x86

/-- MU_ACCESS (R190). -/
def execMuAccess (h : Word) (cell : Nat) (s : State) : Out := s.onTask h fun s t => s.runBeat t (.mu cell)

/-- AFFINE_ELEMENT (R235). -/
def execAffineElement (h : Word) (place : Nat) (s : State) : Out := s.agEvent h place 1

/-- GATHER_REQUEST (R236). -/
def execGatherRequest (h : Word) (place : Nat) (s : State) : Out := s.agEvent h place 2

/-- SCATTER_STORE (R237). -/
def execScatterStore (h : Word) (place : Nat) (s : State) : Out := s.agEvent h place 3

/-- LEVEL_EXPAND (R238). -/
def execLevelExpand (h : Word) (place : Nat) (s : State) : Out := s.agEvent h place 4

/-- CHANNEL_AG_ELEMENT (R239). -/
def execChannelAgElement (h : Word) (place : Nat) (s : State) : Out := s.agEvent h place 5

/-- ACTIVATION_ROW (R246). -/
def execActivationRow (h : Word) (k : Nat) (s : State) : Out := s.onTask h fun s t => s.runBeat t (.eng k)

/-- A change of a unit that may let an item leave: it leaves with what is joined to it, or stays. -/
def State.orLeave (s : State) (t : Task) (u : FUnit) (o : Option Task) : State :=
  match o with
  | none => s.putTask t
  | some t' => match s.closeBeat (t.stamp t' u) with
    | .ok (s', t') => if t'.beatFault.isNone then s'.fired t' else s.putTask t
    | .error _ => s.putTask t

/-- GATHER_REPLY (R236): the read of an outstanding request returns; the result at the head leaves if it can. -/
def execGatherReply (h : Word) (place idx : Nat) (s : State) : Out :=
  s.onTask h fun s t => match t.ag? place with
    | none => (s, [])
    | some a =>
      if !t.running || agMode a.frame ≠ 2 || t.portFrozen a.port then (s, [])
      else match s.gatherReply t a idx with
        | .error x => s.stop t x
        | .ok (s, t) => match t.ag? place with
          | some b => (s.orLeave { t with hangCount := 0 } (.ag place) (({ t with hangCount := 0 } : Task).gatherEmit b), [])
          | none => (s, [])

/-! ### Portal replies (R311, R312) -/

/-- Put an old value into the lanes of its request, the low half in the first lane. -/
def PortalFiring.fill (f : PortalFiring) (req : Nat) (wide : Bool) (value : Word) : PortalFiring :=
  match f.waiting.find? fun w => w.1 == req with
  | none => f
  | some (_, i) =>
    let l := setAt f.item.v i (value.setWidth 32)
    let l := if wide then setAt l (i + 1) ((value >>> 32).setWidth 32) else l
    { f with waiting := f.waiting.filter (fun w => w.1 != req),
             item := if f.out then { f.item with v := l } else f.item }

/-- The lane of an outstanding request of a portal. -/
def Cell.reqLane (x : Cell) (req : Nat) : Option Nat :=
  x.portal.findSome? fun f => (f.waiting.find? fun w => w.1 == req).map Prod.snd

/-- The reply of an outstanding request, if it is one: an error ends the task FAULTED with HOST, its subcode naming
lane and cell; a value, which is progress (R319), goes to its lanes, and the oldest firing whose replies are in leaves (R311). -/
def State.portalAnswer (s : State) (t : Task) (cell req : Nat) (value : Option Word) : State × List Job :=
  match t.cell? cell with
  | none => (s, [])
  | some x => match x.cu, x.reqLane req with
    | some v, some lane =>
      match value with
      | none => s.taskFault t .host (lane + 16 * cell) t.openGo
      | some w =>
        let y := { x with portal := x.portal.map fun f => f.fill req (portalWide (cuImm v 0)) w }
        let t := { t.putCell y with portalReqs := t.portalReqs - 1, hangCount := 0 }
        let s := if t.running then s.orLeave t (.cu cell) (t.portalOut y v) else s.putTask t
        (s.tidy, [])
    | _, _ => (s, [])

/-- PORTAL_REPLY (R311). -/
def execPortalReply (h : Word) (cell req : Nat) (ok : Bool) (value : Word) (s : State) : Out :=
  s.onTask h fun s t => s.portalAnswer t cell req (if ok then some value else none)

/-- PORTAL_TIMEOUT (R311). -/
def execPortalTimeout (h : Word) (cell req : Nat) (s : State) : Out :=
  s.onTask h fun s t => s.portalAnswer t cell req none

end Sys2Proof.Machine
end

