-- ==== Sys2Proof/Machine/Branch.lean ====
section
/-! DEFINITION. Branches and jumps (R141, R142, R371). -/

namespace Sys2Proof.Machine

open Sys2Proof

/-- Control goes to a target: a Bureau's target at or above 65,536 traps PERM (R371). -/
def issueBranch (i : Instr) (a b : Reg) (off : BitVec 12) (taken : Word → Word → Bool) (s : State) : Out :=
  let target (pc x y : Word) : Word := if taken x y then pc + off.signExtend 64 * 4 else pc + 4
  issueBoth i 1 noTrap
    (fun s d q =>
      let t := target q.pc (q.x a) (q.x b)
      if taken (q.x a) (q.x b) && t.toNat ≥ 65536 then s.takeTrap (.bureau d) .perm 0 0 t.toNat
      else (s.updBureau d fun q => { q with pc := t }, []))
    (fun s t => (s.putTask { t with pc := target t.pc (t.x a) (t.x b), wait := none, paid := false }, [])) s

/-- `beq` (R141). -/
def execBeq (a b : Reg) (off : BitVec 12) (s : State) : Out := issueBranch (.beq a b off) a b off (fun x y => x == y) s

/-- `bne` (R141). -/
def execBne (a b : Reg) (off : BitVec 12) (s : State) : Out := issueBranch (.bne a b off) a b off (fun x y => x != y) s

/-- `blt` (R141). -/
def execBlt (a b : Reg) (off : BitVec 12) (s : State) : Out := issueBranch (.blt a b off) a b off (fun x y => x.slt y) s

/-- `bge` (R141). -/
def execBge (a b : Reg) (off : BitVec 12) (s : State) : Out := issueBranch (.bge a b off) a b off (fun x y => !x.slt y) s

/-- `bltu` (R141). -/
def execBltu (a b : Reg) (off : BitVec 12) (s : State) : Out := issueBranch (.bltu a b off) a b off (fun x y => x < y) s

/-- `bgeu` (R141). -/
def execBgeu (a b : Reg) (off : BitVec 12) (s : State) : Out := issueBranch (.bgeu a b off) a b off (fun x y => !(x < y)) s

/-- A jump to a target that is a multiple of 4 and, in a task, below 2^52, or MISALIGN; on the Bureau an aligned target
at or above 65,536 is PERM; the return address is written once the target is good (R33, R142, R371). -/
def issueJump (i : Instr) (d : Reg) (target : Word → (Reg → Word) → Word) (s : State) : Out :=
  issueBoth i 1 noTrap
    (fun s k q =>
      let t := target q.pc q.x
      if t.toNat % 4 ≠ 0 then s.takeTrap (.bureau k) .misalign 0 0 t.toNat
      else if t.toNat ≥ 65536 then s.takeTrap (.bureau k) .perm 0 0 t.toNat
      else (s.updBureau k fun q => { q.setX d (q.pc + 4) with pc := t }, []))
    (fun s q =>
      let t := target q.pc q.x
      if t.toNat % 4 ≠ 0 || t.toNat ≥ 2 ^ 52 then s.trapAt q .misalign 0
      else (s.putTask { q.setX d (q.pc + 4) with pc := t, wait := none, paid := false }, [])) s

/-- `jal` (R142). -/
def execJal (d : Reg) (off : BitVec 20) (s : State) : Out :=
  issueJump (.jal d off) d (fun pc _ => pc + off.signExtend 64 * 4) s

/-- `jalr` (R142): xA is read before xD is written. -/
def execJalr (d a : Reg) (imm : BitVec 12) (s : State) : Out :=
  issueJump (.jalr d a imm) d (fun _ x => x a + imm.signExtend 64) s

end Sys2Proof.Machine
end

