-- ==== Sys2Proof/Machine/Stream.lean ====
section
/-! DEFINITION. Sections and streams: the element draw of a source, stream goes, arms, staging an image, and the waits
`bar`, `bar.cfg`, `drain` and `fence` (R104–R109, R149–R156, R209, R241, R243, R295). -/

namespace Sys2Proof.Machine

open Sys2Proof

/-! ### What a source reaches (R106, R241) -/

/-- Where the items of a source go first. -/
def Task.sourceDests (t : Task) : Source → List Dest
  | .mu c => t.dests c 8
  | .ag p => t.agOutDests p

/-- The units that take what reaches some destinations, each with its largest factor. -/
def unitsOf (l : List (Dest × Nat)) : List (FUnit × Nat) :=
  l.foldl (fun us d => match d.1.unit? with
    | none => us
    | some u => match us.find? fun y => y.1 == u with
      | none => us ++ [(u, d.2)]
      | some y => if y.2 < d.2 then us.map fun z => if z.1 == u then (u, d.2) else z else us) []

/-- The compute units that a compute unit's outputs reach. -/
def Task.cuReach (t : Task) (c : Nat) : List Nat :=
  (unitsOf (t.reach (t.cuOutDests c))).filterMap fun u => match u.1 with | .cu d => some d | _ => none

/-- The pass bounds of the `recirc` stages on a cycle with a compute unit, multiplied. -/
def Task.loopFactor (t : Task) (c : Nat) : Nat :=
  ((t.cuReach c).filter fun r => match t.cuFrame r with
    | some v => !cuFibre v && cuOp v 0 = 0x72 && (t.cuReach r).contains c
    | none => false).foldl (fun n r => match t.cuFrame r with | some v => n * cuImm v 0 | none => n) 1

/-- The grains of one firing of a compute unit; `jstop` and `jcount` draw as for one input port (R106, R232). -/
def cuGrains (v : BitVec 240) : Nat :=
  let op := cuOp v 0
  if cuFibre v && 0x60 ≤ op && op ≤ 0x66 then (if op ≥ 0x65 then 1 else (cuIns v).length)
  else if op = 0x85 || op = 0x90 || op = 0x91 then 4
  else (List.range 4).foldl (fun n k => n + opDraw (cuOp v k)) 0

/-- The grains of one element at a generator. -/
def agGrains (v : BitVec 240) : Nat := match agMode v with | 1 => 4 | 2 => 2 | 3 => 4 | 4 => 2 | 5 => 2 | _ => 0

/-- The grains that one element costs at a unit it reaches. -/
def Task.unitGrains (t : Task) : FUnit → Nat
  | .cu c => match t.cuFrame c with
    | some v => cuGrains v * t.loopFactor c
    | none => 0
  | .mu _ => 2
  | .ag p => match t.agFrame p with
    | some v => agGrains v
    | none => 0
  | .eng _ => 0

/-- The element draw E of a source (R106, R241). -/
def Task.elementDraw (t : Task) (x : Source) : Nat :=
  (match x with
    | .mu _ => 2
    | .ag p => match t.agFrame p with | some v => agGrains v | none => 0) +
  (unitsOf (t.reach (t.sourceDests x))).foldl (fun n u => n + u.2 * t.unitGrains u.1) 0

/-! ### Sections (R149) -/

/-- Whether an item that stems from a go is still under way: on a link, or held in a unit. -/
def Task.carries (t : Task) (id : Nat) : Bool :=
  (t.allDests.any fun d => (t.queue d).any fun x => x.own.contains id) ||
  (t.cells.any fun x => x.own.contains id) || t.ags.any fun a => a.own.contains id

/-- Whether the sources of a go have left their section: each has delivered its last element, and every item that stems from it has
been consumed or discarded (R149; log entry 19). -/
def Task.goDone (t : Task) (g : Go) : Bool := !t.goOpen g.id && !t.carries g.id

/-- Whether a section is drained (R149). -/
def Task.drained (t : Task) (sec : Nat) : Bool :=
  (t.gos.all fun g => g.sec ≠ sec || t.goDone g) &&
  (t.ops2.all fun o => o.sec ≠ sec || (o.ungranted = 0 && o.left = 0))

/-- The units that some goes reach. -/
def Task.goUnits (t : Task) (p : Go → Bool) : List FUnit :=
  (unitsOf (t.reach ((t.gos.filter p).flatMap fun g => g.srcs.flatMap fun x => t.sourceDests x.1))).map Prod.fst

/-- The first input that holds part of a pass. -/
def openPort (ps : List PortState) : Nat :=
  ((List.range ps.length).find? fun n => match ps[n]? with | some p => p.begun && !p.delivered | none => false).getD 0

/-- The place, port and kind of a unit that holds part of a pass (R243 subcode 8). -/
def Task.heldPass (t : Task) : FUnit → Option (Nat × Nat × Bool)
  | .cu c => match t.cell? c with
    | some x => if x.midPass then some (c, openPort x.ports, false) else none
    | none => none
  | .mu c => match t.cell? c with
    | some x => match x.sw with
      | some w => if swFibre w 9 && (x.pos ≠ 0 || x.tail ≠ 0) && (match x.mu with
          | some v => muMode v == 2 || muMode v == 3
          | none => false) then some (c, 0, false) else none
      | none => none
    | none => none
  | .ag p => match t.ag? p with
    | some a => if a.midPass || (agTokens a.frame && agMode a.frame = 1 && a.pos ≠ 0) then
        some (p, openPort [a.inp, a.inp2], true) else none
    | none => none
  | .eng _ => none

/-- The drain check of some sections: the lowest place that holds part of a pass, though no source of another section
that has not ended feeds it (R243; log entry 50). -/
def Task.openPass (t : Task) (p : Nat → Bool) : Option (Nat × Nat × Bool) :=
  let others := t.goUnits fun g => !p g.sec && !t.goDone g
  ((t.goUnits fun g => p g.sec).filter fun u => !others.contains u).foldl (fun b u => match t.heldPass u, b with
    | some x, some y => if x.1 < y.1 then some x else some y
    | some x, none => some x
    | none, b => b) none

/-- The drain check and its fault, or the task with the sections' goes forgotten. -/
def Task.closeSections (t : Task) (p : Nat → Bool) : Except Stop Task :=
  match t.openPass p with
  | some (place, port, ag) => .error (malformed 8 place port ag t.pc.toNat)
  | none => .ok { t with gos := t.gos.filter fun g => !p g.sec }

/-! ### Waiting (R151–R154, R295) -/

/-- Whether the work that `bar` covers is done, apart from the drain check (R151). -/
def Task.barMet (t : Task) : Bool :=
  (List.range 8).all t.drained && t.nests.isEmpty && t.ops2.isEmpty && t.arms.isEmpty &&
  t.engines.all fun e => e.loads.isEmpty

/-- A wait of the thread that is a funding point: the arms delivered are funded first; then what `f` says, if the task
is still there and its gate RUNNING (R107). -/
def State.funded (s : State) (t : Task) (i : Instr) (f : State → Task → State × List Job) : State × List Job :=
  let (s, js) := (s.putTask (t.block i)).fundArms t.handle (t.arms.length + 1)
  match s.task? t.handle with
  | none => (s, js)
  | some t =>
    if t.gate != .running then (s, js)
    else
      let (s, js') := f s t
      (s, js ++ js')

/-- Wait until a condition holds and the sections are drained; then go on. -/
def State.barWait (s : State) (t : Task) (i : Instr) (met : Task → Bool) (p : Nat → Bool)
    (k : State → Task → State × List Job) : State × List Job :=
  if !met t then (s.putTask (t.block i), [])
  else match t.closeSections p with
    | .error x => s.stop t x
    | .ok t => k s t

/-- `bar` (R151). -/
def State.barBody (s : State) (t : Task) : State × List Job :=
  s.funded t .bar fun s t => s.barWait t .bar Task.barMet (fun _ => true) fun s t => (s.putTask (t.advance 4), [])

/-- Whether the links of the bound engines carry what they must under an image (R246, R251; log entry 22). -/
def Task.bindingsOk (t : Task) (fs : List (BitVec 256)) : Bool :=
  t.engines.all fun e => e.fmt.isNone || sideOk fs t.crec.rows e.k e.side e.header

/-- What `bar.cfg` does once it has completed as `bar` (R152). -/
def State.putStaged (s : State) (t : Task) : State × List Job :=
  match t.staged with
  | none => (s.putTask (t.advance 4), [])
  | some fs =>
    if t.bindingsOk fs then (s.putTask (({ t with staged := none }.install fs).advance 4), [])
    else s.trapAt t .configReject 5

/-- `bar.cfg` (R152). -/
def State.barCfgBody (s : State) (t : Task) : State × List Job :=
  s.funded t .barCfg fun s t => s.barWait t .barCfg Task.barMet (fun _ => true) State.putStaged

/-- The destination rows that `drain` makes visible: those of the section's finished commands, after those of earlier ones that they add
to (R74, R154, R250). -/
def Task.sectionRows (t : Task) (sec : Nat) : List DestRow := t.joinSet fun o => o.sec == sec

/-- Whether `drain` has waited long enough: the section is drained, and the updates of its commands need not wait for those of a command
issued earlier to the same destination (R74, R154). DEDUCED: a tile whose updates still wait for an earlier command's is outstanding (log
entry 71). -/
def State.drainMet (s : State) (t : Task) (sec : Nat) : Bool := t.drained sec && !s.joinsLate t (t.sectionRows sec)

/-- What the engines of a section have formed for their finished commands joins the view (R154, R250). -/
def State.joinSection (s : State) (t : Task) (sec : Nat) : State × Task := s.joinRows t (t.sectionRows sec)

/-- `drain` (R154). -/
def State.drainBody (sec : BitVec 5) (s : State) (t : Task) : State × List Job :=
  s.barWait t (.drain sec) (fun t => s.drainMet t sec.toNat) (fun n => n == sec.toNat)
    fun s t =>
      let (s, t) := s.joinSection t sec.toNat
      (s.putTask (t.advance 4), [])

/-- Whether the copies issued so far are done (R295). -/
def Task.copiesDone (t : Task) : Bool := t.timeline 0 ≥ t.issued.getD 0 0 && t.timeline 1 ≥ t.issued.getD 1 0

/-- The portal requests of a task whose replies are outstanding. -/
def Task.portalIds (t : Task) : List Nat := t.cells.flatMap fun x => x.portal.flatMap fun f => f.waiting.map Prod.fst

/-- Whether the portal requests that were outstanding when the `fence` issued have their replies (R295). -/
def Task.repliesIn (t : Task) : Bool := (t.fenceReqs.getD []).all fun r => !t.portalIds.contains r

/-- `fence` in a task: its X part is the replies of the portal requests issued before it, C the copies, F as `bar` (R295). -/
def State.fenceBody (k : BitVec 3) (s : State) (t : Task) : State × List Job :=
  let i : Instr := .fence k
  let t : Task := { t with fenceReqs := some (if t.paid && t.wait == some i then t.fenceReqs.getD t.portalIds else t.portalIds) }
  let rest (t : Task) : Bool := (!k.getLsbD 0 || t.copiesDone) && (!k.getLsbD 2 || t.repliesIn)
  let on (s : State) (t : Task) : State × List Job := (s.putTask { t.advance 4 with fenceReqs := none }, [])
  if k.getLsbD 1 then s.funded t i fun s t => s.barWait t i (fun t => rest t && t.barMet) (fun _ => true) on
  else if rest t then on s t
  else (s.putTask (t.block i), [])

/-- `bar` (R151). -/
def execBar (s : State) : Out := issueTask .bar 1 noTrap State.barBody s

/-- `bar.cfg` (R152). -/
def execBarCfg (s : State) : Out := issueTask .barCfg 1 noTrap State.barCfgBody s

/-- `drain` (R154). -/
def execDrain (sec : BitVec 5) (s : State) : Out := issueTask (.drain sec) 1 noTrap (State.drainBody sec) s

/-- `fence` (R295). On the Bureau it completes at once: every earlier store has landed (R287). -/
def execFence (k : BitVec 3) (s : State) : Out :=
  issueBoth (.fence k) 1 (fun _ => if k = 0 then some (.illegalOp, 0) else none)
    (fun s d b => if k = 0 then s.takeTrap (.bureau d) .illegalOp 0 0 0 else (s.updBureau d fun _ => b.advance 4, []))
    (State.fenceBody k) s

/-- BAR_RELEASE (R151): a thread that waits in `bar`, `bar.cfg` or `drain` goes on if it may. -/
def execBarRelease (h : Word) (s : State) : Out :=
  s.onTask h fun s t =>
    if t.gate != .running || t.threadFrozen || !t.paid then (s, [])
    else match t.wait with
      | some .bar => s.barBody t
      | some .barCfg => s.barCfgBody t
      | some (.drain sec) => State.drainBody sec s t
      | _ => (s, [])

/-! ### Staging an image (R150) -/

/-- `cfg.load` (R150): an earlier staged image is discarded when it issues. -/
def State.cfgLoadBody (a : Reg) (s : State) (t : Task) : State × List Job :=
  s.loadGo { t.block (.cfgLoad a) with staged := if t.paid then t.staged else none }

/-- `cfg.load` (R150). -/
def execCfgLoad (a : Reg) (s : State) : Out :=
  issueCmd (.cfgLoad a) 8 .cfgLoad (fun t => if wbits (t.x a) 4 0 ≠ 0 then some (.misalign, 0) else none)
    (fun s t => [(s.framesLeft t (t.x a).toNat [], 1)]) (State.cfgLoadBody a) s

/-! ### Arms (R153) -/

/-- The operations at the head of tl2 that are done advance it. -/
def State.settleTl2 (s : State) (h : Word) : State × List Job :=
  match s.task? h with
  | none => (s, [])
  | some t =>
    let (s, t, js) := s.advanceTl2 t
    (s.putTask t, js)

/-- Grant a command that has issued, then let tl2 follow. -/
def State.grantArm (s : State) (t : Task) (c : Cmd) : State × List Job :=
  let (s, js) := s.grantCmd t c
  let (s, js') := s.settleTl2 t.handle
  (s, js ++ js')

/-- The draw of a tile of a section's engines. -/
def Task.sectionDraw (t : Task) (sec : Nat) : Nat := tileDraw (((t.sectionEngines sec).head?.bind Engine.fmt).getD 0)

/-- `arm` (R153). -/
def State.armBody (sec : BitVec 5) (b : Reg) (s : State) (t : Task) : State × List Job :=
  let n := (t.x b).toNat
  if n ≥ 2 ^ 32 || (t.sectionEngines sec.toNat).isEmpty then s.trapAt t .illegalOp 0
  else
    let (s, id) := s.newId
    let o : Op2 := { id := id, addr := t.pc, sec := sec.toNat, ungranted := n, left := 0, granted := 0, start := none,
                     zero := false, ovw := false, mig := false, engine := none, node := none }
    s.grantArm { t.advance 4 with ops2 := t.ops2 ++ [o] }
      { kind := .arm id, addr := t.pc, issue := 1, issued := true, runs := [(n, t.sectionDraw sec.toNat)], done := 0 }

/-- `arm` (R153). -/
def execArm (sec : BitVec 5) (b : Reg) (s : State) : Out :=
  issueCmd (.arm sec b) 1 (.arm 0) noTrap
    (fun _ t => if (t.x b).toNat < 2 ^ 32 then [((t.x b).toNat, t.sectionDraw sec.toNat)] else [])
    (State.armBody sec b) s

/-! ### Stream goes (R155, R156, R209, R241) -/

/-- The MU sources that a descriptor selects. -/
def Task.muSources (t : Task) (d : Word) : List Source :=
  (t.cells.filter fun x => srcCell d x.idx &&
    match x.mu with
    | some v => muMode v = 1 || muMode v = 4
    | none => false).map fun x => .mu x.idx

/-- Put an AG place into a list in rising order of cluster, side and generator. -/
def insertPlace (a : Ag) : List Ag → List Ag
  | [] => [a]
  | b :: r => if a.place ≤ b.place then a :: b :: r else b :: insertPlace a r

/-- The generators that a descriptor selects and that are sources, in the order of R209. -/
def Task.goAgs (t : Task) (d : Word) : List Ag :=
  (t.ags.filter fun a => srcPlace d a.place && t.agSource a).foldr insertPlace []

/-- The count of a generator's pass, where a compressed LEVEL source starts, and the reads that take (R238, R241). -/
def State.agCount (s : State) (t : Task) (a : Ag) : Except Stop (State × Task × Nat × Nat) :=
  match agMode a.frame with
  | 1 => .ok (s, t, a.boxTotal, 0)
  | 4 => match s.levelFibre t a 0 with
    | .ok (s, t, lo, n) => .ok (s, t, n, lo)
    | .error x => .error x
  | _ => .ok (s, t, agBound a.frame, 0)

/-- The counts of several generators. -/
def State.agCounts (s : State) (t : Task) : List Ag → Except Stop (State × Task × List (Ag × Nat × Nat))
  | [] => .ok (s, t, [])
  | a :: r => match s.agCount t a with
    | .error x => .error x
    | .ok (s, t, n, lo) => match s.agCounts t r with
      | .error x => .error x
      | .ok (s, t, l) => .ok (s, t, (a, n, lo) :: l)

/-- The count of an MU's pass. -/
def Task.muTotal (t : Task) (c : Nat) : Nat :=
  match (t.cell? c).bind Cell.mu with
  | some v => muCount v
  | none => 0

/-- The waves of a go, as runs of equal draws, from the counts and element draws of its sources (R106). -/
def waveRuns (l : List (Nat × Nat)) : List (Nat × Nat) :=
  let cs := (sortNat (l.map Prod.fst)).eraseDups.filter (· ≠ 0)
  ((0 :: cs).zip cs).map fun p => (p.2 - p.1, (l.filter fun x => x.1 ≥ p.2).foldl (fun n x => n + x.2) 0)

/-- The sources of a go with counts and element draws. -/
def Task.goSources (t : Task) (d : Word) (ags : List (Ag × Nat × Nat)) : List (Source × Nat × Nat) :=
  ((t.muSources d).map fun x => match x with
    | .mu c => (x, t.muTotal c, t.elementDraw x)
    | .ag _ => (x, 0, 0)) ++
  ags.map fun a => (.ag a.1.place, a.2.1, t.elementDraw (.ag a.1.place))

/-- Give every source of a go its pass. -/
def Task.addPasses (t : Task) (id : Nat) (d : Word) (ags : List (Ag × Nat × Nat)) : Task :=
  let mus := (t.muSources d).filterMap fun x => match x with | .mu c => some c | .ag _ => none
  let n0 := t.issued.getD 3 0
  let pass (total num lo : Nat) : Pass := { go := id, total := total, granted := 0, pos := 0, num := num, lo := lo }
  let ranked := (List.range ags.length).zip ags
  { t with
    cells := t.cells.map fun x => if mus.contains x.idx then { x with passes := x.passes ++ [pass (t.muTotal x.idx) 0 0] } else x
    ags := t.ags.map fun a => match ranked.find? fun p => p.2.1.place == a.place with
      | some (i, _, n, lo) => { a with passes := a.passes ++ [pass n (n0 + i + 1) lo] }
      | none => a
    issued := setAt t.issued 3 (n0 + ags.length) }

/-- A stream go (R156): the check, the sources, the waves. -/
def State.goBody (i : Instr) (sec : BitVec 5) (d : Word) (gate : Option (Nat × Nat)) (s : State) (t : Task) :
    State × List Job :=
  if t.srcBad d then s.trapAt t .illegalOp 0
  else
    let (s, id) := s.newId
    let g : Go := { id := id, sec := sec.toNat, addr := t.pc, gate := gate,
                    launched := match gate with | some (n, v) => t.timeline n ≥ v | none => true, srcs := [] }
    match s.agCounts t (t.goAgs d) with
    | .error (.port e _ _ _ acc _) => s.threadErr t i acc e
    | .error (.fault c sub _) => s.taskFault t c sub t.pc.toNat
    | .error .idle => (s, [])
    | .ok (s, t, ags) =>
      let srcs := t.goSources d ags
      let t1 := t.advance 4
      if srcs.isEmpty then (s.putTask t1, [])
      else
        s.grantCmd ({ t1 with gos := t1.gos ++ [{ g with srcs := srcs }] }.addPasses id d ags)
          { kind := .go id, addr := t.pc, issue := 1, issued := true, runs := waveRuns (srcs.map Prod.snd), done := 0 }

/-- The waves that a go would ask for, for the report of a refused issue. -/
def State.goUnits (s : State) (t : Task) (d : Word) : List (Nat × Nat) :=
  if t.srcBad d then []
  else match s.agCounts t (t.goAgs d) with
    | .ok (_, t, ags) => waveRuns ((t.goSources d ags).map Prod.snd)
    | .error _ => []

/-- `strm.go`, and `strm.cond` (R156), once they have issued. -/
def State.strmGoBody (sec : BitVec 5) (a : Reg) (s : State) (t : Task) : State × List Job :=
  State.goBody (.strmGo sec a) sec (t.x a) none s t
def State.strmCondBody (sec : BitVec 5) (a b : Reg) (s : State) (t : Task) : State × List Job :=
  State.goBody (.strmCond sec a b) sec (t.x a) (some (wbits (t.x b) 2 0, wbits (t.x b) 63 3)) s t

/-- `strm.go` (R156). -/
def execStrmGo (sec : BitVec 5) (a : Reg) (s : State) : Out :=
  issueCmd (.strmGo sec a) 1 (.go 0) noTrap (fun s t => s.goUnits t (t.x a))
    (State.strmGoBody sec a) s

/-- `strm.cond` (R156). -/
def execStrmCond (sec : BitVec 5) (a b : Reg) (s : State) : Out :=
  issueCmd (.strmCond sec a b) 1 (.go 0) noTrap (fun s t => s.goUnits t (t.x a))
    (State.strmCondBody sec a b) s

/-- STREAM_GATE_LAUNCH (R156): the gate of a go is reached and its sources launch. -/
def execStreamGateLaunch (h : Word) (go : Nat) (s : State) : Out :=
  s.onTask h fun s t =>
    (s.putTask { t with gos := t.gos.map fun (g : Go) => if g.id == go && !g.launched then
      { g with launched := match g.gate with | some (n, v) => t.timeline n ≥ v | none => true } else g }, [])

end Sys2Proof.Machine
end

