-- ==== Sys2Proof/Machine/NestOps.lean ====
section
/-! DEFINITION. `nest`: legal patterns, checks, draw, and performing granted elements (R34, R35, R105, R158–R161,
R316). -/

namespace Sys2Proof.Machine

open Sys2Proof

/-! ### Legal patterns (R158, R159) -/

/-- The unary operations of a nest. -/
def nestUnary (op : Nat) : Bool := op == 0 || op == 7 || op == 0x32 || op == 0x33 || (0x38 ≤ op && op ≤ 0x41)

/-- The ordered operations of a nest. -/
def nestOrdered (op : Nat) : Bool :=
  op == 2 || (0x0B ≤ op && op ≤ 0x10) || (0x23 ≤ op && op ≤ 0x25) || (0x34 ≤ op && op ≤ 0x36)

/-- The accumulating operations of a nest. -/
def nestAccumulating (op : Nat) : Bool :=
  op == 4 || op == 0x12 || op == 0x13 || (0x29 ≤ op && op ≤ 0x2B) || op == 0x42 || op == 0x43

/-- Whether a nest reduces (R159). -/
def nestReduces (w : NestWord) : Bool := w.scan || (w.lv.take (w.rl.toNat + 1)).all fun l => l.sd == 0

/-- Whether the operands of a nest are those that its operation takes (R158, R159). -/
def nestOk (w : NestWord) : Bool :=
  let op := w.op.toNat
  let noB := w.xb == 0
  if nestUnary op then noB && !w.acc && !nestReduces w
  else if opCombining op then (if nestReduces w then noB else !noB && !w.acc)
  else if nestOrdered op then !noB && !w.acc && !nestReduces w
  else if nestAccumulating op then !noB && (nestReduces w || w.acc)
  else false

/-! ### Draw and checks (R105, R160) -/

/-- The draw of one element (R105). -/
def nestDraw (w : NestWord) : Nat :=
  let part (scratch : Bool) : Nat := if scratch then 2 else 4
  part w.as + (if w.xb = 0 then 0 else part w.bs) + (if w.acc then part w.ds else 0) + part w.ds + opDraw w.op.toNat

/-- The subcode of a check or fault at an operand of an element. -/
def nestSub (o : Opnd) (reason j : Nat) : Nat := o.num + 4 * reason + 16 * (j % 2 ^ 28)

/-- The failure of one check: trap and subcode (R160). -/
def Task.nestCheck (t : Task) (w : NestWord) (base : Word) (o : Opnd) (j : Nat) : Option (Trap × Nat) :=
  let a := nestAddr w base o j
  if base.toNat % nestWidth w o ≠ 0 then some (.misalign, nestSub o 3 0)
  else if nestScratch w o then
    if a < 0 || a ≥ 2 ^ 32 then some (.nestRange, nestSub o 3 j)
    else if !t.cellOk (a.toNat / 2 ^ 17) then some (.nestRange, nestSub o 1 j)
    else if a.toNat % 2 ^ 17 ≥ Config.scratchBytes then some (.nestRange, nestSub o 2 j)
    else none
  else if a < 0 || a ≥ 2 ^ 52 then some (.nestRange, nestSub o 0 j)
  else if o == .d && t.crec.rohint then some (.perm, 0)
  else none

/-- The base registers of a nest. -/
def Task.nestBase (t : Task) (w : NestWord) : Opnd → Word
  | .d => t.x w.xd
  | .a => t.x w.xa
  | .b => t.x w.xb

/-- The first failure over the elements from number `j` on, at each the operands in the order d, a, b. -/
def Task.nestChecks (t : Task) (w : NestWord) : Nat → Nat → Option (Trap × Nat)
  | 0, _ => none
  | n + 1, j =>
    match (nestUsed w).findSome? fun o => t.nestCheck w (t.nestBase w o) o j with
    | some x => some x
    | none => t.nestChecks w n (j + 1)

/-! ### Issue -/

/-- A nest issues: the checks of every element, then its grant (R160, R161). -/
def State.nestBody (w : NestWord) (s : State) (t : Task) : State × List Job :=
  match t.nestChecks w (nestTotal w) 0 with
  | some (c, sub) => s.trapAt t c sub
  | none =>
    let (s, id) := s.newId
    let n : Nest := { id := id, addr := t.pc, w := w, bd := t.x w.xd, ba := t.x w.xa, bb := t.x w.xb, granted := 0,
                      ran := 0, v := 0 }
    s.grantCmd { t.advance 32 with nests := t.nests ++ [n] }
      { kind := .nest id, addr := t.pc, issue := 4, issued := true, runs := [(nestTotal w, nestDraw w)], done := 0 }

/-- `nest` (R161). -/
def execNest (w : NestWord) (s : State) : Out :=
  issueCmd (.nest w) 4 (.nest 0) (fun _ => if nestOk w then none else some (.illegalOp, 0))
    (fun _ _ => [(nestTotal w, nestDraw w)]) (State.nestBody w) s

/-! ### Performing elements (R161) -/

/-- How an access of a nest fails: at an operand, read (0) or written (1), by an error. -/
abbrev NestErr := Opnd × Nat × ViewErr

/-- Read an operand of an element in the task's own view. -/
def State.nestRead (s : State) (t : Task) (n : Nest) (o : Opnd) (j : Nat) : Except NestErr (State × Task × Lane) :=
  let a := (nestAddr n.w (n.base o) o j).toNat
  let k := nestWidth n.w o
  if nestScratch n.w o then .ok (s, t, BitVec.ofNat 32 (ofLeBytes (s.scratchRead t a k)))
  else match s.viewRead t 0 a k with
    | (s, .ok (t, l)) => .ok (s, t, BitVec.ofNat 32 (ofLeBytes l))
    | (_, .error e) => .error (o, 0, e)

/-- Write the destination of an element: scratch at once, global memory into the Cupboard (R146). -/
def State.nestWrite (s : State) (t : Task) (n : Nest) (j : Nat) (v : Lane) : Except NestErr (State × Task) :=
  let a := (nestAddr n.w n.bd .d j).toNat
  let l := natBytes (nestWidth n.w .d) v.toNat
  if n.w.ds then .ok (s.scratchWrite t a l, t)
  else match s.viewWrite t 0 a l with
    | (s, .ok t) => .ok (s, t.gotSpace nestPort)
    | (_, .error e) => .error (.d, 1, e)

/-- The node operation of a nest on three operands. -/
def nestOp (t : Task) (w : NestWord) (a b c : Lane) : Flagged := nodeOp w.op.toNat w.rm w.sat t.crec.ftz 0 a b c

/-- Elements of one group (R159). -/
def nestGroup (w : NestWord) : Nat := (w.lv.take (w.rl.toNat + 1)).foldl (fun n l => n * levelCount l) 1

/-- The running value of a reducing nest after an element, with the state its reads leave (R161). -/
def State.nestValue (s : State) (t : Task) (n : Nest) (j : Nat) (a b : Lane) :
    Except NestErr (State × Task × Lane × Flags) :=
  let acc := nestAccumulating n.w.op.toNat
  let step (s : State) (t : Task) (v : Lane) : State × Task × Lane × Flags :=
    let r := if acc then nestOp t n.w a b v else nestOp t n.w v a 0
    (s, t, r.1, r.2)
  if j % nestGroup n.w ≠ 0 then .ok (step s t n.v)
  else if n.w.acc then (s.nestRead t n .d j).map fun x => step x.1 x.2.1 x.2.2
  else if acc then .ok (step s t 0)
  else .ok (s, t, a, 0)

/-- Perform one element of a nest. -/
def State.nestElement (s : State) (t : Task) (n : Nest) (j : Nat) : Except NestErr (State × Task × Nest) :=
  match s.nestRead t n .a j with
  | .error e => .error e
  | .ok (s, t, a) =>
    match (if n.w.xb = 0 then .ok (s, t, 0) else s.nestRead t n .b j) with
    | .error e => .error e
    | .ok (s, t, b) =>
      if nestReduces n.w then
        match s.nestValue t n j a b with
        | .error e => .error e
        | .ok (s, t, v, f) =>
          let n' := { n with v := v, ran := j + 1 }
          let t := t.flag f
          if n.w.scan || (j + 1) % nestGroup n.w = 0 then (s.nestWrite t n j v).map fun x => (x.1, x.2, n')
          else .ok (s, t, n')
      else
        match (if nestAccumulating n.w.op.toNat then s.nestRead t n .d j else .ok (s, t, 0)) with
        | .error e => .error e
        | .ok (s, t, c) =>
          let r := nestOp t n.w a b c
          (s.nestWrite (t.flag r.2) n j r.1).map fun x => (x.1, x.2, { n with ran := j + 1 })

/-- Perform granted elements in order; the first that fails is reported with the state before it. -/
def State.nestElements : Nat → State → Task → Nest → State × Task × Nest × Option NestErr
  | 0, s, t, n => (s, t, n, none)
  | k + 1, s, t, n =>
    if n.ran ≥ n.granted then (s, t, n, none)
    else match s.nestElement t n n.ran with
      | .error e => (s, t, n, some e)
      | .ok (s, t, n) => State.nestElements k s t n

/-- What the failure of an element does (R160, R316). -/
def State.nestStop (s : State) (t : Task) (n : Nest) : NestErr → State × List Job
  | (_, access, .acc .miss va) =>
    (s.freeze t { kind := 6, place := 0, part := 0, va := BitVec.ofNat 64 va, counter := n.ran, access := access,
                  addr := n.addr, record := none }, [])
  | (o, _, .acc e _) => s.taskFault t e.trap (nestSub o 0 n.ran) n.addr.toNat
  | (_, _, .overflow) => s.overflow t
  | (o, _, .full) => s.taskFault t .cupboardFull (nestSub o 0 n.ran) n.addr.toNat
  | (o, _, .trap c) => s.taskFault t c (nestSub o 0 n.ran) n.addr.toNat
  | (_, _, .space k n) => (s.putTask (t.awaitSpace nestPort k n), [])

/-- The oldest nest of a task performs its granted elements (R161). -/
def State.nestRun (s : State) (t : Task) : State × List Job :=
  match t.nests with
  | [] => (s, [])
  | n :: r =>
    if !t.running || t.isFrozen 6 0 0 then (s, [])
    else
      let (s, t, n', e) := State.nestElements (n.granted - n.ran) s t n
      let t := { t with nests := if n'.ran ≥ nestTotal n.w then r else n' :: r,
                        hangCount := if n'.ran > n.ran then 0 else t.hangCount }
      match e with
      | none => (s.putTask t, [])
      | some e => (s.putTask t).nestStop t n' e

/-- NEST_COMPLETE (R161). -/
def execNestComplete (h : Word) (s : State) : Out := s.onTask h fun s t => s.nestRun t

end Sys2Proof.Machine
end

