-- ==== Sys2Proof/Machine/CopyOps.lean ====
section
/-! DEFINITION. Tensor copies and timelines (R209–R220). -/

namespace Sys2Proof.Machine

open Sys2Proof

/-! ### Descriptors (R214) -/

/-- Blocks (R215). -/
def CopyDesc.blocks (d : CopyDesc) : Nat := (d.total * d.width + 127) / 128

/-- A 32-bit stride. -/
def strideOf (v : Nat) : Int := signedOf 32 (v % 2 ^ 32)

/-- The first illegal field of a descriptor, by byte offset, in a gang of `clusters` clusters (R214, R217). -/
def descBad (l : List Byte) (clusters : Nat) : Option Nat :=
  let w (o n : Nat) : Nat := ofLeBytes ((l.drop o).take n)
  let x := w 16 8
  let conv := bitsOf x 19 16
  let es := bitsOf x 6 4
  let nd := bitsOf x 10 7 + 1
  if bitsOf x 1 0 > 1 || bitsOf x 3 2 > 1 || nd > 14 || conv > 4 || ((conv = 1 || conv = 2) && es ≠ 2) ||
      ((conv = 3 || conv = 4) && es ≠ 1) || bitsOf x 25 22 ≥ clusters then some 16
  else if w 32 8 % 4 ≠ 0 then some 32
  else ((List.range nd).find? fun k => w (64 + 12 * k) 4 = 0).map fun k => 64 + 12 * k

/-- The fields of a descriptor; `dmd` sets demand mode whatever it holds (R214, R217). -/
def descOf (l : List Byte) (dmd : Bool) : CopyDesc :=
  let w (o n : Nat) : Nat := ofLeBytes ((l.drop o).take n)
  let x := w 16 8
  { src := BitVec.ofNat 64 (w 0 8), dst := BitVec.ofNat 64 (w 8 8), sscratch := x.testBit 0, dscratch := x.testBit 2,
    esize := bitsOf x 6 4, gate := if x.testBit 14 then some (bitsOf x 13 11, w 24 8) else none,
    dmd := dmd || x.testBit 15, conv := bitsOf x 19 16, rm := BitVec.ofNat 2 (bitsOf x 21 20),
    cluster := bitsOf x 25 22, join := BitVec.ofNat 64 (w 32 8),
    dims := (List.range (bitsOf x 10 7 + 1)).map fun k =>
      (w (64 + 12 * k) 4, strideOf (w (68 + 12 * k) 4), strideOf (w (72 + 12 * k) 4)) }

/-- The displacements in elements of element `j`, dimension 0 fastest (R215). -/
def copyDisp : List (Nat × Int × Int) → Nat → Int × Int
  | [], _ => (0, 0)
  | (n, a, b) :: r, j =>
    let p := copyDisp r (j / n)
    ((j % n : Nat) * a + p.1, (j % n : Nat) * b + p.2)

/-- Source and destination addresses of element `j`. -/
def CopyDesc.srcAt (d : CopyDesc) (j : Nat) : Int := d.src.toNat + d.srcBytes * (copyDisp d.dims j).1
def CopyDesc.dstAt (d : CopyDesc) (j : Nat) : Int := d.dst.toNat + d.dstBytes * (copyDisp d.dims j).2

/-- The fault of a side over the extreme addresses of its box, by space (R217). -/
def boxBad (scratch : Bool) (base : Word) (w : Nat) (dims : List (Nat × Int)) : Option Trap :=
  let lo := dims.foldl (fun (a : Int) x => a + w * min 0 (((x.1 : Int) - 1) * x.2)) (base.toNat : Int)
  let hi := dims.foldl (fun (a : Int) x => a + w * max 0 (((x.1 : Int) - 1) * x.2)) ((base.toNat : Int) + w)
  if lo < 0 || hi > (if scratch then 2 ^ 32 else 2 ^ 52) then some (if scratch then .perm else .xlate) else none

/-- The slot width of an MU in FIFO mode: one access (R190, R219). -/
def slotBytes (v : BitVec 240) : Nat := muLane v * muLanes v

/-- The MU payload of a cell in FIFO mode. -/
def Task.fifoAt (t : Task) (c : Nat) : Option (BitVec 240) :=
  match (t.cell? c).bind Cell.mu with
  | some v => if muMode v = 4 then some v else none
  | none => none

/-- The checks on a copy at issue, once its fields are legal: trap and subcode (R217, R219). -/
def Task.copyBad (t : Task) (n : Nat) (d : CopyDesc) : Option (Trap × Nat) :=
  let gateBad := match d.gate with
    | some (g, v) => g = n && v ≥ t.issued.getD n 0 + 1
    | none => false
  if gateBad then some (.illegalOp, 24)
  else if !d.dscratch && t.crec.rohint then some (.perm, 0)
  else match boxBad d.sscratch d.src d.srcBytes (d.dims.map fun x => (x.1, x.2.1)) with
    | some c => some (c, 0)
    | none =>
      if d.dmd then
        if d.dst.toNat ≥ 2 ^ 32 then some (.perm, 0)
        else match t.fifoAt d.fifoCell with
          | none => some (.illegalOp, 0)
          | some v => if d.total * d.dstBytes % slotBytes v ≠ 0 then some (.illegalOp, 0) else none
      else (boxBad d.dscratch d.dst d.dstBytes (d.dims.map fun x => (x.1, x.2.2))).map fun c => (c, 0)

/-- Read a descriptor in the task's own view and check its fields; a demand copy's destination is scratch. -/
def State.readDesc (s : State) (t : Task) (a : Nat) (dmd : Bool) :
    State × Except ViewErr (Task × Except Nat CopyDesc) :=
  match s.viewRead t 0 a 256 with
  | (s, .error e) => (s, .error e)
  | (s, .ok (t, l)) =>
    match descBad l t.members.length with
    | some sub => (s, .ok (t, .error sub))
    | none =>
      let d := descOf l dmd
      if d.dmd && !d.dscratch then (s, .ok (t, .error 16)) else (s, .ok (t, .ok d))

/-! ### Issue (R216, R217) -/

/-- `tcopy` and `tcopy.dmd` (R217, R219). -/
def State.copyBody (i : Instr) (n : Nat) (a : Reg) (dmd : Bool) (s : State) (t : Task) : State × List Job :=
  match s.readDesc t (t.x a).toNat dmd with
  | (s, .error e) => s.threadErr t i 0 e
  | (s, .ok (t, .error sub)) => s.trapAt t .illegalOp sub
  | (s, .ok (t, .ok d)) =>
    match t.copyBad n d with
    | some (c, sub) => s.trapAt t c sub
    | none =>
      let (s, id) := s.newId
      let num := t.issued.getD n 0 + 1
      let c : Copy := { id := id, n := n, num := num, addr := t.pc, d := d, granted := 0, ran := 0, running := false,
                        cancelled := false, finished := false, rest := [] }
      s.grantCmd { t.advance 4 with issued := setAt t.issued n num, copies := t.copies ++ [c] }
        { kind := .copy id, addr := t.pc, issue := 2, issued := true, runs := [(d.blocks, 2)], done := 0 }

/-- Issue of a copy. -/
def issueCopy (i : Instr) (n : Nat) (a : Reg) (dmd : Bool) (s : State) : Out :=
  issueCmd i 2 (.copy 0)
    (fun t => if wbits (t.x a) 5 0 ≠ 0 then some (.misalign, 0) else none)
    (fun s t => match s.readDesc t (t.x a).toNat dmd with
      | (_, .ok (_, .ok d)) => [(d.blocks, 2)]
      | _ => [])
    (State.copyBody i n a dmd) s

/-- `tcopy` (R217). -/
def execTcopy (tl : BitVec 5) (a : Reg) (s : State) : Out := issueCopy (.tcopy tl a) tl.toNat a false s

/-- `tcopy.dmd` (R219). -/
def execTcopyDmd (tl : BitVec 5) (a : Reg) (s : State) : Out := issueCopy (.tcopyDmd tl a) tl.toNat a true s

/-! ### Running (R215, R217, R219) -/

/-- The port of a copy engine. -/
def Copy.port (c : Copy) : PortId := { kind := 3, place := c.d.cluster, part := c.n }

/-- How an element of a copy stops: at a side (0 source, 1 destination) by an error, or it waits for a slot. -/
inductive CopyStop where
  | wait
  | err (side : Nat) (e : ViewErr)
deriving DecidableEq, Repr

/-- Convert an element (R70). -/
def CopyDesc.convert (d : CopyDesc) (l : List Byte) : List Byte × Flags :=
  let x := ofLeBytes l
  let out (n : Nat) (r : Nat × Flags) : List Byte × Flags := (natBytes n r.1, r.2)
  match d.conv with
  | 0 => (l, 0)
  | 1 => out 2 (fcvt .s .b d.rm x)
  | 2 => out 2 (fcvt .s .h d.rm x)
  | 3 => out 4 (fcvt .b .s d.rm x)
  | _ => out 4 (fcvt .h .s d.rm x)

/-- Read the source of an element in the task's own view. -/
def State.copyRead (s : State) (t : Task) (c : Copy) (j : Nat) : Except CopyStop (State × Task × List Byte) :=
  let a := (c.d.srcAt j).toNat
  let w := c.d.srcBytes
  if c.d.sscratch then
    if t.scratchOk a w then .ok (s, t, s.scratchRead t a w) else .error (.err 0 (.trap .perm))
  else match s.viewRead t c.d.cluster a w with
    | (s, .ok (t, l)) => .ok (s, t, l)
    | (_, .error e) => .error (.err 0 e)

/-- Write bytes densely into the ring of a FIFO from a byte of its current slot on, each slot once it is empty (R219): the bytes that
found no empty slot are left over. -/
def State.fifoWrite (v : BitVec 240) (c off : Nat) : List Byte → State → Task → State × Task × List Byte
  | [], s, t => (s, t, [])
  | b :: r, s, t =>
    match t.cell? c with
    | none => (s, t, b :: r)
    | some x =>
      if x.fifo.getD x.fifoWr true then (s, t, b :: r)
      else
        let s := s.scratchWrite t (muAddr x v x.fifoWr + off) [b]
        let last := off + 1 = slotBytes v
        let x := if last then { x with fifo := setAt x.fifo x.fifoWr true, fifoWr := (x.fifoWr + 1) % muCount v } else x
        State.fifoWrite v c (if last then 0 else off + 1) r s (t.putCell x)

/-- Whether a demand copy to the same FIFO was issued earlier and is not complete (R219). -/
def Task.fifoTurn (t : Task) (c : Copy) : Bool :=
  match (t.copies.filter fun x => x.d.dmd && !x.finished && x.d.fifoCell == c.d.fifoCell).head? with
  | some x => x.id == c.id
  | none => true

/-- Write the destination of an element. -/
def State.copyWrite (s : State) (t : Task) (c : Copy) (j : Nat) (l : List Byte) : Except CopyStop (State × Task) :=
  let a := (c.d.dstAt j).toNat
  if c.d.dscratch then
    if t.scratchOk a l.length then .ok (s.scratchWrite t a l, t) else .error (.err 1 (.trap .perm))
  else match s.viewWrite t c.d.cluster a l with
    | (s, .ok t) => .ok (s, t.gotSpace c.port)
    | (_, .error e) => .error (.err 1 e)

/-- Bytes that a demand copy has written so far, of an element in part too. -/
def Copy.written (c : Copy) : Nat := c.ran * c.d.dstBytes + (if c.rest.isEmpty then 0 else c.d.dstBytes - c.rest.length)

/-- The converted bytes of an element of a demand copy, or what is left of them, go into the FIFO as far as its slots are empty (R219);
those of a cancelled one to the end of the slot that it is writing (R220). -/
def State.fifoElement (s : State) (t : Task) (c : Copy) (l : List Byte) : State × Task × Copy × Option CopyStop :=
  match t.fifoAt c.d.fifoCell with
  | none => (s, t, { c with rest := l }, some .wait)
  | some v =>
    if t.fifoTurn c then
      let off := (c.ran * c.d.dstBytes + (c.d.dstBytes - l.length)) % slotBytes v
      let n := if c.cancelled then slotBytes v - off else l.length
      let (s, t, rest) := State.fifoWrite v c.d.fifoCell off (l.take n) s t
      let left := rest ++ l.drop n
      if left.isEmpty then (s, t, { c with ran := c.ran + 1, rest := [] }, none)
      else (s, t, { c with rest := left }, if rest.isEmpty then none else some .wait)
    else (s, t, { c with rest := l }, some .wait)

/-- One element of a copy, or what is left of one. -/
def State.copyElement (s : State) (t : Task) (c : Copy) : State × Task × Copy × Option CopyStop :=
  if !c.rest.isEmpty then s.fifoElement t c c.rest
  else match s.copyRead t c c.ran with
    | .error e => (s, t, c, some e)
    | .ok (s', t', l) =>
      let r := c.d.convert l
      if c.d.dmd then s'.fifoElement (t'.flag r.2) c r.1
      else match s'.copyWrite (t'.flag r.2) c c.ran r.1 with
        | .error e => (s, t, c, some e)
        | .ok (s', t') => (s', t', { c with ran := c.ran + 1 }, none)

/-- Elements of the granted blocks. -/
def Copy.allowed (c : Copy) : Nat := min c.d.total (128 * c.granted / c.d.width)

/-- Whether a copy stands between two slots of its FIFO, be it in the midst of an element, or writes none. -/
def Task.slotEnd (t : Task) (c : Copy) : Bool :=
  !c.d.dmd || match t.fifoAt c.d.fifoCell with
    | some v => c.written % slotBytes v = 0
    | none => true

/-- Perform elements in order, a cancelled copy to the end of its slot (R220); the first that stops is reported with what was done
before it. -/
def State.copyElements : Nat → State → Task → Copy → State × Task × Copy × Option CopyStop
  | 0, s, t, c => (s, t, c, none)
  | k + 1, s, t, c =>
    if c.ran ≥ c.allowed || c.cancelled && t.slotEnd c then (s, t, c, none)
    else match s.copyElement t c with
      | (s, t, c, some e) => (s, t, c, some e)
      | (s, t, c, none) => State.copyElements k s t c

/-- Put a copy back. -/
def Task.putCopy (t : Task) (c : Copy) : Task :=
  { t with copies := t.copies.map fun x => if x.id == c.id then c else x }

/-- What the stop of an element does (R217, R316). -/
def State.copyStop (s : State) (t : Task) (c : Copy) : CopyStop → State × List Job
  | .wait => (s, [])
  | .err side (.acc .miss va) =>
    (s.freeze t { kind := 3, place := c.d.cluster, part := c.n, va := BitVec.ofNat 64 va, counter := c.ran,
                  access := side, addr := c.addr, record := none }, [])
  | .err side e =>
    let sub := side + 2 * (c.ran % 2 ^ 31)
    match e with
    | .acc x _ => s.taskFault t x.trap sub c.addr.toNat
    | .overflow => s.overflow t
    | .full => s.taskFault t .cupboardFull sub c.addr.toNat
    | .trap x => s.taskFault t x sub c.addr.toNat
    | .space k n => (s.putTask (t.awaitSpace c.port k n), [])

/-- Put a copy before the first that was issued later. -/
def insertCopy (x : Task × Copy) : List (Task × Copy) → List (Task × Copy)
  | [] => [x]
  | y :: r => if x.2.id < y.2.id then x :: y :: r else y :: insertCopy x r

/-- The copies that copy engine `n` of a cluster has still to complete, for every resident task, in issue order (R10, R217). -/
def State.engineCopies (s : State) (die cluster n : Nat) : List (Task × Copy) :=
  ((s.tasks.filter fun t => t.die == die).flatMap fun t => (t.copies.filter fun c =>
    !c.finished && c.n == n && (t.member c.d.cluster).cluster == cluster).map fun c => (t, c)).foldl
      (fun l x => insertCopy x l) []

/-- The copy of a task that its engine works on: the oldest there that is not complete, if it is this task's (R217). -/
def State.copyHead (s : State) (t : Task) (k n : Nat) : Option Copy :=
  match s.engineCopies t.die (t.member k).cluster n with
  | (u, c) :: _ => if u.handle == t.handle && c.d.cluster == k then some c else none
  | [] => none

/-- A copy completes, and its engine waits for nothing any more: its number counts on its timeline. -/
def Task.endCopy (t : Task) (c : Copy) : Task :=
  ((t.gotSpace c.port).putCopy { c with finished := true, rest := [] }).finish c.n c.num

/-- Whether the gate of a copy is reached (R217). -/
def Task.copyOpen (t : Task) (c : Copy) : Bool :=
  match c.d.gate with
  | some (g, v) => c.running || t.timeline g ≥ v
  | none => true

/-- Elements of a copy as it goes on; one that was cancelled ends at the end of its slot. -/
def State.copyGo (s : State) (t : Task) (c : Copy) : State × List Job :=
  let (s, t, c', e) := State.copyElements (c.allowed - c.ran) s t { c with running := true }
  let t := { t with hangCount := if c' == { c with running := true } then t.hangCount else 0 }
  if c'.cancelled && t.slotEnd c' then (s.fired (t.endCopy c'), [])
  else match e with
    | none => (s.putTask (t.putCopy c'), [])
    | some e => (s.putTask (t.putCopy c')).copyStop (t.putCopy c') c' e

/-- A copy runs the elements of its granted blocks once its gate is reached. -/
def State.copyRun (s : State) (t : Task) (k n : Nat) : State × List Job :=
  match s.copyHead t k n with
  | none => (s, [])
  | some c => if !t.running || !t.copyOpen c || t.portFrozen c.port then (s, []) else s.copyGo t c

/-- COPY_LAUNCH (R217): the copy at the head of an engine starts, or goes on. -/
def execCopyLaunch (h : Word) (cluster n : Nat) (s : State) : Out := s.onTask h fun s t => s.copyRun t cluster n

/-- COPY_COMPLETE (R217): the last block has run; a decrement of the join cell is held. -/
def execCopyComplete (h : Word) (cluster n : Nat) (s : State) : Out :=
  s.onTask h fun s t => match s.copyHead t cluster n with
    | none => (s, [])
    | some c =>
      if c.ran < c.d.total then (s, [])
      else
        let t := t.endCopy c
        (s.fired { t with joinDecs := t.joinDecs ++ (if c.d.join = 0 then [] else [c.d.join]) }, [])

/-- The ports of a cancelled copy are free again; their pending records are withdrawn. -/
def State.unfreeze (s : State) (t : Task) (p : PortId) : State × Task :=
  let mine := t.frozen.filter fun f => f.kind == p.kind && f.place == p.place && f.part == p.part
  (mine.foldl (fun s f => match f.record with
      | some i => s.settleFault t.die i 3
      | none => s) s,
   { t with frozen := t.frozen.filter fun f => !(f.kind == p.kind && f.place == p.place && f.part == p.part) })

/-- Cancel copies in issue order (R220): one that has written part of a slot goes on to its end. Only a copy that runs has a port that is
frozen. -/
def State.cancelCopies : List Copy → State → Task → State × Task
  | [], s, t => (s, t)
  | c :: r, s, t =>
    if t.slotEnd c then
      let (s, t) := if c.running then s.unfreeze t c.port else (s, t)
      State.cancelCopies r s (t.endCopy { c with cancelled := true })
    else State.cancelCopies r s (t.putCopy { c with cancelled := true })

/-- `tcopy.cancel` (R220). -/
def execTcopyCancel (d : Reg) (tl : BitVec 5) (s : State) : Out :=
  issueTask (.tcopyCancel d tl) 1 noTrap (fun s t =>
    let cs := t.copies.filter fun c => !c.finished && c.n == tl.toNat
    let (s, t) := State.cancelCopies cs s t
    ((s.putTask ((t.setX d (BitVec.ofNat 64 cs.length)).advance 4)).refillRing t.die none, [])) s

/-! ### Timelines (R210–R213) -/

/-- Whether the traps of `tl.wait` apply (R211). -/
def Task.tlWaitBad (t : Task) (n v : Nat) : Bool :=
  if n = 2 then false else if n < 4 then decide (v > t.issued.getD n 0) else decide (v > t.timeline n)

/-- `tl.wait` (R211). -/
def State.tlWaitBody (tl : BitVec 5) (b : Reg) (s : State) (t : Task) : State × List Job :=
  let n := tl.toNat
  let v := (t.x b).toNat
  let go (s : State) (t : Task) : State × List Job :=
    if t.timeline n ≥ v then (s.putTask (t.advance 4), []) else (s.putTask (t.block (.tlWait tl b)), [])
  if t.tlWaitBad n v then s.trapAt t .illegalOp 0
  else if n = 2 then s.funded t (.tlWait tl b) go
  else go s t

/-- `tl.wait` (R211). -/
def execTlWait (tl : BitVec 5) (b : Reg) (s : State) : Out :=
  issueTask (.tlWait tl b) 1 noTrap (State.tlWaitBody tl b) s

/-- TIMELINE_WAIT_RELEASE (R211): a thread that waits in `tl.wait` goes on if its timeline has reached the value. -/
def execTimelineWaitRelease (h : Word) (s : State) : Out :=
  s.onTask h fun s t =>
    if t.gate != .running || t.threadFrozen || !t.paid then (s, [])
    else match t.wait with
      | some (.tlWait tl b) => State.tlWaitBody tl b s t
      | _ => (s, [])

/-- `tl.read` (R212). -/
def execTlRead (d : Reg) (tl : BitVec 5) (s : State) : Out :=
  issueSimple (.tlRead d tl) (fun t => t.setX d (BitVec.ofNat 64 (t.timeline tl.toNat))) s

/-- `tl.adv` (R213). What it releases sees every effect of the instructions before it, so it waits for the task's nests. -/
def execTlAdv (tl : BitVec 5) (b : Reg) (s : State) : Out :=
  issueTask (.tlAdv tl b) 1 (fun _ => if tl.toNat < 4 then some (.illegalOp, 0) else none) (fun s t =>
    let v := t.timeline tl.toNat + (t.x b).toNat
    if v ≥ 2 ^ 64 then s.trapAt t .illegalOp 0
    else if !t.nests.isEmpty then (s.putTask (t.block (.tlAdv tl b)), [])
    else (s.putTask ((t.setTimeline tl.toNat v).advance 4), [])) s

end Sys2Proof.Machine
end

