-- ==== Sys2Proof/Machine/MatrixOps.lean ====
section
/-! DEFINITION. Matrix commands, and the engines' own steps (R246–R262). -/

namespace Sys2Proof.Machine

open Sys2Proof

/-! ### Operands (R252) -/

/-- Why the operand of a matrix command is refused: the engine index, reserved bits, an unset format (R252). -/
def Task.mxBad (t : Task) (xa : Word) (reserved : Word) (needFmt : Bool) : Option Trap :=
  let k := wbits xa 3 0
  if k ≥ t.crec.engines || xa &&& reserved ≠ 0 then some .illegalOp
  else match t.engine? k with
    | none => some .illegalOp
    | some e => if needFmt && e.fmt.isNone then some .mxFormat else none

/-- In a task without engines every matrix command traps at issue (R252). -/
def noEngines (t : Task) : Option (Trap × Nat) := if t.crec.engines = 0 then some (.illegalOp, 0) else none

/-- A matrix command of one engine: the operand checks, then `f` (R252). -/
def onEngine (xa reserved : Word) (needFmt : Bool) (f : State → Task → Engine → State × List Job) (s : State) (t : Task) :
    State × List Job :=
  match t.mxBad xa reserved needFmt, t.engine? (wbits xa 3 0) with
  | some c, _ => s.trapAt t c 0
  | none, some e => f s t e
  | none, none => (s, [])

/-- Issue of a matrix command that draws 1 grain. -/
def issueMx (i : Instr) (f : State → Task → State × List Job) (s : State) : Out := issueTask i 1 noEngines f s

/-! ### Binding (R253) -/

/-- The engine bound anew: what its links held before stays only where the links stay. -/
def Engine.bind (e : Engine) (sec : Nat) (xa xb : Word) : Engine :=
  let side := wbits xa 13 12
  let header := xa.getLsbD 11
  let kept (same : Bool) (l : List Item) : List Item := if same then l else []
  { e with
    sec := some sec, fmt := some (wbits xa 7 4), rm := BitVec.ofNat 2 (wbits xa 9 8), sat := xa.getLsbD 10,
    header := header, side := side, dscratch := xa.getLsbD 14, dbase := xb, pitch := wbits xa 39 16, cursor := 0,
    inq := (List.range 5).map fun i =>
      kept (e.fmt.isSome && e.side == side && (i < 4 || (e.header && header))) (e.inq.getD i []) }

/-- `mx.fmt` once its engine's queues are empty (R253). -/
def State.mxBind (sec : Nat) (xa xb : Word) (s : State) (t : Task) (e : Engine) : State × List Job :=
  let code := wbits xa 7 4
  if t.engines.any (fun o => o.k ≠ e.k && o.sec == some sec && o.fmt != some code) then s.trapAt t .mxFormat 0
  else if xb.toNat % destBytes code ≠ 0 then s.trapAt t .misalign 0
  else if !sideOk t.frames t.crec.rows e.k (wbits xa 13 12) (xa.getLsbD 11) then s.trapAt t .configReject 5
  else (s.putTask ((t.putEngine (e.bind sec xa xb)).advance 4), [])

/-- `mx.fmt` (R253). DESIGN CHOICE: a code that names no format is met before a pitch of 0 (log entry 58). -/
def execMxFmt (sec : BitVec 5) (a b : Reg) (s : State) : Out :=
  issueMx (.mxFmt sec a b) (fun s t =>
    onEngine (t.x a) 0xFFFFFF0000008000 false (fun s t e =>
      if wbits (t.x a) 7 4 > 8 then s.trapAt t .mxFormat 0
      else if wbits (t.x a) 39 16 = 0 then s.trapAt t .illegalOp 0
      else if !e.empty then (s.putTask (t.block (.mxFmt sec a b)), [])
      else State.mxBind sec.toNat (t.x a) (t.x b) s t e) s t) s

/-! ### Loads (R249, R254, R258, R259) -/

/-- Swaps on an engine's array queue. -/
def Engine.queuedSwaps (e : Engine) : Nat := (e.arr.filter fun x => x.kind == .swap).length

/-- Put a load at the end of an engine's load queue. -/
def Engine.pushLoad (e : Engine) (id : Nat) (kind : LoadKind) (base addr : Word) (total : Nat) : Engine :=
  let l : LoadCmd := { id := id, kind := kind, base := base, addr := addr, seq := e.seq + 1,
                       swaps := e.swaps + e.queuedSwaps, granted := 0, total := total, buf := [] }
  { e with seq := e.seq + 1, loads := e.loads ++ [l] }

/-- Blocks of a dense tile (R254). -/
def ldsBlocks (code : Nat) : Nat := if code < 2 then 64 else 4 * code

/-- Bytes from the base to the end of a dense tile. -/
def ldsSpan (code pitch : Nat) : Nat := if code < 2 then 2 * (63 * pitch + 63) + 2 else 512 * code

/-- The checks on the base of a dense load: alignment, then the extreme addresses (R254). -/
def Task.ldsBad (t : Task) (e : Engine) (xa xb : Word) : Option Trap :=
  let last := xb.toNat + ldsSpan e.code (wbits xa 31 8) - 1
  if xb.toNat % (if e.code < 2 then 2 else 4) ≠ 0 then some .misalign
  else if xa.getLsbD 4 then (if t.scratchOk xb.toNat 1 && t.scratchOk last 1 then none else some .perm)
  else if last ≥ 2 ^ 52 then some .xlate else none

/-- `mx.lds` (R254). -/
def State.ldsBody (xa xb : Word) (s : State) (t : Task) (e : Engine) : State × List Job :=
  match t.ldsBad e xa xb with
  | some c => s.trapAt t c 0
  | none =>
    let (s, id) := s.newId
    let n := ldsBlocks e.code
    s.grantCmd ((t.putEngine (e.pushLoad id (.lds (xa.getLsbD 4) (wbits xa 31 8)) xb t.pc n)).advance 4)
      { kind := .lds e.k id, addr := t.pc, issue := 2, issued := true, runs := [(n, 2)], done := 0 }

/-- `mx.lds` once it has issued (R254). -/
def State.mxLdsBody (a b : Reg) (s : State) (t : Task) : State × List Job :=
  onEngine (t.x a) 0xFFFFFFFF000000E0 true (State.ldsBody (t.x a) (t.x b)) s t

/-- `mx.lds` (R254). -/
def execMxLds (a b : Reg) (s : State) : Out :=
  issueCmd (.mxLds a b) 2 (.lds 0 0) noEngines
    (fun _ t => match (t.engine? (wbits (t.x a) 3 0)).bind Engine.fmt with
      | some c => [(ldsBlocks c, 2)]
      | none => [])
    (State.mxLdsBody a b) s

/-- Queue a load that needs no grant; its block must be aligned to 64 (R258, R259; log entry 27). -/
def State.sparseLoad (kind : LoadKind) (xb : Word) (s : State) (t : Task) (e : Engine) : State × List Job :=
  if e.code ≥ 2 then s.trapAt t .mxFormat 0
  else if wbits xb 5 0 ≠ 0 then s.trapAt t .misalign 0
  else
    let (s, id) := s.newId
    (s.putTask ((t.putEngine (e.pushLoad id kind xb t.pc 0)).advance 4), [])

/-- `mx.csr` (R258). -/
def execMxCsr (a b : Reg) (s : State) : Out :=
  issueMx (.mxCsr a b) (fun s t => onEngine (t.x a) 0xFFFFFFFFFFFFFFF0 true (State.sparseLoad .csr (t.x b)) s t) s

/-- `mx.cond` (R259). -/
def execMxCond (a b : Reg) (s : State) : Out :=
  issueMx (.mxCond a b) (fun s t =>
    onEngine (t.x a) 0xFFFFFFFFFFFFFFC0 true (State.sparseLoad (.cond (wbits (t.x a) 5 4 + 1)) (t.x b)) s t) s

/-! ### Array commands (R255–R257) -/

/-- `mx.swap` (R255). -/
def execMxSwap (a : Reg) (s : State) : Out :=
  issueMx (.mxSwap a) (fun s t =>
    onEngine (t.x a) 0xFFFFFFFFFFFFFFF0 true
      (fun s t e => (s.putTask ((t.putEngine (e.pushArr .swap t.pc)).advance 4), [])) s t) s

/-- `mx.arm` once it has issued (R256). -/
def State.mxArmBody (sec : BitVec 5) (a b : Reg) (s : State) (t : Task) : State × List Job :=
  let xa := t.x a
  let xb := t.x b
  let es := t.sectionEngines sec.toNat
  if wbits xa 63 32 ≠ 0 || wbits xb 61 32 ≠ 0 || es.isEmpty then s.trapAt t .illegalOp 0
  else if xb.getLsbD 63 && !t.crec.mig then s.trapAt t .perm 0
  else
    let (s, id) := s.newId
    let n := wbits xb 31 0
    let t1 := es.foldl (fun (t : Task) (e : Engine) =>
      t.putEngine (e.pushArr (.cursor (xa.setWidth 32) false) t.pc).runCursors) t
    let o : Op2 := { id := id, addr := t.pc, sec := sec.toNat, ungranted := n, left := 0, granted := 0, start := none,
                     zero := false, ovw := xb.getLsbD 62, mig := xb.getLsbD 63, engine := none, node := none }
    s.grantArm { t1.advance 4 with ops2 := t1.ops2 ++ [o] }
      { kind := .arm id, addr := t.pc, issue := 1, issued := true, runs := [(n, t.sectionDraw sec.toNat)], done := 0 }

/-- `mx.arm` (R256). -/
def execMxArm (sec : BitVec 5) (a b : Reg) (s : State) : Out :=
  issueCmd (.mxArm sec a b) 1 (.arm 0) noEngines
    (fun _ t => [(wbits (t.x b) 31 0, t.sectionDraw sec.toNat)])
    (State.mxArmBody sec a b) s

/-- The (tiles, starting row) entries of a group table, read in the task's own view (R257). -/
def State.groupTable (base : Nat) : Nat → Nat → State → Task → State × Except ViewErr (Task × List (Nat × Nat))
  | 0, _, s, t => (s, .ok (t, []))
  | n + 1, g, s, t => match s.viewRead t 0 (base + 16 * g) 16 with
    | (s, .error e) => (s, .error e)
    | (s, .ok (t, l)) => match State.groupTable base n (g + 1) s t with
      | (s, .error e) => (s, .error e)
      | (s, .ok (t, r)) => (s, .ok (t, (ofLeBytes (l.take 4), ofLeBytes ((l.drop 4).take 4)) :: r))

/-- Groups of an `mx.group` and its units (R257). -/
def groupCount (xa : Word) : Nat := wbits xa 31 16 + 1
def groupRuns (code : Nat) (gs : List (Nat × Nat)) : List (Nat × Nat) :=
  gs.map fun g => if g.1 = 0 then (1, 2) else (g.1, tileDraw code)

/-- The operations of the groups, numbered from `id` on. -/
def groupOps (e : Engine) (mig : Bool) (addr : Word) (id : Nat) (gs : List (Nat × Nat)) : List Op2 :=
  ((List.range gs.length).zip gs).map fun p =>
    { id := id + p.1, addr := addr, sec := e.sec.getD 0, ungranted := max p.2.1 1, left := 0, granted := 0,
      start := some (BitVec.ofNat 32 p.2.2), zero := p.2.1 == 0, ovw := false, mig := mig, engine := some e.k,
      node := none }

/-- `mx.group` (R257). The table address must be a multiple of 16 (log entry 27). -/
def State.groupBody (i : Instr) (xa xb : Word) (s : State) (t : Task) (e : Engine) : State × List Job :=
  if e.sec.isNone then s.trapAt t .illegalOp 0
  else if xa.getLsbD 63 && !t.crec.mig then s.trapAt t .perm 0
  else if wbits xb 3 0 ≠ 0 then s.trapAt t .misalign 0
  else match State.groupTable xb.toNat (groupCount xa) 0 s t with
    | (s, .error x) => s.threadErr t i 0 x
    | (s, .ok (t, gs)) =>
      let id := s.nextId
      let s := { s with nextId := s.nextId + gs.length }
      s.grantArm { t.advance 4 with ops2 := t.ops2 ++ groupOps e (xa.getLsbD 63) t.pc id gs }
        { kind := .group id gs.length, addr := t.pc, issue := 1, issued := true, runs := groupRuns e.code gs, done := 0 }

/-- `mx.group` once it has issued (R257). -/
def State.mxGroupBody (a b : Reg) (s : State) (t : Task) : State × List Job :=
  onEngine (t.x a) 0x7FFFFFFF0000FFF0 true (State.groupBody (.mxGroup a b) (t.x a) (t.x b)) s t

/-- `mx.group` (R257). -/
def execMxGroup (a b : Reg) (s : State) : Out :=
  issueCmd (.mxGroup a b) 1 (.group 0 0) noEngines
    (fun s t => match State.groupTable (t.x b).toNat (groupCount (t.x a)) 0 s t, t.engine? (wbits (t.x a) 3 0) with
      | (_, .ok (_, gs)), some e => groupRuns e.code gs
      | _, _ => [])
    (State.mxGroupBody a b) s

/-! ### Status and clearing (R260, R261) -/

/-- Array commands queued or running: each tile of an arm, each group, each swap (R245, R260). -/
def Task.outstandingOn (t : Task) (e : Engine) : Nat :=
  e.arr.foldl (fun n x => match x.kind with
    | .tiles op k _ _ _ _ => n + (if t.ops2.any fun o => o.id == op && o.engine.isSome then 1 else k)
    | .swap => n + 1
    | .cursor _ group => if group then n + 1 else n) 0

/-- The status word of an engine (R260). -/
def Task.mxStatus (t : Task) (e : Engine) : Word :=
  let b (x : Bool) (k : Nat) : Nat := if x then 2 ^ k else 0
  BitVec.ofNat 64 (e.fmt.getD 15 + b e.sec.isSome 4 + 32 * e.sec.getD 0 + b e.active.zero 8 + b e.shadow.zero 9 +
    1024 * (e.active.q - 1) + b (!e.migrated.isEmpty) 12 + 65536 * e.cursor.toNat + 2 ^ 48 * min (t.outstandingOn e) 0xFFFF)

/-- `mx.stat` (R260). -/
def execMxStat (d a : Reg) (s : State) : Out :=
  issueMx (.mxStat d a) (fun s t =>
    onEngine (t.x a) 0xFFFFFFFFFFFFFFF0 false
      (fun s t e => (s.putTask ((t.setX d (t.mxStatus e)).advance 4), [])) s t) s

/-- `mx.clr` (R261). -/
def execMxClr (a : Reg) (s : State) : Out :=
  issueMx (.mxClr a) (fun s t =>
    onEngine (t.x a) 0xFFFFFFFFFFFFFFF0 false (fun s t e =>
      if !e.empty then (s.putTask (t.block (.mxClr a)), [])
      else (s.putTask ((t.putEngine { e with active := Plane.fresh, shadow := Plane.fresh, cursor := 0 }).advance 4), []))
      s t) s

/-! ### The engines' own steps -/

/-- A step of an engine of a running task whose port is not frozen. -/
def State.engineStep (s : State) (h : Word) (k : Nat) (f : State → Task → Engine → State × List Job) : Out :=
  s.onTask h fun s t => match t.engine? k with
    | some e => if t.running && !t.portFrozen e.port then f s t e else (s, [])
    | none => (s, [])

/-- What an engine did, and what stopped it. Progress starts the hang monitor's count again (R319). -/
def State.engineEnd (s : State) (t0 t : Task) (z : Option Stop) : State × List Job :=
  let t := if t == t0 then t else { t with hangCount := 0 }
  match z with
  | none => (s.putTask t, [])
  | some z => (s.putTask t).stop t z

/-- PLANE_LOAD_RUN (R249). -/
def execPlaneLoadRun (h : Word) (k : Nat) (s : State) : Out :=
  s.engineStep h k fun s t e =>
    if !e.loadReady then (s, [])
    else
      let (s, t', z) := s.loadRun t e
      s.engineEnd t t' z

/-- PLANE_SWAP_RUN (R249). -/
def execPlaneSwapRun (h : Word) (k : Nat) (s : State) : Out :=
  s.engineStep h k fun s t e => if e.swapReady then (s.fired (t.putEngine e.swapRun), []) else (s, [])

/-- MATRIX_TILE (R248): the rows taken for the tile in progress are multiplied; after row 63 the tile is done. -/
def execMatrixTile (h : Word) (k : Nat) (s : State) : Out :=
  s.engineStep h k fun s t e => match e.tile? with
    | none => (s, [])
    | some (op, n, ovw) =>
      let (s, t', z) := State.tileRows k op (e.tileOvw.getD ovw) e.rows.length s t
      match z, t'.engine? k with
      | none, some e' =>
        if e'.rowsDone ≥ 64 then
          let (s, t', js) := s.advanceTl2 (t'.tileDone e' op n)
          (s.fired t', js)
        else s.engineEnd t t' none
      | z, _ => s.engineEnd t t' z

/-- The next and the previous cluster in ring order (R124, R262). -/
def ringNext (c : Nat) (next : Bool) : Nat := (if next then c + 1 else c + Config.clusters - 1) % Config.clusters

/-- Whether the engine of a cluster is allotted to a task or runs a migrated command (R123, R262). -/
def State.engineTaken (s : State) (d cluster : Nat) : Bool :=
  (s.tasks.filter fun t => t.die == d).any fun t =>
    (List.range t.crec.engines).any (fun k => (t.member k).cluster == cluster) ||
    t.engines.any fun e => e.migrated.any fun m => m.2 == cluster

/-- The operation of the command at a place of an engine's array queue, if it may migrate: an armed command with MIG that has not
started (R262). -/
def Engine.movable (e : Engine) (pos : Nat) : Option Nat :=
  match e.arr[pos]?.map ArrCmd.kind with
  | some (.tiles op _ _ mig _ _) =>
    if mig && !(e.migrated.any fun m => m.1 == op) && (pos ≠ 0 || e.taken = 0 && e.beats.isEmpty && !e.headerTaken) then some op
    else none
  | _ => none

/-- MATRIX_MIGRATION (R262): a command of an array queue, not yet started, moves to the idle engine of a
neighbouring cluster. Its rows, its updates and its place in the queue stay as at home; only `mx.stat` shows it. -/
def execMatrixMigration (h : Word) (k : Nat) (move : Migration) (s : State) : Out :=
  s.engineStep h k fun s t e =>
    let c := ringNext (t.member k).cluster move.next
    match e.movable move.pos with
    | some op =>
      if (s.die t.die).has c && !s.engineTaken t.die c && !(s.die t.die).gated c then
        (s.putTask (t.putEngine { e with migrated := e.migrated ++ [(op, c)] }), [])
      else (s, [])
    | none => (s, [])

end Sys2Proof.Machine
end

