-- ==== Sys2Proof/Machine/TaskOps.lean ====
section
/-! DEFINITION. Task instructions and the commit: spawns, `done`, `abort`, commit order, validation, publishing, lock
grants and space aborts (R92–R97, R130, R266–R269, R278, R283–R302, R337–R342). -/

namespace Sys2Proof.Machine

open Sys2Proof

/-! ### Spawns and identity (R95, R96) -/

/-- `spawn` and `spawnj` with a join address (R95). DESIGN CHOICE: R161 has loads and stores wait for the elements of an earlier `nest`
that write their bytes; the read of the record does not wait (log entry 76). -/
def State.spawnBody (i : Instr) (a : Word) (j : Option Word) (s : State) (t : Task) : State × List Job :=
  let jv := (j.getD 0).toNat
  let joins := jv != 0
  if wbits a 5 0 ≠ 0 || jv % 4 ≠ 0 then s.trapAt t .misalign 0
  else if joins && t.crec.rohint then s.trapAt t .perm 0
  else match s.viewRead t 0 a.toNat 64 with
    | (s, .error e) => s.threadErr t i 0 e
    | (s, .ok (t, l)) =>
      let r := Record.ofBytes l
      match (if r.ctx = t.crec.ctx then none else s.systemErr t.crec.ctx) with
      | some c => s.trapAt t c 0
      | none =>
        let r : Record := match j with | some x => { r with dw2 := x } | none => r
        match s.growShare t 0 64 with
        | .error e => s.threadErr t i 1 e
        | .ok t =>
          let t := t.gotSpace threadPort
          (s.putTask ({ t with spawns := t.spawns ++ [r],
                               joinIncs := t.joinIncs ++ (if joins then j.toList else []) }.advance 4), [])

/-- `spawn` (R95). -/
def execSpawn (a : Reg) (s : State) : Out :=
  issueTask (.spawn a) 1 noTrap (fun s t => State.spawnBody (.spawn a) (t.x a) none s t) s

/-- `spawnj` (R95). -/
def execSpawnj (a b : Reg) (s : State) : Out :=
  issueTask (.spawnj a b) 1 noTrap (fun s t => State.spawnBody (.spawnj a b) (t.x a) (some (t.x b)) s t) s

/-- `tsk.self` (R96). -/
def execTskSelf (d : Reg) (s : State) : Out := issueSimple (.tskSelf d) (fun t => t.setX d t.handle) s

/-- `tsk.ts` (R96). -/
def execTskTs (d : Reg) (s : State) : Out := issueSimple (.tskTs d) (fun t => t.setX d t.crec.dw3) s

/-- `yield` (R341): only timing changes. -/
def execYield (s : State) : Out := issueSimple .yield id s

/-- A voluntary retry: the re-run count rises, and at 65 the task retires instead (R339, R342). -/
def State.retry (s : State) (t : Task) : State × List Job :=
  if t.rerun + 1 ≥ 65 then s.retire { t with gate := .stopped } .conflictLimit .none 0 0 0 0
  else (s.requeue t (t.rerun + 1) t.irrevocable false, [])

/-- `abort` (R342). -/
def execAbort (a : Reg) (s : State) : Out :=
  issueTask (.abort a) 0 noTrap (fun s t =>
    let x := t.x a
    if wbits x 63 33 ≠ 0 then s.trapAt t .illegalOp 0
    else if x.getLsbD 32 then s.retry t
    else s.retire { t with gate := .stopped } .discarded .none 0 0 (wbits x 31 0) t.pc.toNat) s

/-! ### Age and commit order (R290, R291, R293) -/

/-- The records of a context that wait to be placed; those of saved tasks are not among them. -/
def State.queuedOf (s : State) (ctx : Nat) : List QRec :=
  (s.dies.flatMap fun d => d.taskQueue ++ d.deques.flatMap Prod.snd).filter fun q => q.crec.ctx == ctx && q.image.isNone

/-- The other admitted tasks of a task's context, saved ones among them. -/
def State.kin (s : State) (t : Task) : List Task :=
  s.allTasks.filter fun u => u.crec.ctx == t.crec.ctx && u.handle != t.handle

/-- Whether a task is the oldest uncommitted timed task of its context (R290). -/
def State.isOldest (s : State) (t : Task) : Bool :=
  t.crec.ts ≠ 0 && (s.kin t).all (fun u => u.crec.ts = 0 || t.older u) &&
  (s.queuedOf t.crec.ctx).all fun q => q.crec.ts = 0 || t.crec.ts ≤ q.crec.ts

/-- Whether a timed record of a task's context has a smaller timestamp than the task's (R291). -/
def State.behindTs (s : State) (t : Task) : Bool :=
  t.crec.ts ≠ 0 &&
    !((s.kin t).all (fun u => u.crec.ts = 0 || t.crec.ts ≤ u.crec.ts) &&
      (s.queuedOf t.crec.ctx).all fun q => q.crec.ts = 0 || t.crec.ts ≤ q.crec.ts)

/-- Whether commit order lets a task commit: no timed record of its context has a smaller timestamp, and no other task
of the context is irrevocable (R291, R293). -/
def State.inOrder (s : State) (t : Task) : Bool := ((s.kin t).all fun u => !u.irrevocable) && !s.behindTs t

/-! ### Validation (R269, R290) -/

/-- The commits after a task's Snapshot that published a line it has read and on whose account it is aborted at its commit: the contexts
that made them (none for an external commit). Left out are those of its own context that were made while it was the oldest uncommitted
timed task there (R269, R290; log entry 34). -/
def State.staleBy (s : State) (t : Task) : List (Option Nat) :=
  if t.irrevocable then []
  else
    (s.published.filter fun p => p.2.2 > t.snapNum && (t.readSet.any fun r => r.2 == p.1) &&
      !(p.2.1 == some t.crec.ctx && t.sparedBy.contains p.2.2)).map fun p => p.2.1

/-- A commit of a context spares its oldest uncommitted timed task, resident or saved: it is never aborted on account of that commit
(R290). -/
def State.spare (s : State) (ctx num : Nat) : State :=
  let mark (t : Task) : Task :=
    if t.crec.ctx == ctx && s.isOldest t then { t with sparedBy := num :: t.sparedBy } else t
  { s with tasks := s.tasks.map mark, saved := s.saved.map fun v => { v with task := mark v.task } }

/-! ### Publishing (R286, R297, R302, R340) -/

/-- The bytes that a task stored: its Cupboard, with the working values of its locked line over it. -/
def State.ownBytes (s : State) (t : Task) : Overlay :=
  match t.lockLine.bind s.lock? with
  | some l => if l.holder == some t.handle then l.work.foldl (fun o c => o.set c.1 c.2) t.cup else t.cup
  | none => t.cup

/-- Publish the pushes of a task in push order (R267). -/
def State.publishPushes (s : State) (t : Task) : State :=
  t.pushes.foldl (fun s p => match s.chan? t.crec.ctx p.1 with
    | some c => s.placeEntry c p.2 false t.crec.cls
    | none => s) s

/-- Make the tentative pops of a task final (R268, R270); a far writer gets credit for their room (R274). -/
def State.publishPops (s : State) (h : Word) : State :=
  s.channels.foldl (fun s c0 => match s.chan? c0.ctx c0.num with
    | some c =>
      if c.entries.any fun e => e.tent == some h then
        let c' := c.commitPops h
        ((s.putChan c').zeroPages c c').grantCredit c.ctx c.num
      else s
    | none => s) s

/-- Release the sides that a task's `ch.close` named and check each channel's condition (R278). -/
def State.publishCloses (s : State) (t : Task) : State :=
  t.closes.foldl (fun s p => match s.chan? t.crec.ctx p.1 with
    | some c => (s.releaseChan c t.handle (!p.2) p.2).tryClose t.crec.ctx p.1
    | none => s) s

/-- What a commit leaves: the state with everything published, the lines it wrote, the continuations made ready. -/
structure Landed where
  s : State
  lines : List Nat
  conts : List Record

/-- Publish everything of a task under the next commit number, in the order of R286 and R340: its writes in its own class, but no line
of an IO page, and its completion record in class 0 (R201, R203). -/
def State.landCommit (s : State) (t : Task) : Landed :=
  let cls := t.crec.cls
  let ctx := t.crec.ctx
  let own := s.ownBytes t
  let (folds, fl) := s.foldReds t own
  let t := t.flag fl
  let bytes := folds.foldl (fun (o : Overlay) p => o.set p.1 p.2) own
  let s := { s with commitSeq := s.commitSeq + 1 }.publish cls t.ioLines bytes
  let (s, l1, _) := s.joinChanges t.die cls ctx true (t.joinIncs.map BitVec.toNat)
  let (s, l2, c2) := s.joinChanges t.die cls ctx false (t.joinDecs.map BitVec.toNat)
  let (s, l3, c3) := s.joinChanges t.die cls ctx false (if t.crec.dw2 = 0 then [] else [t.crec.dw2.toNat])
  let (s, rep, out) := s.reportBytes t.die t.crec
    { ending := .committed, trap := .none, flags := t.flags, added := t.added, shortfall := 0, granted := 0, sub := 0,
      addr := 0, drawn := t.drawn, seq := s.commitSeq }
  let s := s.publish 0 out rep
  { s := s, lines := ((bytes ++ rep).map (fun p => lineOf p.1) ++ l1 ++ l2 ++ l3).eraseDups, conts := c2 ++ c3 }

/-- After the bytes have landed: readers are doomed and the oldest timed task spared, channels follow, the gang is released, spawns and then
continuations are delivered (R267, R278, R290, R340). -/
def State.afterCommit (s : State) (t : Task) (p : Landed) : State × List Job :=
  let dooms := (s.readers p.lines t.handle).map fun u => Job.doom u.handle (u.crec.ctx == t.crec.ctx)
  let s := ((p.s.stamp p.lines (some t.crec.ctx)).spare t.crec.ctx p.s.commitSeq).dropTask t.handle
  let s := ((s.publishPushes t).publishPops t.handle).publishCloses t
  let s := ((s.leaveChannels t.handle).unlock t.handle).withdrawFaults t
  let s := (s.freeRows t true).refund t.die t.unused
  let s := t.spawns.foldl (fun s r => s.deliver t.die t.lead r) s
  let s := p.conts.foldl (fun s r => s.deliver t.die t.lead r) s
  (s, dooms ++ match t.origin with | some (i, k) => [.node i k .committed] | none => [])

/-- Request the locks of the lines that a commit writes (R298): whether it may go on, and the holders it wounds. -/
def State.requestAll (t : Task) : List Nat → State → State × Bool × List Job
  | [], s => (s, true, [])
  | l :: r, s =>
    let (s, ok, js) := s.request t l
    let (s, ok', js') := State.requestAll t r s
    (s, ok && ok', js ++ js')

/-- Commit a task whose waits are over (R340): a stale read aborts it; so does dooming the oldest timed task of its
context; a line that another task holds makes it wait. -/
def State.tryCommit (s : State) (t : Task) : State × List Job :=
  let stale := s.staleBy t
  if !stale.isEmpty then (s.putTask t, [.doom t.handle (stale.all fun w => w == some t.crec.ctx)])
  else
    let p := s.landCommit t
    let (s1, ok, js) := State.requestAll t p.lines s
    if !ok then (s1.putTask (t.block .done), js)
    else if (s.readers p.lines t.handle).any fun u => u.crec.ctx == t.crec.ctx && s.isOldest u then
      (s.putTask t, [.doom t.handle true])
    else s.afterCommit t p

/-! ### `done` (R340) -/

/-- `done`: the region closes; then the waits of `bar`, of copies and of commit order; then the commit. -/
def State.doneBody (s : State) (t : Task) : State × List Job :=
  let t := { t with regionOpen := false, committing := true }
  s.funded t .done fun s t =>
    s.barWait t .done (fun t => t.barMet && t.copies.all Copy.finished) (fun _ => true) fun s t =>
      if s.inOrder t then (s.putTask t).tryCommit t else (s.putTask (t.block .done), [])

/-- `done` (R340), which draws nothing. -/
def execDone (s : State) : Out := issueTask .done 0 noTrap State.doneBody s

/-- TASK_COMMIT (R340): a task that waits in `done` commits if it may. -/
def execTaskCommit (h : Word) (s : State) : Out :=
  s.onTask h fun s t =>
    if t.gate != .running || t.threadFrozen || !t.paid || t.wait != some .done then (s, []) else s.doneBody t

/-- LOCK_GRANT (R298): a lock without a holder goes to the oldest waiter. -/
def execLockGrant (line : Nat) (s : State) : Out :=
  match s.lock? line with
  | none => .next s
  | some l =>
    if l.holder.isSome then .next s
    else match (l.waiters.filterMap s.task?).foldl (fun (b : Option Task) u => match b with
        | none => some u
        | some v => if u.older v then some u else some v) none with
      | none => .next { s with locks := s.locks.filter fun x => x.line != line }
      | some t =>
        match t.wait with
        | some (.arBegin _) =>
          let (s, t) := s.takeLock t line
          .next (s.putTask ({ t with regionOpen := true }.advance 4))
        | some .done => if t.gate == .running then .next (finish (s.doneBody t)) else .next s
        | _ => .next (s.setLock { l with waiters := l.waiters.filter (· != t.handle) })

/-! ### Space deadlock (R130) -/

/-- The tasks that hold space in a cluster's Cupboard. -/
def State.spaceHolders (s : State) (die cluster : Nat) : List Task :=
  s.tasks.filter fun t => t.die == die && (List.range t.members.length).any fun k =>
    (t.member k).cluster == cluster && t.share.getD k 0 > 0

/-- Whether the Cupboard of a task's cluster-in-gang has no room for its share there to grow to `n` bytes. -/
def State.cupFull (s : State) (t : Task) (k n : Nat) : Bool :=
  s.cupUsed t.die (t.member k).cluster + n > Config.cupboardBytes + t.share.getD k 0

/-- Whether a write of a task waits for space in a Cupboard that is still full, in some clusters. -/
def State.awaitsSpace (s : State) (t : Task) (among : Nat → Bool) : Bool :=
  t.spaceWait.any fun w => among (t.member w.2.1).cluster && s.cupFull t w.2.1 w.2.2

/-- Whether a task has only a smaller timestamp left to wait for before it commits (R340). -/
def State.awaitsTs (s : State) (t : Task) : Bool :=
  t.committing && t.barMet && t.copies.all Copy.finished && s.behindTs t

/-- Whether a space deadlock holds in a cluster's Cupboard: it is still full for a write that waits, and every holder of its space
waits for space or for a smaller timestamp (R130). -/
def State.spaceDeadlock (s : State) (die cluster : Nat) : Bool :=
  let hs := s.spaceHolders die cluster
  (s.tasks.any fun t => t.die == die && s.awaitsSpace t (· == cluster)) && !hs.isEmpty &&
  hs.all fun t => s.awaitsSpace t (fun _ => true) || s.awaitsTs t

/-- Whether a task counts as younger than another in R130: by timestamp, untimed tasks youngest, then by latest
admission. -/
def Task.younger (t u : Task) : Bool := lexLt [tsKey u.crec.ts, u.admitId] [tsKey t.crec.ts, t.admitId]

/-- The youngest of some tasks. -/
def youngest (l : List Task) : Option Task :=
  l.foldl (fun b t => match b with
    | none => some t
    | some u => if t.younger u then some t else some u) none

/-- CUPBOARD_SPACE_ABORT (R130). -/
def execCupboardSpaceAbort (die cluster : Nat) (s : State) : Out :=
  s.onDie die fun s _ =>
    if !s.spaceDeadlock die cluster then (s, [])
    else
      let hs := s.spaceHolders die cluster
      match youngest (hs.filter fun t => !s.isOldest t), youngest hs with
      | some t, _ => (s.requeue t t.rerun t.irrevocable false, [])
      | none, some t => (s.requeue t t.rerun t.irrevocable true, [])
      | none, none => (s, [])

end Sys2Proof.Machine
end

