-- ==== Sys2Proof/Machine/Hang.lean ====
section
/-! DEFINITION. The hang monitor, its blocked-port map, and the channel deadlock detector (R114, R271, R272,
R319–R321). -/

namespace Sys2Proof.Machine

open Sys2Proof

/-! ### Blocked channel endpoints (R271) -/

/-- The channel and side (true for the reader) that a task's thread waits at. -/
def Task.threadEnd (t : Task) : Option (Nat × Bool) :=
  if !t.paid then none
  else match t.wait with
    | some (.chPushW a _) => some (chanNum (t.x a), false)
    | some (.chPushD a _) => some (chanNum (t.x a), false)
    | some (.chPopW _ a) => some (chanNum (t.x a), true)
    | some (.chPopD _ a _) => some (chanNum (t.x a), true)
    | some (.chPeek _ a) => some (chanNum (t.x a), true)
    | _ => none

/-- The channel and side that a CHANNEL generator works at now. -/
def Task.agEnd (t : Task) (a : Ag) : Option (Nat × Bool) :=
  if agMode a.frame ≠ 5 then none
  else if agDepth a.frame ≠ 0 then (if (t.head (.ag a.place false)).isSome then some (a.chan, false) else none)
  else match a.passes with
    | p :: _ => if t.launched p && a.out.isEmpty && p.pos < p.granted then some (a.chan, true) else none
    | [] => none

/-- Whether a task cannot go on at a side of a channel. -/
def State.endBlocked (s : State) (t : Task) (e : Nat × Bool) : Bool :=
  match s.chan? t.crec.ctx e.1 with
  | some c => if e.2 then c.next.isNone else !c.roomFor t
  | none => false

/-- The endpoints at which a task is blocked: channel, side, and the instruction address a fault there reports. -/
def State.blockedEnds (s : State) (t : Task) : List (Nat × Bool × Nat) :=
  (t.threadEnd.toList.map fun e => (e.1, e.2, t.pc.toNat)) ++
    (t.ags.filterMap fun a => (t.agEnd a).map fun e => (e.1, e.2, t.agAddr a)) |>.filter fun e =>
      s.endBlocked t (e.1, e.2.1)

/-- Whether a channel of a context is REMOTE. -/
def State.chanRemote (s : State) (ctx num : Nat) : Bool :=
  match s.chan? ctx num with | some c => c.remote | none => false

/-! ### The monitor (R319) -/

/-- Whether an instruction is a wait that holds work (R319); `bar.cfg` first waits as `bar` (R152). A wait at a REMOTE channel counts
too. -/
def waitHolds : Instr → Bool
  | .bar => true
  | .barCfg => true
  | .drain _ => true
  | .tlWait _ _ => true
  | .arEnd => true
  | _ => false

/-- Whether a gang holds work (R319). -/
def State.holdsWork (s : State) (t : Task) : Bool :=
  t.allDests.any (fun d => !(t.queue d).isEmpty) ||
  (t.paid && match t.wait with | some i => waitHolds i | none => false) ||
  t.gos.any (fun g => !g.launched) ||
  t.copies.any (fun c => !c.finished) ||
  t.engines.any (fun e => e.tile?.isSome) ||
  t.cells.any (fun x => !x.passes.isEmpty) || t.ags.any (fun a => !a.passes.isEmpty) ||
  !(s.blockedEnds t).isEmpty

/-- Whether a task waits for a line lock. -/
def State.waitsLock (s : State) (t : Task) : Bool := s.locks.any fun l => l.waiters.contains t.handle

/-- Whether the monitor does not count a gang's time now (R319). -/
def State.uncounted (s : State) (t : Task) : Bool :=
  t.gate == .hold || !t.frozen.isEmpty || s.awaitsSpace t (fun _ => true) || s.waitsLock t ||
  (t.committing && t.barMet && t.copies.all Copy.finished && !s.inOrder t) ||
  (s.blockedEnds t).any fun e => !s.chanRemote t.crec.ctx e.1

/-- Whether the monitor counts a microsecond against a gang (R319). -/
def State.countsHang (s : State) (t : Task) : Bool := t.ready && s.holdsWork t && !s.uncounted t

/-! ### The map (R321; log entry 19) -/

/-- A blocked port: place, whether an AG, port, what it awaits, tag, value. -/
structure BlockedPort where
  place : Nat
  ag : Bool
  port : Nat
  code : Nat
  tag : Nat
  value : Nat
deriving DecidableEq, Repr

/-- The 16 bytes of an entry. -/
def BlockedPort.bytes (b : BlockedPort) : List Byte :=
  natBytes 8 (b.place % 1024 + (if b.ag then 2 ^ 10 else 0) + 2 ^ 11 * b.port + 2 ^ 14 * b.code + 2 ^ 18 * b.tag) ++
  natBytes 8 b.value

/-- The tag that the map shows for an item: a record's T, or 0x3FF for a token (R188, R321). -/
def Item.tagShown (x : Item) : Nat :=
  match x.body with
  | .record r => r.t.toNat
  | .token _ => 0x3FF

/-- The tag at the head of a destination, or 0x3FF. -/
def Task.tagAt (t : Task) (d : Dest) : Nat := ((t.head d).map Item.tagShown).getD 0x3FF

/-- The first copy timeline that has not reached the copies issued on it. -/
def Task.copyAwaits (t : Task) : Option (Nat × Nat) :=
  ([0, 1].find? fun n => t.timeline n < t.issued.getD n 0).map fun n => (3, n + 8 * t.issued.getD n 0 % 2 ^ 64)

/-- What a thread awaits that waits as `bar`: an arm's funding, or D at a section that is not drained. -/
def Task.barAwaits (t : Task) : Nat × Nat :=
  match t.arms.find? fun a => a.op.isNone with
  | some a => (9, a.node)
  | none => (2, ((List.range 8).find? fun n => !t.drained n).getD 0)

/-- What the thread awaits. -/
def Task.threadAwaits (t : Task) : Option (Nat × Nat) :=
  if !t.paid then none
  else match t.threadEnd, t.wait with
    | some (n, false), _ => some (7, n)
    | some (n, true), _ => some (8, n)
    | none, some (.tlWait tl b) => some (3, tl.toNat + 8 * (t.x b).toNat % 2 ^ 64)
    | none, some (.drain sec) => some (2, sec.toNat)
    | none, some .bar => some t.barAwaits
    | none, some .barCfg => some t.barAwaits
    | none, some (.fence k) =>
      match (if k.getLsbD 0 then t.copyAwaits else none) with
      | some x => some x
      | none => if k.getLsbD 1 && !t.barMet then some t.barAwaits else none
    | none, some .done => some (t.copyAwaits.getD t.barAwaits)
    | none, _ => none

/-- The tag of the record that waits to leave an output of a compute unit that has what it needs, or 0x3FF (R188, R321). Its stages see
the ports that the firing serves, as when it fires. -/
def Task.tagOut (t : Task) (x : Cell) (v : BitVec 240) (n : Nat) : Nat :=
  if cuFibre v then 0x3FF
  else match t.cuNext x v with
    | none => 0x3FF
    | some (taken, first) =>
      let port (m : Nat) : LinkRec := if taken.contains m then (t.portHead x.idx m).getD LinkRec.none else LinkRec.none
      if cuOp v 0 = 0x81 && n = 1 then 0
      else if cuOp v 0 = 0x81 || cuOp v 0 = 0x86 then (port (cuSel v 0 0)).t.toNat
      else match (cuEmits v port x.acc (runStages t.crec.ftz v x.acc port first).1).find? fun e => e.1 == n with
        | some e => e.2.tagShown
        | none => 0x3FF

/-- The outputs that the next firing of a compute unit writes: a portal that waits for replies does not write out0 then (R311). -/
def cuFireOuts (v : BitVec 240) : List Nat :=
  (cuOuts v).filter fun n => !((cuOp v 0 = 0x90 || cuOp v 0 = 0x91) && !cuFibre v && (cuImm v 0).testBit 3 && n = 0)

/-- The outputs without room of a compute unit that has what it needs to fire. -/
def Task.fullOuts (t : Task) (c : Nat) (v : BitVec 240) (tag : Nat → Nat) : List BlockedPort :=
  ((cuFireOuts v).filter fun n => !(t.outDests c n).all t.room).map fun n =>
    { place := c, ag := false, port := 4 + n, code := 1, tag := tag n, value := 0 }

/-- The input ports that a compute unit's next firing cannot do without. -/
def cuNeeds (x : Cell) (v : BitVec 240) : List Nat :=
  if cuFibre v then cuIns v
  else if cuOp v 0 = 0x71 then
    (match cuImm v 0 % 4 with
      | 0 => cuIns v
      | 1 => [if x.turn then cuSel v 0 1 else cuSel v 0 0]
      | _ => [])
  else if cuOp v 0 = 0x72 then []
  else cuIns v

/-- The blocked ports of a permit entry: contenders wait for a permit, or for a slot (R306). -/
def Task.enterPorts (t : Task) (x : Cell) (v : BitVec 240) : List BlockedPort :=
  if (t.portHead x.idx (cuSel v 0 0)).isNone then []
  else if x.permits = 0 && (t.portHead x.idx (cuSel v 0 1)).isNone then
    [{ place := x.idx, ag := false, port := cuSel v 0 1, code := 5, tag := 0x3FF, value := 0 }]
  else t.fullOuts x.idx v fun _ => ((t.portHead x.idx (cuSel v 0 0)).map fun r => r.t.toNat).getD 0x3FF

/-- The blocked ports of a controller: a done that a child owes, or a slot for what it sends next (R307). -/
def Task.ctlPorts (t : Task) (x : Cell) (v : BitVec 240) : List BlockedPort :=
  let N := ctlN (cuImm v 0)
  let n := ctlKids (cuImm v 0)
  match x.ctl.go with
  | none => []
  | some g =>
    let full (p tag : Nat) : List BlockedPort :=
      if (t.outDests x.idx p).all t.room then []
      else [{ place := x.idx, ag := false, port := 4 + p, code := 1, tag := tag, value := 0 }]
    if ctlDone (cuOp v 0) N n x.ctl then full 1 g.t.toNat
    else match ctlNext (cuOp v 0) N n x.ctl with
      | some (k, _) => full 0 k
      | none => [{ place := x.idx, ag := false, port := cuSel v 0 1, code := 5, tag := 0x3FF,
                   value := (x.ctl.await.findIdx? id).getD 0 }]

/-- The blocked ports of a compute unit: the inputs without an item while another has one; else, with every input ready,
the outputs without room. -/
def Task.cuPorts (t : Task) (c : Nat) (v : BitVec 240) (x : Cell) : List BlockedPort :=
  if !cuFibre v && cuOp v 0 = 0x80 then t.enterPorts x v
  else if !cuFibre v && 0x82 ≤ cuOp v 0 && cuOp v 0 ≤ 0x84 then t.ctlPorts x v
  else
    let has (n : Nat) : Bool := if cuFibre v then (t.tokHead x n).isSome else (t.portHead c n).isSome
    let missing := (cuNeeds x v).filter fun n => !has n
    (match x.portal with
      | f :: _ => if f.waiting.isEmpty && f.out && !(t.outDests c 0).all t.room then
          [{ place := c, ag := false, port := 4, code := 1, tag := f.item.t.toNat, value := 0 }] else []
      | [] => []) ++
    (if !(cuIns v).any has then []
     else if missing.isEmpty then t.fullOuts c v (t.tagOut x v)
     else missing.map fun n => { place := c, ag := false, port := n, code := 0, tag := 0x3FF, value := 0 })

/-- The blocked ports of a memory unit apart from its source: a stream that holds part of a pass waits for its next item, one that has
it waits for a slot, the record that waits having T = 0 (R188, R190); a FIFO waits for its slot to fill (R190, R219, R240). -/
def Task.muPorts (t : Task) (x : Cell) (v : BitVec 240) : List BlockedPort :=
  let awaits : List BlockedPort := [{ place := x.idx, ag := false, port := 0, code := 0, tag := 0x3FF, value := 0 }]
  if muMode v = 2 || muMode v = 3 then
    if (t.head (.cell x.idx 9)).isNone then (if x.pos = 0 && x.tail = 0 then [] else awaits)
    else if muMode v = 3 && !(t.dests x.idx 8).all t.room then
      [{ place := x.idx, ag := false, port := 4, code := 1, tag := if muTokens x v then 0x3FF else 0, value := 0 }]
    else []
  else if muMode v = 4 then
    match x.passes with
    | p :: _ => if t.launched p && p.pos < p.granted && !x.fifo.getD x.fifoRd false then awaits else []
    | [] => []
  else []

/-- The gate that holds a source's pass back. -/
def Task.passGate (t : Task) (ps : List Pass) : Option Nat :=
  match ps.head?.bind fun p => t.gos.find? fun g => g.id == p.go with
  | some g => if g.launched then none else g.gate.map fun x => x.1 + 8 * x.2 % 2 ^ 64
  | none => none

/-- The entry of a source whose pass the gate of its go holds back. -/
def Task.gatePorts (t : Task) (place : Nat) (ag : Bool) (ps : List Pass) : List BlockedPort :=
  (t.passGate ps).toList.map fun v => { place := place, ag := ag, port := 4, code := 3, tag := 0x3FF, value := v }

/-- The blocked ports of a memory unit that is a source: its gate, or its output while something is ready to leave. Its records have
T = 0 (R188, R190). -/
def Task.muSourcePorts (t : Task) (x : Cell) (v : BitVec 240) : List BlockedPort :=
  match x.passes with
  | [] => []
  | p :: _ =>
    let ready := t.launched p && (x.tail ≠ 0 || p.pos < p.granted && (muMode v ≠ 4 || x.fifo.getD x.fifoRd false))
    t.gatePorts x.idx false x.passes ++
      if ready && !(t.dests x.idx 8).all t.room then
        [{ place := x.idx, ag := false, port := 4, code := 1, tag := if x.tail ≠ 0 || muTokens x v then 0x3FF else 0, value := 0 }]
      else []

/-- The outputs of a generator at which something waits to leave without room. -/
def Task.agFullOuts (t : Task) (a : Ag) : List BlockedPort :=
  let entry (port : Nat) (x : Item) : BlockedPort :=
    { place := a.place, ag := true, port := port, code := 1, tag := x.tagShown, value := 0 }
  let room (p : Nat) : Bool := (t.agDests a.place p).all t.room
  (if room (agPort a.frame) then [] else (a.out.take 1).map (entry 4)) ++
  (if room (agPort a.frame ^^^ 1) then [] else (a.out2.take 1).map (entry 5))

/-- The blocked ports of an engine: a header token or the rows that have not come, or load data. -/
def Task.enginePorts (t : Task) (e : Engine) : List BlockedPort :=
  (if e.tile?.isSome && ((t.wants (.eng e.k)).headD []).any fun d => (t.head d).isNone then
     [{ place := e.k * 64, ag := false, port := 7, code := if e.header && !e.headerTaken then 4 else 0,
        tag := t.tagAt (.eng e.k 0), value := 0 }]
   else []) ++
  (match e.loads with
   | l :: _ => [{ place := e.k * 64, ag := false, port := 7, code := 6, tag := 0x3FF,
                  value := l.blockAt e.code (l.buf.length / 128) }]
   | [] => [])

/-- The blocked ports of the copy engines: the copy that an engine works on waits at its gate, or for a slot of its FIFO (R217, R219). -/
def State.copyPorts (s : State) (t : Task) : List BlockedPort :=
  (List.range t.members.length).flatMap fun k => [0, 1].flatMap fun n =>
    match s.copyHead t k n with
    | none => []
    | some c =>
      let entry (code value : Nat) : BlockedPort :=
        { place := k * 64, ag := false, port := 7, code := code, tag := 0x3FF, value := value }
      let slotFull := match t.cell? c.d.fifoCell with
        | some x => (t.fifoAt c.d.fifoCell).isNone || x.fifo.getD x.fifoWr true
        | none => true
      if !t.copyOpen c then c.d.gate.toList.map fun g => entry 3 (g.1 + 8 * g.2 % 2 ^ 64)
      else if c.d.dmd && c.ran < c.allowed && (!t.fifoTurn c || slotFull) then [entry 1 0]
      else []

/-- The blocked ports of a generator that tokens pass through: an input without a token while it holds part of a pass or the other has
one, the load data of its oldest request, or an output without room (R236–R238). -/
def Task.throughPorts (t : Task) (a : Ag) : List BlockedPort :=
  let entry (port code value : Nat) : BlockedPort :=
    { place := a.place, ag := true, port := port, code := code, tag := 0x3FF, value := value }
  let ins := if agMode a.frame = 3 then [(0, false, a.inp), (1, true, a.inp2)] else [(0, false, a.inp)]
  let has (second : Bool) : Bool := (t.head (.ag a.place second)).isSome
  ((ins.filter fun i => !has i.2.1 && (i.2.2.begun || a.pos ≠ 0 || ins.any fun j => has j.2.1)).map fun i => entry i.1 0 0) ++
  (match a.gathers with
    | (va, none) :: _ => if agMode a.frame = 2 then [entry 4 6 va] else []
    | (_, some _) :: _ => if agMode a.frame = 2 && !(t.agDests a.place (agPort a.frame)).all t.room then [entry 4 1 0] else []
    | [] => []) ++ t.agFullOuts a

/-- The blocked ports of a generator. A CHANNEL generator waits for room or for an entry only where there is none. -/
def State.agPorts (s : State) (t : Task) (a : Ag) : List BlockedPort :=
  match t.agEnd a with
  | some (n, r) =>
    if s.endBlocked t (n, r) then
      [{ place := a.place, ag := true, port := if r then 4 else 0, code := if r then 8 else 7,
         tag := if r then 0x3FF else t.tagAt (.ag a.place false), value := n }]
    else []
  | none =>
    if t.agSource a then t.gatePorts a.place true a.passes ++ t.agFullOuts a else t.throughPorts a

/-- Put a blocked port into a list in rising place and port order. -/
def insertPort (b : BlockedPort) : List BlockedPort → List BlockedPort
  | [] => [b]
  | c :: r => if (b.place, b.port) = (c.place, c.port) || lexLt [b.place, b.port] [c.place, c.port] then b :: c :: r
    else c :: insertPort b r

/-- Every blocked port of a gang, in rising place and port order. -/
def State.blockedPorts (s : State) (t : Task) : List BlockedPort :=
  let thread : List BlockedPort := t.threadAwaits.toList.map fun w =>
    { place := 0, ag := false, port := 6, code := w.1, tag := 0x3FF, value := w.2 }
  let cells : List BlockedPort := t.cells.flatMap fun (x : Cell) =>
    (match x.cu with | some v => t.cuPorts x.idx v x | none => []) ++
    (match x.mu with | some v => t.muPorts x v ++ t.muSourcePorts x v | none => [])
  (thread ++ cells ++ t.ags.flatMap (s.agPorts t) ++ t.engines.flatMap t.enginePorts ++ s.copyPorts t).foldr insertPort []

/-- The bytes of a map. -/
def State.mapBytes (s : State) (t : Task) (seq : Nat) : List Byte :=
  let ps := s.blockedPorts t
  natBytes 8 t.handle.toNat ++ natBytes 4 seq ++ natBytes 4 ps.length ++ natBytes 8 t.pc.toNat ++ natBytes 40 0 ++
  (ps.take 252).flatMap BlockedPort.bytes

/-- A gang ends HANG: its map is written, its effects vanish, its record is written (R320). -/
def State.hangEnd (s : State) (t : Task) : State × List Job :=
  let d := s.die t.die
  let seq := d.hangSeq
  let at' := if d.hmapBase = 0 then 0 else d.hmapBase.toNat + 4096 * (seq % 16)
  let s := s.updDie t.die fun d => { d with hangSeq := d.hangSeq + 1 }
  let s := if d.hmapBase = 0 then s else s.setHomed at' (s.mapBytes t seq)
  s.retire { t with gate := .stopped } .hang .hang 0 0 (seq % 2 ^ 32) at'

/-- Whether a task is being pre-empted: a Save of it waits, or the package is being suspended (R322, R329). -/
def State.preempting (s : State) (t : Task) : Bool :=
  (s.dies.any fun d => d.preBusy == some t.handle) || s.susp == .suspending && !t.committing

/-- HANG_DETECT (R320): the count has reached the interval; pre-emption wins over it (R326). A gate in SHORT whose account cannot fund one further unit
ends SHORTFALL instead (R114). -/
def execHangDetect (h : Word) (s : State) : Out :=
  s.onTask h fun s t =>
    if !s.hung t || s.preempting t then (s, [])
    else match t.gate, t.cmd with
      | .short, some c => if (takeUnits c.runs c.done t.account).1 = 0 then s.shortfall t c else s.hangEnd t
      | _, _ => s.hangEnd t

/-! ### The channel detector (R271, R272) -/

/-- The endpoints that a die's detector samples: those of local channels whose reader-side home lies on it. -/
def State.sampleEnds (s : State) (d : Nat) : List Sample :=
  s.tasks.flatMap fun t => (s.blockedEnds t).filterMap fun e =>
    match s.chan? t.crec.ctx e.1 with
    | some c =>
      if c.rdie = d && c.state == .opened && !c.remote then
        some { task := t.handle, ctx := c.ctx, num := c.num, reader := e.2.1, head := c.head, tail := c.tail,
               own := if e.2.1 then (c.entries.filter fun x => x.tent == some t.handle).length else t.heldFor c.num,
               confirmed := false }
      else none
    | none => none

/-- Two samples that show the same. -/
def Sample.same (a b : Sample) : Bool := { a with confirmed := false } == { b with confirmed := false }

/-- The new samples of a die, confirmed where the ones before showed the same. -/
def State.newSamples (s : State) (d : Nat) : List Sample :=
  (s.sampleEnds d).map fun x => { x with confirmed := (s.die d).samples.any x.same }

/-- The endpoints that count as blocked: each die's confirmed ones that still show the same. -/
def State.blockedSet (s : State) : List Sample :=
  (List.range s.dies.length).flatMap fun d =>
    (s.die d).samples.filter fun x => x.confirmed && (s.sampleEnds d).any x.same

/-- The task that holds the other side of an endpoint's channel. -/
def State.otherHolder (s : State) (x : Sample) : Word :=
  match s.chan? x.ctx x.num with
  | some c => if x.reader then c.writer else c.reader
  | none => 0

/-- A writer whose own held pushes take all the room of its channel (R271). -/
def State.ownFull (s : State) (x : Sample) : Bool :=
  !x.reader && match s.chan? x.ctx x.num with
    | some c => x.own ≥ c.capacity
    | none => false

/-- A cycle through an endpoint: a path of blocked endpoints from `cur` back to the task of `start`. -/
def State.cycleFrom (s : State) (es : List Sample) (start : Sample) : Nat → List Sample → Sample → Option (List Sample)
  | 0, _, _ => none
  | n + 1, path, cur =>
    let path := path ++ [cur]
    if s.otherHolder cur == start.task || s.ownFull cur && cur == start then some path
    else (es.filter fun y => y.task == s.otherHolder cur && !path.contains y).findSome? fun y =>
      s.cycleFrom es start n path y

/-- The die that handles a cycle: the lowest-numbered one that holds a member. -/
def State.cycleDie (s : State) (c : List Sample) : Nat :=
  c.foldl (fun b x => match s.chan? x.ctx x.num with | some c => min b c.rdie | none => b) 4

/-- Grow a channel by one page, if its list and its context's reserve allow it (R272); a far writer gets credit for its room (R274). -/
def State.growChan (s : State) (c : Chan) : Option State :=
  let d := s.die c.rdie
  if c.budget + c.grown < c.len && d.reserve c.ctx > 0 then
    some ((({ s.putChan { c with grown := c.grown + 1 } with commitSeq := s.commitSeq + 1 }.updDie c.rdie fun d =>
      d.setQuota c.ctx (d.quota c.ctx) (d.reserve c.ctx - 1)).log c.rdie 6).grantCredit c.ctx c.num)
  else none

/-- The endpoint of the lowest channel number, the context breaking ties. -/
def lowestEnd (l : List Sample) : Option Sample :=
  l.foldl (fun b x => match b with
    | none => some x
    | some y => if lexLt [x.num, x.ctx] [y.num, y.ctx] then some x else some y) none

/-- Every task of a list ends HANG. -/
def State.hangAll (s : State) : List Word → State × List Job
  | [] => (s, [])
  | h :: r =>
    let (s, j1) := match s.task? h with | some t => s.hangEnd t | none => (s, [])
    let (s, j2) := s.hangAll r
    (s, j1 ++ j2)

/-- The address that a fault of a task at a channel reports. -/
def State.endAddr (s : State) (t : Task) (num : Nat) : Nat :=
  (((s.blockedEnds t).find? fun e => e.1 == num).map fun e => e.2.2).getD t.pc.toNat

/-- Act on one cycle (R272). -/
def State.breakCycle (s : State) (c : List Sample) : State × List Job :=
  if c.any Sample.reader then s.hangAll (c.map Sample.task).eraseDups
  else match (lowestEnd c).bind fun x => s.chan? x.ctx x.num with
    | none => (s, [])
    | some ch => match s.growChan ch with
      | some s => (s, [])
      | none => match youngest (((c.map Sample.task).eraseDups).filterMap s.task?) with
        | none => (s, [])
        | some t =>
          let num := ((c.find? fun x => x.task == t.handle).map Sample.num).getD ch.num
          s.taskFault t .channelSpillExhausted 0 (s.endAddr t num)

/-- Act on the cycles through some endpoints, each cycle once: an endpoint that a handled cycle held is passed over. -/
def State.breakCycles (d : Nat) : List Sample → List Sample → State → State × List Job
  | [], _, s => (s, [])
  | x :: r, seen, s =>
    let es := s.blockedSet
    if seen.contains x || !es.contains x then State.breakCycles d r seen s
    else match s.cycleFrom es x (es.length + 1) [] x with
      | none => State.breakCycles d r seen s
      | some c =>
        if s.cycleDie c ≠ d then State.breakCycles d r seen s
        else
          let (s, j1) := s.breakCycle c
          let (s, j2) := State.breakCycles d r (seen ++ c) s
          (s, j1 ++ j2)

/-- CHANNEL_DETECTOR_SAMPLE (R271, R272). -/
def execChannelDetectorSample (die : Nat) (s : State) : Out :=
  s.onDie die fun s _ =>
    let l := s.newSamples die
    let s := s.updDie die fun d => { d with samples := l }
    State.breakCycles die s.blockedSet [] s

end Sys2Proof.Machine
end

