-- ==== Sys2Proof/Machine/Walk.lean ====
section
/-! DEFINITION. User queues, queue slots, launch entries, the checks on graphs, and the delivery of walker arms
(R19–R24, R79–R88). -/

namespace Sys2Proof.Machine

open Sys2Proof

/-! ### Queue table entries (R79, R80) -/

/-- The physical address of a queue table entry (R79, R356). -/
def State.qteAddr (s : State) (q : Nat) : Nat := s.qtBase.toNat + 64 * q

/-- A doubleword of a queue table entry. -/
def State.qteWord (s : State) (q n : Nat) : Nat := s.natAt (s.qteAddr q + 8 * n) 8

/-- The fields of a queue table entry that the device uses. -/
structure Qte where
  ring : Nat
  log2 : Nat
  enable : Bool
  ctx : Nat
  die : Nat
  tail : Nat
  head : Nat
deriving DecidableEq, Repr

/-- Read a queue table entry in committed memory. -/
def State.qte (s : State) (q : Nat) : Qte :=
  let w := s.qteWord q 1
  { ring := s.qteWord q 0, log2 := bitsOf w 4 0, enable := bitsOf w 5 5 == 1, ctx := bitsOf w 21 6,
    die := bitsOf w 23 22, tail := bitsOf (s.qteWord q 2) 31 0, head := bitsOf (s.qteWord q 3) 31 0 }

/-- Whether a queue may be served by a die (R79). -/
def State.servable (s : State) (d q : Nat) : Bool :=
  let e := s.qte q
  q < s.qtCount.toNat && e.enable && 4 ≤ e.log2 && e.log2 ≤ 16 && e.die == d

/-- Entries between head and tail, modulo 2^32 (R80). -/
def Qte.held (e : Qte) : Nat := (e.tail + 2 ^ 32 - e.head) % 2 ^ 32

/-- The physical address of the ring entry at head. -/
def Qte.entryAt (e : Qte) : Nat := e.ring + 64 * (e.head % 2 ^ e.log2)

/-- The device reads a queue's table entry, and the entry at its head where `head` says so, for die `d` in class 0 (R80, R203). DESIGN
CHOICE: bytes that the device does not reach are read as they lie, and pass no cache (log entry 80). -/
def State.readQueue (s : State) (d q : Nat) (head : Bool) : State :=
  let e := s.qte q
  if q ≥ s.qtCount.toNat then s
  else s.touchLines d 0 ((s.qteAddr q :: (if head && e.held ≠ 0 then [e.entryAt] else [])).filter s.reaches)

/-- The priority of the entry at a queue's head (R83). DESIGN CHOICE: a queue whose ring is empty has no head entry, and counts as 0 (log
entry 72). -/
def State.headPrio (s : State) (q : Nat) : Nat :=
  let e := s.qte q
  if e.held = 0 then 0 else bitsOf (s.natAt (e.entryAt + 16) 8) 21 16

/-- A priority aged by a time of waiting in µs: one level for each 10 ms, up to 43 (R90). -/
def agedBy (prio waited : Nat) : Nat := if prio ≥ 43 then prio else min 43 (prio + waited / 10000)

/-- Whether slots read entries and records are placed: stage C, and no suspension (R329, R352). -/
def State.serving (s : State) : Bool := s.stage == .c && s.susp == .running

/-! ### Notifications and slots (R81–R84) -/

/-- A notification of a queue at a die (R81): a pending queue coalesces it, a mapped one notes it (R82). DESIGN CHOICE: one of a number at or
above QTCOUNT is ignored (log entry 72). -/
def State.notify (s : State) (d q : Nat) : State :=
  if q ≥ s.qtCount.toNat then s
  else if (s.qte q).die ≠ d then s.readQueue d q false
  else (s.readQueue d q false).updDie d fun x =>
    if x.slots.any fun y => y.queue == q then
      { x with slots := x.slots.map fun (y : QSlot) => if y.queue == q then { y with renotified := true } else y }
    else if x.pending.any fun p => p.1 == q then x
    else { x with pending := x.pending ++ [(q, s.now)] }

/-- NOTIFICATION_WRITE (R81). -/
def execNotificationWrite (die : Nat) (off : BitVec 12) (value : BitVec 32) (s : State) : Out :=
  s.onDie die fun s _ =>
    if s.stage != .c || off.toNat % 4 ≠ 0 || value.toNat / 65536 ≠ 0 then (s, [])
    else (s.notify die value.toNat, [])

/-- The level of a waiting queue (R83, R90). -/
def State.queueLevel (s : State) (p : Nat × Nat) : Nat := agedBy (s.headPrio p.1) (s.now - p.2)

/-- The first waiting queue of a die that may be served: by level, then by notification order (R83). -/
def State.firstWaiting (s : State) (d : Nat) : Option (Nat × Nat) :=
  ((s.die d).pending.filter fun p => s.servable d p.1).foldl (fun b p => match b with
    | none => some p
    | some x => if s.queueLevel x < s.queueLevel p then some p else some x) none

/-- The device reads what chooses among the waiting queues of a die: their table entries, and the entries at the heads of those that may be
served (R83, R203; log entry 61). -/
def State.readWaiting (s : State) (d : Nat) : State :=
  (s.die d).pending.foldl (fun u p => u.readQueue d p.1 (s.servable d p.1)) s

/-- Map a waiting queue onto a slot. -/
def State.mapQueue (s : State) (d slot q : Nat) : State :=
  s.updDie d fun x =>
    { x with pending := x.pending.filter (fun p => p.1 != q), overrun := x.overrun.filter (· != q),
             slots := x.slots ++ [{ idx := slot, queue := q, since := s.now, final := false, renotified := true }] }

/-- A free slot of a die's 64 (R83). DESIGN CHOICE: of several free ones it is the lowest (log entry 72). -/
def Die.freeSlot (x : Die) : Option Nat := (List.range 64).find? fun i => !x.slots.any fun y => y.idx == i

/-- QUEUE_SLOT_MAP (R83). -/
def execQueueSlotMap (die : Nat) (s : State) : Out :=
  s.onDie die fun s x =>
    if !s.serving then (s, [])
    else match x.freeSlot, s.firstWaiting die with
      | some i, some p => ((s.readWaiting die).mapQueue die i p.1, [])
      | some _, none => (s.readWaiting die, [])
      | none, _ => (s, [])

/-- Free a slot; its queue is pending again, or not. -/
def State.freeSlot (s : State) (d slot : Nat) (again : Bool) : State :=
  s.updDie d fun x =>
    { x with slots := x.slots.filter (fun y => y.idx != slot),
             pending := x.pending ++ (if again then (x.slots.filter fun y => y.idx == slot).map fun y => (y.queue, s.now)
               else []) }

/-- TIME_SLICE_END (R83, R84): a slot whose slice is over gives its place to the first waiting queue of equal or higher
priority; the queue that held it waits again. -/
def execTimeSliceEnd (die slot : Nat) (s : State) : Out :=
  s.onDie die fun s x =>
    match x.slots.find? fun y => y.idx == slot with
    | none => (s, [])
    | some y =>
      if !s.serving || s.now < y.since + x.sliceLen.toNat then (s, [])
      else
        let again (u : State) : State := u.updDie die fun x =>
          { x with slots := x.slots.map fun (z : QSlot) => if z.idx == slot then { z with since := s.now } else z }
        match s.firstWaiting die with
        | none => (again (s.readWaiting die), [])
        | some p =>
          let u := (s.readWaiting die).readQueue die y.queue true
          if s.queueLevel p < s.headPrio y.queue then (again u, [])
          else ((u.freeSlot die slot true).mapQueue die slot p.1, [])

/-! ### Launch entries and graphs (R19–R24) -/

/-- A launch entry (R23). -/
structure LaunchEntry where
  graph : Word
  frame : Word
  count : Nat
  prio : Nat
  cls : Nat
  ctx : Nat
  tsbase : Word
  completion : Word
deriving DecidableEq, Repr

/-- Read the launch entry at a physical address. -/
def State.launchEntry (s : State) (a : Nat) : LaunchEntry :=
  let w (n : Nat) : Word := BitVec.ofNat 64 (s.natAt (a + 8 * n) 8)
  { graph := w 0, frame := w 1, count := wbits (w 2) 15 0, prio := wbits (w 2) 21 16, cls := wbits (w 2) 25 22,
    ctx := wbits (w 2) 47 32, tsbase := w 3, completion := w 4 }

/-- Why an entry is refused (R23): PRIV for its priority or its context, HOST where the context's entry cannot be read (R363), ILLEGAL_OP
otherwise; its completion address is judged apart. -/
def State.entryBad (s : State) (e : LaunchEntry) (ctx : Nat) : Option Trap :=
  if e.prio > 47 then some .priv
  else if e.prio > 43 && (s.systemErr ctx).isSome then s.systemErr ctx
  else if e.ctx ≠ ctx then some .priv
  else if e.count = 0 then some .illegalOp
  else if e.graph.toNat % 64 ≠ 0 then some .illegalOp
  else none

/-- A graph node as read: its kind, predecessor count, successors and doublewords 2 and 3 (R19, R20). -/
structure RawNode where
  kind : Nat
  preds : Nat
  succ : List Nat
  dw2 : Word
  dw3 : Word
deriving DecidableEq, Repr

/-- The numbers of 16 bits that bytes hold. -/
def halves : List Byte → List Nat
  | a :: b :: r => ofLeBytes [a, b] :: halves r
  | _ => []

/-- Read one node and its successor list in a context, by the walker of die `d` in class 0 (R22, R203). DESIGN CHOICE: a
successor-list pointer that is odd has no stated fate, and the bytes are read as they lie (log entry 64). -/
def State.rawNode (s : State) (d ctx a : Nat) : State × Except AccErr RawNode :=
  match s.accessRange d ctx .load a 64 with
  | (s, .error e) => (s, .error e.1)
  | (s, .ok ps) =>
    let r := Record.ofBytes (ps.map fun p => s.byteAt p.1)
    match s.accessRange d ctx .load r.dw1.toNat (2 * wbits r.dw0 47 32) with
    | (s, .error e) => (s, .error e.1)
    | (s, .ok qs) =>
      let s := s.touchLines d 0 (((ps ++ qs).filter fun p => !p.2.io).map Prod.fst)
      (s, .ok { kind := wbits r.dw0 3 0, preds := wbits r.dw0 31 16, succ := halves (qs.map fun p => s.byteAt p.1),
                dw2 := r.dw2, dw3 := r.dw3 })

/-- Read `n` nodes from an address on. -/
def State.rawNodes (d ctx : Nat) : Nat → Nat → State → State × Except AccErr (List RawNode)
  | _, 0, s => (s, .ok [])
  | a, n + 1, s =>
    match s.rawNode d ctx a with
    | (s, .error e) => (s, .error e)
    | (s, .ok x) =>
      match State.rawNodes d ctx (a + 64) n s with
      | (s, .error e) => (s, .error e)
      | (s, .ok r) => (s, .ok (x :: r))

/-- Target, section and tile count of a section-arm node (R20). -/
def RawNode.target (x : RawNode) : Nat := wbits x.dw2 15 0
def RawNode.sec (x : RawNode) : Nat := wbits x.dw2 18 16
def RawNode.tiles (x : RawNode) : Nat := wbits x.dw2 63 32

/-- Whether a graph may be walked (R22). -/
def graphOk (ns : List RawNode) : Bool :=
  let named (k : Nat) : Nat := ns.foldl (fun n x => n + (x.succ.filter (· == k)).length) 0
  ns.all (fun x => x.succ.all (· < ns.length) && (x.kind == 1 || x.kind == 2)) &&
  ns.all (fun x => x.kind ≠ 2 ||
    (x.tiles ≠ 0 && match ns[x.target]? with | some y => y.kind == 1 | none => false)) &&
  ns.any (fun x => x.preds = 0) &&
  ((List.range ns.length).zip ns).all fun p => p.2.preds == named p.1

/-- A node of an instance, its working count set (R86). -/
def RawNode.node (x : RawNode) : Node :=
  { succ := x.succ, count := x.preds, tmpl := x.dw2, tsOff := x.dw3,
    target := if x.kind = 2 then some (x.target, x.sec, x.tiles) else none, life := .waiting, everReady := false,
    targetSeen := false, paid := false }

/-- The launch completion doubleword of a refused entry (R22, R24). -/
def refusalWord (t : Trap) : Nat := Ending.faulted.code + 256 * t.code + 65536 * 0xFFFF

/-- Refuse a launch with a trap (R22). -/
def State.refuseLaunch (s : State) (d : Nat) (ctx : Nat) (e : LaunchEntry) (t : Trap) : State × List Job :=
  s.landCompletion d ctx e.completion.toNat (refusalWord t)

/-- Start an instance: nodes with count 0 become ready in rising number (R86). One whose ready nodes are all held arms ends at
once (R87, R88). -/
def State.startInstance (s : State) (d q : Nat) (e : LaunchEntry) (ns : List RawNode) : State × List Job :=
  let (s, id) := s.newId
  let i : Instance :=
    { id := id, queue := q, die := d, frame := e.frame, tsbase := e.tsbase, prio := BitVec.ofNat 6 e.prio,
      cls := BitVec.ofNat 4 e.cls, ctx := e.ctx, completion := e.completion, nodes := ns.map RawNode.node, retired := 0 }
  let ready := (((List.range ns.length).zip ns).filter fun p => p.2.preds = 0).map Prod.fst
  let (s, js) := { s with instances := s.instances ++ [i] }.readyNodes id ready
  if js.isEmpty then s.endInstance id else (s, js)

/-- Take a launch entry: refuse it or start its instance (R22, R23). DESIGN CHOICE: where nodes or lists of a graph cannot be read, the first
of them that the walk meets gives the trap, whatever case of R22 the rest breaks (log entry 82). -/
def State.launch (s : State) (d q : Nat) (e : LaunchEntry) (ctx : Nat) : State × List Job :=
  if e.completion.toNat % 8 ≠ 0 then (s.log d 7, [])
  else match s.entryBad e ctx with
    | some t => s.refuseLaunch d ctx e t
    | none =>
      match State.rawNodes d ctx e.graph.toNat e.count s with
      | (s, .error x) => s.refuseLaunch d ctx e x.trap
      | (s, .ok ns) => if graphOk ns then s.startInstance d q e ns else s.refuseLaunch d ctx e .illegalOp

/-- Instances of a queue in flight (R85). -/
def State.inFlight (s : State) (q : Nat) : Nat := (s.instances.filter fun i => i.queue == q).length

/-- Stop serving a queue whose tail lies beyond its ring: enable is cleared, head stays (R80). DESIGN CHOICE: the read of tail answers the
notifications that came before it, and the queue is not pending for them (log entry 72). -/
def State.queueOverrun (s : State) (d slot q : Nat) : State :=
  let s := s.setHomed (s.qteAddr q + 8) (natBytes 8 (s.qteWord q 1 - 32))
  (s.freeSlot d slot false).updDie d fun x => { x with overrun := x.overrun.filter (· != q) ++ [q] }

/-- An empty ring (R82, R83): while instances run the slot stays; then its final read begins; at the end of that read the
queue stays pending if it was notified meanwhile, and the slot is free. -/
def State.emptyRing (s : State) (d : Nat) (y : QSlot) : State :=
  if s.inFlight y.queue ≠ 0 then s
  else if y.final then s.freeSlot d y.idx y.renotified
  else s.updDie d fun x => { x with slots := x.slots.map fun (z : QSlot) =>
    if z.idx == y.idx then { z with final := true, renotified := false } else z }

/-- LAUNCH_ENTRY_READ (R80, R82, R85): the entry at head is checked and head moves on, whether it is refused or not. DESIGN CHOICE: a
mapped queue found disabled, or routed to another die, gives up its slot at once, also while its instances run (log entry 72); one that
was notified meanwhile stays pending (R82). -/
def execLaunchEntryRead (die slot : Nat) (s : State) : Out :=
  s.onDie die fun s x =>
    match x.slots.find? fun y => y.idx == slot with
    | none => (s, [])
    | some y =>
      let e := s.qte y.queue
      let u := s.readQueue die y.queue false
      if !s.serving then (s, [])
      else if !s.servable die y.queue then (u.freeSlot die slot y.renotified, [])
      else if y.final then (u.emptyRing die y, [])
      else if e.held > 2 ^ e.log2 then (u.queueOverrun die slot y.queue, [])
      else if e.held = 0 then (u.emptyRing die y, [])
      else if s.inFlight y.queue ≥ 4 then (u, [])
      else
        let u := s.readQueue die y.queue true
        let u := u.setHomed (u.qteAddr y.queue + 24) (natBytes 4 (e.head + 1))
        u.launch die y.queue (s.launchEntry e.entryAt) e.ctx

/-! ### Walker arms (R87, R107) -/

/-- Whether an instruction that blocks a thread is a funding point (R107). -/
def fundingPoint : Instr → Bool
  | .bar => true
  | .barCfg => true
  | .fence k => k.getLsbD 1
  | .done => true
  | .tlWait tl _ => tl == 2
  | _ => false

/-- A task's arms are funded if its thread is blocked at a funding point (R107). -/
def State.fundIfBlocked (s : State) (h : Word) : State × List Job :=
  match s.task? h with
  | none => (s, [])
  | some t =>
    if t.paid && (match t.wait with | some i => fundingPoint i | none => false) then
      let (s, j1) := s.fundArms h (t.arms.length + 1)
      let (s, j2) := s.settleTl2 h
      (s, j1 ++ j2)
    else (s, [])

/-- WALKER_ARM_DELIVERY (R87): a held section-arm node arms the section of the task made from its target. -/
def execWalkerArmDelivery (inst node : Nat) (s : State) : Out :=
  match (s.instances.find? fun i => i.id == inst).bind fun i => i.nodes[node]?.map fun n => (i, n) with
  | none => .next s
  | some (i, n) =>
    match n.target, n.life with
    | some (tgt, sec, tiles), .held =>
      match (i.nodes[tgt]?).map Node.life with
      | some (.running h) =>
        match s.task? h with
        | none => .next s
        | some t =>
          let a : WalkerArm := { inst := inst, node := node, sec := sec, tiles := tiles, op := none }
          let s := (s.putTask { t with arms := t.arms ++ [a] }).updNode inst node fun n => { n with life := .armed }
          .next (finish (s.fundIfBlocked h))
      | _ => .next s
    | _, _ => .next s

end Sys2Proof.Machine
end

