-- ==== Sys2Proof/Machine/Placement.lean ====
section
/-! DEFINITION. Waiting records, gangs, placement, admission and stealing (R17, R18, R26, R89–R93, R102, R103, R121–R129,
R293, R325). -/

namespace Sys2Proof.Machine

open Sys2Proof

/-! ### The order of selection (R90, R91) -/

/-- The aged level of a record (R90). -/
def QRec.level (q : QRec) : Nat := if q.crec.prio ≥ 43 then q.crec.prio else min 43 (q.crec.prio + q.gained)

/-- A waiting record with the cluster whose deque holds it, if one does. -/
structure Cand where
  q : QRec
  deque : Option Nat
deriving DecidableEq, Repr

/-- The clusters of a die in ring order after one of them, which comes last (R91, R124). -/
def Die.ringAfter (x : Die) (c : Nat) : List Nat :=
  ((List.range 104).map fun i => (c + 1 + i) % 104).filter x.has

/-- The records of a die's deques in order of selection: clusters in ring order, newest first in each (R91). -/
def Die.dequeCands (x : Die) : List Cand :=
  (x.ringAfter x.lastDeque).flatMap fun c => (assocD x.deques c []).reverse.map fun q => { q := q, deque := some c }

/-- The records of a die's task queue, oldest first. -/
def Die.queueCands (x : Die) : List Cand := x.taskQueue.map fun q => { q := q, deque := none }

/-- The waiting records of one aged level in order of selection (R91); a record that a space abort has put ahead of every other is
ahead of those put there before it (R130). -/
def Die.atLevel (x : Die) (l : Nat) : List Cand :=
  let on (c : Cand) : Bool := c.q.level == l
  (x.queueCands.filter fun c => on c && c.q.front).reverse ++ x.dequeCands.filter on ++
  x.queueCands.filter fun c => on c && !c.q.front

/-- Every waiting record of a die in order of selection. -/
def Die.order (x : Die) : List Cand := (List.range 64).reverse.flatMap x.atLevel

/-- The highest aged level among some records that stop others, as far as they still wait (R103, R126). -/
def Die.stopLevel (x : Die) (ids : List Nat) : Nat :=
  (x.order.filter fun c => ids.contains c.q.id).foldl (fun n c => max n c.q.level) 0

/-! ### Gangs (R121–R124) -/

/-- The resident tasks of a die. -/
def State.tasksOn (s : State) (d : Nat) : List Task := s.tasks.filter fun t => t.die == d

/-- Whether a row of a cluster is held by a resident task. -/
def State.rowHeld (s : State) (d c r : Nat) : Bool :=
  (s.tasksOn d).any fun t => t.members.any fun m => m.cluster == c && m.row ≤ r && r < m.row + t.crec.rows

/-- The lowest run of `n` free rows of a cluster. -/
def State.freeRow (s : State) (d c n : Nat) : Option Nat :=
  (List.range (9 - n)).find? fun r => (List.range n).all fun i => !s.rowHeld d c (r + i)

/-- The lowest free task slot of a cluster. -/
def State.freeTaskSlot (s : State) (d c : Nat) : Option Nat :=
  (List.range 4).find? fun k => !(s.tasksOn d).any fun t => t.members.any fun m => m.cluster == c && m.slot == k

/-- Whether a cluster fits a shape of `n` rows (R123). -/
def State.fits (s : State) (d n c : Nat) : Bool :=
  (s.die d).has c && !(s.die d).gated c && (s.freeTaskSlot d c).isSome && (s.freeRow d c n).isSome

/-- Whether a cluster fits, with an engine if one is asked for (R123). -/
def State.fitsWith (s : State) (d n : Nat) (engine : Bool) (c : Nat) : Bool :=
  s.fits d n c && !(engine && s.engineTaken d c)

/-- The lead for a record (R124): its deque's cluster, its hinted cluster, or the lowest that fits. -/
def State.leadFor (s : State) (d : Nat) (c : Cand) : Option Nat :=
  let ok (k : Nat) : Bool := s.fitsWith d c.q.crec.rows (1 ≤ c.q.crec.engines) k
  match c.deque, c.q.hint with
  | some k, _ => if ok k then some k else none
  | none, some k => if ok k then some k else none
  | none, none => (List.range 104).find? ok

/-- The gang for a record, in cluster-in-gang order, if it fits the die (R124). -/
def State.gangFor (s : State) (d : Nat) (c : Cand) : Option (List Member) :=
  let r := c.q.crec
  match s.leadFor d c with
  | none => none
  | some lead =>
    let ring := ((s.die d).ringAfter lead).filter (· != lead)
    let eng := (ring.filter (s.fitsWith d r.rows true)).take (r.engines - 1)
    let rest := (ring.filter fun k => s.fits d r.rows k && !eng.contains k).take (r.clusters - max r.engines 1)
    let ks := lead :: eng ++ rest
    if ks.length < r.clusters then none
    else some (ks.map fun k =>
      { cluster := k, slot := (s.freeTaskSlot d k).getD 0, row := (s.freeRow d k r.rows).getD 0 })

/-! ### What a decision does with a record (R17, R18, R102, R126, R293, R325) -/

/-- The first check of R17 that a record fails. -/
def State.recordBad (s : State) (r : Record) : Option (Trap × Nat) :=
  if r.dw0.toNat % 4 ≠ 0 || wbits r.dw0 63 52 ≠ 0 then some (.misalign, 1)
  else if r.pmode > 1 then some (.illegalOp, 2)
  else if r.prio > 47 then some (.illegalOp, 3)
  else if r.prio > 43 && (s.systemErr r.ctx).isSome then (s.systemErr r.ctx).map fun c => (c, 4)
  else if r.rows > 8 then some (.illegalOp, 5)
  else if r.engines > 16 || r.engines > r.clusters then some (.illegalOp, 6)
  else if r.dw6.toNat % 32 ≠ 0 then some (.misalign, 7)
  else if r.dw2.toNat % 4 ≠ 0 then some (.misalign, 8)
  else if r.dw1.toNat % 8 ≠ 0 then some (.misalign, 9)
  else if r.notice && !(match s.chan? r.ctx r.noticeChan with | some c => c.state == .opened | none => false) then
    some (.channelMisuse, 10)
  else none

/-- The grains that a declaration asks of the die budget (R102). -/
def Record.grains (r : Record) : Nat := 16 * r.packets

/-- The saved image of a waiting record. -/
def State.imageOf (s : State) (q : QRec) : Option Saved := q.image.bind fun id => s.saved.find? fun x => x.id == id

/-- Whether an irrevocable record may be admitted (R293): nothing admitted or waiting in its context is older, or, for an
untimed one, nothing of its context is admitted. -/
def State.irrevocableMay (s : State) (r : Record) : Bool :=
  let us := s.allTasks.filter fun u => u.crec.ctx == r.ctx
  if r.ts = 0 then us.isEmpty
  else us.all (fun u => u.crec.ts = 0 || r.ts < u.crec.ts) &&
    (s.queuedOf r.ctx).all fun q => q.crec.ts = 0 || r.ts ≤ q.crec.ts

/-- What a decision does with a record: refuse it, admit it on a gang, restore it on a gang. -/
inductive Verdict where
  | bad (t : Trap) (sub : Nat)
  | short
  | fresh (ms : List Member)
  | restore (x : Saved) (ms : List Member)
deriving DecidableEq, Repr

/-- What a decision would do with a record; none while it waits. -/
def State.verdict (s : State) (d : Nat) (c : Cand) : Option Verdict :=
  match s.imageOf c.q with
  | some x => (s.gangFor d c).map fun ms => .restore x ms
  | none =>
    match s.recordBad c.q.crec with
    | some (t, sub) => some (.bad t sub)
    | none =>
      if c.q.crec.packets = 0 then some .short
      else if c.q.irrevocable && !s.irrevocableMay c.q.crec then none
      else if (s.die d).budget < c.q.crec.grains then none
      else (s.gangFor d c).map .fresh

/-- Take a record out of a die's queue and deques. -/
def State.takeRecord (s : State) (d id : Nat) : State :=
  s.updDie d fun x =>
    { x with taskQueue := x.taskQueue.filter (fun q => q.id != id),
             deques := x.deques.map fun p => (p.1, p.2.filter fun q => q.id != id) }

/-- Refuse a record at placement (R17, R18): it has no cluster. -/
def State.refuseRecord (s : State) (d : Nat) (q : QRec) (e : Ending) (t : Trap) (shortfall sub : Nat) :
    State × List Job :=
  let (s, js) := (s.takeRecord d q.id).landReport d none q.crec
    { ending := e, trap := t, flags := 0, added := 0, shortfall := shortfall, granted := 0, sub := sub, addr := 0,
      drawn := 0, seq := 0 } 0
  (s, js ++ match q.origin with
    | some (i, k) => [.node i k (.failed e t)]
    | none => [])

/-- A key for a task slot. -/
def slotKey (die cluster slot : Nat) : Nat := (die * 104 + cluster) * 4 + slot

/-- The handle of the next admission to a slot, its generation counted (R27). DESIGN CHOICE (log entry 65): allotting the other slots
of a gang is no admission to them, and only the lead's slot counts. -/
def State.newHandle (s : State) (die cluster slot : Nat) : State × Word :=
  let k := slotKey die cluster slot
  let g : BitVec 32 := assocD s.generations k 0 + 1
  ({ s with generations := assocSet s.generations k g }, mkHandle die cluster slot g)

/-- A cluster took work elsewhere: its steal request is withdrawn (R93). -/
def Die.withdraw (x : Die) (thief : Nat) : Die :=
  { x with mail := x.mail.map fun p => (p.1, p.2.filter fun r => r.1 != thief) }

/-- A record of a die is placed with a lead; it stops no other any more (R103, R126). -/
def State.placed (s : State) (d : Nat) (c : Cand) (lead : Nat) : State :=
  (s.takeRecord d c.q.id).updDie d fun x => { x.withdraw lead with
    lastDeque := c.deque.getD x.lastDeque, fundStops := x.fundStops.filter (· != c.q.id),
    placeStops := x.placeStops.filter (· != c.q.id) }

/-- The task of a graph node runs under a handle; the arms aimed at it have seen it admitted (R87, R88). -/
def State.nodeRuns (s : State) (origin : Option (Nat × Nat)) (h : Word) : State :=
  match origin with
  | none => s
  | some (inst, k) =>
    { s with instances := s.instances.map fun i =>
        if i.id == inst then
          { i with nodes := modAt (i.nodes.map fun (n : Node) => match n.target with
              | some (tgt, _, _) => if tgt == k then { n with targetSeen := true } else n
              | none => n) k (fun n => { n with life := .running h }) }
        else i }

/-- Allot a gang to a record and debit the budget (R102, R127 step 1); the snapshot is taken now (R284). -/
def State.allot (s : State) (d : Nat) (c : Cand) (ms : List Member) : State :=
  let m := ms.headD default
  let s := s.placed d c m.cluster
  let (s, h) := s.newHandle d m.cluster m.slot
  let (s, id) := s.newId
  let t : Task :=
    { Task.fresh h c.q.crec d ms id s.commitSeq s.mem s.hostMem with
      rerun := c.q.rerun, origin := c.q.origin, hint := c.q.hint, irrevocable := c.q.irrevocable }
  let s := s.updDie d fun x => { x with budget := x.budget - c.q.crec.grains }
  { s with tasks := s.tasks ++ [t] }.nodeRuns c.q.origin h

/-! ### Restoring a saved image (R325) -/

/-- What names a task by its old handle follows the new one (R325). -/
def State.rename (s : State) (old new : Word) : State :=
  let f (h : Word) : Word := if h == old then new else h
  let entry (e : Entry) : Entry :=
    { e with tent := e.tent.map f,
             data := if e.notice && e.data.take 8 == natBytes 8 old.toNat then natBytes 8 new.toNat ++ e.data.drop 8
               else e.data }
  { s with
    channels := s.channels.map fun (c : Chan) =>
      { c with writer := f c.writer, reader := f c.reader, entries := c.entries.map entry }
    locks := s.locks.map fun (l : Lock) => { l with holder := l.holder.map f } }

/-- The scratch of some rows of a gang is zero. -/
def State.zeroRows (s : State) (t : Task) (p : Nat → Bool) : State :=
  let ks := t.members.flatMap fun m => ((List.range t.crec.rows).map fun i => rowKey t.die m.cluster (m.row + i)).filter p
  { s with scratch := s.scratch.filter fun c => !ks.contains (c.1 / 2 ^ 20) }

/-- Put the scratch of an image into the rows of a gang. -/
def State.putScratch (s : State) (t : Task) (l : List Host.Cell) : State :=
  l.foldl (fun s c => s.scratchWrite t c.1 [c.2]) s

/-- Restore an image on a gang: a new handle in x3 and a new snapshot (R325). -/
def State.restoreTask (s : State) (d : Nat) (c : Cand) (x : Saved) (ms : List Member) : State :=
  let m := ms.headD default
  let s := s.placed d c m.cluster
  let (s, h) := s.newHandle d m.cluster m.slot
  let t : Task := { x.task with
    handle := h, die := d, members := ms, snapNum := s.commitSeq, snap := s.mem, snapHost := s.hostMem,
    rerun := c.q.rerun, regs := writeReg x.task.regs 3 h,
    engines := x.task.engines.map fun (e : Engine) => { e with migrated := [] } }
  let s := (s.rename x.task.handle h).zeroRows t fun _ => true
  let s := { s with saved := s.saved.filter (fun y => y.id != x.id), tasks := s.tasks ++ [t] }
  (s.putScratch t x.scratch).nodeRuns t.origin h

/-- PLACEMENT_DECISION (R17, R18, R91, R126): the first record in order of selection that no stop holds back and that can be
refused, admitted or restored. -/
def execPlacementDecision (die : Nat) (s : State) : Out :=
  s.onDie die fun s x =>
    let low := max (x.stopLevel x.fundStops) (x.stopLevel x.placeStops)
    if !s.serving then (s, [])
    else match (x.order.filter fun c => low ≤ c.q.level).findSome? fun c => (s.verdict die c).map fun v => (c, v) with
      | none => (s, [])
      | some (c, .bad t sub) => s.refuseRecord die c.q .faulted t 0 sub
      | some (c, .short) => s.refuseRecord die c.q .shortfall .shortfall (16 - c.q.crec.grains) 6
      | some (c, .fresh ms) => (s.allot die c ms, [])
      | some (c, .restore y ms) => (s.restoreTask die c y ms, [])

/-! ### Aging and stalls (R90, R103, R126) -/

/-- A record ages by one level, if its wait has lasted long enough. -/
def QRec.agedAt (q : QRec) (now : Nat) : QRec :=
  if q.level < 43 && now ≥ q.since + 10000 * (q.gained + 1) then { q with gained := q.gained + 1 } else q

/-- Change the waiting records of a die. -/
def Die.mapRecords (x : Die) (f : QRec → QRec) : Die :=
  { x with taskQueue := x.taskQueue.map f, deques := x.deques.map fun p => (p.1, p.2.map f) }

/-- RECORD_AGING (R90). -/
def execRecordAging (id : Nat) (s : State) : Out :=
  .next { s with dies := s.dies.map fun (x : Die) => x.mapRecords fun q => if q.id == id then q.agedAt s.now else q }

/-- Whether a record waits for funding (R102). -/
def State.wantsFunds (s : State) (d : Nat) (q : QRec) : Bool :=
  (s.imageOf q).isNone && (s.recordBad q.crec).isNone && q.crec.packets ≠ 0 && (s.die d).budget < q.crec.grains

/-- The records at the heads of their levels, highest level first. -/
def Die.heads (x : Die) : List Cand := (List.range 64).reverse.filterMap fun l => (x.atLevel l).head?

/-- Whether a record waits without fitting. -/
def State.wantsRoom (s : State) (d : Nat) (c : Cand) : Bool :=
  ((s.imageOf c.q).isSome || (s.recordBad c.q.crec).isNone) && (s.gangFor d c).isNone

/-- FUNDING_STALL (R103): the records that have waited 1 ms for funding at the head of their levels stop those of lower levels, each
until it is funded. -/
def execFundingStall (die : Nat) (s : State) : Out :=
  s.onDie die fun s x =>
    let new := ((x.heads.filter fun c => s.wantsFunds die c.q && s.now ≥ c.q.fundSince + 1000).map fun c => c.q.id).filter
      fun i => !x.fundStops.contains i
    (s.updDie die fun x => { x with fundStops := x.fundStops ++ new }, [])

/-- PLACEMENT_STALL (R126): the record that has stood 1 ms at the head of the highest level without fitting stops those of lower
levels until it is placed. -/
def execPlacementStall (die : Nat) (s : State) : Out :=
  s.onDie die fun s x =>
    match x.order.head? with
    | none => (s, [])
    | some c =>
      if s.wantsRoom die c && s.now ≥ c.q.fitSince + 1000 && !x.placeStops.contains c.q.id then
        (s.updDie die fun x => { x with placeStops := x.placeStops ++ [c.q.id] }, [])
      else (s, [])

/-- The records of a die that do not wait for funding at the head of their level, or for room at the head of the highest
level, begin that wait anew (R103, R126). -/
def State.sampleHeads (s : State) (d : Nat) : State :=
  let x := s.die d
  let fund := (x.heads.filter fun c => s.wantsFunds d c.q).map fun c => c.q.id
  let fit := (x.order.head?.toList.filter fun c => s.wantsRoom d c).map fun c => c.q.id
  s.updDie d fun x => x.mapRecords fun q =>
    { q with fundSince := if fund.contains q.id then q.fundSince else s.now,
             fitSince := if fit.contains q.id then q.fitSince else s.now }

/-! ### Admission (R26, R127–R129) -/

/-- Rows whose previous holder was of another context, did not commit, or is none since stage B are zeroed (R128). -/
def State.zeroForeign (s : State) (t : Task) : State :=
  s.zeroRows t fun k => !(s.rowOwner.any fun r => r.1 == k && r.2.1 == t.crec.ctx && r.2.2)

/-- x4–x11 from the bytes of a frame (R26). -/
def Task.setFrame (t : Task) (l : List Byte) : Task :=
  (List.range 8).foldl (fun t k =>
    t.setX (BitVec.ofNat 5 (4 + k)) (BitVec.ofNat 64 (ofLeBytes ((l.drop (8 * k)).take 8)))) t

/-- The load of dw6 (R129): the issue draw, then the frames, as `cfg.load` draws. `paid` holds that the issue draw was
taken. -/
def State.loadImage (s : State) (t : Task) : State × List Job :=
  if t.paid then s.loadGo t
  else if t.account < 8 then
    s.refuse t { t.loadCmd (s.framesLeft t t.loadBase []) with issued := false }
  else
    let (s, t) := s.debit t 8
    s.loadGo { t with paid := true }

/-- The steps after the frame reads: the load of dw6, or the first instruction may issue. -/
def State.afterFrame (s : State) (t : Task) : State × List Job :=
  let t : Task := { t with framed := true }
  if t.crec.dw6 = 0 then (s.putTask { t.install [] with ready := true }, []) else s.loadImage t

/-- ADMISSION (R26, R127–R129): rows are zeroed, the frame is read, the image is loaded, and the first instruction may
issue. What a miss in the image has stopped goes on with the image: the steps before it are not done again (R316). -/
def execAdmission (h : Word) (s : State) : Out :=
  s.onTask h fun s t =>
    if t.ready || t.gate != .running || t.threadFrozen then (s, [])
    else if t.framed then s.afterFrame t
    else
      let s := s.zeroForeign t
      let fp := t.crec.dw1.toNat
      if fp = 0 then s.afterFrame t
      else match s.viewRead t 0 fp 64 with
        | (s, .error (.acc .miss va)) => s.freezeEarly t va
        | (s, .error .overflow) => s.overflow t
        | (s, .error (.acc e _)) => s.takeTrap (.thread h) e.trap 0 0 0
        | (s, .error _) => (s, [])
        | (s, .ok (t, l)) => s.afterFrame (t.setFrame l)

/-! ### Stealing (R93) -/

/-- Whether a cluster has a record that it could take as lead: from its deque or from the task queue. -/
def State.hasWork (s : State) (d k : Nat) : Bool :=
  (s.die d).order.any fun c => (c.deque == some k || c.deque.isNone) && (match s.gangFor d c with
    | some (m :: _) => m.cluster == k
    | _ => false)

/-- Whether a cluster's request stands in some mailbox. -/
def Die.asking (x : Die) (k : Nat) : Bool := x.mail.any fun p => p.2.any fun r => r.1 == k

/-- STEAL_REQUEST (R93). -/
def execStealRequest (die cluster : Nat) (s : State) : Out :=
  s.onDie die fun s x =>
    if !s.serving || !x.has cluster || (s.freeTaskSlot die cluster).isNone || x.asking cluster || s.hasWork die cluster then
      (s, [])
    else
      let victims := (x.ringAfter (assocD x.lastVictim cluster cluster)).filter (· != cluster)
      match victims.find? fun v => (assocD x.mail v []).length < 4 with
      | none => (s, [])
      | some v =>
        (s.updDie die fun x =>
          { x with mail := assocSet x.mail v (assocD x.mail v [] ++ [(cluster, s.now)]),
                   lastVictim := assocSet x.lastVictim cluster v }, [])

/-- STEAL_WITHDRAW (R93): a request of 64 µs or more is withdrawn. -/
def execStealWithdraw (die cluster : Nat) (s : State) : Out :=
  s.onDie die fun s _ =>
    (s.updDie die fun x => { x with mail := x.mail.map fun p =>
      (p.1, p.2.filter fun r => !(r.1 == cluster && s.now ≥ r.2 + 64)) }, [])

end Sys2Proof.Machine
end

