-- ==== Sys2Proof/Machine/Ring.lean ====
section
/-! DEFINITION. The budget ring, and what one microsecond brings (R111, R114, R319, R344, R345). -/

namespace Sys2Proof.Machine

open Sys2Proof

/-- Grains in a budget unit (R98). -/
def budgetUnit : Nat := 1048576

/-- Room left in a die budget (R103). -/
def Die.budgetRoom (x : Die) : Nat := Config.budgetCap - x.budget

/-- A die takes up to `want` grains from what the token carries (R344). -/
def Die.take (x : Die) (want token : Nat) : Die × Nat :=
  let n := min want (min token x.budgetRoom)
  ({ x with budget := x.budget + n }, token - n)

/-- The token passes the dies in order, each taking up to what it wants; what it still carries then. -/
def ringPass (want : Die → Nat) : List Die → Nat → List Die × Nat
  | [], t => ([], t)
  | x :: r, t =>
    let (x', t) := x.take (want x) t
    let (r', t) := ringPass want r t
    (x' :: r', t)

/-- Every waiting record of a die. -/
def Die.records (x : Die) : List QRec := x.taskQueue ++ x.deques.flatMap Prod.snd

/-- The unmet declaration of the oldest record of a die that waits for funding (R344). -/
def State.unmet (s : State) (x : Die) : Nat :=
  match (x.records.filter fun q => (s.imageOf q).isNone && (s.recordBad q.crec).isNone && x.budget < q.crec.grains).foldl
      (fun (b : Option QRec) q => match b with
        | none => some q
        | some y => if q.since < y.since then some q else some y) none with
  | some q => q.crec.grains - x.budget
  | none => 0

/-- One turn of the budget ring (R344). -/
def State.ringTurn (s : State) : State :=
  let (ds, t) := ringPass (fun x => x.allot.toNat * budgetUnit) s.dies (s.pkgLimit.toNat * budgetUnit)
  { s with dies := (ringPass s.unmet ds t).1 }

/-- One microsecond of a task: a hold without a frozen port runs on (R111, R114), and the hang monitor counts (R319). -/
def State.tickTask (s : State) (t : Task) : Task :=
  { t with holdLeft := if t.gate == .hold && t.frozen.isEmpty then t.holdLeft - 1000 else t.holdLeft,
           hangCount := if s.countsHang t then t.hangCount + 1 else t.hangCount }

/-- The time that a microsecond adds to everything that counts it (R90, R103, R111, R126, R319, R350). -/
def State.tick (s : State) : State :=
  let s := { s with now := s.now + 1, tasks := s.tasks.map s.tickTask }
  (List.range s.dies.length).foldl State.sampleHeads s

/-- BUDGET_RING_TURN (R344): the ring turn with which each microsecond begins; NOW and every other count of
microseconds move on with it (log entry 7). -/
def execBudgetRingTurn (s : State) : Out := .next s.ringTurn.tick.tidy

end Sys2Proof.Machine
end

