-- ==== Sys2Proof/Machine/BringUp.lean ====
section
/-! DEFINITION. Bring-up, the second-tier sweep, and what the host and peers read and write: memory, BAR0, windows,
RESYNC, ATTEST (R79–R81, R274, R287, R288, R352–R355, R357–R363). -/

namespace Sys2Proof.Machine

open Sys2Proof

/-! ### Bring-up (R352, R353, R357) -/

/-- Whether a physical address lies in CXL memory that is persistent, whether or not its port is trained now (R355, R360). -/
def persists (a : Nat) : Bool :=
  (List.range 4).any fun p => cxlKeeps p && (cxlRange p).base ≤ a && a < (cxlRange p).base + (cxlRange p).size

/-- Whether a physical address lies in HBM4. -/
def State.inHbm (s : State) (a : Nat) : Bool := match s.rangeOf a with | some r => r.kind == .hbm | none => false

/-- POWER_GOOD (R352): the package is as at reset; what lies outside it stays: the schedule with its inputs, host memory,
persistent CXL memory with the Wardrobe, the boot memory, the fuses that disable clusters, what has left the package (log
entries 1, 5, 12, 13, 17). The boot ROM verifies the first firmware stage; one that fails is not run. -/
def execPowerGood (s : State) : Out :=
  .next { State.reset with
    schedule := s.schedule, current := s.current, fresh := s.fresh, nextId := s.nextId, tlbDrops := s.tlbDrops,
    peerAnswers := s.peerAnswers, hostMem := s.hostMem, out := s.out, boots := s.boots + 1, firmware := s.firmware,
    wardrobe := s.wardrobe, mem := s.mem.filter fun c => persists c.1
    fwInvalid := (s.firmware.take 1).any fun f => !f.verified
    dies := (List.range 4).map fun d => { Die.reset d with enabled := (s.die d).enabled } }

/-- STAGE_B_COMPLETE (R200, R283, R352, R353, R357): training is done. Stage C is announced with HBM4 zero, the homing
table filled and the commit sequence 0; under RESTORE the restore begins, which announces it later (R357). A stage that
fails leaves the package in stage A, and the stage entry names the die and the cause. -/
def execStageBComplete (failing : Option StageFailure) (s : State) : Out :=
  if s.stage != .b || s.restoreRun then .next s
  else match failing with
    | some f =>
      .next { s with stage := .a, restoring := false, sweeping := false, failDie := f.die, cause := f.cause }
    | none =>
      let s := s.train
      if s.restoring then .next { s with restoreRun := true }
      else
        .next { s with homing := [], moving := [], mem := s.mem.filter (fun c => !s.inHbm c.1), commitSeq := 0,
                       published := [], stage := .c }

/-- ZEROING_SWEEP (R353): the sweep passes a block; a block that was written is left alone, and every other one reads
zero already. The sweep ends with the last block. -/
def execZeroingSweep (block : Nat) (s : State) : Out := .next (s.sweepPass [block])

/-! ### Memory from outside (R199, R287, R288, R363) -/

/-- A request lies within one 4 KiB page. -/
def inPage (a n : Nat) : Bool := n ≠ 0 && a / 4096 == (a + n - 1) / 4096

/-- An answer with an error status. -/
def State.refuseAccess (s : State) (a : Nat) : State := { s with out := s.out ++ [.errorStatus a] }

/-- Whether a host or peer access to memory is served: full function, and memory or an enabled window there (R199,
R352). -/
def State.serves (s : State) (a : Nat) : Bool :=
  s.stage == .c && s.hasHome a && ((s.winOf a).isNone || s.cxlCache)

/-- A write from outside lands as one external commit, or is answered with an error status (R199, R287). -/
def State.outsideWrite (s : State) (a : Nat) (l : List Byte) : State × List Job :=
  if s.serves a then s.landExternal [] (atAddr a l) 0 else (s.refuseAccess a, [])

/-- CXL_MEM_WRITE (R287): one line of 64 bytes. -/
def execCxlMemWrite (addr : Nat) (data : List Byte) (s : State) : Out :=
  if addr % 64 ≠ 0 || data.length ≠ 64 then .next s else .next (finish (s.outsideWrite addr data))

/-- CXL_CACHE_SNOOP (R363), by the device address of a window line of 64 bytes: the device answers with the committed
value and holds the line modified no more. A host write takes the line from the caches, then lands as one external
commit. -/
def execCxlCacheSnoop (addr : Nat) (data : Option (List Byte)) (s : State) : Out :=
  if addr % 64 ≠ 0 || (s.winOf addr).isNone || !s.cxlCache then .next s
  else
    let s := { s with out := s.out ++ [.read addr (s.bytesAt addr 64)], modified := s.modified.filter (· != addr / 64) }
    match data with
    | none => .next s
    | some l =>
      if l.length ≠ 64 then .next s
      else
        let lines := [lineOf addr]
        let js := s.doomJobs lines 0
        let s := ({ s.dropLine (lineOf addr) with commitSeq := s.commitSeq + 1 }.publish 0 lines (atAddr addr l)).stamp lines none
        .next (finish ({ s with modified := s.modified.filter (· != addr / 64) }, js))

/-- A forwarded entry lands on an inbound bound channel, within the credit that this channel granted, in class 0, and is acknowledged
(R203, R274, R287). -/
def State.landEntry (s : State) (ctx num : Nat) (l : List Byte) : State :=
  match s.chan? ctx num with
  | none => s
  | some c =>
    if c.remote && c.rdir && c.state == .opened && !c.frozen && l.length == c.size && c.granted ≠ 0 then
      let s := s.placeEntry { c with granted := c.granted - 1 } l false 0
      { s with commitSeq := s.commitSeq + 1, out := s.out ++ [.entryAck ctx num] }
    else s

/-- UALINK_WRITE (R274, R287): a request is one external commit, whatever pages it crosses; of one without data nothing lands. -/
def execUalinkWrite (target : LinkTarget) (data : List Byte) (s : State) : Out :=
  match target with
  | .addr a => if data.isEmpty then .next s else .next (finish (s.outsideWrite a data))
  | .chan ctx num => .next (s.landEntry ctx num data)

/-! ### RESYNC (R359) -/

/-- Bytes of host memory. -/
def State.hostBytes (s : State) (a n : Nat) : List Byte := (List.range n).map fun i => s.hostByte (a + i)

/-- Write host memory. -/
def State.hostPut (s : State) (a : Nat) (l : List Byte) : State := { s with hostMem := s.hostMem.write a l }

/-- The code of a stage (R355). -/
def Stage.code : Stage → Nat
  | .a => 0
  | .b => 1
  | .c => 2

/-- The code of a gate state in the order of R101, IDLE being 0. -/
def Gate.code : Gate → Nat
  | .running => 1
  | .short => 2
  | .hold => 3
  | .stopped => 4

/-- The queue-slot entries: 0 free, 1 mapped, 2 pending, 3 overrun. -/
def State.slotEntries (s : State) : List (List Byte) :=
  let row (q d i n st : Nat) : List Byte :=
    natBytes 4 q ++ natBytes 2 d ++ natBytes 2 i ++ natBytes 4 n ++ natBytes 4 st
  ((List.range s.dies.length).zip s.dies).flatMap fun (p : Nat × Die) =>
    ((List.range 64).map fun i => match p.2.slots.find? fun y => y.idx == i with
      | some y => row y.queue p.1 i (s.inFlight y.queue) 1
      | none => row 0 p.1 i 0 0) ++
    (p.2.pending.map fun w => row w.1 p.1 0 (s.inFlight w.1) 2) ++
    p.2.overrun.map fun q => row q p.1 0 (s.inFlight q) 3

/-- The entries of resident and saved tasks. -/
def State.taskEntries (s : State) : List (List Byte) :=
  let row (t : Task) (saved : Nat) : List Byte :=
    natBytes 8 t.handle.toNat ++ natBytes 4 t.crec.ctx ++ natBytes 2 t.gate.code ++ natBytes 2 saved
  s.tasks.map (row · 0) ++ s.saved.map fun x => row x.task 1

/-- The entries of channels. -/
def State.chanEntries (s : State) : List (List Byte) :=
  (s.channels.filter fun c => c.state != .closed).map fun c =>
    natBytes 2 c.ctx ++ natBytes 2 c.num ++ natBytes 4 c.state.code ++ natBytes 4 (c.tail - c.head).toNat ++
    natBytes 4 c.grown

/-- The entries of contexts with a quota or a reserve. -/
def State.quotaEntries (s : State) : List (List Byte) :=
  ((List.range s.dies.length).zip s.dies).flatMap fun (p : Nat × Die) =>
    (p.2.quotas.filter fun q => q.2.1 ≠ 0 || q.2.2 ≠ 0).map fun q =>
      natBytes 4 q.1 ++ natBytes 4 p.1 ++ natBytes 4 q.2.1 ++ natBytes 4 q.2.2

/-- The sections of a summary in their order: before stage C those of slots, tasks and channels do not yet exist; quotas and
reserves are registers, which work from stage A on. -/
def State.resyncSections (s : State) : List (List (List Byte)) :=
  let there (l : List (List Byte)) : List (List Byte) := if s.stage != .c then [] else l
  [there s.slotEntries, there s.taskEntries, there s.chanEntries, s.quotaEntries]

/-- The entries of a summary in section order. -/
def State.resyncEntries (s : State) : List (List Byte) := s.resyncSections.flatten

/-- The full length of a summary. -/
def State.resyncLength (s : State) : Nat := 64 + 16 * s.resyncEntries.length

/-- The header of a summary, by its doubleword of length (log entry 14 for the layout). -/
def State.resyncHeader (s : State) (last : Nat) : List Byte :=
  natBytes 8 s.commitSeq ++ natBytes 1 s.stage.code ++ natBytes 1 s.susp.code ++
  ((List.range 4).flatMap fun d => natBytes 5 (s.die d).budget) ++
  ((List.range 4).flatMap fun d => natBytes 3 ((s.die d).fringHead.toNat + 1024 * (s.die d).fringTail.toNat)) ++
  (s.resyncSections.flatMap fun l => natBytes 3 l.length) ++ natBytes 2 0 ++ natBytes 8 last

/-- RESYNC_REQUEST (R359): a write of RESYNC, ignored while BUSY. -/
def execResyncRequest (value : Word) (s : State) : Out :=
  if s.resyncBusy then .next s else .next { s with resyncAddr := 64 * wbits value 51 6, resyncBusy := true }

/-- The summary as it is written into a buffer of `len` bytes. -/
def State.summary (s : State) (len : Nat) : List Byte :=
  let full := s.resyncLength
  let fit := min s.resyncEntries.length ((len - 64) / 16)
  s.resyncHeader (full + (if len < full then 2 ^ 63 else 0)) ++ (s.resyncEntries.take fit).flatten

/-- RESYNC_SUMMARY_WRITTEN (R359): the summary lands in host memory and BUSY falls. -/
def execResyncSummaryWritten (s : State) : Out :=
  if !s.resyncBusy then .next s
  else
    let len := ofLeBytes (s.hostBytes s.resyncAddr 8)
    let s' := { s with resyncBusy := false }
    if len < 64 then .next s' else .next (s'.hostPut s.resyncAddr (s.summary len))

/-! ### BAR0 (R354, R355) -/

/-- The link address at which BAR0 stands in this model (log entry 14). -/
def barBase : Nat := 2 ^ 52

/-- The stage entry's parameters (R355). -/
def State.stageWord (s : State) : Nat :=
  s.stage.code + (if s.fwInvalid then 4 else 0) + 8 * s.failDie.toNat + 32 * s.cause.toNat +
  (if s.stage == .b && s.restoreRun then 4096 else 0) + (if s.sweeping then 8192 else 0)

/-- A capability entry: id, version 1, the offset of the next entry, parameters (R355). -/
def capEntry (id next params : Nat) : List Byte :=
  natBytes 2 id ++ natBytes 1 1 ++ natBytes 1 0 ++ natBytes 4 next ++ natBytes 8 params

/-- The masks of the enabled clusters, die 0 first (R9, R355). -/
def State.maskBytes (s : State) : List Byte := (List.range 4).flatMap fun d => natBytes 16 (s.die d).enabled.toNat

/-- Base and size of the range of a die and kind, or 0. -/
def State.rangeWords (s : State) (d : Nat) (k : RangeKind) : List Byte :=
  match s.map.find? fun r => r.die == d && r.kind == k with
  | some r => natBytes 8 r.base ++ natBytes 8 r.size
  | none => natBytes 16 0

/-- The capability list and its tables from BAR0 offset 0 (R355; log entry 14 for their offsets). -/
def State.capBytes (s : State) : List Byte :=
  capEntry 1 0x10 s.stageWord ++ capEntry 2 0x20 0x80 ++ capEntry 3 0x30 0xC0 ++
  capEntry 4 0x40 s.hostAtomics.toNat ++
  capEntry 5 0x50 (s.ualTrained.toNat + 65536 * s.ualAtomics.toNat) ++
  capEntry 6 0x60 (s.cxlPorts.toNat + 16 * s.cxlPersist.toNat) ++
  capEntry 7 0x70 (8 + (if s.cxlCache then 16 else 0)) ++ capEntry 8 0 0x140 ++
  s.maskBytes ++
  ((List.range 4).flatMap fun d => s.rangeWords d .hbm ++ s.rangeWords d .second) ++
  (List.range 4).flatMap fun p =>
    s.rangeWords p .cxl ++ natBytes 16 (if s.cxlPersist.getLsbD p then 1 else 0)

/-- The report on a nonce (R361): the nonce, the digest of each firmware stage, the stage entry, the cluster masks and the
public identity key, then the signature with that key over the digest of them all (R14; log entry 15 for the layout). -/
def State.attestReport (s : State) (nonce : List Byte) : List Byte :=
  let body := nonce ++ (s.firmware.flatMap fun f => sha384 f.code) ++ capEntry 1 0x10 s.stageWord ++ s.maskBytes ++
    identityKey
  body ++ ecdsaSign identitySecret (sha384 body)

/-- ATTEST_REQUEST (R361): a write of ATTEST; the report lands in host memory at the request + 128, in the one step (log
entry 15). -/
def execAttestRequest (value : Word) (s : State) : Out :=
  let a := 64 * wbits value 51 6
  .next ({ s with attestAddr := a }.hostPut (a + 128) (s.attestReport (s.hostBytes a 48)))

/-- Die and register number of an offset in the register windows. -/
def barReg (off : Nat) : Option (Nat × Nat) :=
  if 0x100000 ≤ off && off < 0x120000 then some ((off - 0x100000) / 0x8000, (off - 0x100000) % 0x8000 / 8) else none

/-- A register as a window reads it (R354): supervisor registers only. -/
def State.windowRead (s : State) (d num : Nat) : Word :=
  if (regFields num).isNone || taskReg num then 0 else s.regRead d num

/-- One byte of BAR0. -/
def State.barByte (s : State) (off : Nat) : Byte :=
  match barReg off with
  | some (d, num) => (natBytes 8 (s.windowRead d num).toNat).getD (off % 8) 0
  | none =>
    if off < 0x10000 then s.capBytes.getD off 0
    else if 0x10000 ≤ off && off < 0x10008 then
      (natBytes 8 (s.resyncAddr + (if s.resyncBusy then 2 ^ 63 else 0))).getD (off % 8) 0
    else if 0x10008 ≤ off && off < 0x10010 then (natBytes 8 s.attestAddr).getD (off % 8) 0
    else 0

/-- HOST_READ (R199, R288, R354): committed bytes, or those of BAR0; an address with no memory is answered with an error
status. -/
def execHostRead (addr len : Nat) (s : State) : Out :=
  if !inPage addr len then .next s
  else if barBase ≤ addr then
    .next { s with out := s.out ++ [.read addr ((List.range len).map fun i => s.barByte (addr - barBase + i))] }
  else if s.serves addr then .next { s with out := s.out ++ [.read addr (s.bytesAt addr len)] }
  else .next (s.refuseAccess addr)

/-- A write through a register window: a whole register, or one half of it, the other half then keeping its RW fields
(R354; log entry 14). -/
def State.windowWrite (s : State) (d num half : Nat) (l : List Byte) : State × List Job :=
  let v := ofLeBytes l
  if l.length = 8 && half = 0 then s.regSet d num true (BitVec.ofNat 64 v)
  else if l.length = 4 then
    match regFields num with
    | none => (s, [])
    | some f =>
      let old := (s.windowRead d num &&& f.rw).toNat
      s.regSet d num true (BitVec.ofNat 64 (if half = 0 then old / 2 ^ 32 * 2 ^ 32 + v else old % 2 ^ 32 + 2 ^ 32 * v))
  else (s, [])

/-- A write to BAR0 (R81, R354): the steps of the table that its regions name. -/
def State.barWrite (s : State) (off : Nat) (l : List Byte) : Out :=
  let v := ofLeBytes l
  match barReg off with
  | some (d, num) =>
    if off % 4 ≠ 0 then .next s
    else s.onDie d fun s _ => s.windowWrite d num (off % 8 / 4) l
  | none =>
    if off = 0x10000 && l.length = 8 then execResyncRequest (BitVec.ofNat 64 v) s
    else if off = 0x10008 && l.length = 8 then execAttestRequest (BitVec.ofNat 64 v) s
    else if 0x200000 ≤ off && off < 0x204000 && l.length = 4 then
      execNotificationWrite ((off - 0x200000) / 0x1000) (BitVec.ofNat 12 off) (BitVec.ofNat 32 v) s
    else .next s

/-- HOST_WRITE (R199, R287, R354): a whole request within 4 KiB. -/
def execHostWrite (addr : Nat) (data : List Byte) (s : State) : Out :=
  if !inPage addr data.length then .next s
  else if barBase ≤ addr then s.barWrite (addr - barBase) data
  else .next (finish (s.outsideWrite addr data))

end Sys2Proof.Machine
end

