-- ==== Sys2Proof/Machine/ChargeOps.lean ====
section
/-! DEFINITION. Charge instructions, and the ends of granted prefixes and of holds (R78, R108, R111, R113–R120). -/

namespace Sys2Proof.Machine

open Sys2Proof

/-- The handle that a register names: its bits [31:11] are not read (R27, R118). -/
def gateHandle (x : Word) : Word := x &&& 0xFFFFFFFF000007FF

/-- The task whose gate a register names, in RUNNING, SHORT or HOLD; a hold that has expired is none (R114, R118). -/
def State.gateOf (s : State) (x : Word) : Option Task :=
  match s.task? (gateHandle x) with
  | some g => if g.gate = .stopped || (g.gate = .hold && g.holdLeft = 0) then none else some g
  | none => none

/-- The trap of a task that may not name the gate of another (R118, R119). -/
def State.nameErr (s : State) (t g : Task) : Option Trap := if g.crec.ctx == t.crec.ctx then none else s.systemErr t.crec.ctx

/-- What a metered command with units of its own does once its issue draw is funded; none for an instruction without units. -/
def commandBody : Instr → Option (State → Task → State × List Job)
  | .nest w => some (State.nestBody w)
  | .cfgLoad a => some (State.cfgLoadBody a)
  | .arm sec b => some (State.armBody sec b)
  | .strmGo sec a => some (State.strmGoBody sec a)
  | .strmCond sec a b => some (State.strmCondBody sec a b)
  | .tcopy tl a => some (State.copyBody (.tcopy tl a) tl.toNat a false)
  | .tcopyDmd tl a => some (State.copyBody (.tcopyDmd tl a) tl.toNat a true)
  | .mxLds a b => some (State.mxLdsBody a b)
  | .mxArm sec a b => some (State.mxArmBody sec a b)
  | .mxGroup a b => some (State.mxGroupBody a b)
  | _ => none

/-- The gate grants further units of a command (R108). -/
def State.grantOn (s : State) (g : Task) (c : Cmd) : State × List Job :=
  match c.kind with
  | .cfgLoad | .image => s.loadGo g
  | _ =>
    let (s, js) := s.grantCmd g c
    let (s, js') := s.settleTl2 g.handle
    (s, js ++ js')

/-- A command refused at its issue draw issues, the gate still in HOLD (R108): its draw is debited, then come the checks and the grant that
follow issue, where an empty grant leaves the timer running. An instruction without units has its effect at the thread's next turn. -/
def State.issueHeld (s : State) (g : Task) (c : Cmd) : State × List Job :=
  let (s, g) := s.debit g c.issue
  let g : Task := { g with cmd := none }
  match c.kind, c.instr with
  | .image, _ => s.loadGo { g with paid := true }
  | _, some i =>
    let g : Task := { g with wait := none, exempt := g.exempt - 1 }
    match commandBody i with
    | some body => body (s.putTask g) g
    | none => (s.putTask { g with wait := some i, paid := true }, [])
  | _, none => s.grantOn g { c with issued := true }

/-- A gate that a top-up has resumed is RUNNING, unless what it resumed was granted in part or refused again (R101). -/
def State.leaveHold (s : State) (h : Word) : State :=
  match s.task? h with
  | some g => if g.gate = .hold && g.cmd.isNone then s.putTask { g with gate := .running } else s
  | none => s

/-- A top-up has reached a gate in HOLD (R108, R111): a command refused at its issue draw issues, if that draw is covered now; a
grant goes on. -/
def State.resumeGate (s : State) (g : Task) : State × List Job :=
  match g.cmd with
  | none => (s, [])
  | some c =>
    if c.issued then s.grantOn g c
    else if c.issue ≤ g.account then
      let (s, js) := s.issueHeld g c
      (s.leaveHold g.handle, js)
    else (s, [])

/-- Add packets to a gate (R118). -/
def State.topUp (s : State) (g : Task) (n : Nat) : State × List Job :=
  let a := g.account + 16 * n
  let g := { g with account := a, added := g.added + n, armed := g.armed || decide (g.mark < a) }
  let s := s.putTask g
  if g.gate = .hold then s.resumeGate g else (s, [])

/-- Add packets to the gate that a handle names. -/
def State.topUpAt (s : State) (h : Word) (n : Nat) : State × List Job :=
  match s.task? h with
  | some g => s.topUp g n
  | none => (s, [])

/-- Whether a top-up of `n` packets is accepted (R118). -/
def State.topUpOk (s : State) (t g : Task) (n : Nat) : Bool :=
  n ≠ 0 && n ≤ 0xFFFFFFFF && g.added + n ≤ 0xFFFFFFFF &&
  n ≤ (s.die t.die).quota t.crec.ctx && 16 * n ≤ (s.die t.die).budget

/-- Spend quota and budget of the issuer's die (R117, R118). -/
def State.spend (s : State) (t : Task) (n : Nat) : State :=
  s.updDie t.die fun d =>
    { d.setQuota t.crec.ctx (d.quota t.crec.ctx - n) (d.reserve t.crec.ctx) with budget := d.budget - 16 * n }

/-- The result of a charge instruction is written, and the thread goes on. -/
def State.chargeResult (s : State) (h : Word) (d : Reg) (v : Word) : State :=
  match s.task? h with
  | some t => s.putTask ((t.setX d v).advance 4)
  | none => s

/-- `chg.add` (R118). -/
def execChgAdd (d a b : Reg) (s : State) : Out :=
  issueTask (.chgAdd d a b) 1 noTrap (fun s t =>
    let n := (t.x b).toNat
    match s.gateOf (t.x a) with
    | none => (s.chargeResult t.handle d 0, [])
    | some g => match s.nameErr t g with
      | some c => s.trapAt t c 0
      | none =>
        if !s.topUpOk t g n then (s.chargeResult t.handle d 0, [])
        else ((s.spend t n).chargeResult t.handle d (t.x b)).topUpAt g.handle n) s

/-- `chg.read` (R119). -/
def execChgRead (d a : Reg) (s : State) : Out :=
  issueTask (.chgRead d a) 1 noTrap (fun s t =>
    match s.gateOf (t.x a) with
    | some g => match s.nameErr t g with
      | some c => s.trapAt t c 0
      | none => (s.chargeResult t.handle d (BitVec.ofNat 64 g.account), [])
    | none => (s.chargeResult t.handle d (BitVec.allOnes 64), [])) s

/-- `chg.low` (R120). -/
def execChgLow (d a : Reg) (s : State) : Out :=
  issueSimple (.chgLow d a) (fun t =>
    let m := wbits (t.x a) 31 0
    { t with mark := m, armed := decide (t.account > m) }.setX d (BitVec.ofNat 64 t.mark)) s

/-- `chg.hold` (R120). -/
def execChgHold (d a : Reg) (s : State) : Out :=
  issueSimple (.chgHold d a) (fun t =>
    { t with holdField := (t.x a).setWidth 16 }.setX d (t.holdField.setWidth 64)) s

/-- `chg.self` (R120): the account after this instruction's own debit. -/
def execChgSelf (d : Reg) (s : State) : Out :=
  issueSimple (.chgSelf d) (fun t => t.setX d (BitVec.ofNat 64 t.account)) s

/-! ### The gate's own steps -/

/-- Whether the granted units of a command have completed (R108). -/
def Task.prefixDone (t : Task) (c : Cmd) : Bool :=
  let opDone (id : Nat) : Bool := t.ops2.all fun o => o.id ≠ id || o.left = 0
  match c.kind with
  | .nest id => t.nests.all fun n => n.id ≠ id || n.ran ≥ n.granted
  | .go id =>
    let ok (p : Pass) : Bool := p.go ≠ id || p.pos ≥ p.granted
    (t.cells.all fun x => x.passes.all ok) && t.ags.all fun a => a.passes.all ok
  | .arm op => opDone op
  | .walkerArm node => match t.arms.find? fun a => a.node == node with
    | some { op := some op, .. } => opDone op
    | _ => true
  | .copy id => t.copies.all fun x => x.id ≠ id || x.ran ≥ x.allowed
  | .lds k id => match t.engine? k with
    | some e => e.loads.all fun l => l.id ≠ id || l.buf.length / 128 ≥ l.granted
    | none => true
  | .group first n => (List.range n).all fun i => opDone (first + i)
  | .cfgLoad | .image => !t.threadFrozen
  | .instr => true

/-- PREFIX_END (R108): a granted prefix has completed, and the gate grants further units or enters HOLD. -/
def execPrefixEnd (h : Word) (s : State) : Out :=
  s.onTask h fun s t => match t.gate, t.cmd with
    | .short, some c =>
      if t.prefixDone c then s.grantOn t c else (s, [])
    | _, _ => (s, [])

/-- Every unit of a task's fabric. -/
def Task.allUnits (t : Task) : List FUnit :=
  (t.cells.flatMap fun x => [FUnit.cu x.idx, .mu x.idx]) ++ (t.ags.map fun a => .ag a.place) ++ t.engines.map fun e => .eng e.k

/-- Whether the load or the swap at the head of an engine's queues has granted work to do. -/
def Engine.pendingWork (e : Engine) : Bool :=
  !e.rows.isEmpty || e.swapReady || e.loadReady && match e.loads with
    | l :: _ => match l.kind with
      | .lds _ _ => l.buf.length / 128 < l.granted || l.granted ≥ l.total
      | _ => true
    | [] => false

/-- Whether a copy has granted elements that it will still perform. -/
def Task.copyPending (t : Task) (c : Copy) : Bool :=
  !c.finished && (c.ran < c.allowed && t.copyOpen c || c.ran ≥ c.d.total)

/-- Whether no granted work of a task goes on any more: nothing is left to do, or nothing that is left can move (R78, R111). -/
def State.workDone (s : State) (t : Task) : Bool :=
  t.idle ||
  t.frozen.isEmpty && t.spaceWait.isEmpty && t.portalReqs = 0 && (t.nests.all fun n => n.ran ≥ n.granted) &&
  !t.copies.any t.copyPending && !t.engines.any Engine.pendingWork && !t.ags.any t.gathering &&
  t.allUnits.all fun u => match s.beat t u with
    | .error .idle => true
    | _ => false

/-- HOLD_TIMER_EXPIRY (R111): the hold has run out, and the gate enters STOPPED once the granted work is done. -/
def execHoldTimerExpiry (h : Word) (s : State) : Out :=
  s.onTask h fun s t => match t.gate, t.cmd with
    | .hold, some c => if t.holdLeft = 0 && s.workDone t then s.shortfall t c else (s, [])
    | _, _ => (s, [])

end Sys2Proof.Machine
end

