-- ==== Sys2Proof/Machine/Dispatch.lean ====
section
/-! DEFINITION. The dispatch: one arm for each constructor of `Instr`. -/

namespace Sys2Proof.Machine

open Sys2Proof

/-- What an instruction or a step does. -/
def exec (i : Instr) (s : State) : Host.Outcome State Fault Refusal :=
  match i with
  | .add d a b => Sys2Proof.Machine.execAdd d a b s
  | .sub d a b => Sys2Proof.Machine.execSub d a b s
  | .and d a b => Sys2Proof.Machine.execAnd d a b s
  | .or d a b => Sys2Proof.Machine.execOr d a b s
  | .xor d a b => Sys2Proof.Machine.execXor d a b s
  | .sll d a b => Sys2Proof.Machine.execSll d a b s
  | .srl d a b => Sys2Proof.Machine.execSrl d a b s
  | .sra d a b => Sys2Proof.Machine.execSra d a b s
  | .slt d a b => Sys2Proof.Machine.execSlt d a b s
  | .sltu d a b => Sys2Proof.Machine.execSltu d a b s
  | .mul d a b => Sys2Proof.Machine.execMul d a b s
  | .mulh d a b => Sys2Proof.Machine.execMulh d a b s
  | .mulhu d a b => Sys2Proof.Machine.execMulhu d a b s
  | .div d a b => Sys2Proof.Machine.execDiv d a b s
  | .divu d a b => Sys2Proof.Machine.execDivu d a b s
  | .rem d a b => Sys2Proof.Machine.execRem d a b s
  | .remu d a b => Sys2Proof.Machine.execRemu d a b s
  | .min d a b => Sys2Proof.Machine.execMin d a b s
  | .max d a b => Sys2Proof.Machine.execMax d a b s
  | .minu d a b => Sys2Proof.Machine.execMinu d a b s
  | .maxu d a b => Sys2Proof.Machine.execMaxu d a b s
  | .clz d a => Sys2Proof.Machine.execClz d a s
  | .ctz d a => Sys2Proof.Machine.execCtz d a s
  | .pop d a => Sys2Proof.Machine.execPop d a s
  | .addi d a imm => Sys2Proof.Machine.execAddi d a imm s
  | .andi d a imm => Sys2Proof.Machine.execAndi d a imm s
  | .ori d a imm => Sys2Proof.Machine.execOri d a imm s
  | .xori d a imm => Sys2Proof.Machine.execXori d a imm s
  | .slli d a sh => Sys2Proof.Machine.execSlli d a sh s
  | .srli d a sh => Sys2Proof.Machine.execSrli d a sh s
  | .srai d a sh => Sys2Proof.Machine.execSrai d a sh s
  | .slti d a imm => Sys2Proof.Machine.execSlti d a imm s
  | .li d imm => Sys2Proof.Machine.execLi d imm s
  | .lih d a imm => Sys2Proof.Machine.execLih d a imm s
  | .addiw d a imm => Sys2Proof.Machine.execAddiw d a imm s
  | .beq a b off => Sys2Proof.Machine.execBeq a b off s
  | .bne a b off => Sys2Proof.Machine.execBne a b off s
  | .blt a b off => Sys2Proof.Machine.execBlt a b off s
  | .bge a b off => Sys2Proof.Machine.execBge a b off s
  | .bltu a b off => Sys2Proof.Machine.execBltu a b off s
  | .bgeu a b off => Sys2Proof.Machine.execBgeu a b off s
  | .jal d off => Sys2Proof.Machine.execJal d off s
  | .jalr d a imm => Sys2Proof.Machine.execJalr d a imm s
  | .ldsB d base off => Sys2Proof.Machine.execLdsB d base off s
  | .ldsH d base off => Sys2Proof.Machine.execLdsH d base off s
  | .ldsW d base off => Sys2Proof.Machine.execLdsW d base off s
  | .ldsD d base off => Sys2Proof.Machine.execLdsD d base off s
  | .ldsBu d base off => Sys2Proof.Machine.execLdsBu d base off s
  | .ldsHu d base off => Sys2Proof.Machine.execLdsHu d base off s
  | .ldsWu d base off => Sys2Proof.Machine.execLdsWu d base off s
  | .stsB src base off => Sys2Proof.Machine.execStsB src base off s
  | .stsH src base off => Sys2Proof.Machine.execStsH src base off s
  | .stsW src base off => Sys2Proof.Machine.execStsW src base off s
  | .stsD src base off => Sys2Proof.Machine.execStsD src base off s
  | .ldgB d base off => Sys2Proof.Machine.execLdgB d base off s
  | .ldgH d base off => Sys2Proof.Machine.execLdgH d base off s
  | .ldgW d base off => Sys2Proof.Machine.execLdgW d base off s
  | .ldgD d base off => Sys2Proof.Machine.execLdgD d base off s
  | .ldgBu d base off => Sys2Proof.Machine.execLdgBu d base off s
  | .ldgHu d base off => Sys2Proof.Machine.execLdgHu d base off s
  | .ldgWu d base off => Sys2Proof.Machine.execLdgWu d base off s
  | .stgB src base off => Sys2Proof.Machine.execStgB src base off s
  | .stgH src base off => Sys2Proof.Machine.execStgH src base off s
  | .stgW src base off => Sys2Proof.Machine.execStgW src base off s
  | .stgD src base off => Sys2Proof.Machine.execStgD src base off s
  | .arBegin a => Sys2Proof.Machine.execArBegin a s
  | .arLdW d a => Sys2Proof.Machine.execArLdW d a s
  | .arLdD d a => Sys2Proof.Machine.execArLdD d a s
  | .arStW a b => Sys2Proof.Machine.execArStW a b s
  | .arStD a b => Sys2Proof.Machine.execArStD a b s
  | .arEnd => Sys2Proof.Machine.execArEnd s
  | .redAddW a b => Sys2Proof.Machine.execRedAddW a b s
  | .redAddD a b => Sys2Proof.Machine.execRedAddD a b s
  | .redMinW a b => Sys2Proof.Machine.execRedMinW a b s
  | .redMaxW a b => Sys2Proof.Machine.execRedMaxW a b s
  | .redOrW a b => Sys2Proof.Machine.execRedOrW a b s
  | .redAndW a b => Sys2Proof.Machine.execRedAndW a b s
  | .redFaddS a b => Sys2Proof.Machine.execRedFaddS a b s
  | .sysRd d num => Sys2Proof.Machine.execSysRd d num s
  | .sysWr num a => Sys2Proof.Machine.execSysWr num a s
  | .sysSet d num a => Sys2Proof.Machine.execSysSet d num a s
  | .sysClr d num a => Sys2Proof.Machine.execSysClr d num a s
  | .trap imm => Sys2Proof.Machine.execTrap imm s
  | .eret => Sys2Proof.Machine.execEret s
  | .wfi => Sys2Proof.Machine.execWfi s
  | .fence k => Sys2Proof.Machine.execFence k s
  | .cfgLoad a => Sys2Proof.Machine.execCfgLoad a s
  | .bar => Sys2Proof.Machine.execBar s
  | .barCfg => Sys2Proof.Machine.execBarCfg s
  | .arm sec b => Sys2Proof.Machine.execArm sec b s
  | .drain sec => Sys2Proof.Machine.execDrain sec s
  | .strmGo sec a => Sys2Proof.Machine.execStrmGo sec a s
  | .strmCond sec a b => Sys2Proof.Machine.execStrmCond sec a b s
  | .nest w => Sys2Proof.Machine.execNest w s
  | .tcopy tl a => Sys2Proof.Machine.execTcopy tl a s
  | .tcopyDmd tl a => Sys2Proof.Machine.execTcopyDmd tl a s
  | .tcopyCancel d tl => Sys2Proof.Machine.execTcopyCancel d tl s
  | .tlWait tl b => Sys2Proof.Machine.execTlWait tl b s
  | .tlRead d tl => Sys2Proof.Machine.execTlRead d tl s
  | .tlAdv tl b => Sys2Proof.Machine.execTlAdv tl b s
  | .spawn a => Sys2Proof.Machine.execSpawn a s
  | .spawnj a b => Sys2Proof.Machine.execSpawnj a b s
  | .done => Sys2Proof.Machine.execDone s
  | .yield => Sys2Proof.Machine.execYield s
  | .abort a => Sys2Proof.Machine.execAbort a s
  | .tskSelf d => Sys2Proof.Machine.execTskSelf d s
  | .tskTs d => Sys2Proof.Machine.execTskTs d s
  | .chgAdd d a b => Sys2Proof.Machine.execChgAdd d a b s
  | .chgRead d a => Sys2Proof.Machine.execChgRead d a s
  | .chgLow d a => Sys2Proof.Machine.execChgLow d a s
  | .chgHold d a => Sys2Proof.Machine.execChgHold d a s
  | .chgSelf d => Sys2Proof.Machine.execChgSelf d s
  | .chOpen d a => Sys2Proof.Machine.execChOpen d a s
  | .chPushW a b => Sys2Proof.Machine.execChPushW a b s
  | .chPushD a b => Sys2Proof.Machine.execChPushD a b s
  | .chPopW d a => Sys2Proof.Machine.execChPopW d a s
  | .chPopD d a b => Sys2Proof.Machine.execChPopD d a b s
  | .chPeek d a => Sys2Proof.Machine.execChPeek d a s
  | .chClose d a => Sys2Proof.Machine.execChClose d a s
  | .chStat d a => Sys2Proof.Machine.execChStat d a s
  | .chBind d a b => Sys2Proof.Machine.execChBind d a b s
  | .mxFmt sec a b => Sys2Proof.Machine.execMxFmt sec a b s
  | .mxLds a b => Sys2Proof.Machine.execMxLds a b s
  | .mxSwap a => Sys2Proof.Machine.execMxSwap a s
  | .mxArm sec a b => Sys2Proof.Machine.execMxArm sec a b s
  | .mxGroup a b => Sys2Proof.Machine.execMxGroup a b s
  | .mxCsr a b => Sys2Proof.Machine.execMxCsr a b s
  | .mxCond a b => Sys2Proof.Machine.execMxCond a b s
  | .mxStat d a => Sys2Proof.Machine.execMxStat d a s
  | .mxClr a => Sys2Proof.Machine.execMxClr a s
  | .notificationWrite die off value => Sys2Proof.Machine.execNotificationWrite die off value s
  | .queueSlotMap die => Sys2Proof.Machine.execQueueSlotMap die s
  | .timeSliceEnd die slot => Sys2Proof.Machine.execTimeSliceEnd die slot s
  | .launchEntryRead die slot => Sys2Proof.Machine.execLaunchEntryRead die slot s
  | .walkerArmDelivery inst node => Sys2Proof.Machine.execWalkerArmDelivery inst node s
  | .recordAging id => Sys2Proof.Machine.execRecordAging id s
  | .placementDecision die => Sys2Proof.Machine.execPlacementDecision die s
  | .fundingStall die => Sys2Proof.Machine.execFundingStall die s
  | .placementStall die => Sys2Proof.Machine.execPlacementStall die s
  | .admission h => Sys2Proof.Machine.execAdmission h s
  | .stealRequest die cluster => Sys2Proof.Machine.execStealRequest die cluster s
  | .stealWithdraw die cluster => Sys2Proof.Machine.execStealWithdraw die cluster s
  | .prefixEnd h => Sys2Proof.Machine.execPrefixEnd h s
  | .holdTimerExpiry h => Sys2Proof.Machine.execHoldTimerExpiry h s
  | .cuFire h cell => Sys2Proof.Machine.execCuFire h cell s
  | .fibreUnitFire h cell => Sys2Proof.Machine.execFibreUnitFire h cell s
  | .joinStep h cell => Sys2Proof.Machine.execJoinStep h cell s
  | .portalReply h cell req ok value => Sys2Proof.Machine.execPortalReply h cell req ok value s
  | .pmtEnter h cell => Sys2Proof.Machine.execPmtEnter h cell s
  | .pmtExit h cell => Sys2Proof.Machine.execPmtExit h cell s
  | .ctlSeq h cell => Sys2Proof.Machine.execCtlSeq h cell s
  | .ctlPipe h cell => Sys2Proof.Machine.execCtlPipe h cell s
  | .ctlStrm h cell => Sys2Proof.Machine.execCtlStrm h cell s
  | .barNode h cell => Sys2Proof.Machine.execBarNode h cell s
  | .muAccess h cell => Sys2Proof.Machine.execMuAccess h cell s
  | .affineElement h place => Sys2Proof.Machine.execAffineElement h place s
  | .gatherRequest h place => Sys2Proof.Machine.execGatherRequest h place s
  | .gatherReply h place idx => Sys2Proof.Machine.execGatherReply h place idx s
  | .scatterStore h place => Sys2Proof.Machine.execScatterStore h place s
  | .levelExpand h place => Sys2Proof.Machine.execLevelExpand h place s
  | .channelAgElement h place => Sys2Proof.Machine.execChannelAgElement h place s
  | .streamGateLaunch h go => Sys2Proof.Machine.execStreamGateLaunch h go s
  | .barRelease h => Sys2Proof.Machine.execBarRelease h s
  | .nestComplete h => Sys2Proof.Machine.execNestComplete h s
  | .timelineWaitRelease h => Sys2Proof.Machine.execTimelineWaitRelease h s
  | .copyLaunch h cluster n => Sys2Proof.Machine.execCopyLaunch h cluster n s
  | .copyComplete h cluster n => Sys2Proof.Machine.execCopyComplete h cluster n s
  | .planeLoadRun h k => Sys2Proof.Machine.execPlaneLoadRun h k s
  | .planeSwapRun h k => Sys2Proof.Machine.execPlaneSwapRun h k s
  | .matrixTile h k => Sys2Proof.Machine.execMatrixTile h k s
  | .activationRow h k => Sys2Proof.Machine.execActivationRow h k s
  | .matrixMigration h k next => Sys2Proof.Machine.execMatrixMigration h k next s
  | .channelPushRelease h => Sys2Proof.Machine.execChannelPushRelease h s
  | .channelPopRelease h => Sys2Proof.Machine.execChannelPopRelease h s
  | .channelDetectorSample die => Sys2Proof.Machine.execChannelDetectorSample die s
  | .channelForward ctx num => Sys2Proof.Machine.execChannelForward ctx num s
  | .channelPeerAck ctx num => Sys2Proof.Machine.execChannelPeerAck ctx num s
  | .linkFailure die port => Sys2Proof.Machine.execLinkFailure die port s
  | .lockGrant line => Sys2Proof.Machine.execLockGrant line s
  | .taskCommit h => Sys2Proof.Machine.execTaskCommit h s
  | .cupboardSpaceAbort die cluster => Sys2Proof.Machine.execCupboardSpaceAbort die cluster s
  | .faultRetry die index => Sys2Proof.Machine.execFaultRetry die index s
  | .faultFail die index => Sys2Proof.Machine.execFaultFail die index s
  | .hangDetect h => Sys2Proof.Machine.execHangDetect h s
  | .preemptByRecord die => Sys2Proof.Machine.execPreemptByRecord die s
  | .preemptDiscard die => Sys2Proof.Machine.execPreemptDiscard die s
  | .preemptDrop die => Sys2Proof.Machine.execPreemptDrop die s
  | .suspendShallow discard => Sys2Proof.Machine.execSuspendShallow discard s
  | .suspendDeep discard => Sys2Proof.Machine.execSuspendDeep discard s
  | .suspendWardrobe discard => Sys2Proof.Machine.execSuspendWardrobe discard s
  | .wardrobeWrite => Sys2Proof.Machine.execWardrobeWrite s
  | .resume => Sys2Proof.Machine.execResume s
  | .bureauTrapEntry die => Sys2Proof.Machine.execBureauTrapEntry die s
  | .wfiWake die => Sys2Proof.Machine.execWfiWake die s
  | .budgetRingTurn => Sys2Proof.Machine.execBudgetRingTurn s
  | .thermalSample die region temp => Sys2Proof.Machine.execThermalSample die region temp s
  | .throttleSetOne die level => Sys2Proof.Machine.execThrottleSetOne die level s
  | .throttleSetAll die level => Sys2Proof.Machine.execThrottleSetAll die level s
  | .timerExpiry die => Sys2Proof.Machine.execTimerExpiry die s
  | .eccEvent die region uncorrected victim sub => Sys2Proof.Machine.execEccEvent die region uncorrected victim sub s
  | .tlbiPage die ctx => Sys2Proof.Machine.execTlbiPage die ctx s
  | .tlbiContext die ctx => Sys2Proof.Machine.execTlbiContext die ctx s
  | .tlbiAll die => Sys2Proof.Machine.execTlbiAll die s
  | .tlbInvalidateComplete die => Sys2Proof.Machine.execTlbInvalidateComplete die s
  | .homeSliceWrite die value => Sys2Proof.Machine.execHomeSliceWrite die value s
  | .homePageMoveComplete die page => Sys2Proof.Machine.execHomePageMoveComplete die page s
  | .wayGate die ways => Sys2Proof.Machine.execWayGate die ways s
  | .wayWake die ways => Sys2Proof.Machine.execWayWake die ways s
  | .wayAwake die cluster slice way => Sys2Proof.Machine.execWayAwake die cluster slice way s
  | .doorbellWrite die value => Sys2Proof.Machine.execDoorbellWrite die value s
  | .doorbellRead die => Sys2Proof.Machine.execDoorbellRead die s
  | .hcwCtlWrite window value => Sys2Proof.Machine.execHcwCtlWrite window value s
  | .registerWrite die num value => Sys2Proof.Machine.execRegisterWrite die num value s
  | .hostWrite addr data => Sys2Proof.Machine.execHostWrite addr data s
  | .cxlMemWrite addr data => Sys2Proof.Machine.execCxlMemWrite addr data s
  | .cxlCacheSnoop addr data => Sys2Proof.Machine.execCxlCacheSnoop addr data s
  | .ualinkWrite target data => Sys2Proof.Machine.execUalinkWrite target data s
  | .hostRead addr len => Sys2Proof.Machine.execHostRead addr len s
  | .powerGood => Sys2Proof.Machine.execPowerGood s
  | .bootGo => Sys2Proof.Machine.execBootGo s
  | .stageBTimeout => Sys2Proof.Machine.execStageBTimeout s
  | .stageBComplete failing => Sys2Proof.Machine.execStageBComplete failing s
  | .zeroingSweep block => Sys2Proof.Machine.execZeroingSweep block s
  | .wardrobeRestore => Sys2Proof.Machine.execWardrobeRestore s
  | .resyncRequest value => Sys2Proof.Machine.execResyncRequest value s
  | .resyncSummaryWritten => Sys2Proof.Machine.execResyncSummaryWritten s
  | .attestRequest value => Sys2Proof.Machine.execAttestRequest value s
  | .portalTimeout h cell req => Sys2Proof.Machine.execPortalTimeout h cell req s
  | .peerUnbind ctx num ack => Sys2Proof.Machine.execPeerUnbind ctx num ack s
  | .peerBindHandshake ctx num peer far port inbound => Sys2Proof.Machine.execPeerBindHandshake ctx num peer far port inbound s

end Sys2Proof.Machine
end

