-- ==== Sys2Proof/Machine/Step.lean ====
section
/-! DEFINITION. One step of the package: the next turn of the schedule, or the agent that moves when nothing is
scheduled (log entry 1). -/

namespace Sys2Proof.Machine

open Sys2Proof

/-- Whether an agent is there. -/
def State.present (s : State) (a : Agent) : Bool :=
  match a with
  | .bureau d => (s.die? d).isSome
  | .thread h => (s.task? h).isSome

/-- An agent's turn: it fetches and executes, or the turn passes. -/
def State.turn (s : State) (a : Agent) : Host.Outcome State Fault Refusal :=
  match s.fetch a with
  | (.ok i, t) => exec i { t with current := a }
  | (.error t, _) => .next t

/-- One step. -/
def step (s : State) : Host.Outcome State Fault Refusal :=
  match s.schedule with
  | [] => s.turn s.current
  | .agent a :: r => if s.present a then { s with schedule := r, current := a }.turn a else .next { s with schedule := r }
  | .event i :: r =>
    if (encode i).isNone then exec i { s with schedule := r } else .next { s with schedule := r }

/-- `s` with an instruction word where `step` fetches its next instruction. -/
def State.withFetchWord (s : State) (nbits w : Nat) : State := s.placeWord nbits w

end Sys2Proof.Machine
end

