-- ==== Sys2Proof/Laws/PerInstr.lean ====
section
/-! SUPPORT. Decode and encode agree, instruction by instruction (R28–R35, R45): the bytes that the encoder gives for a
well-formed instruction decode to it and to their number, whatever follows them. A step of another agent has no bytes. -/

set_option linter.unusedSimpArgs false

namespace Sys2Proof

/-! ### Fields of a concatenation -/

/-- A field in the low part. -/
theorem field_append_low {m n : Nat} (x : BitVec m) (y : BitVec n) (lo k : Nat) (h : lo + k ≤ n) :
    field (x ++ y) lo k = field y lo k := by
  ext i hi
  simp only [field, BitVec.getElem_extractLsb', BitVec.getLsbD_append]
  simp [show lo + i < n by omega]

/-- A field in the high part. -/
theorem field_append_high {m n : Nat} (x : BitVec m) (y : BitVec n) (lo k : Nat) (h : n ≤ lo) :
    field (x ++ y) lo k = field x (lo - n) k := by
  ext i hi
  simp only [field, BitVec.getElem_extractLsb', BitVec.getLsbD_append]
  simp [show ¬ lo + i < n by omega, show lo - n + i = lo + i - n by omega]

/-- The whole of a word. -/
theorem field_all {n : Nat} (x : BitVec n) : field x 0 n = x := by
  ext i hi
  simp [field]

/-! ### Fields of the encoder's words -/

theorem encA_0_7 (m : BitVec 7) (d a b : BitVec 5) (fn : BitVec 10) : field (encA m d a b fn) 0 7 = m := by
  simp (disch := decide) only [encA, field_append_low, field_append_high, field_all, Nat.sub_self, Nat.reduceSub]

theorem encA_7_5 (m : BitVec 7) (d a b : BitVec 5) (fn : BitVec 10) : field (encA m d a b fn) 7 5 = d := by
  simp (disch := decide) only [encA, field_append_low, field_append_high, field_all, Nat.sub_self, Nat.reduceSub]

theorem encA_12_5 (m : BitVec 7) (d a b : BitVec 5) (fn : BitVec 10) : field (encA m d a b fn) 12 5 = a := by
  simp (disch := decide) only [encA, field_append_low, field_append_high, field_all, Nat.sub_self, Nat.reduceSub]

theorem encA_17_5 (m : BitVec 7) (d a b : BitVec 5) (fn : BitVec 10) : field (encA m d a b fn) 17 5 = b := by
  simp (disch := decide) only [encA, field_append_low, field_append_high, field_all, Nat.sub_self, Nat.reduceSub]

theorem encA_22_10 (m : BitVec 7) (d a b : BitVec 5) (fn : BitVec 10) : field (encA m d a b fn) 22 10 = fn := by
  simp (disch := decide) only [encA, field_append_low, field_append_high, field_all, Nat.sub_self, Nat.reduceSub]

theorem encB_0_7 (m : BitVec 7) (d a : BitVec 5) (f : BitVec 3) (imm : BitVec 12) : field (encB m d a f imm) 0 7 = m := by
  simp (disch := decide) only [encB, field_append_low, field_append_high, field_all, Nat.sub_self, Nat.reduceSub]

theorem encB_7_5 (m : BitVec 7) (d a : BitVec 5) (f : BitVec 3) (imm : BitVec 12) : field (encB m d a f imm) 7 5 = d := by
  simp (disch := decide) only [encB, field_append_low, field_append_high, field_all, Nat.sub_self, Nat.reduceSub]

theorem encB_12_5 (m : BitVec 7) (d a : BitVec 5) (f : BitVec 3) (imm : BitVec 12) : field (encB m d a f imm) 12 5 = a := by
  simp (disch := decide) only [encB, field_append_low, field_append_high, field_all, Nat.sub_self, Nat.reduceSub]

theorem encB_17_3 (m : BitVec 7) (d a : BitVec 5) (f : BitVec 3) (imm : BitVec 12) : field (encB m d a f imm) 17 3 = f := by
  simp (disch := decide) only [encB, field_append_low, field_append_high, field_all, Nat.sub_self, Nat.reduceSub]

theorem encB_20_12 (m : BitVec 7) (d a : BitVec 5) (f : BitVec 3) (imm : BitVec 12) : field (encB m d a f imm) 20 12 = imm := by
  simp (disch := decide) only [encB, field_append_low, field_append_high, field_all, Nat.sub_self, Nat.reduceSub]

theorem encB_20_6 (m : BitVec 7) (d a : BitVec 5) (f : BitVec 3) (imm : BitVec 12) : field (encB m d a f imm) 20 6 = field imm 0 6 := by
  simp (disch := decide) only [encB, field_append_low, field_append_high, field_all, Nat.sub_self, Nat.reduceSub]

theorem encB_26_6 (m : BitVec 7) (d a : BitVec 5) (f : BitVec 3) (imm : BitVec 12) : field (encB m d a f imm) 26 6 = field imm 6 6 := by
  simp (disch := decide) only [encB, field_append_low, field_append_high, field_all, Nat.sub_self, Nat.reduceSub]

theorem encB_20_3 (m : BitVec 7) (d a : BitVec 5) (f : BitVec 3) (imm : BitVec 12) : field (encB m d a f imm) 20 3 = field imm 0 3 := by
  simp (disch := decide) only [encB, field_append_low, field_append_high, field_all, Nat.sub_self, Nat.reduceSub]

theorem encB_23_9 (m : BitVec 7) (d a : BitVec 5) (f : BitVec 3) (imm : BitVec 12) : field (encB m d a f imm) 23 9 = field imm 3 9 := by
  simp (disch := decide) only [encB, field_append_low, field_append_high, field_all, Nat.sub_self, Nat.reduceSub]

theorem encJ_0_7 (m : BitVec 7) (d : BitVec 5) (off : BitVec 20) : field (encJ m d off) 0 7 = m := by
  simp (disch := decide) only [encJ, field_append_low, field_append_high, field_all, Nat.sub_self, Nat.reduceSub]

theorem encJ_7_5 (m : BitVec 7) (d : BitVec 5) (off : BitVec 20) : field (encJ m d off) 7 5 = d := by
  simp (disch := decide) only [encJ, field_append_low, field_append_high, field_all, Nat.sub_self, Nat.reduceSub]

theorem encJ_12_20 (m : BitVec 7) (d : BitVec 5) (off : BitVec 20) : field (encJ m d off) 12 20 = off := by
  simp (disch := decide) only [encJ, field_append_low, field_append_high, field_all, Nat.sub_self, Nat.reduceSub]

/-- The reserved bits and the shift count of a shift by an immediate. -/
theorem field_shift_high (sh : BitVec 6) : field (0#6 ++ sh) 6 6 = 0#6 := by
  simp (disch := decide) only [field_append_high, field_all, Nat.sub_self]

theorem field_shift_low (sh : BitVec 6) : field (0#6 ++ sh) 0 6 = sh := by
  simp (disch := decide) only [field_append_low, field_all]

/-- The reserved bits and the number of a fence. -/
theorem field_fence_high (k : BitVec 3) : field (0#9 ++ k) 3 9 = 0#9 := by
  simp (disch := decide) only [field_append_high, field_all, Nat.sub_self]

theorem field_fence_low (k : BitVec 3) : field (0#9 ++ k) 0 3 = k := by
  simp (disch := decide) only [field_append_low, field_all]

/-! ### Words in bytes -/

/-- A word's bytes give the word back, whatever follows them. -/
theorem wordAt_leBytes4 (w : BitVec 32) (rest : List (BitVec 8)) : wordAt (leBytes w 4 ++ rest) 32 4 = w := by
  have h : (leBytes w 4 ++ rest).take 4 = leBytes w 4 := by simp [leBytes]
  unfold wordAt
  rw [h]
  apply BitVec.eq_of_toNat_eq
  have hw := w.isLt
  simp only [leBytes, List.range, List.range.loop, List.map, ofLeBytes, BitVec.extractLsb'_toNat, BitVec.toNat_ofNat,
    Nat.shiftRight_eq_div_pow]
  omega

/-- One word that is neither Format W nor Format N decodes by itself. -/
theorem decode_leBytes (w : BitVec 32) (rest : List (BitVec 8)) (h3 : (field w 0 7).toNat ≠ 0x03)
    (h11 : (field w 0 7).toNat ≠ 0x11) : decode (leBytes w 4 ++ rest) = (decodeWord w).map fun i => (i, 4) := by
  have hl : ¬ (leBytes w 4 ++ rest).length < 4 := by simp [leBytes]
  unfold decode
  rw [if_neg hl]
  dsimp only
  rw [wordAt_leBytes4]
  split
  · exact absurd ‹_› h3
  · exact absurd ‹_› h11
  · rfl

/-- A word whose major opcode is not 0 is not the zero word. -/
theorem ne_zero_of_major {w : BitVec 32} (h : (field w 0 7).toNat ≠ 0) : ¬ w = 0 := by
  rintro rfl
  exact h rfl

/-- A Format W word and its immediate decode together. -/
theorem decode_leBytes_wide (w imm : BitVec 32) (rest : List (BitVec 8)) (h3 : (field w 0 7).toNat = 0x03) :
    decode (leBytes w 4 ++ (leBytes imm 4 ++ rest)) = (decodeWide w imm).map fun i => (i, 8) := by
  have hl : ¬ (leBytes w 4 ++ (leBytes imm 4 ++ rest)).length < 4 := by simp [leBytes]
  have hm : ¬ (leBytes w 4 ++ (leBytes imm 4 ++ rest)).length < 8 := by simp [leBytes]; omega
  have hd : (leBytes w 4 ++ (leBytes imm 4 ++ rest)).drop 4 = leBytes imm 4 ++ rest := by simp [leBytes]
  unfold decode
  rw [if_neg hl]
  dsimp only
  rw [wordAt_leBytes4, hd, wordAt_leBytes4, if_neg hm]
  simp only [h3]

end Sys2Proof

namespace Sys2Proof.Laws.Encoding

open Sys2Proof

/-- Decode and encode agree on an instruction, whatever bytes follow it. -/
def Statement (i : Instr) : Prop :=
  i.wf = true → ∀ bs, encodeBytes i = some bs → ∀ rest, decode (bs ++ rest) = .ok (i, bs.length)

/-- A one-word instruction whose word decodes to it. -/
theorem of_word {i : Instr} {w : BitVec 32} (he : encode i = some [w]) (h3 : (field w 0 7).toNat ≠ 0x03)
    (h11 : (field w 0 7).toNat ≠ 0x11) (hd : i.wf = true → decodeWord w = .ok i) : Statement i := by
  intro hw bs hb rest
  simp only [encodeBytes, he, Option.map_some, List.flatMap_cons, List.flatMap_nil, List.append_nil,
    Option.some.injEq] at hb
  subst hb
  rw [decode_leBytes w rest h3 h11, hd hw]
  rfl

/-- A Format W instruction whose words decode to it. -/
theorem of_wide {i : Instr} {w imm : BitVec 32} (he : encode i = some [w, imm]) (h3 : (field w 0 7).toNat = 0x03)
    (hd : decodeWide w imm = .ok i) : Statement i := by
  intro _ bs hb rest
  simp only [encodeBytes, he, Option.map_some, List.flatMap_cons, List.flatMap_nil, List.append_nil,
    Option.some.injEq] at hb
  subst hb
  rw [List.append_assoc, decode_leBytes_wide w imm rest h3, hd]
  rfl

/-- A step of another agent has no bytes. -/
theorem of_none {i : Instr} (he : encode i = none) : Statement i := by
  intro _ bs hb
  simp [encodeBytes, he] at hb

/-! ### The instructions -/

theorem add (d : Reg) (a : Reg) (b : Reg) : Statement (.add d a b) := by
  refine of_word rfl (by rw [encA_0_7]; decide) (by rw [encA_0_7]; decide) fun _ => ?_
  rw [decodeWord, if_neg (ne_zero_of_major (by rw [encA_0_7]; decide))]
  simp [decodeAlu, needZero, needNumber, encA_0_7, encA_7_5, encA_12_5, encA_17_5, encA_22_10]

theorem sub (d : Reg) (a : Reg) (b : Reg) : Statement (.sub d a b) := by
  refine of_word rfl (by rw [encA_0_7]; decide) (by rw [encA_0_7]; decide) fun _ => ?_
  rw [decodeWord, if_neg (ne_zero_of_major (by rw [encA_0_7]; decide))]
  simp [decodeAlu, needZero, needNumber, encA_0_7, encA_7_5, encA_12_5, encA_17_5, encA_22_10]

theorem and (d : Reg) (a : Reg) (b : Reg) : Statement (.and d a b) := by
  refine of_word rfl (by rw [encA_0_7]; decide) (by rw [encA_0_7]; decide) fun _ => ?_
  rw [decodeWord, if_neg (ne_zero_of_major (by rw [encA_0_7]; decide))]
  simp [decodeAlu, needZero, needNumber, encA_0_7, encA_7_5, encA_12_5, encA_17_5, encA_22_10]

theorem or (d : Reg) (a : Reg) (b : Reg) : Statement (.or d a b) := by
  refine of_word rfl (by rw [encA_0_7]; decide) (by rw [encA_0_7]; decide) fun _ => ?_
  rw [decodeWord, if_neg (ne_zero_of_major (by rw [encA_0_7]; decide))]
  simp [decodeAlu, needZero, needNumber, encA_0_7, encA_7_5, encA_12_5, encA_17_5, encA_22_10]

theorem xor (d : Reg) (a : Reg) (b : Reg) : Statement (.xor d a b) := by
  refine of_word rfl (by rw [encA_0_7]; decide) (by rw [encA_0_7]; decide) fun _ => ?_
  rw [decodeWord, if_neg (ne_zero_of_major (by rw [encA_0_7]; decide))]
  simp [decodeAlu, needZero, needNumber, encA_0_7, encA_7_5, encA_12_5, encA_17_5, encA_22_10]

theorem sll (d : Reg) (a : Reg) (b : Reg) : Statement (.sll d a b) := by
  refine of_word rfl (by rw [encA_0_7]; decide) (by rw [encA_0_7]; decide) fun _ => ?_
  rw [decodeWord, if_neg (ne_zero_of_major (by rw [encA_0_7]; decide))]
  simp [decodeAlu, needZero, needNumber, encA_0_7, encA_7_5, encA_12_5, encA_17_5, encA_22_10]

theorem srl (d : Reg) (a : Reg) (b : Reg) : Statement (.srl d a b) := by
  refine of_word rfl (by rw [encA_0_7]; decide) (by rw [encA_0_7]; decide) fun _ => ?_
  rw [decodeWord, if_neg (ne_zero_of_major (by rw [encA_0_7]; decide))]
  simp [decodeAlu, needZero, needNumber, encA_0_7, encA_7_5, encA_12_5, encA_17_5, encA_22_10]

theorem sra (d : Reg) (a : Reg) (b : Reg) : Statement (.sra d a b) := by
  refine of_word rfl (by rw [encA_0_7]; decide) (by rw [encA_0_7]; decide) fun _ => ?_
  rw [decodeWord, if_neg (ne_zero_of_major (by rw [encA_0_7]; decide))]
  simp [decodeAlu, needZero, needNumber, encA_0_7, encA_7_5, encA_12_5, encA_17_5, encA_22_10]

theorem slt (d : Reg) (a : Reg) (b : Reg) : Statement (.slt d a b) := by
  refine of_word rfl (by rw [encA_0_7]; decide) (by rw [encA_0_7]; decide) fun _ => ?_
  rw [decodeWord, if_neg (ne_zero_of_major (by rw [encA_0_7]; decide))]
  simp [decodeAlu, needZero, needNumber, encA_0_7, encA_7_5, encA_12_5, encA_17_5, encA_22_10]

theorem sltu (d : Reg) (a : Reg) (b : Reg) : Statement (.sltu d a b) := by
  refine of_word rfl (by rw [encA_0_7]; decide) (by rw [encA_0_7]; decide) fun _ => ?_
  rw [decodeWord, if_neg (ne_zero_of_major (by rw [encA_0_7]; decide))]
  simp [decodeAlu, needZero, needNumber, encA_0_7, encA_7_5, encA_12_5, encA_17_5, encA_22_10]

theorem mul (d : Reg) (a : Reg) (b : Reg) : Statement (.mul d a b) := by
  refine of_word rfl (by rw [encA_0_7]; decide) (by rw [encA_0_7]; decide) fun _ => ?_
  rw [decodeWord, if_neg (ne_zero_of_major (by rw [encA_0_7]; decide))]
  simp [decodeAlu, needZero, needNumber, encA_0_7, encA_7_5, encA_12_5, encA_17_5, encA_22_10]

theorem mulh (d : Reg) (a : Reg) (b : Reg) : Statement (.mulh d a b) := by
  refine of_word rfl (by rw [encA_0_7]; decide) (by rw [encA_0_7]; decide) fun _ => ?_
  rw [decodeWord, if_neg (ne_zero_of_major (by rw [encA_0_7]; decide))]
  simp [decodeAlu, needZero, needNumber, encA_0_7, encA_7_5, encA_12_5, encA_17_5, encA_22_10]

theorem mulhu (d : Reg) (a : Reg) (b : Reg) : Statement (.mulhu d a b) := by
  refine of_word rfl (by rw [encA_0_7]; decide) (by rw [encA_0_7]; decide) fun _ => ?_
  rw [decodeWord, if_neg (ne_zero_of_major (by rw [encA_0_7]; decide))]
  simp [decodeAlu, needZero, needNumber, encA_0_7, encA_7_5, encA_12_5, encA_17_5, encA_22_10]

theorem div (d : Reg) (a : Reg) (b : Reg) : Statement (.div d a b) := by
  refine of_word rfl (by rw [encA_0_7]; decide) (by rw [encA_0_7]; decide) fun _ => ?_
  rw [decodeWord, if_neg (ne_zero_of_major (by rw [encA_0_7]; decide))]
  simp [decodeAlu, needZero, needNumber, encA_0_7, encA_7_5, encA_12_5, encA_17_5, encA_22_10]

theorem divu (d : Reg) (a : Reg) (b : Reg) : Statement (.divu d a b) := by
  refine of_word rfl (by rw [encA_0_7]; decide) (by rw [encA_0_7]; decide) fun _ => ?_
  rw [decodeWord, if_neg (ne_zero_of_major (by rw [encA_0_7]; decide))]
  simp [decodeAlu, needZero, needNumber, encA_0_7, encA_7_5, encA_12_5, encA_17_5, encA_22_10]

theorem rem (d : Reg) (a : Reg) (b : Reg) : Statement (.rem d a b) := by
  refine of_word rfl (by rw [encA_0_7]; decide) (by rw [encA_0_7]; decide) fun _ => ?_
  rw [decodeWord, if_neg (ne_zero_of_major (by rw [encA_0_7]; decide))]
  simp [decodeAlu, needZero, needNumber, encA_0_7, encA_7_5, encA_12_5, encA_17_5, encA_22_10]

theorem remu (d : Reg) (a : Reg) (b : Reg) : Statement (.remu d a b) := by
  refine of_word rfl (by rw [encA_0_7]; decide) (by rw [encA_0_7]; decide) fun _ => ?_
  rw [decodeWord, if_neg (ne_zero_of_major (by rw [encA_0_7]; decide))]
  simp [decodeAlu, needZero, needNumber, encA_0_7, encA_7_5, encA_12_5, encA_17_5, encA_22_10]

theorem min (d : Reg) (a : Reg) (b : Reg) : Statement (.min d a b) := by
  refine of_word rfl (by rw [encA_0_7]; decide) (by rw [encA_0_7]; decide) fun _ => ?_
  rw [decodeWord, if_neg (ne_zero_of_major (by rw [encA_0_7]; decide))]
  simp [decodeAlu, needZero, needNumber, encA_0_7, encA_7_5, encA_12_5, encA_17_5, encA_22_10]

theorem max (d : Reg) (a : Reg) (b : Reg) : Statement (.max d a b) := by
  refine of_word rfl (by rw [encA_0_7]; decide) (by rw [encA_0_7]; decide) fun _ => ?_
  rw [decodeWord, if_neg (ne_zero_of_major (by rw [encA_0_7]; decide))]
  simp [decodeAlu, needZero, needNumber, encA_0_7, encA_7_5, encA_12_5, encA_17_5, encA_22_10]

theorem minu (d : Reg) (a : Reg) (b : Reg) : Statement (.minu d a b) := by
  refine of_word rfl (by rw [encA_0_7]; decide) (by rw [encA_0_7]; decide) fun _ => ?_
  rw [decodeWord, if_neg (ne_zero_of_major (by rw [encA_0_7]; decide))]
  simp [decodeAlu, needZero, needNumber, encA_0_7, encA_7_5, encA_12_5, encA_17_5, encA_22_10]

theorem maxu (d : Reg) (a : Reg) (b : Reg) : Statement (.maxu d a b) := by
  refine of_word rfl (by rw [encA_0_7]; decide) (by rw [encA_0_7]; decide) fun _ => ?_
  rw [decodeWord, if_neg (ne_zero_of_major (by rw [encA_0_7]; decide))]
  simp [decodeAlu, needZero, needNumber, encA_0_7, encA_7_5, encA_12_5, encA_17_5, encA_22_10]

theorem clz (d : Reg) (a : Reg) : Statement (.clz d a) := by
  refine of_word rfl (by rw [encA_0_7]; decide) (by rw [encA_0_7]; decide) fun _ => ?_
  rw [decodeWord, if_neg (ne_zero_of_major (by rw [encA_0_7]; decide))]
  simp [decodeAlu, needZero, needNumber, encA_0_7, encA_7_5, encA_12_5, encA_17_5, encA_22_10]

theorem ctz (d : Reg) (a : Reg) : Statement (.ctz d a) := by
  refine of_word rfl (by rw [encA_0_7]; decide) (by rw [encA_0_7]; decide) fun _ => ?_
  rw [decodeWord, if_neg (ne_zero_of_major (by rw [encA_0_7]; decide))]
  simp [decodeAlu, needZero, needNumber, encA_0_7, encA_7_5, encA_12_5, encA_17_5, encA_22_10]

theorem pop (d : Reg) (a : Reg) : Statement (.pop d a) := by
  refine of_word rfl (by rw [encA_0_7]; decide) (by rw [encA_0_7]; decide) fun _ => ?_
  rw [decodeWord, if_neg (ne_zero_of_major (by rw [encA_0_7]; decide))]
  simp [decodeAlu, needZero, needNumber, encA_0_7, encA_7_5, encA_12_5, encA_17_5, encA_22_10]

theorem addi (d : Reg) (a : Reg) (imm : BitVec 12) : Statement (.addi d a imm) := by
  refine of_word rfl (by rw [encB_0_7]; decide) (by rw [encB_0_7]; decide) fun _ => ?_
  rw [decodeWord, if_neg (ne_zero_of_major (by rw [encB_0_7]; decide))]
  simp [decodeAlui, needZero, needNumber, encB_0_7, encB_7_5, encB_12_5, encB_17_3, encB_20_12, encB_20_6, encB_26_6, encB_20_3, encB_23_9, field_shift_high, field_shift_low, field_fence_high, field_fence_low]

theorem andi (d : Reg) (a : Reg) (imm : BitVec 12) : Statement (.andi d a imm) := by
  refine of_word rfl (by rw [encB_0_7]; decide) (by rw [encB_0_7]; decide) fun _ => ?_
  rw [decodeWord, if_neg (ne_zero_of_major (by rw [encB_0_7]; decide))]
  simp [decodeAlui, needZero, needNumber, encB_0_7, encB_7_5, encB_12_5, encB_17_3, encB_20_12, encB_20_6, encB_26_6, encB_20_3, encB_23_9, field_shift_high, field_shift_low, field_fence_high, field_fence_low]

theorem ori (d : Reg) (a : Reg) (imm : BitVec 12) : Statement (.ori d a imm) := by
  refine of_word rfl (by rw [encB_0_7]; decide) (by rw [encB_0_7]; decide) fun _ => ?_
  rw [decodeWord, if_neg (ne_zero_of_major (by rw [encB_0_7]; decide))]
  simp [decodeAlui, needZero, needNumber, encB_0_7, encB_7_5, encB_12_5, encB_17_3, encB_20_12, encB_20_6, encB_26_6, encB_20_3, encB_23_9, field_shift_high, field_shift_low, field_fence_high, field_fence_low]

theorem xori (d : Reg) (a : Reg) (imm : BitVec 12) : Statement (.xori d a imm) := by
  refine of_word rfl (by rw [encB_0_7]; decide) (by rw [encB_0_7]; decide) fun _ => ?_
  rw [decodeWord, if_neg (ne_zero_of_major (by rw [encB_0_7]; decide))]
  simp [decodeAlui, needZero, needNumber, encB_0_7, encB_7_5, encB_12_5, encB_17_3, encB_20_12, encB_20_6, encB_26_6, encB_20_3, encB_23_9, field_shift_high, field_shift_low, field_fence_high, field_fence_low]

theorem slli (d : Reg) (a : Reg) (sh : BitVec 6) : Statement (.slli d a sh) := by
  refine of_word rfl (by rw [encB_0_7]; decide) (by rw [encB_0_7]; decide) fun _ => ?_
  rw [decodeWord, if_neg (ne_zero_of_major (by rw [encB_0_7]; decide))]
  simp [decodeAlui, needZero, needNumber, encB_0_7, encB_7_5, encB_12_5, encB_17_3, encB_20_12, encB_20_6, encB_26_6, encB_20_3, encB_23_9, field_shift_high, field_shift_low, field_fence_high, field_fence_low]

theorem srli (d : Reg) (a : Reg) (sh : BitVec 6) : Statement (.srli d a sh) := by
  refine of_word rfl (by rw [encB_0_7]; decide) (by rw [encB_0_7]; decide) fun _ => ?_
  rw [decodeWord, if_neg (ne_zero_of_major (by rw [encB_0_7]; decide))]
  simp [decodeAlui, needZero, needNumber, encB_0_7, encB_7_5, encB_12_5, encB_17_3, encB_20_12, encB_20_6, encB_26_6, encB_20_3, encB_23_9, field_shift_high, field_shift_low, field_fence_high, field_fence_low]

theorem srai (d : Reg) (a : Reg) (sh : BitVec 6) : Statement (.srai d a sh) := by
  refine of_word rfl (by rw [encB_0_7]; decide) (by rw [encB_0_7]; decide) fun _ => ?_
  rw [decodeWord, if_neg (ne_zero_of_major (by rw [encB_0_7]; decide))]
  simp [decodeAlui, needZero, needNumber, encB_0_7, encB_7_5, encB_12_5, encB_17_3, encB_20_12, encB_20_6, encB_26_6, encB_20_3, encB_23_9, field_shift_high, field_shift_low, field_fence_high, field_fence_low]

theorem slti (d : Reg) (a : Reg) (imm : BitVec 12) : Statement (.slti d a imm) := by
  refine of_word rfl (by rw [encB_0_7]; decide) (by rw [encB_0_7]; decide) fun _ => ?_
  rw [decodeWord, if_neg (ne_zero_of_major (by rw [encB_0_7]; decide))]
  simp [decodeAlui, needZero, needNumber, encB_0_7, encB_7_5, encB_12_5, encB_17_3, encB_20_12, encB_20_6, encB_26_6, encB_20_3, encB_23_9, field_shift_high, field_shift_low, field_fence_high, field_fence_low]

theorem li (d : Reg) (imm : BitVec 32) : Statement (.li d imm) := by
  refine of_wide rfl (by rw [encA_0_7]; rfl) ?_
  simp [decodeWide, needZero, encA_0_7, encA_7_5, encA_12_5, encA_17_5, encA_22_10]

theorem lih (d : Reg) (a : Reg) (imm : BitVec 32) : Statement (.lih d a imm) := by
  refine of_wide rfl (by rw [encA_0_7]; rfl) ?_
  simp [decodeWide, needZero, encA_0_7, encA_7_5, encA_12_5, encA_17_5, encA_22_10]

theorem addiw (d : Reg) (a : Reg) (imm : BitVec 32) : Statement (.addiw d a imm) := by
  refine of_wide rfl (by rw [encA_0_7]; rfl) ?_
  simp [decodeWide, needZero, encA_0_7, encA_7_5, encA_12_5, encA_17_5, encA_22_10]

theorem beq (a : Reg) (b : Reg) (off : BitVec 12) : Statement (.beq a b off) := by
  refine of_word rfl (by rw [encB_0_7]; decide) (by rw [encB_0_7]; decide) fun _ => ?_
  rw [decodeWord, if_neg (ne_zero_of_major (by rw [encB_0_7]; decide))]
  simp [decodeBranch, needZero, needNumber, encB_0_7, encB_7_5, encB_12_5, encB_17_3, encB_20_12, encB_20_6, encB_26_6, encB_20_3, encB_23_9, field_shift_high, field_shift_low, field_fence_high, field_fence_low]

theorem bne (a : Reg) (b : Reg) (off : BitVec 12) : Statement (.bne a b off) := by
  refine of_word rfl (by rw [encB_0_7]; decide) (by rw [encB_0_7]; decide) fun _ => ?_
  rw [decodeWord, if_neg (ne_zero_of_major (by rw [encB_0_7]; decide))]
  simp [decodeBranch, needZero, needNumber, encB_0_7, encB_7_5, encB_12_5, encB_17_3, encB_20_12, encB_20_6, encB_26_6, encB_20_3, encB_23_9, field_shift_high, field_shift_low, field_fence_high, field_fence_low]

theorem blt (a : Reg) (b : Reg) (off : BitVec 12) : Statement (.blt a b off) := by
  refine of_word rfl (by rw [encB_0_7]; decide) (by rw [encB_0_7]; decide) fun _ => ?_
  rw [decodeWord, if_neg (ne_zero_of_major (by rw [encB_0_7]; decide))]
  simp [decodeBranch, needZero, needNumber, encB_0_7, encB_7_5, encB_12_5, encB_17_3, encB_20_12, encB_20_6, encB_26_6, encB_20_3, encB_23_9, field_shift_high, field_shift_low, field_fence_high, field_fence_low]

theorem bge (a : Reg) (b : Reg) (off : BitVec 12) : Statement (.bge a b off) := by
  refine of_word rfl (by rw [encB_0_7]; decide) (by rw [encB_0_7]; decide) fun _ => ?_
  rw [decodeWord, if_neg (ne_zero_of_major (by rw [encB_0_7]; decide))]
  simp [decodeBranch, needZero, needNumber, encB_0_7, encB_7_5, encB_12_5, encB_17_3, encB_20_12, encB_20_6, encB_26_6, encB_20_3, encB_23_9, field_shift_high, field_shift_low, field_fence_high, field_fence_low]

theorem bltu (a : Reg) (b : Reg) (off : BitVec 12) : Statement (.bltu a b off) := by
  refine of_word rfl (by rw [encB_0_7]; decide) (by rw [encB_0_7]; decide) fun _ => ?_
  rw [decodeWord, if_neg (ne_zero_of_major (by rw [encB_0_7]; decide))]
  simp [decodeBranch, needZero, needNumber, encB_0_7, encB_7_5, encB_12_5, encB_17_3, encB_20_12, encB_20_6, encB_26_6, encB_20_3, encB_23_9, field_shift_high, field_shift_low, field_fence_high, field_fence_low]

theorem bgeu (a : Reg) (b : Reg) (off : BitVec 12) : Statement (.bgeu a b off) := by
  refine of_word rfl (by rw [encB_0_7]; decide) (by rw [encB_0_7]; decide) fun _ => ?_
  rw [decodeWord, if_neg (ne_zero_of_major (by rw [encB_0_7]; decide))]
  simp [decodeBranch, needZero, needNumber, encB_0_7, encB_7_5, encB_12_5, encB_17_3, encB_20_12, encB_20_6, encB_26_6, encB_20_3, encB_23_9, field_shift_high, field_shift_low, field_fence_high, field_fence_low]

theorem jal (d : Reg) (off : BitVec 20) : Statement (.jal d off) := by
  refine of_word rfl (by rw [encJ_0_7]; decide) (by rw [encJ_0_7]; decide) fun _ => ?_
  rw [decodeWord, if_neg (ne_zero_of_major (by rw [encJ_0_7]; decide))]
  simp [needZero, needNumber, encJ_0_7, encJ_7_5, encJ_12_20]

theorem jalr (d : Reg) (a : Reg) (imm : BitVec 12) : Statement (.jalr d a imm) := by
  refine of_word rfl (by rw [encB_0_7]; decide) (by rw [encB_0_7]; decide) fun _ => ?_
  rw [decodeWord, if_neg (ne_zero_of_major (by rw [encB_0_7]; decide))]
  simp [decodeJalr, needZero, needNumber, encB_0_7, encB_7_5, encB_12_5, encB_17_3, encB_20_12, encB_20_6, encB_26_6, encB_20_3, encB_23_9, field_shift_high, field_shift_low, field_fence_high, field_fence_low]

theorem ldsB (d : Reg) (base : Reg) (off : BitVec 12) : Statement (.ldsB d base off) := by
  refine of_word rfl (by rw [encB_0_7]; decide) (by rw [encB_0_7]; decide) fun _ => ?_
  rw [decodeWord, if_neg (ne_zero_of_major (by rw [encB_0_7]; decide))]
  simp [decodeLds, needZero, needNumber, encB_0_7, encB_7_5, encB_12_5, encB_17_3, encB_20_12, encB_20_6, encB_26_6, encB_20_3, encB_23_9, field_shift_high, field_shift_low, field_fence_high, field_fence_low]

theorem ldsH (d : Reg) (base : Reg) (off : BitVec 12) : Statement (.ldsH d base off) := by
  refine of_word rfl (by rw [encB_0_7]; decide) (by rw [encB_0_7]; decide) fun _ => ?_
  rw [decodeWord, if_neg (ne_zero_of_major (by rw [encB_0_7]; decide))]
  simp [decodeLds, needZero, needNumber, encB_0_7, encB_7_5, encB_12_5, encB_17_3, encB_20_12, encB_20_6, encB_26_6, encB_20_3, encB_23_9, field_shift_high, field_shift_low, field_fence_high, field_fence_low]

theorem ldsW (d : Reg) (base : Reg) (off : BitVec 12) : Statement (.ldsW d base off) := by
  refine of_word rfl (by rw [encB_0_7]; decide) (by rw [encB_0_7]; decide) fun _ => ?_
  rw [decodeWord, if_neg (ne_zero_of_major (by rw [encB_0_7]; decide))]
  simp [decodeLds, needZero, needNumber, encB_0_7, encB_7_5, encB_12_5, encB_17_3, encB_20_12, encB_20_6, encB_26_6, encB_20_3, encB_23_9, field_shift_high, field_shift_low, field_fence_high, field_fence_low]

theorem ldsD (d : Reg) (base : Reg) (off : BitVec 12) : Statement (.ldsD d base off) := by
  refine of_word rfl (by rw [encB_0_7]; decide) (by rw [encB_0_7]; decide) fun _ => ?_
  rw [decodeWord, if_neg (ne_zero_of_major (by rw [encB_0_7]; decide))]
  simp [decodeLds, needZero, needNumber, encB_0_7, encB_7_5, encB_12_5, encB_17_3, encB_20_12, encB_20_6, encB_26_6, encB_20_3, encB_23_9, field_shift_high, field_shift_low, field_fence_high, field_fence_low]

theorem ldsBu (d : Reg) (base : Reg) (off : BitVec 12) : Statement (.ldsBu d base off) := by
  refine of_word rfl (by rw [encB_0_7]; decide) (by rw [encB_0_7]; decide) fun _ => ?_
  rw [decodeWord, if_neg (ne_zero_of_major (by rw [encB_0_7]; decide))]
  simp [decodeLds, needZero, needNumber, encB_0_7, encB_7_5, encB_12_5, encB_17_3, encB_20_12, encB_20_6, encB_26_6, encB_20_3, encB_23_9, field_shift_high, field_shift_low, field_fence_high, field_fence_low]

theorem ldsHu (d : Reg) (base : Reg) (off : BitVec 12) : Statement (.ldsHu d base off) := by
  refine of_word rfl (by rw [encB_0_7]; decide) (by rw [encB_0_7]; decide) fun _ => ?_
  rw [decodeWord, if_neg (ne_zero_of_major (by rw [encB_0_7]; decide))]
  simp [decodeLds, needZero, needNumber, encB_0_7, encB_7_5, encB_12_5, encB_17_3, encB_20_12, encB_20_6, encB_26_6, encB_20_3, encB_23_9, field_shift_high, field_shift_low, field_fence_high, field_fence_low]

theorem ldsWu (d : Reg) (base : Reg) (off : BitVec 12) : Statement (.ldsWu d base off) := by
  refine of_word rfl (by rw [encB_0_7]; decide) (by rw [encB_0_7]; decide) fun _ => ?_
  rw [decodeWord, if_neg (ne_zero_of_major (by rw [encB_0_7]; decide))]
  simp [decodeLds, needZero, needNumber, encB_0_7, encB_7_5, encB_12_5, encB_17_3, encB_20_12, encB_20_6, encB_26_6, encB_20_3, encB_23_9, field_shift_high, field_shift_low, field_fence_high, field_fence_low]

theorem stsB (src : Reg) (base : Reg) (off : BitVec 12) : Statement (.stsB src base off) := by
  refine of_word rfl (by rw [encB_0_7]; decide) (by rw [encB_0_7]; decide) fun _ => ?_
  rw [decodeWord, if_neg (ne_zero_of_major (by rw [encB_0_7]; decide))]
  simp [decodeSts, needZero, needNumber, encB_0_7, encB_7_5, encB_12_5, encB_17_3, encB_20_12, encB_20_6, encB_26_6, encB_20_3, encB_23_9, field_shift_high, field_shift_low, field_fence_high, field_fence_low]

theorem stsH (src : Reg) (base : Reg) (off : BitVec 12) : Statement (.stsH src base off) := by
  refine of_word rfl (by rw [encB_0_7]; decide) (by rw [encB_0_7]; decide) fun _ => ?_
  rw [decodeWord, if_neg (ne_zero_of_major (by rw [encB_0_7]; decide))]
  simp [decodeSts, needZero, needNumber, encB_0_7, encB_7_5, encB_12_5, encB_17_3, encB_20_12, encB_20_6, encB_26_6, encB_20_3, encB_23_9, field_shift_high, field_shift_low, field_fence_high, field_fence_low]

theorem stsW (src : Reg) (base : Reg) (off : BitVec 12) : Statement (.stsW src base off) := by
  refine of_word rfl (by rw [encB_0_7]; decide) (by rw [encB_0_7]; decide) fun _ => ?_
  rw [decodeWord, if_neg (ne_zero_of_major (by rw [encB_0_7]; decide))]
  simp [decodeSts, needZero, needNumber, encB_0_7, encB_7_5, encB_12_5, encB_17_3, encB_20_12, encB_20_6, encB_26_6, encB_20_3, encB_23_9, field_shift_high, field_shift_low, field_fence_high, field_fence_low]

theorem stsD (src : Reg) (base : Reg) (off : BitVec 12) : Statement (.stsD src base off) := by
  refine of_word rfl (by rw [encB_0_7]; decide) (by rw [encB_0_7]; decide) fun _ => ?_
  rw [decodeWord, if_neg (ne_zero_of_major (by rw [encB_0_7]; decide))]
  simp [decodeSts, needZero, needNumber, encB_0_7, encB_7_5, encB_12_5, encB_17_3, encB_20_12, encB_20_6, encB_26_6, encB_20_3, encB_23_9, field_shift_high, field_shift_low, field_fence_high, field_fence_low]

theorem ldgB (d : Reg) (base : Reg) (off : BitVec 12) : Statement (.ldgB d base off) := by
  refine of_word rfl (by rw [encB_0_7]; decide) (by rw [encB_0_7]; decide) fun _ => ?_
  rw [decodeWord, if_neg (ne_zero_of_major (by rw [encB_0_7]; decide))]
  simp [decodeLdg, needZero, needNumber, encB_0_7, encB_7_5, encB_12_5, encB_17_3, encB_20_12, encB_20_6, encB_26_6, encB_20_3, encB_23_9, field_shift_high, field_shift_low, field_fence_high, field_fence_low]

theorem ldgH (d : Reg) (base : Reg) (off : BitVec 12) : Statement (.ldgH d base off) := by
  refine of_word rfl (by rw [encB_0_7]; decide) (by rw [encB_0_7]; decide) fun _ => ?_
  rw [decodeWord, if_neg (ne_zero_of_major (by rw [encB_0_7]; decide))]
  simp [decodeLdg, needZero, needNumber, encB_0_7, encB_7_5, encB_12_5, encB_17_3, encB_20_12, encB_20_6, encB_26_6, encB_20_3, encB_23_9, field_shift_high, field_shift_low, field_fence_high, field_fence_low]

theorem ldgW (d : Reg) (base : Reg) (off : BitVec 12) : Statement (.ldgW d base off) := by
  refine of_word rfl (by rw [encB_0_7]; decide) (by rw [encB_0_7]; decide) fun _ => ?_
  rw [decodeWord, if_neg (ne_zero_of_major (by rw [encB_0_7]; decide))]
  simp [decodeLdg, needZero, needNumber, encB_0_7, encB_7_5, encB_12_5, encB_17_3, encB_20_12, encB_20_6, encB_26_6, encB_20_3, encB_23_9, field_shift_high, field_shift_low, field_fence_high, field_fence_low]

theorem ldgD (d : Reg) (base : Reg) (off : BitVec 12) : Statement (.ldgD d base off) := by
  refine of_word rfl (by rw [encB_0_7]; decide) (by rw [encB_0_7]; decide) fun _ => ?_
  rw [decodeWord, if_neg (ne_zero_of_major (by rw [encB_0_7]; decide))]
  simp [decodeLdg, needZero, needNumber, encB_0_7, encB_7_5, encB_12_5, encB_17_3, encB_20_12, encB_20_6, encB_26_6, encB_20_3, encB_23_9, field_shift_high, field_shift_low, field_fence_high, field_fence_low]

theorem ldgBu (d : Reg) (base : Reg) (off : BitVec 12) : Statement (.ldgBu d base off) := by
  refine of_word rfl (by rw [encB_0_7]; decide) (by rw [encB_0_7]; decide) fun _ => ?_
  rw [decodeWord, if_neg (ne_zero_of_major (by rw [encB_0_7]; decide))]
  simp [decodeLdg, needZero, needNumber, encB_0_7, encB_7_5, encB_12_5, encB_17_3, encB_20_12, encB_20_6, encB_26_6, encB_20_3, encB_23_9, field_shift_high, field_shift_low, field_fence_high, field_fence_low]

theorem ldgHu (d : Reg) (base : Reg) (off : BitVec 12) : Statement (.ldgHu d base off) := by
  refine of_word rfl (by rw [encB_0_7]; decide) (by rw [encB_0_7]; decide) fun _ => ?_
  rw [decodeWord, if_neg (ne_zero_of_major (by rw [encB_0_7]; decide))]
  simp [decodeLdg, needZero, needNumber, encB_0_7, encB_7_5, encB_12_5, encB_17_3, encB_20_12, encB_20_6, encB_26_6, encB_20_3, encB_23_9, field_shift_high, field_shift_low, field_fence_high, field_fence_low]

theorem ldgWu (d : Reg) (base : Reg) (off : BitVec 12) : Statement (.ldgWu d base off) := by
  refine of_word rfl (by rw [encB_0_7]; decide) (by rw [encB_0_7]; decide) fun _ => ?_
  rw [decodeWord, if_neg (ne_zero_of_major (by rw [encB_0_7]; decide))]
  simp [decodeLdg, needZero, needNumber, encB_0_7, encB_7_5, encB_12_5, encB_17_3, encB_20_12, encB_20_6, encB_26_6, encB_20_3, encB_23_9, field_shift_high, field_shift_low, field_fence_high, field_fence_low]

theorem stgB (src : Reg) (base : Reg) (off : BitVec 12) : Statement (.stgB src base off) := by
  refine of_word rfl (by rw [encB_0_7]; decide) (by rw [encB_0_7]; decide) fun _ => ?_
  rw [decodeWord, if_neg (ne_zero_of_major (by rw [encB_0_7]; decide))]
  simp [decodeStg, needZero, needNumber, encB_0_7, encB_7_5, encB_12_5, encB_17_3, encB_20_12, encB_20_6, encB_26_6, encB_20_3, encB_23_9, field_shift_high, field_shift_low, field_fence_high, field_fence_low]

theorem stgH (src : Reg) (base : Reg) (off : BitVec 12) : Statement (.stgH src base off) := by
  refine of_word rfl (by rw [encB_0_7]; decide) (by rw [encB_0_7]; decide) fun _ => ?_
  rw [decodeWord, if_neg (ne_zero_of_major (by rw [encB_0_7]; decide))]
  simp [decodeStg, needZero, needNumber, encB_0_7, encB_7_5, encB_12_5, encB_17_3, encB_20_12, encB_20_6, encB_26_6, encB_20_3, encB_23_9, field_shift_high, field_shift_low, field_fence_high, field_fence_low]

theorem stgW (src : Reg) (base : Reg) (off : BitVec 12) : Statement (.stgW src base off) := by
  refine of_word rfl (by rw [encB_0_7]; decide) (by rw [encB_0_7]; decide) fun _ => ?_
  rw [decodeWord, if_neg (ne_zero_of_major (by rw [encB_0_7]; decide))]
  simp [decodeStg, needZero, needNumber, encB_0_7, encB_7_5, encB_12_5, encB_17_3, encB_20_12, encB_20_6, encB_26_6, encB_20_3, encB_23_9, field_shift_high, field_shift_low, field_fence_high, field_fence_low]

theorem stgD (src : Reg) (base : Reg) (off : BitVec 12) : Statement (.stgD src base off) := by
  refine of_word rfl (by rw [encB_0_7]; decide) (by rw [encB_0_7]; decide) fun _ => ?_
  rw [decodeWord, if_neg (ne_zero_of_major (by rw [encB_0_7]; decide))]
  simp [decodeStg, needZero, needNumber, encB_0_7, encB_7_5, encB_12_5, encB_17_3, encB_20_12, encB_20_6, encB_26_6, encB_20_3, encB_23_9, field_shift_high, field_shift_low, field_fence_high, field_fence_low]

theorem arBegin (a : Reg) : Statement (.arBegin a) := by
  refine of_word rfl (by rw [encA_0_7]; decide) (by rw [encA_0_7]; decide) fun _ => ?_
  rw [decodeWord, if_neg (ne_zero_of_major (by rw [encA_0_7]; decide))]
  simp [decodeAtomic, needZero, needNumber, encA_0_7, encA_7_5, encA_12_5, encA_17_5, encA_22_10]

theorem arLdW (d : Reg) (a : Reg) : Statement (.arLdW d a) := by
  refine of_word rfl (by rw [encA_0_7]; decide) (by rw [encA_0_7]; decide) fun _ => ?_
  rw [decodeWord, if_neg (ne_zero_of_major (by rw [encA_0_7]; decide))]
  simp [decodeAtomic, needZero, needNumber, encA_0_7, encA_7_5, encA_12_5, encA_17_5, encA_22_10]

theorem arLdD (d : Reg) (a : Reg) : Statement (.arLdD d a) := by
  refine of_word rfl (by rw [encA_0_7]; decide) (by rw [encA_0_7]; decide) fun _ => ?_
  rw [decodeWord, if_neg (ne_zero_of_major (by rw [encA_0_7]; decide))]
  simp [decodeAtomic, needZero, needNumber, encA_0_7, encA_7_5, encA_12_5, encA_17_5, encA_22_10]

theorem arStW (a : Reg) (b : Reg) : Statement (.arStW a b) := by
  refine of_word rfl (by rw [encA_0_7]; decide) (by rw [encA_0_7]; decide) fun _ => ?_
  rw [decodeWord, if_neg (ne_zero_of_major (by rw [encA_0_7]; decide))]
  simp [decodeAtomic, needZero, needNumber, encA_0_7, encA_7_5, encA_12_5, encA_17_5, encA_22_10]

theorem arStD (a : Reg) (b : Reg) : Statement (.arStD a b) := by
  refine of_word rfl (by rw [encA_0_7]; decide) (by rw [encA_0_7]; decide) fun _ => ?_
  rw [decodeWord, if_neg (ne_zero_of_major (by rw [encA_0_7]; decide))]
  simp [decodeAtomic, needZero, needNumber, encA_0_7, encA_7_5, encA_12_5, encA_17_5, encA_22_10]

theorem arEnd : Statement .arEnd := by
  refine of_word rfl (by rw [encA_0_7]; decide) (by rw [encA_0_7]; decide) fun _ => ?_
  rw [decodeWord, if_neg (ne_zero_of_major (by rw [encA_0_7]; decide))]
  simp [decodeAtomic, needZero, needNumber, encA_0_7, encA_7_5, encA_12_5, encA_17_5, encA_22_10]

theorem redAddW (a : Reg) (b : Reg) : Statement (.redAddW a b) := by
  refine of_word rfl (by rw [encA_0_7]; decide) (by rw [encA_0_7]; decide) fun _ => ?_
  rw [decodeWord, if_neg (ne_zero_of_major (by rw [encA_0_7]; decide))]
  simp [decodeRed, needZero, needNumber, encA_0_7, encA_7_5, encA_12_5, encA_17_5, encA_22_10]

theorem redAddD (a : Reg) (b : Reg) : Statement (.redAddD a b) := by
  refine of_word rfl (by rw [encA_0_7]; decide) (by rw [encA_0_7]; decide) fun _ => ?_
  rw [decodeWord, if_neg (ne_zero_of_major (by rw [encA_0_7]; decide))]
  simp [decodeRed, needZero, needNumber, encA_0_7, encA_7_5, encA_12_5, encA_17_5, encA_22_10]

theorem redMinW (a : Reg) (b : Reg) : Statement (.redMinW a b) := by
  refine of_word rfl (by rw [encA_0_7]; decide) (by rw [encA_0_7]; decide) fun _ => ?_
  rw [decodeWord, if_neg (ne_zero_of_major (by rw [encA_0_7]; decide))]
  simp [decodeRed, needZero, needNumber, encA_0_7, encA_7_5, encA_12_5, encA_17_5, encA_22_10]

theorem redMaxW (a : Reg) (b : Reg) : Statement (.redMaxW a b) := by
  refine of_word rfl (by rw [encA_0_7]; decide) (by rw [encA_0_7]; decide) fun _ => ?_
  rw [decodeWord, if_neg (ne_zero_of_major (by rw [encA_0_7]; decide))]
  simp [decodeRed, needZero, needNumber, encA_0_7, encA_7_5, encA_12_5, encA_17_5, encA_22_10]

theorem redOrW (a : Reg) (b : Reg) : Statement (.redOrW a b) := by
  refine of_word rfl (by rw [encA_0_7]; decide) (by rw [encA_0_7]; decide) fun _ => ?_
  rw [decodeWord, if_neg (ne_zero_of_major (by rw [encA_0_7]; decide))]
  simp [decodeRed, needZero, needNumber, encA_0_7, encA_7_5, encA_12_5, encA_17_5, encA_22_10]

theorem redAndW (a : Reg) (b : Reg) : Statement (.redAndW a b) := by
  refine of_word rfl (by rw [encA_0_7]; decide) (by rw [encA_0_7]; decide) fun _ => ?_
  rw [decodeWord, if_neg (ne_zero_of_major (by rw [encA_0_7]; decide))]
  simp [decodeRed, needZero, needNumber, encA_0_7, encA_7_5, encA_12_5, encA_17_5, encA_22_10]

theorem redFaddS (a : Reg) (b : Reg) : Statement (.redFaddS a b) := by
  refine of_word rfl (by rw [encA_0_7]; decide) (by rw [encA_0_7]; decide) fun _ => ?_
  rw [decodeWord, if_neg (ne_zero_of_major (by rw [encA_0_7]; decide))]
  simp [decodeRed, needZero, needNumber, encA_0_7, encA_7_5, encA_12_5, encA_17_5, encA_22_10]

theorem sysRd (d : Reg) (num : BitVec 12) : Statement (.sysRd d num) := by
  refine of_word rfl (by rw [encB_0_7]; decide) (by rw [encB_0_7]; decide) fun _ => ?_
  rw [decodeWord, if_neg (ne_zero_of_major (by rw [encB_0_7]; decide))]
  simp [decodeSys, needZero, needNumber, encB_0_7, encB_7_5, encB_12_5, encB_17_3, encB_20_12, encB_20_6, encB_26_6, encB_20_3, encB_23_9, field_shift_high, field_shift_low, field_fence_high, field_fence_low]

theorem sysWr (num : BitVec 12) (a : Reg) : Statement (.sysWr num a) := by
  refine of_word rfl (by rw [encB_0_7]; decide) (by rw [encB_0_7]; decide) fun _ => ?_
  rw [decodeWord, if_neg (ne_zero_of_major (by rw [encB_0_7]; decide))]
  simp [decodeSys, needZero, needNumber, encB_0_7, encB_7_5, encB_12_5, encB_17_3, encB_20_12, encB_20_6, encB_26_6, encB_20_3, encB_23_9, field_shift_high, field_shift_low, field_fence_high, field_fence_low]

theorem sysSet (d : Reg) (num : BitVec 12) (a : Reg) : Statement (.sysSet d num a) := by
  refine of_word rfl (by rw [encB_0_7]; decide) (by rw [encB_0_7]; decide) fun _ => ?_
  rw [decodeWord, if_neg (ne_zero_of_major (by rw [encB_0_7]; decide))]
  simp [decodeSys, needZero, needNumber, encB_0_7, encB_7_5, encB_12_5, encB_17_3, encB_20_12, encB_20_6, encB_26_6, encB_20_3, encB_23_9, field_shift_high, field_shift_low, field_fence_high, field_fence_low]

theorem sysClr (d : Reg) (num : BitVec 12) (a : Reg) : Statement (.sysClr d num a) := by
  refine of_word rfl (by rw [encB_0_7]; decide) (by rw [encB_0_7]; decide) fun _ => ?_
  rw [decodeWord, if_neg (ne_zero_of_major (by rw [encB_0_7]; decide))]
  simp [decodeSys, needZero, needNumber, encB_0_7, encB_7_5, encB_12_5, encB_17_3, encB_20_12, encB_20_6, encB_26_6, encB_20_3, encB_23_9, field_shift_high, field_shift_low, field_fence_high, field_fence_low]

theorem trap (imm : BitVec 12) : Statement (.trap imm) := by
  refine of_word rfl (by rw [encB_0_7]; decide) (by rw [encB_0_7]; decide) fun _ => ?_
  rw [decodeWord, if_neg (ne_zero_of_major (by rw [encB_0_7]; decide))]
  simp [decodeSys, needZero, needNumber, encB_0_7, encB_7_5, encB_12_5, encB_17_3, encB_20_12, encB_20_6, encB_26_6, encB_20_3, encB_23_9, field_shift_high, field_shift_low, field_fence_high, field_fence_low]

theorem eret : Statement .eret := by
  refine of_word rfl (by rw [encB_0_7]; decide) (by rw [encB_0_7]; decide) fun _ => ?_
  rw [decodeWord, if_neg (ne_zero_of_major (by rw [encB_0_7]; decide))]
  simp [decodeSys, needZero, needNumber, encB_0_7, encB_7_5, encB_12_5, encB_17_3, encB_20_12, encB_20_6, encB_26_6, encB_20_3, encB_23_9, field_shift_high, field_shift_low, field_fence_high, field_fence_low]

theorem wfi : Statement .wfi := by
  refine of_word rfl (by rw [encB_0_7]; decide) (by rw [encB_0_7]; decide) fun _ => ?_
  rw [decodeWord, if_neg (ne_zero_of_major (by rw [encB_0_7]; decide))]
  simp [decodeSys, needZero, needNumber, encB_0_7, encB_7_5, encB_12_5, encB_17_3, encB_20_12, encB_20_6, encB_26_6, encB_20_3, encB_23_9, field_shift_high, field_shift_low, field_fence_high, field_fence_low]

theorem fence (k : BitVec 3) : Statement (.fence k) := by
  refine of_word rfl (by rw [encB_0_7]; decide) (by rw [encB_0_7]; decide) fun _ => ?_
  rw [decodeWord, if_neg (ne_zero_of_major (by rw [encB_0_7]; decide))]
  simp [decodeSys, needZero, needNumber, encB_0_7, encB_7_5, encB_12_5, encB_17_3, encB_20_12, encB_20_6, encB_26_6, encB_20_3, encB_23_9, field_shift_high, field_shift_low, field_fence_high, field_fence_low]

theorem cfgLoad (a : Reg) : Statement (.cfgLoad a) := by
  refine of_word rfl (by rw [encA_0_7]; decide) (by rw [encA_0_7]; decide) fun _ => ?_
  rw [decodeWord, if_neg (ne_zero_of_major (by rw [encA_0_7]; decide))]
  simp [decodeStream, needZero, needNumber, encA_0_7, encA_7_5, encA_12_5, encA_17_5, encA_22_10]

theorem bar : Statement .bar := by
  refine of_word rfl (by rw [encA_0_7]; decide) (by rw [encA_0_7]; decide) fun _ => ?_
  rw [decodeWord, if_neg (ne_zero_of_major (by rw [encA_0_7]; decide))]
  simp [decodeStream, needZero, needNumber, encA_0_7, encA_7_5, encA_12_5, encA_17_5, encA_22_10]

theorem barCfg : Statement .barCfg := by
  refine of_word rfl (by rw [encA_0_7]; decide) (by rw [encA_0_7]; decide) fun _ => ?_
  rw [decodeWord, if_neg (ne_zero_of_major (by rw [encA_0_7]; decide))]
  simp [decodeStream, needZero, needNumber, encA_0_7, encA_7_5, encA_12_5, encA_17_5, encA_22_10]

theorem arm (sec : BitVec 5) (b : Reg) : Statement (.arm sec b) := by
  refine of_word rfl (by rw [encA_0_7]; decide) (by rw [encA_0_7]; decide) fun hw => ?_
  rw [decodeWord, if_neg (ne_zero_of_major (by rw [encA_0_7]; decide))]
  simp only [Instr.wf, decide_eq_true_eq] at hw
  simp [decodeStream, needZero, needNumber, encA_0_7, encA_7_5, encA_12_5, encA_17_5, encA_22_10, hw]

theorem drain (sec : BitVec 5) : Statement (.drain sec) := by
  refine of_word rfl (by rw [encA_0_7]; decide) (by rw [encA_0_7]; decide) fun hw => ?_
  rw [decodeWord, if_neg (ne_zero_of_major (by rw [encA_0_7]; decide))]
  simp only [Instr.wf, decide_eq_true_eq] at hw
  simp [decodeStream, needZero, needNumber, encA_0_7, encA_7_5, encA_12_5, encA_17_5, encA_22_10, hw]

theorem strmGo (sec : BitVec 5) (a : Reg) : Statement (.strmGo sec a) := by
  refine of_word rfl (by rw [encA_0_7]; decide) (by rw [encA_0_7]; decide) fun hw => ?_
  rw [decodeWord, if_neg (ne_zero_of_major (by rw [encA_0_7]; decide))]
  simp only [Instr.wf, decide_eq_true_eq] at hw
  simp [decodeStream, needZero, needNumber, encA_0_7, encA_7_5, encA_12_5, encA_17_5, encA_22_10, hw]

theorem strmCond (sec : BitVec 5) (a : Reg) (b : Reg) : Statement (.strmCond sec a b) := by
  refine of_word rfl (by rw [encA_0_7]; decide) (by rw [encA_0_7]; decide) fun hw => ?_
  rw [decodeWord, if_neg (ne_zero_of_major (by rw [encA_0_7]; decide))]
  simp only [Instr.wf, decide_eq_true_eq] at hw
  simp [decodeStream, needZero, needNumber, encA_0_7, encA_7_5, encA_12_5, encA_17_5, encA_22_10, hw]

/-- The bytes of one word, then more. -/
theorem ofLeBytes_leBytes4 (w : BitVec 32) (rest : List (BitVec 8)) :
    ofLeBytes (leBytes w 4 ++ rest) = w.toNat + 2 ^ 32 * ofLeBytes rest := by
  have hw := w.isLt
  simp only [leBytes, List.range, List.range.loop, List.map, List.cons_append, List.nil_append, ofLeBytes,
    BitVec.extractLsb'_toNat, Nat.shiftRight_eq_div_pow]
  omega

/-- The eight words of a 256-bit word. -/
def nestWords (W : BitVec 256) : List (BitVec 32) := (List.range 8).map fun k => field W (32 * k) 32

/-- The bytes of the eight words give the whole back. -/
theorem wordAt_nestWords (W : BitVec 256) (rest : List (BitVec 8)) :
    wordAt ((nestWords W).flatMap (fun w => leBytes w 4) ++ rest) 256 32 = W := by
  have h : ((nestWords W).flatMap (fun w => leBytes w 4) ++ rest).take 32 =
      (nestWords W).flatMap fun w => leBytes w 4 := by
    simp [nestWords, List.range, List.range.loop, leBytes]
  unfold wordAt
  rw [h]
  apply BitVec.eq_of_toNat_eq
  have hW := W.isLt
  simp only [nestWords, List.range, List.range.loop, List.map, List.flatMap_cons, List.flatMap_nil,
    ofLeBytes_leBytes4, ofLeBytes, field, BitVec.extractLsb'_toNat, BitVec.toNat_ofNat, Nat.shiftRight_eq_div_pow]
  omega

/-- The first word of a 256-bit word. -/
theorem wordAt_nestWords_first (W : BitVec 256) (rest : List (BitVec 8)) :
    wordAt ((nestWords W).flatMap (fun w => leBytes w 4) ++ rest) 32 4 = field W 0 32 := by
  simp only [nestWords, List.range, List.range.loop, List.map, List.flatMap_cons, List.append_assoc]
  exact wordAt_leBytes4 _ _

/-- A Format N word decodes by its 256 bits. -/
theorem decode_nestWords (W : BitVec 256) (rest : List (BitVec 8)) (h : (field (field W 0 32) 0 7).toNat = 0x11) :
    decode ((nestWords W).flatMap (fun w => leBytes w 4) ++ rest) = (decodeNest W).map fun i => (i, 32) := by
  have hn : ((nestWords W).flatMap (fun w => leBytes w 4) ++ rest).length = 32 + rest.length := by
    simp [nestWords, List.range, List.range.loop, leBytes]
    omega
  unfold decode
  rw [if_neg (by omega)]
  dsimp only
  rw [wordAt_nestWords_first, wordAt_nestWords]
  split
  · omega
  · rw [if_neg (by omega)]
  · exact absurd h ‹_›

/-- Fields of a field. -/
theorem field_field {m n : Nat} (x : BitVec m) (lo k : Nat) (h : lo + k ≤ n) : field (field x 0 n) lo k = field x lo k := by
  ext i hi
  simp [field, show lo + i < n by omega]

theorem bit1_eq_one (b : Bool) : decide (bit1 b = 1) = b := by cases b <;> rfl

/-- The low word of an encoded `nest`. -/
theorem encNest_low (w : NestWord) (lo k : Nat) (h : lo + k ≤ 32) :
    field (encNest w) lo k = field ((0 : BitVec 1) ++ bit1 w.bs ++ bit1 w.as ++ bit1 w.ds ++ bit1 w.acc ++ w.rm ++
      BitVec.ofNat 3 (w.lv.length - 1) ++ w.xb ++ w.xa ++ w.xd ++ (0x11 : BitVec 7)) lo k :=
  field_append_low _ _ _ _ h

theorem encNest_0_7 (w : NestWord) : field (encNest w) 0 7 = 0x11 := by
  rw [encNest_low _ _ _ (by decide)]
  simp (disch := decide) only [field_append_low, field_append_high, field_all, Nat.sub_self, Nat.reduceSub]

theorem encNest_7_5 (w : NestWord) : field (encNest w) 7 5 = w.xd := by
  rw [encNest_low _ _ _ (by decide)]
  simp (disch := decide) only [field_append_low, field_append_high, field_all, Nat.sub_self, Nat.reduceSub]

theorem encNest_12_5 (w : NestWord) : field (encNest w) 12 5 = w.xa := by
  rw [encNest_low _ _ _ (by decide)]
  simp (disch := decide) only [field_append_low, field_append_high, field_all, Nat.sub_self, Nat.reduceSub]

theorem encNest_17_5 (w : NestWord) : field (encNest w) 17 5 = w.xb := by
  rw [encNest_low _ _ _ (by decide)]
  simp (disch := decide) only [field_append_low, field_append_high, field_all, Nat.sub_self, Nat.reduceSub]

theorem encNest_22_3 (w : NestWord) : field (encNest w) 22 3 = BitVec.ofNat 3 (w.lv.length - 1) := by
  rw [encNest_low _ _ _ (by decide)]
  simp (disch := decide) only [field_append_low, field_append_high, field_all, Nat.sub_self, Nat.reduceSub]

theorem encNest_25_2 (w : NestWord) : field (encNest w) 25 2 = w.rm := by
  rw [encNest_low _ _ _ (by decide)]
  simp (disch := decide) only [field_append_low, field_append_high, field_all, Nat.sub_self, Nat.reduceSub]

theorem encNest_27_1 (w : NestWord) : field (encNest w) 27 1 = bit1 w.acc := by
  rw [encNest_low _ _ _ (by decide)]
  simp (disch := decide) only [field_append_low, field_append_high, field_all, Nat.sub_self, Nat.reduceSub]

theorem encNest_28_1 (w : NestWord) : field (encNest w) 28 1 = bit1 w.ds := by
  rw [encNest_low _ _ _ (by decide)]
  simp (disch := decide) only [field_append_low, field_append_high, field_all, Nat.sub_self, Nat.reduceSub]

theorem encNest_29_1 (w : NestWord) : field (encNest w) 29 1 = bit1 w.as := by
  rw [encNest_low _ _ _ (by decide)]
  simp (disch := decide) only [field_append_low, field_append_high, field_all, Nat.sub_self, Nat.reduceSub]

theorem encNest_30_1 (w : NestWord) : field (encNest w) 30 1 = bit1 w.bs := by
  rw [encNest_low _ _ _ (by decide)]
  simp (disch := decide) only [field_append_low, field_append_high, field_all, Nat.sub_self, Nat.reduceSub]

theorem encNest_31_1 (w : NestWord) : field (encNest w) 31 1 = 0 := by
  rw [encNest_low _ _ _ (by decide)]
  simp (disch := decide) only [field_append_low, field_append_high, field_all, Nat.sub_self, Nat.reduceSub]

theorem encNest_32_8 (w : NestWord) : field (encNest w) 32 8 = w.op := by
  simp (disch := decide) only [encNest, encStrides, field_append_low, field_append_high, field_all, Nat.sub_self, Nat.reduceSub]

theorem encNest_40_3 (w : NestWord) : field (encNest w) 40 3 = w.rl := by
  simp (disch := decide) only [encNest, encStrides, field_append_low, field_append_high, field_all, Nat.sub_self, Nat.reduceSub]

theorem encNest_43_1 (w : NestWord) : field (encNest w) 43 1 = bit1 w.sat := by
  simp (disch := decide) only [encNest, encStrides, field_append_low, field_append_high, field_all, Nat.sub_self, Nat.reduceSub]

theorem encNest_44_1 (w : NestWord) : field (encNest w) 44 1 = bit1 w.scan := by
  simp (disch := decide) only [encNest, encStrides, field_append_low, field_append_high, field_all, Nat.sub_self, Nat.reduceSub]

theorem encNest_45_3 (w : NestWord) : field (encNest w) 45 3 = 0 := by
  simp (disch := decide) only [encNest, encStrides, field_append_low, field_append_high, field_all, Nat.sub_self, Nat.reduceSub]

theorem encNest_248_8 (w : NestWord) : field (encNest w) 248 8 = 0 := by
  simp (disch := decide) only [encNest, encStrides, field_append_low, field_append_high, field_all, Nat.sub_self, Nat.reduceSub]

theorem encNest_48_10 (w : NestWord) : field (encNest w) 48 10 = (levelOr w.lv 0).ext := by
  simp (disch := decide) only [encNest, encStrides, field_append_low, field_append_high, field_all, Nat.sub_self, Nat.reduceSub]

theorem encNest_98_10 (w : NestWord) : field (encNest w) 98 10 = (levelOr w.lv 0).sd := by
  simp (disch := decide) only [encNest, encStrides, field_append_low, field_append_high, field_all, Nat.sub_self, Nat.reduceSub]

theorem encNest_108_10 (w : NestWord) : field (encNest w) 108 10 = (levelOr w.lv 0).sa := by
  simp (disch := decide) only [encNest, encStrides, field_append_low, field_append_high, field_all, Nat.sub_self, Nat.reduceSub]

theorem encNest_118_10 (w : NestWord) : field (encNest w) 118 10 = (levelOr w.lv 0).sb := by
  simp (disch := decide) only [encNest, encStrides, field_append_low, field_append_high, field_all, Nat.sub_self, Nat.reduceSub]

theorem encNest_58_10 (w : NestWord) : field (encNest w) 58 10 = (levelOr w.lv 1).ext := by
  simp (disch := decide) only [encNest, encStrides, field_append_low, field_append_high, field_all, Nat.sub_self, Nat.reduceSub]

theorem encNest_128_10 (w : NestWord) : field (encNest w) 128 10 = (levelOr w.lv 1).sd := by
  simp (disch := decide) only [encNest, encStrides, field_append_low, field_append_high, field_all, Nat.sub_self, Nat.reduceSub]

theorem encNest_138_10 (w : NestWord) : field (encNest w) 138 10 = (levelOr w.lv 1).sa := by
  simp (disch := decide) only [encNest, encStrides, field_append_low, field_append_high, field_all, Nat.sub_self, Nat.reduceSub]

theorem encNest_148_10 (w : NestWord) : field (encNest w) 148 10 = (levelOr w.lv 1).sb := by
  simp (disch := decide) only [encNest, encStrides, field_append_low, field_append_high, field_all, Nat.sub_self, Nat.reduceSub]

theorem encNest_68_10 (w : NestWord) : field (encNest w) 68 10 = (levelOr w.lv 2).ext := by
  simp (disch := decide) only [encNest, encStrides, field_append_low, field_append_high, field_all, Nat.sub_self, Nat.reduceSub]

theorem encNest_158_10 (w : NestWord) : field (encNest w) 158 10 = (levelOr w.lv 2).sd := by
  simp (disch := decide) only [encNest, encStrides, field_append_low, field_append_high, field_all, Nat.sub_self, Nat.reduceSub]

theorem encNest_168_10 (w : NestWord) : field (encNest w) 168 10 = (levelOr w.lv 2).sa := by
  simp (disch := decide) only [encNest, encStrides, field_append_low, field_append_high, field_all, Nat.sub_self, Nat.reduceSub]

theorem encNest_178_10 (w : NestWord) : field (encNest w) 178 10 = (levelOr w.lv 2).sb := by
  simp (disch := decide) only [encNest, encStrides, field_append_low, field_append_high, field_all, Nat.sub_self, Nat.reduceSub]

theorem encNest_78_10 (w : NestWord) : field (encNest w) 78 10 = (levelOr w.lv 3).ext := by
  simp (disch := decide) only [encNest, encStrides, field_append_low, field_append_high, field_all, Nat.sub_self, Nat.reduceSub]

theorem encNest_188_10 (w : NestWord) : field (encNest w) 188 10 = (levelOr w.lv 3).sd := by
  simp (disch := decide) only [encNest, encStrides, field_append_low, field_append_high, field_all, Nat.sub_self, Nat.reduceSub]

theorem encNest_198_10 (w : NestWord) : field (encNest w) 198 10 = (levelOr w.lv 3).sa := by
  simp (disch := decide) only [encNest, encStrides, field_append_low, field_append_high, field_all, Nat.sub_self, Nat.reduceSub]

theorem encNest_208_10 (w : NestWord) : field (encNest w) 208 10 = (levelOr w.lv 3).sb := by
  simp (disch := decide) only [encNest, encStrides, field_append_low, field_append_high, field_all, Nat.sub_self, Nat.reduceSub]

theorem encNest_88_10 (w : NestWord) : field (encNest w) 88 10 = (levelOr w.lv 4).ext := by
  simp (disch := decide) only [encNest, encStrides, field_append_low, field_append_high, field_all, Nat.sub_self, Nat.reduceSub]

theorem encNest_218_10 (w : NestWord) : field (encNest w) 218 10 = (levelOr w.lv 4).sd := by
  simp (disch := decide) only [encNest, encStrides, field_append_low, field_append_high, field_all, Nat.sub_self, Nat.reduceSub]

theorem encNest_228_10 (w : NestWord) : field (encNest w) 228 10 = (levelOr w.lv 4).sa := by
  simp (disch := decide) only [encNest, encStrides, field_append_low, field_append_high, field_all, Nat.sub_self, Nat.reduceSub]

theorem encNest_238_10 (w : NestWord) : field (encNest w) 238 10 = (levelOr w.lv 4).sb := by
  simp (disch := decide) only [encNest, encStrides, field_append_low, field_append_high, field_all, Nat.sub_self, Nat.reduceSub]

/-- The levels of an encoded `nest`. -/
theorem nestLevel_encNest (w : NestWord) (k : Nat) (h : k < 5) : nestLevel (encNest w) k = levelOr w.lv k := by
  match k, h with
  | 0, _ => simp only [nestLevel, Nat.mul_zero, Nat.add_zero, encNest_48_10, encNest_98_10, encNest_108_10, encNest_118_10]
  | 1, _ => simp only [nestLevel, Nat.reduceMul, Nat.reduceAdd, encNest_58_10, encNest_128_10, encNest_138_10, encNest_148_10]
  | 2, _ => simp only [nestLevel, Nat.reduceMul, Nat.reduceAdd, encNest_68_10, encNest_158_10, encNest_168_10, encNest_178_10]
  | 3, _ => simp only [nestLevel, Nat.reduceMul, Nat.reduceAdd, encNest_78_10, encNest_188_10, encNest_198_10, encNest_208_10]
  | 4, _ => simp only [nestLevel, Nat.reduceMul, Nat.reduceAdd, encNest_88_10, encNest_218_10, encNest_228_10, encNest_238_10]

/-- Levels at and above the count are zeros. -/
theorem levelOr_beyond {l : List NestLevel} {k : Nat} (h : l.length ≤ k) : levelOr l k = ⟨0, 0, 0, 0⟩ := by
  simp [levelOr, h]

/-- The levels below the count are those of the list. -/
theorem map_levelOr (l : List NestLevel) : (List.range l.length).map (levelOr l) = l := by
  apply List.ext_getElem
  · simp
  · intro i h1 h2
    simp [levelOr, h2]

theorem decodeNest_encNest (w : NestWord) (hw : w.wf = true) : decodeNest (encNest w) = .ok (.nest w) := by
  simp only [NestWord.wf, Bool.and_eq_true, decide_eq_true_eq] at hw
  obtain ⟨⟨h1, h5⟩, hrl⟩ := hw
  have hn : (BitVec.ofNat 3 (w.lv.length - 1)).toNat + 1 = w.lv.length := by
    rw [BitVec.toNat_ofNat]; omega
  have hz : ((List.range 5).drop w.lv.length).any (fun k => nestLevel (encNest w) k ≠ ⟨0, 0, 0, 0⟩) = false := by
    rw [List.any_eq_false]
    intro k hk
    obtain ⟨j, hj, rfl⟩ := List.getElem_of_mem hk
    simp only [List.length_drop, List.length_range] at hj
    simp only [List.getElem_drop, List.getElem_range]
    rw [nestLevel_encNest w _ (by omega), levelOr_beyond (by omega)]
    decide
  have hm : (List.range w.lv.length).map (nestLevel (encNest w)) = w.lv := by
    refine Eq.trans (List.map_congr_left ?_) (map_levelOr w.lv)
    intro k hk
    exact nestLevel_encNest w k (by have := List.mem_range.mp hk; omega)
  unfold decodeNest
  simp only [encNest_22_3, hn]
  rw [if_neg (by omega), if_neg (by simp [encNest_31_1, encNest_45_3, encNest_248_8]), hz]
  rw [if_neg (by decide), encNest_40_3, if_neg (by omega), hm]
  simp only [encNest_7_5, encNest_12_5, encNest_17_5, encNest_25_2, encNest_27_1, encNest_28_1, encNest_29_1, encNest_30_1,
    encNest_32_8, encNest_40_3, encNest_43_1, encNest_44_1, bit1_eq_one]

theorem nest (w : NestWord) : Statement (.nest w) := by
  intro hw bs hb rest
  have he : encodeBytes (.nest w) = some ((nestWords (encNest w)).flatMap fun x => leBytes x 4) := rfl
  rw [he, Option.some.injEq] at hb
  subst hb
  have hl : ((nestWords (encNest w)).flatMap fun x => leBytes x 4).length = 32 := by
    simp [nestWords, List.range, List.range.loop, leBytes]
  have h11 : (field (field (encNest w) 0 32) 0 7).toNat = 0x11 := by
    rw [field_field _ _ _ (by decide), encNest_0_7]; rfl
  rw [decode_nestWords _ _ h11, hl, decodeNest_encNest w hw]
  rfl

theorem tcopy (tl : BitVec 5) (a : Reg) : Statement (.tcopy tl a) := by
  refine of_word rfl (by rw [encA_0_7]; decide) (by rw [encA_0_7]; decide) fun hw => ?_
  rw [decodeWord, if_neg (ne_zero_of_major (by rw [encA_0_7]; decide))]
  simp only [Instr.wf, decide_eq_true_eq] at hw
  simp [decodeCopy, needZero, needNumber, encA_0_7, encA_7_5, encA_12_5, encA_17_5, encA_22_10, hw]

theorem tcopyDmd (tl : BitVec 5) (a : Reg) : Statement (.tcopyDmd tl a) := by
  refine of_word rfl (by rw [encA_0_7]; decide) (by rw [encA_0_7]; decide) fun hw => ?_
  rw [decodeWord, if_neg (ne_zero_of_major (by rw [encA_0_7]; decide))]
  simp only [Instr.wf, decide_eq_true_eq] at hw
  simp [decodeCopy, needZero, needNumber, encA_0_7, encA_7_5, encA_12_5, encA_17_5, encA_22_10, hw]

theorem tcopyCancel (d : Reg) (tl : BitVec 5) : Statement (.tcopyCancel d tl) := by
  refine of_word rfl (by rw [encA_0_7]; decide) (by rw [encA_0_7]; decide) fun hw => ?_
  rw [decodeWord, if_neg (ne_zero_of_major (by rw [encA_0_7]; decide))]
  simp only [Instr.wf, decide_eq_true_eq] at hw
  simp [decodeCopy, needZero, needNumber, encA_0_7, encA_7_5, encA_12_5, encA_17_5, encA_22_10, hw]

theorem tlWait (tl : BitVec 5) (b : Reg) : Statement (.tlWait tl b) := by
  refine of_word rfl (by rw [encA_0_7]; decide) (by rw [encA_0_7]; decide) fun hw => ?_
  rw [decodeWord, if_neg (ne_zero_of_major (by rw [encA_0_7]; decide))]
  simp only [Instr.wf, decide_eq_true_eq] at hw
  simp [decodeTimeline, needZero, needNumber, encA_0_7, encA_7_5, encA_12_5, encA_17_5, encA_22_10, hw]

theorem tlRead (d : Reg) (tl : BitVec 5) : Statement (.tlRead d tl) := by
  refine of_word rfl (by rw [encA_0_7]; decide) (by rw [encA_0_7]; decide) fun hw => ?_
  rw [decodeWord, if_neg (ne_zero_of_major (by rw [encA_0_7]; decide))]
  simp only [Instr.wf, decide_eq_true_eq] at hw
  simp [decodeTimeline, needZero, needNumber, encA_0_7, encA_7_5, encA_12_5, encA_17_5, encA_22_10, hw]

theorem tlAdv (tl : BitVec 5) (b : Reg) : Statement (.tlAdv tl b) := by
  refine of_word rfl (by rw [encA_0_7]; decide) (by rw [encA_0_7]; decide) fun hw => ?_
  rw [decodeWord, if_neg (ne_zero_of_major (by rw [encA_0_7]; decide))]
  simp only [Instr.wf, decide_eq_true_eq] at hw
  simp [decodeTimeline, needZero, needNumber, encA_0_7, encA_7_5, encA_12_5, encA_17_5, encA_22_10, hw]

theorem spawn (a : Reg) : Statement (.spawn a) := by
  refine of_word rfl (by rw [encA_0_7]; decide) (by rw [encA_0_7]; decide) fun _ => ?_
  rw [decodeWord, if_neg (ne_zero_of_major (by rw [encA_0_7]; decide))]
  simp [decodeTask, needZero, needNumber, encA_0_7, encA_7_5, encA_12_5, encA_17_5, encA_22_10]

theorem spawnj (a : Reg) (b : Reg) : Statement (.spawnj a b) := by
  refine of_word rfl (by rw [encA_0_7]; decide) (by rw [encA_0_7]; decide) fun _ => ?_
  rw [decodeWord, if_neg (ne_zero_of_major (by rw [encA_0_7]; decide))]
  simp [decodeTask, needZero, needNumber, encA_0_7, encA_7_5, encA_12_5, encA_17_5, encA_22_10]

theorem done : Statement .done := by
  refine of_word rfl (by rw [encA_0_7]; decide) (by rw [encA_0_7]; decide) fun _ => ?_
  rw [decodeWord, if_neg (ne_zero_of_major (by rw [encA_0_7]; decide))]
  simp [decodeTask, needZero, needNumber, encA_0_7, encA_7_5, encA_12_5, encA_17_5, encA_22_10]

theorem yield : Statement .yield := by
  refine of_word rfl (by rw [encA_0_7]; decide) (by rw [encA_0_7]; decide) fun _ => ?_
  rw [decodeWord, if_neg (ne_zero_of_major (by rw [encA_0_7]; decide))]
  simp [decodeTask, needZero, needNumber, encA_0_7, encA_7_5, encA_12_5, encA_17_5, encA_22_10]

theorem abort (a : Reg) : Statement (.abort a) := by
  refine of_word rfl (by rw [encA_0_7]; decide) (by rw [encA_0_7]; decide) fun _ => ?_
  rw [decodeWord, if_neg (ne_zero_of_major (by rw [encA_0_7]; decide))]
  simp [decodeTask, needZero, needNumber, encA_0_7, encA_7_5, encA_12_5, encA_17_5, encA_22_10]

theorem tskSelf (d : Reg) : Statement (.tskSelf d) := by
  refine of_word rfl (by rw [encA_0_7]; decide) (by rw [encA_0_7]; decide) fun _ => ?_
  rw [decodeWord, if_neg (ne_zero_of_major (by rw [encA_0_7]; decide))]
  simp [decodeTask, needZero, needNumber, encA_0_7, encA_7_5, encA_12_5, encA_17_5, encA_22_10]

theorem tskTs (d : Reg) : Statement (.tskTs d) := by
  refine of_word rfl (by rw [encA_0_7]; decide) (by rw [encA_0_7]; decide) fun _ => ?_
  rw [decodeWord, if_neg (ne_zero_of_major (by rw [encA_0_7]; decide))]
  simp [decodeTask, needZero, needNumber, encA_0_7, encA_7_5, encA_12_5, encA_17_5, encA_22_10]

theorem chgAdd (d : Reg) (a : Reg) (b : Reg) : Statement (.chgAdd d a b) := by
  refine of_word rfl (by rw [encA_0_7]; decide) (by rw [encA_0_7]; decide) fun _ => ?_
  rw [decodeWord, if_neg (ne_zero_of_major (by rw [encA_0_7]; decide))]
  simp [decodeCharge, needZero, needNumber, encA_0_7, encA_7_5, encA_12_5, encA_17_5, encA_22_10]

theorem chgRead (d : Reg) (a : Reg) : Statement (.chgRead d a) := by
  refine of_word rfl (by rw [encA_0_7]; decide) (by rw [encA_0_7]; decide) fun _ => ?_
  rw [decodeWord, if_neg (ne_zero_of_major (by rw [encA_0_7]; decide))]
  simp [decodeCharge, needZero, needNumber, encA_0_7, encA_7_5, encA_12_5, encA_17_5, encA_22_10]

theorem chgLow (d : Reg) (a : Reg) : Statement (.chgLow d a) := by
  refine of_word rfl (by rw [encA_0_7]; decide) (by rw [encA_0_7]; decide) fun _ => ?_
  rw [decodeWord, if_neg (ne_zero_of_major (by rw [encA_0_7]; decide))]
  simp [decodeCharge, needZero, needNumber, encA_0_7, encA_7_5, encA_12_5, encA_17_5, encA_22_10]

theorem chgHold (d : Reg) (a : Reg) : Statement (.chgHold d a) := by
  refine of_word rfl (by rw [encA_0_7]; decide) (by rw [encA_0_7]; decide) fun _ => ?_
  rw [decodeWord, if_neg (ne_zero_of_major (by rw [encA_0_7]; decide))]
  simp [decodeCharge, needZero, needNumber, encA_0_7, encA_7_5, encA_12_5, encA_17_5, encA_22_10]

theorem chgSelf (d : Reg) : Statement (.chgSelf d) := by
  refine of_word rfl (by rw [encA_0_7]; decide) (by rw [encA_0_7]; decide) fun _ => ?_
  rw [decodeWord, if_neg (ne_zero_of_major (by rw [encA_0_7]; decide))]
  simp [decodeCharge, needZero, needNumber, encA_0_7, encA_7_5, encA_12_5, encA_17_5, encA_22_10]

theorem chOpen (d : Reg) (a : Reg) : Statement (.chOpen d a) := by
  refine of_word rfl (by rw [encA_0_7]; decide) (by rw [encA_0_7]; decide) fun _ => ?_
  rw [decodeWord, if_neg (ne_zero_of_major (by rw [encA_0_7]; decide))]
  simp [decodeChannel, needZero, needNumber, encA_0_7, encA_7_5, encA_12_5, encA_17_5, encA_22_10]

theorem chPushW (a : Reg) (b : Reg) : Statement (.chPushW a b) := by
  refine of_word rfl (by rw [encA_0_7]; decide) (by rw [encA_0_7]; decide) fun _ => ?_
  rw [decodeWord, if_neg (ne_zero_of_major (by rw [encA_0_7]; decide))]
  simp [decodeChannel, needZero, needNumber, encA_0_7, encA_7_5, encA_12_5, encA_17_5, encA_22_10]

theorem chPushD (a : Reg) (b : Reg) : Statement (.chPushD a b) := by
  refine of_word rfl (by rw [encA_0_7]; decide) (by rw [encA_0_7]; decide) fun _ => ?_
  rw [decodeWord, if_neg (ne_zero_of_major (by rw [encA_0_7]; decide))]
  simp [decodeChannel, needZero, needNumber, encA_0_7, encA_7_5, encA_12_5, encA_17_5, encA_22_10]

theorem chPopW (d : Reg) (a : Reg) : Statement (.chPopW d a) := by
  refine of_word rfl (by rw [encA_0_7]; decide) (by rw [encA_0_7]; decide) fun _ => ?_
  rw [decodeWord, if_neg (ne_zero_of_major (by rw [encA_0_7]; decide))]
  simp [decodeChannel, needZero, needNumber, encA_0_7, encA_7_5, encA_12_5, encA_17_5, encA_22_10]

theorem chPopD (d : Reg) (a : Reg) (b : Reg) : Statement (.chPopD d a b) := by
  refine of_word rfl (by rw [encA_0_7]; decide) (by rw [encA_0_7]; decide) fun _ => ?_
  rw [decodeWord, if_neg (ne_zero_of_major (by rw [encA_0_7]; decide))]
  simp [decodeChannel, needZero, needNumber, encA_0_7, encA_7_5, encA_12_5, encA_17_5, encA_22_10]

theorem chPeek (d : Reg) (a : Reg) : Statement (.chPeek d a) := by
  refine of_word rfl (by rw [encA_0_7]; decide) (by rw [encA_0_7]; decide) fun _ => ?_
  rw [decodeWord, if_neg (ne_zero_of_major (by rw [encA_0_7]; decide))]
  simp [decodeChannel, needZero, needNumber, encA_0_7, encA_7_5, encA_12_5, encA_17_5, encA_22_10]

theorem chClose (d : Reg) (a : Reg) : Statement (.chClose d a) := by
  refine of_word rfl (by rw [encA_0_7]; decide) (by rw [encA_0_7]; decide) fun _ => ?_
  rw [decodeWord, if_neg (ne_zero_of_major (by rw [encA_0_7]; decide))]
  simp [decodeChannel, needZero, needNumber, encA_0_7, encA_7_5, encA_12_5, encA_17_5, encA_22_10]

theorem chStat (d : Reg) (a : Reg) : Statement (.chStat d a) := by
  refine of_word rfl (by rw [encA_0_7]; decide) (by rw [encA_0_7]; decide) fun _ => ?_
  rw [decodeWord, if_neg (ne_zero_of_major (by rw [encA_0_7]; decide))]
  simp [decodeChannel, needZero, needNumber, encA_0_7, encA_7_5, encA_12_5, encA_17_5, encA_22_10]

theorem chBind (d : Reg) (a : Reg) (b : Reg) : Statement (.chBind d a b) := by
  refine of_word rfl (by rw [encA_0_7]; decide) (by rw [encA_0_7]; decide) fun _ => ?_
  rw [decodeWord, if_neg (ne_zero_of_major (by rw [encA_0_7]; decide))]
  simp [decodeChannel, needZero, needNumber, encA_0_7, encA_7_5, encA_12_5, encA_17_5, encA_22_10]

theorem mxFmt (sec : BitVec 5) (a : Reg) (b : Reg) : Statement (.mxFmt sec a b) := by
  refine of_word rfl (by rw [encA_0_7]; decide) (by rw [encA_0_7]; decide) fun hw => ?_
  rw [decodeWord, if_neg (ne_zero_of_major (by rw [encA_0_7]; decide))]
  simp only [Instr.wf, decide_eq_true_eq] at hw
  simp [decodeMatrix, needZero, needNumber, encA_0_7, encA_7_5, encA_12_5, encA_17_5, encA_22_10, hw]

theorem mxLds (a : Reg) (b : Reg) : Statement (.mxLds a b) := by
  refine of_word rfl (by rw [encA_0_7]; decide) (by rw [encA_0_7]; decide) fun _ => ?_
  rw [decodeWord, if_neg (ne_zero_of_major (by rw [encA_0_7]; decide))]
  simp [decodeMatrix, needZero, needNumber, encA_0_7, encA_7_5, encA_12_5, encA_17_5, encA_22_10]

theorem mxSwap (a : Reg) : Statement (.mxSwap a) := by
  refine of_word rfl (by rw [encA_0_7]; decide) (by rw [encA_0_7]; decide) fun _ => ?_
  rw [decodeWord, if_neg (ne_zero_of_major (by rw [encA_0_7]; decide))]
  simp [decodeMatrix, needZero, needNumber, encA_0_7, encA_7_5, encA_12_5, encA_17_5, encA_22_10]

theorem mxArm (sec : BitVec 5) (a : Reg) (b : Reg) : Statement (.mxArm sec a b) := by
  refine of_word rfl (by rw [encA_0_7]; decide) (by rw [encA_0_7]; decide) fun hw => ?_
  rw [decodeWord, if_neg (ne_zero_of_major (by rw [encA_0_7]; decide))]
  simp only [Instr.wf, decide_eq_true_eq] at hw
  simp [decodeMatrix, needZero, needNumber, encA_0_7, encA_7_5, encA_12_5, encA_17_5, encA_22_10, hw]

theorem mxGroup (a : Reg) (b : Reg) : Statement (.mxGroup a b) := by
  refine of_word rfl (by rw [encA_0_7]; decide) (by rw [encA_0_7]; decide) fun _ => ?_
  rw [decodeWord, if_neg (ne_zero_of_major (by rw [encA_0_7]; decide))]
  simp [decodeMatrix, needZero, needNumber, encA_0_7, encA_7_5, encA_12_5, encA_17_5, encA_22_10]

theorem mxCsr (a : Reg) (b : Reg) : Statement (.mxCsr a b) := by
  refine of_word rfl (by rw [encA_0_7]; decide) (by rw [encA_0_7]; decide) fun _ => ?_
  rw [decodeWord, if_neg (ne_zero_of_major (by rw [encA_0_7]; decide))]
  simp [decodeMatrix, needZero, needNumber, encA_0_7, encA_7_5, encA_12_5, encA_17_5, encA_22_10]

theorem mxCond (a : Reg) (b : Reg) : Statement (.mxCond a b) := by
  refine of_word rfl (by rw [encA_0_7]; decide) (by rw [encA_0_7]; decide) fun _ => ?_
  rw [decodeWord, if_neg (ne_zero_of_major (by rw [encA_0_7]; decide))]
  simp [decodeMatrix, needZero, needNumber, encA_0_7, encA_7_5, encA_12_5, encA_17_5, encA_22_10]

theorem mxStat (d : Reg) (a : Reg) : Statement (.mxStat d a) := by
  refine of_word rfl (by rw [encA_0_7]; decide) (by rw [encA_0_7]; decide) fun _ => ?_
  rw [decodeWord, if_neg (ne_zero_of_major (by rw [encA_0_7]; decide))]
  simp [decodeMatrix, needZero, needNumber, encA_0_7, encA_7_5, encA_12_5, encA_17_5, encA_22_10]

theorem mxClr (a : Reg) : Statement (.mxClr a) := by
  refine of_word rfl (by rw [encA_0_7]; decide) (by rw [encA_0_7]; decide) fun _ => ?_
  rw [decodeWord, if_neg (ne_zero_of_major (by rw [encA_0_7]; decide))]
  simp [decodeMatrix, needZero, needNumber, encA_0_7, encA_7_5, encA_12_5, encA_17_5, encA_22_10]

theorem notificationWrite (die : Nat) (off : BitVec 12) (value : BitVec 32) : Statement (.notificationWrite die off value) := of_none rfl

theorem queueSlotMap (die : Nat) : Statement (.queueSlotMap die) := of_none rfl

theorem timeSliceEnd (die : Nat) (slot : Nat) : Statement (.timeSliceEnd die slot) := of_none rfl

theorem launchEntryRead (die : Nat) (slot : Nat) : Statement (.launchEntryRead die slot) := of_none rfl

theorem walkerArmDelivery (inst : Nat) (node : Nat) : Statement (.walkerArmDelivery inst node) := of_none rfl

theorem recordAging (id : Nat) : Statement (.recordAging id) := of_none rfl

theorem placementDecision (die : Nat) : Statement (.placementDecision die) := of_none rfl

theorem fundingStall (die : Nat) : Statement (.fundingStall die) := of_none rfl

theorem placementStall (die : Nat) : Statement (.placementStall die) := of_none rfl

theorem admission (h : Word) : Statement (.admission h) := of_none rfl

theorem stealRequest (die : Nat) (cluster : Nat) : Statement (.stealRequest die cluster) := of_none rfl

theorem stealWithdraw (die : Nat) (cluster : Nat) : Statement (.stealWithdraw die cluster) := of_none rfl

theorem prefixEnd (h : Word) : Statement (.prefixEnd h) := of_none rfl

theorem holdTimerExpiry (h : Word) : Statement (.holdTimerExpiry h) := of_none rfl

theorem cuFire (h : Word) (cell : Nat) : Statement (.cuFire h cell) := of_none rfl

theorem fibreUnitFire (h : Word) (cell : Nat) : Statement (.fibreUnitFire h cell) := of_none rfl

theorem joinStep (h : Word) (cell : Nat) : Statement (.joinStep h cell) := of_none rfl

theorem portalReply (h : Word) (cell : Nat) (req : Nat) (ok : Bool) (value : Word) : Statement (.portalReply h cell req ok value) := of_none rfl

theorem pmtEnter (h : Word) (cell : Nat) : Statement (.pmtEnter h cell) := of_none rfl

theorem pmtExit (h : Word) (cell : Nat) : Statement (.pmtExit h cell) := of_none rfl

theorem ctlSeq (h : Word) (cell : Nat) : Statement (.ctlSeq h cell) := of_none rfl

theorem ctlPipe (h : Word) (cell : Nat) : Statement (.ctlPipe h cell) := of_none rfl

theorem ctlStrm (h : Word) (cell : Nat) : Statement (.ctlStrm h cell) := of_none rfl

theorem barNode (h : Word) (cell : Nat) : Statement (.barNode h cell) := of_none rfl

theorem muAccess (h : Word) (cell : Nat) : Statement (.muAccess h cell) := of_none rfl

theorem affineElement (h : Word) (place : Nat) : Statement (.affineElement h place) := of_none rfl

theorem gatherRequest (h : Word) (place : Nat) : Statement (.gatherRequest h place) := of_none rfl

theorem gatherReply (h : Word) (place : Nat) (idx : Nat) : Statement (.gatherReply h place idx) := of_none rfl

theorem scatterStore (h : Word) (place : Nat) : Statement (.scatterStore h place) := of_none rfl

theorem levelExpand (h : Word) (place : Nat) : Statement (.levelExpand h place) := of_none rfl

theorem channelAgElement (h : Word) (place : Nat) : Statement (.channelAgElement h place) := of_none rfl

theorem streamGateLaunch (h : Word) (go : Nat) : Statement (.streamGateLaunch h go) := of_none rfl

theorem barRelease (h : Word) : Statement (.barRelease h) := of_none rfl

theorem nestComplete (h : Word) : Statement (.nestComplete h) := of_none rfl

theorem timelineWaitRelease (h : Word) : Statement (.timelineWaitRelease h) := of_none rfl

theorem copyLaunch (h : Word) (cluster : Nat) (n : Nat) : Statement (.copyLaunch h cluster n) := of_none rfl

theorem copyComplete (h : Word) (cluster : Nat) (n : Nat) : Statement (.copyComplete h cluster n) := of_none rfl

theorem planeLoadRun (h : Word) (k : Nat) : Statement (.planeLoadRun h k) := of_none rfl

theorem planeSwapRun (h : Word) (k : Nat) : Statement (.planeSwapRun h k) := of_none rfl

theorem matrixTile (h : Word) (k : Nat) : Statement (.matrixTile h k) := of_none rfl

theorem activationRow (h : Word) (k : Nat) : Statement (.activationRow h k) := of_none rfl

theorem matrixMigration (h : Word) (k : Nat) (move : Migration) : Statement (.matrixMigration h k move) := of_none rfl

theorem channelPushRelease (h : Word) : Statement (.channelPushRelease h) := of_none rfl

theorem channelPopRelease (h : Word) : Statement (.channelPopRelease h) := of_none rfl

theorem channelDetectorSample (die : Nat) : Statement (.channelDetectorSample die) := of_none rfl

theorem channelForward (ctx : Nat) (num : Nat) : Statement (.channelForward ctx num) := of_none rfl

theorem channelPeerAck (ctx : Nat) (ack : PeerAck) : Statement (.channelPeerAck ctx ack) := of_none rfl

theorem linkFailure (die : Nat) (port : Nat) : Statement (.linkFailure die port) := of_none rfl

theorem lockGrant (line : Nat) : Statement (.lockGrant line) := of_none rfl

theorem taskCommit (h : Word) : Statement (.taskCommit h) := of_none rfl

theorem cupboardSpaceAbort (die : Nat) (cluster : Nat) : Statement (.cupboardSpaceAbort die cluster) := of_none rfl

theorem faultRetry (die : Nat) (index : Nat) : Statement (.faultRetry die index) := of_none rfl

theorem faultFail (die : Nat) (index : Nat) : Statement (.faultFail die index) := of_none rfl

theorem hangDetect (h : Word) : Statement (.hangDetect h) := of_none rfl

theorem preemptByRecord (die : Nat) : Statement (.preemptByRecord die) := of_none rfl

theorem preemptDiscard (die : Nat) : Statement (.preemptDiscard die) := of_none rfl

theorem preemptDrop (die : Nat) : Statement (.preemptDrop die) := of_none rfl

theorem suspendShallow (discard : Bool) : Statement (.suspendShallow discard) := of_none rfl

theorem suspendDeep (discard : Bool) : Statement (.suspendDeep discard) := of_none rfl

theorem suspendWardrobe (discard : Bool) : Statement (.suspendWardrobe discard) := of_none rfl

theorem wardrobeWrite : Statement .wardrobeWrite := of_none rfl

theorem resume : Statement .resume := of_none rfl

theorem bureauTrapEntry (die : Nat) : Statement (.bureauTrapEntry die) := of_none rfl

theorem wfiWake (die : Nat) : Statement (.wfiWake die) := of_none rfl

theorem budgetRingTurn : Statement .budgetRingTurn := of_none rfl

theorem thermalSample (die : Nat) (region : Nat) (temp : BitVec 16) : Statement (.thermalSample die region temp) := of_none rfl

theorem throttleSetOne (die : Nat) (level : BitVec 3) : Statement (.throttleSetOne die level) := of_none rfl

theorem throttleSetAll (die : Nat) (level : BitVec 3) : Statement (.throttleSetAll die level) := of_none rfl

theorem timerExpiry (die : Nat) : Statement (.timerExpiry die) := of_none rfl

theorem eccEvent (die : Nat) (region : Nat) (uncorrected : Bool) (victim : Word) (sub : BitVec 2) : Statement (.eccEvent die region uncorrected victim sub) := of_none rfl

theorem tlbiPage (die : Nat) (ctx : BitVec 16) : Statement (.tlbiPage die ctx) := of_none rfl

theorem tlbiContext (die : Nat) (ctx : BitVec 16) : Statement (.tlbiContext die ctx) := of_none rfl

theorem tlbiAll (die : Nat) : Statement (.tlbiAll die) := of_none rfl

theorem tlbInvalidateComplete (die : Nat) : Statement (.tlbInvalidateComplete die) := of_none rfl

theorem homeSliceWrite (die : Nat) (value : Word) : Statement (.homeSliceWrite die value) := of_none rfl

theorem homePageMoveComplete (die : Nat) (page : Nat) : Statement (.homePageMoveComplete die page) := of_none rfl

theorem wayGate (die : Nat) (ways : BitVec 16) : Statement (.wayGate die ways) := of_none rfl

theorem wayWake (die : Nat) (ways : BitVec 16) : Statement (.wayWake die ways) := of_none rfl

theorem wayAwake (die : Nat) (cluster : Nat) (slice : Nat) (way : Nat) : Statement (.wayAwake die cluster slice way) := of_none rfl

theorem doorbellWrite (die : Nat) (value : BitVec 32) : Statement (.doorbellWrite die value) := of_none rfl

theorem doorbellRead (die : Nat) : Statement (.doorbellRead die) := of_none rfl

theorem hcwCtlWrite (window : Nat) (value : Word) : Statement (.hcwCtlWrite window value) := of_none rfl

theorem registerWrite (die : Nat) (num : BitVec 12) (value : Word) : Statement (.registerWrite die num value) := of_none rfl

theorem hostWrite (addr : Nat) (data : List Byte) : Statement (.hostWrite addr data) := of_none rfl

theorem cxlMemWrite (addr : Nat) (data : List Byte) : Statement (.cxlMemWrite addr data) := of_none rfl

theorem cxlCacheSnoop (addr : Nat) (data : Option (List Byte)) : Statement (.cxlCacheSnoop addr data) := of_none rfl

theorem ualinkWrite (target : LinkTarget) (data : List Byte) : Statement (.ualinkWrite target data) := of_none rfl

theorem hostRead (addr : Nat) (len : Nat) : Statement (.hostRead addr len) := of_none rfl

theorem powerGood : Statement .powerGood := of_none rfl

theorem bootGo : Statement .bootGo := of_none rfl

theorem stageBTimeout : Statement .stageBTimeout := of_none rfl

theorem stageBComplete (failing : Option StageFailure) : Statement (.stageBComplete failing) := of_none rfl

theorem zeroingSweep (block : Nat) : Statement (.zeroingSweep block) := of_none rfl

theorem wardrobeRestore : Statement .wardrobeRestore := of_none rfl

theorem resyncRequest (value : Word) : Statement (.resyncRequest value) := of_none rfl

theorem resyncSummaryWritten : Statement .resyncSummaryWritten := of_none rfl

theorem attestRequest (value : Word) : Statement (.attestRequest value) := of_none rfl

theorem portalTimeout (h : Word) (cell : Nat) (req : Nat) : Statement (.portalTimeout h cell req) := of_none rfl

theorem peerUnbind (ctx : Nat) (num : Nat) (ack : Bool) : Statement (.peerUnbind ctx num ack) := of_none rfl

theorem peerBindHandshake (ctx : Nat) (num : Nat) (peer : BitVec 16) (far : BitVec 16) (port : BitVec 4) (offer : PeerOffer) : Statement (.peerBindHandshake ctx num peer far port offer) := of_none rfl

end Sys2Proof.Laws.Encoding
end

