-- ==== Sys2Proof/Certificates/Slice0/Obligations.lean ====
section
/-! DEFINITION. The statements for the provers, and the words they are written in. -/

namespace Sys2Proof.Claims

open Sys2Proof Sys2Proof.Machine

/-! ### Who issues -/

/-- Die `d` is `x`, and its Bureau, which waits neither in `wfi` nor for a write of HOME_SLICE to complete, is the agent that
issues. -/
def OnBureau (s : State) (d : Nat) (x : Die) : Prop :=
  s.current = .bureau d ∧ s.die? d = some x ∧ x.bureau.waiting = false ∧ x.bureau.homeWait = none

/-- Task `t` is the agent that issues: it has started, its gate is RUNNING, its thread neither waits nor is frozen, and
its account covers a draw. -/
def OnThread (s : State) (t : Task) (draw : Nat) : Prop :=
  s.current = .thread t.handle ∧ s.task? t.handle = some t ∧ t.ready = true ∧ t.gate = .running ∧
    t.threadFrozen = false ∧ t.wait = none ∧ t.paid = false ∧ draw ≤ t.account

/-- The task after an issue draw: the account has fallen, and one instruction of an exemption is used up. -/
def drawn (s : State) (t : Task) (draw : Nat) : Task :=
  { (s.debit t draw).2 with wait := none, exempt := t.exempt - 1 }

/-- The package after an issue draw. -/
def charged (s : State) (t : Task) (draw : Nat) : State := (s.debit t draw).1.putTask (drawn s t draw)

/-- An instruction of a task has trapped after its draw: the task ends FAULTED with trap code and subcode, at its program
counter (R315). -/
def faulted (s : State) (t : Task) (draw : Nat) (code : Trap) (sub : Nat) : State :=
  finish ((charged s t draw).retire { drawn s t draw with gate := .stopped } .faulted code 0 0 sub t.pc.toNat)

/-- A port of the lead cluster of a task, such as its thread, has found space and waits for none any more (R130). -/
def spaceFound (t : Task) : Task := { t with spaceWait := t.spaceWait.filter fun w => w.1 != threadPort }

/-- An instruction has completed on a Bureau, which is now `b`; nothing else has changed. -/
def onBureau (s : State) (d : Nat) (b : Bureau) : State := s.updBureau d fun _ => b

/-! ### The scalar instructions, from the tables of R138–R140 -/

/-- The quotient of R138: rounded toward zero, saturating toward the sign of the true quotient. -/
def quotient (a b : Word) : Word :=
  if a = 0 ∧ b = 0 then 0
  else if b = 0 then (if 0 < a.toInt then 0x7FFFFFFFFFFFFFFF else 0x8000000000000000)
  else if a = 0x8000000000000000 ∧ b = 0xFFFFFFFFFFFFFFFF then 0x7FFFFFFFFFFFFFFF
  else BitVec.ofInt 64 (a.toInt.tdiv b.toInt)

/-- The unsigned quotient of R138. -/
def quotientU (a b : Word) : Word :=
  if b = 0 then (if a = 0 then 0 else 0xFFFFFFFFFFFFFFFF) else a / b

/-- The remainder of R138: what the identity xA = xB × quotient + remainder gives, but 0 for −2^63 ÷ −1. -/
def remainder (a b : Word) : Word :=
  if a = 0x8000000000000000 ∧ b = 0xFFFFFFFFFFFFFFFF then 0 else a - b * quotient a b

/-- The unsigned remainder of R138. -/
def remainderU (a b : Word) : Word := a - b * quotientU a b

/-- Bits [127:64] of a 128-bit product (R138). -/
def highHalf (p : BitVec 128) : Word := p.extractLsb' 64 64

/-- 1 where a condition holds, else 0. -/
def oneIf (c : Bool) : Word := if c then 1 else 0

/-- For a scalar instruction: its destination, its length in bytes, and the destination's new value from the registers
(R138–R140). -/
def scalar : Instr → Option (Reg × Nat × ((Reg → Word) → Word))
  | .add d a b => some (d, 4, fun x => x a + x b)
  | .sub d a b => some (d, 4, fun x => x a - x b)
  | .and d a b => some (d, 4, fun x => x a &&& x b)
  | .or d a b => some (d, 4, fun x => x a ||| x b)
  | .xor d a b => some (d, 4, fun x => x a ^^^ x b)
  | .sll d a b => some (d, 4, fun x => x a <<< (x b &&& 63))
  | .srl d a b => some (d, 4, fun x => x a >>> (x b &&& 63))
  | .sra d a b => some (d, 4, fun x => (x a).sshiftRight' (x b &&& 63))
  | .slt d a b => some (d, 4, fun x => oneIf ((x a).toInt < (x b).toInt))
  | .sltu d a b => some (d, 4, fun x => oneIf ((x a).toNat < (x b).toNat))
  | .mul d a b => some (d, 4, fun x => x a * x b)
  | .mulh d a b => some (d, 4, fun x => highHalf ((x a).signExtend 128 * (x b).signExtend 128))
  | .mulhu d a b => some (d, 4, fun x => highHalf ((x a).zeroExtend 128 * (x b).zeroExtend 128))
  | .div d a b => some (d, 4, fun x => quotient (x a) (x b))
  | .divu d a b => some (d, 4, fun x => quotientU (x a) (x b))
  | .rem d a b => some (d, 4, fun x => remainder (x a) (x b))
  | .remu d a b => some (d, 4, fun x => remainderU (x a) (x b))
  | .min d a b => some (d, 4, fun x => if (x a).toInt ≤ (x b).toInt then x a else x b)
  | .max d a b => some (d, 4, fun x => if (x a).toInt ≤ (x b).toInt then x b else x a)
  | .minu d a b => some (d, 4, fun x => if (x a).toNat ≤ (x b).toNat then x a else x b)
  | .maxu d a b => some (d, 4, fun x => if (x a).toNat ≤ (x b).toNat then x b else x a)
  | .clz d a => some (d, 4, fun x => if x a = 0 then 64 else BitVec.ofNat 64 (63 - Nat.log2 (x a).toNat))
  | .ctz d a => some (d, 4, fun x => BitVec.ofNat 64 ((List.range 64).takeWhile fun i => !(x a).getLsbD i).length)
  | .pop d a => some (d, 4, fun x => BitVec.ofNat 64 ((List.range 64).countP (x a).getLsbD))
  | .addi d a imm => some (d, 4, fun x => x a + imm.signExtend 64)
  | .andi d a imm => some (d, 4, fun x => x a &&& imm.signExtend 64)
  | .ori d a imm => some (d, 4, fun x => x a ||| imm.signExtend 64)
  | .xori d a imm => some (d, 4, fun x => x a ^^^ imm.signExtend 64)
  | .slli d a sh => some (d, 4, fun x => x a <<< sh.zeroExtend 64)
  | .srli d a sh => some (d, 4, fun x => x a >>> sh.zeroExtend 64)
  | .srai d a sh => some (d, 4, fun x => (x a).sshiftRight' (sh.zeroExtend 64))
  | .slti d a imm => some (d, 4, fun x => oneIf ((x a).toInt < (imm.signExtend 64).toInt))
  | .li d imm => some (d, 8, fun _ => imm.signExtend 64)
  | .lih d a imm => some (d, 8, fun x => (imm.zeroExtend 64 <<< 32) + (x a &&& 0xFFFFFFFF))
  | .addiw d a imm => some (d, 8, fun x => x a + imm.signExtend 64)
  | _ => none

/-! ### Branches and jumps, from R141 and R142 -/

/-- For a branch: its operands, its offset in words, and when it is taken (R141). -/
def branch : Instr → Option (Reg × Reg × BitVec 12 × (Word → Word → Bool))
  | .beq a b off => some (a, b, off, fun x y => x = y)
  | .bne a b off => some (a, b, off, fun x y => x ≠ y)
  | .blt a b off => some (a, b, off, fun x y => x.toInt < y.toInt)
  | .bge a b off => some (a, b, off, fun x y => x.toInt ≥ y.toInt)
  | .bltu a b off => some (a, b, off, fun x y => x.toNat < y.toNat)
  | .bgeu a b off => some (a, b, off, fun x y => x.toNat ≥ y.toNat)
  | _ => none

/-- For a jump: its destination, and its target from the program counter and the registers (R142). -/
def jump : Instr → Option (Reg × (Word → (Reg → Word) → Word))
  | .jal d off => some (d, fun pc _ => pc + off.signExtend 64 * 4)
  | .jalr d a imm => some (d, fun _ x => x a + imm.signExtend 64)
  | _ => none

/-- A target that is no multiple of 4, or that lies at 2^52 or above (R142). -/
def badTarget (t : Word) : Prop := t.toNat % 4 ≠ 0 ∨ 2 ^ 52 ≤ t.toNat

/-- A synchronous trap on a Bureau, by the trap entry of R333: PC, CODE and VAL are set, PIE takes IE, IE falls, INTRAP rises, DT
notes a trap within a trap, and the program counter goes to VEC. -/
def trapped (b : Bureau) (code : BitVec 8) (val : Word) : Bureau :=
  { b with dt := b.dt || b.intrap, tpc := b.pc, code := code, val := val, pie := b.ie, ie := false, intrap := true,
           waiting := false, pc := b.vec.zeroExtend 64 &&& 0xFFFFFFFFFFFFFFFC }

/-! ### Loads and stores, from R143–R146 -/

/-- The two spaces a load or store reaches (R144–R146). -/
inductive Space where
  | scratch
  | glob
deriving DecidableEq, Repr

/-- For a load: its space, its bytes, whether it sign-extends, its destination, and its address operands (R143). -/
def loadForm : Instr → Option (Space × Nat × Bool × Reg × Reg × BitVec 12)
  | .ldsB d a off => some (.scratch, 1, true, d, a, off)
  | .ldsH d a off => some (.scratch, 2, true, d, a, off)
  | .ldsW d a off => some (.scratch, 4, true, d, a, off)
  | .ldsD d a off => some (.scratch, 8, true, d, a, off)
  | .ldsBu d a off => some (.scratch, 1, false, d, a, off)
  | .ldsHu d a off => some (.scratch, 2, false, d, a, off)
  | .ldsWu d a off => some (.scratch, 4, false, d, a, off)
  | .ldgB d a off => some (.glob, 1, true, d, a, off)
  | .ldgH d a off => some (.glob, 2, true, d, a, off)
  | .ldgW d a off => some (.glob, 4, true, d, a, off)
  | .ldgD d a off => some (.glob, 8, true, d, a, off)
  | .ldgBu d a off => some (.glob, 1, false, d, a, off)
  | .ldgHu d a off => some (.glob, 2, false, d, a, off)
  | .ldgWu d a off => some (.glob, 4, false, d, a, off)
  | _ => none

/-- For a store: its space, its bytes, its source, and its address operands (R143). -/
def storeForm : Instr → Option (Space × Nat × Reg × Reg × BitVec 12)
  | .stsB v a off => some (.scratch, 1, v, a, off)
  | .stsH v a off => some (.scratch, 2, v, a, off)
  | .stsW v a off => some (.scratch, 4, v, a, off)
  | .stsD v a off => some (.scratch, 8, v, a, off)
  | .stgB v a off => some (.glob, 1, v, a, off)
  | .stgH v a off => some (.glob, 2, v, a, off)
  | .stgW v a off => some (.glob, 4, v, a, off)
  | .stgD v a off => some (.glob, 8, v, a, off)
  | _ => none

/-- The space, the bytes and the address operands of a load or store. -/
def accessForm (i : Instr) : Option (Space × Nat × Reg × BitVec 12) :=
  match loadForm i with
  | some (sp, n, _, _, a, off) => some (sp, n, a, off)
  | none => (storeForm i).map fun p => (p.1, p.2.1, p.2.2.2.1, p.2.2.2.2)

/-- The address A = Trunc(xbase + SignExtend(offset12, 64), 64) (R143). -/
def effective (x : Reg → Word) (a : Reg) (off : BitVec 12) : Nat := (x a + off.signExtend 64).toNat

/-- What a load of `n` bytes gives (R143). -/
def extended (n : Nat) (signed : Bool) (l : List Byte) : Word :=
  let v := BitVec.ofNat (8 * n) (ofLeBytes l)
  if signed then v.signExtend 64 else v.zeroExtend 64

/-- The low `n` bytes of a register, low byte first (R143, R2). -/
def lowBytes (n : Nat) (w : Word) : List Byte := (List.range n).map fun i => w.extractLsb' (8 * i) 8

/-- A scratch address that a task may use: bits [63:32] are 0, the offset lies within the 98,304 bytes of a cell, and the
cell is one of the gang region (R144). -/
def scratchReach (t : Task) (a : Nat) : Prop :=
  a < 2 ^ 32 ∧ a % 2 ^ 17 < 98304 ∧ t.cellOk (a / 2 ^ 17) = true

/-- A physical address that a Bureau may read, or write: it has a home, and where that is a host-coherent window the link
is up and, for a write, the window is writable (R199, R362, R363, R371). -/
def physReach (s : State) (a : Nat) (store : Bool) : Prop :=
  s.hasHome a = true ∧ ∀ w, s.winOf a = some w → s.cxlCache = true ∧ (store = true → w.wr = true)

end Sys2Proof.Claims

open Sys2Proof Sys2Proof.Machine Sys2Proof.Claims

/-- R138–R140 and R30. An ALU, ALUI or wide-immediate instruction completes on a Bureau and in a task: xD gets the value
of the table, a write to x0 is discarded, the program counter moves past the instruction, and nothing else changes but, in
a task, the draw of 1 grain. -/
def Obligations.ScalarResults : Prop :=
  ∀ i d len f, scalar i = some (d, len, f) →
    (∀ s k x, OnBureau s k x → exec i s = .next (onBureau s k ((x.bureau.setX d (f x.bureau.x)).advance len))) ∧
    (∀ s t, OnThread s t 1 →
      exec i s = .next ((charged s t 1).putTask (((drawn s t 1).setX d (f t.x)).advance len)))

/-- R141 and R371. A branch goes to pc + offset × 4 where its condition holds and to pc + 4 where not; on a Bureau a target
taken at or above 65,536 traps PERM. No register changes. -/
def Sys2Proof.Claims.BranchResults : Prop :=
  ∀ i a b off c, branch i = some (a, b, off, c) →
    (∀ s k x, OnBureau s k x →
      exec i s = .next (onBureau s k
        (if c (x.bureau.x a) (x.bureau.x b) then
          (if 65536 ≤ (x.bureau.pc + off.signExtend 64 * 4).toNat then
            trapped x.bureau 5 (x.bureau.pc + off.signExtend 64 * 4)
          else { x.bureau with pc := x.bureau.pc + off.signExtend 64 * 4 })
        else { x.bureau with pc := x.bureau.pc + 4 }))) ∧
    (∀ s t, OnThread s t 1 →
      exec i s = .next ((charged s t 1).putTask
        { drawn s t 1 with
          pc := if c (t.x a) (t.x b) then t.pc + off.signExtend 64 * 4 else t.pc + 4, wait := none, paid := false }))

/-- R142 and R371. A jump whose target is a multiple of 4 below 2^52, on a Bureau below 65,536, completes: xD gets pc + 4, with xA
read before, and the program counter goes to the target. -/
def Sys2Proof.Claims.JumpResults : Prop :=
  ∀ i d g, jump i = some (d, g) →
    (∀ s k x, OnBureau s k x → ¬ badTarget (g x.bureau.pc x.bureau.x) → (g x.bureau.pc x.bureau.x).toNat < 65536 →
      exec i s = .next (onBureau s k { x.bureau.setX d (x.bureau.pc + 4) with pc := g x.bureau.pc x.bureau.x })) ∧
    (∀ s t, OnThread s t 1 → ¬ badTarget (g t.pc t.x) →
      exec i s = .next ((charged s t 1).putTask { (drawn s t 1).setX d (t.pc + 4) with pc := g t.pc t.x, wait := none, paid := false }))

/-- R33, R142 and R371. A jump whose target is no multiple of 4 traps MISALIGN, in a task also one whose target lies at 2^52 or
above, and on a Bureau any other target at or above 65,536 traps PERM: a task ends FAULTED at the jump, and xD is not written. -/
def Sys2Proof.Claims.JumpTraps : Prop :=
  ∀ i d g, jump i = some (d, g) →
    (∀ s k x, OnBureau s k x → (g x.bureau.pc x.bureau.x).toNat % 4 ≠ 0 →
      exec i s = .next (onBureau s k (trapped x.bureau 3 (g x.bureau.pc x.bureau.x)))) ∧
    (∀ s k x, OnBureau s k x → (g x.bureau.pc x.bureau.x).toNat % 4 = 0 → 65536 ≤ (g x.bureau.pc x.bureau.x).toNat →
      exec i s = .next (onBureau s k (trapped x.bureau 5 (g x.bureau.pc x.bureau.x)))) ∧
    (∀ s t, OnThread s t 1 → badTarget (g t.pc t.x) →
      exec i s = .next (faulted s t 1 .misalign 0))

/-- R143, R144 and R137. A scratch load completes: on a Bureau it reads private memory below 65,536, in a task the scratch of a
cell of its region, once no pending nest touches those bytes; xD gets the bytes extended. -/
def Sys2Proof.Claims.ScratchLoads : Prop :=
  ∀ i n sg d a off, loadForm i = some (.scratch, n, sg, d, a, off) →
    (∀ s k x, OnBureau s k x → effective x.bureau.x a off % n = 0 → effective x.bureau.x a off < 65536 →
      exec i s = .next (onBureau s k ((x.bureau.setX d
        (extended n sg (x.bureau.priv.read (effective x.bureau.x a off) n))).advance 4))) ∧
    (∀ s t, OnThread s t 1 → scratchReach t (effective t.x a off) → effective t.x a off % n = 0 →
      t.nestTouches true (effective t.x a off) n = false →
      exec i s = .next ((charged s t 1).putTask
        (((drawn s t 1).setX d (extended n sg (s.scratchRead t (effective t.x a off) n))).advance 4)))

/-- R143, R144 and R137. A scratch store completes at once: the low bytes of xS stand at the address, in the private memory of
a Bureau or the scratch of a cell of the region, and no register changes. -/
def Sys2Proof.Claims.ScratchStores : Prop :=
  ∀ i n v a off, storeForm i = some (.scratch, n, v, a, off) →
    (∀ s k x, OnBureau s k x → effective x.bureau.x a off % n = 0 → effective x.bureau.x a off < 65536 →
      exec i s = .next (onBureau s k { x.bureau.advance 4 with
        priv := x.bureau.priv.write (effective x.bureau.x a off) (lowBytes n (x.bureau.x v)) })) ∧
    (∀ s t, OnThread s t 1 → scratchReach t (effective t.x a off) → effective t.x a off % n = 0 →
      t.nestTouches true (effective t.x a off) n = false →
      exec i s = .next (((charged s t 1).scratchWrite t (effective t.x a off) (lowBytes n (t.x v))).putTask
        ((drawn s t 1).advance 4)))

/-- R145, R137 and R371. A global load completes: on a Bureau it reads committed bytes at a physical address, in a task it
reads through the task's own view; xD gets the bytes extended. -/
def Sys2Proof.Claims.GlobalLoads : Prop :=
  ∀ i n sg d a off, loadForm i = some (.glob, n, sg, d, a, off) →
    (∀ s k x, OnBureau s k x → effective x.bureau.x a off % n = 0 → physReach s (effective x.bureau.x a off) false →
      exec i s = .next (onBureau (s.touch k (effective x.bureau.x a off) 0) k ((x.bureau.setX d
        (extended n sg (s.bytesAt (effective x.bureau.x a off) n))).advance 4))) ∧
    (∀ s t u t' l, OnThread s t 1 → effective t.x a off % n = 0 → effective t.x a off < 2 ^ 52 →
      (charged s t 1).nestTouches (drawn s t 1) (effective t.x a off) n = false →
      (charged s t 1).viewRead (drawn s t 1) 0 (effective t.x a off) n = (u, .ok (t', l)) →
      exec i s = .next (u.putTask ((t'.setX d (extended n sg l)).advance 4)))

/-- R146, R137 and R287. A global store completes: on a Bureau it lands at home as an external commit, in a task its bytes are
held in the Cupboard of the lead cluster. -/
def Sys2Proof.Claims.GlobalStores : Prop :=
  ∀ i n v a off, storeForm i = some (.glob, n, v, a, off) →
    (∀ s k x, OnBureau s k x → effective x.bureau.x a off % n = 0 → physReach s (effective x.bureau.x a off) true →
      exec i s = .next (finish ((onBureau s k (x.bureau.advance 4)).landExternal []
        (atAddr (effective x.bureau.x a off) (lowBytes n (x.bureau.x v))) 0))) ∧
    (∀ s t u t', OnThread s t 1 → effective t.x a off % n = 0 → t.crec.rohint = false → effective t.x a off < 2 ^ 52 →
      (charged s t 1).nestTouches (drawn s t 1) (effective t.x a off) n = false →
      (charged s t 1).viewWrite (drawn s t 1) 0 (effective t.x a off) (lowBytes n (t.x v)) = (u, .ok t') →
      exec i s = .next (u.putTask ((spaceFound t').advance 4)))

/-- R146 and R285. A task's global store publishes nothing: every byte of committed memory and of host memory, the scratch, the
commit sequence and the dies are as before, every other task is as it was, and of the task itself every register, its Snapshot, its
flags, its timelines and its windows keep their values, while its program counter moves on. -/
def Obligations.GlobalStoreFrame : Prop :=
  ∀ i n v a off s t u t', storeForm i = some (.glob, n, v, a, off) → OnThread s t 1 → effective t.x a off % n = 0 →
    t.crec.rohint = false → effective t.x a off < 2 ^ 52 →
    (charged s t 1).nestTouches (drawn s t 1) (effective t.x a off) n = false →
    (charged s t 1).viewWrite (drawn s t 1) 0 (effective t.x a off) (lowBytes n (t.x v)) = (u, .ok t') →
    ∃ s' w, exec i s = .next s' ∧ s'.task? t.handle = some w ∧ w.regs = t.regs ∧ w.snap = t.snap ∧ w.snapHost = t.snapHost ∧
      w.flags = t.flags ∧ w.tl = t.tl ∧ w.rwin = t.rwin ∧ w.readSet = t.readSet ∧ w.pc = t.pc + 4 ∧
      (∀ p, s'.byteAt p = s.byteAt p) ∧ s'.mem = s.mem ∧ s'.hostMem = s.hostMem ∧ s'.scratch = s.scratch ∧
      s'.commitSeq = s.commitSeq ∧ s'.dies = s.dies ∧ (∀ h, h ≠ t.handle → s'.task? h = s.task? h)

/-- R143 and R371. A global load or store whose address is no multiple of its size traps MISALIGN, before every other check,
in both modes; so does a load or store of private memory on a Bureau. -/
def Sys2Proof.Claims.AlignmentFirst : Prop :=
  ∀ i sp n a off, accessForm i = some (sp, n, a, off) →
    (∀ s k x, OnBureau s k x → effective x.bureau.x a off % n ≠ 0 →
      exec i s = .next (onBureau s k (trapped x.bureau 3 (BitVec.ofNat 64 (effective x.bureau.x a off))))) ∧
    (∀ s t, sp = .glob → OnThread s t 1 → effective t.x a off % n ≠ 0 →
      exec i s = .next (faulted s t 1 .misalign 0))

/-- R144. A scratch access of a task traps PERM outside the cells of its region, and MISALIGN where it is inside but not
aligned to its size. -/
def Sys2Proof.Claims.ScratchTraps : Prop :=
  ∀ i n a off s t, accessForm i = some (.scratch, n, a, off) → OnThread s t 1 →
    (¬ scratchReach t (effective t.x a off) →
      exec i s = .next (faulted s t 1 .perm 0)) ∧
    (scratchReach t (effective t.x a off) → effective t.x a off % n ≠ 0 →
      exec i s = .next (faulted s t 1 .misalign 0))

/-- R137, R199, R362, R363 and R371. On a Bureau an aligned scratch access at or above 65,536 traps PERM, and an aligned global one
traps PERM where its address has no home or it stores into a window that is not writable, and HOST in a window whose link is
down; VAL is the address. -/
def Sys2Proof.Claims.BureauAccessTraps : Prop :=
  (∀ i n a off s k x, accessForm i = some (.scratch, n, a, off) → OnBureau s k x → effective x.bureau.x a off % n = 0 →
    65536 ≤ effective x.bureau.x a off →
    exec i s = .next (onBureau s k (trapped x.bureau 5 (BitVec.ofNat 64 (effective x.bureau.x a off))))) ∧
  (∀ i n a off s k x, accessForm i = some (.glob, n, a, off) → OnBureau s k x → effective x.bureau.x a off % n = 0 →
    s.hasHome (effective x.bureau.x a off) = false →
    exec i s = .next (onBureau s k (trapped x.bureau 5 (BitVec.ofNat 64 (effective x.bureau.x a off))))) ∧
  (∀ i n a off s k x w, accessForm i = some (.glob, n, a, off) → OnBureau s k x → effective x.bureau.x a off % n = 0 →
    s.hasHome (effective x.bureau.x a off) = true → s.winOf (effective x.bureau.x a off) = some w →
    (s.cxlCache = false →
      exec i s = .next (onBureau s k (trapped x.bureau 0x14 (BitVec.ofNat 64 (effective x.bureau.x a off))))) ∧
    (s.cxlCache = true → w.wr = false → (storeForm i).isSome = true →
      exec i s = .next (onBureau s k (trapped x.bureau 5 (BitVec.ofNat 64 (effective x.bureau.x a off))))))

namespace Sys2Proof.Claims

/-- What forbids an access of kind `k` through a leaf, in a package where the link to no window that it meets is down: a CH page; for a
store an RO page, or a window that is not writable; an address that has no home (R195, R198, R199, R362, R363). -/
def forbidden (s : State) (e : TlbEntry) (pa : Nat) (k : AccKind) : Prop :=
  e.ch = true ∨ s.hasHome pa = false ∨ (k = .store ∧ (e.w = false ∨ ∃ w, s.winOf pa = some w ∧ w.wr = false))

/-- An instruction has trapped after its draw, in the state that its accesses left: the task ends FAULTED at its program
counter (R315). -/
def faultedIn (u : State) (t : Task) (code : Trap) (sub : Nat) : State :=
  finish (u.retire { t with gate := .stopped } .faulted code 0 0 sub t.pc.toNat)

/-- The access of a load or store (R317). -/
def accessKind (i : Instr) : AccKind := if (storeForm i).isSome then .store else .load

end Sys2Proof.Claims

/-- R145–R147, R199, R362 and R363. An aligned global access of a task traps PERM where it stores under ROHINT, and XLATE at or above
2^52. What its translation meets follows: a miss that may be resolved freezes the thread, which waits in the instruction, with a record of
kind 1; another failure ends the task FAULTED: XLATE where there is no translation; HOST in a window whose link is down; PERM on a CH page,
for a store on an RO page or in a window that is not writable, and where the address has no home. Elsewhere the access goes on. -/
def Sys2Proof.Claims.GlobalTraps : Prop :=
  (∀ i n a off s t, accessForm i = some (.glob, n, a, off) → OnThread s t 1 → effective t.x a off % n = 0 →
    (accessKind i = .store → t.crec.rohint = true → exec i s = .next (faulted s t 1 .perm 0)) ∧
    ((accessKind i = .store → t.crec.rohint = false) → 2 ^ 52 ≤ effective t.x a off →
      exec i s = .next (faulted s t 1 .xlate 0)) ∧
    (∀ u e, (accessKind i = .store → t.crec.rohint = false) → effective t.x a off < 2 ^ 52 →
      (charged s t 1).nestTouches (drawn s t 1) (effective t.x a off) n = false →
      (charged s t 1).access t.die t.crec.ctx (effective t.x a off) (accessKind i) = (u, .error e) →
      (e ≠ .miss → exec i s = .next (faultedIn u (drawn s t 1) e.trap 0)) ∧
      (e = .miss → exec i s = .next (u.freeze ((drawn s t 1).block i)
        { kind := 1, place := 0, part := 0, va := BitVec.ofNat 64 (effective t.x a off), counter := 0,
          access := if accessKind i = .store then 1 else 0, addr := t.pc, record := none })))) ∧
  (∀ (s u : State) d ctx va k e, k ≠ .fetch → s.translate d ctx va = (u, .ok e) →
    (u.linkDown (e.phys va) = true → s.access d ctx va k = (u, .error .host)) ∧
    (u.linkDown (e.phys va) = false → forbidden u e (e.phys va) k → s.access d ctx va k = (u, .error .perm)) ∧
    (u.linkDown (e.phys va) = false → ¬ forbidden u e (e.phys va) k → s.access d ctx va k = (u, .ok (e.phys va, e)))) ∧
  (∀ (s u : State) d ctx va k x, s.translate d ctx va = (u, .error x) → s.access d ctx va k =
    (u, .error (match x with | .miss => .miss | .bad => .bad | .host => .host))) ∧
  (∀ (s : State) d ctx va k, 2 ^ 52 ≤ va → ∃ u, s.access d ctx va k = (u, .error .bad)) ∧
  AccErr.trap .bad = .xlate ∧ AccErr.trap .host = .host ∧ AccErr.trap .perm = .perm

namespace Sys2Proof.Claims

/-! ### System instructions, from R304 and R332–R336 -/

/-- An instruction of a task traps at issue: it draws nothing, and the task ends FAULTED at its program counter (R46,
R315). -/
def faultedAtIssue (s : State) (t : Task) (code : Trap) (sub : Nat) : State :=
  finish (s.retire { t with gate := .stopped } .faulted code 0 0 sub t.pc.toNat)

/-- The bytes at a task's program counter are no instruction, after their lines have passed the instruction cache, in state `v`: its turn
draws nothing, and the task ends FAULTED with the trap (R46). -/
def badWord (s : State) (t : Task) (v : State) (c : Trap) : Prop :=
  ∃ t', v.task? t.handle = some t' ∧ t' = { t with icache := t'.icache } ∧
    s.turn (.thread t.handle) = .next (faultedAtIssue v t' c 0)

/-- The registers of a Bureau and of its die that read as one field of the state (R84, R319, R332, R350). -/
def plainRegister (x : Die) (now : Nat) (num : Nat) : Option Word :=
  if num = 0x111 then some x.timerCmp
  else if num = 0x112 then some (BitVec.ofNat 64 now)
  else if num = 0x120 then some (x.sliceLen.zeroExtend 64)
  else if num = 0x121 then some (x.hangIvl.zeroExtend 64)
  else if num = 0x300 then some (x.bureau.code.zeroExtend 64)
  else if num = 0x301 then some x.bureau.tpc
  else if num = 0x302 then some x.bureau.val
  else if num = 0x303 then some (x.bureau.vec.zeroExtend 64)
  else if num = 0x305 then some x.bureau.pad
  else none

/-- The writable registers of a Bureau itself: the RW bits, what they hold, and the Bureau when they become `rw` and, with
`dt`, its W1C bit is cleared (R332). -/
def bureauRegister (num : Nat) : Option (Word × (Bureau → Word) × (Bureau → Word → Bool → Bureau)) :=
  if num = 0x301 then some (0xFFFFFFFFFFFFFFFF, fun b => b.tpc, fun b rw _ => { b with tpc := rw })
  else if num = 0x303 then
    some (0xFFFF, fun b => b.vec.zeroExtend 64, fun b rw _ => { b with vec := rw.extractLsb' 0 16 &&& 0xFFFC })
  else if num = 0x304 then
    some (0xF0003, fun b => b.mask.zeroExtend 64 <<< 16 ||| oneIf b.pie <<< 1 ||| oneIf b.ie,
      fun b rw dt => { b with ie := rw.getLsbD 0, pie := rw.getLsbD 1, mask := rw.extractLsb' 16 4, dt := b.dt && !dt })
  else if num = 0x305 then some (0xFFFFFFFFFFFFFFFF, fun b => b.pad, fun b rw _ => { b with pad := rw })
  else none

/-- For a register form: its number, its destination (x0 for `sys.wr`), its source, and from the old RW bits, the RW bits and
xA what the RW bits become; `sys.clr` alone clears no W1C field (R334). -/
def registerForm : Instr → Option (BitVec 12 × Reg × Reg × Bool × (Word → Word → Word → Word))
  | .sysWr num a => some (num, 0, a, true, fun _ rw v => v &&& rw)
  | .sysSet d num a => some (num, d, a, true, fun old rw v => (old ||| v) &&& rw)
  | .sysClr d num a => some (num, d, a, false, fun old rw v => old &&& rw &&& ~~~v)
  | _ => none

/-- The register number that a register form names. -/
def registerNamed : Instr → Option (BitVec 12)
  | .sysRd _ num => some num
  | .sysWr num _ => some num
  | .sysSet _ num _ => some num
  | .sysClr _ num _ => some num
  | _ => none

/-- A Bureau after interrupt entry with a code (R333): as for a trap, but DT is left as it was. -/
def interrupted (b : Bureau) (code : BitVec 8) : Bureau :=
  { b with tpc := b.pc, code := code, val := 0, pie := b.ie, ie := false, intrap := true, waiting := false,
           pc := b.vec.zeroExtend 64 &&& 0xFFFFFFFFFFFFFFFC }

end Sys2Proof.Claims

/-- R45. Decoding the bytes of a well-formed instruction gives it back, with its length, whatever bytes follow: no bit of an
encoding is dropped. -/
def Obligations.DecodeEncode : Prop := ∀ i, Sys2Proof.Laws.Encoding.Statement i

/-- R4, R45 and R46. What decodes is well-formed, and its bytes are those of its encoding: a word has one meaning, and a word
with a reserved field that is not zero has none. -/
def Obligations.DecodeCanonical : Prop :=
  ∀ bs i n, decode bs = .ok (i, n) → i.wf = true ∧ encodeBytes i = some (bs.take n)

/-- R31–R34, R138–R146, R299, R301, R334 and R335. Words that the spec writes out decode to the instructions they stand for, with
every operand, and the zero word to none. -/
def Obligations.DecodeWords : Prop :=
  decodeTableWord 32 0x004E6281 = some (.sub 5 6 7) ∧ decodeTableWord 32 0x0540A481 = some (.clz 9 10) ∧
  decodeTableWord 32 0x00386282 = some (.slli 5 6 3) ∧ decodeTableWord 64 0x1234567800000383 = some (.li 7 0x12345678) ∧
  decodeTableWord 32 0x00346284 = some (.blt 5 6 3) ∧ decodeTableWord 32 0x00010085 = some (.jal 1 16) ∧
  decodeTableWord 32 0x00001006 = some (.jalr 0 1 0) ∧ decodeTableWord 32 0x04049407 = some (.ldsW 8 9 64) ∧
  decodeTableWord 32 0xFFF86289 = some (.ldgBu 5 6 0xFFF) ∧ decodeTableWord 32 0x0044538A = some (.stgW 7 5 4) ∧
  decodeTableWord 32 0x0000500B = some (.arBegin 5) ∧ decodeTableWord 32 0x000C500C = some (.redAddW 5 6) ∧
  decodeTableWord 32 0x1380028D = some (.sysRd 5 0x138) ∧ decodeTableWord 32 0x007E000D = some (.fence 7) ∧
  decodeTableWord 32 0 = none

/-- R31, R46, R134, R316 and R371. A turn of an agent runs the instruction that the bytes at its program counter decode to: on a Bureau
the bytes of private memory, in a task those of its Snapshot, whose lines pass the instruction cache. In both, bytes that decode to
nothing trap ILLEGAL_OP and a 32-byte word elsewhere than at a multiple of 32 traps MISALIGN, with no draw; on a Bureau bytes at or above
65,536 trap PERM. A miss of a task's fetch freezes its thread with access 2 and a record, another failed fetch ends the task. A step is
the turn of the agent that moves, or the step of another agent. The model's own choices: which agent moves when nothing is scheduled (log
entry 1); VAL, the address of the word for MISALIGN and PERM and 0 for ILLEGAL_OP (log entry 44); and that both words of an instruction
are fetched before it is judged (log entry 76). -/
def Obligations.StepRunsDecoded : Prop :=
  (∀ s d x i n, OnBureau s d x → decode (x.bureau.priv.read x.bureau.pc.toNat n) = .ok (i, n) →
    x.bureau.pc.toNat + n ≤ 65536 → (n = 32 → x.bureau.pc.toNat % 32 = 0) → s.turn (.bureau d) = exec i s) ∧
  (∀ s d x, OnBureau s d x → x.bureau.pc.toNat + 32 ≤ 65536 →
    wordAt (x.bureau.priv.read x.bureau.pc.toNat 4) 32 4 &&& 0x7F = 0x11 → x.bureau.pc.toNat % 32 ≠ 0 →
    s.turn (.bureau d) = .next (onBureau s d (trapped x.bureau 3 x.bureau.pc))) ∧
  (∀ s d x e, OnBureau s d x → x.bureau.pc.toNat + 32 ≤ 65536 →
    wordAt (x.bureau.priv.read x.bureau.pc.toNat 4) 32 4 &&& 0x7F ≠ 0x11 →
    decode (x.bureau.priv.read x.bureau.pc.toNat 8) = .error e →
    s.turn (.bureau d) = .next (onBureau s d (trapped x.bureau 1 0))) ∧
  (∀ s d x, OnBureau s d x → 65536 < x.bureau.pc.toNat + 4 →
    s.turn (.bureau d) = .next (onBureau s d (trapped x.bureau 5 x.bureau.pc))) ∧
  (∀ s t u u' i n ps qs, OnThread s t 0 → s.accessRange t.die t.crec.ctx .fetch t.pc.toNat 4 = (u, .ok ps) →
    u.accessRange t.die t.crec.ctx .fetch (t.pc.toNat + 4) (n - 4) = (u', .ok qs) →
    decode (ps.map (fun p => t.snapByte u p.1) ++ qs.map (fun p => t.snapByte u' p.1)) = .ok (i, n) →
    (n = 32 → t.pc.toNat % 32 = 0) →
    s.turn (.thread t.handle) = exec i { u'.fetchLines t ((ps ++ qs).map Prod.fst) with current := .thread t.handle }) ∧
  (∀ s t u ps, OnThread s t 0 → s.accessRange t.die t.crec.ctx .fetch t.pc.toNat 4 = (u, .ok ps) → t.pc.toNat % 32 ≠ 0 →
    wordAt (ps.map fun p => t.snapByte u p.1) 32 4 &&& 0x7F = 0x11 →
    badWord s t (u.fetchLines t (ps.map Prod.fst)) .misalign) ∧
  (∀ s t u u' ps qs e, OnThread s t 0 → s.accessRange t.die t.crec.ctx .fetch t.pc.toNat 4 = (u, .ok ps) →
    (wordAt (ps.map fun p => t.snapByte u p.1) 32 4 &&& 0x7F = 0x11 → t.pc.toNat % 32 = 0) →
    u.accessRange t.die t.crec.ctx .fetch (t.pc.toNat + 4)
      (instrLength (wordAt (ps.map fun p => t.snapByte u p.1) 32 4) - 4) = (u', .ok qs) →
    decode (ps.map (fun p => t.snapByte u p.1) ++ qs.map (fun p => t.snapByte u' p.1)) = .error e →
    badWord s t (u'.fetchLines t ((ps ++ qs).map Prod.fst)) .illegalOp) ∧
  (∀ s t v f va, OnThread s t 0 →
    (s.accessRange t.die t.crec.ctx .fetch t.pc.toNat 4 = (v, .error (f, va)) ∨
      ∃ u ps, s.accessRange t.die t.crec.ctx .fetch t.pc.toNat 4 = (u, .ok ps) ∧
        (wordAt (ps.map fun p => t.snapByte u p.1) 32 4 &&& 0x7F = 0x11 → t.pc.toNat % 32 = 0) ∧
        u.accessRange t.die t.crec.ctx .fetch (t.pc.toNat + 4)
          (instrLength (wordAt (ps.map fun p => t.snapByte u p.1) 32 4) - 4) = (v, .error (f, va))) →
    (f = .miss → s.turn (.thread t.handle) = .next (v.freeze t
      { kind := 0, place := 0, part := 0, va := BitVec.ofNat 64 va, counter := 0, access := 2, addr := t.pc, record := none })) ∧
    (f ≠ .miss → s.turn (.thread t.handle) = .next (faultedAtIssue v t f.trap 0))) ∧
  (∀ s, s.schedule = [] → step s = s.turn s.current) ∧
  (∀ s a r, s.schedule = .agent a :: r → s.present a = true →
    step s = State.turn { s with schedule := r, current := a } a) ∧
  (∀ s i r, s.schedule = .event i :: r → encode i = none → step s = exec i { s with schedule := r })

/-- R83, R84, R197, R200, R205, R283, R310, R316, R319, R322, R324, R328, R332, R345–R348, R350, R352, R356 and R362. What the spec
gives the package at reset: stage A, commit sequence 0, no task, and every register with a reset value at it. -/
def Obligations.ResetValues : Prop :=
  State.reset.stage = .a ∧ State.reset.commitSeq = 0 ∧ State.reset.tasks = [] ∧
  State.reset.channels = [] ∧ State.reset.instances = [] ∧ State.reset.susp = .running ∧ State.reset.suspDesc = 0 ∧
  State.reset.pkgLimit = 166 ∧ State.reset.qtBase = 0 ∧ State.reset.qtCount = 0 ∧ State.reset.ctxBase = 0 ∧
  State.reset.ctxCount = 0 ∧ State.reset.safeBase = 0 ∧ State.reset.restore = false ∧ State.reset.resyncBusy = false ∧
  State.reset.dies.length = 4 ∧ State.reset.hcw = List.replicate 8 HWin.reset ∧ HWin.reset.en = false ∧
  HWin.reset.wr = false ∧ HWin.reset.dev = 0 ∧ HWin.reset.hostBase = 0 ∧ HWin.reset.size = 21 ∧
  (∀ d c k, (State.reset.slice d c k).gate = 0 ∧ (State.reset.slice d c k).awake = 0xFFFF ∧
    (State.reset.slice d c k).ways = [] ∧ (State.reset.slice d c k).masks = List.replicate 16 0xFFFF) ∧
  ∀ d x, State.reset.die? d = some x →
    x.allot = (if d < 2 then 41 else 42) ∧ x.sliceLen = 200 ∧ x.hangIvl = 100000 ∧ x.timerCmp = BitVec.allOnes 64 ∧
    x.hmapBase = 0 ∧ x.fringBase = 0 ∧ x.fringHead = 0 ∧ x.fringTail = 0 ∧ x.preHandle = 0 ∧ x.preResult = 0 ∧
    x.preBusy = none ∧ x.savePool = 0 ∧ x.saveSize = 0 ∧ x.tlbiVpn = 0 ∧ x.tlbiCtx = 0 ∧ x.tlbiScope = 0 ∧ x.tlbiOp = none ∧
    x.homeSel = 0 ∧ x.homeErr = false ∧ x.l2pSel = 0 ∧ x.thermSel = 0 ∧ x.ctxSel = 0 ∧ x.quotas = [] ∧ x.doorbell = 0 ∧
    x.bureau.ie = false ∧ x.bureau.pie = false ∧ x.bureau.intrap = false ∧ x.bureau.dt = false ∧ x.bureau.mask = 0 ∧
    x.bureau.vec = 0 ∧ x.bureau.code = 0 ∧ x.bureau.tpc = 0 ∧ x.bureau.val = 0 ∧ x.bureau.pad = 0 ∧ x.rung = false ∧
    x.trip = false ∧ x.steps = List.replicate 104 0 ∧ x.regions.length = 107 ∧ x.pwin.length = 16 ∧
    (∀ r ∈ x.regions, r.dmg = 0 ∧ r.alertLevel = 4000000 ∧ r.release = 1000000 ∧ r.corr = 0 ∧ r.uncorr = 0) ∧
    (∀ w ∈ x.pwin, w.en = false ∧ w.size = 12 ∧ w.base = 0 ∧ w.ctx = 0 ∧ w.ual = false ∧ w.port = 0)

namespace Sys2Proof.Claims

/-- The Snapshot of a task, of memory and of host memory, and its Cupboard are in canonical form. -/
def TaskSound (t : Task) : Prop := t.snap.wf = true ∧ t.snapHost.wf = true ∧ t.cup.wf = true

/-- There are four dies; the private memory of every Bureau, every saved image and every working value of a lock are in canonical
form. -/
def PartsSound (dies : List Die) (saved : List Saved) (locks : List Lock) : Prop :=
  dies.length = 4 ∧ (∀ x ∈ dies, x.bureau.priv.wf = true) ∧ (∀ y ∈ saved, TaskSound y.task) ∧
    ∀ l ∈ locks, l.work.wf = true

/-- Memory, host memory, scratch, memory as a suspend found it, and what tasks, Bureaus, images and locks hold are in canonical form;
so is what a suspend descriptor and every Wardrobe hold. The package has its four dies. -/
def Sound (s : State) : Prop :=
  s.mem.wf = true ∧ s.hostMem.wf = true ∧ s.scratch.wf = true ∧ s.suspMem.wf = true ∧ (∀ t ∈ s.tasks, TaskSound t) ∧
    PartsSound s.dies s.saved s.locks ∧ (∀ w, s.descriptor = some w → PartsSound w.dies w.saved w.locks) ∧
    ∀ p ∈ s.wardrobe, PartsSound p.2.dies p.2.saved p.2.locks

end Sys2Proof.Claims

/-- R8 and the canonical form of memory, which is the model's own (log entry 6). The package at reset has its four dies, and every
memory of it is in canonical form. -/
def Obligations.ResetSound : Prop := Sound State.reset

/-- R8 and the canonical form of memory, which is the model's own (log entry 6). Every step of every instruction and every other
agent keeps the four dies, and every memory of the package, of its tasks, Bureaus, images and locks, in the one form in which equal
memories are equal data. -/
def Obligations.StepKeepsSound : Prop := ∀ s s', Sound s → step s = .next s' → Sound s'

/-- R335. `trap imm` in a task ends the task FAULTED with trap BREAK and subcode imm, after drawing 1 grain; on the Bureau it enters the
trap handler with CODE 0x11 and VAL imm. -/
def Obligations.TrapInstruction : Prop :=
  (∀ s k x imm, OnBureau s k x → exec (.trap imm) s = .next (onBureau s k (trapped x.bureau 0x11 (imm.zeroExtend 64)))) ∧
  (∀ s t imm, OnThread s t 1 → exec (.trap imm) s = .next (faulted s t 1 .brk imm.toNat))

/-- R46 and R334. In a task `eret`, `wfi` and every register form that names an assigned register other than 0x130–0x138 trap
PRIV, and one that names no assigned register traps ILLEGAL_OP: at issue, with no draw. -/
def Obligations.PrivilegedInTask : Prop :=
  (∀ s t, OnThread s t 0 → exec .eret s = .next (faultedAtIssue s t .priv 0)) ∧
  (∀ s t, OnThread s t 0 → exec .wfi s = .next (faultedAtIssue s t .priv 0)) ∧
  (∀ i num s t, registerNamed i = some num → OnThread s t 0 →
    (regFields num.toNat = none → exec i s = .next (faultedAtIssue s t .illegalOp 0)) ∧
    (regFields num.toNat ≠ none → ¬ (0x130 ≤ num.toNat ∧ num.toNat ≤ 0x138) →
      exec i s = .next (faultedAtIssue s t .priv 0)))

/-- R137. On a Bureau every instruction of the groups STRM, nest, COPY, TL, TASK, CHG, CH, MX, atomic region and commit-time
reduction traps ILLEGAL_OP, with VAL = 0 (the model's own, log entry 44). -/
def Obligations.TaskGroupsOnBureau : Prop :=
  ∀ i w ws s k x, encode i = some (w :: ws) → w.toNat % 128 ∈ [0x0B, 0x0C, 0x10, 0x11, 0x12, 0x13, 0x15, 0x16, 0x17, 0x18] →
    OnBureau s k x → exec i s = .next (onBureau s k (trapped x.bureau 1 0))

/-- R334, R304 and R4. `sys.rd` on a Bureau gives the register's value, for a plain register the field it names; in a task, whose
registers are RWIN 0–7 and FLAGS, theirs. A number that is no register traps ILLEGAL_OP on the Bureau too (R46), with VAL = 0 (the
model's own, log entry 44). The fields of a task's registers have no value on a Bureau, a free value (log entry 12); their reserved bits
read 0. -/
def Obligations.RegisterReads : Prop :=
  (∀ s k x d num, OnBureau s k x → regFields num.toNat ≠ none → ¬ (0x130 ≤ num.toNat ∧ num.toNat ≤ 0x138) →
    num ≠ 0x317 →
    exec (.sysRd d num) s = .next (onBureau s k ((x.bureau.setX d (s.regRead k num.toNat)).advance 4))) ∧
  (∀ (s : State) k x num v, s.die? k = some x → plainRegister x s.now num = some v → s.regRead k num = v) ∧
  (∀ s k x d, OnBureau s k x → exec (.sysRd d 0x317) s = .next (s.updDie k fun y =>
    { y with rung := false, bureau := (x.bureau.setX d (x.doorbell.zeroExtend 64)).advance 4 })) ∧
  (∀ s k x d num, OnBureau s k x → 0x130 ≤ num.toNat → num.toNat ≤ 0x138 → ∃ v,
    v &&& ~~~(if num = 0x138 then 0xFF else 0xFFFFFFFFFFFFC : Word) = 0 ∧
    exec (.sysRd d num) s = .next { onBureau s k ((x.bureau.setX d v).advance 4) with fresh := s.fresh + 8 }) ∧
  (∀ i num s k x, registerNamed i = some num → OnBureau s k x → regFields num.toNat = none →
    exec i s = .next (onBureau s k (trapped x.bureau 1 0))) ∧
  (∀ s t d (n : Fin 8), OnThread s t 1 →
    exec (.sysRd d (BitVec.ofNat 12 (0x130 + n.val))) s =
      .next ((charged s t 1).putTask (((drawn s t 1).setX d t.rwin[n]).advance 4))) ∧
  (∀ s t d, OnThread s t 1 →
    exec (.sysRd d 0x138) s = .next ((charged s t 1).putTask (((drawn s t 1).setX d (t.flags.zeroExtend 64)).advance 4)))

/-- R334 and R332. `sys.wr`, `sys.set` and `sys.clr` give the RW bits of the register what their form says, clear DT where a
`sys.wr` or `sys.set` names it, change nothing else of the register, and give xD the old value: for the Bureau's own registers,
and in a task for RWIN 0–7; FLAGS ignores them. -/
def Obligations.RegisterWrites : Prop :=
  (∀ i num d a c f rw get put s k x, registerForm i = some (num, d, a, c, f) →
    bureauRegister num.toNat = some (rw, get, put) → OnBureau s k x →
    exec i s = .next (onBureau s k
      (put ((x.bureau.setX d (s.regRead k num.toNat)).advance 4) (f (get x.bureau) rw (x.bureau.x a))
        (c && (x.bureau.x a).getLsbD 3)))) ∧
  (∀ i d a c f s t (n : Fin 8), registerForm i = some (BitVec.ofNat 12 (0x130 + n.val), d, a, c, f) → OnThread s t 1 →
    exec i s = .next ((charged s t 1).putTask
      (({ drawn s t 1 with rwin := t.rwin.set n (f t.rwin[n] 0xFFFFFFFFFFFFC (t.x a)) }.setX d t.rwin[n]).advance 4))) ∧
  (∀ i d a c f s t, registerForm i = some (0x138, d, a, c, f) → OnThread s t 1 →
    exec i s = .next ((charged s t 1).putTask (((drawn s t 1).setX d (t.flags.zeroExtend 64)).advance 4)))

/-- R333 and R336. `eret` sets IE to PIE and INTRAP to 0 and goes to PC. `wfi` moves on, and waits while no source that MASK enables is
pending. With IE = 1 the lowest pending source that MASK enables enters the trap handler, with code 0x12 for THERMAL, 0x13 for TIMER and
0x14 for HOST, also from `wfi`, then with PC the address after it; a Bureau that waits in `wfi` with IE = 0 goes on. FAULT enters too,
with a code that the spec does not give, a free value among the codes that R314 assigns (log entry 12). An interrupt leaves 0 in VAL (the
model's own, log entry 44). -/
def Obligations.InterruptsAndReturn : Prop :=
  (∀ s k x, OnBureau s k x →
    exec .eret s = .next (onBureau s k { x.bureau with ie := x.bureau.pie, intrap := false, pc := x.bureau.tpc })) ∧
  (∀ s k x, OnBureau s k x → x.pend s.now &&& x.bureau.mask = 0 →
    exec .wfi s = .next (onBureau s k { x.bureau with pc := x.bureau.pc + 4, waiting := true })) ∧
  (∀ s k x, OnBureau s k x → x.pend s.now &&& x.bureau.mask ≠ 0 → x.bureau.ie = false →
    exec .wfi s = .next (onBureau s k { x.bureau with pc := x.bureau.pc + 4, waiting := false })) ∧
  (∀ s k x, OnBureau s k x → x.bureau.ie = true → ∀ j < 3, (x.pend s.now &&& x.bureau.mask).getLsbD j = true →
    (∀ i < j, (x.pend s.now &&& x.bureau.mask).getLsbD i = false) →
    exec .wfi s = .next (onBureau s k
      (interrupted { x.bureau with pc := x.bureau.pc + 4 } (BitVec.ofNat 8 (0x12 + j))))) ∧
  (∀ s k x, OnBureau s k x → x.bureau.ie = true → x.pend s.now &&& x.bureau.mask = 8 →
    exec .wfi s = .next { onBureau s k (interrupted { x.bureau with pc := x.bureau.pc + 4 }
      (BitVec.ofNat 8 ((Config.freeByte s.fresh).toNat % 0x15))) with fresh := s.fresh + 1 }) ∧
  (∀ s d x, s.die? d = some x → x.bureau.ie = true →
    (∀ k < 3, (x.pend s.now &&& x.bureau.mask).getLsbD k = true →
      (∀ j < k, (x.pend s.now &&& x.bureau.mask).getLsbD j = false) →
      exec (.bureauTrapEntry d) s = .next (onBureau s d (interrupted x.bureau (BitVec.ofNat 8 (0x12 + k)))) ∧
      (x.bureau.waiting = true →
        exec (.wfiWake d) s = .next (onBureau s d (interrupted x.bureau (BitVec.ofNat 8 (0x12 + k)))))) ∧
    (x.pend s.now &&& x.bureau.mask = 8 →
      exec (.bureauTrapEntry d) s = .next { onBureau s d (interrupted x.bureau
        (BitVec.ofNat 8 ((Config.freeByte s.fresh).toNat % 0x15))) with
        fresh := s.fresh + 1 } ∧
      (x.bureau.waiting = true → exec (.wfiWake d) s = exec (.bureauTrapEntry d) s))) ∧
  (∀ s d x, s.die? d = some x → x.bureau.ie = false → x.bureau.waiting = true → x.pend s.now &&& x.bureau.mask ≠ 0 →
    exec (.wfiWake d) s = .next (onBureau s d { x.bureau with waiting := false }))

namespace Sys2Proof.Claims

/-! ### Atomic regions and reductions, from R297–R302 -/

/-- For a load or store of an atomic region: its address, its bytes, whether it stores, and the register it loads or
stores (R299). -/
def atomicForm : Instr → Option (Reg × Nat × Bool × Reg)
  | .arLdW d a => some (a, 4, false, d)
  | .arLdD d a => some (a, 8, false, d)
  | .arStW a b => some (a, 4, true, b)
  | .arStD a b => some (a, 8, true, b)
  | _ => none

/-- For a reduction of the thread: the FN code of its operation, its bytes, its address and its operand (R301). -/
def reduction : Instr → Option (Nat × Nat × Reg × Reg)
  | .redAddW a b => some (0, 4, a, b)
  | .redAddD a b => some (1, 8, a, b)
  | .redMinW a b => some (2, 4, a, b)
  | .redMaxW a b => some (3, 4, a, b)
  | .redOrW a b => some (4, 4, a, b)
  | .redAndW a b => some (5, 4, a, b)
  | .redFaddS a b => some (6, 4, a, b)
  | _ => none

/-- Whether a task may name a context: its own, or any one from a system context, whose table entry it can read (R89, R118, R363). -/
def MayName (s : State) (own ctx : Nat) : Prop := ctx = own ∨ s.ctxDown own = false ∧ s.isSystem own = true

/-- The trap of a task that may not: HOST where the link to its context-table entry is down, else PRIV (R118, R363). -/
def NameTrap (s : State) (own ctx : Nat) (c : Trap) : Prop :=
  ctx ≠ own ∧ (s.ctxDown own = true ∧ c = .host ∨ s.ctxDown own = false ∧ s.isSystem own = false ∧ c = .priv)

/-! ### Instructions that complete on the task alone, from R96, R120, R212 and R341 -/

/-- For an instruction that reads a value of its own task: its destination, and the value once its draw was taken. -/
def taskRead : Instr → Option (Reg × (Task → Word))
  | .tskSelf d => some (d, fun t => t.handle)
  | .tskTs d => some (d, fun t => t.crec.dw3)
  | .chgSelf d => some (d, fun t => BitVec.ofNat 64 t.account)
  | .tlRead d tl => some (d, fun t => if h : tl.toNat < 8 then t.tl[tl.toNat] else 0)
  | _ => none

end Sys2Proof.Claims

/-- R297–R299. `ar.begin` opens a region: on the line that the task has locked already it only opens; a line without a lock is
locked, its working value the committed one; on another line than the task's it traps ATOM_LIMIT; on a line that another task
holds it waits, and where it is the older of the two the holder is doomed. -/
def Sys2Proof.Claims.AtomicBegin : Prop :=
  ∀ a s t u pa e, OnThread s t 1 → t.regionOpen = false → t.crec.rohint = false → (t.x a).toNat < 2 ^ 52 →
    (charged s t 1).access t.die t.crec.ctx (t.x a).toNat .store = (u, .ok (pa, e)) → e.io = false →
    (t.lockLine = some (pa / 128) →
      exec (.arBegin a) s = .next (u.putTask ({ drawn s t 1 with regionOpen := true }.advance 4))) ∧
    (∀ l, t.lockLine = some l → l ≠ pa / 128 →
      exec (.arBegin a) s = .next (faultedIn u (drawn s t 1) .atomLimit 0)) ∧
    (t.lockLine = none → u.lock? (pa / 128) = none →
      exec (.arBegin a) s = .next (State.putTask
        { u with locks := u.locks ++ [{ line := pa / 128, holder := some t.handle, work := [], waiters := [] }] }
        ({ drawn s t 1 with lockLine := some (pa / 128), regionOpen := true }.advance 4))) ∧
    (∀ l h v, t.lockLine = none → u.lock? (pa / 128) = some l → l.holder = some h → h ≠ t.handle → u.anyTask? h = some v →
      exec (.arBegin a) s = .next (finish
        ((u.setLock { l with waiters := if t.handle ∈ l.waiters then l.waiters else l.waiters ++ [t.handle] }).putTask
            ((drawn s t 1).block (.arBegin a)),
          if (drawn s t 1).older v then [.doom h (t.crec.ctx == v.crec.ctx)] else [])))

/-- R297 and R299. In an open region a load gives the bytes of the working value of the locked line, extended, and a store puts
them there; each counts as one of at most 8 operations. `ar.end` closes the region. -/
def Sys2Proof.Claims.AtomicAccess : Prop :=
  (∀ i a n st v s t u e l, atomicForm i = some (a, n, st, v) → OnThread s t 1 → t.regionOpen = true →
    (t.x a).toNat % n = 0 → (charged s t 1).translate t.die t.crec.ctx (t.x a).toNat = (u, .ok e) →
    t.lockLine = some (e.phys (t.x a).toNat / 128) → t.arOps < 8 → u.lock? (e.phys (t.x a).toNat / 128) = some l →
    (st = false → exec i s = .next (u.putTask
      (({ drawn s t 1 with arOps := t.arOps + 1 }.setX v (extended n true (u.working l (e.phys (t.x a).toNat) n))).advance 4))) ∧
    (st = true → exec i s = .next ((u.setLock
      { l with work := l.work.write (e.phys (t.x a).toNat) (lowBytes n (t.x v)) }).putTask
        ({ drawn s t 1 with arOps := t.arOps + 1 }.advance 4)))) ∧
  (∀ s t, OnThread s t 1 → t.regionOpen = true →
    exec .arEnd s = .next ((charged s t 1).putTask ({ drawn s t 1 with regionOpen := false }.advance 4)))

/-- R299. Outside a region a load, a store and `ar.end` trap ILLEGAL_OP; in it an address that is no multiple of the size traps
MISALIGN, and a ninth operation or one on another line traps ATOM_LIMIT. -/
def Obligations.AtomicTraps : Prop :=
  (∀ i a n st v s t, atomicForm i = some (a, n, st, v) → OnThread s t 1 →
    (t.regionOpen = false → exec i s = .next (faultedIn (charged s t 1) (drawn s t 1) .illegalOp 0)) ∧
    (t.regionOpen = true → (t.x a).toNat % n ≠ 0 →
      exec i s = .next (faultedIn (charged s t 1) (drawn s t 1) .misalign 0)) ∧
    (∀ u e, t.regionOpen = true → (t.x a).toNat % n = 0 →
      (charged s t 1).translate t.die t.crec.ctx (t.x a).toNat = (u, .ok e) →
      8 ≤ t.arOps ∨ t.lockLine ≠ some (e.phys (t.x a).toNat / 128) →
      exec i s = .next (faultedIn u (drawn s t 1) .atomLimit 0))) ∧
  (∀ s t, OnThread s t 1 → t.regionOpen = false →
    exec .arEnd s = .next (faultedIn (charged s t 1) (drawn s t 1) .illegalOp 0))

/-- R300 and R301. A commit-time reduction is held with its operand's low bytes: memory keeps its bytes, and the line counts once
in the task's share of the Cupboard. One that meets a held reduction in part traps MISALIGN. -/
def Obligations.Reductions : Prop :=
  ∀ i op n a b s t u pa e, reduction i = some (op, n, a, b) → OnThread s t 1 → t.crec.rohint = false →
    (t.x a).toNat % n = 0 → (t.x a).toNat < 2 ^ 52 →
    (charged s t 1).access t.die t.crec.ctx (t.x a).toNat .store = (u, .ok (pa, e)) → e.io = false →
    ((∀ r ∈ t.reds, r.addr < pa + n → pa < r.addr + r.width → r.addr = pa ∧ r.width = n) →
      ∀ t', ((0, pa / 128) ∈ t.redLines ∧ t' = drawn s t 1 ∨
          (0, pa / 128) ∉ t.redLines ∧ ∃ t1, u.growShare (drawn s t 1) 0 128 = .ok t1 ∧
            t' = { t1 with redLines := (0, pa / 128) :: t1.redLines }) →
        exec i s = .next (u.putTask ((spaceFound { t' with reds := t'.reds ++
          [{ op := op, addr := pa, width := n, operand := BitVec.ofNat 64 ((t.x b).toNat % 2 ^ (8 * n)), cell := none }] }).advance
            4)) ∧
        (∀ p, u.byteAt p = s.byteAt p)) ∧
    (∀ r ∈ t.reds, r.addr < pa + n → pa < r.addr + r.width → ¬ (r.addr = pa ∧ r.width = n) →
      exec i s = .next (faultedIn u (drawn s t 1) .misalign 0))

/-- R96. `tsk.self` and `tsk.ts` are Format A words of major 0x15 with FN 5 and 6; each draws 1 grain and gives xD the task handle,
or dw3 of the task's record; a write to x0 is discarded. -/
def Obligations.TaskHandleAndTimestamp : Prop :=
  (∀ d : Reg, encode (.tskSelf d) = some [(5 : BitVec 10) ++ (0 : BitVec 10) ++ d ++ (0x15 : BitVec 7)] ∧
    encode (.tskTs d) = some [(6 : BitVec 10) ++ (0 : BitVec 10) ++ d ++ (0x15 : BitVec 7)]) ∧
  (∀ d s t, OnThread s t 1 →
    exec (.tskSelf d) s = .next ((charged s t 1).putTask (((drawn s t 1).setX d t.handle).advance 4)) ∧
    exec (.tskTs d) s = .next ((charged s t 1).putTask (((drawn s t 1).setX d t.crec.dw3).advance 4))) ∧
  (∀ (t : Task) v, t.setX 0 v = t)

/-- R96, R120, R212 and R341. `tsk.self`, `tsk.ts`, `chg.self` and `tl.read` give the handle, the timestamp, the account after
this instruction's own debit, and the value of a timeline, for tl0–tl3 too without any lag (the model's reading of R212, log entry 20);
`yield` changes no register. -/
def Obligations.TaskReads : Prop :=
  (∀ i d f s t, taskRead i = some (d, f) → OnThread s t 1 →
    exec i s = .next ((charged s t 1).putTask (((drawn s t 1).setX d (f (drawn s t 1))).advance 4))) ∧
  (∀ s t, OnThread s t 1 → exec .yield s = .next ((charged s t 1).putTask ((drawn s t 1).advance 4)))

/-- R117–R120 and R363. `chg.add` moves packets from the quota and the budget of the issuer's die to the gate it names, and answers their
number, or answers 0 and moves nothing: where it names no packet or more than 2^32 − 1, adds up to more than that, or the quota of its
context there or the budget does not cover them; `chg.read` gives the account of the gate it names, or all ones where no task holds it;
`chg.low` and `chg.hold` give the old field and set the new one. The gate of another context traps PRIV, in `chg.add` and in
`chg.read`, unless the context is a system one, and HOST where the link to its context-table entry is down. -/
def Obligations.ChargeResults : Prop :=
  (∀ d a b s t g, OnThread s t 1 → (charged s t 1).gateOf (t.x a) = some g →
    MayName (charged s t 1) t.crec.ctx g.crec.ctx →
    ((charged s t 1).topUpOk (drawn s t 1) g (t.x b).toNat = false →
      exec (.chgAdd d a b) s = .next ((charged s t 1).putTask (((drawn s t 1).setX d 0).advance 4))) ∧
    (∀ u g', (charged s t 1).topUpOk (drawn s t 1) g (t.x b).toNat = true →
      u = ((charged s t 1).updDie t.die fun x =>
        { x.setQuota t.crec.ctx (x.quota t.crec.ctx - (t.x b).toNat) (x.reserve t.crec.ctx) with
          budget := x.budget - 16 * (t.x b).toNat }).putTask (((drawn s t 1).setX d (t.x b)).advance 4) →
      g' = { (if g.handle = t.handle then ((drawn s t 1).setX d (t.x b)).advance 4 else g) with
        account := g.account + 16 * (t.x b).toNat, added := g.added + (t.x b).toNat,
        armed := g.armed || g.mark < g.account + 16 * (t.x b).toNat } →
      exec (.chgAdd d a b) s =
        .next (finish (if g.gate = .hold then (u.putTask g').resumeGate g' else (u.putTask g', []))))) ∧
  (∀ (s : State) t g n x, s.die? t.die = some x →
    (s.topUpOk t g n = true ↔ n ≠ 0 ∧ n ≤ 0xFFFFFFFF ∧ g.added + n ≤ 0xFFFFFFFF ∧ n ≤ x.quota t.crec.ctx ∧ 16 * n ≤ x.budget)) ∧
  (∀ (x : Die) c q r, (x.setQuota c q r).quota c = q ∧ ∀ e, e ≠ c → (x.setQuota c q r).quota e = x.quota e) ∧
  (∀ d a b s t g, OnThread s t 1 → (charged s t 1).gateOf (t.x a) = some g →
    ∀ c, NameTrap (charged s t 1) t.crec.ctx g.crec.ctx c →
    exec (.chgAdd d a b) s = .next (faultedIn (charged s t 1) (drawn s t 1) c 0)) ∧
  (∀ d a b s t, OnThread s t 1 → (charged s t 1).gateOf (t.x a) = none →
    exec (.chgAdd d a b) s = .next ((charged s t 1).putTask (((drawn s t 1).setX d 0).advance 4))) ∧
  (∀ d a s t g, OnThread s t 1 → (charged s t 1).task? (t.x a &&& 0xFFFFFFFF000007FF) = some g → g.gate ≠ .stopped →
    (g.gate = .hold → g.holdLeft ≠ 0) →
    (MayName (charged s t 1) t.crec.ctx g.crec.ctx →
      exec (.chgRead d a) s =
        .next ((charged s t 1).putTask (((drawn s t 1).setX d (BitVec.ofNat 64 g.account)).advance 4))) ∧
    (∀ c, NameTrap (charged s t 1) t.crec.ctx g.crec.ctx c →
      exec (.chgRead d a) s = .next (faultedIn (charged s t 1) (drawn s t 1) c 0))) ∧
  (∀ d a s t, OnThread s t 1 →
    (∀ g, (charged s t 1).task? (t.x a &&& 0xFFFFFFFF000007FF) = some g →
      g.gate = .stopped ∨ (g.gate = .hold ∧ g.holdLeft = 0)) →
    exec (.chgRead d a) s = .next ((charged s t 1).putTask (((drawn s t 1).setX d 0xFFFFFFFFFFFFFFFF).advance 4))) ∧
  (∀ d a s t, OnThread s t 1 →
    exec (.chgLow d a) s = .next ((charged s t 1).putTask
      (({ drawn s t 1 with mark := (t.x a).toNat % 2 ^ 32,
                           armed := (t.x a).toNat % 2 ^ 32 < (drawn s t 1).account }.setX d (BitVec.ofNat 64 t.mark)).advance 4))) ∧
  (∀ d a s t, OnThread s t 1 →
    exec (.chgHold d a) s = .next ((charged s t 1).putTask
      (({ drawn s t 1 with holdField := (t.x a).extractLsb' 0 16 }.setX d (t.holdField.zeroExtend 64)).advance 4)))

/-- R211 and R213. `tl.wait` completes where its timeline has reached xB and waits where it has not but will; a value that the
timeline can never reach traps ILLEGAL_OP. `tl.adv` waits until the task's nests are done and advances timeline 4–7 by xB; one of timelines 0–3 traps at issue. -/
def Obligations.Timelines : Prop :=
  (∀ tl b s t, OnThread s t 1 → tl.toNat < 8 → tl ≠ 2 →
    ((t.x b).toNat ≤ t.timeline tl.toNat → t.tlWaitBad tl.toNat (t.x b).toNat = false →
      exec (.tlWait tl b) s = .next ((charged s t 1).putTask ((drawn s t 1).advance 4))) ∧
    (t.timeline tl.toNat < (t.x b).toNat → t.tlWaitBad tl.toNat (t.x b).toNat = false →
      exec (.tlWait tl b) s = .next ((charged s t 1).putTask ((drawn s t 1).block (.tlWait tl b)))) ∧
    ((tl.toNat < 4 → t.issued.getD tl.toNat 0 < (t.x b).toNat) → (4 ≤ tl.toNat → t.timeline tl.toNat < (t.x b).toNat) →
      exec (.tlWait tl b) s = .next (faultedIn (charged s t 1) (drawn s t 1) .illegalOp 0))) ∧
  (∀ b s t, OnThread s t 1 → t.arms = [] → (t.x b).toNat ≤ t.timeline 2 →
    exec (.tlWait 2 b) s = .next ((charged s t 1).putTask ((drawn s t 1).advance 4))) ∧
  (∀ tl b s t, OnThread s t 1 → 4 ≤ tl.toNat → tl.toNat < 8 → t.timeline tl.toNat + (t.x b).toNat < 2 ^ 64 →
    (t.nests = [] → exec (.tlAdv tl b) s = .next ((charged s t 1).putTask
      ((drawn s t 1).setTimeline tl.toNat (t.timeline tl.toNat + (t.x b).toNat) |>.advance 4))) ∧
    (t.nests ≠ [] → exec (.tlAdv tl b) s = .next ((charged s t 1).putTask ((drawn s t 1).block (.tlAdv tl b))))) ∧
  (∀ tl b s t, OnThread s t 1 → 4 ≤ tl.toNat → 2 ^ 64 ≤ t.timeline tl.toNat + (t.x b).toNat →
    exec (.tlAdv tl b) s = .next (faultedIn (charged s t 1) (drawn s t 1) .illegalOp 0)) ∧
  (∀ tl b s t, OnThread s t 0 → tl.toNat < 4 → exec (.tlAdv tl b) s = .next (faultedAtIssue s t .illegalOp 0))

namespace Sys2Proof.Claims

/-! ### Metered commands, from R104–R111 -/

/-- A command's units, as runs of equal draws: how many there are, and what they draw together. -/
def unitsOf (runs : List (Nat × Nat)) : Nat := (runs.map Prod.fst).sum
def drawOf (runs : List (Nat × Nat)) : Nat := (runs.map fun r => r.1 * r.2).sum

/-- All units of a command of task `t` are granted with one debit: the account has fallen by their draw, what the command
names has its units, and the gate is RUNNING (R108). -/
def granted (u : State) (t : Task) (kind : CmdKind) (runs : List (Nat × Nat)) : State :=
  let p := u.debit t (drawOf runs)
  let c : Cmd := { kind := kind, addr := 0, issue := 0, issued := true, runs := runs, done := 0 }
  p.1.putTask { (if unitsOf runs = 0 then p.2 else p.2.applyGrant c (unitsOf runs)) with gate := .running, cmd := none }

/-- A scalar instruction refused at its issue draw. -/
def refusedInstr (t : Task) (i : Instr) : Cmd :=
  { kind := .instr, addr := t.pc, issue := 1, issued := false, runs := [], done := 0, instr := some i }

/-- The package after a command took its number. -/
def numbered (u : State) (k : Nat) : State := { u with nextId := u.nextId + k }

/-- A new operation on tl2, of `n` tiles on a section (R153, R209). -/
def newOp (id : Nat) (addr : Word) (sec n : Nat) (ovw mig : Bool) : Op2 :=
  { id := id, addr := addr, sec := sec, ungranted := n, left := 0, granted := 0, start := none, zero := false,
    ovw := ovw, mig := mig, engine := none, node := none }

/-- A new go of task `t` into a section (R156): it is launched unless its gate is still ahead. -/
def newGo (id sec : Nat) (t : Task) (gate : Option (Nat × Nat)) (srcs : List (Source × Nat × Nat)) : Go :=
  { id := id, sec := sec, addr := t.pc, gate := gate,
    launched := (gate.map fun g => decide (g.2 ≤ t.timeline g.1)).getD true, srcs := srcs }

end Sys2Proof.Claims

/-- R78, R108, R111 and R113. A scalar instruction whose draw the account does not cover does not issue: the gate enters HOLD, its
timer set to the hold field. Where that is 0 the hold has run out at once, and a task whose granted work is done ends SHORTFALL with the
draw as shortfall; another one when its granted work is done. -/
def Obligations.RefusedDraw : Prop :=
  ∀ i d len f s t, scalar i = some (d, len, f) → OnThread s t 0 → t.account = 0 →
    (t.holdField ≠ 0 ∨ t.idle = false → exec i s = .next (s.putTask
      { t with cmd := some (refusedInstr t i), gate := .hold, holdLeft := t.holdField.toNat * 64 })) ∧
    (t.holdField = 0 → t.idle = true → exec i s = .next (finish (s.retire
      { t with cmd := some (refusedInstr t i), gate := .stopped, holdLeft := 0 } .shortfall .shortfall 1 0 0 t.pc.toNat)))

/-- R105, R160 and R161. A nest whose operands are legal and whose elements all pass the checks issues: with its units all
funded it stands among the task's nests, every element granted, and the thread goes on 32 bytes later. A check that fails traps,
with its subcode, and grants nothing; operands that its operation does not take trap ILLEGAL_OP at issue. -/
def Obligations.NestIssue : Prop :=
  (∀ w s t, OnThread s t 4 → nestOk w = true → t.nestChecks w (nestTotal w) 0 = none →
    4 + nestTotal w * nestDraw w ≤ t.account →
    exec (.nest w) s = .next (granted (numbered (charged s t 4) 1)
      { (drawn s t 4).advance 32 with nests := t.nests ++
        [{ id := s.nextId, addr := t.pc, w := w, bd := t.x w.xd, ba := t.x w.xa, bb := t.x w.xb, granted := 0, ran := 0, v := 0 }] }
      (.nest s.nextId) [(nestTotal w, nestDraw w)])) ∧
  (∀ w s t c sub, OnThread s t 4 → nestOk w = true → t.nestChecks w (nestTotal w) 0 = some (c, sub) →
    exec (.nest w) s = .next (faultedIn (charged s t 4) (drawn s t 4) c sub)) ∧
  (∀ w s t, OnThread s t 0 → nestOk w = false → exec (.nest w) s = .next (faultedAtIssue s t .illegalOp 0))

/-- R214–R217 and R219. A copy whose descriptor reads and passes the checks is queued under the next number of its timeline, its
blocks all granted where the account covers them; `tcopy.dmd` is the same in demand mode. A descriptor address that is no multiple
of 64 traps MISALIGN at issue. -/
def Sys2Proof.Claims.CopyIssue : Prop :=
  ∀ i tl a dmd, (i = .tcopy tl a ∧ dmd = false ∨ i = .tcopyDmd tl a ∧ dmd = true) →
    (∀ s t u t' d, OnThread s t 2 → (t.x a).toNat % 64 = 0 →
      (charged s t 2).readDesc (drawn s t 2) (t.x a).toNat dmd = (u, .ok (t', .ok d)) →
      t'.copyBad tl.toNat d = none → 2 + d.blocks * 2 ≤ t.account →
      exec i s = .next (granted (numbered u 1)
        { t'.advance 4 with
          issued := setAt t'.issued tl.toNat (t'.issued.getD tl.toNat 0 + 1)
          copies := t'.copies ++ [{ id := u.nextId, n := tl.toNat, num := t'.issued.getD tl.toNat 0 + 1, addr := t'.pc, d := d,
                                    granted := 0, ran := 0, running := false, cancelled := false, finished := false, rest := [] }] }
        (.copy u.nextId) [(d.blocks, 2)])) ∧
    (∀ s t u t' d c sub, OnThread s t 2 → (t.x a).toNat % 64 = 0 →
      (charged s t 2).readDesc (drawn s t 2) (t.x a).toNat dmd = (u, .ok (t', .ok d)) →
      t'.copyBad tl.toNat d = some (c, sub) → exec i s = .next (finish (u.trapAt t' c sub))) ∧
    (∀ s t, OnThread s t 0 → (t.x a).toNat % 64 ≠ 0 → exec i s = .next (faultedAtIssue s t .misalign 0))

/-- The copies that `tcopy.cancel` on timeline `n` acts on, in issue order; those of them that end at once, none of which has written part of a
slot of a FIFO; and the ports of those that run (R220). -/
def Sys2Proof.Claims.toCancel (t : Task) (n : Nat) : List Copy := t.copies.filter fun c => !c.finished && c.n == n
def Sys2Proof.Claims.ending (t : Task) (n : Nat) : List Copy := (toCancel t n).filter t.slotEnd
def Sys2Proof.Claims.endingPorts (t : Task) (n : Nat) : List PortId :=
  (((ending t n).filter Copy.running).map Copy.port).eraseDups

/-- The port of a frozen one (R316). -/
def Sys2Proof.Claims.portOf (f : Frozen) : PortId := { kind := f.kind, place := f.place, part := f.part }

/-- R209 and R220. `tcopy.cancel` ends every copy of its timeline that is not complete, or, where one has written part of a slot of a FIFO,
marks it to end with that slot, and gives their count. Those that end count on their timeline, which is then the largest number up to which
all are done, and hold no join decrement; the records of their frozen ports are withdrawn. Nothing else of the task changes but its program
counter, which moves on, and the copies of other timelines stay as they are. -/
def Sys2Proof.Claims.CopyCancel : Prop :=
  (∀ d tl s t n counted, OnThread s t 1 → n = tl.toNat →
    counted = (ending t n).foldl (fun u c => u.finish c.n c.num) (drawn s t 1) →
    exec (.tcopyCancel d tl) s = .next
      ((((endingPorts t n).foldl (fun u p => (t.frozen.filter (portOf · = p)).foldl (fun u f =>
        (f.record.map fun i => u.settleFault t.die i 3).getD u) u) (charged s t 1)).putTask
        (({ drawn s t 1 with
            tl := counted.tl, finished := counted.finished,
            copies := (toCancel t n).foldl (fun l c => l.map fun x => if x.id = c.id then
              (if t.slotEnd c = true then { c with cancelled := true, finished := true, rest := [] }
               else { c with cancelled := true }) else x) t.copies,
            frozen := t.frozen.filter (portOf · ∉ endingPorts t n),
            spaceWait := t.spaceWait.filter (·.1 ∉ (ending t n).map Copy.port) } : Task).setX d
          (BitVec.ofNat 64 (toCancel t n).length) |>.advance 4)).refillRing t.die none)) ∧
  (∀ (t : Task) n num K, n < 8 → num < 2 ^ 64 → (∀ p ∈ t.finished, p.2 < 2 ^ 64) → K = (t.finish n num).timeline n →
    t.timeline n ≤ K ∧ (∀ i, t.timeline n < i → i ≤ K → i = num ∨ (n, i) ∈ t.finished) ∧ K + 1 ≠ num ∧ (n, K + 1) ∉ t.finished ∧
    (∀ m < 8, m ≠ n → (t.finish n num).timeline m = t.timeline m) ∧
    ∀ p, p ∈ (t.finish n num).finished ↔ (p = (n, num) ∨ p ∈ t.finished) ∧ ¬ (p.1 = n ∧ t.timeline n < p.2 ∧ p.2 ≤ K))

/-- A task whose sections are drained has a pass left open at a place and port: it ends FAULTED with FIBRE_MALFORMED, subcode 8, at its
program counter (R243, R244). -/
def Sys2Proof.Claims.leftOpen (u : State) (t : Task) (place port : Nat) (ag : Bool) : State :=
  finish ((u.putTask t).takeTrap (.thread t.handle) .fibreMalformed
    (8 + 256 * place + 2 ^ 18 * port + (if ag then 2 ^ 20 else 0)) t.pc.toNat 0)

/-- Section `sec` is drained: its goes are forgotten, what its engines formed has joined the task's view, and the thread is past the
`drain` (R154, R250). -/
def Sys2Proof.Claims.pastDrain (u : State) (t : Task) (sec : Nat) : State :=
  let p := u.joinSection { t with gos := t.gos.filter fun g => g.sec != sec } sec
  p.1.putTask (p.2.advance 4)

/-- R149, R151–R154 and R243. `bar`, `bar.cfg` and `drain` complete once what they wait for is done and no unit holds part of a pass:
the sections are empty; `bar.cfg` then puts the staged image in force, and what a drained section's engines formed joins the view. Where
it is not done they wait, `drain` also while an earlier command to the same destination is outstanding (log entry 71). A pass that is
left open traps FIBRE_MALFORMED. -/
def Sys2Proof.Claims.BarResults : Prop :=
  (∀ s t, OnThread s t 1 → t.arms = [] → (drawn s t 1).barMet = true → (drawn s t 1).openPass (fun _ => true) = none →
    exec .bar s = .next ((charged s t 1).putTask ({ drawn s t 1 with gos := [] }.advance 4)) ∧
    (t.staged = none →
      exec .barCfg s = .next ((charged s t 1).putTask ({ drawn s t 1 with gos := [] }.advance 4))) ∧
    (∀ fs, t.staged = some fs → (drawn s t 1).bindingsOk fs = true →
      exec .barCfg s = .next ((charged s t 1).putTask
        (({ drawn s t 1 with gos := [], staged := none } : Task).install fs |>.advance 4)))) ∧
  (∀ s t, OnThread s t 1 → t.arms = [] → (drawn s t 1).barMet = false →
    exec .bar s = .next ((charged s t 1).putTask ((drawn s t 1).block .bar)) ∧
    exec .barCfg s = .next ((charged s t 1).putTask ((drawn s t 1).block .barCfg))) ∧
  (∀ i s t place port ag, i = .bar ∨ i = .barCfg → OnThread s t 1 → t.arms = [] → (drawn s t 1).barMet = true →
    (drawn s t 1).openPass (fun _ => true) = some (place, port, ag) →
    exec i s = .next (leftOpen ((charged s t 1).putTask ((drawn s t 1).block i)) ((drawn s t 1).block i) place port ag)) ∧
  (∀ sec s t, OnThread s t 1 →
    ((charged s t 1).drainMet (drawn s t 1) sec.toNat = true → (drawn s t 1).openPass (· == sec.toNat) = none →
      exec (.drain sec) s = .next (pastDrain (charged s t 1) (drawn s t 1) sec.toNat)) ∧
    ((drawn s t 1).drained sec.toNat = false ∨
        (charged s t 1).joinsLate (drawn s t 1) ((drawn s t 1).sectionRows sec.toNat) = true →
      exec (.drain sec) s = .next ((charged s t 1).putTask ((drawn s t 1).block (.drain sec)))) ∧
    (∀ place port ag, (charged s t 1).drainMet (drawn s t 1) sec.toNat = true →
      (drawn s t 1).openPass (· == sec.toNat) = some (place, port, ag) →
      exec (.drain sec) s = .next (leftOpen (charged s t 1) (drawn s t 1) place port ag)))

/-- A task that has issued a `fence` and waits in it, for the portal requests that were outstanding then (R295). -/
def Sys2Proof.Claims.fencing (t : Task) (k : BitVec 3) : Task := { t with fenceReqs := some t.portalIds }.block (.fence k)

/-- R295. `fence` waits for the copies issued so far, for the work that `bar` covers, and for the replies of the portal requests that
were outstanding when it issued, as its bits 0, 1 and 2 say; a mask of 0 traps ILLEGAL_OP at issue with no draw (log entry 46), on a
Bureau with VAL = 0 (log entry 44). On a Bureau it completes at once. Requests that the fabric issues while it waits it does not wait for. -/
def Sys2Proof.Claims.FenceResults : Prop :=
  (∀ k s t, OnThread s t 1 → k ≠ 0 → k.getLsbD 1 = false →
    ((k.getLsbD 0 = true → t.copiesDone = true) → (k.getLsbD 2 = true → t.portalIds = []) →
      exec (.fence k) s = .next ((charged s t 1).putTask { (drawn s t 1).advance 4 with fenceReqs := none })) ∧
    ((k.getLsbD 0 = true ∧ t.copiesDone = false) ∨ (k.getLsbD 2 = true ∧ t.portalIds ≠ []) →
      exec (.fence k) s = .next ((charged s t 1).putTask (fencing (drawn s t 1) k)))) ∧
  (∀ k s t, OnThread s t 1 → k.getLsbD 1 = true → t.arms = [] → (drawn s t 1).barMet = true →
    (drawn s t 1).openPass (fun _ => true) = none → (k.getLsbD 0 = true → t.copiesDone = true) →
    (k.getLsbD 2 = true → t.portalIds = []) →
    exec (.fence k) s = .next ((charged s t 1).putTask ({ drawn s t 1 with gos := [], fenceReqs := none }.advance 4))) ∧
  (∀ k s t, OnThread s t 1 → k.getLsbD 1 = true → t.arms = [] →
    (drawn s t 1).barMet = false ∨ (k.getLsbD 0 = true ∧ t.copiesDone = false) ∨ (k.getLsbD 2 = true ∧ t.portalIds ≠ []) →
    exec (.fence k) s = .next ((charged s t 1).putTask (fencing (drawn s t 1) k))) ∧
  (∀ k s t place port ag, OnThread s t 1 → k.getLsbD 1 = true → t.arms = [] → (drawn s t 1).barMet = true →
    (k.getLsbD 0 = true → t.copiesDone = true) → (k.getLsbD 2 = true → t.portalIds = []) →
    (drawn s t 1).openPass (fun _ => true) = some (place, port, ag) →
    exec (.fence k) s =
      .next (leftOpen ((charged s t 1).putTask (fencing (drawn s t 1) k)) (fencing (drawn s t 1) k) place port ag)) ∧
  (∀ k s t l, s.current = .thread t.handle → s.task? t.handle = some t → t.ready = true → t.gate = .running →
    t.threadFrozen = false → t.paid = true → t.wait = some (.fence k) → t.fenceReqs = some l → k.getLsbD 1 = false →
    (k.getLsbD 0 = true → t.copiesDone = true) →
    ((k.getLsbD 2 = true → ∀ r ∈ l, r ∉ t.portalIds) →
      exec (.fence k) s = .next (s.putTask { t.advance 4 with fenceReqs := none })) ∧
    (k.getLsbD 2 = true → (∃ r ∈ l, r ∈ t.portalIds) → exec (.fence k) s = .next (s.putTask t))) ∧
  (∀ k s d x, OnBureau s d x → k ≠ 0 → exec (.fence k) s = .next (onBureau s d (x.bureau.advance 4))) ∧
  (∀ s t, OnThread s t 0 → exec (.fence 0) s = .next (faultedAtIssue s t .illegalOp 0)) ∧
  (∀ s d x, OnBureau s d x → exec (.fence 0) s = .next (onBureau s d (trapped x.bureau 1 0)))

/-- R150, R153, R155, R156 and R209. `cfg.load` draws the frames that the account covers, reads and checks
them, and stages an image whose frames are all granted and pass; `arm` puts an operation of xB tiles on tl2 and
queues them on the section's engines, and what is done at the head of tl2
advances it; `strm.go` and `strm.cond` give every source that the descriptor selects its pass, the latter's
held back until its gate is reached. What they name is granted whole where the account covers it. That frames of an image and the counts
of LEVEL generators are read ahead, as the thread reads, is log entry 49. -/
def Obligations.StreamCommands : Prop :=
  (∀ a s t T n p u t' fs e, OnThread s t 8 → (t.x a).toNat % 32 = 0 → t.loading = [] → t.loadGrant = 0 →
    T = { (drawn s t 8).block (.cfgLoad a) with staged := none } →
    n = (charged s t 8).framesLeft T (t.x a).toNat [] → 0 < min n T.account →
    p = (charged s t 8).debit T (min n T.account) →
    State.scanImage (t.x a).toNat (min n T.account) p.1
      { p.2 with
        loadGrant := min n T.account, gate := if n ≤ T.account then .running else .short,
        cmd := if n ≤ T.account then none else some { kind := .cfgLoad, addr := t.pc, issue := 8, issued := true,
                                                      runs := [(n, 1)], done := T.account } } [] = (u, t', fs, e) →
    (e = .whole → exec (.cfgLoad a) s = .next (u.putTask
      ({ t' with gate := .running, cmd := none, loading := [], loadGrant := 0, staged := some fs }.advance 4))) ∧
    (e = .more → exec (.cfgLoad a) s = .next (u.putTask { t' with loading := fs }))) ∧
  (∀ sec b s t, OnThread s t 1 → (t.x b).toNat < 2 ^ 32 → (drawn s t 1).sectionEngines sec.toNat ≠ [] →
    1 + (t.x b).toNat * (drawn s t 1).sectionDraw sec.toNat ≤ t.account →
    exec (.arm sec b) s = .next (finish ((granted (numbered (charged s t 1) 1)
      { (drawn s t 1).advance 4 with ops2 := t.ops2 ++ [newOp s.nextId t.pc sec.toNat (t.x b).toNat false false] }
      (.arm s.nextId) [((t.x b).toNat, (drawn s t 1).sectionDraw sec.toNat)]).settleTl2 t.handle))) ∧
  (∀ i sec a gate s t u t' ags, (i = .strmGo sec a ∧ gate = none ∨
      ∃ b, i = .strmCond sec a b ∧ gate = some ((t.x b).toNat % 8, (t.x b).toNat / 8)) →
    OnThread s t 1 → (drawn s t 1).srcBad (t.x a) = false →
    State.agCounts (numbered (charged s t 1) 1) (drawn s t 1) ((drawn s t 1).goAgs (t.x a)) = .ok (u, t', ags) →
    (t'.goSources (t.x a) ags = [] → exec i s = .next (u.putTask (t'.advance 4))) ∧
    (t'.goSources (t.x a) ags ≠ [] →
      1 + drawOf (waveRuns ((t'.goSources (t.x a) ags).map Prod.snd)) ≤ t.account →
      exec i s = .next (granted u
        (({ t'.advance 4 with gos := t'.gos ++ [newGo s.nextId sec.toNat t gate (t'.goSources (t.x a) ags)] } :
          Task).addPasses s.nextId (t.x a) ags)
        (.go s.nextId) (waveRuns ((t'.goSources (t.x a) ags).map Prod.snd)))))

namespace Sys2Proof.Claims

/-! ### Ends of tasks, from R94, R283–R302 and R337–R343 -/

/-- What `done` answers in a state `S` for a task `t` whose draw was taken (R340). -/
def DoneAnswers (S : State) (t : Task) (r : Out) : Prop :=
  ∀ T0 T V U, T0 = { t with regionOpen := false, committing := true, wait := some .done, paid := true } →
    T = { T0 with gos := [] } → V = S.putTask T0 → U = V.putTask T → t.arms = [] →
    (t.barMet = false ∨ (∃ c ∈ t.copies, c.finished = false) → r = .next V) ∧
    (t.barMet = true → (∀ c ∈ t.copies, c.finished = true) → T0.openPass (fun _ => true) = none →
      (V.inOrder T = false → r = .next U) ∧
      (V.inOrder T = true → U.staleBy T ≠ [] →
        r = .next (finish (U, [.doom t.handle ((U.staleBy T).all fun w => w == some t.crec.ctx)]))) ∧
      (V.inOrder T = true → U.staleBy T = [] → (State.requestAll T (U.landCommit T).lines U).2.1 = true →
        (∀ u ∈ U.readers (U.landCommit T).lines t.handle, u.crec.ctx = t.crec.ctx → U.isOldest u = false) →
        r = .next (finish (U.afterCommit T (U.landCommit T)))) ∧
      (V.inOrder T = true → U.staleBy T = [] → (State.requestAll T (U.landCommit T).lines U).2.1 = true →
        (∃ u ∈ U.readers (U.landCommit T).lines t.handle, u.crec.ctx = t.crec.ctx ∧ U.isOldest u = true) →
        r = .next (finish (U, [.doom t.handle true]))) ∧
      (V.inOrder T = true → U.staleBy T = [] → (State.requestAll T (U.landCommit T).lines U).2.1 = false →
        r = .next (finish ((State.requestAll T (U.landCommit T).lines U).1.putTask T,
          (State.requestAll T (U.landCommit T).lines U).2.2))))

/-! ### Channels, from R263–R280 -/

/-- What a push of element `e` on channel `c` leaves of a task `t` in state `u` once the checks are past (R267, R277): it waits
while there is no room, and else holds the element, its share grown by each 128-byte line begun. -/
def Pushes (u : State) (t : Task) (i : Instr) (c : Chan) (e : List Byte) (r : Out) : Prop :=
  (c.capacity < c.entries.length + t.heldFor c.num + 1 →
    r = .next (u.putTask ({ t with pushData := some e }.block i))) ∧
  (c.entries.length + t.heldFor c.num + 1 ≤ c.capacity →
    ∀ t1, (t.heldFor c.num * c.size % 128 = 0 ∧ u.growShare { t with pushData := some e } 0 128 = .ok t1 ∨
        t.heldFor c.num * c.size % 128 ≠ 0 ∧ t1 = { t with pushData := some e }) →
      r = .next (u.putTask ((spaceFound { t1 with pushes := t1.pushes ++ [(c.num, e)], pushData := none }).advance 4)))

/-- For a pop: its width class, destination, channel and scratch registers (R277). -/
def popForm : Instr → Option (Bool × Reg × Reg × Reg)
  | .chPopW d a => some (true, d, a, 0)
  | .chPopD d a b => some (false, d, a, b)
  | _ => none

/-- What a pop of channel `c` leaves of a task `t` in state `u` once the checks are past (R268, R277, R327, R372): it waits while no
entry is published, and else marks the oldest entry as popped by the task, gives its low bytes, and stores an element of 16 bytes or
more at xB; a popped notice exempts a task on a throttled lead cluster for 2,048 instructions, and restarts an exemption. -/
def Pops (u : State) (t : Task) (i : Instr) (c : Chan) (d b : Reg) (r : Out) : Prop :=
  (c.next = none → r = .next (u.putTask (t.block i))) ∧
  (∀ e t2, c.next = some e →
    t2 = (if e.notice = true ∧ (1 ≤ (u.die t.die).step t.lead ∨ 0 < t.exempt) then { t with exempt := 2048 } else t) →
    (c.size < 16 ∨ b = 0 →
      r = .next ((u.putChan (c.popNext t.handle)).putTask
        ((t2.setX d (BitVec.ofNat 64 (ofLeBytes (e.data.take (min c.size 8))))).advance 4))) ∧
    (16 ≤ c.size → b ≠ 0 → t.nestTouches true (t.x b).toNat c.size = false →
      r = .next (((u.putChan (c.popNext t.handle)).scratchWrite t (t.x b).toNat e.data).putTask
        ((t2.setX d (BitVec.ofNat 64 (ofLeBytes (e.data.take (min c.size 8))))).advance 4))))

end Sys2Proof.Claims

/-- R94, R95 and R130. `spawn` and `spawnj` read a record in the task's own view and hold it, 64 bytes of the task's share, to be
delivered at commit; `spawnj` puts xB in the place of its join address and, where it is not 0, holds an increment of that cell. That the read
of the record waits for no nest that has still to write its bytes is the model's choice (log entry 76). -/
def Obligations.Spawns : Prop :=
  ∀ i a j s t u t' l t1, OnThread s t 1 → (i = .spawn a ∧ j = none ∨ ∃ b, i = .spawnj a b ∧ j = some (t.x b)) →
    (t.x a).toNat % 64 = 0 → (∀ v, j = some v → v.toNat % 4 = 0 ∧ (v ≠ 0 → t.crec.rohint = false)) →
    (charged s t 1).viewRead (drawn s t 1) 0 (t.x a).toNat 64 = (u, .ok (t', l)) →
    MayName u t.crec.ctx (Record.ofBytes l).ctx → u.growShare t' 0 64 = .ok t1 →
    exec i s = .next (u.putTask ((spaceFound { t1 with
      spawns := t1.spawns ++ [(j.map fun v => { Record.ofBytes l with dw2 := v }).getD (Record.ofBytes l)]
      joinIncs := t1.joinIncs ++ j.toList.filter (· ≠ 0) }).advance 4))

/-- R266–R269, R286, R290, R291, R298 and R340. `done` waits for the task's work and copies, then for commit order; a task that has
read a line published since its Snapshot is aborted; one that no lock keeps waiting takes the next commit number and lands all its
effects. Neither a read of a commit of its own context nor one that such a commit would make aborts the oldest timed task of a context.
A task that waits in `done` does the same when its commit is tried again.
That the commits which spare a task are those of its context made while it was the oldest timed task there, and no others, is log entry
34: each commit marks that task, resident or saved, and nothing else. -/
def Obligations.DoneCommits : Prop :=
  (∀ s t, OnThread s t 0 → DoneAnswers (charged s t 0) (drawn s t 0) (exec .done s)) ∧
  (∀ s t, s.task? t.handle = some t → t.gate = .running → t.threadFrozen = false → t.paid = true → t.wait = some .done →
    DoneAnswers s t (exec (.taskCommit t.handle) s)) ∧
  (∀ (s : State) (t : Task) line who n r, (line, who, n) ∈ s.published → t.snapNum < n → r ∈ t.readSet → r.2 = line →
    t.irrevocable = false → ¬ (who = some t.crec.ctx ∧ n ∈ t.sparedBy) → who ∈ s.staleBy t) ∧
  (∀ (s : State) (t : Task), (t.irrevocable = true → s.staleBy t = []) ∧
    ∀ who ∈ s.staleBy t, ∃ line n r, (line, who, n) ∈ s.published ∧ t.snapNum < n ∧ r ∈ t.readSet ∧ r.2 = line ∧
      ¬ (who = some t.crec.ctx ∧ n ∈ t.sparedBy)) ∧
  (∀ (s : State) ctx n, (s.spare ctx n).published = s.published ∧ (s.spare ctx n).dies = s.dies ∧
    (∀ t, s.task? t.handle = some t → (s.spare ctx n).task? t.handle =
      some (if t.crec.ctx = ctx ∧ s.isOldest t = true then { t with sparedBy := n :: t.sparedBy } else t)) ∧
    ∀ v, v ∈ s.saved → (if v.task.crec.ctx = ctx ∧ s.isOldest v.task = true then
      { v with task := { v.task with sparedBy := n :: v.task.sparedBy } } else v) ∈ (s.spare ctx n).saved)

/-- What a held reduction makes of a value: the sum modulo 2^32 or 2^64, the signed minimum or maximum, OR, AND, or the FP32 sum, with
the flags it raises (R301). -/
def Sys2Proof.Claims.combined (op : Nat) (ftz : Bool) (v x : Nat) : Nat × Flags :=
  match op with
  | 0 => ((v + x) % 2 ^ 32, 0)
  | 1 => ((v + x) % 2 ^ 64, 0)
  | 2 => (if (BitVec.ofNat 32 v).toInt ≤ (BitVec.ofNat 32 x).toInt then v % 2 ^ 32 else x % 2 ^ 32, 0)
  | 3 => (if (BitVec.ofNat 32 v).toInt ≤ (BitVec.ofNat 32 x).toInt then x % 2 ^ 32 else v % 2 ^ 32, 0)
  | 4 => (v % 2 ^ 32 ||| x % 2 ^ 32, 0)
  | 5 => (v % 2 ^ 32 &&& x % 2 ^ 32, 0)
  | _ => fadd .s 0 ftz v x

/-- What the reductions that a task holds at an address come to, with the flags that the fold raises: from its own stored bytes, or the
committed ones, first the thread's in issue order, then each rnode's by rising cell in firing order (R302). -/
def Sys2Proof.Claims.folded (s : State) (t : Task) (a w : Nat) : Nat × Flags :=
  ((t.reds.filter fun r => r.addr = a ∧ r.cell = none) ++
    (List.range 107).flatMap fun c => t.reds.filter fun r => r.addr = a ∧ r.cell = some c).foldl
      (fun p r => ((combined r.op t.crec.ftz p.1 r.operand.toNat).1, p.2 ||| (combined r.op t.crec.ftz p.1 r.operand.toNat).2))
      (ofLeBytes ((List.range w).map fun i => (t.cup.get? (a + i)).getD (s.byteAt (a + i))), 0)

/-- R283, R285, R286, R301 and R302. A commit takes the next number and publishes every byte of the task's Cupboard; at an address where
the task holds reductions it publishes what they fold to. No other byte changes, for a task without join changes, completion record or
locked line, and in a package without host-coherent windows. The fold raises the flags of its additions. -/
def Obligations.CommitPublishes : Prop :=
  (∀ (s : State) (t : Task), t.joinIncs = [] → t.joinDecs = [] → t.crec.dw2 = 0 → t.crec.report = 0 → t.lockLine = none →
    s.mem.wf = true → Overlay.wf t.cup = true → (∀ w ∈ s.hcw, w.en = false) →
    (∀ r ∈ t.reds, r.width = (if r.op = 1 then 8 else 4) ∧ r.op < 7 ∧ ∀ c, r.cell = some c → c < 107) →
    (∀ r ∈ t.reds, ∀ q ∈ t.reds, r.addr = q.addr ∧ r.width = q.width ∨ r.addr + r.width ≤ q.addr ∨ q.addr + q.width ≤ r.addr) →
    (s.landCommit t).s.commitSeq = s.commitSeq + 1 ∧
    (∀ r ∈ t.reds, ∀ i < r.width, ((s.landCommit t).s.byteAt (r.addr + i)).toNat =
      (folded s t r.addr r.width).1 / 2 ^ (8 * i) % 256) ∧
    (∀ a, (∀ r ∈ t.reds, a < r.addr ∨ r.addr + r.width ≤ a) →
      (s.landCommit t).s.byteAt a = (t.cup.get? a).getD (s.byteAt a)) ∧
    (s.landCommit t).conts = [] ∧ (s.landCommit t).s.scratch = s.scratch ∧ (s.landCommit t).s.tasks = s.tasks) ∧
  (∀ (s : State) (t : Task) a w, t.reds ≠ [] → (∀ r ∈ t.reds, r.addr = a ∧ r.width = w ∧ r.op < 7 ∧ ∀ c, r.cell = some c → c < 107) →
    (s.foldReds t t.cup).2 = (folded s t a w).2)

/-- R103, R112, R116 and R338. A task that ends without committing leaves no effect: its task is gone, every byte of memory reads
as before, no commit number is taken, and its unused grains are in the die budget again, up to 2^38. -/
def Obligations.RetireDiscards : Prop :=
  ∀ (s : State) (t : Task) e tr sf g sub addr x, t.crec.report = 0 → t.crec.dw2 = 0 → s.die? t.die = some x →
    (∀ f ∈ x.faults, f.handle = t.handle → f.state ≠ 0) → (∀ c ∈ s.channels, c.state ≠ .broken) →
    (∀ u ∈ s.tasks, u.handle ≠ t.handle → u.die = t.die → ∀ f ∈ u.frozen, f.record ≠ none) →
    ∃ s' js x', s.retire t e tr sf g sub addr = (s', js) ∧ s'.task? t.handle = none ∧ (∀ a, s'.byteAt a = s.byteAt a) ∧
      s'.commitSeq = s.commitSeq ∧ s'.scratch = s.scratch ∧ s'.die? t.die = some x' ∧
      x'.budget = min (x.budget + t.account + t.skipRefund) (2 ^ 38)

/-- R339 and R342. `abort` with bit 32 of xA re-queues the task with its re-run count one higher, or at 65 retires it
CONFLICT_LIMIT; without it the task retires DISCARDED with subcode xA[31:0]; a value of 2^33 or above traps ILLEGAL_OP. It draws
nothing. -/
def Obligations.AbortResults : Prop :=
  ∀ a s t, OnThread s t 0 →
    (2 ^ 33 ≤ (t.x a).toNat → exec (.abort a) s = .next (faultedIn (charged s t 0) (drawn s t 0) .illegalOp 0)) ∧
    ((t.x a).toNat < 2 ^ 33 → 2 ^ 32 ≤ (t.x a).toNat → t.rerun < 64 →
      exec (.abort a) s = .next ((charged s t 0).requeue (drawn s t 0) (t.rerun + 1) t.irrevocable false)) ∧
    ((t.x a).toNat < 2 ^ 33 → 2 ^ 32 ≤ (t.x a).toNat → 64 ≤ t.rerun →
      exec (.abort a) s = .next (finish ((charged s t 0).retire { drawn s t 0 with gate := .stopped } .conflictLimit .none
        0 0 0 0))) ∧
    ((t.x a).toNat < 2 ^ 32 →
      exec (.abort a) s = .next (finish ((charged s t 0).retire { drawn s t 0 with gate := .stopped } .discarded .none 0 0
        (t.x a).toNat t.pc.toNat)))

/-- The side of a channel that an operand or a link names: the reader or the writer. -/
def Sys2Proof.Claims.sideOf (c : Chan) (reader : Bool) : Word := if reader then c.reader else c.writer

/-- A channel with a side held by `h`. -/
def Sys2Proof.Claims.withSide (c : Chan) (reader : Bool) (h : Word) : Chan :=
  if reader then { c with reader := h } else { c with writer := h }

/-- R276 and R363. `ch.open` claims a side of a channel: code 0 where the task holds it, whatever the state, or where it was free; 1 where
another task holds it; 5 on a BROKEN channel; 2 at or above the entry count. A CLOSED channel becomes OPEN first, empty, with what its
table entry says, or its refusal gives code 3 for a refused field, list or page, 4 where its slots find no room; a list, or a page that it
names, in a window whose link is down ends the task with HOST. -/
def Sys2Proof.Claims.ChannelOpens : Prop :=
  (∀ d a s t, OnThread s t 1 → chanBad (t.x a) = false → (charged s t 1).chanCount t.crec.ctx ≤ chanNum (t.x a) →
    exec (.chOpen d a) s = .next ((charged s t 1).putTask (((drawn s t 1).setX d 2).advance 4))) ∧
  (∀ d a s t u pa, OnThread s t 1 → chanBad (t.x a) = false →
    (charged s t 1).cte (drawn s t 1) (chanNum (t.x a)) = (u, .ok (some pa)) →
    (∀ c, u.chan? t.crec.ctx (chanNum (t.x a)) = some c →
      (sideOf c (chanSide (t.x a)) = t.handle →
        exec (.chOpen d a) s = .next (u.putTask (((drawn s t 1).setX d 0).advance 4))) ∧
      (sideOf c (chanSide (t.x a)) ≠ t.handle → c.state = .broken →
        exec (.chOpen d a) s = .next (u.putTask (((drawn s t 1).setX d 5).advance 4))) ∧
      (sideOf c (chanSide (t.x a)) ≠ t.handle → sideOf c (chanSide (t.x a)) ≠ 0 → c.state ≠ .broken →
        exec (.chOpen d a) s = .next (u.putTask (((drawn s t 1).setX d 1).advance 4))) ∧
      (sideOf c (chanSide (t.x a)) ≠ t.handle → sideOf c (chanSide (t.x a)) = 0 → c.state ≠ .broken →
        exec (.chOpen d a) s = .next ((u.putChan (withSide c (chanSide (t.x a)) t.handle)).putTask
          (((drawn s t 1).setX d 0).advance 4)))) ∧
    (∀ v k, u.chan? t.crec.ctx (chanNum (t.x a)) = none →
      u.makeChan t.die t.crec.ctx t.crec.cls (chanNum (t.x a)) pa = (v, .error (.code k)) →
      exec (.chOpen d a) s = .next (v.putTask (((drawn s t 1).setX d (BitVec.ofNat 64 k)).advance 4))) ∧
    (∀ v c, u.chan? t.crec.ctx (chanNum (t.x a)) = none →
      u.makeChan t.die t.crec.ctx t.crec.cls (chanNum (t.x a)) pa = (v, .error (.trap c)) →
      exec (.chOpen d a) s = .next (faultedIn v (drawn s t 1) c 0)) ∧
    (∀ v c, u.chan? t.crec.ctx (chanNum (t.x a)) = none → t.handle ≠ 0 →
      u.makeChan t.die t.crec.ctx t.crec.cls (chanNum (t.x a)) pa = (v, .ok c) →
      exec (.chOpen d a) s = .next ((v.putChan (withSide c (chanSide (t.x a)) t.handle)).putTask
        (((drawn s t 1).setX d 0).advance 4)))) ∧
  (∀ (u v : State) d ctx cls va n e, u.access d ctx va .load = (v, .error e) →
    u.spillPages d ctx cls va (n + 1) = (v, .error (if e = .host then .trap .host else .code 3))) ∧
  (∀ (u v w : State) d ctx cls va n pa e page p, u.access d ctx va .load = (v, .ok (pa, e)) → e.io = false →
    page = (v.touch d pa cls).natAt pa 8 → (v.touch d pa cls).translate d ctx page = (w, .ok p) → page % 4096 = 0 → p.ch = true →
    (w.linkDown (p.phys page) = true → u.spillPages d ctx cls va (n + 1) = (w, .error (.trap .host))) ∧
    (w.linkDown (p.phys page) = false → w.hasHome (p.phys page) = false →
      u.spillPages d ctx cls va (n + 1) = (w, .error (.code 3))) ∧
    (∀ x l, w.linkDown (p.phys page) = false → w.hasHome (p.phys page) = true →
      w.spillPages d ctx cls (va + 8) n = (x, .ok l) →
      u.spillPages d ctx cls va (n + 1) = (x, .ok (p.phys page :: l)))) ∧
  (∀ (u : State) d ctx cls num pa w0 w1 w2, w0 = u.natAt pa 8 → w1 = u.natAt (pa + 8) 8 → w2 = u.natAt (pa + 16) 8 →
    (5 < w0 % 8 ∨ w0 / 2 ^ 20 % 2 ^ 12 < w0 / 2 ^ 32 % 2 ^ 16 ∨ w1 % 8 ≠ 0 ∨
        (u.die (w2 % 4)).has (w2 / 4 % 128) = false →
      u.makeChan d ctx cls num pa = (u, .error (.code 3))) ∧
    (∀ v, w0 % 8 ≤ 5 → w0 / 2 ^ 32 % 2 ^ 16 ≤ w0 / 2 ^ 20 % 2 ^ 12 → w1 % 8 = 0 →
      (u.die (w2 % 4)).has (w2 / 4 % 128) = true →
      (∀ e, u.spillPages d ctx cls w1 (w0 / 2 ^ 20 % 2 ^ 12) = (v, .error e) → u.makeChan d ctx cls num pa = (v, .error e)) ∧
      (∀ ps x, u.spillPages d ctx cls w1 (w0 / 2 ^ 20 % 2 ^ 12) = (v, .ok ps) →
        x = v.slice (w2 % 4) (w2 / 4 % 128) (w2 / 2 ^ 9 % 4) →
        (x.freeSlots.length < ((w0 / 16 % 2 ^ 12 + 1) * (4 * 2 ^ (w0 % 8)) + 127) / 128 →
          u.makeChan d ctx cls num pa = (v, .error (.code 4))) ∧
        (((w0 / 16 % 2 ^ 12 + 1) * (4 * 2 ^ (w0 % 8)) + 127) / 128 ≤ x.freeSlots.length →
          ∃ v' c, u.makeChan d ctx cls num pa = (v', .ok c) ∧ c.ctx = ctx ∧ c.num = num ∧ c.state = .opened ∧
            c.esize = w0 % 8 ∧ c.cap = w0 / 16 % 2 ^ 12 + 1 ∧ c.budget = w0 / 2 ^ 32 % 2 ^ 16 ∧ c.entries = [] ∧
            c.head = 0 ∧ c.tail = 0 ∧ c.grown = 0 ∧ c.spilled = 0 ∧ c.usedPages = [] ∧ c.remote = false ∧
            c.writer = 0 ∧ c.reader = 0 ∧ c.pages = ps))))

/-- R275, R278–R280 and R363. `ch.close` by the holder of the side, and on a BROKEN channel by any task, is held until commit and gives 0,
else 1; `ch.stat` gives the status word of a channel, 0 for a CLOSED one and all ones at or above the entry count, where `ch.close` and
`ch.bind` trap CHANNEL_MISUSE; `ch.bind` in a system context asks the peer to bind an OPEN channel whose side for the link is free, granting a
far writer the room there is, binds it where the peer agrees, and gives 1 or 2 where the channel or the peer does not allow it; in
another context it traps PRIV, and HOST where the link to the context's table entry is down. -/
def Sys2Proof.Claims.ChannelControl : Prop :=
  (∀ d a s t, OnThread s t 1 → chanBad (t.x a) = false → (charged s t 1).chanCount t.crec.ctx ≤ chanNum (t.x a) →
    exec (.chStat d a) s = .next ((charged s t 1).putTask (((drawn s t 1).setX d 0xFFFFFFFFFFFFFFFF).advance 4)) ∧
    exec (.chClose d a) s = .next (faultedIn (charged s t 1) (drawn s t 1) .channelMisuse (1 + 16 * chanNum (t.x a))) ∧
    (∀ b, (charged s t 1).systemErr t.crec.ctx = none → (t.x b).toNat < 2 ^ 37 →
      exec (.chBind d a b) s =
        .next (faultedIn (charged s t 1) (drawn s t 1) .channelMisuse (1 + 16 * chanNum (t.x a))))) ∧
  (∀ d a s t u pa, OnThread s t 1 → chanBad (t.x a) = false →
    (charged s t 1).cte (drawn s t 1) (chanNum (t.x a)) = (u, .ok (some pa)) →
    (∀ c, u.chan? t.crec.ctx (chanNum (t.x a)) = some c →
      (c.state = .broken ∨ sideOf c (chanSide (t.x a)) = t.handle →
        exec (.chClose d a) s = .next (u.putTask
          ((({ drawn s t 1 with closes := t.closes ++ [(chanNum (t.x a), chanSide (t.x a))] } : Task).setX d 0).advance 4))) ∧
      (c.state ≠ .broken → sideOf c (chanSide (t.x a)) ≠ t.handle →
        exec (.chClose d a) s = .next (u.putTask (((drawn s t 1).setX d 1).advance 4))) ∧
      exec (.chStat d a) s = .next (u.putTask (((drawn s t 1).setX d (BitVec.ofNat 64 c.status)).advance 4))) ∧
    (u.chan? t.crec.ctx (chanNum (t.x a)) = none →
      exec (.chClose d a) s = .next (u.putTask (((drawn s t 1).setX d 1).advance 4)) ∧
      exec (.chStat d a) s = .next (u.putTask (((drawn s t 1).setX d 0).advance 4))) ∧
    (∀ b, (charged s t 1).systemErr t.crec.ctx = none → (t.x b).toNat < 2 ^ 37 →
      (u.chan? t.crec.ctx (chanNum (t.x a)) = none →
        exec (.chBind d a b) s = .next (u.putTask (((drawn s t 1).setX d 1).advance 4))) ∧
      (∀ c, u.chan? t.crec.ctx (chanNum (t.x a)) = some c →
        (c.state ≠ .opened ∨ c.remote = true ∨ c.unbinding = true ∨ sideOf c (!(t.x b).getLsbD 36) ≠ 0 →
          exec (.chBind d a b) s = .next (u.putTask (((drawn s t 1).setX d 1).advance 4))) ∧
        (∀ v n k, c.state = .opened → c.remote = false → c.unbinding = false → sideOf c (!(t.x b).getLsbD 36) = 0 →
          k = (if (t.x b).getLsbD 36 = true then c.capacity - c.entries.length else 0) →
          State.peerAnswer { u with out := u.out ++ [.bindRequest t.crec.ctx (chanNum (t.x a)) ((t.x b).extractLsb' 0 16)
              ((t.x b).extractLsb' 16 16) ((t.x b).extractLsb' 32 4) ((t.x b).getLsbD 36) k] }
            ((t.x b).extractLsb' 32 4) = (v, n) →
          (n = none → exec (.chBind d a b) s = .next (v.putTask (((drawn s t 1).setX d 2).advance 4))) ∧
          (∀ r, n = some r → exec (.chBind d a b) s = .next ((v.putChan { c with
            remote := true, rdir := (t.x b).getLsbD 36, peer := (t.x b).extractLsb' 0 16, far := (t.x b).extractLsb' 16 16,
            port := (t.x b).extractLsb' 32 4, credit := if (t.x b).getLsbD 36 = true then 0 else r, granted := k,
            entries := c.entries.map fun e => { e with sent := false } }).putTask
              (((drawn s t 1).setX d 0).advance 4))))))) ∧
  (∀ d a b s t c, OnThread s t 1 → (charged s t 1).systemErr t.crec.ctx = some c →
    exec (.chBind d a b) s = .next (faultedIn (charged s t 1) (drawn s t 1) c 0)) ∧
  (∀ (u : State) ctx, u.systemErr ctx = if u.ctxDown ctx = true then some .host else
    if u.isSystem ctx = true then none else some .priv) ∧
  (∀ c : Chan, c.status = (c.entries.filter fun e => e.tent = none).length % 2 ^ 32 +
    2 ^ 32 * (c.usedPages.length % 2 ^ 16) + 2 ^ 48 * c.state.code + 2 ^ 51 * (if c.writer = 0 then 0 else 1) +
    2 ^ 52 * (if c.reader = 0 then 0 else 1) + 2 ^ 53 * (if c.remote then 1 else 0))

/-- R266, R267, R275 and R277. `ch.push.w` and `ch.push.d` by the holder of the writer side hold an element until commit: xB's low
bytes, or for an element of 16 bytes or more the bytes of scratch at xB; without room they wait with the element read. A push that the
side or the width forbids traps CHANNEL_MISUSE. A push that waited goes on as it began. -/
def Sys2Proof.Claims.ChannelPushes : Prop :=
  (∀ i word a b, (i = .chPushW a b ∧ word = true ∨ i = .chPushD a b ∧ word = false) →
    (∀ s t u c e, OnThread s t 2 → chanBad (t.x a) = false → t.pushData = none → t.crec.rohint = false →
      (charged s t 2).openChan (drawn s t 2) (chanNum (t.x a)) = (u, .ok c) → c.pushBad t.handle word = none →
      (c.size ≤ 8 ∧ e = lowBytes c.size (t.x b) ∨
        8 < c.size ∧ t.elementTrap (t.x b).toNat c.size = none ∧ t.nestTouches true (t.x b).toNat c.size = false ∧
          e = u.scratchRead t (t.x b).toNat c.size) →
      Pushes u (drawn s t 2) i c e (exec i s)) ∧
    (∀ s t u c sub, OnThread s t 2 → chanBad (t.x a) = false →
      (charged s t 2).openChan (drawn s t 2) (chanNum (t.x a)) = (u, .ok c) → c.pushBad t.handle word = some sub →
      exec i s = .next (faultedIn u (drawn s t 2) .channelMisuse (sub + 16 * chanNum (t.x a)))) ∧
    (∀ s t u c e, s.task? t.handle = some t → t.gate = .running → t.threadFrozen = false → t.paid = true →
      t.wait = some i → chanBad (t.x a) = false → t.pushData = some e →
      s.openChan t (chanNum (t.x a)) = (u, .ok c) → c.pushBad t.handle word = none →
      Pushes u t i c e (exec (.channelPushRelease t.handle) s)))

/-- R266, R268, R275 and R277. `ch.pop.w`, `ch.pop.d` and `ch.peek` by the holder of the reader side give the oldest published entry,
the pops tentatively; without one they wait. A pop that the side or the width forbids traps CHANNEL_MISUSE. What waited goes on as it
began. -/
def Sys2Proof.Claims.ChannelPops : Prop :=
  (∀ i word d a b, popForm i = some (word, d, a, b) →
    (∀ s t u c, OnThread s t 2 → chanBad (t.x a) = false →
      (charged s t 2).openChan (drawn s t 2) (chanNum (t.x a)) = (u, .ok c) → c.popBad t.handle (some word) = none →
      (16 ≤ c.size → b ≠ 0 → t.elementTrap (t.x b).toNat c.size = none) → Pops u (drawn s t 2) i c d b (exec i s)) ∧
    (∀ s t u c sub, OnThread s t 2 → chanBad (t.x a) = false →
      (charged s t 2).openChan (drawn s t 2) (chanNum (t.x a)) = (u, .ok c) → c.popBad t.handle (some word) = some sub →
      exec i s = .next (faultedIn u (drawn s t 2) .channelMisuse (sub + 16 * chanNum (t.x a)))) ∧
    (∀ s t u c, s.task? t.handle = some t → t.gate = .running → t.threadFrozen = false → t.paid = true →
      t.wait = some i → chanBad (t.x a) = false → s.openChan t (chanNum (t.x a)) = (u, .ok c) →
      c.popBad t.handle (some word) = none → (16 ≤ c.size → b ≠ 0 → t.elementTrap (t.x b).toNat c.size = none) →
      Pops u t i c d b (exec (.channelPopRelease t.handle) s))) ∧
  (∀ d a s t u c, OnThread s t 1 → chanBad (t.x a) = false →
    (charged s t 1).openChan (drawn s t 1) (chanNum (t.x a)) = (u, .ok c) → c.popBad t.handle none = none →
    (c.next = none → exec (.chPeek d a) s = .next (u.putTask ((drawn s t 1).block (.chPeek d a)))) ∧
    (∀ e, c.next = some e → exec (.chPeek d a) s = .next (u.putTask (((drawn s t 1).setX d
      (BitVec.ofNat 64 (ofLeBytes (e.data.take (min c.size 8))))).advance 4))))

/-- For a push, pop or peek: its draw and its channel register (R277). -/
def Sys2Proof.Claims.channelForm : Instr → Option (Nat × Reg)
  | .chPushW a _ => some (2, a)
  | .chPushD a _ => some (2, a)
  | .chPopW _ a => some (2, a)
  | .chPopD _ a _ => some (2, a)
  | .chPeek _ a => some (1, a)
  | _ => none

/-- R199, R263, R275 and R363. A push, pop or peek of a channel that is not OPEN, or of one at or above the entry count, traps
CHANNEL_MISUSE; where its table entry cannot be read the task ends with what the read met, and where a page of the channel that holds
an entry lies in a window whose link is down it ends with HOST. That the pages of the entries held are judged at the push, pop or peek, and
that a page without a home is PERM, are log entry 18. -/
def Sys2Proof.Claims.ChannelFails : Prop :=
  (∀ i n a s t u, channelForm i = some (n, a) → OnThread s t n → chanBad (t.x a) = false →
    (∀ sub, (charged s t n).openChan (drawn s t n) (chanNum (t.x a)) = (u, .error (.misuse sub)) →
      exec i s = .next (faultedIn u (drawn s t n) .channelMisuse (sub + 16 * chanNum (t.x a)))) ∧
    (∀ e va, (charged s t n).openChan (drawn s t n) (chanNum (t.x a)) = (u, .error (.acc e va)) → e ≠ .miss →
      exec i s = .next (faultedIn u (drawn s t n) e.trap 0)) ∧
    (∀ va, (charged s t n).openChan (drawn s t n) (chanNum (t.x a)) = (u, .error (.acc .miss va)) →
      exec i s = .next (u.freeze ((drawn s t n).block i)
        { kind := 7, place := 0, part := 0, va := BitVec.ofNat 64 va, counter := 0, access := 0, addr := t.pc, record := none }))) ∧
  (∀ (s : State) t num, s.ctxDown t.crec.ctx = false →
    (s.chanCount t.crec.ctx ≤ num → s.openChan t num = (s, .error (.misuse 1))) ∧
    ∀ u pa, s.cte t num = (u, .ok (some pa)) →
      (u.chan? t.crec.ctx num = none → s.openChan t num = (u, .error (.misuse 2))) ∧
      ∀ c, u.chan? t.crec.ctx num = some c →
        (c.state ≠ .opened → s.openChan t num = (u, .error (.misuse 2))) ∧
        (c.state = .opened → (∃ p ∈ c.usedPages, u.linkDown (c.pages.getD p 0) = true) →
          s.openChan t num = (u, .error (.acc .host 0))) ∧
        (c.state = .opened → (∀ p, u.linkDown (c.pages.getD p 0) = false) → (∃ p ∈ c.usedPages, u.hasHome (c.pages.getD p 0) = false) →
          s.openChan t num = (u, .error (.acc .perm 0))) ∧
        (c.state = .opened → (∀ p, u.linkDown (c.pages.getD p 0) = false) → (∀ p, u.hasHome (c.pages.getD p 0) = true) →
          s.openChan t num = (u, .ok c))) ∧
  (∀ (s : State) t num, s.ctxDown t.crec.ctx = true → s.openChan t num = (s, .error (.acc .host 0)))

/-- R245, R252, R253, R255 and R258–R261. On an engine that the operand names, `mx.fmt` binds it anew once its queues are empty,
`mx.swap` queues an exchange of its planes, `mx.csr` and `mx.cond` queue a build of the shadow plane, `mx.stat` gives its status, and
`mx.clr` clears planes and cursor once its queues are empty. -/
def Sys2Proof.Claims.MatrixCommands : Prop :=
  ∀ a s t e, OnThread s t 1 → t.engine? ((t.x a).toNat % 16) = some e → (t.x a).toNat % 16 < t.crec.engines →
    (∀ sec b, t.x a &&& 0xFFFFFF0000008000 = 0 → (t.x a).toNat / 16 % 16 ≤ 8 →
      (t.x a).toNat / 2 ^ 16 % 2 ^ 24 ≠ 0 →
      (e.empty = false → exec (.mxFmt sec a b) s = .next ((charged s t 1).putTask ((drawn s t 1).block (.mxFmt sec a b)))) ∧
      (e.empty = true →
        (∀ o ∈ t.engines, o.k ≠ e.k → o.sec = some sec.toNat → o.fmt = some ((t.x a).toNat / 16 % 16)) →
        (t.x b).toNat % destBytes ((t.x a).toNat / 16 % 16) = 0 →
        sideOk t.frames t.crec.rows e.k ((t.x a).toNat / 2 ^ 12 % 4) ((t.x a).getLsbD 11) = true →
        exec (.mxFmt sec a b) s = .next ((charged s t 1).putTask
          (((drawn s t 1).putEngine (e.bind sec.toNat (t.x a) (t.x b))).advance 4)))) ∧
    (t.x a &&& 0xFFFFFFFFFFFFFFF0 = 0 → e.fmt ≠ none →
      exec (.mxSwap a) s = .next ((charged s t 1).putTask
        (((drawn s t 1).putEngine (e.pushArr .swap t.pc)).advance 4)) ∧
      (∀ b, e.code < 2 → (t.x b).toNat % 64 = 0 →
        exec (.mxCsr a b) s = .next ((numbered (charged s t 1) 1).putTask
          (((drawn s t 1).putEngine (e.pushLoad s.nextId .csr (t.x b) t.pc 0)).advance 4)))) ∧
    (∀ b, t.x a &&& 0xFFFFFFFFFFFFFFC0 = 0 → e.fmt ≠ none → e.code < 2 → (t.x b).toNat % 64 = 0 →
      exec (.mxCond a b) s = .next ((numbered (charged s t 1) 1).putTask
        (((drawn s t 1).putEngine (e.pushLoad s.nextId (.cond ((t.x a).toNat / 16 % 4 + 1)) (t.x b) t.pc 0)).advance 4))) ∧
    (t.x a &&& 0xFFFFFFFFFFFFFFF0 = 0 →
      (∀ d, exec (.mxStat d a) s =
        .next ((charged s t 1).putTask (((drawn s t 1).setX d (t.mxStatus e)).advance 4))) ∧
      (e.empty = false → exec (.mxClr a) s = .next ((charged s t 1).putTask ((drawn s t 1).block (.mxClr a)))) ∧
      (e.empty = true → exec (.mxClr a) s = .next ((charged s t 1).putTask
        (((drawn s t 1).putEngine { e with active := Plane.fresh, shadow := Plane.fresh, cursor := 0 }).advance 4))))

/-- For a matrix command that names an engine: its draw, its operand register, the reserved bits of that register, and whether it needs
a format (R252–R255, R257–R261). -/
def Sys2Proof.Claims.engineOperand : Instr → Option (Nat × Reg × Word × Bool)
  | .mxFmt _ a _ => some (1, a, 0xFFFFFF0000008000, false)
  | .mxLds a _ => some (2, a, 0xFFFFFFFF000000E0, true)
  | .mxSwap a => some (1, a, 0xFFFFFFFFFFFFFFF0, true)
  | .mxGroup a _ => some (1, a, 0x7FFFFFFF0000FFF0, true)
  | .mxCsr a _ => some (1, a, 0xFFFFFFFFFFFFFFF0, true)
  | .mxCond a _ => some (1, a, 0xFFFFFFFFFFFFFFC0, true)
  | .mxStat _ a => some (1, a, 0xFFFFFFFFFFFFFFF0, false)
  | .mxClr a => some (1, a, 0xFFFFFFFFFFFFFFF0, false)
  | _ => none

/-- R252, R253, R256, R258 and R259. A matrix command whose operand names an engine at or above the count, or sets a reserved bit, traps
ILLEGAL_OP; one other than `mx.fmt`, `mx.stat` and `mx.clr` on an engine whose format is unset traps MX_FORMAT, as does `mx.fmt` with a
format code above 8, and `mx.csr` and `mx.cond` with a format other than BF16 and FP16; `mx.arm` traps ILLEGAL_OP on a section without
engines and on reserved bits. Each draws first. In a task without engines every matrix command traps at issue and draws nothing. -/
def Sys2Proof.Claims.MatrixTraps : Prop :=
  (∀ i n a r f s t, engineOperand i = some (n, a, r, f) → OnThread s t n → t.crec.engines ≠ 0 →
    (t.crec.engines ≤ (t.x a).toNat % 16 ∨ t.x a &&& r ≠ 0 →
      exec i s = .next (faultedIn (charged s t n) (drawn s t n) .illegalOp 0)) ∧
    (∀ e, f = true → (t.x a).toNat % 16 < t.crec.engines → t.x a &&& r = 0 →
      t.engine? ((t.x a).toNat % 16) = some e → e.fmt = none →
      exec i s = .next (faultedIn (charged s t n) (drawn s t n) .mxFormat 0))) ∧
  (∀ sec a b s t e, OnThread s t 1 → (t.x a).toNat % 16 < t.crec.engines → t.x a &&& 0xFFFFFF0000008000 = 0 →
    t.engine? ((t.x a).toNat % 16) = some e → 8 < (t.x a).toNat / 16 % 16 →
    exec (.mxFmt sec a b) s = .next (faultedIn (charged s t 1) (drawn s t 1) .mxFormat 0)) ∧
  (∀ i a b s t e c, (i = .mxCsr a b ∧ t.x a &&& 0xFFFFFFFFFFFFFFF0 = 0 ∨ i = .mxCond a b ∧ t.x a &&& 0xFFFFFFFFFFFFFFC0 = 0) →
    OnThread s t 1 → (t.x a).toNat % 16 < t.crec.engines → t.engine? ((t.x a).toNat % 16) = some e → e.fmt = some c → 2 ≤ c →
    exec i s = .next (faultedIn (charged s t 1) (drawn s t 1) .mxFormat 0)) ∧
  (∀ sec a b s t, OnThread s t 1 → t.crec.engines ≠ 0 →
    2 ^ 32 ≤ (t.x a).toNat ∨ (t.x b).toNat / 2 ^ 32 % 2 ^ 30 ≠ 0 ∨ t.sectionEngines sec.toNat = [] →
    exec (.mxArm sec a b) s = .next (faultedIn (charged s t 1) (drawn s t 1) .illegalOp 0)) ∧
  (∀ i s t, OnThread s t 0 → t.crec.engines = 0 →
    ((∃ sec a b, i = .mxFmt sec a b) ∨ (∃ a, i = .mxSwap a) ∨ (∃ a, i = .mxClr a) ∨ (∃ d a, i = .mxStat d a) ∨
      (∃ a b, i = .mxLds a b) ∨ (∃ a b, i = .mxGroup a b) ∨ (∃ a b, i = .mxCsr a b) ∨ (∃ a b, i = .mxCond a b) ∨
      ∃ sec a b, i = .mxArm sec a b) →
    exec i s = .next (faultedAtIssue s t .illegalOp 0))

/-- R209, R254, R256 and R257. `mx.lds` queues a dense load of the shadow plane, `mx.arm` sets the cursors of the section's engines and
arms them for tiles, and `mx.group` arms one engine for a table of tile groups: each whole where the account covers it. -/
def Obligations.MatrixGrants : Prop :=
  (∀ a b s t e, OnThread s t 2 → (t.x a).toNat % 16 < t.crec.engines → t.x a &&& 0xFFFFFFFF000000E0 = 0 →
    t.engine? ((t.x a).toNat % 16) = some e → e.fmt ≠ none → t.ldsBad e (t.x a) (t.x b) = none → 2 + ldsBlocks e.code * 2 ≤ t.account →
    exec (.mxLds a b) s = .next (granted (numbered (charged s t 2) 1)
      (((drawn s t 2).putEngine (e.pushLoad s.nextId (.lds ((t.x a).getLsbD 4) ((t.x a).toNat / 256 % 2 ^ 24)) (t.x b) t.pc
        (ldsBlocks e.code))).advance 4) (.lds e.k s.nextId) [(ldsBlocks e.code, 2)])) ∧
  (∀ sec a b s t T, OnThread s t 1 → t.crec.engines ≠ 0 → (t.x a).toNat < 2 ^ 32 → (t.x b).toNat / 2 ^ 32 % 2 ^ 30 = 0 →
    t.sectionEngines sec.toNat ≠ [] → ((t.x b).getLsbD 63 = true → t.crec.mig = true) →
    1 + (t.x b).toNat % 2 ^ 32 * t.sectionDraw sec.toNat ≤ t.account →
    T = (t.sectionEngines sec.toNat).foldl (fun (u : Task) (e : Engine) =>
      u.putEngine (e.pushArr (.cursor ((t.x a).extractLsb' 0 32) false) t.pc).runCursors) (drawn s t 1) →
    exec (.mxArm sec a b) s = .next (finish ((granted (numbered (charged s t 1) 1)
      { T.advance 4 with ops2 := t.ops2 ++ [newOp s.nextId t.pc sec.toNat ((t.x b).toNat % 2 ^ 32) ((t.x b).getLsbD 62)
        ((t.x b).getLsbD 63)] }
      (.arm s.nextId) [((t.x b).toNat % 2 ^ 32, t.sectionDraw sec.toNat)]).settleTl2 t.handle))) ∧
  (∀ a b s t e u t' gs, OnThread s t 1 → (t.x a).toNat % 16 < t.crec.engines → t.x a &&& 0x7FFFFFFF0000FFF0 = 0 →
    t.engine? ((t.x a).toNat % 16) = some e → e.fmt ≠ none → e.sec ≠ none → ((t.x a).getLsbD 63 = true → t.crec.mig = true) →
    (t.x b).toNat % 16 = 0 →
    State.groupTable (t.x b).toNat ((t.x a).toNat / 2 ^ 16 % 2 ^ 16 + 1) 0 (charged s t 1) (drawn s t 1) = (u, .ok (t', gs)) →
    1 + drawOf (groupRuns e.code gs) ≤ t.account →
    exec (.mxGroup a b) s = .next (finish ((granted (numbered u gs.length)
      { t'.advance 4 with ops2 := t'.ops2 ++ groupOps e ((t.x a).getLsbD 63) t'.pc u.nextId gs }
      (.group u.nextId gs.length) (groupRuns e.code gs)).settleTl2 t'.handle)))

namespace Sys2Proof.Claims

/-! ### The steps of a gang's units -/

/-- The step of a compute unit: the task, the cell, and what the unit's frame must hold (R164, R226, R228, R305–R308). -/
def cuStep : Instr → Option (Word × Nat × (BitVec 240 → Prop))
  | .cuFire h c => some (h, c, fun v => cuFibre v = false ∧ (cuOp v 0 < 0x80 ∨ cuOp v 0 = 0x85 ∨ 0x90 ≤ cuOp v 0))
  | .fibreUnitFire h c => some (h, c, fun v => cuFibre v = true ∧ ¬ (0x60 ≤ cuOp v 0 ∧ cuOp v 0 ≤ 0x66))
  | .joinStep h c => some (h, c, fun v => cuFibre v = true ∧ 0x60 ≤ cuOp v 0 ∧ cuOp v 0 ≤ 0x66)
  | .pmtEnter h c => some (h, c, fun v => cuFibre v = false ∧ cuOp v 0 = 0x80)
  | .pmtExit h c => some (h, c, fun v => cuFibre v = false ∧ cuOp v 0 = 0x81)
  | .ctlSeq h c => some (h, c, fun v => cuFibre v = false ∧ cuOp v 0 = 0x82)
  | .ctlPipe h c => some (h, c, fun v => cuFibre v = false ∧ cuOp v 0 = 0x83)
  | .ctlStrm h c => some (h, c, fun v => cuFibre v = false ∧ cuOp v 0 = 0x84)
  | .barNode h c => some (h, c, fun v => cuFibre v = false ∧ cuOp v 0 = 0x86)
  | _ => none

/-- The step of a generator: the task, the place, and the mode (R235–R239). -/
def agStep : Instr → Option (Word × Nat × Nat)
  | .affineElement h p => some (h, p, 1)
  | .gatherRequest h p => some (h, p, 2)
  | .scatterStore h p => some (h, p, 3)
  | .levelExpand h p => some (h, p, 4)
  | .channelAgElement h p => some (h, p, 5)
  | _ => none

/-- What a beat of unit `u` answers for a task whose fabric works: the unit fires, with all that is joined to it, or nothing
happens, or what stops it is taken on the state before (R163). -/
def BeatAnswers (s : State) (t : Task) (u : FUnit) (r : Out) : Prop :=
  (∀ s' t', s.beat t u = .ok (s', t') →
    (t'.beatFault = none → r = .next (s'.putTask { t' with hangCount := 0 })) ∧
    ∀ c sub addr, t'.beatFault = some (c, sub, addr) →
      r = .next (finish ((s'.putTask { t' with beatFault := none }).taskFault { t' with beatFault := none } c sub addr))) ∧
  (s.beat t u = .error .idle → r = .next s) ∧
  (∀ x, s.beat t u = .error x → r = .next (finish (s.stop t x)))

/-- A task whose granted work runs: it has started and its gate is not STOPPED (R101, R111). -/
def Works (s : State) (t : Task) : Prop := s.task? t.handle = some t ∧ t.ready = true ∧ t.gate ≠ .stopped

/-- A beat of unit `u` needs no other firing: no item waits to move on, and the links that it looks at first have slots (R163). -/
def Looks (t : Task) (u : FUnit) : Prop := t.hop1 = none ∧ ∃ l r, t.wants u = l :: r ∧ ∀ d ∈ l, t.slots d ≠ 0

/-- Unit `u` fires by itself in a beat and leaves its task as `T`, in a state `s'`; no link without slots holds what it wrote, nor is
one waiting for a record that an `exit` did not send. What it wrote then moves on, and that is the next state (R163, R164). -/
def Leaves (s' : State) (t : Task) (u : FUnit) (T : Task) (r : Out) : Prop :=
  Looks t u → T.beatFault = none → (t.stamp T u).spareOuts u = [] → (t.stamp T u).zeroHeld = [] →
    r = .next (s'.putTask { (t.stamp T u).settle ((t.stamp T u).allDests.length * 16) with hangCount := 0 })

/-- A beat of unit `u` meets a fault, which is taken on the state before it. -/
def Meets (s : State) (t : Task) (u : FUnit) (c : Trap) (sub addr : Nat) (r : Out) : Prop :=
  Looks t u → r = .next (finish (s.taskFault t c sub addr))

/-- Ordinary units, `merge` and `recirc` (R164, R185, R186): a unit fires once each of its enabled inputs holds a record and each of
its outputs can take one; a firing takes the records, runs the stages and leaves their results. `merge` combines, alternates, or
prefers its first port; `recirc` prefers the record that comes round, one pass further; at its bound it faults and emits nothing. -/
def CuBeats : Prop :=
  (∀ (t : Task) c x v taken first res acc fl, t.cell? c = some x →
    runStages t.crec.ftz v x.acc (fun n => if n ∈ taken then (t.portHead c n).getD LinkRec.none else LinkRec.none) first =
      (res, acc, fl) →
    ((∀ n ∈ cuOuts v, ∀ d ∈ t.outDests c n, t.room d = true) → t.fired x v taken first =
      (((t.takePorts c taken).flag fl).updCell c fun y => { y with acc := acc }).emit c (cuEmits v
        (fun n => if n ∈ taken then (t.portHead c n).getD LinkRec.none else LinkRec.none) x.acc res)) ∧
    ((∃ n ∈ cuOuts v, ∃ d ∈ t.outDests c n, t.room d = false) → t.fired x v taken first = none)) ∧
  (∀ s t c x v T, Works s t → t.cell? c = some x → x.cu = some v → cuFibre v = false →
    (cuOp v 0 < 0x80 → cuOp v 0 ≠ 0x71 → cuOp v 0 ≠ 0x72 → cuIns v ≠ [] → (∀ n ∈ cuIns v, t.portHead c n ≠ none) →
      t.fired x v (cuIns v) none = some T → Leaves s t (.cu c) T (exec (.cuFire t.handle c) s)) ∧
    (cuOp v 0 = 0x71 → ∀ a b, a = cuSel v 0 0 → b = cuSel v 0 1 →
      (∀ p q, cuImm v 0 % 4 = 0 → t.portHead c a = some p → t.portHead c b = some q →
        t.fired x v [a, b] (some (recombine p q)) = some T → Leaves s t (.cu c) T (exec (.cuFire t.handle c) s)) ∧
      (∀ p, cuImm v 0 % 4 = 1 → t.portHead c (if x.turn = true then b else a) = some p →
        (t.putCell { x with turn := !x.turn }).fired x v [if x.turn = true then b else a] (some p) = some T →
        Leaves s t (.cu c) T (exec (.cuFire t.handle c) s)) ∧
      (∀ p, cuImm v 0 % 4 = 2 → t.portHead c a = some p → t.fired x v [a] (some p) = some T →
        Leaves s t (.cu c) T (exec (.cuFire t.handle c) s)) ∧
      (∀ p, cuImm v 0 % 4 = 2 → t.portHead c a = none → t.portHead c b = some p → t.fired x v [b] (some p) = some T →
        Leaves s t (.cu c) T (exec (.cuFire t.handle c) s))) ∧
    (cuOp v 0 = 0x72 → ∀ a b r, a = cuSel v 0 0 → b = cuSel v 0 1 →
      (t.portHead c b = some r → r.p.toNat < cuImm v 0 → t.fired x v [b] (some { r with p := r.p + 1 }) = some T →
        Leaves s t (.cu c) T (exec (.cuFire t.handle c) s)) ∧
      (∀ U W : Task, t.portHead c b = some r → cuImm v 0 ≤ r.p.toNat → (∀ n ∈ cuOuts v, ∀ d ∈ t.outDests c n, t.room d = true) →
        Looks t (.cu c) → t.beatFault = none → U = t.stamp { t.takePorts c [b] with beatFault := some (.illegalOp, c, 0) } (.cu c) →
        U.spareOuts (.cu c) = [] → U.zeroHeld = [] → W = { U.settle (U.allDests.length * 16) with beatFault := none } →
        exec (.cuFire t.handle c) s = .next (finish ((s.putTask W).taskFault W .illegalOp c 0))) ∧
      (t.portHead c b = none → t.portHead c a = some r → t.fired x v [a] (some { r with p := 1, a := r.m }) = some T →
        Leaves s t (.cu c) T (exec (.cuFire t.handle c) s))))

/-- What a controller takes in a beat: a go while it is idle, the done of a child that owes one, or nothing (R307). -/
def ControllerTakes (t : Task) (c a b n : Nat) (x : CtlState) (y : CtlState) (ps : List Nat) : Prop :=
  (∃ r, x.go = none ∧ t.portHead c a = some r ∧ t.portHead c b = none ∧ ps = [a] ∧
    y = { go := some r, next := List.replicate n 0, await := List.replicate n false }) ∨
  (x.go ≠ none ∧ t.portHead c b = none ∧ ps = [] ∧ y = x) ∨
  (∃ r, x.go ≠ none ∧ t.portHead c b = some r ∧ x.await.getD r.t.toNat false = true ∧ ps = [b] ∧
    y = { x with await := setAt x.await r.t.toNat false })

/-- The next go of a controller, to child `k` for iteration `i` (R307): `seq` sends the next one once no done is owed; `pipe` the
lowest child that is free, has iterations left and whose predecessor has finished the iteration; `strm` each child once. -/
def ControllerSends (op N n : Nat) (y : CtlState) (k i : Nat) : Prop :=
  let may (k : Nat) : Prop := k < n ∧ y.next.getD k 0 < N ∧ y.await.getD k false = false ∧
    (k = 0 ∨ y.next.getD k 0 < y.next.getD (k - 1) 0 - (if y.await.getD (k - 1) false = true then 1 else 0))
  (op = 0x82 ∧ (∀ w ∈ y.await, w = false) ∧ y.next.sum < N * n ∧ k = y.next.sum % n ∧ i = y.next.sum / n) ∨
  (op = 0x83 ∧ may k ∧ (∀ j < k, ¬ may j) ∧ i = y.next.getD k 0) ∨
  (op = 0x84 ∧ k < n ∧ y.next.getD k 0 = 0 ∧ (∀ j < k, y.next.getD j 0 ≠ 0) ∧ i = 0)

/-- A controller has had every done that it waits for (R307). -/
def ControllerOver (op N n : Nat) (y : CtlState) : Prop :=
  (∀ w ∈ y.await, w = false) ∧ ((op = 0x82 ∧ y.next.sum = N * n) ∨ (op = 0x83 ∧ y.next.getD (n - 1) 0 = N) ∨
    (op = 0x84 ∧ ∀ m ∈ y.next, m = 1))

/-- Order nodes (R306–R308): a permit that returns is counted, up to 255, and each record that passes takes one; `pmt.exit` passes its
record and a permit; a controller sends a go per child and iteration and its done when all are back; `bar.node` passes operand a once
every input holds a record. -/
def OrderBeats : Prop :=
  (∀ s t c x v T T1 a b, Works s t → t.cell? c = some x → x.cu = some v → cuFibre v = false → a = cuSel v 0 0 → b = cuSel v 0 1 →
    (cuOp v 0 = 0x80 →
      (∀ r p, t.portHead c b = none → t.portHead c a = some r → x.permits = p + 1 →
        (t.takePorts c [a]).emit c [(0, .record r)] = some T1 → T = T1.updCell c (fun y => { y with permits := p }) →
        Leaves s t (.cu c) T (exec (.pmtEnter t.handle c) s)) ∧
      (∀ q, t.portHead c b = some q → x.permits < 255 → (t.takePorts c [b]).portHead c a = none →
        T = (t.takePorts c [b]).updCell c (fun y => { y with permits := x.permits + 1 }) →
        Leaves s t (.cu c) T (exec (.pmtEnter t.handle c) s)) ∧
      (∀ q r, t.portHead c b = some q → x.permits < 255 → (t.takePorts c [b]).portHead c a = some r →
        ((t.takePorts c [b]).takePorts c [a]).emit c [(0, .record r)] = some T1 →
        T = T1.updCell c (fun y => { y with permits := x.permits }) →
        Leaves s t (.cu c) T (exec (.pmtEnter t.handle c) s)) ∧
      (∀ q, t.portHead c b = some q → 255 ≤ x.permits →
        Meets s t (.cu c) .illegalOp c t.openGo (exec (.pmtEnter t.handle c) s))) ∧
    (cuOp v 0 = 0x81 → ∀ r, t.portHead c a = some r →
      (t.takePorts c [a]).emit c [(0, .record r), (1, .record LinkRec.none)] = some T →
      Leaves s t (.cu c) T (exec (.pmtExit t.handle c) s)) ∧
    (cuOp v 0 = 0x86 → ∀ r, (∀ n ∈ cuIns v, t.portHead c n ≠ none) → t.portHead c a = some r →
      (t.takePorts c (cuIns v)).emit c ((cuOuts v).map fun n => (n, .record r)) = some T →
      Leaves s t (.cu c) T (exec (.barNode t.handle c) s))) ∧
  (∀ s t c x v T T1 y ps i0 N n g, Works s t → t.cell? c = some x → x.cu = some v → cuFibre v = false →
    (i0 = .ctlSeq t.handle c ∧ cuOp v 0 = 0x82 ∨ i0 = .ctlPipe t.handle c ∧ cuOp v 0 = 0x83 ∨
      i0 = .ctlStrm t.handle c ∧ cuOp v 0 = 0x84) →
    N = cuImm v 0 % 4096 + 1 → n = cuImm v 0 / 4096 % 8 + 1 →
    ControllerTakes t c (cuSel v 0 0) (cuSel v 0 1) n x.ctl y ps → y.go = some g →
    (∀ k i, ControllerSends (cuOp v 0) N n y k i → ¬ ControllerOver (cuOp v 0) N n y →
      (t.takePorts c ps).emit c [(0, .record (ctlRec (if cuOp v 0 = 0x84 then N else i) (BitVec.ofNat 8 k) i))] = some T1 →
      T = T1.updCell c (fun z => { z with
        ctl := { y with next := modAt y.next k (· + 1), await := setAt y.await k true } }) →
      Leaves s t (.cu c) T (exec i0 s)) ∧
    (ControllerOver (cuOp v 0) N n y →
      (t.takePorts c ps).emit c [(1, .record (ctlRec N g.t 0))] = some T1 →
      T = T1.updCell c (fun z => { z with ctl := { y with go := none } }) →
      Leaves s t (.cu c) T (exec i0 s)))

/-- Arithmetic units in fibre mode (R226, R233): they take a token from every enabled input; items give the result of the stages on lane
0 as a V token, or E where one is E; equal stops, and D, pass; unlike tokens are malformed, subcode 4. A header goes on, one hop less. -/
def FibreBeats : Prop :=
  ∀ s t c x v toks T, Works s t → t.cell? c = some x → x.cu = some v → cuFibre v = true →
    ¬ (0x60 ≤ cuOp v 0 ∧ cuOp v 0 ≤ 0x66) → cuIns v ≠ [] → toks = (fun n => ((t.tokHead x n).map Prod.fst).getD absentTok) →
    (∀ n ∈ cuIns v, ∀ k, t.tokHead x n = some k → unitFault n (x.port n) (tokOf k.1) = none) →
    (∀ w, cuIn v 0 = true → t.tokHead x 0 ≠ none → tokOf (toks 0) = .h w →
      (t.takeUnit c [0]).emitAll x v (hNext w) = some T → Leaves s t (.cu c) T (exec (.fibreUnitFire t.handle c) s)) ∧
    ((∀ n ∈ cuIns v, t.tokHead x n ≠ none) →
      ((∀ n ∈ cuIns v, (tokOf (toks n)).isItem = true ∧ tokOf (toks n) ≠ .e) →
        (∀ res acc fl, busyStages v ≠ [] →
          runStages t.crec.ftz v x.acc (fun n => (Item.token (toks n)).asRecord) none = (res, acc, fl) →
          (((t.takeUnit c (cuIns v)).flag fl).updCell c fun y => { y with acc := acc }).emit c ((cuOuts v).map fun n =>
            (n, .token (mkTok 2 ((res.getD (cuOutSrc v n) LinkRec.none).v.headD 0)))) = some T →
          Leaves s t (.cu c) T (exec (.fibreUnitFire t.handle c) s)) ∧
        (busyStages v = [] →
          (t.takeUnit c (cuIns v)).emit c ((cuOuts v).map fun n => (n, .token (passToken v toks (cuOutSrc v n)))) = some T →
          Leaves s t (.cu c) T (exec (.fibreUnitFire t.handle c) s))) ∧
      ((∀ n ∈ cuIns v, (tokOf (toks n)).isItem = true) → (∃ n ∈ cuIns v, tokOf (toks n) = .e) →
        (t.takeUnit c (cuIns v)).emitAll x v absentTok = some T →
        Leaves s t (.cu c) T (exec (.fibreUnitFire t.handle c) s)) ∧
      (∀ j, (∀ n ∈ cuIns v, tokOf (toks n) = .stop j) → (t.takeUnit c (cuIns v)).emitAll x v (stopTok j) = some T →
        Leaves s t (.cu c) T (exec (.fibreUnitFire t.handle c) s)) ∧
      ((∀ n ∈ cuIns v, tokOf (toks n) = .done) → (t.takeUnit c (cuIns v)).emitAll x v doneTok = some T →
        Leaves s t (.cu c) T (exec (.fibreUnitFire t.handle c) s)) ∧
      (∀ n m j, n ∈ cuIns v → m ∈ cuIns v → tokOf (toks n) = .stop j → tokOf (toks m) ≠ .stop j → (∀ w, tokOf (toks 0) ≠ .h w) →
        Meets s t (.cu c) .fibreMalformed (4 + 256 * c + 2 ^ 18 * (cuIns v).headD 0) t.openGo
          (exec (.fibreUnitFire t.handle c) s)))

/-- What a join stage stands before (R227, R228, R233): the values taken from headers are in force, every enabled input holds a token,
which has the kind that its input accepts, and companions stand at tokens of their side's kind. -/
def JoinAt (t : Task) (x : Cell) (v : BitVec 240) (ka kb ca cb : BitVec 36) : Prop :=
  let j := joinPorts v
  let tok (o : Option Nat) : BitVec 36 := (o.bind fun n => (t.tokHead x n).map Prod.fst).getD absentTok
  (∀ n ∈ j.all, ∃ k f, t.tokHead x n = some (k, f) ∧ (f = true → j.fault x n (tokOf k) = none)) ∧
  ka = tok (some j.a) ∧ kb = tok j.b ∧ ca = tok j.ca ∧ cb = tok j.cb ∧ (∀ w, tokOf ka ≠ .h w) ∧
  (j.ca ≠ none → sameKind (tokOf ka) (tokOf ca) = true) ∧ (j.cb ≠ none → j.b ≠ none → sameKind (tokOf kb) (tokOf cb) = true) ∧
  (j.cb ≠ none → j.b = none → sameKind (tokOf ka) (tokOf cb) = true)

/-- No token that is malformed whatever values are in force, an unknown tag or a header, is at the head of input `n` (R233, R242). -/
def InForce (t : Task) (x : Cell) (n : Nat) : Prop :=
  ∀ k, t.tokHead x n = some k → tokOf k.1 ≠ .bad ∧ ∀ w, tokOf k.1 ≠ .h w

/-- Join stages (R228–R233, R242). A header or an unknown tag at an enabled input other than a is malformed, subcode 7 or 5, whether the
join reads that input or not, and whatever input a holds. Two inputs: equal stops and D pass; else the table's actions for the outcome are applied to the two sides,
and its emission gives coordinate or outcome with the companions; unlike stops are malformed, subcode 4. `jrepeat` gives each item of a
with the item of b; `jreduce` gathers a run of equal coordinates; `jstop` drops or lowers stops; `jcount` counts the items of a fibre. -/
def JoinBeats : Prop :=
  (∀ s t c x v l n r k e, Works s t → t.cell? c = some x → x.cu = some v → cuFibre v = true → 0x60 ≤ cuOp v 0 → cuOp v 0 ≤ 0x66 →
    (cuIns v).filter (· ≠ cuSel v 0 0) = l ++ n :: r → (∀ m ∈ l, InForce t x m) → t.tokHead x n = some k →
    (tokOf k.1 = .bad ∧ e = 5 ∨ ∃ w, tokOf k.1 = .h w ∧ e = 7) →
    Meets s t (.cu c) .fibreMalformed (e + 256 * c + 2 ^ 18 * n) t.openGo (exec (.joinStep t.handle c) s)) ∧
  ∀ s t0 t c x0 x v0 v j ka kb ca cb T, Works s t0 → t0.cell? c = some x0 → x0.cu = some v0 → cuFibre v0 = true →
    0x60 ≤ cuOp v0 0 → cuOp v0 0 ≤ 0x66 → cuSel v0 0 0 = cuSel v 0 0 →
    v = joinApply v0 x0.headers → x = { x0 with cu := some v, headers := [] } → t = t0.putCell x → j = joinPorts v →
    JoinAt t x v ka kb ca cb → (∀ n ∈ cuIns v0, n ≠ cuSel v0 0 0 → InForce t0 x0 n) →
    ((j.op = 0x60 ∨ j.op = 0x61 ∨ j.op = 0x64) →
      (∀ p, tokOf ka = .stop p → tokOf kb = .stop p → (t.consumeAll c j j.all).emitAll x v (stopTok p) = some T →
        Leaves s t0 (.cu c) T (exec (.joinStep t0.handle c) s)) ∧
      (∀ T1, tokOf ka = .done → tokOf kb = .done → (t.consumeAll c j j.all).emitAll x v doneTok = some T1 → T = T1.endPass c →
        Leaves s t0 (.cu c) T (exec (.joinStep t0.handle c) s)) ∧
      (∀ p q, tokOf ka = .stop p → tokOf kb = .stop q → p ≠ q →
        Meets s t0 (.cu c) .fibreMalformed (4 + 256 * c + 2 ^ 18 * j.a) t.openGo (exec (.joinStep t0.handle c) s)) ∧
      (∀ o actA actB em T1, o = joinOutcome (tokOf ka) (tokOf kb) → ((tokOf ka).isItem = true ∨ (tokOf kb).isItem = true) →
        tokOf ka ≠ .done → tokOf kb ≠ .done → actA = cuAct v o 0 → actB = cuAct v o 1 → em = cuAct v o 2 →
        (∀ n ∈ j.sideA, actA = 2 → (x.port n).window.length ≤ 1024) → (∀ n ∈ j.sideB, actB = 2 → (x.port n).window.length ≤ 1024) →
        T1 = (t.act c j j.sideA (tokOf ka).isItem actA).act c j j.sideB (tokOf kb).isItem actB →
        (em = 0 → Leaves s t0 (.cu c) T1 (exec (.joinStep t0.handle c) s)) ∧
        (em ≠ 0 → ∀ coord la lb, coord = (if o = 2 then (tokOf kb).val else (tokOf ka).val) →
          la = (if (tokOf ka).isItem = false ∨ (em = 2 ∧ (tokOf ka).val ≠ coord) then absentTok else ca) →
          lb = (if (tokOf kb).isItem = false ∨ (em = 2 ∧ (tokOf kb).val ≠ coord) then absentTok else cb) →
          T1.emitJoin x v j.imm (if j.op = 0x64 then mkTok 2 (BitVec.ofNat 32 o) else mkTok 0 coord) la lb = some T →
          Leaves s t0 (.cu c) T (exec (.joinStep t0.handle c) s)))) ∧
    (j.op = 0x62 →
      ((tokOf ka).isItem = true → (tokOf kb).isItem = true → ∀ T1, cuAct v 0 0 ≠ 2 → cuAct v 0 1 ≠ 2 → cuAct v 0 2 ≠ 0 →
        T1 = (t.act c j j.sideA true (cuAct v 0 0)).act c j j.sideB true (cuAct v 0 1) →
        T1.emitJoin x v j.imm ka ca kb = some T → Leaves s t0 (.cu c) T (exec (.joinStep t0.handle c) s)) ∧
      (tokOf ka = .stop 0 → (tokOf kb).isItem = true → (t.consumeAll c j j.all).emitAll x v (stopTok 0) = some T →
        Leaves s t0 (.cu c) T (exec (.joinStep t0.handle c) s)) ∧
      (∀ k, tokOf ka = .stop (k + 1) → tokOf kb = .stop k →
        ((t.updCell c fun y => { y with afterItem := false }).consumeAll c j j.all).emitAll x v (stopTok (k + 1)) = some T →
        Leaves s t0 (.cu c) T (exec (.joinStep t0.handle c) s))) ∧
    (j.op = 0x63 → ∀ w, w = (match tokOf ca with | .v w => some w | _ => none) →
      (∀ d, tokOf ka = .c d → x.runCoord = none →
        Leaves s t0 (.cu c) ((t.consumeAll c j j.sideA).updCell c fun y => { y with runCoord := some d, runValue := w })
          (exec (.joinStep t0.handle c) s)) ∧
      (∀ d a b r, tokOf ka = .c d → x.runCoord = some d → x.runValue = some a → w = some b →
        r = nodeOp (reduceOp (joinParam j.imm)) (cuRm v 0) (cuSat v 0) t.crec.ftz 0 a b 0 →
        Leaves s t0 (.cu c) (((t.consumeAll c j j.sideA).updCell c fun y => { y with runValue := some r.1 }).flag r.2)
          (exec (.joinStep t0.handle c) s)) ∧
      (∀ d e, tokOf ka = .c d → x.runCoord = some e → e ≠ d → (joinParam j.imm).testBit 3 = false →
        ((t.consumeAll c j j.sideA).updCell c fun y => { y with runCoord := some d, runValue := w }).emitRun x v j e = some T →
        Leaves s t0 (.cu c) T (exec (.joinStep t0.handle c) s)) ∧
      (∀ p, tokOf ka = .stop p → x.runCoord = none → (t.consumeAll c j j.sideA).emitAll x v (stopTok p) = some T →
        Leaves s t0 (.cu c) T (exec (.joinStep t0.handle c) s))) ∧
    (j.op = 0x65 →
      (∀ p, tokOf ka = .stop p → p < joinParam j.imm →
        Leaves s t0 (.cu c) (t.consumeAll c j j.all) (exec (.joinStep t0.handle c) s)) ∧
      (∀ p, tokOf ka = .stop p → joinParam j.imm ≤ p →
        (t.consumeAll c j j.all).emitAll x v (stopTok (p - joinParam j.imm)) = some T →
        Leaves s t0 (.cu c) T (exec (.joinStep t0.handle c) s)) ∧
      ((tokOf ka).isItem = true → (t.consumeAll c j j.all).emitJoin x v j.imm ka ca cb = some T →
        Leaves s t0 (.cu c) T (exec (.joinStep t0.handle c) s))) ∧
    (j.op = 0x66 →
      ((tokOf ka).isItem = true → Leaves s t0 (.cu c) ((t.consumeAll c j j.all).updCell c fun y =>
        { y with count := if tokOf ka = .e then y.count else y.count + 1, afterItem := true }) (exec (.joinStep t0.handle c) s)) ∧
      (∀ p, tokOf ka = .stop p → x.runValue = none → (p = 0 ∨ x.afterItem = true) →
        (t.updCell c fun y => { y with runValue := some 1 }).emitJoin x v j.imm (mkTok 2 (BitVec.ofNat 32 x.count)) absentTok absentTok =
          some T → Leaves s t0 (.cu c) T (exec (.joinStep t0.handle c) s)))

/-- A task whose generator at place `p` is `a`, unfrozen, in mode `m`. -/
def AgAt (s : State) (t : Task) (p : Nat) (a : Ag) (m : Nat) : Prop :=
  Works s t ∧ t.ag? p = some a ∧ agMode a.frame = m ∧ t.portFrozen a.port = false

/-- A generator's source pass `q` goes on: its go has launched, and it is the first of `q :: r`. -/
def PassAt (t : Task) (a : Ag) (q : Pass) (r : List Pass) : Prop := a.passes = q :: r ∧ t.launched q = true

/-- The address of dimension displacement `disp` of a generator, in elements from p1, modulo 2^64 (R43). -/
def agAddress (a : Ag) (disp : Int) : Nat := (((agP1 a.frame : Int) + 2 ^ agEsize a.frame * disp) % 2 ^ 64).toNat

/-- Generators (R222, R235–R239). AFFINE reads its box element by element, its tokens followed by the stop of the run that an element
closes and by D, and writes tokens in box order; GATHER turns coordinates and references into requests and gives results in order;
SCATTER stores a value at the place of its partner; LEVEL expands a reference into its fibre and raises stops by one; CHANNEL pops and
pushes tokens. What waits to leave leaves first. -/
def AgBeats : Prop :=
  (∀ s t p a q r s' t' l, AgAt s t p a 1 → t.agSource a = true → PassAt t a q r → a.out = [] → a.out2 = [] → q.pos < q.granted →
    s.viewRead t (placeCluster p) (agAddress a (a.boxDisp q.pos)) (2 ^ agEsize a.frame) = (s', .ok (t', l)) →
    agTokens a.frame = true → Leaves s' t (.ag p) (t'.updAg p fun b => { b with
      passes := match b.passes with | y :: z => { y with pos := y.pos + 1 } :: z | [] => []
      out := .token (mkTok 2 (BitVec.ofNat 32 (ofLeBytes l))) ::
        ((match a.closes q.pos with | some k => [Item.token (stopTok k)] | none => []) ++
          if q.total ≤ q.pos + 1 then [.token doneTok] else []) }) (exec (.affineElement t.handle p) s)) ∧
  (∀ s t p a q r o os T1 b, AgAt s t p a 1 → t.agSource a = true → PassAt t a q r → a.out = o :: os → a.out2 = [] →
    (t.updAg p fun b => { b with out := os }).place (t.agDests p (agPort a.frame)) o = some T1 → T1.ag? p = some b →
    Leaves s t (.ag p) (if b.out = [] ∧ q.total ≤ q.pos then T1.agEndPass b else T1) (exec (.affineElement t.handle p) s)) ∧
  (∀ s t p a k w s' t', AgAt s t p a 1 → t.agSource a = false → (t.head (.ag p false)).map Item.body = some (.token k) → tokOf k = .v w →
    a.inp.lastStop = none → a.pos = 0 → 0 < a.boxTotal →
    s.agWrite (t.take (.ag p false)) a (agAddress a (a.boxDisp 0)) (natBytes (min (2 ^ agEsize a.frame) 4) w.toNat) 0 = .ok (s', t') →
    Leaves s' t (.ag p) (t'.updAg p fun b => { b with pos := b.pos + 1, inp := { b.inp with begun := true, lastStop := none } })
      (exec (.affineElement t.handle p) s)) ∧
  (∀ s t p a x k, AgAt s t p a 2 → (a.gathers = [] ∨ ∃ va g, a.gathers = (va, none) :: g) → a.headers = [] →
    t.head (.ag p false) = some x → tokOf x.asToken = k → (∃ w, k = .c w ∨ k = .f w) →
    a.accept.fault a.inp k = none → k.val.toNat < agBound a.frame →
    Leaves s t (.ag p) (((t.putAg a).take (.ag p false)).updAg p fun b => { b with
      inp := a.accept.took b.inp k, gathers := b.gathers ++ [(agAddress a ((k.val.toNat : Int) * agStride a.frame 0), none)] })
      (exec (.gatherRequest t.handle p) s)) ∧
  (∀ s t p a va k g T, AgAt s t p a 2 → a.gathers = (va, some k) :: g →
    (t.updAg p fun b => { b with gathers := g }).place (t.agDests p (agPort a.frame)) (.token k) = some T →
    Leaves s t (.ag p) T (exec (.gatherRequest t.handle p) s)) ∧
  (∀ s t p a x y i w (vAcc : Accept) s' t', AgAt s t p a 3 → a.headers = [] → t.head (.ag p false) = some x → t.head (.ag p true) = some y →
    tokOf x.asToken = i → (∃ z, i = .c z ∨ i = .f z) → tokOf y.asToken = .v w → a.accept.fault a.inp i = none →
    vAcc = { c := false, f := false, v := true, e := true, depth := agDepth a.frame, order := 0 } →
    vAcc.fault a.inp2 (.v w) = none → i.val.toNat < agBound a.frame →
    s.agWrite ((((t.putAg a).take (.ag p false)).take (.ag p true)).updAg p fun b =>
      { b with inp := a.accept.took b.inp i, inp2 := vAcc.took b.inp2 (.v w) }) a
      (agAddress a ((i.val.toNat : Int) * agStride a.frame 0)) (natBytes (min (2 ^ agEsize a.frame) 4) w.toNat) a.pos = .ok (s', t') →
    Leaves s' t (.ag p) t' (exec (.scatterStore t.handle p) s)) ∧
  (∀ s t p a x k, AgAt s t p a 4 → agDepth a.frame ≠ 0 → a.headers = [] → a.out = [] → a.out2 = [] → t.head (.ag p false) = some x →
    tokOf x.asToken = k → a.accept.fault a.inp k = none →
    (∀ n, k = .stop n → n < 5 → Leaves s t (.ag p) ((((t.putAg a).take (.ag p false)).updAg p fun b =>
        { b with inp := a.accept.took b.inp k }).updAg p fun b =>
        { b with out := b.out ++ [.token (stopTok (n + 1))], out2 := b.out2 ++ [.token (stopTok (n + 1))], open? := false })
      (exec (.levelExpand t.handle p) s)) ∧
    (∀ w, k = .f w → w.toNat < agBound a.frame → agP1 a.frame = 0 → agFan a.frame = 1 →
      Leaves s t (.ag p) ((((t.putAg a).take (.ag p false)).updAg p fun b =>
        { b with inp := a.accept.took b.inp k }).updAg p fun b =>
        { b with out := b.out ++ (if a.open? = true then [Item.token (stopTok 0)] else []) ++ [.token (mkTok 0 0)],
                 out2 := b.out2 ++ (if a.open? = true then [Item.token (stopTok 0)] else []) ++ [.token (mkTok 1 w)],
                 open? := true })
      (exec (.levelExpand t.handle p) s))) ∧
  (∀ s t p a q r u c e k, AgAt s t p a 5 → t.isFrozen 7 p 1 = false → agDepth a.frame = 0 → PassAt t a q r → a.out = [] → a.out2 = [] →
    q.pos < q.granted → s.openChan t a.chan = (u, .ok c) → (q.pos = 0 → c.popBad t.handle (some false) = none ∧ c.esize = 1) →
    c.next = some e → k = BitVec.ofNat 36 (ofLeBytes e.data) → ofLeBytes e.data < 2 ^ 36 → tokOf k ≠ .bad →
    Leaves (u.putChan (c.popNext t.handle)) t (.ag p) (t.updAg p fun b => { b with
      out := [.token (canonTok k)]
      passes := { q with pos := if tokOf k = .done ∨ q.total ≤ q.pos + 1 then q.total else q.pos + 1 } :: b.passes.drop 1 })
      (exec (.channelAgElement t.handle p) s))

/-- Memory units (R162, R190): a read gives the present lanes of its access, zero-extended, and moves on; a write stores them; an rw
stream also gives what was there before. -/
def MuBeats : Prop :=
  (∀ (s : State) t x v i j, i < muCount v → j < 16 →
    (s.muRead t x v i).v[j]? = some (if j < muLanes v then
      BitVec.ofNat 32 (ofLeBytes (s.scratchRead t (x.idx * 2 ^ 17 + (muAt v i).toNat + j * muLane v) (muLane v))) else 0) ∧
    ((s.muRead t x v i).m.getLsbD j = decide (j < muLanes v)) ∧ (s.muRead t x v i).a = (s.muRead t x v i).m) ∧
  (∀ s t c x v q r T, Works s t → t.cell? c = some x → x.mu = some v → muMode v = 1 → x.passes = q :: r → t.launched q = true →
    x.tail = 0 → q.pos < q.granted →
    (t.putCell (x.muStep (muTokens x v))).place (t.dests c 8) (muItem (muTokens x v) (s.muRead t x v q.pos)) = some T →
    Leaves s t (.mu c) T (exec (.muAccess t.handle c) s)) ∧
  (∀ s t c x v r T1, Works s t → t.cell? c = some x → x.mu = some v → (t.head (.cell c 9)).map Item.body = some (.record r) →
    T1 = (t.take (.cell c 9)).updCell c (fun y => { y with pos := if x.pos + 1 < muCount v then x.pos + 1 else 0 }) →
    (muMode v = 2 → Leaves (s.muWrite t x v x.pos r) t (.mu c) T1 (exec (.muAccess t.handle c) s)) ∧
    (muMode v = 3 → ∀ T, T1.place (T1.dests c 8) (muItem (muTokens x v) (s.muRead t x v x.pos)) = some T →
      Leaves (s.muWrite t x v x.pos r) t (.mu c) T (exec (.muAccess t.handle c) s))) ∧
  (∀ (s : State) t x v i r, muLanes v = 1 → s.muWrite t x v i r = if r.m.getLsbD 0 = true then
      s.scratchWrite t (x.idx * 2 ^ 17 + (muAt v i).toNat) (natBytes (muLane v) (r.v.getD 0 0).toNat) else s)

/-- The node operations on one lane (R170–R177, R182): exact integer results, wrapped or clamped where `sat` has a say; logic, shifts,
comparisons and selections; the sums, products and orders of a format on the patterns it reads; conversions. -/
def NodeTable : Prop :=
  ∀ (rm : BitVec 2) (sat ftz : Bool) (imm : Nat) (a b c : Lane),
    let op (n : Nat) : Flagged := nodeOp n rm sat ftz imm a b c
    let wrap (v : Int) (r : Flagged) : Prop :=
      ((sat = false ∨ (-2147483648 ≤ v ∧ v ≤ 2147483647)) → r = (BitVec.ofInt 32 v, 0)) ∧
      (sat = true → 2147483647 < v → r = (0x7FFFFFFF, fSAT)) ∧ (sat = true → v < -2147483648 → r = (0x80000000, fSAT))
    let byte (x : Lane) (j : Nat) : BitVec 8 := x.extractLsb' (8 * j) 8
    (wrap (a.toInt + b.toInt) (op 0x01) ∧ wrap (a.toInt - b.toInt) (op 0x02) ∧ wrap (a.toInt * b.toInt) (op 0x03) ∧
      wrap (c.toInt + a.toInt * b.toInt) (op 0x04) ∧ wrap (a.toInt.natAbs : Int) (op 0x07) ∧
      wrap (c.toInt + (byte a 0).toInt * (byte b 0).toInt + (byte a 1).toInt * (byte b 1).toInt +
        (byte a 2).toInt * (byte b 2).toInt + (byte a 3).toInt * (byte b 3).toInt) (op 0x12) ∧
      wrap (c.toInt + ((byte a 0).toNat * (byte b 0).toNat + (byte a 1).toNat * (byte b 1).toNat +
        (byte a 2).toNat * (byte b 2).toNat + (byte a 3).toNat * (byte b 3).toNat : Nat)) (op 0x13)) ∧
    (op 0x05 = (if a.toInt ≤ b.toInt then a else b, 0) ∧ op 0x06 = (if a.toInt ≤ b.toInt then b else a, 0) ∧
      op 0x14 = (let m := if a.toInt ≤ b.toInt then b else a; if m.toInt ≤ c.toInt then m else c, 0)) ∧
    (op 0x08 = (a &&& b, 0) ∧ op 0x09 = (a ||| b, 0) ∧ op 0x0A = (a ^^^ b, 0) ∧ op 0x0B = (a <<< (b.toNat % 32), 0) ∧
      op 0x0C = (a >>> (b.toNat % 32), 0) ∧ op 0x0D = (a.sshiftRight (b.toNat % 32), 0)) ∧
    (op 0x0E = (if a = b then 1 else 0, 0) ∧ op 0x0F = (if a.toInt < b.toInt then 1 else 0, 0) ∧
      op 0x10 = (if a.toNat < b.toNat then 1 else 0, 0) ∧ op 0x11 = (if c ≠ 0 then a else b, 0)) ∧
    (∀ k < 3, ∀ f x y z flush, f = tripleFmt k → x = f.get a → y = f.get b → z = f.get c → flush = (ftz && decide (k = 0)) →
      op (0x20 + k) = laneOf (fadd f rm flush x y) ∧ op (0x23 + k) = laneOf (fsub f rm flush x y) ∧
      op (0x26 + k) = laneOf (fmul f rm flush x y) ∧ op (0x29 + k) = laneOf (ffma f rm flush x y z) ∧
      op (0x2C + k) = laneOf (fminmax f false x y) ∧ op (0x2F + k) = laneOf (fminmax f true x y)) ∧
    ((Fmt.s.unpack a.toNat).isNan = false → op 0x32 = (a &&& 0x7FFFFFFF, 0) ∧ op 0x33 = (a ^^^ 0x80000000, 0)) ∧
    ((Fmt.s.unpack a.toNat).isNan = true → (op 0x32).1 = 0x7FC00000 ∧ (op 0x33).1 = 0x7FC00000 ∧
      (op 0x20).1 = 0x7FC00000 ∧ (op 0x2C).1 = 0x7FC00000 ∧ (op 0x34).1 = 0 ∧ op 0x35 = (0, fNV) ∧ op 0x36 = (0, fNV)) ∧
    (op 0x34 = laneOf (feq a.toNat b.toNat) ∧ op 0x35 = laneOf (flt a.toNat b.toNat) ∧ op 0x36 = laneOf (fle a.toNat b.toNat)) ∧
    (op 0x38 = laneOf (fcvt .h .s rm (a.toNat % 65536)) ∧ op 0x39 = laneOf (fcvt .b .s rm (a.toNat % 65536)) ∧
      op 0x3A = laneOf (fcvt .s .h rm a.toNat) ∧ op 0x3B = laneOf (fcvt .s .b rm a.toNat) ∧
      op 0x3C = laneOf (fcvtSW rm a.toInt) ∧ op 0x3D = fcvtWS rm a.toNat) ∧
    (op 0x42 = laneOf (fdot2 .h rm ftz a.toNat b.toNat c.toNat) ∧ op 0x43 = laneOf (fdot2 .b rm ftz a.toNat b.toNat c.toNat)) ∧
    (op 0x00 = (a, 0) ∧ op 0x37 = (let w := if c ≠ 0 then a else b; if (Fmt.s.unpack w.toNat).isNan then 0x7FC00000 else w, 0)) ∧
    (op 0x3E = laneOf (frcp ftz a.toNat) ∧ op 0x3F = laneOf (frsq ftz a.toNat) ∧ op 0x40 = laneOf (fexp2 ftz a.toNat) ∧
      op 0x41 = laneOf (flog2 ftz a.toNat)) ∧
    (a.toNat % 256 = 0 → op 0x5F = (0, 0)) ∧ (a.toNat % 256 = 255 → op 0x5F = (0x7FC00000, 0)) ∧
    (∀ E m, E = a.toNat % 256 → m = imm % 16 → 1 ≤ E → E ≤ 254 → 2 ≤ m → m ≤ 8 →
      op 0x5F = (BitVec.ofNat 32 (if m ≤ E + 1 then (E + 2 - m) * 2 ^ 23 else 2 ^ (E + 24 - m)), 0))

/-- The quotient n / d of a number with a sign, rounded to a whole number by rm: to nearest with ties to even, toward zero, down, up
(R65). -/
def rounded (rm : BitVec 2) (neg : Bool) (n d : Nat) : Nat :=
  n / d + if (rm = 0 ∧ (d < 2 * (n % d) ∨ 2 * (n % d) = d ∧ n / d % 2 = 1)) ∨ (rm = 2 ∧ neg = true ∧ n % d ≠ 0) ∨
    (rm = 3 ∧ neg = false ∧ n % d ≠ 0) then 1 else 0

/-- The finite nonzero FP32 number of a pattern, (−1)^n × m × 2^e (R57). -/
def Finite (x : Nat) (n : Bool) (m : Nat) (e : Int) : Prop := Fmt.s.unpack x = .fin n m e ∧ m ≠ 0

/-- A result pattern is the normal number (−1)^n × r × 2^k whose significand has 16 bits (R176). -/
def Sixteen (y : Nat) (n : Bool) (r : Nat) (k : Int) : Prop :=
  Fmt.s.unpack y = .fin n r k ∧ 2 ^ 23 ≤ r ∧ r < 2 ^ 24 ∧ r % 256 = 0

/-- The approximations (R176): 1/a, 1/√a, 2^a and log2 a of a finite number a = m × 2^e, rounded toward zero to 16 significant bits and, where
it is tiny, to the subnormal grid; with NX where it is not exact, UF beside it where it is tiny, OF where it is too large. The order of the
exact value and of a result is said by powers of whole numbers. That a negative overflow gives −∞ is log entry 69. -/
def Approximations : Prop :=
  (∀ ftz x n m e, Finite x n m e →
    ((2 ^ 23 ≤ m ∧ e ≤ 102 ∨ e = -149 ∧ 2 ^ 21 < m) → ∃ r d : Nat, Sixteen (frcp ftz x).1 n r (-(d : Int) - e) ∧
      r * m ≤ 2 ^ d ∧ 2 ^ d < (r + 256) * m ∧ (frcp ftz x).2 = if r * m = 2 ^ d then 0 else fNX) ∧
    (e = -149 → m ≤ 2 ^ 21 → frcp ftz x = (if n = true then 0xFF800000 else 0x7F800000, fOF ||| fNX)) ∧
    (103 ≤ e → ftz = false → ∃ r q : Nat, Fmt.s.unpack (frcp ftz x).1 = .fin n (r * 2 ^ q) (-149) ∧ 2 ^ 15 ≤ r ∧ r < 2 ^ 16 ∧
      r * 2 ^ q * m ≤ 2 ^ (149 - e).toNat ∧ 2 ^ (149 - e).toNat < (r + 1) * 2 ^ q * m ∧
      (frcp ftz x).2 = if r * 2 ^ q * m = 2 ^ (149 - e).toNat then 0 else fUF ||| fNX) ∧
    (103 ≤ e → 2 ^ 126 < m * 2 ^ e.toNat → ftz = true → frcp ftz x = (if n = true then 0x80000000 else 0, fUF ||| fNX))) ∧
  (∀ ftz x m e, Finite x false m e → ∃ (r d : Nat) (k : Int), 2 * k + e = -(d : Int) ∧ Sixteen (frsq ftz x).1 false r k ∧
    r ^ 2 * m ≤ 2 ^ d ∧ 2 ^ d < (r + 256) ^ 2 * m ∧ (frsq ftz x).2 = if r ^ 2 * m = 2 ^ d then 0 else fNX) ∧
  (∀ ftz x n m e t (v : Int), Finite x n m e → v = (if n = true then -1 else 1) * m * 2 ^ e.toNat → t = (-e).toNat →
    (-126 * 2 ^ t ≤ v → v < 128 * 2 ^ t → ∃ (r d : Nat) (k : Int), (d : Int) = v - k * 2 ^ t ∧ Sixteen (fexp2 ftz x).1 false r k ∧
      r ^ 2 ^ t ≤ 2 ^ d ∧ 2 ^ d < (r + 256) ^ 2 ^ t ∧ (fexp2 ftz x).2 = if v % 2 ^ t = 0 then 0 else fNX) ∧
    (128 * 2 ^ t ≤ v → fexp2 ftz x = (0x7F800000, fOF ||| fNX)) ∧
    (v < -149 * 2 ^ t → fexp2 ftz x = (0, fUF ||| fNX)) ∧
    (-149 * 2 ^ t ≤ v → v < -126 * 2 ^ t → ftz = true → fexp2 ftz x = (0, fUF ||| fNX)) ∧
    (-149 * 2 ^ t ≤ v → v < -126 * 2 ^ t → ftz = false → ∀ g : Int, g = max (v / 2 ^ t - 15) (-149) → ∃ j d : Nat,
      (d : Int) = v - g * 2 ^ t ∧ Fmt.s.unpack (fexp2 ftz x).1 = .fin false (j * 2 ^ (g + 149).toNat) (-149) ∧
      j ^ 2 ^ t ≤ 2 ^ d ∧ 2 ^ d < (j + 1) ^ 2 ^ t ∧ (fexp2 ftz x).2 = if v % 2 ^ t = 0 then 0 else fUF ||| fNX)) ∧
  (∀ ftz x m e, Finite x false m e →
    (∀ j : Nat, m = 2 ^ j → flog2 ftz x = fcvtSW 1 (e + j)) ∧
    ((∀ j : Nat, m ≠ 2 ^ j) → 0 ≤ e + bitLen m - 1 → ∃ r s : Nat, Sixteen (flog2 ftz x).1 false r (-(s : Int)) ∧ (flog2 ftz x).2 = fNX ∧
      2 ^ (r + (-e).toNat * 2 ^ s) ≤ m ^ 2 ^ s * 2 ^ (e.toNat * 2 ^ s) ∧
      m ^ 2 ^ s * 2 ^ (e.toNat * 2 ^ s) < 2 ^ (r + 256 + (-e).toNat * 2 ^ s)) ∧
    ((∀ j : Nat, m ≠ 2 ^ j) → e + bitLen m - 1 < 0 → ∃ r s : Nat, Sixteen (flog2 ftz x).1 true r (-(s : Int)) ∧ (flog2 ftz x).2 = fNX ∧
      m ^ 2 ^ s * 2 ^ (e.toNat * 2 ^ s + r) ≤ 2 ^ ((-e).toNat * 2 ^ s) ∧
      2 ^ ((-e).toNat * 2 ^ s) < m ^ 2 ^ s * 2 ^ (e.toNat * 2 ^ s + r + 256))) ∧
  (∀ ftz m e x, Finite x true m e → frsq ftz x = (0x7FC00000, fNV) ∧ flog2 ftz x = (0x7FC00000, fNV)) ∧
  (∀ ftz, frcp ftz 0 = (0x7F800000, fDZ) ∧ frcp ftz 0x80000000 = (0xFF800000, fDZ) ∧ frcp ftz 0x7F800000 = (0, 0) ∧
    frcp ftz 0xFF800000 = (0x80000000, 0) ∧ frsq ftz 0 = (0x7F800000, fDZ) ∧ frsq ftz 0x80000000 = (0x7F800000, fDZ) ∧
    frsq ftz 0x7F800000 = (0, 0) ∧ frsq ftz 0xFF800000 = (0x7FC00000, fNV) ∧ fexp2 ftz 0 = (0x3F800000, 0) ∧
    fexp2 ftz 0x80000000 = (0x3F800000, 0) ∧ fexp2 ftz 0x7F800000 = (0x7F800000, 0) ∧ fexp2 ftz 0xFF800000 = (0, 0) ∧
    flog2 ftz 0 = (0xFF800000, fDZ) ∧ flog2 ftz 0x80000000 = (0xFF800000, fDZ) ∧ flog2 ftz 0x7F800000 = (0x7F800000, 0) ∧
    flog2 ftz 0xFF800000 = (0x7FC00000, fNV)) ∧
  (∀ ftz x sig, Fmt.s.unpack x = .nan sig → ∀ f ∈ [frcp, frsq, fexp2, flog2], f ftz x = (0x7FC00000, if sig = true then fNV else 0))

/-- Bit `k` of the mantissa string of a block that is packed in lanes, and its element `j` of `m` bits, in two's complement (R61). -/
def blockBit (ws : List Lane) (k : Nat) : Bool := (ws.getD (k / 32) 0).getLsbD (k % 32)
def element (m : Nat) (ws : List Lane) (j : Nat) : Int :=
  ((List.range (m - 1)).map fun i => if blockBit ws (m * j + i) = true then (2 : Int) ^ i else 0).sum -
    if blockBit ws (m * j + (m - 1)) = true then 2 ^ (m - 1) else 0

/-- The mantissa of an FP32 value over the grid 2^q: rounded by rm, and clamped to `m` bits; whether it was clamped, and whether it was
rounded (R64). -/
def quantised (m : Nat) (rm : BitVec 2) (q : Int) : FVal → Int × Bool × Bool
  | .fin n k e =>
    let num := k * 2 ^ (e - q).toNat
    let den := 2 ^ (q - e).toNat
    let r : Int := (if n = true then -1 else 1) * rounded rm n num den
    (max (-2 ^ (m - 1)) (min (2 ^ (m - 1) - 1) r), decide (r < -2 ^ (m - 1) ∨ 2 ^ (m - 1) - 1 < r), decide (num % den ≠ 0))
  | _ => (0, false, false)

/-- Blocks and their scaling (R60–R65, R69, R73, R180, R181): the product of two blocks; a block formed of 32 values, its exponent from the
largest of them, and how it is packed; and a product added to an accumulator under two scales. That a contribution of −0 to an accumulator
of +0 gives −0 under RDN is log entry 81. -/
def BlockOperations : Prop :=
  (∀ rm neg m e q, roundGrid rm neg m e q = (rounded rm neg (m * 2 ^ (e - q).toNat) (2 ^ (q - e).toNat),
    decide (m * 2 ^ (e - q).toNat % 2 ^ (q - e).toNat ≠ 0))) ∧
  (∀ m p q, 2 ≤ m → m ≤ 8 → blockProduct m p q = ((List.range 32).map fun j => element m p j * element m q j).sum) ∧
  (∀ m rm vs, 2 ≤ m → m ≤ 8 →
    ((∃ v ∈ vs, (Fmt.s.unpack v.toNat).isNan = true ∨ (Fmt.s.unpack v.toNat).isInf = true) →
      bquantOf m rm vs = (255, vs.map fun _ => 0, fNV)) ∧
    ((∀ v ∈ vs, v = 0 ∨ v = 0x80000000) → bquantOf m rm vs = (0, vs.map fun _ => 0, 0)) ∧
    (∀ (h E : Int) rs, (∀ v ∈ vs, ∃ n k e, Fmt.s.unpack v.toNat = .fin n k e ∧ k < 2 ^ (h + 1 - e).toNat) →
      (∃ v ∈ vs, ∃ n k e, Fmt.s.unpack v.toNat = .fin n k e ∧ e ≤ h ∧ 2 ^ (h - e).toNat ≤ k) → E = max (h + 127) 1 →
      rs = vs.map (fun v => quantised m rm (E - 125 - m) (Fmt.s.unpack v.toNat)) →
      bquantOf m rm vs = (E.toNat, rs.map Prod.fst, (if ∃ r ∈ rs, r.2.1 = true then fSAT else 0) |||
        if ∃ r ∈ rs, r.2.1 = true ∨ r.2.2 = true then fNX else 0))) ∧
  (∀ m ms w i, 2 ≤ m → m ≤ 8 → ms.length = 32 → w < m → i < 32 → ∃ d, (packBlock m ms)[w]? = some d ∧
    d.getLsbD i = (BitVec.ofInt m (ms.getD ((32 * w + i) / m) 0)).getLsbD ((32 * w + i) % m)) ∧
  (∀ rm a b c acc, ((Fmt.s.unpack b.toNat).isNan = true ∨ (Fmt.s.unpack c.toNat).isNan = true ∨
    (Fmt.s.unpack acc.toNat).isNan = true) → scacc rm a b c acc = (0x7FC00000, fNV)) ∧
  (∀ rm (a b c acc : Lane) n1 m1 e1 n2 m2 e2 n0 m0 e0 (p E V : Int), Fmt.s.unpack b.toNat = .fin n1 m1 e1 →
    Fmt.s.unpack c.toNat = .fin n2 m2 e2 → Fmt.s.unpack acc.toNat = .fin n0 m0 e0 →
    p = a.toInt * ((if n1 = true then -1 else 1) * m1) * ((if n2 = true then -1 else 1) * m2) → E = min e0 (e1 + e2) →
    V = (if n0 = true then -1 else 1) * m0 * 2 ^ (e0 - E).toNat + p * 2 ^ (e1 + e2 - E).toNat →
    (V ≠ 0 → scacc rm a b c acc = laneOf (Fmt.s.round rm true (decide (V < 0)) V.natAbs E)) ∧
    (p = 0 → 2 ^ 23 ≤ m0 → scacc rm a b c acc = (acc, 0)) ∧
    (p ≠ 0 → V = 0 → scacc rm a b c acc = (if rm = 2 then 0x80000000 else 0, 0)) ∧
    (p = 0 → acc = 0x80000000 → 0 ≤ a.toInt → n1 = n2 → scacc rm a b c acc = (if rm = 2 then 0x80000000 else 0, 0)))

/-- What leaves a unit with a `filter` or an `exit` in its stage `k` (R184, R187): both records of the `filter`, the first on out0; the
record of the `exit` on out0 where it leaves the loop, else on out1. A unit without them sends the results that its outputs name. -/
def Emissions : Prop :=
  (∀ (v : BitVec 240) port acc res k x r b, k < 4 → cuSel v k 0 ≤ 4 → (∀ j < 4, j ≠ k → cuOp v j ≠ 0x70 ∧ cuOp v j ≠ 0x73) →
    x = { port := port, prev := if k = 0 then LinkRec.none else res.getD (k - 1) LinkRec.none, acc := acc.getD k [] } →
    r = (if cuSel v k 0 = 4 then x.prev else port (cuSel v k 0)) → b = stageOperand v k 1 x →
    (cuOp v k = 0x70 → cuEmits v port acc res =
      [(0, .record (filterOut (cuImm v k) r b).1), (1, .record (filterOut (cuImm v k) r b).2)]) ∧
    (cuOp v k = 0x73 → cuEmits v port acc res = [(if (exitOut r b).2 = true then 0 else 1, .record (exitOut r b).1)])) ∧
  (∀ (v : BitVec 240) port acc res, (∀ j < 4, cuOp v j ≠ 0x70 ∧ cuOp v j ≠ 0x73) →
    cuEmits v port acc res = (cuOuts v).map fun n => (n, .record (res.getD (cuOutSrc v n) LinkRec.none)))

/-- One stage of a unit (R166, R168, R178–R181): it performs the lanes that every record it reads has in both masks, gives the node operation
there and operand a elsewhere, with the records' common masks and the first record's tag and pass count; a lane reduction stands in
lane 0. `bdot` adds to operand c the products of the blocks that a and b hold whole, one for each block slot; `bquant` forms one block of the
performed lanes of a and b, its exponent in lane 15. Which lanes of the accumulator they write is log entry 24. -/
def Stages : Prop :=
  ∀ (ftz : Bool) (v : BitVec 240) (k : Nat) (x : StageIn) (i : Nat) (o : StageOut) (a b c : List Lane) (rs : List LinkRec),
    o = cuStage ftz v k x → a = stageOperand v k 0 x → b = stageOperand v k 1 x → c = stageOperand v k 2 x →
    rs = stageRecords v k x → i < 16 →
    (laneReduction (cuOp v k) (cuSel v k 2) = false → ¬ (0x50 ≤ cuOp v k ∧ cuOp v k ≤ 0x5D) →
      o.res.v[i]? = some (if (∀ r ∈ rs, r.m.getLsbD i = true ∧ r.a.getLsbD i = true) then
        (if cuOp v k = 0x5E then scacc (cuRm v k) (a.getD i 0) (b.getD i 0) (c.getD i 0) (x.acc.getD i 0)
         else nodeOp (cuOp v k) (cuRm v k) (cuSat v k) ftz (cuImm v k) (a.getD i 0) (b.getD i 0) (c.getD i 0)).1 else a.getD i 0) ∧
      (o.res.m.getLsbD i = true ↔ ∀ r ∈ rs, r.m.getLsbD i = true) ∧ (o.res.a.getLsbD i = true ↔ ∀ r ∈ rs, r.a.getLsbD i = true) ∧
      (cuAcc v k = true → o.acc[i]? = some (if (∀ r ∈ rs, r.m.getLsbD i = true ∧ r.a.getLsbD i = true) then
        o.res.v.getD i 0 else x.acc.getD i 0)) ∧
      (cuAcc v k = false → o.acc = x.acc) ∧ ∀ r l, rs = r :: l → o.res.t = r.t ∧ o.res.p = r.p) ∧
    (laneReduction (cuOp v k) (cuSel v k 2) = true →
      ((∀ j < 16, ∃ r ∈ rs, r.m.getLsbD j = false ∨ r.a.getLsbD j = false) → o.res.m = 0 ∧ o.res.a = 0) ∧
      (∀ r, rs = [r] → r.m = 1 → r.a = 1 → 0 < a.length →
        o.res.m = 1 ∧ o.res.a = 1 ∧ o.res.v = reducedLane (cuOp v k) (a.getD 0 0) :: a.drop 1)) ∧
    (∀ m n, m = cuOp v k - 0x4E → n = 16 / m → 0x50 ≤ cuOp v k → cuOp v k ≤ 0x56 →
      o.res.v[i]? = some (if n ≤ i then 0
        else if (∀ j < m, ∀ r ∈ recordsOf v k x [0, 1], r.m.getLsbD (m * i + j) = true ∧ r.a.getLsbD (m * i + j) = true) then
          (satInt (cuSat v k) ((c.getD i 0).toInt +
            blockProduct m ((a.drop (m * i)).take m) ((b.drop (m * i)).take m))).1
        else c.getD i 0) ∧ o.res.m.getLsbD i = decide (i < n) ∧ o.res.a = o.res.m) ∧
    (∀ m vs, m = cuOp v k - 0x55 → 0x57 ≤ cuOp v k → cuOp v k ≤ 0x5D →
      vs = (List.range 32).map (fun j => if (rs.all fun r => r.m.getLsbD (j % 16) && r.a.getLsbD (j % 16)) = true then
        (if j < 16 then a else b).getD (j % 16) 0 else 0) →
      o.res.v[i]? = some (if i < m then (packBlock m (bquantOf m (cuRm v k) vs).2.1).getD i 0
        else if i = 15 then BitVec.ofNat 32 (bquantOf m (cuRm v k) vs).1 else 0) ∧
      o.res.m.getLsbD i = decide (i < m ∨ i = 15) ∧ o.res.a = o.res.m ∧ o.flags = (bquantOf m (cuRm v k) vs).2.2) ∧
    (0x50 ≤ cuOp v k → cuOp v k ≤ 0x5D →
      (cuAcc v k = true → o.acc[i]? = some (if o.res.m.getLsbD i = true then o.res.v.getD i 0 else x.acc.getD i 0)) ∧
      (cuAcc v k = false → o.acc = x.acc) ∧ ∀ r l, rs = r :: l → o.res.t = r.t ∧ o.res.p = r.p)

/-- A task that waits in an instruction and may go on: its gate is RUNNING and no port of its thread is frozen. -/
def Waits (s : State) (t : Task) (i : Instr) : Prop :=
  s.task? t.handle = some t ∧ t.gate = .running ∧ t.threadFrozen = false ∧ t.paid = true ∧ t.wait = some i

/-- The draw of unit number `i` of a command, from 0 (R108). -/
def unitDraw : List (Nat × Nat) → Nat → Nat
  | [], _ => 0
  | (c, d) :: r, i => if i < c then d else unitDraw r (i - c)

/-- The subcode of a shortfall, by the kind of the refused command (R113). -/
def subcodeOf : CmdKind → Nat
  | .instr => 0
  | .nest _ => 1
  | .go _ => 2
  | .arm _ => 3
  | .copy _ | .lds _ _ => 4
  | .walkerArm _ => 5
  | .cfgLoad | .image => 7
  | .group _ _ => 8

end Sys2Proof.Claims

/-- R163, R164, R185, R186, R190, R226, R228–R232, R235–R239 and R306–R308. A step of a compute unit, a memory unit, a generator or an
engine is one beat of it: it fires, and what the beat leaves is the next state; where it cannot fire nothing happens; a fault that it
meets is taken on the state before the beat. What each kind of unit does in a beat in which it fires by itself is stated kind by
kind.
Which firings one beat joins, and where items rest between beats, is the model's choice (log entry 9); so are the address of the fault of
`recirc`, of a permit beyond 255 and of a malformed token (log entry 25), that the count of passes wraps at 65,535 (log entry 67), the
direction of an AFFINE generator (log entry 23), and, of the fibre side, which port subcode 4 names, what a unit without stages emits and
which tokens the order checks reach (log entry 79). -/
def Obligations.FabricBeats : Prop :=
  (∀ i h c k v s t, cuStep i = some (h, c, k) → h = t.handle → Works s t → (t.cell? c).bind Cell.cu = some v → k v →
    BeatAnswers s t (.cu c) (exec i s)) ∧
  (∀ i h p m a s t, agStep i = some (h, p, m) → h = t.handle → Works s t → t.ag? p = some a → agMode a.frame = m →
    BeatAnswers s t (.ag p) (exec i s)) ∧
  (∀ c s t, Works s t → BeatAnswers s t (.mu c) (exec (.muAccess t.handle c) s)) ∧
  (∀ k s t, Works s t → BeatAnswers s t (.eng k) (exec (.activationRow t.handle k) s)) ∧
  CuBeats ∧ OrderBeats ∧ FibreBeats ∧ JoinBeats ∧ AgBeats ∧ MuBeats

/-- R60–R65, R166, R168, R170–R182, R184, R185 and R187. The node operations give each performed lane its result, the approximations within
their bounds, and a stage gives the lanes that it performs, those of the block operations too. `filter` parts the lanes of its record
between its outputs by the predicate, which a lane of operand b or, in mode 1, the record's tag gives. `merge` in recombine mode takes each
lane from the first record that has it. `exit` makes inactive the lanes whose predicate holds: it keeps a record in the loop while one
is active, and a record that leaves has every lane of its mask active again, on pass 0.
Bits [31:16] of a reduction over one lane follow log entry 66. -/
def Obligations.RecordOperations : Prop :=
  (∀ imm (a : LinkRec) b i, i < 16 →
    let pred : Prop := if imm % 2 = 0 then b.getD i 0 ≠ 0 else a.t.toNat = imm / 256 % 256
    ((filterOut imm a b).1.m.getLsbD i = true ↔ a.m.getLsbD i = true ∧ pred) ∧
    ((filterOut imm a b).1.a.getLsbD i = true ↔ a.a.getLsbD i = true ∧ pred) ∧
    ((filterOut imm a b).2.m.getLsbD i = true ↔ a.m.getLsbD i = true ∧ ¬ pred) ∧
    ((filterOut imm a b).2.a.getLsbD i = true ↔ a.a.getLsbD i = true ∧ ¬ pred)) ∧
  (∀ imm (a : LinkRec) b r, r = (filterOut imm a b).1 ∨ r = (filterOut imm a b).2 → r.v = a.v ∧ r.t = a.t ∧ r.p = a.p) ∧
  (∀ (a b : LinkRec) i, i < 16 →
    (recombine a b).m.getLsbD i = (a.m.getLsbD i || b.m.getLsbD i) ∧
    (recombine a b).a.getLsbD i = (a.a.getLsbD i || b.a.getLsbD i) ∧
    (recombine a b).v[i]? = some (if a.m.getLsbD i then a.v.getD i 0 else b.v.getD i 0) ∧ (recombine a b).t = a.t ∧
    (recombine a b).p = a.p) ∧
  (∀ (a : LinkRec) b,
    ((∀ i < 16, a.a.getLsbD i = true → b.getD i 0 ≠ 0) → exitOut a b = ({ a with a := a.m, p := 0 }, true)) ∧
    ((∃ i < 16, a.a.getLsbD i = true ∧ b.getD i 0 = 0) → ∃ w : BitVec 16, exitOut a b = ({ a with a := w }, false) ∧
      ∀ i < 16, w.getLsbD i = true ↔ a.a.getLsbD i = true ∧ b.getD i 0 = 0)) ∧
  Emissions ∧ NodeTable ∧ Approximations ∧ BlockOperations ∧ Stages

/-- R236, R311 and R315. The reply of an outstanding portal request puts its value into its lanes, and with it the oldest firing
whose replies are all in leaves; an error, and a reply that does not come in time, end the task FAULTED with HOST, lane and cell in
the subcode. The read of a gather request returns into its place, and the result at the head leaves. That a portal fault reports the go
of the oldest open pass as its address is log entry 25, and that a gather takes its value when its reply returns log entry 48. -/
def Obligations.Replies : Prop :=
  (∀ s t cell req x v lane w, s.task? t.handle = some t → t.cell? cell = some x → x.cu = some v → x.reqLane req = some lane →
    exec (.portalTimeout t.handle cell req) s = .next (finish (s.taskFault t .host (lane + 16 * cell) t.openGo)) ∧
    exec (.portalReply t.handle cell req false w) s = .next (finish (s.taskFault t .host (lane + 16 * cell) t.openGo)) ∧
    (∀ y t', y = { x with portal := x.portal.map fun f => f.fill req (portalWide (cuImm v 0)) w } →
      t' = { t.putCell y with portalReqs := t.portalReqs - 1, hangCount := 0 } →
      (t.running = false → exec (.portalReply t.handle cell req true w) s = .next (s.putTask t').tidy) ∧
      (t.running = true →
        exec (.portalReply t.handle cell req true w) s = .next (s.orLeave t' (.cu cell) (t'.portalOut y v)).tidy))) ∧
  (∀ s t place idx a u t' b, Works s t → t.ag? place = some a → agMode a.frame = 2 → t.portFrozen a.port = false →
    s.gatherReply t a idx = .ok (u, t') → t'.ag? place = some b →
    exec (.gatherReply t.handle place idx) s = .next
      (u.orLeave { t' with hangCount := 0 } (.ag place) (({ t' with hangCount := 0 } : Task).gatherEmit b)))

/-- R246, R248, R249, R251 and R262. A row of an engine takes one record from each driven activation link: its performed lanes supply
their values, and every other place counts as none; a header token comes first where the engine has a header. A queued load writes the shadow plane, a queued swap exchanges the planes once every earlier load is done, a
tile whose 64 rows are multiplied leaves the array queue, and a MIG command that has not started, wherever it stands in the queue, moves
to the idle engine of the next or the previous cluster in ring order; where that cluster is disabled it stays.
When an engine's destination rows join the view is log entry 10. -/
def Obligations.EngineSteps : Prop :=
  ∀ s t k e, Works s t → t.engine? k = some e → t.portFrozen e.port = false →
    (∀ ds vals t1 y, e.tile? ≠ none → (e.header = true → e.headerTaken = true) → e.taken < 64 →
      ds = (List.range 4).filter (t.driven k e.side ·) → (∀ p ∈ ds, t.head (.eng k p) ≠ none) →
      vals = ((List.range 4).flatMap fun p => (List.range 16).map fun i =>
        match (if p ∈ ds then (t.head (.eng k p)).map Item.asRecord else none) with
        | some r => if r.m.getLsbD i = true ∧ r.a.getLsbD i = true then some (laneValue e.code (r.v.getD i 0)) else none
        | none => none) →
      t1 = ds.foldl (fun t p => t.take (.eng k p)) t → t1.engine? k = some y →
      Leaves s t (.eng k) (t1.putEngine (if 64 * y.active.q ≤ (y.beats ++ vals).length then
        { y with beats := [], rows := y.rows ++ [y.beats ++ vals] } else { y with beats := y.beats ++ vals }))
        (exec (.activationRow t.handle k) s)) ∧
    (∀ x y, e.tile? ≠ none → e.header = true → e.headerTaken = false → t.head (.eng k 4) = some x → tokOf x.asToken = .e →
      (t.take (.eng k 4)).engine? k = some y →
      Leaves s t (.eng k) ((t.take (.eng k 4)).putEngine { y with headerTaken := true }) (exec (.activationRow t.handle k) s)) ∧
    (e.swapReady = true →
      exec (.planeSwapRun t.handle k) s = .next (s.putTask { t.putEngine e.swapRun with hangCount := 0 }) ∧
      e.swapRun.active = e.shadow ∧ e.swapRun.shadow = e.active ∧ e.swapRun.swaps = e.swaps + 1) ∧
    (∀ u t', e.loadReady = true → s.loadRun t e = (u, t', none) → t' ≠ t →
      exec (.planeLoadRun t.handle k) s = .next (u.putTask { t' with hangCount := 0 })) ∧
    (∀ l r u t' p y, e.loads = l :: r → e.loadReady = true → l.kind = .csr → s.csrRun t e l = .ok (u, t', p) →
      t'.engine? e.k = some y → s.loadRun t e = (u, t'.putEngine { y with loads := r, shadow := p }, none)) ∧
    (∀ op n ovw u t' e' v t'' js, e.tile? = some (op, n, ovw) →
      State.tileRows k op (e.tileOvw.getD ovw) e.rows.length s t = (u, t', none) → t'.engine? k = some e' → 64 ≤ e'.rowsDone →
      u.advanceTl2 (t'.tileDone e' op n) = (v, t'', js) →
      exec (.matrixTile t.handle k) s = .next (finish (v.putTask { t'' with hangCount := 0 }, js))) ∧
    (∀ pos x op n ovw a b c next, e.arr[pos]? = some x → x.kind = .tiles op n ovw true a b → (∀ m ∈ e.migrated, m.1 ≠ op) →
      (pos = 0 → e.taken = 0 ∧ e.beats = [] ∧ e.headerTaken = false) →
      c = (if next then ((t.member k).cluster + 1) % 104 else ((t.member k).cluster + 103) % 104) →
      ((s.die t.die).has c = true → s.engineTaken t.die c = false → (s.die t.die).gated c = false →
        exec (.matrixMigration t.handle k ⟨next, pos⟩) s =
          .next (s.putTask (t.putEngine { e with migrated := e.migrated ++ [(op, c)] }))) ∧
      ((s.die t.die).has c = false → exec (.matrixMigration t.handle k ⟨next, pos⟩) s = .next s))

/-- R151, R152, R154, R156 and R211. A thread that waits in `bar`, `bar.cfg`, `drain` or `tl.wait` goes on once its condition holds, and a
go whose gate is reached launches; `drain` waits also while an earlier command to the same destination is outstanding (log entry 71). -/
def Obligations.WaitReleases : Prop :=
  (∀ s t, Waits s t .bar → t.arms = [] → t.barMet = true → t.openPass (fun _ => true) = none →
    exec (.barRelease t.handle) s = .next (s.putTask ({ t with gos := [] }.advance 4))) ∧
  (∀ s t, Waits s t .barCfg → t.arms = [] → t.barMet = true → t.openPass (fun _ => true) = none →
    (t.staged = none → exec (.barRelease t.handle) s = .next (s.putTask ({ t with gos := [] }.advance 4))) ∧
    (∀ fs, t.staged = some fs → t.bindingsOk fs = true → exec (.barRelease t.handle) s = .next
      (s.putTask ((({ t with gos := [], staged := none } : Task).install fs).advance 4)))) ∧
  (∀ sec s t, Waits s t (.drain sec) → s.drainMet t sec.toNat = true → t.openPass (· == sec.toNat) = none →
    exec (.barRelease t.handle) s = .next (pastDrain s t sec.toNat)) ∧
  (∀ tl b s t, Waits s t (.tlWait tl b) → (tl = 2 → t.arms = []) → t.tlWaitBad tl.toNat (t.x b).toNat = false →
    (t.x b).toNat ≤ t.timeline tl.toNat → exec (.timelineWaitRelease t.handle) s = .next (s.putTask (t.advance 4))) ∧
  (∀ s t go, s.task? t.handle = some t → exec (.streamGateLaunch t.handle go) s = .next (s.putTask
    { t with gos := t.gos.map fun (g : Go) => if g.id = go ∧ g.launched = false then
      { g with launched := (g.gate.map fun x => decide (x.2 ≤ t.timeline x.1)).getD true } else g }))

/-- R10, R161, R215 and R217. The oldest nest of a task performs its granted elements, and leaves once all are performed. The copy at the
head of an engine, the oldest there of every resident task, its gate reached, performs the elements of its granted blocks; once all are performed it completes, its number counting on
its timeline, and a decrement of its join cell is held. -/
def Obligations.NestAndCopySteps : Prop :=
  (∀ s t n r u t' n', Works s t → t.nests = n :: r → t.isFrozen 6 0 0 = false →
    State.nestElements (n.granted - n.ran) s t n = (u, t', n', none) →
    exec (.nestComplete t.handle) s = .next (u.putTask
      { t' with nests := if nestTotal n.w ≤ n'.ran then r else n' :: r,
                hangCount := if n.ran < n'.ran then 0 else t'.hangCount })) ∧
  (∀ s t cl n c u t' c', Works s t → s.copyHead t cl n = some c → t.portFrozen c.port = false →
    (c.running = true ∨ c.d.gate = none ∨ ∃ g v, c.d.gate = some (g, v) ∧ v ≤ t.timeline g) →
    State.copyElements (c.allowed - c.ran) s t { c with running := true } = (u, t', c', none) → c'.cancelled = false →
    exec (.copyLaunch t.handle cl n) s = .next (u.putTask
      (Task.putCopy { t' with hangCount := if c' = { c with running := true } then t'.hangCount else 0 } c'))) ∧
  (∀ (s : State) (t : Task) cl n c, s.copyHead t cl n = some c →
    ∃ l, s.engineCopies t.die (t.member cl).cluster n = l ∧ l.head?.map (fun p => (p.1.handle, p.2)) = some (t.handle, c)) ∧
  (∀ s t cl n c, s.task? t.handle = some t → s.copyHead t cl n = some c → c.d.total ≤ c.ran →
    exec (.copyComplete t.handle cl n) s = .next (s.putTask
      { t.endCopy c with joinDecs := t.joinDecs ++ (if c.d.join = 0 then [] else [c.d.join]), hangCount := 0 }))

/-- R78, R108, R111 and R113. A command is granted the largest prefix of its units that the account covers, with one debit: it is
SHORT where units remain, RUNNING where none does, HOLD with its timer started, or going on, where not one is covered. When the granted
units have completed the gate goes on the same way; when its hold has run out and the granted work is done the task ends SHORTFALL, with
what is left to draw as shortfall and the subcode of the command's kind. -/
def Obligations.PrefixGrants : Prop :=
  (∀ runs skip acc k sum, takeUnits runs skip acc = (k, sum) →
    sum ≤ acc ∧ sum = ((List.range k).map fun i => unitDraw runs (skip + i)).sum ∧
    (skip + k < unitsOf runs → acc < sum + unitDraw runs (skip + k)) ∧ (skip ≤ unitsOf runs → skip + k ≤ unitsOf runs)) ∧
  (∀ u t c k sum, c.done < c.units → takeUnits c.runs c.done t.account = (k, sum) →
    (k = 0 → t.gate ≠ .hold → t.holdField ≠ 0 ∨ t.idle = false → State.grantCmd u t c =
      (u.putTask { t with cmd := some c, gate := .hold, holdLeft := t.holdField.toNat * 64 }, [])) ∧
    (k = 0 → t.gate = .hold → t.holdLeft ≠ 0 ∨ t.idle = false →
      State.grantCmd u t c = (u.putTask { t with cmd := some c }, [])) ∧
    (k = 0 → t.gate ≠ .hold → t.holdField = 0 → t.idle = true →
      State.grantCmd u t c = u.shortfall { t with cmd := some c, gate := .hold, holdLeft := 0 } c) ∧
    (0 < k → c.done + k < c.units → State.grantCmd u t c =
      ((u.debit t sum).1.putTask { (u.debit t sum).2.applyGrant c k with
        gate := .short, cmd := some { c with done := c.done + k } }, [])) ∧
    (0 < k → c.done + k = c.units → State.grantCmd u t c =
      ((u.debit t sum).1.putTask { (u.debit t sum).2.applyGrant c k with gate := .running, cmd := none }, []))) ∧
  (∀ (u : State) t n, (u.debit t n).2.account = t.account - n ∧
    (t.crec.notice = false → u.debit t n = (u, { t with account := t.account - n, hangCount := 0 }))) ∧
  (∀ s t c, s.task? t.handle = some t → t.gate = .short → t.cmd = some c → t.prefixDone c = true →
    (c.kind ≠ .cfgLoad → c.kind ≠ .image →
      exec (.prefixEnd t.handle) s = .next (finish (((s.grantCmd t c).1.settleTl2 t.handle).1,
        (s.grantCmd t c).2 ++ ((s.grantCmd t c).1.settleTl2 t.handle).2))) ∧
    (c.kind = .cfgLoad ∨ c.kind = .image → exec (.prefixEnd t.handle) s = .next (finish (s.loadGo t)))) ∧
  (∀ s t c, s.task? t.handle = some t → t.gate = .hold → t.cmd = some c → t.holdLeft = 0 →
    (s.workDone t = true → exec (.holdTimerExpiry t.handle) s = .next (finish (s.shortfall t c))) ∧
    (s.workDone t = false → exec (.holdTimerExpiry t.handle) s = .next s)) ∧
  (∀ (s : State) t, (t.idle = true → s.workDone t = true)) ∧
  (∀ (s : State) t c, s.shortfall t c = s.retire { t with gate := .stopped } .shortfall .shortfall
      ((if c.issued = true then 0 else c.issue) +
        ((List.range (unitsOf c.runs - c.done)).map fun i => unitDraw c.runs (c.done + i)).sum)
      c.done (subcodeOf c.kind) (match c.kind with | .walkerArm n => n | .image => 0 | _ => c.addr.toNat))

namespace Sys2Proof.Claims

/-! ### Queues, placement and channels from outside -/

/-- The first element of a list that has a property stands in it: every element before it lacks the property. -/
def FirstWith {α : Type} (p : α → Prop) (l : List α) (a : α) : Prop :=
  ∃ l₁ l₂, l = l₁ ++ a :: l₂ ∧ p a ∧ ∀ b ∈ l₁, ¬ p b

/-- Queue `p` is the waiting one that a slot of die `d` goes to: no queue that may be served has a higher level, and none of
its level became pending before it (R83). -/
def NextQueue (s : State) (d : Nat) (x : Die) (p : Nat × Nat) : Prop :=
  ∃ l₁ l₂, x.pending = l₁ ++ p :: l₂ ∧ s.servable d p.1 = true ∧
    (∀ q ∈ l₁, s.servable d q.1 = true → s.queueLevel q < s.queueLevel p) ∧
    ∀ q ∈ l₂, s.servable d q.1 = true → s.queueLevel q ≤ s.queueLevel p

/-- A slot that has just been given to a queue. -/
def slotOf (s : State) (i q : Nat) : QSlot := { idx := i, queue := q, since := s.now, final := false, renotified := true }

/-- The records that stop others stop only lower ones: no funding stop and no placement stop holds this one back (R103, R126). -/
def NotHeldBack (x : Die) (c : Cand) : Prop := x.stopLevel x.fundStops ≤ c.q.level ∧ x.stopLevel x.placeStops ≤ c.q.level

/-- The clusters that the thief of R93 asks, in order: ring order after the one asked last, itself left out. -/
def victims (x : Die) (k : Nat) : List Nat := (x.ringAfter (assocD x.lastVictim k k)).filter (· ≠ k)

end Sys2Proof.Claims

/-- R80–R83 and R203. A notification of a queue at its own die makes it pending, once; a mapped queue notes it; at another die it does
nothing. A free slot goes to the waiting queue of the highest level, the first notified of them. A slot whose time slice is over goes to
such a queue of equal or higher level than the priority of its own queue's head, and its own queue waits again; where none waits its
slice starts again. The device's reads of a table entry, and of the entry at a queue's head, pass the Slices in class 0.
The model's own choices: that the lowest free slot is taken, that a queue with an empty ring counts as priority 0, and that a notification
of a number at or above QTCOUNT is ignored (log entry 72); which queues a choice reads (log entry 61); that a read of an address that
leads nowhere reaches no Slice (log entry 80). That a queue becomes pending whether or not its entry is enabled is log entry 43. -/
def Obligations.QueueSteps : Prop :=
  (∀ (s : State) d q b, s.readQueue d q b =
    if q < s.qtCount.toNat then s.touchLines d 0 ((if b = true ∧ (s.qte q).held ≠ 0 then
      [s.qteAddr q, (s.qte q).ring + 64 * ((s.qte q).head % 2 ^ (s.qte q).log2)] else [s.qteAddr q]).filter s.reaches)
    else s) ∧
  (∀ (s : State) d l, ∃ u : State, s.touchLines d 0 l = { s with slices := u.slices, rdc := u.rdc, cacheWaits := u.cacheWaits }) ∧
  (∀ s d x off v, s.die? d = some x → s.stage = .c → off.toNat % 4 = 0 → v.toNat < 65536 →
    (s.qtCount.toNat ≤ v.toNat → exec (.notificationWrite d off v) s = .next s) ∧
    (v.toNat < s.qtCount.toNat → (s.qte v.toNat).die ≠ d →
      exec (.notificationWrite d off v) s = .next (s.readQueue d v.toNat false)) ∧
    (v.toNat < s.qtCount.toNat → (s.qte v.toNat).die = d →
      ((∃ y ∈ x.slots, y.queue = v.toNat) →
        exec (.notificationWrite d off v) s = .next ((s.readQueue d v.toNat false).updDie d fun x => { x with
          slots := x.slots.map fun (y : QSlot) => if y.queue = v.toNat then { y with renotified := true } else y })) ∧
      ((∀ y ∈ x.slots, y.queue ≠ v.toNat) → (∃ p ∈ x.pending, p.1 = v.toNat) →
        exec (.notificationWrite d off v) s = .next (s.readQueue d v.toNat false)) ∧
      ((∀ y ∈ x.slots, y.queue ≠ v.toNat) → (∀ p ∈ x.pending, p.1 ≠ v.toNat) →
        exec (.notificationWrite d off v) s = .next ((s.readQueue d v.toNat false).updDie d fun x =>
          { x with pending := x.pending ++ [(v.toNat, s.now)] })))) ∧
  (∀ s d x i p, s.die? d = some x → s.stage = .c → s.susp = .running → i < 64 → (∀ y ∈ x.slots, y.idx ≠ i) →
    (∀ j < i, ∃ y ∈ x.slots, y.idx = j) → NextQueue s d x p →
    exec (.queueSlotMap d) s = .next ((s.readWaiting d).updDie d fun x =>
      { x with pending := x.pending.filter (·.1 ≠ p.1), overrun := x.overrun.filter (· ≠ p.1),
               slots := x.slots ++ [slotOf s i p.1] })) ∧
  (∀ s d x i y, s.die? d = some x → s.stage = .c → s.susp = .running → x.slots.filter (·.idx = i) = [y] →
    y.since + x.sliceLen.toNat ≤ s.now →
    ((∀ p ∈ x.pending, s.servable d p.1 = false) → exec (.timeSliceEnd d i) s = .next ((s.readWaiting d).updDie d fun x =>
      { x with slots := x.slots.map fun (z : QSlot) => if z.idx = i then { z with since := s.now } else z })) ∧
    (∀ p, NextQueue s d x p →
      (s.queueLevel p < s.headPrio y.queue →
        exec (.timeSliceEnd d i) s = .next (((s.readWaiting d).readQueue d y.queue true).updDie d fun x =>
          { x with slots := x.slots.map fun (z : QSlot) => if z.idx = i then { z with since := s.now } else z })) ∧
      (s.headPrio y.queue ≤ s.queueLevel p →
        exec (.timeSliceEnd d i) s = .next (((s.readWaiting d).readQueue d y.queue true).updDie d fun x =>
          { x with slots := x.slots.filter (·.idx ≠ i) ++ [slotOf s i p.1],
                   pending := (x.pending ++ [(y.queue, s.now)]).filter (·.1 ≠ p.1),
                   overrun := x.overrun.filter (· ≠ p.1) })))) ∧
  (∀ (s : State) d x, s.die? d = some x →
    s.readWaiting d = x.pending.foldl (fun u p => u.readQueue d p.1 (s.servable d p.1)) s)

/-- R22, R80, R82, R85–R87, R107 and R203. A slot reads the entry at its queue's head while fewer than 4 of its instances run, and head
moves on by 1; an entry in order whose graph may be walked starts an instance. A tail beyond the ring stops the queue; an empty ring
without instances has its final read, and then the slot is free; a queue that was notified during that read stays pending. A held arm node
whose target runs arms the section of that task. The table entry read each time, and the launch entry taken, pass the Slices in class 0.
That a mapped queue which is no longer served gives up its slot at once is the model's own choice (log entry 72); notified while it was
mapped, or not read since, it stays pending, its entry enabled or not (log entry 43), while a tail beyond the ring answers the
notifications before it (log entry 72). A read or write of an address that leads nowhere reaches nothing (log entry 80). -/
def Obligations.LaunchSteps : Prop :=
  (∀ s d x i y e u, s.die? d = some x → s.stage = .c → s.susp = .running → x.slots.find? (·.idx = i) = some y →
    s.servable d y.queue = true → e = s.qte y.queue → u = s.readQueue d y.queue false →
    (y.final = false → 2 ^ e.log2 < e.held → exec (.launchEntryRead d i) s = .next
      (((u.setHomed (s.qteAddr y.queue + 8) (natBytes 8 (s.qteWord y.queue 1 - 32))).freeSlot d i false).updDie d fun x =>
        { x with overrun := x.overrun.filter (· ≠ y.queue) ++ [y.queue] })) ∧
    (y.final = false → 0 < e.held → e.held ≤ 2 ^ e.log2 → s.inFlight y.queue < 4 →
      exec (.launchEntryRead d i) s = .next (finish
        (((s.readQueue d y.queue true).setHomed (s.qteAddr y.queue + 24) (natBytes 4 (e.head + 1))).launch d y.queue
          (s.launchEntry (e.ring + 64 * (e.head % 2 ^ e.log2))) e.ctx))) ∧
    (y.final = false → 0 < e.held → e.held ≤ 2 ^ e.log2 → 4 ≤ s.inFlight y.queue →
      exec (.launchEntryRead d i) s = .next u) ∧
    (y.final = false → e.held = 0 → s.inFlight y.queue = 0 → exec (.launchEntryRead d i) s = .next (u.updDie d fun x =>
      { x with slots := x.slots.map fun (z : QSlot) =>
          if z.idx = i then { z with final := true, renotified := false } else z })) ∧
    (e.held = 0 → s.inFlight y.queue ≠ 0 → exec (.launchEntryRead d i) s = .next u) ∧
    (y.final = true → s.inFlight y.queue = 0 →
      exec (.launchEntryRead d i) s = .next (u.freeSlot d i y.renotified))) ∧
  (∀ s d x i y, s.die? d = some x → s.stage = .c → s.susp = .running → x.slots.find? (·.idx = i) = some y →
    s.servable d y.queue = false →
    exec (.launchEntryRead d i) s = .next ((s.readQueue d y.queue false).freeSlot d i y.renotified)) ∧
  (∀ (s : State) d x i y again, s.die? d = some x → x.slots.filter (·.idx = i) = [y] →
    s.freeSlot d i again = s.updDie d fun x => { x with
      slots := x.slots.filter (·.idx ≠ i), pending := x.pending ++ if again = true then [(y.queue, s.now)] else [] }) ∧
  (∀ (s : State) d q l ctx u ns, l.completion.toNat % 8 = 0 → s.entryBad l ctx = none →
    State.rawNodes d ctx l.graph.toNat l.count s = (u, .ok ns) → graphOk ns = true →
    s.launch d q l ctx = u.startInstance d q l ns) ∧
  (∀ s id k i n tgt sec tiles h t, s.instances.find? (·.id = id) = some i → i.nodes[k]? = some n →
    n.target = some (tgt, sec, tiles) → n.life = .held → (i.nodes[tgt]?).map Node.life = some (.running h) →
    s.task? h = some t → (t.paid = false ∨ ∃ w, t.wait = some w ∧ fundingPoint w = false) →
    exec (.walkerArmDelivery id k) s = .next
      ((s.putTask { t with arms := t.arms ++ [{ inst := id, node := k, sec := sec, tiles := tiles, op := none }] }).updNode
        id k fun n => { n with life := .armed }))

/-- R17, R18, R91, R102, R124 and R126–R129. A placement decision takes the first record in order of selection that no stop holds
back and that can be refused, admitted or restored. A record in order, with funds and a gang, is admitted: its grains leave the die
budget and its gang is allotted, under the next handle of its slot. Admission zeroes the rows of foreign holders, puts the 64 bytes of
the frame into x4–x11, loads the image of dw6, and then the first instruction may issue; once the frame is read a load that a miss
stopped goes on with the image alone.
How frames of an image are counted ahead is log entry 49. -/
def Obligations.PlacementSteps : Prop :=
  (∀ s d x c v, s.die? d = some x → s.stage = .c → s.susp = .running → s.verdict d c = some v →
    FirstWith (fun c => NotHeldBack x c ∧ s.verdict d c ≠ none) x.order c →
    exec (.placementDecision d) s = .next (match v with
      | .bad t sub => finish (s.refuseRecord d c.q .faulted t 0 sub)
      | .short => finish (s.refuseRecord d c.q .shortfall .shortfall (16 - c.q.crec.grains) 6)
      | .fresh ms => s.allot d c ms
      | .restore y ms => s.restoreTask d c y ms)) ∧
  (∀ (s : State) d c ms, s.imageOf c.q = none → s.recordBad c.q.crec = none → c.q.crec.packets ≠ 0 →
    c.q.irrevocable = false → c.q.crec.grains ≤ (s.die d).budget → s.gangFor d c = some ms →
    s.verdict d c = some (.fresh ms)) ∧
  (∀ (s : State) d x c m ms, s.die? d = some x → c.q.origin = none → s.gangFor d c = some (m :: ms) →
    ∃ t, (s.allot d c (m :: ms)).tasks = s.tasks ++ [t] ∧ t.members = m :: ms ∧ t.crec = c.q.crec ∧
      t.account = c.q.crec.grains - 16 ∧ t.ready = false ∧ t.pc = c.q.crec.dw0 ∧ t.snap = s.mem ∧ t.snapNum = s.commitSeq ∧
      t.handle = mkHandle d m.cluster m.slot (assocD s.generations (slotKey d m.cluster m.slot) 0 + 1) ∧
      ((s.allot d c (m :: ms)).die d).budget = x.budget - c.q.crec.grains ∧
      (s.allot d c (m :: ms)).mem = s.mem) ∧
  (∀ s t, s.task? t.handle = some t → t.ready = false → t.gate = .running → t.threadFrozen = false → t.framed = true →
    exec (.admission t.handle) s = .next (finish (s.afterFrame t))) ∧
  (∀ s t, s.task? t.handle = some t → t.ready = false → t.gate = .running → t.threadFrozen = false → t.framed = false →
    (t.crec.dw1 = 0 → t.crec.dw6 = 0 → exec (.admission t.handle) s = .next
      ((s.zeroForeign t).putTask { t.install [] with ready := true, framed := true })) ∧
    (∀ q n p u t' fs, t.crec.dw1 = 0 → t.crec.dw6 ≠ 0 → t.paid = false → t.wait = none → t.loading = [] → t.loadGrant = 0 →
      q = (s.zeroForeign t).debit { t with framed := true } 8 → n = q.1.framesLeft { q.2 with paid := true } t.crec.dw6.toNat [] → 0 < n →
      8 + n ≤ t.account → p = q.1.debit { q.2 with paid := true } n →
      State.scanImage t.crec.dw6.toNat n p.1 { p.2 with loadGrant := n, gate := .running, cmd := none } [] =
        (u, t', fs, .whole) →
      exec (.admission t.handle) s = .next (u.putTask
        { Task.install { t' with gate := .running, cmd := none, loading := [], loadGrant := 0 } fs with
          ready := true, paid := false })) ∧
    (∀ u t' l, t.crec.dw1 ≠ 0 → (s.zeroForeign t).viewRead t 0 t.crec.dw1.toNat 64 = (u, .ok (t', l)) →
      exec (.admission t.handle) s = .next (finish (u.afterFrame (t'.setFrame l))))) ∧
  (∀ (t : Task) l (k : Fin 8), l.length = 64 →
    (t.setFrame l).x (BitVec.ofNat 5 (4 + k.val)) = BitVec.ofNat 64 (ofLeBytes ((l.drop (8 * k.val)).take 8))) ∧
  (∀ (t : Task) l r, l.length = 64 → (r.toNat < 4 ∨ 12 ≤ r.toNat) → (t.setFrame l).x r = t.x r)

/-- R90, R93, R103 and R126. A waiting record gains a level for each 10 ms, up to 43. Every record that has stood unfunded for
1 ms at the head of its level, and the first of all if it has stood unfitted for 1 ms, stop lower ones, beside those that did so
before. A cluster without work puts
its request into the first mailbox with room, and withdraws it after 64 µs. That a cluster which has asked none starts with the one after
itself is the model's own choice (log entry 56). -/
def Obligations.WaitingSteps : Prop :=
  (∀ s id, exec (.recordAging id) s = .next { s with dies := s.dies.map fun (x : Die) => x.mapRecords fun q =>
    if q.id = id ∧ q.level < 43 ∧ q.since + 10000 * (q.gained + 1) ≤ s.now then { q with gained := q.gained + 1 } else q }) ∧
  (∀ s d x, s.die? d = some x → ∃ l, exec (.fundingStall d) s = .next (s.updDie d fun x =>
      { x with fundStops := x.fundStops ++ l }) ∧
    ∀ i, i ∈ l ↔ i ∉ x.fundStops ∧ ∃ c ∈ x.heads, c.q.id = i ∧ s.wantsFunds d c.q = true ∧ c.q.fundSince + 1000 ≤ s.now) ∧
  (∀ s d x c, s.die? d = some x → x.order.head? = some c → s.wantsRoom d c = true → c.q.fitSince + 1000 ≤ s.now →
    c.q.id ∉ x.placeStops →
    exec (.placementStall d) s = .next (s.updDie d fun x => { x with placeStops := x.placeStops ++ [c.q.id] })) ∧
  (∀ s d x k v, s.die? d = some x → s.stage = .c → s.susp = .running → x.has k = true →
    s.freeTaskSlot d k ≠ none → x.asking k = false → s.hasWork d k = false →
    FirstWith (fun v => (assocD x.mail v []).length < 4) (victims x k) v →
    exec (.stealRequest d k) s = .next (s.updDie d fun x =>
      { x with mail := assocSet x.mail v (assocD x.mail v [] ++ [(k, s.now)]),
               lastVictim := assocSet x.lastVictim k v })) ∧
  (∀ s d x k, s.die? d = some x → exec (.stealWithdraw d k) s = .next (s.updDie d fun x =>
    { x with mail := x.mail.map fun p => (p.1, p.2.filter fun r => ¬ (r.1 = k ∧ r.2 + 64 ≤ s.now)) }))

/-- R274, R278, R280 and R287. The oldest entry of an outbound channel that was not yet forwarded goes to the peer while the far channel
grants credit, of which it takes one; an acknowledgement takes the oldest forwarded one off the channel and brings what credit it grants.
A far writer gets credit for the room of an inbound channel as it becomes free; an entry from the peer lands there within that credit,
as a commit, and is acknowledged. A link failure makes the channels bound over the port BROKEN. An unbind ends the link side and is
acknowledged; the acknowledgement of an own unbind ends it too, also where both crossed, and closes the channel whose condition is met; a
handshake binds a channel whose side is free, with the credit offered and the credit that the reply grants, and is refused otherwise.
What an unbind does with forwarded entries is log entry 35, and so is that a handshake grants all the room at once and that room which
becomes free later is granted by messages of their own; an acknowledgement on a channel claimed meanwhile is log entry 77, the peer's
answers log entry 17. -/
def Obligations.ChannelLinks : Prop :=
  (∀ s ctx num c l e r, s.chan? ctx num = some c → c.state = .opened → c.remote = true → c.rdir = false → c.frozen = false →
    c.entries = l ++ e :: r → (∀ x ∈ l, x.sent = true) → e.sent = false →
    (c.credit = 0 → exec (.channelForward ctx num) s = .next s) ∧
    (c.credit ≠ 0 → exec (.channelForward ctx num) s = .next
      { s.putChan { c with entries := l ++ { e with sent := true } :: r, credit := c.credit - 1 } with
        out := s.out ++ [.forward ctx num e.data] })) ∧
  (∀ s ctx num c e r k c', s.chan? ctx num = some c → c.remote = true → c.rdir = false → c.entries = e :: r → e.sent = true →
    c.closing = false → c' = Chan.refill { c with entries := r, head := c.head + 1, credit := c.credit + k } →
    exec (.channelPeerAck ctx ⟨num, true, k⟩) s = .next ((s.zeroPages c c').putChan c')) ∧
  (∀ s ctx num c k c', s.chan? ctx num = some c → c.remote = true → c.rdir = false → c.closing = false →
    c' = { c with credit := c.credit + k } →
    exec (.channelPeerAck ctx ⟨num, false, k⟩) s = .next ((s.zeroPages c c').putChan c')) ∧
  (∀ (s : State) ctx num c n, s.chan? ctx num = some c → n = c.capacity - (c.entries.length + c.granted) →
    s.grantCredit ctx num =
      if c.remote = true ∧ c.rdir = true ∧ c.state = .opened ∧ c.frozen = false ∧ n ≠ 0 then
        { s.putChan { c with granted := c.granted + n } with out := s.out ++ [.credit ctx num n] }
      else s) ∧
  (∀ s ctx num c data, s.chan? ctx num = some c → c.state = .opened → c.remote = true → c.rdir = true → c.frozen = false →
    data.length = c.size →
    (c.granted = 0 → exec (.ualinkWrite (.chan ctx num) data) s = .next s) ∧
    (c.granted ≠ 0 →
      ∃ u : State, u.channels = (s.putChan (Chan.place { c with granted := c.granted - 1 } data false)).channels ∧ u.mem = s.mem ∧
        u.tasks = s.tasks ∧ exec (.ualinkWrite (.chan ctx num) data) s = .next
          { u with commitSeq := s.commitSeq + 1, out := s.out ++ [.entryAck ctx num] })) ∧
  (∀ s d x port, s.die? d = some x → port < 16 → exec (.linkFailure d port) s = .next
    { s with ualTrained := s.ualTrained &&& ~~~BitVec.twoPow 16 port,
             ualAtomics := s.ualAtomics &&& ~~~BitVec.twoPow 16 port,
             channels := s.channels.map fun (c : Chan) =>
               if (c.remote = true ∨ c.unbinding = true) ∧ c.port.toNat = port then { c with state := .broken } else c }) ∧
  (∀ s ctx num c u, s.chan? ctx num = some c →
    u = { c with remote := false, credit := 0, granted := 0, entries := c.entries.map fun e => { e with sent := false } } →
    (c.remote = true → exec (.peerUnbind ctx num false) s = .next { s.putChan u with out := s.out ++ [.unbindAck ctx num] }) ∧
    (c.unbinding = true → s.canClose { u with unbinding := false } = true →
      exec (.peerUnbind ctx num true) s = .next (s.closeChan { u with unbinding := false })) ∧
    (c.unbinding = true → s.canClose { u with unbinding := false } = false →
      exec (.peerUnbind ctx num true) s = .next (s.putChan { u with unbinding := false })) ∧
    (c.unbinding = false → exec (.peerUnbind ctx num true) s = .next s)) ∧
  (∀ s ctx num c peer far port rdir k g, s.chan? ctx num = some c → c.state = .opened → c.remote = false → c.unbinding = false →
    g = (if rdir = true then c.capacity - c.entries.length else 0) →
    (sideOf c (!rdir) = 0 → exec (.peerBindHandshake ctx num peer far port ⟨rdir, k⟩) s = .next
      { s.putChan { c with remote := true, rdir := rdir, peer := peer, far := far, port := port,
                           credit := if rdir = true then 0 else k, granted := g,
                           entries := c.entries.map fun e => { e with sent := false } } with
        out := s.out ++ [.bindReply ctx num true g] }) ∧
    (sideOf c (!rdir) ≠ 0 → exec (.peerBindHandshake ctx num peer far port ⟨rdir, k⟩) s = .next
      { s with out := s.out ++ [.bindReply ctx num false 0] }))

namespace Sys2Proof.Claims

/-! ### Faults, pre-emption, suspension and rails -/

/-- Task `t` is the oldest of a list (R298). -/
def Oldest (l : List Task) (t : Task) : Prop :=
  ∃ l₁ l₂, l = l₁ ++ t :: l₂ ∧ (∀ u ∈ l₁, t.older u = true) ∧ ∀ u ∈ l₂, u.older t = false

/-- The handle that PRE_HANDLE of die `d` holds is that of task `t`, resident on the die and not in `done`, and no pre-emption is
under way (R322). -/
def MayPreempt (s : State) (d : Nat) (x : Die) (t : Task) : Prop :=
  s.die? d = some x ∧ x.preBusy = none ∧ x.preHandle = t.handle ∧ s.task? t.handle = some t ∧ t.die = d ∧
    t.committing = false

/-- What a Save waits for has arrived: every gather of an unfrozen generator, every portal reply, the rest of a matrix row that has
begun; and no copy stands within a block (R324). A row or a block that a frozen port holds up is not waited for (R326), nor one of a gang
whose hang count has reached the interval (log entry 78). -/
def Arrived (s : State) (t : Task) : Prop :=
  t.portalReqs = 0 ∧
  (∀ a ∈ t.ags, agMode a.frame = 2 → t.isFrozen 2 a.place 0 = false → ∀ g ∈ a.gathers, g.2 ≠ none) ∧
  (s.hung t = true ∨ (∀ e ∈ t.engines, e.beats = [] ∨ t.rowHeld e = true) ∧
    ∀ c ∈ t.copies, c.finished = false → c.ran ≠ c.d.total → t.isFrozen 3 c.d.cluster c.n = false → t.fifoHeld c = false →
      c.ran * c.d.width % 128 = 0)

/-- RESULT of a pre-emption (R322). -/
def withResult (s : State) (d : Nat) (r : BitVec 3) : State := s.updDie d fun x => { x with preResult := r }

/-- The damage integral after a sample of `deg` whole degrees: it grows from 85 °C on, twice as fast for each 5 °C more, leaks 4, and
stays within 32 bits (R346). -/
def damage (dmg : Nat) (deg : Int) : Int :=
  max 0 (min 0xFFFFFFFF ((dmg : Int) + (if deg < 85 then 0 else 2 ^ ((deg - 85) / 5).toNat) - 4))

/-- A region after a sample of temperature `temp`, but for its trip: the damage integral moves, and alert is entered at its level
and left at the release level (R346, R347). -/
def sampled (g : Region) (temp : BitVec 16) : Region :=
  let dmg := (damage g.dmg (temp.toInt / 16)).toNat
  { g with temp := temp, dmg := dmg,
           inAlert := if g.alertLevel.toNat ≤ dmg then true
             else if dmg ≤ g.release.toNat ∧ dmg < g.alertLevel.toNat then false else g.inAlert }

/-- A sample at which region `g` reaches 120 °C: it was below before, or the gate of an earlier trip had opened again (R348). -/
def Reaches (g : Region) (temp : BitVec 16) : Prop := 120 ≤ temp.toInt / 16 ∧ (g.temp.toInt / 16 < 120 ∨ g.tripped = false)

/-- What a die takes from a token of the budget ring that carries `t` grains, where it wants `want` (R103, R344). -/
def takes (budget want t : Nat) : Nat := min want (min t (2 ^ 38 - budget))

/-- A record of a die that waits for funding: it has no image, is accepted, and declares more than the budget holds (R102, R344). -/
def Unfunded (s : State) (x : Die) (q : QRec) : Prop :=
  s.imageOf q = none ∧ s.recordBad q.crec = none ∧ x.budget < q.crec.grains

end Sys2Proof.Claims

/-- Whether a count that has reached its interval ends a task HANG: its gate is not in SHORT, or its account can fund one further unit of
the command that waits (R114, R320). -/
def Sys2Proof.Claims.EndsHang (t : Task) : Prop :=
  t.gate ≠ .short ∨ ∃ c k sum, t.cmd = some c ∧ takeUnits c.runs c.done t.account = (k, sum) ∧ k ≠ 0

/-- R114, R130, R271, R272, R298, R319, R320 and R326. A gang whose count reaches the interval ends HANG, with a map in the next of 16
places where HMAP_BASE is not 0, unless it is being pre-empted; a gate in SHORT that cannot fund one unit ends SHORTFALL. A space deadlock
holds where the Cupboard is still full for a write that waits and every holder waits for space or for a smaller timestamp; the youngest
holder that is not the oldest timed task of its context is re-queued then, and where each is one, the youngest of them, ahead of its
level. A free lock goes to its oldest waiter. A die's detector samples its blocked endpoints and acts on the cycles through those that two
samples confirm. That the sequence number rises with HMAP_BASE = 0, and that a map takes no commit number, are log entry 38. -/
def Obligations.DeadlockSteps : Prop :=
  (∀ s t, s.task? t.handle = some t → 0 < (s.die t.die).hangIvl.toNat → (s.die t.die).hangIvl.toNat ≤ t.hangCount →
    (s.preempting t = true → exec (.hangDetect t.handle) s = .next s) ∧
    (s.preempting t = false → EndsHang t → (s.die t.die).hmapBase = 0 → exec (.hangDetect t.handle) s = .next (finish
      ((s.updDie t.die fun x => { x with hangSeq := x.hangSeq + 1 }).retire { t with gate := .stopped } .hang .hang 0 0
        ((s.die t.die).hangSeq % 2 ^ 32) 0))) ∧
    (∀ u a, s.preempting t = false → EndsHang t → (s.die t.die).hmapBase ≠ 0 →
      u = s.updDie t.die (fun x => { x with hangSeq := x.hangSeq + 1 }) →
      a = (s.die t.die).hmapBase.toNat + 4096 * ((s.die t.die).hangSeq % 16) →
      exec (.hangDetect t.handle) s = .next (finish
        ((u.setHomed a (u.mapBytes t (s.die t.die).hangSeq)).retire
          { t with gate := .stopped } .hang .hang 0 0 ((s.die t.die).hangSeq % 2 ^ 32) a))) ∧
    (∀ c k, s.preempting t = false → t.gate = .short → t.cmd = some c → takeUnits c.runs c.done t.account = (0, k) →
      exec (.hangDetect t.handle) s = .next (finish (s.shortfall t c)))) ∧
  (∀ s d x cl t, s.die? d = some x → s.spaceDeadlock d cl = true →
    (youngest ((s.spaceHolders d cl).filter fun t => !s.isOldest t) = some t →
      exec (.cupboardSpaceAbort d cl) s = .next (s.requeue t t.rerun t.irrevocable false)) ∧
    ((∀ u ∈ s.spaceHolders d cl, s.isOldest u = true) → youngest (s.spaceHolders d cl) = some t →
      exec (.cupboardSpaceAbort d cl) s = .next (s.requeue t t.rerun t.irrevocable true))) ∧
  (∀ s d x cl, s.die? d = some x → s.spaceDeadlock d cl = false → exec (.cupboardSpaceAbort d cl) s = .next s) ∧
  (∀ (s : State) d cl, s.spaceDeadlock d cl = true ↔
    (∃ t ∈ s.tasks, t.die = d ∧ ∃ p k n, (p, k, n) ∈ t.spaceWait ∧ (t.member k).cluster = cl ∧
      524288 + t.share.getD k 0 < s.cupUsed d cl + n) ∧ s.spaceHolders d cl ≠ [] ∧
    ∀ t ∈ s.spaceHolders d cl, (∃ p k n, (p, k, n) ∈ t.spaceWait ∧ 524288 + t.share.getD k 0 < s.cupUsed d (t.member k).cluster + n) ∨
      (t.committing = true ∧ t.barMet = true ∧ (∀ c ∈ t.copies, c.finished = true) ∧ t.crec.ts ≠ 0 ∧
        ((∃ u ∈ s.kin t, u.crec.ts ≠ 0 ∧ u.crec.ts < t.crec.ts) ∨
          ∃ q ∈ s.queuedOf t.crec.ctx, q.crec.ts ≠ 0 ∧ q.crec.ts < t.crec.ts))) ∧
  (∀ s line l t a, s.lock? line = some l → l.holder = none → Oldest (l.waiters.filterMap s.task?) t →
    t.wait = some (.arBegin a) → exec (.lockGrant line) s = .next
      ((s.setLock { line := line, holder := some t.handle, work := [], waiters := l.waiters.filter (· ≠ t.handle) }).putTask
        ({ t with lockLine := some line, regionOpen := true }.advance 4))) ∧
  (∀ s line l t, s.lock? line = some l → l.holder = none → Oldest (l.waiters.filterMap s.task?) t →
    t.wait = some .done → t.gate = .running → exec (.lockGrant line) s = .next (finish (s.doneBody t))) ∧
  (∀ s d x, s.die? d = some x → exec (.channelDetectorSample d) s = .next (finish (State.breakCycles d
    (s.updDie d fun x => { x with samples := s.newSamples d }).blockedSet []
    (s.updDie d fun x => { x with samples := s.newSamples d })))) ∧
  (∀ s d x, s.die? d = some x → s.sampleEnds d = [] → (∀ k y, k ≠ d → s.die? k = some y → y.samples = []) →
    s.dies.length = 4 →
    exec (.channelDetectorSample d) s = .next (s.updDie d fun x => { x with samples := [] }))

/-- R314–R318, R322–R326 and R351. A retry settles its record and frees the port; a failure ends the task FAULTED with XLATE and the
port's kind. An error that was corrected is counted; one that was not is counted, and the task that meets it ends FAULTED.
A port that freezes writes its record into its die's fault ring, unless the ring is full. A pre-emption saves a task of mode Save once all that is under way has arrived, re-queues one by Discard, or drops it with outcome
DISCARDED, and gives its RESULT. That a Save of a hung gang waits no longer is log entry 78. Where a record slot became free, a port that had met a full ring writes its record. -/
def Obligations.InterventionSteps : Prop :=
  (∀ (s : State) t f x, s.die? t.die = some x → t.isFrozen f.kind f.place f.part = false →
    ((x.fringHead = x.fringTail ∧ ∃ r ∈ x.faults, r.state = 0) →
      s.freeze t f = s.putTask { t with frozen := t.frozen ++ [f] }) ∧
    (¬ (x.fringHead = x.fringTail ∧ ∃ r ∈ x.faults, r.state = 0) → s.freeze t f =
      ((s.setHomed (x.fringBase.toNat + 64 * x.fringTail.toNat) (natBytes 8 t.handle.toNat ++ natBytes 8 f.va.toNat ++
        natBytes 8 (f.kind + 16 * f.access + 64 * (f.place % 1024) + 65536 * t.crec.ctx) ++ natBytes 8 f.counter ++
        natBytes 8 t.crec.dw3.toNat ++ List.replicate 24 0)).updDie t.die fun x => { x with
          fringTail := x.fringTail + 1,
          faults := x.faults.filter (fun r => r.index ≠ x.fringTail.toNat) ++
            [{ index := x.fringTail.toNat, handle := t.handle, kind := f.kind, place := f.place, state := 0 }] }).putTask
        { t with frozen := t.frozen ++ [{ f with record := some x.fringTail.toNat }] })) ∧
  (∀ s d x k r t f, s.die? d = some x → x.faults.find? (fun r => r.index = k ∧ r.state = 0) = some r →
    s.task? r.handle = some t → t.frozen.find? (fun f => f.record = some k) = some f →
    exec (.faultRetry d k) s = .next
      (((s.settleFault d k 1).putTask { t with frozen := t.frozen.filter fun f => f.record ≠ some k }).refillRing d none) ∧
    ∀ u js, (s.settleFault d k 2).retire { t with gate := .stopped } .faulted .xlate 0 0 f.kind f.addr.toNat = (u, js) →
      exec (.faultFail d k) s = .next (finish (u.refillRing d none, js))) ∧
  (∀ s d x r h sub, s.die? d = some x → exec (.eccEvent d r false h sub) s = .next (s.updDie d fun x =>
    x.setRegion r { x.region r with
      corr := if (x.region r).corr = 0xFFFFFFFF then 0xFFFFFFFF else (x.region r).corr + 1 })) ∧
  (∀ s d x r t sub u, s.die? d = some x → s.task? t.handle = some t →
    u = s.updDie d (fun x => x.setRegion r { x.region r with
      uncorr := if (x.region r).uncorr = 0xFFFF then 0xFFFF else (x.region r).uncorr + 1 }) →
    exec (.eccEvent d r true t.handle sub) s =
      .next (finish (u.retire { t with gate := .stopped } .faulted .eccUncorrected 0 0 sub.toNat t.pc.toNat))) ∧
  (∀ s d x t, MayPreempt s d x t →
    exec (.preemptDiscard d) s = .next (withResult (s.requeue t t.rerun false false) d 0) ∧
    (∀ u js, s.retire t .discarded .none 0 0 0 0 = (u, js) →
      exec (.preemptDrop d) s = .next (finish (withResult u d 0, js))) ∧
    (t.crec.pmode ≠ 1 → exec (.preemptByRecord d) s = .next (withResult (s.requeue t t.rerun false false) d 0)) ∧
    (t.crec.pmode = 1 → Arrived s t → s.cannotSave t = false →
      exec (.preemptByRecord d) s = .next (withResult (s.save t) d 0)) ∧
    (t.crec.pmode = 1 → Arrived s t → s.cannotSave t = true →
      exec (.preemptByRecord d) s = .next (withResult (s.requeue t t.rerun false false) d 2)) ∧
    (t.crec.pmode = 1 → ¬ Arrived s t →
      exec (.preemptByRecord d) s = .next (s.updDie d fun x => { x with preBusy := some t.handle })))

/-- R328–R331, R352 and R357. A suspend command on a running package that holds no task powers it down: shallow, deep with its volatile
state lost, or towards a Wardrobe; with tasks resident they are pre-empted first. The Wardrobe at SAFEBASE then takes memory as the suspend left
it, queues, saved tasks, launches, locks and channels; resume sets a suspended package running with its channels unfrozen, the
saved records queued and its walkers readying what waits; a restore that follows training copies back the Wardrobe that stands at SAFEBASE,
deeply suspended, in stage C. An image keeps no instruction cache.
The Wardrobe's layout, the descriptor's bytes, and that a restore without a Wardrobe fails stage B are the model's choice (log entry 13);
that scratch reads zero after a deep suspend, and the resume in one step without STATE 6, are log entry 32, and that the nodes that wait
become ready at the resume log entry 42. -/
def Obligations.SuspendSteps : Prop :=
  (∀ s b (k : Fin 3) i u, i = (match k with | 0 => Instr.suspendShallow b | 1 => .suspendDeep b | 2 => .suspendWardrobe b) →
    s.susp = .running → u = { s with susp := .suspending, suspCmd := k.val + 1, suspDiscard := b } →
    (s.tasks = [] → exec i s = .next u.powerDown) ∧
    ((u.clearTasks (if b = true then 1 else 0)).tasks ≠ [] →
      exec i s = .next (u.clearTasks (if b = true then 1 else 0)))) ∧
  (∀ (s : State), s.powerDown.suspN = s.commitSeq ∧ s.powerDown.tasks = s.tasks ∧
    s.powerDown.channels = s.channels.map (fun (c : Chan) => { c with frozen := c.remote }) ∧
    s.powerDown.modified = [] ∧ (s.suspCmd = 1 → s.powerDown.susp = .shallow ∧ s.powerDown.scratch = s.scratch) ∧
    (s.suspCmd = 2 → s.powerDown.susp = .deep ∧ s.powerDown.tlb = [] ∧ s.powerDown.scratch = []) ∧
    (s.suspCmd = 3 → s.powerDown.susp = .writing ∧ s.powerDown.tlb = [] ∧ s.powerDown.scratch = [])) ∧
  (∀ s d, s.susp = .writing → s.descriptor = some d → exec .wardrobeWrite s = .next
    { s with susp := .complete, mem := s.safeWrite s.suspMem d, wardrobe := (s.safeBase.toNat, d) :: s.wardrobe }) ∧
  (∀ (s : State) t x, x ∈ (s.save t).saved → x ∈ s.saved ∨ x.task.icache = []) ∧
  (∀ (s : State) m d a o, s.mem.wf = true → m.wf = true → s.safeOffset a = some o → s.inCxl (s.safeBase.toNat + o) = true →
    (s.safeWrite m d).get (s.safeBase.toNat + o) = m.get a) ∧
  (∀ (s : State) a o, s.mem.wf = true → (∀ o', s.safeSource o' = some a ↔ o' = o) →
    s.inCxl (s.safeBase.toNat + o) = true → s.inCxl a = false → s.safeRead.get a = s.mem.get (s.safeBase.toNat + o)) ∧
  (∀ s u js, (s.susp = .shallow ∨ s.susp = .deep ∨ s.susp = .complete) →
    State.walkersGoOn (State.requeueSaved { s with susp := .running, suspMem := [],
                                                   channels := s.channels.map fun (c : Chan) => { c with frozen := false } }) = (u, js) →
    exec .resume s = .next (finish (u, js)) ∧
    ((∀ i ∈ s.instances, (∀ n ∈ i.nodes, n.life ≠ .waiting ∨ n.count ≠ 0) ∧ ∃ n ∈ i.nodes, n.live = true) →
      (∀ x ∈ s.saved, ∃ y ∈ s.dies, ∃ q ∈ y.taskQueue, q.image = some x.id) → exec .resume s = .next
      { s with susp := .running, suspMem := [], channels := s.channels.map fun (c : Chan) => { c with frozen := false } })) ∧
  (∀ (s : State) x, s.imageQueued x = false → s.saved = [x] → s.requeueSaved = s.queueImage x) ∧
  (∀ (s : State) d, s.mem.wf = true → s.suspMem.wf = true → (∀ w ∈ s.hcw, w.en = false) →
    (∀ k < s.tierSize + 2 ^ 22, s.inCxl (s.safeBase.toNat + k) = true) → s.safeThere (s.tierSize + 2 ^ 22) = true →
    State.wardrobeAt { s with mem := s.safeWrite s.suspMem d, wardrobe := (s.safeBase.toNat, d) :: s.wardrobe } = some d) ∧
  (∀ (s : State) n, s.inCxl s.safeBase.toNat = false → s.safeThere n = false ∧ s.wardrobeAt = none) ∧
  (∀ (s : State) n, s.safeThere n = true ↔ ∃ r, s.rangeOf s.safeBase.toNat = some r ∧ r.kind = .cxl ∧
    s.safeBase.toNat + n ≤ r.base + r.size) ∧
  (∀ s, s.wardrobeAt = none → s.stage = .b → s.restoreRun = true → ∃ u, exec .wardrobeRestore s = .next u ∧ u.stage = .a ∧
    u.restoreRun = false ∧ u.mem = s.mem ∧ u.dies = s.dies) ∧
  (∀ s w, s.wardrobeAt = some w → s.stage = .b → s.restoreRun = true →
    ∃ u, exec .wardrobeRestore s = .next u ∧
    u.mem = s.safeRead ∧ u.commitSeq = w.n ∧ u.suspN = w.n ∧ u.susp = .deep ∧ u.stage = .c ∧ u.saved = w.saved ∧
    u.instances = w.instances ∧ u.channels = w.channels ∧ u.generations = w.generations ∧ u.locks = w.locks ∧
    ∀ (d : Nat) (x y : Die), s.die? d = some x → w.dies[d]? = some y → ∃ z, u.die? d = some z ∧ z.budget = y.budget ∧
      z.taskQueue = y.taskQueue ∧ z.deques = y.deques ∧ z.pending = y.pending ∧ z.slots = y.slots ∧
      z.fringHead = y.fringHead ∧ z.fringTail = y.fringTail ∧ z.allot = x.allot ∧ z.bureau = x.bureau)

/-- R100, R326 and R344–R350. A sample moves its region's damage integral, alert and trip; a region that reaches 120 °C trips, and a cluster
that trips loses its tasks to Discard, while its scratch keeps every byte: gating never changes it. The throttle sets the step of the selected or of every enabled cluster. A turn of the ring lets
the dies in order take their allotments, then in the same order the unmet declarations of their oldest waiting records, from the
package limit and into the room of their budgets; the microsecond then counts for the clock and for every task.
The token counts grains (log entry 40); that a task whose `done` has begun is re-queued by a trip too is log entry 30, and that the clock,
the hold timers and the hang counts move by one microsecond with each turn of the ring log entry 7. -/
def Obligations.RailSteps : Prop :=
  (∀ s d x r temp g, s.die? d = some x → r < 107 → x.regions[r]? = some g →
    (temp.toInt / 16 < 120 →
      exec (.thermalSample d r temp) s = .next (s.updDie d fun x =>
        { x with regions := x.regions.set r { sampled g temp with
            tripped := g.tripped && (105 ≤ temp.toInt / 16 || (r < 104 && (sampled g temp).inAlert)) } })) ∧
    (120 ≤ temp.toInt / 16 → ¬ Reaches g temp →
      exec (.thermalSample d r temp) s = .next (s.updDie d fun x =>
        { x with regions := x.regions.set r { sampled g temp with tripped := true } })) ∧
    (Reaches g temp → ∀ u,
      u = s.updDie d (fun x => { x with regions := x.regions.set r { sampled g temp with tripped := true }, trip := true }) →
      (r < 104 → exec (.thermalSample d r temp) s = .next (u.dropCluster d r)) ∧
      (104 ≤ r → exec (.thermalSample d r temp) s = .next u))) ∧
  (∀ (s : State) d r t, s.tasks = [t] → t.die = d → (∃ m ∈ t.members, m.cluster = r) → s.dropCluster d r = s.requeue t t.rerun false false) ∧
  (∀ (s : State) d r, (s.dropCluster d r).scratch = s.scratch) ∧
  (∀ s d x v, s.die? d = some x → x.thermSel.toNat < 104 →
    exec (.throttleSetOne d v) s = .next (s.updDie d fun x => { x with steps := setAt x.steps x.thermSel.toNat v })) ∧
  (∀ s d x v, s.die? d = some x → ∃ y, exec (.throttleSetAll d v) s = .next (s.updDie d fun _ => y) ∧
    y = { x with steps := y.steps } ∧ ∀ c < 104, y.steps[c]? = some (if x.has c then v else x.steps.getD c 0)) ∧
  (∀ s d x, s.die? d = some x → exec (.timerExpiry d) s = .next s) ∧
  (∀ s, exec .budgetRingTurn s = .next s.ringTurn.tick.tidy ∧
    s.tick.now = s.now + 1 ∧ s.tick.tasks = s.tasks.map (fun t => { t with
      holdLeft := if t.gate = .hold ∧ t.frozen = [] then t.holdLeft - 1000 else t.holdLeft
      hangCount := if s.countsHang t = true then t.hangCount + 1 else t.hangCount }) ∧
    ((∀ x ∈ s.dies, x.preBusy = none) → s.susp ≠ .suspending → s.tidy = s)) ∧
  (∀ (s : State) (a b c d : Die) l n0 n1 n2 n3 m0 m1 m2 m3, s.dies = [a, b, c, d] → l = s.pkgLimit.toNat * 2 ^ 20 →
    n0 = takes a.budget (a.allot.toNat * 2 ^ 20) l →
    n1 = takes b.budget (b.allot.toNat * 2 ^ 20) (l - n0) →
    n2 = takes c.budget (c.allot.toNat * 2 ^ 20) (l - n0 - n1) →
    n3 = takes d.budget (d.allot.toNat * 2 ^ 20) (l - n0 - n1 - n2) →
    m0 = takes (a.budget + n0) (s.unmet { a with budget := a.budget + n0 }) (l - n0 - n1 - n2 - n3) →
    m1 = takes (b.budget + n1) (s.unmet { b with budget := b.budget + n1 }) (l - n0 - n1 - n2 - n3 - m0) →
    m2 = takes (c.budget + n2) (s.unmet { c with budget := c.budget + n2 }) (l - n0 - n1 - n2 - n3 - m0 - m1) →
    m3 = takes (d.budget + n3) (s.unmet { d with budget := d.budget + n3 }) (l - n0 - n1 - n2 - n3 - m0 - m1 - m2) →
    s.ringTurn = { s with dies := [{ a with budget := a.budget + n0 + m0 }, { b with budget := b.budget + n1 + m1 },
                                   { c with budget := c.budget + n2 + m2 }, { d with budget := d.budget + n3 + m3 }] }) ∧
  (∀ (s : State) x, ((∀ q ∈ x.taskQueue ++ x.deques.flatMap Prod.snd, ¬ Unfunded s x q) → s.unmet x = 0) ∧
    ∀ l q r, x.taskQueue ++ x.deques.flatMap Prod.snd = l ++ q :: r → Unfunded s x q →
      (∀ p ∈ l, Unfunded s x p → q.since < p.since) → (∀ p ∈ r, Unfunded s x p → q.since ≤ p.since) →
      s.unmet x = q.crec.grains - x.budget)

/-- R197, R199, R205, R206 and R373. An invalidation starts, and when it completes no TLB of the package holds an entry it names. A
page moves to the slice that HOME_SLICE is given, if its cluster is enabled, and accesses to it wait until the move completes, when no
line of it is left in the old one. A way is gated unless it holds channel slots; a woken way is empty, and awake 2 µs later; accesses
that wait at a slice are then tried again.
That an access to a class with a waking way waits, hit or miss, is log entry 61. -/
def Obligations.CacheSteps : Prop :=
  (∀ s d x ctx, s.die? d = some x → x.tlbiOp = none →
    exec (.tlbiPage d ctx) s = .next (s.updDie d fun x =>
      { x with tlbiCtx := ctx, tlbiScope := 0, tlbiOp := some (0, ctx.toNat, x.tlbiVpn.toNat) }) ∧
    exec (.tlbiContext d ctx) s = .next (s.updDie d fun x =>
      { x with tlbiCtx := ctx, tlbiScope := 1, tlbiOp := some (1, ctx.toNat, x.tlbiVpn.toNat) }) ∧
    exec (.tlbiAll d) s = .next (s.updDie d fun x =>
      { x with tlbiCtx := 0, tlbiScope := 2, tlbiOp := some (2, 0, x.tlbiVpn.toNat) })) ∧
  (∀ s d x sc ctx vpn, s.die? d = some x → x.tlbiOp = some (sc, ctx, vpn) → sc < 3 →
    exec (.tlbInvalidateComplete d) s = .next
      ({ s with tlb := s.tlb.filter fun e => ¬ (sc = 2 ∨ (sc = 1 ∧ e.ctx = ctx) ∨ (sc = 0 ∧ e.covers ctx (vpn * 4096) = true)) }.updDie
        d fun x => { x with tlbiOp := none })) ∧
  (∀ s d x v c k, s.die? d = some x → s.homeDie (x.homeSel.toNat * 65536) = some d →
    s.homeSlice (x.homeSel.toNat * 65536) = some (d, c, k) →
    (x.has (v.toNat % 128) = false →
      exec (.homeSliceWrite d v) s = .next (s.updDie d fun x => { x with homeErr := true })) ∧
    (x.has (v.toNat % 128) = true → (c, k) ≠ (v.toNat % 128, v.toNat / 128 % 4) →
      exec (.homeSliceWrite d v) s = .next
        { s.updDie d (fun x => { x with homeErr := false }) with
          homing := (x.homeSel.toNat, v.toNat % 128, v.toNat / 128 % 4) :: s.homing.filter (·.1 ≠ x.homeSel.toNat),
          moving := s.moving ++ [(x.homeSel.toNat, 4 * c + k)] })) ∧
  (∀ s d x page o, s.die? d = some x → s.homeDie (page * 65536) = some d →
    s.moving.filter (·.1 = page) = [(page, o)] → s.homeSlice (page * 65536) ≠ some (d, o / 4, o % 4) →
    exec (.homePageMoveComplete d page) s = .next (State.cacheGoOn
      { (s.setSlice { s.slice d (o / 4) (o % 4) with
          ways := (s.slice d (o / 4) (o % 4)).ways.filter fun w => w.line / 512 ≠ page }).updDie d (fun x =>
            if x.bureau.homeWait = some page then { x with bureau := { x.bureau with homeWait := none } } else x) with
        moving := s.moving.filter (·.1 ≠ page) })) ∧
  (∀ (s : State) d page, (page, d) ∈ s.moving → ∀ src a cls, a / 65536 = page → (s.homeSlice a).isSome →
    (∀ r ∈ s.rdc, r.2.1 ≠ a / 128) → s.touch src a cls = { s with cacheWaits := s.cacheWaits ++ [(src, a, cls)] }) ∧
  (∀ s d x y (w : Fin 16), s.die? d = some x → s.selected d = some y →
    (y.gate.getLsbD w.val = false → y.slotWay w.val = false → exec (.wayGate d (BitVec.twoPow 16 w.val)) s = .next (s.setSlice
      { y with ways := y.ways.filter (·.way ≠ w.val), gate := y.gate ||| BitVec.twoPow 16 w.val,
               awake := y.awake &&& ~~~BitVec.twoPow 16 w.val, waking := y.waking.filter (·.1 ≠ w.val) }).cacheGoOn) ∧
    (y.gate.getLsbD w.val = true → exec (.wayWake d (BitVec.twoPow 16 w.val)) s = .next (s.setSlice
      { y with gate := y.gate &&& ~~~BitVec.twoPow 16 w.val, waking := (w.val, s.now + 2) :: y.waking }).cacheGoOn)) ∧
  (∀ s d x c k w t y, s.die? d = some x → s.slice d c k = y → (w, t) ∈ y.waking → t ≤ s.now →
    exec (.wayAwake d c k w) s = .next (s.setSlice
      { y with awake := y.awake ||| 1#16 <<< w, waking := y.waking.filter (·.1 ≠ w) }).cacheGoOn) ∧
  (∀ s : State, s.cacheWaits = [] → s.cacheGoOn = s)

namespace Sys2Proof.Claims

/-! ### What the host sees -/

/-- A request of `n` bytes at `a` that lies in one 4 KiB page of memory addresses (R199, R287). -/
def Request (a n : Nat) : Prop := 0 < n ∧ a / 4096 = (a + n - 1) / 4096 ∧ a < barBase

/-- A write from outside: what event `i` asks to store, and where (R287). -/
def outsideWrite : Instr → Option (Nat × List Byte)
  | .hostWrite a l => if a / 4096 = (a + l.length - 1) / 4096 ∧ 0 < l.length ∧ a < barBase then some (a, l) else none
  | .ualinkWrite (.addr a) l => if 0 < l.length then some (a, l) else none
  | .cxlMemWrite a l => if a % 64 = 0 ∧ l.length = 64 then some (a, l) else none
  | _ => none

end Sys2Proof.Claims

/-- R334, R354, R356 and R362. A write through the register window does what `sys.wr` does on the Bureau: TIMER_CMP, SLICE and
HANG_IVL take the value, and a read-only register keeps its own. A doorbell write sets HOST, and a read of it by the Bureau
clears it. A window that is not enabled takes SIZE, EN and WR, EN only where it meets no memory and no other window; while it is
enabled only a write that clears EN counts. That SIZE and WR are taken where EN is refused, that EN is refused where the window meets
memory, and that SIZE and WR are taken by the write that clears EN, is log entry 31. -/
def Obligations.HostRegisters : Prop :=
  (∀ s d x v, s.die? d = some x →
    exec (.registerWrite d 0x111 v) s = .next (s.updDie d fun x => { x with timerCmp := v }) ∧
    exec (.registerWrite d 0x120 v) s = .next (s.updDie d fun x =>
      { x with sliceLen := if v.extractLsb' 0 16 = 0 then 1 else v.extractLsb' 0 16 }) ∧
    exec (.registerWrite d 0x121 v) s = .next (s.updDie d fun x => { x with hangIvl := v.extractLsb' 0 32 }) ∧
    exec (.registerWrite d 0x301 v) s =
      .next (s.updDie d fun x => { x with bureau := { x.bureau with tpc := v } }) ∧
    (∀ num : BitVec 12, regFields num.toNat = none ∨ regFields num.toNat = some { rw := 0, wo := 0, w1c := 0 } →
      exec (.registerWrite d num v) s = .next s)) ∧
  (∀ s d x num f v, s.die? d = some x → regFields num.toNat = some f → ¬ (0x130 ≤ num.toNat ∧ num.toNat ≤ 0x138) →
    exec (.registerWrite d num v) s =
      .next (finish (s.regWrite d num.toNat true (v &&& f.rw) (some (v &&& f.wo)) (v &&& f.w1c)))) ∧
  (∀ s d x v, s.die? d = some x →
    exec (.doorbellWrite d v) s = .next (s.updDie d fun x => { x with doorbell := v, rung := true }) ∧
    exec (.doorbellRead d) s = .next (s.updDie d fun x => { x with rung := false })) ∧
  (∀ s k w v, k < 8 → s.hcw[k]? = some w →
    (w.en = true → v.getLsbD 6 = true → exec (.hcwCtlWrite k v) s = .next s) ∧
    (∀ w', w' = { w with size := if 21 ≤ v.toNat % 64 ∧ v.toNat % 64 ≤ 40 then v.extractLsb' 0 6 else 21,
                          wr := v.getLsbD 7, en := v.getLsbD 6 } →
      (w.en = false → exec (.hcwCtlWrite k v) s =
        .next { s with hcw := s.hcw.set k { w' with en := w'.en && s.windowFree k w' } }) ∧
      (w.en = true → v.getLsbD 6 = false → exec (.hcwCtlWrite k v) s =
        .next { s with hcw := s.hcw.set k { w' with en := false },
                       modified := s.modified.filter fun l => ¬ (w.dev.toNat ≤ 64 * l ∧
                         64 * l < w.dev.toNat + 2 ^ w.size.toNat) })))

/-- R199, R201, R287, R288 and R363. A write from the host, a peer or a CXL host to memory lands as one external commit: it takes the
next commit number, sets its bytes and no others, and dooms the tasks that read its lines; where there is no memory it is answered
with an error status and changes nothing else. A read gives committed bytes. A snoop of a window line answers its committed
value, and the device holds the line modified no more; a write takes the line out of the caches before it lands. Before stage C every
outside access is answered with an error status (the model's reading, log entry 53). -/
def Obligations.OutsideAccess : Prop :=
  (∀ s i a l, outsideWrite i = some (a, l) →
    (s.stage = .c → s.hasHome a = true → s.winOf a = none → exec i s = .next (finish (s.landExternal [] (atAddr a l) 0))) ∧
    (s.stage ≠ .c ∨ s.hasHome a = false → exec i s = .next { s with out := s.out ++ [.errorStatus a] })) ∧
  (∀ (s : State) a l b, s.mem.wf = true → (∀ p, s.winOf p = none) →
    (s.landExternal [] (atAddr a l) 0).1.commitSeq = s.commitSeq + 1 ∧
    (s.landExternal [] (atAddr a l) 0).1.byteAt b = if a ≤ b ∧ b < a + l.length then l.getD (b - a) 0 else s.byteAt b) ∧
  (∀ (s : State) a l h, (∃ t ∈ s.tasks, t.handle = h ∧ h ≠ 0 ∧ ∃ r ∈ t.readSet, ∃ k < l.length, r.2 = (a + k) / 128) →
    Job.doom h false ∈ (s.landExternal [] (atAddr a l) 0).2) ∧
  (∀ s a n, Request a n →
    (s.stage = .c → s.hasHome a = true → s.winOf a = none → exec (.hostRead a n) s = .next
      { s with out := s.out ++ [.read a ((List.range n).map fun i => s.byteAt (a + i))] }) ∧
    (s.stage ≠ .c ∨ s.hasHome a = false →
      exec (.hostRead a n) s = .next { s with out := s.out ++ [.errorStatus a] })) ∧
  (∀ s a w, a % 64 = 0 → s.winOf a = some w → s.cxlCache = true →
    exec (.cxlCacheSnoop a none) s = .next
      { s with out := s.out ++ [.read a (s.bytesAt a 64)], modified := s.modified.filter (· ≠ a / 64) }) ∧
  (∀ (s : State) a w l (u v : State) js, a % 64 = 0 → s.winOf a = some w → s.cxlCache = true → l.length = 64 →
    u = { s with out := s.out ++ [.read a (s.bytesAt a 64)], modified := s.modified.filter (· ≠ a / 64) } →
    js = u.doomJobs [a / 128] 0 →
    v = ({ u.dropLine (a / 128) with commitSeq := s.commitSeq + 1 }.publish 0 [a / 128] (atAddr a l)).stamp [a / 128] none →
    exec (.cxlCacheSnoop a (some l)) s = .next (finish ({ v with modified := v.modified.filter (· ≠ a / 64) }, js))) ∧
  (∀ (s : State) line, (∀ r ∈ (s.dropLine line).rdc, r.2.1 ≠ line) ∧
    ∀ d c k, s.homeSlice (128 * line) = some (d, c, k) → ∀ w ∈ ((s.dropLine line).slice d c k).ways, w.line ≠ line)

/-- R200, R283, R352, R353, R357, R358, R359 and R361. Power-good brings the package to stage A as at reset, with its fuses, its boot
memory, persistent CXL memory and host memory kept; firmware that does not verify is not run and holds the package in stage A. GO, or
50 ms after stage A, starts stage B under RESTORE as it stands; without it the second tier reads zero from there on and its sweep
starts. Stage B ends in stage C with HBM4 zero and commit sequence 0, goes on to a restore, or fails back to stage A with its die and
cause. The sweep passes each block once, and the last one ends it. RESYNC, unless busy, takes an address and is busy until the summary
is written into host memory; ATTEST writes the signed report on the nonce.
The report's layout and its one step (log entry 15), the time of stage A (log entry 62), that memory and scratch read 0 after power-good
(log entry 6), when firmware is judged and that no timeout starts what is invalid (log entry 33), and that host and boot memory are kept
(log entry 17) are the model's choice. -/
def Obligations.BringUpSteps : Prop :=
  (∀ s, ∃ u, exec .powerGood s = .next u ∧ u.stage = .a ∧ u.scratch = [] ∧ u.tasks = [] ∧ u.channels = [] ∧ u.locks = [] ∧
    u.commitSeq = 0 ∧ u.now = 0 ∧ u.hcw = State.reset.hcw ∧ u.pkgLimit = 166 ∧ u.susp = .running ∧
    u.wardrobe = s.wardrobe ∧ u.hostMem = s.hostMem ∧ u.firmware = s.firmware ∧
    (∀ d x, u.die? d = some x → x = { Die.reset d with enabled := (s.die d).enabled }) ∧
    (s.mem.wf = true → ∀ a, u.mem.get a = if persists a = true then s.mem.get a else 0) ∧
    (u.fwInvalid = true ↔ ∃ f, s.firmware.head? = some f ∧ ¬ (f.scheme = .ecdsaP384Sha384 ∧
      ecdsaVerify Config.firmwareKey (sha384 f.code) f.sig = true))) ∧
  (∀ s b, s.stage = .a → s.fwInvalid = false →
    b = { s with stage := .b, restoring := s.restore, restoreRun := false, failDie := 0, cause := 0 } →
    ((∀ f ∈ s.firmware, f.verified = true) →
      (s.restore = true → exec .bootGo s = .next b ∧ (s.stageAEnd + 50000 ≤ s.now → exec .stageBTimeout s = .next b)) ∧
      (s.restore = false → ∃ u, exec .bootGo s = .next u ∧ (s.stageAEnd + 50000 ≤ s.now → exec .stageBTimeout s = .next u) ∧
        u = { b with mem := u.mem, sweeping := true, swept := [] } ∧
        (s.mem.wf = true → ∀ a, u.mem.get a = if s.secondTier (a / 65536) = true then 0 else s.mem.get a))) ∧
    ((∃ f ∈ s.firmware, f.verified = false) → exec .bootGo s = .next { s with fwInvalid := true })) ∧
  (∀ s, s.stage = .b → s.restoreRun = false →
    (s.restoring = false → ∃ u, exec (.stageBComplete none) s = .next u ∧ u.stage = .c ∧ u.commitSeq = 0 ∧
      u.homing = [] ∧ u.sweeping = s.sweeping ∧ u.swept = s.swept ∧ u.dies = s.dies ∧ u.tasks = s.tasks ∧ u.hostMem = s.hostMem ∧
      (s.mem.wf = true → ∀ a, u.mem.get a = if u.inHbm a = true then 0 else s.mem.get a)) ∧
    (s.restoring = true → ∃ u, exec (.stageBComplete none) s = .next u ∧ u.stage = .b ∧ u.restoreRun = true ∧ u.mem = s.mem) ∧
    (∀ f, exec (.stageBComplete (some f)) s =
      .next { s with stage := .a, restoring := false, sweeping := false, failDie := f.die, cause := f.cause })) ∧
  (∀ s b, s.sweeping = true → s.secondTier b = true → b ∉ s.swept → exec (.zeroingSweep b) s = .next
    { s with swept := b :: s.swept, sweeping := decide (s.swept.length + 1 < s.tierBlocks) }) ∧
  (∀ s b, s.sweeping = false ∨ s.secondTier b = false → exec (.zeroingSweep b) s = .next
    { s with sweeping := s.sweeping && decide (s.swept.length < s.tierBlocks) }) ∧
  (∀ s v, s.resyncBusy = false → exec (.resyncRequest v) s = .next
    { s with resyncAddr := v.toNat % 2 ^ 52 / 64 * 64, resyncBusy := true }) ∧
  (∀ s n, s.resyncBusy = true → n = ofLeBytes ((List.range 8).map fun i => s.hostByte (s.resyncAddr + i)) → 64 ≤ n →
    exec .resyncSummaryWritten s = .next
      { s with resyncBusy := false,
               hostMem := s.hostMem.write s.resyncAddr (s.summary n) }) ∧
  (∀ (s : State) n, 64 ≤ n → (s.summary n).length ≤ n ∧ (s.resyncLength ≤ n → (s.summary n).length = s.resyncLength)) ∧
  (∀ s v u a nonce body, a = v.toNat % 2 ^ 52 / 64 * 64 → u = { s with attestAddr := a } →
    nonce = (List.range 48).map (fun i => s.hostByte (a + i)) →
    body = nonce ++ (s.firmware.flatMap fun f => sha384 f.code) ++ capEntry 1 0x10 s.stageWord ++ s.maskBytes ++
      identityKey →
    exec (.attestRequest v) s = .next
      { u with hostMem := s.hostMem.write (a + 128) (body ++ ecdsaSign identitySecret (sha384 body)) })

/-- R141, R142 and R371. What branches and jumps do on the Bureau and in a task. That the PERM of a branch on a Bureau leaves its target in VAL
is log entry 44. -/
def Obligations.BranchesAndJumps : Prop :=
  Sys2Proof.Claims.BranchResults ∧ Sys2Proof.Claims.JumpResults

/-- R33, R137, R142–R147, R199, R362, R363 and R371. Where jumps, loads and stores trap, and with what: a bad target, a misaligned address
before anything else, an address outside scratch or outside memory, and what the translation and the page of a task's global access
forbid; and the miss that freezes its thread instead. That VAL is the address or the target is log entry 44; that a misaligned private
address at or above 65,536 traps MISALIGN, not PERM, is log entry 45. -/
def Obligations.AddressTraps : Prop :=
  Sys2Proof.Claims.JumpTraps ∧ Sys2Proof.Claims.AlignmentFirst ∧ Sys2Proof.Claims.ScratchTraps ∧
    Sys2Proof.Claims.BureauAccessTraps ∧ Sys2Proof.Claims.GlobalTraps

/-- R143–R146. What loads from scratch and from global memory do. -/
def Obligations.Loads : Prop :=
  Sys2Proof.Claims.ScratchLoads ∧ Sys2Proof.Claims.GlobalLoads

/-- R143–R146. What stores to scratch and to global memory do. -/
def Obligations.Stores : Prop :=
  Sys2Proof.Claims.ScratchStores ∧ Sys2Proof.Claims.GlobalStores

/-- R297–R299. How an atomic region opens, and what its accesses do. -/
def Obligations.AtomicRegion : Prop :=
  Sys2Proof.Claims.AtomicBegin ∧ Sys2Proof.Claims.AtomicAccess

/-- R209, R214–R217, R219 and R220. What the copy commands do. -/
def Obligations.CopyCommands : Prop :=
  Sys2Proof.Claims.CopyIssue ∧ Sys2Proof.Claims.CopyCancel

namespace Sys2Proof.Claims

/-- Task `t` issues at a funding point: `bar`, `bar.cfg`, a `fence` with F set, a `tl.wait` on tl2 that must wait, or the `bar` wait of
`done`; it then stands blocked there as `T`, in state `S` (R107). -/
def AtFundingPoint (s : State) (t : Task) (i : Instr) (S : State) (T : Task) : Prop :=
  ((i = .bar ∨ i = .barCfg) ∧ OnThread s t 1 ∧ T = (drawn s t 1).block i ∧ S = (charged s t 1).putTask T) ∨
  (∃ k, i = .fence k ∧ k.getLsbD 1 = true ∧ OnThread s t 1 ∧ T = fencing (drawn s t 1) k ∧ S = (charged s t 1).putTask T) ∨
  (∃ b, i = .tlWait 2 b ∧ t.timeline 2 < (t.x b).toNat ∧ OnThread s t 1 ∧ T = (drawn s t 1).block i ∧
    S = (charged s t 1).putTask T) ∨
  (i = .done ∧ OnThread s t 0 ∧ T = ({ drawn s t 0 with regionOpen := false, committing := true } : Task).block .done ∧
    S = (charged s t 0).putTask T)

/-- Arm `a` is the next one that task `T` funds: the lowest node of those delivered and not yet funded, and no lower-numbered arm aimed at
the task is still to be funded (R107). -/
def NextArm (S : State) (T : Task) (a : WalkerArm) : Prop :=
  FirstWith (fun b => b.op = none ∧ ∀ c ∈ T.arms, c.op = none → b.node ≤ c.node) T.arms a ∧ S.armBefore T a.inst a.node = false

/-- A task with an operation on tl2 for its arm `a`, under number `id` (R107, R153). -/
def withArm (T : Task) (a : WalkerArm) (id : Nat) : Task :=
  { T with ops2 := T.ops2 ++ [{ newOp id 0 a.sec a.tiles false false with node := some a.node }],
           arms := T.arms.map fun b => if b.node = a.node then { b with op := some id } else b }

/-- The command that funds an arm, with `k` of its tiles funded, on engines of format code `f` (R104, R107). -/
def armCmd (a : WalkerArm) (f k : Nat) : Cmd :=
  { kind := .walkerArm a.node, addr := 0, issue := 0, issued := true, runs := [(a.tiles, tileDraw f)], done := k }

end Sys2Proof.Claims

/-- R87, R104, R107, R108, R111 and R151. At a funding point the walker arms delivered are funded one at a time, by rising node: the tiles
of an arm from the account that covers them, all of them and the gate stays RUNNING, a prefix of them and it is SHORT, none of them and
it enters HOLD; then the thread waits for the arm to complete. An arm of a section without engines ends the task FAULTED with ILLEGAL_OP
and the arm's node. While a lower-numbered arm is still to be funded none is, and the thread only waits. An arm delivered to a thread
that is blocked at a funding point is funded then. -/
def Sys2Proof.Claims.ArmFunding : Prop :=
  (∀ s t i S T a f es e, AtFundingPoint s t i S T → t.arms = [a] → a.op = none → NextArm S T a → 0 < a.tiles →
    T.sectionEngines a.sec = e :: es → f = e.fmt.getD 0 →
    (a.tiles * tileDraw f ≤ T.account → exec i s =
      .next (granted (numbered S 1) (withArm T a S.nextId) (.walkerArm a.node) [(a.tiles, tileDraw f)])) ∧
    (∀ k p, 0 < k → k < a.tiles → k * tileDraw f ≤ T.account → T.account < (k + 1) * tileDraw f →
      p = (numbered S 1).debit (withArm T a S.nextId) (k * tileDraw f) →
      exec i s = .next (p.1.putTask { p.2.applyGrant (armCmd a f 0) k with gate := .short, cmd := some (armCmd a f k) })) ∧
    (T.account < tileDraw f → t.holdField ≠ 0 → exec i s = .next ((numbered S 1).putTask
      { withArm T a S.nextId with cmd := some (armCmd a f 0), gate := .hold, holdLeft := t.holdField.toNat * 64 }))) ∧
  (∀ s t i S T a, AtFundingPoint s t i S T → NextArm S T a → T.sectionEngines a.sec = [] →
    exec i s = .next (finish (S.retire { T with gate := .stopped } .faulted .illegalOp 0 0 0 a.node))) ∧
  (∀ s t i S T, AtFundingPoint s t i S T → t.arms ≠ [] → (∀ a ∈ t.arms, a.op = none → S.armBefore T a.inst a.node = true) →
    exec i s = .next S) ∧
  (∀ (S : State) T a e es n p, S.task? T.handle = some T → T.gate = .running → NextArm S T a → T.sectionEngines a.sec = e :: es →
    p = State.grantCmd (numbered S 1) (withArm T a S.nextId) (armCmd a (e.fmt.getD 0) 0) →
    S.fundArms T.handle (n + 1) = ((p.1.fundArms T.handle n).1, p.2 ++ (p.1.fundArms T.handle n).2)) ∧
  (∀ (S : State) T (a : WalkerArm), S.armBefore T a.inst a.node = true ↔ ∃ i, S.instances.find? (·.id = a.inst) = some i ∧
    ∃ k < a.node, ∃ n m u v, i.nodes[k]? = some n ∧ i.nodes[a.node]? = some m ∧ n.target = some u ∧ m.target = some v ∧ u.1 = v.1 ∧
      (n.life = .waiting ∨ n.life = .held ∨ (n.life = .armed ∧ ∃ b ∈ T.arms, b.node = k ∧ b.op = none))) ∧
  (∀ s id k i n tgt sec tiles h t w p q, s.instances.find? (·.id = id) = some i → i.nodes[k]? = some n →
    n.target = some (tgt, sec, tiles) → n.life = .held → (i.nodes[tgt]?).map Node.life = some (.running h) →
    s.task? h = some t → t.paid = true → t.wait = some w → fundingPoint w = true →
    p = State.fundArms ((s.putTask { t with
      arms := t.arms ++ [{ inst := id, node := k, sec := sec, tiles := tiles, op := none }] }).updNode id k
        fun n => { n with life := .armed }) h (t.arms.length + 2) → q = p.1.settleTl2 h →
    exec (.walkerArmDelivery id k) s = .next (finish (q.1, p.2 ++ q.2)))

/-- R87, R107, R111, R149, R151–R154, R243, R295 and R341. What `bar`, `bar.cfg`, `drain`, `fence` and `yield` do at issue: they complete,
wait, or end the task where a pass is left open; `yield` completes at once and changes no register. And how the walker arms of a task are
funded at such a wait. That `fence` 0 traps at issue with no draw is log entry
46, the value 0 that it leaves in VAL on a Bureau log entry 44, and that a `drain` waits for an earlier command to the same destination
log entry 71. -/
def Obligations.BarsAndFences : Prop :=
  Sys2Proof.Claims.BarResults ∧ Sys2Proof.Claims.FenceResults ∧ Sys2Proof.Claims.ArmFunding ∧
    ∀ s t, OnThread s t 1 → exec .yield s = .next ((charged s t 1).putTask ((drawn s t 1).advance 4))

/-- R275, R276, R278–R280 and R363. What the channel instructions that open, bind, read and close a channel do. That a bind grants a far
writer all the room there is, and takes the mark of forwarding from the entries, is log entry 35; the peer's answer is log entry 17; that
`ch.stat` and `ch.bind` ignore bit 16 of their operand is log entry 28. -/
def Obligations.ChannelAccess : Prop :=
  Sys2Proof.Claims.ChannelOpens ∧ Sys2Proof.Claims.ChannelControl

/-- R263, R267, R268, R275 and R363. What pushes, pops and peeks do, at issue and when they waited, and where they fail. That bit 16 of the
channel operand does not matter to them is log entry 28, and how a page of the Hutch fails them log entry 18. -/
def Obligations.ChannelTransfers : Prop :=
  Sys2Proof.Claims.ChannelPushes ∧ Sys2Proof.Claims.ChannelPops ∧ Sys2Proof.Claims.ChannelFails

/-- R245, R252, R253, R255, R256 and R258–R261. What the matrix commands do at issue, and where they trap. That `mx.arm` on a section without
engines draws first and traps with subcode 0, and that an `mx.fmt` with a format code above 8 traps MX_FORMAT before its pitch of 0 traps
ILLEGAL_OP, are log entry 58. -/
def Obligations.MatrixIssue : Prop :=
  Sys2Proof.Claims.MatrixCommands ∧ Sys2Proof.Claims.MatrixTraps
end

