-- ==== Sys2Proof/Laws/Beat.lean ====
section
/-! SUPPORT. What a beat can do: a unit that fires by itself, or meets a fault, and then what it wrote moves on (R163); the
numbers of a task's units. -/

namespace Sys2Proof.Laws

open Sys2Proof Sys2Proof.Machine

/-- Nothing moves on where nothing waits to (R163). -/
theorem settle_of_hop1 {t : Task} (h : t.hop1 = none) (n : Nat) : t.settle n = t := by
  cases n <;> simp [Task.settle, h]

@[simp] theorem putCell_beatFault (t : Task) (c : Cell) : (t.putCell c).beatFault = t.beatFault := rfl
@[simp] theorem putAg_beatFault (t : Task) (c : Ag) : (t.putAg c).beatFault = t.beatFault := rfl
@[simp] theorem putEngine_beatFault (t : Task) (c : Engine) : (t.putEngine c).beatFault = t.beatFault := rfl

@[simp] theorem setQueue_beatFault (t : Task) (d : Dest) (l : List Item) : (t.setQueue d l).beatFault = t.beatFault := by
  cases d <;> simp only [Task.setQueue] <;> split <;> simp

/-- Items that move leave the fault of a beat as it is. -/
theorem place_beatFault {t t' : Task} {ds : List Dest} {x : Item} (h : t.place ds x = some t') : t'.beatFault = t.beatFault := by
  simp only [Task.place] at h
  split at h
  · cases h
    have : ∀ (ds : List Dest) (t : Task), (ds.foldl (fun t d => t.setQueue d (t.queue d ++ [x.canon])) t).beatFault = t.beatFault := by
      intro ds
      induction ds with
      | nil => intro t; rfl
      | cons d r ih => intro t; simp [ih]
    exact this _ _
  · cases h

theorem hop_beatFault {t t' : Task} {c n : Nat} (h : t.hop c n = some t') : t'.beatFault = t.beatFault := by
  simp only [Task.hop] at h
  split at h
  · cases h
  · simpa [Task.take] using place_beatFault h

theorem hopFar_beatFault {t t' : Task} {c n : Nat} (h : t.hopFar c n = some t') : t'.beatFault = t.beatFault := by
  simp only [Task.hopFar] at h
  split at h
  · cases h
  · split at h
    · cases h
    · simpa [Task.take] using place_beatFault h

theorem hop1_beatFault {t t' : Task} (h : t.hop1 = some t') : t'.beatFault = t.beatFault := by
  obtain ⟨p, -, hp⟩ := List.exists_of_findSome?_eq_some h
  exact hopFar_beatFault hp

theorem settle_beatFault (n : Nat) (t : Task) : (t.settle n).beatFault = t.beatFault := by
  induction n generalizing t with
  | zero => rfl
  | succ n ih =>
    simp only [Task.settle]
    split
    · rename_i h; rw [ih, hop1_beatFault h]
    · rfl

/-- A beat in which a unit fires by itself (R163). -/
theorem beat_alone {s s' : State} {t T : Task} {u : FUnit} (h1 : t.hop1 = none)
    (hw : ∃ l r, t.wants u = l :: r ∧ ∀ d ∈ l, t.slots d ≠ 0) (hf : s.fireUnit t u = .ok (s', T))
    (ho : (t.stamp T u).spareOuts u = []) (hz : (t.stamp T u).zeroHeld = []) :
    s.beat t u = .ok (s', (t.stamp T u).settle ((t.stamp T u).allDests.length * 16)) := by
  obtain ⟨l, r, hw, hs⟩ := hw
  have hz0 : (l.filter fun d => t.slots d == 0 && (t.queue d).isEmpty) = [] := by
    rw [List.filter_eq_nil_iff]; intro d hd; simp [hs d hd]
  have hfuel : t.beatFuel = (2 * t.allDests.length + 3) + 1 := rfl
  have hd : drive t.beatFuel (.unit u) s t = .ok (s', t.stamp T u) := by
    rw [hfuel]
    simp only [drive, hw, firstWay, hz0, pullAll, State.fireOwned, hf, Except.map, outsReady, ho]
    simp
  have hc : ∀ n f, pushZero f n s' (t.stamp T u) = .ok (s', t.stamp T u) := by
    intro n f; cases n <;> simp [pushZero, hz]
  simp only [State.beat, settle_of_hop1 h1, hd, State.closeBeat, hc]

/-- A beat in which a unit that fires by itself meets a fault. -/
theorem beat_fault {s : State} {t : Task} {u : FUnit} {c : Trap} {sub addr : Nat} (h1 : t.hop1 = none)
    (hw : ∃ l r, t.wants u = l :: r ∧ ∀ d ∈ l, t.slots d ≠ 0) (hf : s.fireUnit t u = .error (.fault c sub addr)) :
    s.beat t u = .error (.fault c sub addr) := by
  obtain ⟨l, r, hw, hs⟩ := hw
  have hz0 : (l.filter fun d => t.slots d == 0 && (t.queue d).isEmpty) = [] := by
    rw [List.filter_eq_nil_iff]; intro d hd; simp [hs d hd]
  have hfuel : t.beatFuel = (2 * t.allDests.length + 3) + 1 := rfl
  simp only [State.beat, settle_of_hop1 h1, hfuel, drive, hw, firstWay, hz0, pullAll, State.fireOwned, hf, Except.map]

theorem stamp_beatFault (t T : Task) (u : FUnit) : (t.stamp T u).beatFault = T.beatFault := rfl

/-- What a task finds under a number has that number. -/
theorem cell_idx {t : Task} {c : Nat} {x : Cell} (h : t.cell? c = some x) : x.idx = c := by
  have := List.find?_some h; simpa using this
theorem ag_place {t : Task} {c : Nat} {x : Ag} (h : t.ag? c = some x) : x.place = c := by
  have := List.find?_some h; simpa using this
theorem engine_k {t : Task} {c : Nat} {x : Engine} (h : t.engine? c = some x) : x.k = c := by
  have := List.find?_some h; simpa using this

/-- Cells keep their numbers. -/
theorem putCell_idx (t : Task) (y : Cell) : (t.putCell y).cells.map Cell.idx = t.cells.map Cell.idx := by
  simp only [Task.putCell, List.map_map]
  apply List.map_congr_left; intro a _; simp only [Function.comp]; split
  · rename_i h; simpa using (eq_of_beq h).symm
  · rfl

/-- Which cells there are follows from the numbers. -/
theorem cell?_isSome (t : Task) (c : Nat) : (t.cell? c).isSome = (t.cells.map Cell.idx).contains c := by
  simp only [Task.cell?]
  induction t.cells with
  | nil => rfl
  | cons a r ih =>
    simp only [List.find?_cons, List.map_cons, List.contains_cons]
    rcases h : (a.idx == c) with _ | _
    · simp [ih]; intro h2; simp [h2] at h
    · have h2 : a.idx = c := by simpa using h
      simp [h2]

theorem setQueue_idx (t : Task) (d : Dest) (l : List Item) : (t.setQueue d l).cells.map Cell.idx = t.cells.map Cell.idx := by
  cases d <;> simp only [Task.setQueue] <;> split
  · rw [putCell_idx]
  all_goals rfl

theorem takePorts_idx (t : Task) (c : Nat) (ps : List Nat) : (t.takePorts c ps).cells.map Cell.idx = t.cells.map Cell.idx := by
  unfold Task.takePorts
  induction ps generalizing t with
  | nil => rfl
  | cons n r ih => rw [List.foldl_cons, ih]; exact setQueue_idx _ _ _

/-- The step of a compute unit is one beat of it. -/
theorem cuEvent_eq {s : State} {t : Task} {c : Nat} {x : Cell} {v : BitVec 240} (ht : s.task? t.handle = some t)
    (hc : t.cell? c = some x) (hv : x.cu = some v) (k : BitVec 240 → Bool) (hk : k v = true) :
    s.cuEvent t.handle c k = .next (finish (s.runBeat t (.cu c))) := by
  simp [State.cuEvent, State.onTask, ht, hc, hv, hk]

/-- What fires in the beat of a unit that is not in fibre mode. -/
theorem fireUnit_cu {s : State} {t : Task} {c : Nat} {x : Cell} {v : BitVec 240}
    (hc : t.cell? c = some x) (hv : x.cu = some v) (hf : cuFibre v = false) :
    s.fireUnit t (.cu c) = s.cuBeat t x v := by
  simp [State.fireUnit, hc, hv, hf]

end Sys2Proof.Laws
end

