-- ==== Sys2Proof/Laws/Memory.lean ====
section
/-! SUPPORT. Memory in its canonical form: what a read gives after a write, and that every operation keeps the form. -/

namespace Sys2Proof.Machine

open Sys2Proof

/-! ### One byte -/

/-- The bound of a canonical form may fall. -/
theorem Memory.wfFrom_mono {m : Memory} {lo lo' : Nat} (h : Memory.wfFrom lo m = true) (hl : lo' ≤ lo) :
    Memory.wfFrom lo' m = true := by
  cases m with
  | nil => rfl
  | cons c r =>
    simp only [Memory.wfFrom, Bool.and_eq_true, decide_eq_true_eq] at h ⊢
    exact ⟨⟨by omega, h.1.2⟩, h.2⟩

/-- Below the first address of a canonical memory every byte reads 0. -/
theorem Memory.get_below {m : Memory} {lo a : Nat} (h : Memory.wfFrom lo m = true) (ha : a < lo) : m.get a = 0 := by
  cases m with
  | nil => rfl
  | cons c r =>
    simp only [Memory.wfFrom, Bool.and_eq_true, decide_eq_true_eq] at h
    simp only [Memory.get]
    rw [if_neg (by omega), if_pos (by omega)]

/-- A write keeps the canonical form. -/
theorem Memory.set_wfFrom {m : Memory} {lo a : Nat} {v : Byte} (h : Memory.wfFrom lo m = true) (ha : lo ≤ a) :
    Memory.wfFrom lo (m.set a v) = true := by
  induction m generalizing lo with
  | nil =>
    simp only [Memory.set]
    split <;> simp_all [Memory.wfFrom]
  | cons c r ih =>
    obtain ⟨k, b⟩ := c
    simp only [Memory.wfFrom, Bool.and_eq_true, decide_eq_true_eq] at h
    obtain ⟨⟨h1, h2⟩, h3⟩ := h
    simp only [Memory.set]
    have hn (hv : ¬v = 0) : decide (v ≠ 0) = true := decide_eq_true hv
    split
    · subst a
      split
      · exact Memory.wfFrom_mono h3 (by omega)
      · rename_i hv; simp only [Memory.wfFrom, hn hv, h3, decide_eq_true ha, Bool.and_self]
    · split
      · split
        · simp only [Memory.wfFrom, h3, decide_eq_true h1, decide_eq_true h2, Bool.and_self]
        · rename_i hl hv
          simp only [Memory.wfFrom, hn hv, h3, decide_eq_true ha, decide_eq_true h2,
            decide_eq_true (Nat.succ_le_of_lt hl), Bool.and_self]
      · simp only [Memory.wfFrom, decide_eq_true h1, decide_eq_true h2, ih h3 (by omega), Bool.and_self]

/-- A write of one byte keeps the canonical form. -/
theorem Memory.set_wf {m : Memory} {a : Nat} {v : Byte} (h : m.wf = true) : (m.set a v).wf = true :=
  Memory.set_wfFrom h (Nat.zero_le a)

/-- What reads after a write of one byte. -/
theorem Memory.get_set_from {m : Memory} {lo : Nat} (h : Memory.wfFrom lo m = true) (a c : Nat) (v : Byte) :
    (m.set a v).get c = if c = a then v else m.get c := by
  induction m generalizing lo with
  | nil =>
    simp only [Memory.set]
    split
    · subst v; simp [Memory.get]
    · simp only [Memory.get]
      split
      · rfl
      · simp
  | cons x r ih =>
    obtain ⟨k, b⟩ := x
    simp only [Memory.wfFrom, Bool.and_eq_true, decide_eq_true_eq] at h
    have low : ∀ e, e < k + 1 → Memory.get r e = 0 := fun e he => Memory.get_below h.2 he
    simp only [Memory.set]
    rcases Nat.lt_trichotomy a k with hl | hk | hg
    · rw [if_neg (by omega), if_pos hl]
      split
      · subst v
        by_cases hc : c = a
        · subst hc; simp only [Memory.get]; rw [if_neg (by omega), if_pos hl, ite_self]
        · rw [if_neg hc]
      · simp only [Memory.get]
        by_cases hc : c = a
        · rw [if_pos hc, if_pos hc]
        · rw [if_neg hc, if_neg hc]
          by_cases hca : c < a
          · rw [if_pos hca, if_neg (by omega), if_pos (by omega)]
          · rw [if_neg hca]
    · subst hk
      rw [if_pos rfl]
      split
      · subst v
        simp only [Memory.get]
        by_cases hc : c = a
        · rw [if_pos hc, low c (by omega)]
        · rw [if_neg hc, if_neg hc]
          split
          · exact low c (by omega)
          · rfl
      · simp only [Memory.get]
        by_cases hc : c = a
        · rw [if_pos hc, if_pos hc]
        · rw [if_neg hc, if_neg hc, if_neg hc]
    · rw [if_neg (by omega), if_neg (by omega)]
      simp only [Memory.get]
      by_cases hck : c = k
      · rw [if_pos hck, if_neg (by omega), if_pos hck]
      · rw [if_neg hck, if_neg hck, ih h.2]
        by_cases hlt : c < k
        · rw [if_pos hlt, if_neg (by omega), if_pos hlt]
        · rw [if_neg hlt, if_neg hlt]

/-- A byte just written reads back. -/
theorem Memory.get_set_self {m : Memory} (h : m.wf = true) (a : Nat) (v : Byte) : (m.set a v).get a = v := by
  simpa using Memory.get_set_from h a a v

/-- A write leaves every other byte as it was. -/
theorem Memory.get_set_other {m : Memory} (h : m.wf = true) {a c : Nat} (v : Byte) (hc : c ≠ a) :
    (m.set a v).get c = m.get c := by
  simpa [hc] using Memory.get_set_from h a c v

/-! ### Several bytes -/

/-- A write of several bytes keeps the canonical form. -/
theorem Memory.write_wf {m : Memory} (h : m.wf = true) (a : Nat) (l : List Byte) : (m.write a l).wf = true := by
  induction l generalizing m a with
  | nil => exact h
  | cons b r ih => exact ih (Memory.set_wf h) (a + 1)

/-- A write leaves every byte outside its range as it was. -/
theorem Memory.get_write_outside {m : Memory} (h : m.wf = true) (a : Nat) (l : List Byte) {c : Nat}
    (hc : c < a ∨ a + l.length ≤ c) : (m.write a l).get c = m.get c := by
  induction l generalizing m a with
  | nil => rfl
  | cons b r ih =>
    simp only [List.length_cons] at hc
    simp only [Memory.write]
    rw [ih (Memory.set_wf h) (a + 1) (by omega), Memory.get_set_other h b (by omega)]

/-- The bytes of a write read back. -/
theorem Memory.get_write_inside {m : Memory} (h : m.wf = true) (a : Nat) (l : List Byte) {i : Nat} (hi : i < l.length) :
    (m.write a l).get (a + i) = l[i] := by
  induction l generalizing m a i with
  | nil => simp at hi
  | cons b r ih =>
    simp only [Memory.write]
    cases i with
    | zero =>
      rw [Memory.get_write_outside (Memory.set_wf h) (a + 1) r (by omega)]
      simpa using Memory.get_set_self h a b
    | succ j =>
      have := ih (Memory.set_wf (a := a) (v := b) h) (a + 1) (by simpa using hi : j < r.length)
      simpa [Nat.add_assoc, Nat.add_comm 1] using this

/-- Applying an overlay keeps the canonical form. -/
theorem Memory.apply_wf {m : Memory} (h : m.wf = true) (o : Overlay) : (m.apply o).wf = true := by
  unfold Memory.apply
  induction o generalizing m with
  | nil => exact h
  | cons c r ih => exact ih (Memory.set_wf h)

/-! ### Overlays -/

/-- Holding a byte keeps the canonical form of an overlay. -/
theorem Overlay.set_wfFrom {m : Overlay} {lo a : Nat} {v : Byte} (h : Overlay.wfFrom lo m = true) (ha : lo ≤ a) :
    Overlay.wfFrom lo (m.set a v) = true := by
  induction m generalizing lo with
  | nil => simp only [Overlay.set, Overlay.wfFrom, decide_eq_true ha, Bool.and_self]
  | cons c r ih =>
    obtain ⟨k, b⟩ := c
    simp only [Overlay.wfFrom, Bool.and_eq_true, decide_eq_true_eq] at h
    simp only [Overlay.set]
    by_cases hk : a = k
    · subst hk; simp [Overlay.wfFrom, h.2, ha]
    · by_cases hl : a < k
      · simp [hk, hl, Overlay.wfFrom, h.2, ha]
      · simp only [hk, hl, if_false, Overlay.wfFrom, Bool.and_eq_true, decide_eq_true_eq]
        exact ⟨h.1, ih h.2 (by omega)⟩

/-- Holding a byte keeps the canonical form. -/
theorem Overlay.set_wf {m : Overlay} {a : Nat} {v : Byte} (h : m.wf = true) : (m.set a v).wf = true :=
  Overlay.set_wfFrom h (Nat.zero_le a)

/-- Holding several bytes keeps the canonical form. -/
theorem Overlay.write_wf {m : Overlay} (h : m.wf = true) (a : Nat) (l : List Byte) : (m.write a l).wf = true := by
  induction l generalizing m a with
  | nil => exact h
  | cons b r ih => exact ih (Overlay.set_wf h) (a + 1)

/-! ### Committed memory of the package -/

/-- Setting a committed byte keeps the canonical forms of the package's own and of host memory. -/
theorem State.setByte_wf {s : State} (h : s.mem.wf = true ∧ s.hostMem.wf = true) (pa : Nat) (b : Byte) :
    (s.setByte pa b).mem.wf = true ∧ (s.setByte pa b).hostMem.wf = true := by
  unfold State.setByte
  split
  · exact ⟨h.1, Overlay.set_wf h.2⟩
  · exact ⟨Memory.set_wf h.1, h.2⟩

/-- Setting committed bytes keeps the canonical forms. -/
theorem State.setBytes_wf {s : State} (h : s.mem.wf = true ∧ s.hostMem.wf = true) (l : List (Nat × Byte)) :
    (s.setBytes l).mem.wf = true ∧ (s.setBytes l).hostMem.wf = true := by
  unfold State.setBytes
  induction l generalizing s with
  | nil => exact h
  | cons c r ih => exact ih (State.setByte_wf h c.1 c.2)

/-- An access to the caches changes the tags of the RDCs and slices and the accesses that wait, nothing else but the counter
of free values. -/
theorem State.touch_frame (s : State) (d pa cls : Nat) : ∃ f r w sl,
    s.touch d pa cls = { s with fresh := f, rdc := r, cacheWaits := w, slices := sl } := by
  unfold State.touch
  split
  · exact ⟨_, _, _, _, rfl⟩
  · dsimp only
    split <;> [skip; split]
    · exact ⟨_, _, _, _, rfl⟩
    · exact ⟨_, _, _, _, rfl⟩
    · split <;> [(unfold State.rdcFill; dsimp only; split); skip] <;> exact ⟨_, _, _, _, rfl⟩

/-- The memory of the package is canonical at reset. -/
theorem State.reset_mem_wf : State.reset.mem.wf = true := rfl

end Sys2Proof.Machine
end

