-- ==== Sys2Proof/Laws/State.lean ====
section
/-! SUPPORT. One lemma per field per update: the field an update writes, and each field it leaves as it was. -/

namespace Sys2Proof.Machine

open Sys2Proof

/-! ### `State.updDie` -/

@[simp] theorem State.updDie_schedule (s : State) (d : Nat) (f : Die → Die) : (s.updDie d f).schedule = s.schedule := rfl
@[simp] theorem State.updDie_current (s : State) (d : Nat) (f : Die → Die) : (s.updDie d f).current = s.current := rfl
@[simp] theorem State.updDie_fresh (s : State) (d : Nat) (f : Die → Die) : (s.updDie d f).fresh = s.fresh := rfl
@[simp] theorem State.updDie_nextId (s : State) (d : Nat) (f : Die → Die) : (s.updDie d f).nextId = s.nextId := rfl
@[simp] theorem State.updDie_stage (s : State) (d : Nat) (f : Die → Die) : (s.updDie d f).stage = s.stage := rfl
@[simp] theorem State.updDie_fwInvalid (s : State) (d : Nat) (f : Die → Die) : (s.updDie d f).fwInvalid = s.fwInvalid := rfl
@[simp] theorem State.updDie_failDie (s : State) (d : Nat) (f : Die → Die) : (s.updDie d f).failDie = s.failDie := rfl
@[simp] theorem State.updDie_cause (s : State) (d : Nat) (f : Die → Die) : (s.updDie d f).cause = s.cause := rfl
@[simp] theorem State.updDie_restoring (s : State) (d : Nat) (f : Die → Die) : (s.updDie d f).restoring = s.restoring := rfl
@[simp] theorem State.updDie_restoreRun (s : State) (d : Nat) (f : Die → Die) : (s.updDie d f).restoreRun = s.restoreRun := rfl
@[simp] theorem State.updDie_boots (s : State) (d : Nat) (f : Die → Die) : (s.updDie d f).boots = s.boots := rfl
@[simp] theorem State.updDie_firmware (s : State) (d : Nat) (f : Die → Die) : (s.updDie d f).firmware = s.firmware := rfl
@[simp] theorem State.updDie_suspMem (s : State) (d : Nat) (f : Die → Die) : (s.updDie d f).suspMem = s.suspMem := rfl
@[simp] theorem State.updDie_descriptor (s : State) (d : Nat) (f : Die → Die) : (s.updDie d f).descriptor = s.descriptor := rfl
@[simp] theorem State.updDie_cacheWaits (s : State) (d : Nat) (f : Die → Die) : (s.updDie d f).cacheWaits = s.cacheWaits := rfl
@[simp] theorem State.updDie_sweeping (s : State) (d : Nat) (f : Die → Die) : (s.updDie d f).sweeping = s.sweeping := rfl
@[simp] theorem State.updDie_swept (s : State) (d : Nat) (f : Die → Die) : (s.updDie d f).swept = s.swept := rfl
@[simp] theorem State.updDie_map (s : State) (d : Nat) (f : Die → Die) : (s.updDie d f).map = s.map := rfl
@[simp] theorem State.updDie_cxlCache (s : State) (d : Nat) (f : Die → Die) : (s.updDie d f).cxlCache = s.cxlCache := rfl
@[simp] theorem State.updDie_hostAtomics (s : State) (d : Nat) (f : Die → Die) : (s.updDie d f).hostAtomics = s.hostAtomics := rfl
@[simp] theorem State.updDie_ualTrained (s : State) (d : Nat) (f : Die → Die) : (s.updDie d f).ualTrained = s.ualTrained := rfl
@[simp] theorem State.updDie_ualAtomics (s : State) (d : Nat) (f : Die → Die) : (s.updDie d f).ualAtomics = s.ualAtomics := rfl
@[simp] theorem State.updDie_cxlPorts (s : State) (d : Nat) (f : Die → Die) : (s.updDie d f).cxlPorts = s.cxlPorts := rfl
@[simp] theorem State.updDie_cxlPersist (s : State) (d : Nat) (f : Die → Die) : (s.updDie d f).cxlPersist = s.cxlPersist := rfl
@[simp] theorem State.updDie_mem (s : State) (d : Nat) (f : Die → Die) : (s.updDie d f).mem = s.mem := rfl
@[simp] theorem State.updDie_hostMem (s : State) (d : Nat) (f : Die → Die) : (s.updDie d f).hostMem = s.hostMem := rfl
@[simp] theorem State.updDie_scratch (s : State) (d : Nat) (f : Die → Die) : (s.updDie d f).scratch = s.scratch := rfl
@[simp] theorem State.updDie_commitSeq (s : State) (d : Nat) (f : Die → Die) : (s.updDie d f).commitSeq = s.commitSeq := rfl
@[simp] theorem State.updDie_published (s : State) (d : Nat) (f : Die → Die) : (s.updDie d f).published = s.published := rfl
@[simp] theorem State.updDie_now (s : State) (d : Nat) (f : Die → Die) : (s.updDie d f).now = s.now := rfl
@[simp] theorem State.updDie_susp (s : State) (d : Nat) (f : Die → Die) : (s.updDie d f).susp = s.susp := rfl
@[simp] theorem State.updDie_suspDesc (s : State) (d : Nat) (f : Die → Die) : (s.updDie d f).suspDesc = s.suspDesc := rfl
@[simp] theorem State.updDie_suspN (s : State) (d : Nat) (f : Die → Die) : (s.updDie d f).suspN = s.suspN := rfl
@[simp] theorem State.updDie_suspCmd (s : State) (d : Nat) (f : Die → Die) : (s.updDie d f).suspCmd = s.suspCmd := rfl
@[simp] theorem State.updDie_suspDiscard (s : State) (d : Nat) (f : Die → Die) : (s.updDie d f).suspDiscard = s.suspDiscard := rfl
@[simp] theorem State.updDie_wardrobe (s : State) (d : Nat) (f : Die → Die) : (s.updDie d f).wardrobe = s.wardrobe := rfl
@[simp] theorem State.updDie_resyncAddr (s : State) (d : Nat) (f : Die → Die) : (s.updDie d f).resyncAddr = s.resyncAddr := rfl
@[simp] theorem State.updDie_resyncBusy (s : State) (d : Nat) (f : Die → Die) : (s.updDie d f).resyncBusy = s.resyncBusy := rfl
@[simp] theorem State.updDie_attestAddr (s : State) (d : Nat) (f : Die → Die) : (s.updDie d f).attestAddr = s.attestAddr := rfl
@[simp] theorem State.updDie_pkgLimit (s : State) (d : Nat) (f : Die → Die) : (s.updDie d f).pkgLimit = s.pkgLimit := rfl
@[simp] theorem State.updDie_qtBase (s : State) (d : Nat) (f : Die → Die) : (s.updDie d f).qtBase = s.qtBase := rfl
@[simp] theorem State.updDie_qtCount (s : State) (d : Nat) (f : Die → Die) : (s.updDie d f).qtCount = s.qtCount := rfl
@[simp] theorem State.updDie_ctxBase (s : State) (d : Nat) (f : Die → Die) : (s.updDie d f).ctxBase = s.ctxBase := rfl
@[simp] theorem State.updDie_ctxCount (s : State) (d : Nat) (f : Die → Die) : (s.updDie d f).ctxCount = s.ctxCount := rfl
@[simp] theorem State.updDie_safeBase (s : State) (d : Nat) (f : Die → Die) : (s.updDie d f).safeBase = s.safeBase := rfl
@[simp] theorem State.updDie_restore (s : State) (d : Nat) (f : Die → Die) : (s.updDie d f).restore = s.restore := rfl
@[simp] theorem State.updDie_hcw (s : State) (d : Nat) (f : Die → Die) : (s.updDie d f).hcw = s.hcw := rfl
@[simp] theorem State.updDie_modified (s : State) (d : Nat) (f : Die → Die) : (s.updDie d f).modified = s.modified := rfl
@[simp] theorem State.updDie_tlb (s : State) (d : Nat) (f : Die → Die) : (s.updDie d f).tlb = s.tlb := rfl
@[simp] theorem State.updDie_tlbDrops (s : State) (d : Nat) (f : Die → Die) : (s.updDie d f).tlbDrops = s.tlbDrops := rfl
@[simp] theorem State.updDie_peerAnswers (s : State) (d : Nat) (f : Die → Die) : (s.updDie d f).peerAnswers = s.peerAnswers := rfl
@[simp] theorem State.updDie_rdc (s : State) (d : Nat) (f : Die → Die) : (s.updDie d f).rdc = s.rdc := rfl
@[simp] theorem State.updDie_slices (s : State) (d : Nat) (f : Die → Die) : (s.updDie d f).slices = s.slices := rfl
@[simp] theorem State.updDie_homing (s : State) (d : Nat) (f : Die → Die) : (s.updDie d f).homing = s.homing := rfl
@[simp] theorem State.updDie_moving (s : State) (d : Nat) (f : Die → Die) : (s.updDie d f).moving = s.moving := rfl
@[simp] theorem State.updDie_locks (s : State) (d : Nat) (f : Die → Die) : (s.updDie d f).locks = s.locks := rfl
@[simp] theorem State.updDie_channels (s : State) (d : Nat) (f : Die → Die) : (s.updDie d f).channels = s.channels := rfl
@[simp] theorem State.updDie_generations (s : State) (d : Nat) (f : Die → Die) : (s.updDie d f).generations = s.generations := rfl
@[simp] theorem State.updDie_rowOwner (s : State) (d : Nat) (f : Die → Die) : (s.updDie d f).rowOwner = s.rowOwner := rfl
@[simp] theorem State.updDie_tasks (s : State) (d : Nat) (f : Die → Die) : (s.updDie d f).tasks = s.tasks := rfl
@[simp] theorem State.updDie_saved (s : State) (d : Nat) (f : Die → Die) : (s.updDie d f).saved = s.saved := rfl
@[simp] theorem State.updDie_instances (s : State) (d : Nat) (f : Die → Die) : (s.updDie d f).instances = s.instances := rfl
@[simp] theorem State.updDie_dies (s : State) (d : Nat) (f : Die → Die) : (s.updDie d f).dies = modAt s.dies d f := rfl
@[simp] theorem State.updDie_out (s : State) (d : Nat) (f : Die → Die) : (s.updDie d f).out = s.out := rfl

/-! ### `State.updBureau` -/

@[simp] theorem State.updBureau_schedule (s : State) (d : Nat) (f : Bureau → Bureau) : (s.updBureau d f).schedule = s.schedule := rfl
@[simp] theorem State.updBureau_current (s : State) (d : Nat) (f : Bureau → Bureau) : (s.updBureau d f).current = s.current := rfl
@[simp] theorem State.updBureau_fresh (s : State) (d : Nat) (f : Bureau → Bureau) : (s.updBureau d f).fresh = s.fresh := rfl
@[simp] theorem State.updBureau_nextId (s : State) (d : Nat) (f : Bureau → Bureau) : (s.updBureau d f).nextId = s.nextId := rfl
@[simp] theorem State.updBureau_stage (s : State) (d : Nat) (f : Bureau → Bureau) : (s.updBureau d f).stage = s.stage := rfl
@[simp] theorem State.updBureau_fwInvalid (s : State) (d : Nat) (f : Bureau → Bureau) : (s.updBureau d f).fwInvalid = s.fwInvalid := rfl
@[simp] theorem State.updBureau_failDie (s : State) (d : Nat) (f : Bureau → Bureau) : (s.updBureau d f).failDie = s.failDie := rfl
@[simp] theorem State.updBureau_cause (s : State) (d : Nat) (f : Bureau → Bureau) : (s.updBureau d f).cause = s.cause := rfl
@[simp] theorem State.updBureau_restoring (s : State) (d : Nat) (f : Bureau → Bureau) : (s.updBureau d f).restoring = s.restoring := rfl
@[simp] theorem State.updBureau_restoreRun (s : State) (d : Nat) (f : Bureau → Bureau) : (s.updBureau d f).restoreRun = s.restoreRun := rfl
@[simp] theorem State.updBureau_boots (s : State) (d : Nat) (f : Bureau → Bureau) : (s.updBureau d f).boots = s.boots := rfl
@[simp] theorem State.updBureau_firmware (s : State) (d : Nat) (f : Bureau → Bureau) : (s.updBureau d f).firmware = s.firmware := rfl
@[simp] theorem State.updBureau_suspMem (s : State) (d : Nat) (f : Bureau → Bureau) : (s.updBureau d f).suspMem = s.suspMem := rfl
@[simp] theorem State.updBureau_descriptor (s : State) (d : Nat) (f : Bureau → Bureau) : (s.updBureau d f).descriptor = s.descriptor := rfl
@[simp] theorem State.updBureau_cacheWaits (s : State) (d : Nat) (f : Bureau → Bureau) : (s.updBureau d f).cacheWaits = s.cacheWaits := rfl
@[simp] theorem State.updBureau_sweeping (s : State) (d : Nat) (f : Bureau → Bureau) : (s.updBureau d f).sweeping = s.sweeping := rfl
@[simp] theorem State.updBureau_swept (s : State) (d : Nat) (f : Bureau → Bureau) : (s.updBureau d f).swept = s.swept := rfl
@[simp] theorem State.updBureau_map (s : State) (d : Nat) (f : Bureau → Bureau) : (s.updBureau d f).map = s.map := rfl
@[simp] theorem State.updBureau_cxlCache (s : State) (d : Nat) (f : Bureau → Bureau) : (s.updBureau d f).cxlCache = s.cxlCache := rfl
@[simp] theorem State.updBureau_hostAtomics (s : State) (d : Nat) (f : Bureau → Bureau) : (s.updBureau d f).hostAtomics = s.hostAtomics := rfl
@[simp] theorem State.updBureau_ualTrained (s : State) (d : Nat) (f : Bureau → Bureau) : (s.updBureau d f).ualTrained = s.ualTrained := rfl
@[simp] theorem State.updBureau_ualAtomics (s : State) (d : Nat) (f : Bureau → Bureau) : (s.updBureau d f).ualAtomics = s.ualAtomics := rfl
@[simp] theorem State.updBureau_cxlPorts (s : State) (d : Nat) (f : Bureau → Bureau) : (s.updBureau d f).cxlPorts = s.cxlPorts := rfl
@[simp] theorem State.updBureau_cxlPersist (s : State) (d : Nat) (f : Bureau → Bureau) : (s.updBureau d f).cxlPersist = s.cxlPersist := rfl
@[simp] theorem State.updBureau_mem (s : State) (d : Nat) (f : Bureau → Bureau) : (s.updBureau d f).mem = s.mem := rfl
@[simp] theorem State.updBureau_hostMem (s : State) (d : Nat) (f : Bureau → Bureau) : (s.updBureau d f).hostMem = s.hostMem := rfl
@[simp] theorem State.updBureau_scratch (s : State) (d : Nat) (f : Bureau → Bureau) : (s.updBureau d f).scratch = s.scratch := rfl
@[simp] theorem State.updBureau_commitSeq (s : State) (d : Nat) (f : Bureau → Bureau) : (s.updBureau d f).commitSeq = s.commitSeq := rfl
@[simp] theorem State.updBureau_published (s : State) (d : Nat) (f : Bureau → Bureau) : (s.updBureau d f).published = s.published := rfl
@[simp] theorem State.updBureau_now (s : State) (d : Nat) (f : Bureau → Bureau) : (s.updBureau d f).now = s.now := rfl
@[simp] theorem State.updBureau_susp (s : State) (d : Nat) (f : Bureau → Bureau) : (s.updBureau d f).susp = s.susp := rfl
@[simp] theorem State.updBureau_suspDesc (s : State) (d : Nat) (f : Bureau → Bureau) : (s.updBureau d f).suspDesc = s.suspDesc := rfl
@[simp] theorem State.updBureau_suspN (s : State) (d : Nat) (f : Bureau → Bureau) : (s.updBureau d f).suspN = s.suspN := rfl
@[simp] theorem State.updBureau_suspCmd (s : State) (d : Nat) (f : Bureau → Bureau) : (s.updBureau d f).suspCmd = s.suspCmd := rfl
@[simp] theorem State.updBureau_suspDiscard (s : State) (d : Nat) (f : Bureau → Bureau) : (s.updBureau d f).suspDiscard = s.suspDiscard := rfl
@[simp] theorem State.updBureau_wardrobe (s : State) (d : Nat) (f : Bureau → Bureau) : (s.updBureau d f).wardrobe = s.wardrobe := rfl
@[simp] theorem State.updBureau_resyncAddr (s : State) (d : Nat) (f : Bureau → Bureau) : (s.updBureau d f).resyncAddr = s.resyncAddr := rfl
@[simp] theorem State.updBureau_resyncBusy (s : State) (d : Nat) (f : Bureau → Bureau) : (s.updBureau d f).resyncBusy = s.resyncBusy := rfl
@[simp] theorem State.updBureau_attestAddr (s : State) (d : Nat) (f : Bureau → Bureau) : (s.updBureau d f).attestAddr = s.attestAddr := rfl
@[simp] theorem State.updBureau_pkgLimit (s : State) (d : Nat) (f : Bureau → Bureau) : (s.updBureau d f).pkgLimit = s.pkgLimit := rfl
@[simp] theorem State.updBureau_qtBase (s : State) (d : Nat) (f : Bureau → Bureau) : (s.updBureau d f).qtBase = s.qtBase := rfl
@[simp] theorem State.updBureau_qtCount (s : State) (d : Nat) (f : Bureau → Bureau) : (s.updBureau d f).qtCount = s.qtCount := rfl
@[simp] theorem State.updBureau_ctxBase (s : State) (d : Nat) (f : Bureau → Bureau) : (s.updBureau d f).ctxBase = s.ctxBase := rfl
@[simp] theorem State.updBureau_ctxCount (s : State) (d : Nat) (f : Bureau → Bureau) : (s.updBureau d f).ctxCount = s.ctxCount := rfl
@[simp] theorem State.updBureau_safeBase (s : State) (d : Nat) (f : Bureau → Bureau) : (s.updBureau d f).safeBase = s.safeBase := rfl
@[simp] theorem State.updBureau_restore (s : State) (d : Nat) (f : Bureau → Bureau) : (s.updBureau d f).restore = s.restore := rfl
@[simp] theorem State.updBureau_hcw (s : State) (d : Nat) (f : Bureau → Bureau) : (s.updBureau d f).hcw = s.hcw := rfl
@[simp] theorem State.updBureau_modified (s : State) (d : Nat) (f : Bureau → Bureau) : (s.updBureau d f).modified = s.modified := rfl
@[simp] theorem State.updBureau_tlb (s : State) (d : Nat) (f : Bureau → Bureau) : (s.updBureau d f).tlb = s.tlb := rfl
@[simp] theorem State.updBureau_tlbDrops (s : State) (d : Nat) (f : Bureau → Bureau) : (s.updBureau d f).tlbDrops = s.tlbDrops := rfl
@[simp] theorem State.updBureau_peerAnswers (s : State) (d : Nat) (f : Bureau → Bureau) : (s.updBureau d f).peerAnswers = s.peerAnswers := rfl
@[simp] theorem State.updBureau_rdc (s : State) (d : Nat) (f : Bureau → Bureau) : (s.updBureau d f).rdc = s.rdc := rfl
@[simp] theorem State.updBureau_slices (s : State) (d : Nat) (f : Bureau → Bureau) : (s.updBureau d f).slices = s.slices := rfl
@[simp] theorem State.updBureau_homing (s : State) (d : Nat) (f : Bureau → Bureau) : (s.updBureau d f).homing = s.homing := rfl
@[simp] theorem State.updBureau_moving (s : State) (d : Nat) (f : Bureau → Bureau) : (s.updBureau d f).moving = s.moving := rfl
@[simp] theorem State.updBureau_locks (s : State) (d : Nat) (f : Bureau → Bureau) : (s.updBureau d f).locks = s.locks := rfl
@[simp] theorem State.updBureau_channels (s : State) (d : Nat) (f : Bureau → Bureau) : (s.updBureau d f).channels = s.channels := rfl
@[simp] theorem State.updBureau_generations (s : State) (d : Nat) (f : Bureau → Bureau) : (s.updBureau d f).generations = s.generations := rfl
@[simp] theorem State.updBureau_rowOwner (s : State) (d : Nat) (f : Bureau → Bureau) : (s.updBureau d f).rowOwner = s.rowOwner := rfl
@[simp] theorem State.updBureau_tasks (s : State) (d : Nat) (f : Bureau → Bureau) : (s.updBureau d f).tasks = s.tasks := rfl
@[simp] theorem State.updBureau_saved (s : State) (d : Nat) (f : Bureau → Bureau) : (s.updBureau d f).saved = s.saved := rfl
@[simp] theorem State.updBureau_instances (s : State) (d : Nat) (f : Bureau → Bureau) : (s.updBureau d f).instances = s.instances := rfl
@[simp] theorem State.updBureau_dies (s : State) (d : Nat) (f : Bureau → Bureau) : (s.updBureau d f).dies = modAt s.dies d fun x => { x with bureau := f x.bureau } := rfl
@[simp] theorem State.updBureau_out (s : State) (d : Nat) (f : Bureau → Bureau) : (s.updBureau d f).out = s.out := rfl

/-! ### `State.putTask` -/

@[simp] theorem State.putTask_schedule (s : State) (t : Task) : (s.putTask t).schedule = s.schedule := rfl
@[simp] theorem State.putTask_current (s : State) (t : Task) : (s.putTask t).current = s.current := rfl
@[simp] theorem State.putTask_fresh (s : State) (t : Task) : (s.putTask t).fresh = s.fresh := rfl
@[simp] theorem State.putTask_nextId (s : State) (t : Task) : (s.putTask t).nextId = s.nextId := rfl
@[simp] theorem State.putTask_stage (s : State) (t : Task) : (s.putTask t).stage = s.stage := rfl
@[simp] theorem State.putTask_fwInvalid (s : State) (t : Task) : (s.putTask t).fwInvalid = s.fwInvalid := rfl
@[simp] theorem State.putTask_failDie (s : State) (t : Task) : (s.putTask t).failDie = s.failDie := rfl
@[simp] theorem State.putTask_cause (s : State) (t : Task) : (s.putTask t).cause = s.cause := rfl
@[simp] theorem State.putTask_restoring (s : State) (t : Task) : (s.putTask t).restoring = s.restoring := rfl
@[simp] theorem State.putTask_restoreRun (s : State) (t : Task) : (s.putTask t).restoreRun = s.restoreRun := rfl
@[simp] theorem State.putTask_boots (s : State) (t : Task) : (s.putTask t).boots = s.boots := rfl
@[simp] theorem State.putTask_firmware (s : State) (t : Task) : (s.putTask t).firmware = s.firmware := rfl
@[simp] theorem State.putTask_suspMem (s : State) (t : Task) : (s.putTask t).suspMem = s.suspMem := rfl
@[simp] theorem State.putTask_descriptor (s : State) (t : Task) : (s.putTask t).descriptor = s.descriptor := rfl
@[simp] theorem State.putTask_cacheWaits (s : State) (t : Task) : (s.putTask t).cacheWaits = s.cacheWaits := rfl
@[simp] theorem State.putTask_sweeping (s : State) (t : Task) : (s.putTask t).sweeping = s.sweeping := rfl
@[simp] theorem State.putTask_swept (s : State) (t : Task) : (s.putTask t).swept = s.swept := rfl
@[simp] theorem State.putTask_map (s : State) (t : Task) : (s.putTask t).map = s.map := rfl
@[simp] theorem State.putTask_cxlCache (s : State) (t : Task) : (s.putTask t).cxlCache = s.cxlCache := rfl
@[simp] theorem State.putTask_hostAtomics (s : State) (t : Task) : (s.putTask t).hostAtomics = s.hostAtomics := rfl
@[simp] theorem State.putTask_ualTrained (s : State) (t : Task) : (s.putTask t).ualTrained = s.ualTrained := rfl
@[simp] theorem State.putTask_ualAtomics (s : State) (t : Task) : (s.putTask t).ualAtomics = s.ualAtomics := rfl
@[simp] theorem State.putTask_cxlPorts (s : State) (t : Task) : (s.putTask t).cxlPorts = s.cxlPorts := rfl
@[simp] theorem State.putTask_cxlPersist (s : State) (t : Task) : (s.putTask t).cxlPersist = s.cxlPersist := rfl
@[simp] theorem State.putTask_mem (s : State) (t : Task) : (s.putTask t).mem = s.mem := rfl
@[simp] theorem State.putTask_hostMem (s : State) (t : Task) : (s.putTask t).hostMem = s.hostMem := rfl
@[simp] theorem State.putTask_scratch (s : State) (t : Task) : (s.putTask t).scratch = s.scratch := rfl
@[simp] theorem State.putTask_commitSeq (s : State) (t : Task) : (s.putTask t).commitSeq = s.commitSeq := rfl
@[simp] theorem State.putTask_published (s : State) (t : Task) : (s.putTask t).published = s.published := rfl
@[simp] theorem State.putTask_now (s : State) (t : Task) : (s.putTask t).now = s.now := rfl
@[simp] theorem State.putTask_susp (s : State) (t : Task) : (s.putTask t).susp = s.susp := rfl
@[simp] theorem State.putTask_suspDesc (s : State) (t : Task) : (s.putTask t).suspDesc = s.suspDesc := rfl
@[simp] theorem State.putTask_suspN (s : State) (t : Task) : (s.putTask t).suspN = s.suspN := rfl
@[simp] theorem State.putTask_suspCmd (s : State) (t : Task) : (s.putTask t).suspCmd = s.suspCmd := rfl
@[simp] theorem State.putTask_suspDiscard (s : State) (t : Task) : (s.putTask t).suspDiscard = s.suspDiscard := rfl
@[simp] theorem State.putTask_wardrobe (s : State) (t : Task) : (s.putTask t).wardrobe = s.wardrobe := rfl
@[simp] theorem State.putTask_resyncAddr (s : State) (t : Task) : (s.putTask t).resyncAddr = s.resyncAddr := rfl
@[simp] theorem State.putTask_resyncBusy (s : State) (t : Task) : (s.putTask t).resyncBusy = s.resyncBusy := rfl
@[simp] theorem State.putTask_attestAddr (s : State) (t : Task) : (s.putTask t).attestAddr = s.attestAddr := rfl
@[simp] theorem State.putTask_pkgLimit (s : State) (t : Task) : (s.putTask t).pkgLimit = s.pkgLimit := rfl
@[simp] theorem State.putTask_qtBase (s : State) (t : Task) : (s.putTask t).qtBase = s.qtBase := rfl
@[simp] theorem State.putTask_qtCount (s : State) (t : Task) : (s.putTask t).qtCount = s.qtCount := rfl
@[simp] theorem State.putTask_ctxBase (s : State) (t : Task) : (s.putTask t).ctxBase = s.ctxBase := rfl
@[simp] theorem State.putTask_ctxCount (s : State) (t : Task) : (s.putTask t).ctxCount = s.ctxCount := rfl
@[simp] theorem State.putTask_safeBase (s : State) (t : Task) : (s.putTask t).safeBase = s.safeBase := rfl
@[simp] theorem State.putTask_restore (s : State) (t : Task) : (s.putTask t).restore = s.restore := rfl
@[simp] theorem State.putTask_hcw (s : State) (t : Task) : (s.putTask t).hcw = s.hcw := rfl
@[simp] theorem State.putTask_modified (s : State) (t : Task) : (s.putTask t).modified = s.modified := rfl
@[simp] theorem State.putTask_tlb (s : State) (t : Task) : (s.putTask t).tlb = s.tlb := rfl
@[simp] theorem State.putTask_tlbDrops (s : State) (t : Task) : (s.putTask t).tlbDrops = s.tlbDrops := rfl
@[simp] theorem State.putTask_peerAnswers (s : State) (t : Task) : (s.putTask t).peerAnswers = s.peerAnswers := rfl
@[simp] theorem State.putTask_rdc (s : State) (t : Task) : (s.putTask t).rdc = s.rdc := rfl
@[simp] theorem State.putTask_slices (s : State) (t : Task) : (s.putTask t).slices = s.slices := rfl
@[simp] theorem State.putTask_homing (s : State) (t : Task) : (s.putTask t).homing = s.homing := rfl
@[simp] theorem State.putTask_moving (s : State) (t : Task) : (s.putTask t).moving = s.moving := rfl
@[simp] theorem State.putTask_locks (s : State) (t : Task) : (s.putTask t).locks = s.locks := rfl
@[simp] theorem State.putTask_channels (s : State) (t : Task) : (s.putTask t).channels = s.channels := rfl
@[simp] theorem State.putTask_generations (s : State) (t : Task) : (s.putTask t).generations = s.generations := rfl
@[simp] theorem State.putTask_rowOwner (s : State) (t : Task) : (s.putTask t).rowOwner = s.rowOwner := rfl
@[simp] theorem State.putTask_tasks (s : State) (t : Task) : (s.putTask t).tasks = s.tasks.map fun u => if u.handle == t.handle then t else u := rfl
@[simp] theorem State.putTask_saved (s : State) (t : Task) : (s.putTask t).saved = s.saved := rfl
@[simp] theorem State.putTask_instances (s : State) (t : Task) : (s.putTask t).instances = s.instances := rfl
@[simp] theorem State.putTask_dies (s : State) (t : Task) : (s.putTask t).dies = s.dies := rfl
@[simp] theorem State.putTask_out (s : State) (t : Task) : (s.putTask t).out = s.out := rfl

/-! ### `State.scratchWrite` -/

@[simp] theorem State.scratchWrite_schedule (s : State) (t : Task) (a : Nat) (l : List Byte) : (s.scratchWrite t a l).schedule = s.schedule := rfl
@[simp] theorem State.scratchWrite_current (s : State) (t : Task) (a : Nat) (l : List Byte) : (s.scratchWrite t a l).current = s.current := rfl
@[simp] theorem State.scratchWrite_fresh (s : State) (t : Task) (a : Nat) (l : List Byte) : (s.scratchWrite t a l).fresh = s.fresh := rfl
@[simp] theorem State.scratchWrite_nextId (s : State) (t : Task) (a : Nat) (l : List Byte) : (s.scratchWrite t a l).nextId = s.nextId := rfl
@[simp] theorem State.scratchWrite_stage (s : State) (t : Task) (a : Nat) (l : List Byte) : (s.scratchWrite t a l).stage = s.stage := rfl
@[simp] theorem State.scratchWrite_fwInvalid (s : State) (t : Task) (a : Nat) (l : List Byte) : (s.scratchWrite t a l).fwInvalid = s.fwInvalid := rfl
@[simp] theorem State.scratchWrite_failDie (s : State) (t : Task) (a : Nat) (l : List Byte) : (s.scratchWrite t a l).failDie = s.failDie := rfl
@[simp] theorem State.scratchWrite_cause (s : State) (t : Task) (a : Nat) (l : List Byte) : (s.scratchWrite t a l).cause = s.cause := rfl
@[simp] theorem State.scratchWrite_restoring (s : State) (t : Task) (a : Nat) (l : List Byte) : (s.scratchWrite t a l).restoring = s.restoring := rfl
@[simp] theorem State.scratchWrite_restoreRun (s : State) (t : Task) (a : Nat) (l : List Byte) : (s.scratchWrite t a l).restoreRun = s.restoreRun := rfl
@[simp] theorem State.scratchWrite_boots (s : State) (t : Task) (a : Nat) (l : List Byte) : (s.scratchWrite t a l).boots = s.boots := rfl
@[simp] theorem State.scratchWrite_firmware (s : State) (t : Task) (a : Nat) (l : List Byte) : (s.scratchWrite t a l).firmware = s.firmware := rfl
@[simp] theorem State.scratchWrite_suspMem (s : State) (t : Task) (a : Nat) (l : List Byte) : (s.scratchWrite t a l).suspMem = s.suspMem := rfl
@[simp] theorem State.scratchWrite_descriptor (s : State) (t : Task) (a : Nat) (l : List Byte) : (s.scratchWrite t a l).descriptor = s.descriptor := rfl
@[simp] theorem State.scratchWrite_cacheWaits (s : State) (t : Task) (a : Nat) (l : List Byte) : (s.scratchWrite t a l).cacheWaits = s.cacheWaits := rfl
@[simp] theorem State.scratchWrite_sweeping (s : State) (t : Task) (a : Nat) (l : List Byte) : (s.scratchWrite t a l).sweeping = s.sweeping := rfl
@[simp] theorem State.scratchWrite_swept (s : State) (t : Task) (a : Nat) (l : List Byte) : (s.scratchWrite t a l).swept = s.swept := rfl
@[simp] theorem State.scratchWrite_map (s : State) (t : Task) (a : Nat) (l : List Byte) : (s.scratchWrite t a l).map = s.map := rfl
@[simp] theorem State.scratchWrite_cxlCache (s : State) (t : Task) (a : Nat) (l : List Byte) : (s.scratchWrite t a l).cxlCache = s.cxlCache := rfl
@[simp] theorem State.scratchWrite_hostAtomics (s : State) (t : Task) (a : Nat) (l : List Byte) : (s.scratchWrite t a l).hostAtomics = s.hostAtomics := rfl
@[simp] theorem State.scratchWrite_ualTrained (s : State) (t : Task) (a : Nat) (l : List Byte) : (s.scratchWrite t a l).ualTrained = s.ualTrained := rfl
@[simp] theorem State.scratchWrite_ualAtomics (s : State) (t : Task) (a : Nat) (l : List Byte) : (s.scratchWrite t a l).ualAtomics = s.ualAtomics := rfl
@[simp] theorem State.scratchWrite_cxlPorts (s : State) (t : Task) (a : Nat) (l : List Byte) : (s.scratchWrite t a l).cxlPorts = s.cxlPorts := rfl
@[simp] theorem State.scratchWrite_cxlPersist (s : State) (t : Task) (a : Nat) (l : List Byte) : (s.scratchWrite t a l).cxlPersist = s.cxlPersist := rfl
@[simp] theorem State.scratchWrite_mem (s : State) (t : Task) (a : Nat) (l : List Byte) : (s.scratchWrite t a l).mem = s.mem := rfl
@[simp] theorem State.scratchWrite_hostMem (s : State) (t : Task) (a : Nat) (l : List Byte) : (s.scratchWrite t a l).hostMem = s.hostMem := rfl
@[simp] theorem State.scratchWrite_scratch (s : State) (t : Task) (a : Nat) (l : List Byte) : (s.scratchWrite t a l).scratch = s.scratch.write (t.scratchAt (a / 2 ^ 17) (a % 2 ^ 17)) l := rfl
@[simp] theorem State.scratchWrite_commitSeq (s : State) (t : Task) (a : Nat) (l : List Byte) : (s.scratchWrite t a l).commitSeq = s.commitSeq := rfl
@[simp] theorem State.scratchWrite_published (s : State) (t : Task) (a : Nat) (l : List Byte) : (s.scratchWrite t a l).published = s.published := rfl
@[simp] theorem State.scratchWrite_now (s : State) (t : Task) (a : Nat) (l : List Byte) : (s.scratchWrite t a l).now = s.now := rfl
@[simp] theorem State.scratchWrite_susp (s : State) (t : Task) (a : Nat) (l : List Byte) : (s.scratchWrite t a l).susp = s.susp := rfl
@[simp] theorem State.scratchWrite_suspDesc (s : State) (t : Task) (a : Nat) (l : List Byte) : (s.scratchWrite t a l).suspDesc = s.suspDesc := rfl
@[simp] theorem State.scratchWrite_suspN (s : State) (t : Task) (a : Nat) (l : List Byte) : (s.scratchWrite t a l).suspN = s.suspN := rfl
@[simp] theorem State.scratchWrite_suspCmd (s : State) (t : Task) (a : Nat) (l : List Byte) : (s.scratchWrite t a l).suspCmd = s.suspCmd := rfl
@[simp] theorem State.scratchWrite_suspDiscard (s : State) (t : Task) (a : Nat) (l : List Byte) : (s.scratchWrite t a l).suspDiscard = s.suspDiscard := rfl
@[simp] theorem State.scratchWrite_wardrobe (s : State) (t : Task) (a : Nat) (l : List Byte) : (s.scratchWrite t a l).wardrobe = s.wardrobe := rfl
@[simp] theorem State.scratchWrite_resyncAddr (s : State) (t : Task) (a : Nat) (l : List Byte) : (s.scratchWrite t a l).resyncAddr = s.resyncAddr := rfl
@[simp] theorem State.scratchWrite_resyncBusy (s : State) (t : Task) (a : Nat) (l : List Byte) : (s.scratchWrite t a l).resyncBusy = s.resyncBusy := rfl
@[simp] theorem State.scratchWrite_attestAddr (s : State) (t : Task) (a : Nat) (l : List Byte) : (s.scratchWrite t a l).attestAddr = s.attestAddr := rfl
@[simp] theorem State.scratchWrite_pkgLimit (s : State) (t : Task) (a : Nat) (l : List Byte) : (s.scratchWrite t a l).pkgLimit = s.pkgLimit := rfl
@[simp] theorem State.scratchWrite_qtBase (s : State) (t : Task) (a : Nat) (l : List Byte) : (s.scratchWrite t a l).qtBase = s.qtBase := rfl
@[simp] theorem State.scratchWrite_qtCount (s : State) (t : Task) (a : Nat) (l : List Byte) : (s.scratchWrite t a l).qtCount = s.qtCount := rfl
@[simp] theorem State.scratchWrite_ctxBase (s : State) (t : Task) (a : Nat) (l : List Byte) : (s.scratchWrite t a l).ctxBase = s.ctxBase := rfl
@[simp] theorem State.scratchWrite_ctxCount (s : State) (t : Task) (a : Nat) (l : List Byte) : (s.scratchWrite t a l).ctxCount = s.ctxCount := rfl
@[simp] theorem State.scratchWrite_safeBase (s : State) (t : Task) (a : Nat) (l : List Byte) : (s.scratchWrite t a l).safeBase = s.safeBase := rfl
@[simp] theorem State.scratchWrite_restore (s : State) (t : Task) (a : Nat) (l : List Byte) : (s.scratchWrite t a l).restore = s.restore := rfl
@[simp] theorem State.scratchWrite_hcw (s : State) (t : Task) (a : Nat) (l : List Byte) : (s.scratchWrite t a l).hcw = s.hcw := rfl
@[simp] theorem State.scratchWrite_modified (s : State) (t : Task) (a : Nat) (l : List Byte) : (s.scratchWrite t a l).modified = s.modified := rfl
@[simp] theorem State.scratchWrite_tlb (s : State) (t : Task) (a : Nat) (l : List Byte) : (s.scratchWrite t a l).tlb = s.tlb := rfl
@[simp] theorem State.scratchWrite_tlbDrops (s : State) (t : Task) (a : Nat) (l : List Byte) : (s.scratchWrite t a l).tlbDrops = s.tlbDrops := rfl
@[simp] theorem State.scratchWrite_peerAnswers (s : State) (t : Task) (a : Nat) (l : List Byte) : (s.scratchWrite t a l).peerAnswers = s.peerAnswers := rfl
@[simp] theorem State.scratchWrite_rdc (s : State) (t : Task) (a : Nat) (l : List Byte) : (s.scratchWrite t a l).rdc = s.rdc := rfl
@[simp] theorem State.scratchWrite_slices (s : State) (t : Task) (a : Nat) (l : List Byte) : (s.scratchWrite t a l).slices = s.slices := rfl
@[simp] theorem State.scratchWrite_homing (s : State) (t : Task) (a : Nat) (l : List Byte) : (s.scratchWrite t a l).homing = s.homing := rfl
@[simp] theorem State.scratchWrite_moving (s : State) (t : Task) (a : Nat) (l : List Byte) : (s.scratchWrite t a l).moving = s.moving := rfl
@[simp] theorem State.scratchWrite_locks (s : State) (t : Task) (a : Nat) (l : List Byte) : (s.scratchWrite t a l).locks = s.locks := rfl
@[simp] theorem State.scratchWrite_channels (s : State) (t : Task) (a : Nat) (l : List Byte) : (s.scratchWrite t a l).channels = s.channels := rfl
@[simp] theorem State.scratchWrite_generations (s : State) (t : Task) (a : Nat) (l : List Byte) : (s.scratchWrite t a l).generations = s.generations := rfl
@[simp] theorem State.scratchWrite_rowOwner (s : State) (t : Task) (a : Nat) (l : List Byte) : (s.scratchWrite t a l).rowOwner = s.rowOwner := rfl
@[simp] theorem State.scratchWrite_tasks (s : State) (t : Task) (a : Nat) (l : List Byte) : (s.scratchWrite t a l).tasks = s.tasks := rfl
@[simp] theorem State.scratchWrite_saved (s : State) (t : Task) (a : Nat) (l : List Byte) : (s.scratchWrite t a l).saved = s.saved := rfl
@[simp] theorem State.scratchWrite_instances (s : State) (t : Task) (a : Nat) (l : List Byte) : (s.scratchWrite t a l).instances = s.instances := rfl
@[simp] theorem State.scratchWrite_dies (s : State) (t : Task) (a : Nat) (l : List Byte) : (s.scratchWrite t a l).dies = s.dies := rfl
@[simp] theorem State.scratchWrite_out (s : State) (t : Task) (a : Nat) (l : List Byte) : (s.scratchWrite t a l).out = s.out := rfl

/-! ### `Task.setX` -/

@[simp] theorem Task.setX_handle (t : Task) (i : Reg) (v : Word) : (t.setX i v).handle = t.handle := rfl
@[simp] theorem Task.setX_crec (t : Task) (i : Reg) (v : Word) : (t.setX i v).crec = t.crec := rfl
@[simp] theorem Task.setX_die (t : Task) (i : Reg) (v : Word) : (t.setX i v).die = t.die := rfl
@[simp] theorem Task.setX_members (t : Task) (i : Reg) (v : Word) : (t.setX i v).members = t.members := rfl
@[simp] theorem Task.setX_ready (t : Task) (i : Reg) (v : Word) : (t.setX i v).ready = t.ready := rfl
@[simp] theorem Task.setX_rerun (t : Task) (i : Reg) (v : Word) : (t.setX i v).rerun = t.rerun := rfl
@[simp] theorem Task.setX_origin (t : Task) (i : Reg) (v : Word) : (t.setX i v).origin = t.origin := rfl
@[simp] theorem Task.setX_hint (t : Task) (i : Reg) (v : Word) : (t.setX i v).hint = t.hint := rfl
@[simp] theorem Task.setX_irrevocable (t : Task) (i : Reg) (v : Word) : (t.setX i v).irrevocable = t.irrevocable := rfl
@[simp] theorem Task.setX_admitId (t : Task) (i : Reg) (v : Word) : (t.setX i v).admitId = t.admitId := rfl
@[simp] theorem Task.setX_snapNum (t : Task) (i : Reg) (v : Word) : (t.setX i v).snapNum = t.snapNum := rfl
@[simp] theorem Task.setX_snap (t : Task) (i : Reg) (v : Word) : (t.setX i v).snap = t.snap := rfl
@[simp] theorem Task.setX_snapHost (t : Task) (i : Reg) (v : Word) : (t.setX i v).snapHost = t.snapHost := rfl
@[simp] theorem Task.setX_gate (t : Task) (i : Reg) (v : Word) : (t.setX i v).gate = t.gate := rfl
@[simp] theorem Task.setX_account (t : Task) (i : Reg) (v : Word) : (t.setX i v).account = t.account := rfl
@[simp] theorem Task.setX_added (t : Task) (i : Reg) (v : Word) : (t.setX i v).added = t.added := rfl
@[simp] theorem Task.setX_cmd (t : Task) (i : Reg) (v : Word) : (t.setX i v).cmd = t.cmd := rfl
@[simp] theorem Task.setX_mark (t : Task) (i : Reg) (v : Word) : (t.setX i v).mark = t.mark := rfl
@[simp] theorem Task.setX_armed (t : Task) (i : Reg) (v : Word) : (t.setX i v).armed = t.armed := rfl
@[simp] theorem Task.setX_holdField (t : Task) (i : Reg) (v : Word) : (t.setX i v).holdField = t.holdField := rfl
@[simp] theorem Task.setX_holdLeft (t : Task) (i : Reg) (v : Word) : (t.setX i v).holdLeft = t.holdLeft := rfl
@[simp] theorem Task.setX_skipRefund (t : Task) (i : Reg) (v : Word) : (t.setX i v).skipRefund = t.skipRefund := rfl
@[simp] theorem Task.setX_flags (t : Task) (i : Reg) (v : Word) : (t.setX i v).flags = t.flags := rfl
@[simp] theorem Task.setX_pc (t : Task) (i : Reg) (v : Word) : (t.setX i v).pc = t.pc := rfl
@[simp] theorem Task.setX_regs (t : Task) (i : Reg) (v : Word) : (t.setX i v).regs = writeReg t.regs i v := rfl
@[simp] theorem Task.setX_wait (t : Task) (i : Reg) (v : Word) : (t.setX i v).wait = t.wait := rfl
@[simp] theorem Task.setX_paid (t : Task) (i : Reg) (v : Word) : (t.setX i v).paid = t.paid := rfl
@[simp] theorem Task.setX_committing (t : Task) (i : Reg) (v : Word) : (t.setX i v).committing = t.committing := rfl
@[simp] theorem Task.setX_exempt (t : Task) (i : Reg) (v : Word) : (t.setX i v).exempt = t.exempt := rfl
@[simp] theorem Task.setX_tl (t : Task) (i : Reg) (v : Word) : (t.setX i v).tl = t.tl := rfl
@[simp] theorem Task.setX_issued (t : Task) (i : Reg) (v : Word) : (t.setX i v).issued = t.issued := rfl
@[simp] theorem Task.setX_finished (t : Task) (i : Reg) (v : Word) : (t.setX i v).finished = t.finished := rfl
@[simp] theorem Task.setX_rwin (t : Task) (i : Reg) (v : Word) : (t.setX i v).rwin = t.rwin := rfl
@[simp] theorem Task.setX_cup (t : Task) (i : Reg) (v : Word) : (t.setX i v).cup = t.cup := rfl
@[simp] theorem Task.setX_cupLines (t : Task) (i : Reg) (v : Word) : (t.setX i v).cupLines = t.cupLines := rfl
@[simp] theorem Task.setX_framed (t : Task) (i : Reg) (v : Word) : (t.setX i v).framed = t.framed := rfl
@[simp] theorem Task.setX_fenceReqs (t : Task) (i : Reg) (v : Word) : (t.setX i v).fenceReqs = t.fenceReqs := rfl
@[simp] theorem Task.setX_sparedBy (t : Task) (i : Reg) (v : Word) : (t.setX i v).sparedBy = t.sparedBy := rfl
@[simp] theorem Task.setX_redLines (t : Task) (i : Reg) (v : Word) : (t.setX i v).redLines = t.redLines := rfl
@[simp] theorem Task.setX_share (t : Task) (i : Reg) (v : Word) : (t.setX i v).share = t.share := rfl
@[simp] theorem Task.setX_spaceWait (t : Task) (i : Reg) (v : Word) : (t.setX i v).spaceWait = t.spaceWait := rfl
@[simp] theorem Task.setX_readSet (t : Task) (i : Reg) (v : Word) : (t.setX i v).readSet = t.readSet := rfl
@[simp] theorem Task.setX_spawns (t : Task) (i : Reg) (v : Word) : (t.setX i v).spawns = t.spawns := rfl
@[simp] theorem Task.setX_joinIncs (t : Task) (i : Reg) (v : Word) : (t.setX i v).joinIncs = t.joinIncs := rfl
@[simp] theorem Task.setX_joinDecs (t : Task) (i : Reg) (v : Word) : (t.setX i v).joinDecs = t.joinDecs := rfl
@[simp] theorem Task.setX_reds (t : Task) (i : Reg) (v : Word) : (t.setX i v).reds = t.reds := rfl
@[simp] theorem Task.setX_pushes (t : Task) (i : Reg) (v : Word) : (t.setX i v).pushes = t.pushes := rfl
@[simp] theorem Task.setX_pushData (t : Task) (i : Reg) (v : Word) : (t.setX i v).pushData = t.pushData := rfl
@[simp] theorem Task.setX_closes (t : Task) (i : Reg) (v : Word) : (t.setX i v).closes = t.closes := rfl
@[simp] theorem Task.setX_lockLine (t : Task) (i : Reg) (v : Word) : (t.setX i v).lockLine = t.lockLine := rfl
@[simp] theorem Task.setX_regionOpen (t : Task) (i : Reg) (v : Word) : (t.setX i v).regionOpen = t.regionOpen := rfl
@[simp] theorem Task.setX_arOps (t : Task) (i : Reg) (v : Word) : (t.setX i v).arOps = t.arOps := rfl
@[simp] theorem Task.setX_frames (t : Task) (i : Reg) (v : Word) : (t.setX i v).frames = t.frames := rfl
@[simp] theorem Task.setX_staged (t : Task) (i : Reg) (v : Word) : (t.setX i v).staged = t.staged := rfl
@[simp] theorem Task.setX_icache (t : Task) (i : Reg) (v : Word) : (t.setX i v).icache = t.icache := rfl
@[simp] theorem Task.setX_ioLines (t : Task) (i : Reg) (v : Word) : (t.setX i v).ioLines = t.ioLines := rfl
@[simp] theorem Task.setX_loading (t : Task) (i : Reg) (v : Word) : (t.setX i v).loading = t.loading := rfl
@[simp] theorem Task.setX_loadGrant (t : Task) (i : Reg) (v : Word) : (t.setX i v).loadGrant = t.loadGrant := rfl
@[simp] theorem Task.setX_dest (t : Task) (i : Reg) (v : Word) : (t.setX i v).dest = t.dest := rfl
@[simp] theorem Task.setX_beatFault (t : Task) (i : Reg) (v : Word) : (t.setX i v).beatFault = t.beatFault := rfl
@[simp] theorem Task.setX_cells (t : Task) (i : Reg) (v : Word) : (t.setX i v).cells = t.cells := rfl
@[simp] theorem Task.setX_ags (t : Task) (i : Reg) (v : Word) : (t.setX i v).ags = t.ags := rfl
@[simp] theorem Task.setX_gos (t : Task) (i : Reg) (v : Word) : (t.setX i v).gos = t.gos := rfl
@[simp] theorem Task.setX_engines (t : Task) (i : Reg) (v : Word) : (t.setX i v).engines = t.engines := rfl
@[simp] theorem Task.setX_ops2 (t : Task) (i : Reg) (v : Word) : (t.setX i v).ops2 = t.ops2 := rfl
@[simp] theorem Task.setX_arms (t : Task) (i : Reg) (v : Word) : (t.setX i v).arms = t.arms := rfl
@[simp] theorem Task.setX_copies (t : Task) (i : Reg) (v : Word) : (t.setX i v).copies = t.copies := rfl
@[simp] theorem Task.setX_nests (t : Task) (i : Reg) (v : Word) : (t.setX i v).nests = t.nests := rfl
@[simp] theorem Task.setX_frozen (t : Task) (i : Reg) (v : Word) : (t.setX i v).frozen = t.frozen := rfl
@[simp] theorem Task.setX_portalReqs (t : Task) (i : Reg) (v : Word) : (t.setX i v).portalReqs = t.portalReqs := rfl
@[simp] theorem Task.setX_hangCount (t : Task) (i : Reg) (v : Word) : (t.setX i v).hangCount = t.hangCount := rfl

/-! ### `Task.advance` -/

@[simp] theorem Task.advance_handle (t : Task) (n : Nat) : (t.advance n).handle = t.handle := rfl
@[simp] theorem Task.advance_crec (t : Task) (n : Nat) : (t.advance n).crec = t.crec := rfl
@[simp] theorem Task.advance_die (t : Task) (n : Nat) : (t.advance n).die = t.die := rfl
@[simp] theorem Task.advance_members (t : Task) (n : Nat) : (t.advance n).members = t.members := rfl
@[simp] theorem Task.advance_ready (t : Task) (n : Nat) : (t.advance n).ready = t.ready := rfl
@[simp] theorem Task.advance_rerun (t : Task) (n : Nat) : (t.advance n).rerun = t.rerun := rfl
@[simp] theorem Task.advance_origin (t : Task) (n : Nat) : (t.advance n).origin = t.origin := rfl
@[simp] theorem Task.advance_hint (t : Task) (n : Nat) : (t.advance n).hint = t.hint := rfl
@[simp] theorem Task.advance_irrevocable (t : Task) (n : Nat) : (t.advance n).irrevocable = t.irrevocable := rfl
@[simp] theorem Task.advance_admitId (t : Task) (n : Nat) : (t.advance n).admitId = t.admitId := rfl
@[simp] theorem Task.advance_snapNum (t : Task) (n : Nat) : (t.advance n).snapNum = t.snapNum := rfl
@[simp] theorem Task.advance_snap (t : Task) (n : Nat) : (t.advance n).snap = t.snap := rfl
@[simp] theorem Task.advance_snapHost (t : Task) (n : Nat) : (t.advance n).snapHost = t.snapHost := rfl
@[simp] theorem Task.advance_gate (t : Task) (n : Nat) : (t.advance n).gate = t.gate := rfl
@[simp] theorem Task.advance_account (t : Task) (n : Nat) : (t.advance n).account = t.account := rfl
@[simp] theorem Task.advance_added (t : Task) (n : Nat) : (t.advance n).added = t.added := rfl
@[simp] theorem Task.advance_cmd (t : Task) (n : Nat) : (t.advance n).cmd = t.cmd := rfl
@[simp] theorem Task.advance_mark (t : Task) (n : Nat) : (t.advance n).mark = t.mark := rfl
@[simp] theorem Task.advance_armed (t : Task) (n : Nat) : (t.advance n).armed = t.armed := rfl
@[simp] theorem Task.advance_holdField (t : Task) (n : Nat) : (t.advance n).holdField = t.holdField := rfl
@[simp] theorem Task.advance_holdLeft (t : Task) (n : Nat) : (t.advance n).holdLeft = t.holdLeft := rfl
@[simp] theorem Task.advance_skipRefund (t : Task) (n : Nat) : (t.advance n).skipRefund = t.skipRefund := rfl
@[simp] theorem Task.advance_flags (t : Task) (n : Nat) : (t.advance n).flags = t.flags := rfl
@[simp] theorem Task.advance_pc (t : Task) (n : Nat) : (t.advance n).pc = t.pc + BitVec.ofNat 64 n := rfl
@[simp] theorem Task.advance_regs (t : Task) (n : Nat) : (t.advance n).regs = t.regs := rfl
@[simp] theorem Task.advance_wait (t : Task) (n : Nat) : (t.advance n).wait = none := rfl
@[simp] theorem Task.advance_paid (t : Task) (n : Nat) : (t.advance n).paid = false := rfl
@[simp] theorem Task.advance_committing (t : Task) (n : Nat) : (t.advance n).committing = t.committing := rfl
@[simp] theorem Task.advance_exempt (t : Task) (n : Nat) : (t.advance n).exempt = t.exempt := rfl
@[simp] theorem Task.advance_tl (t : Task) (n : Nat) : (t.advance n).tl = t.tl := rfl
@[simp] theorem Task.advance_issued (t : Task) (n : Nat) : (t.advance n).issued = t.issued := rfl
@[simp] theorem Task.advance_finished (t : Task) (n : Nat) : (t.advance n).finished = t.finished := rfl
@[simp] theorem Task.advance_rwin (t : Task) (n : Nat) : (t.advance n).rwin = t.rwin := rfl
@[simp] theorem Task.advance_cup (t : Task) (n : Nat) : (t.advance n).cup = t.cup := rfl
@[simp] theorem Task.advance_cupLines (t : Task) (n : Nat) : (t.advance n).cupLines = t.cupLines := rfl
@[simp] theorem Task.advance_framed (t : Task) (n : Nat) : (t.advance n).framed = t.framed := rfl
@[simp] theorem Task.advance_fenceReqs (t : Task) (n : Nat) : (t.advance n).fenceReqs = t.fenceReqs := rfl
@[simp] theorem Task.advance_sparedBy (t : Task) (n : Nat) : (t.advance n).sparedBy = t.sparedBy := rfl
@[simp] theorem Task.advance_redLines (t : Task) (n : Nat) : (t.advance n).redLines = t.redLines := rfl
@[simp] theorem Task.advance_share (t : Task) (n : Nat) : (t.advance n).share = t.share := rfl
@[simp] theorem Task.advance_spaceWait (t : Task) (n : Nat) : (t.advance n).spaceWait = t.spaceWait := rfl
@[simp] theorem Task.advance_readSet (t : Task) (n : Nat) : (t.advance n).readSet = t.readSet := rfl
@[simp] theorem Task.advance_spawns (t : Task) (n : Nat) : (t.advance n).spawns = t.spawns := rfl
@[simp] theorem Task.advance_joinIncs (t : Task) (n : Nat) : (t.advance n).joinIncs = t.joinIncs := rfl
@[simp] theorem Task.advance_joinDecs (t : Task) (n : Nat) : (t.advance n).joinDecs = t.joinDecs := rfl
@[simp] theorem Task.advance_reds (t : Task) (n : Nat) : (t.advance n).reds = t.reds := rfl
@[simp] theorem Task.advance_pushes (t : Task) (n : Nat) : (t.advance n).pushes = t.pushes := rfl
@[simp] theorem Task.advance_pushData (t : Task) (n : Nat) : (t.advance n).pushData = t.pushData := rfl
@[simp] theorem Task.advance_closes (t : Task) (n : Nat) : (t.advance n).closes = t.closes := rfl
@[simp] theorem Task.advance_lockLine (t : Task) (n : Nat) : (t.advance n).lockLine = t.lockLine := rfl
@[simp] theorem Task.advance_regionOpen (t : Task) (n : Nat) : (t.advance n).regionOpen = t.regionOpen := rfl
@[simp] theorem Task.advance_arOps (t : Task) (n : Nat) : (t.advance n).arOps = t.arOps := rfl
@[simp] theorem Task.advance_frames (t : Task) (n : Nat) : (t.advance n).frames = t.frames := rfl
@[simp] theorem Task.advance_staged (t : Task) (n : Nat) : (t.advance n).staged = t.staged := rfl
@[simp] theorem Task.advance_icache (t : Task) (n : Nat) : (t.advance n).icache = t.icache := rfl
@[simp] theorem Task.advance_ioLines (t : Task) (n : Nat) : (t.advance n).ioLines = t.ioLines := rfl
@[simp] theorem Task.advance_loading (t : Task) (n : Nat) : (t.advance n).loading = t.loading := rfl
@[simp] theorem Task.advance_loadGrant (t : Task) (n : Nat) : (t.advance n).loadGrant = t.loadGrant := rfl
@[simp] theorem Task.advance_dest (t : Task) (n : Nat) : (t.advance n).dest = t.dest := rfl
@[simp] theorem Task.advance_beatFault (t : Task) (n : Nat) : (t.advance n).beatFault = t.beatFault := rfl
@[simp] theorem Task.advance_cells (t : Task) (n : Nat) : (t.advance n).cells = t.cells := rfl
@[simp] theorem Task.advance_ags (t : Task) (n : Nat) : (t.advance n).ags = t.ags := rfl
@[simp] theorem Task.advance_gos (t : Task) (n : Nat) : (t.advance n).gos = t.gos := rfl
@[simp] theorem Task.advance_engines (t : Task) (n : Nat) : (t.advance n).engines = t.engines := rfl
@[simp] theorem Task.advance_ops2 (t : Task) (n : Nat) : (t.advance n).ops2 = t.ops2 := rfl
@[simp] theorem Task.advance_arms (t : Task) (n : Nat) : (t.advance n).arms = t.arms := rfl
@[simp] theorem Task.advance_copies (t : Task) (n : Nat) : (t.advance n).copies = t.copies := rfl
@[simp] theorem Task.advance_nests (t : Task) (n : Nat) : (t.advance n).nests = t.nests := rfl
@[simp] theorem Task.advance_frozen (t : Task) (n : Nat) : (t.advance n).frozen = t.frozen := rfl
@[simp] theorem Task.advance_portalReqs (t : Task) (n : Nat) : (t.advance n).portalReqs = t.portalReqs := rfl
@[simp] theorem Task.advance_hangCount (t : Task) (n : Nat) : (t.advance n).hangCount = t.hangCount := rfl

/-! ### `Task.block` -/

@[simp] theorem Task.block_handle (t : Task) (i : Instr) : (t.block i).handle = t.handle := rfl
@[simp] theorem Task.block_crec (t : Task) (i : Instr) : (t.block i).crec = t.crec := rfl
@[simp] theorem Task.block_die (t : Task) (i : Instr) : (t.block i).die = t.die := rfl
@[simp] theorem Task.block_members (t : Task) (i : Instr) : (t.block i).members = t.members := rfl
@[simp] theorem Task.block_ready (t : Task) (i : Instr) : (t.block i).ready = t.ready := rfl
@[simp] theorem Task.block_rerun (t : Task) (i : Instr) : (t.block i).rerun = t.rerun := rfl
@[simp] theorem Task.block_origin (t : Task) (i : Instr) : (t.block i).origin = t.origin := rfl
@[simp] theorem Task.block_hint (t : Task) (i : Instr) : (t.block i).hint = t.hint := rfl
@[simp] theorem Task.block_irrevocable (t : Task) (i : Instr) : (t.block i).irrevocable = t.irrevocable := rfl
@[simp] theorem Task.block_admitId (t : Task) (i : Instr) : (t.block i).admitId = t.admitId := rfl
@[simp] theorem Task.block_snapNum (t : Task) (i : Instr) : (t.block i).snapNum = t.snapNum := rfl
@[simp] theorem Task.block_snap (t : Task) (i : Instr) : (t.block i).snap = t.snap := rfl
@[simp] theorem Task.block_snapHost (t : Task) (i : Instr) : (t.block i).snapHost = t.snapHost := rfl
@[simp] theorem Task.block_gate (t : Task) (i : Instr) : (t.block i).gate = t.gate := rfl
@[simp] theorem Task.block_account (t : Task) (i : Instr) : (t.block i).account = t.account := rfl
@[simp] theorem Task.block_added (t : Task) (i : Instr) : (t.block i).added = t.added := rfl
@[simp] theorem Task.block_cmd (t : Task) (i : Instr) : (t.block i).cmd = t.cmd := rfl
@[simp] theorem Task.block_mark (t : Task) (i : Instr) : (t.block i).mark = t.mark := rfl
@[simp] theorem Task.block_armed (t : Task) (i : Instr) : (t.block i).armed = t.armed := rfl
@[simp] theorem Task.block_holdField (t : Task) (i : Instr) : (t.block i).holdField = t.holdField := rfl
@[simp] theorem Task.block_holdLeft (t : Task) (i : Instr) : (t.block i).holdLeft = t.holdLeft := rfl
@[simp] theorem Task.block_skipRefund (t : Task) (i : Instr) : (t.block i).skipRefund = t.skipRefund := rfl
@[simp] theorem Task.block_flags (t : Task) (i : Instr) : (t.block i).flags = t.flags := rfl
@[simp] theorem Task.block_pc (t : Task) (i : Instr) : (t.block i).pc = t.pc := rfl
@[simp] theorem Task.block_regs (t : Task) (i : Instr) : (t.block i).regs = t.regs := rfl
@[simp] theorem Task.block_wait (t : Task) (i : Instr) : (t.block i).wait = some i := rfl
@[simp] theorem Task.block_paid (t : Task) (i : Instr) : (t.block i).paid = true := rfl
@[simp] theorem Task.block_committing (t : Task) (i : Instr) : (t.block i).committing = t.committing := rfl
@[simp] theorem Task.block_exempt (t : Task) (i : Instr) : (t.block i).exempt = t.exempt := rfl
@[simp] theorem Task.block_tl (t : Task) (i : Instr) : (t.block i).tl = t.tl := rfl
@[simp] theorem Task.block_issued (t : Task) (i : Instr) : (t.block i).issued = t.issued := rfl
@[simp] theorem Task.block_finished (t : Task) (i : Instr) : (t.block i).finished = t.finished := rfl
@[simp] theorem Task.block_rwin (t : Task) (i : Instr) : (t.block i).rwin = t.rwin := rfl
@[simp] theorem Task.block_cup (t : Task) (i : Instr) : (t.block i).cup = t.cup := rfl
@[simp] theorem Task.block_cupLines (t : Task) (i : Instr) : (t.block i).cupLines = t.cupLines := rfl
@[simp] theorem Task.block_framed (t : Task) (i : Instr) : (t.block i).framed = t.framed := rfl
@[simp] theorem Task.block_fenceReqs (t : Task) (i : Instr) : (t.block i).fenceReqs = t.fenceReqs := rfl
@[simp] theorem Task.block_sparedBy (t : Task) (i : Instr) : (t.block i).sparedBy = t.sparedBy := rfl
@[simp] theorem Task.block_redLines (t : Task) (i : Instr) : (t.block i).redLines = t.redLines := rfl
@[simp] theorem Task.block_share (t : Task) (i : Instr) : (t.block i).share = t.share := rfl
@[simp] theorem Task.block_spaceWait (t : Task) (i : Instr) : (t.block i).spaceWait = t.spaceWait := rfl
@[simp] theorem Task.block_readSet (t : Task) (i : Instr) : (t.block i).readSet = t.readSet := rfl
@[simp] theorem Task.block_spawns (t : Task) (i : Instr) : (t.block i).spawns = t.spawns := rfl
@[simp] theorem Task.block_joinIncs (t : Task) (i : Instr) : (t.block i).joinIncs = t.joinIncs := rfl
@[simp] theorem Task.block_joinDecs (t : Task) (i : Instr) : (t.block i).joinDecs = t.joinDecs := rfl
@[simp] theorem Task.block_reds (t : Task) (i : Instr) : (t.block i).reds = t.reds := rfl
@[simp] theorem Task.block_pushes (t : Task) (i : Instr) : (t.block i).pushes = t.pushes := rfl
@[simp] theorem Task.block_pushData (t : Task) (i : Instr) : (t.block i).pushData = t.pushData := rfl
@[simp] theorem Task.block_closes (t : Task) (i : Instr) : (t.block i).closes = t.closes := rfl
@[simp] theorem Task.block_lockLine (t : Task) (i : Instr) : (t.block i).lockLine = t.lockLine := rfl
@[simp] theorem Task.block_regionOpen (t : Task) (i : Instr) : (t.block i).regionOpen = t.regionOpen := rfl
@[simp] theorem Task.block_arOps (t : Task) (i : Instr) : (t.block i).arOps = t.arOps := rfl
@[simp] theorem Task.block_frames (t : Task) (i : Instr) : (t.block i).frames = t.frames := rfl
@[simp] theorem Task.block_staged (t : Task) (i : Instr) : (t.block i).staged = t.staged := rfl
@[simp] theorem Task.block_icache (t : Task) (i : Instr) : (t.block i).icache = t.icache := rfl
@[simp] theorem Task.block_ioLines (t : Task) (i : Instr) : (t.block i).ioLines = t.ioLines := rfl
@[simp] theorem Task.block_loading (t : Task) (i : Instr) : (t.block i).loading = t.loading := rfl
@[simp] theorem Task.block_loadGrant (t : Task) (i : Instr) : (t.block i).loadGrant = t.loadGrant := rfl
@[simp] theorem Task.block_dest (t : Task) (i : Instr) : (t.block i).dest = t.dest := rfl
@[simp] theorem Task.block_beatFault (t : Task) (i : Instr) : (t.block i).beatFault = t.beatFault := rfl
@[simp] theorem Task.block_cells (t : Task) (i : Instr) : (t.block i).cells = t.cells := rfl
@[simp] theorem Task.block_ags (t : Task) (i : Instr) : (t.block i).ags = t.ags := rfl
@[simp] theorem Task.block_gos (t : Task) (i : Instr) : (t.block i).gos = t.gos := rfl
@[simp] theorem Task.block_engines (t : Task) (i : Instr) : (t.block i).engines = t.engines := rfl
@[simp] theorem Task.block_ops2 (t : Task) (i : Instr) : (t.block i).ops2 = t.ops2 := rfl
@[simp] theorem Task.block_arms (t : Task) (i : Instr) : (t.block i).arms = t.arms := rfl
@[simp] theorem Task.block_copies (t : Task) (i : Instr) : (t.block i).copies = t.copies := rfl
@[simp] theorem Task.block_nests (t : Task) (i : Instr) : (t.block i).nests = t.nests := rfl
@[simp] theorem Task.block_frozen (t : Task) (i : Instr) : (t.block i).frozen = t.frozen := rfl
@[simp] theorem Task.block_portalReqs (t : Task) (i : Instr) : (t.block i).portalReqs = t.portalReqs := rfl
@[simp] theorem Task.block_hangCount (t : Task) (i : Instr) : (t.block i).hangCount = t.hangCount := rfl

/-! ### `Bureau.setX` -/

@[simp] theorem Bureau.setX_pc (b : Bureau) (i : Reg) (v : Word) : (b.setX i v).pc = b.pc := rfl
@[simp] theorem Bureau.setX_regs (b : Bureau) (i : Reg) (v : Word) : (b.setX i v).regs = writeReg b.regs i v := rfl
@[simp] theorem Bureau.setX_priv (b : Bureau) (i : Reg) (v : Word) : (b.setX i v).priv = b.priv := rfl
@[simp] theorem Bureau.setX_code (b : Bureau) (i : Reg) (v : Word) : (b.setX i v).code = b.code := rfl
@[simp] theorem Bureau.setX_tpc (b : Bureau) (i : Reg) (v : Word) : (b.setX i v).tpc = b.tpc := rfl
@[simp] theorem Bureau.setX_val (b : Bureau) (i : Reg) (v : Word) : (b.setX i v).val = b.val := rfl
@[simp] theorem Bureau.setX_vec (b : Bureau) (i : Reg) (v : Word) : (b.setX i v).vec = b.vec := rfl
@[simp] theorem Bureau.setX_ie (b : Bureau) (i : Reg) (v : Word) : (b.setX i v).ie = b.ie := rfl
@[simp] theorem Bureau.setX_pie (b : Bureau) (i : Reg) (v : Word) : (b.setX i v).pie = b.pie := rfl
@[simp] theorem Bureau.setX_intrap (b : Bureau) (i : Reg) (v : Word) : (b.setX i v).intrap = b.intrap := rfl
@[simp] theorem Bureau.setX_dt (b : Bureau) (i : Reg) (v : Word) : (b.setX i v).dt = b.dt := rfl
@[simp] theorem Bureau.setX_mask (b : Bureau) (i : Reg) (v : Word) : (b.setX i v).mask = b.mask := rfl
@[simp] theorem Bureau.setX_homeWait (b : Bureau) (i : Reg) (v : Word) : (b.setX i v).homeWait = b.homeWait := rfl
@[simp] theorem Bureau.setX_pad (b : Bureau) (i : Reg) (v : Word) : (b.setX i v).pad = b.pad := rfl
@[simp] theorem Bureau.setX_waiting (b : Bureau) (i : Reg) (v : Word) : (b.setX i v).waiting = b.waiting := rfl

/-! ### `Bureau.advance` -/

@[simp] theorem Bureau.advance_pc (b : Bureau) (n : Nat) : (b.advance n).pc = b.pc + BitVec.ofNat 64 n := rfl
@[simp] theorem Bureau.advance_regs (b : Bureau) (n : Nat) : (b.advance n).regs = b.regs := rfl
@[simp] theorem Bureau.advance_priv (b : Bureau) (n : Nat) : (b.advance n).priv = b.priv := rfl
@[simp] theorem Bureau.advance_code (b : Bureau) (n : Nat) : (b.advance n).code = b.code := rfl
@[simp] theorem Bureau.advance_tpc (b : Bureau) (n : Nat) : (b.advance n).tpc = b.tpc := rfl
@[simp] theorem Bureau.advance_val (b : Bureau) (n : Nat) : (b.advance n).val = b.val := rfl
@[simp] theorem Bureau.advance_vec (b : Bureau) (n : Nat) : (b.advance n).vec = b.vec := rfl
@[simp] theorem Bureau.advance_ie (b : Bureau) (n : Nat) : (b.advance n).ie = b.ie := rfl
@[simp] theorem Bureau.advance_pie (b : Bureau) (n : Nat) : (b.advance n).pie = b.pie := rfl
@[simp] theorem Bureau.advance_intrap (b : Bureau) (n : Nat) : (b.advance n).intrap = b.intrap := rfl
@[simp] theorem Bureau.advance_dt (b : Bureau) (n : Nat) : (b.advance n).dt = b.dt := rfl
@[simp] theorem Bureau.advance_mask (b : Bureau) (n : Nat) : (b.advance n).mask = b.mask := rfl
@[simp] theorem Bureau.advance_homeWait (b : Bureau) (n : Nat) : (b.advance n).homeWait = b.homeWait := rfl
@[simp] theorem Bureau.advance_pad (b : Bureau) (n : Nat) : (b.advance n).pad = b.pad := rfl
@[simp] theorem Bureau.advance_waiting (b : Bureau) (n : Nat) : (b.advance n).waiting = b.waiting := rfl

/-! ### `Bureau.enter` -/

@[simp] theorem Bureau.enter_pc (b : Bureau) (code : BitVec 8) (val : Word) (sync : Bool) : (b.enter code val sync).pc = b.vec.setWidth 64 &&& ~~~(3 : Word) := rfl
@[simp] theorem Bureau.enter_regs (b : Bureau) (code : BitVec 8) (val : Word) (sync : Bool) : (b.enter code val sync).regs = b.regs := rfl
@[simp] theorem Bureau.enter_priv (b : Bureau) (code : BitVec 8) (val : Word) (sync : Bool) : (b.enter code val sync).priv = b.priv := rfl
@[simp] theorem Bureau.enter_code (b : Bureau) (code : BitVec 8) (val : Word) (sync : Bool) : (b.enter code val sync).code = code := rfl
@[simp] theorem Bureau.enter_tpc (b : Bureau) (code : BitVec 8) (val : Word) (sync : Bool) : (b.enter code val sync).tpc = b.pc := rfl
@[simp] theorem Bureau.enter_val (b : Bureau) (code : BitVec 8) (val : Word) (sync : Bool) : (b.enter code val sync).val = val := rfl
@[simp] theorem Bureau.enter_vec (b : Bureau) (code : BitVec 8) (val : Word) (sync : Bool) : (b.enter code val sync).vec = b.vec := rfl
@[simp] theorem Bureau.enter_ie (b : Bureau) (code : BitVec 8) (val : Word) (sync : Bool) : (b.enter code val sync).ie = false := rfl
@[simp] theorem Bureau.enter_pie (b : Bureau) (code : BitVec 8) (val : Word) (sync : Bool) : (b.enter code val sync).pie = b.ie := rfl
@[simp] theorem Bureau.enter_intrap (b : Bureau) (code : BitVec 8) (val : Word) (sync : Bool) : (b.enter code val sync).intrap = true := rfl
@[simp] theorem Bureau.enter_dt (b : Bureau) (code : BitVec 8) (val : Word) (sync : Bool) : (b.enter code val sync).dt = (b.dt || (sync && b.intrap)) := rfl
@[simp] theorem Bureau.enter_mask (b : Bureau) (code : BitVec 8) (val : Word) (sync : Bool) : (b.enter code val sync).mask = b.mask := rfl
@[simp] theorem Bureau.enter_homeWait (b : Bureau) (code : BitVec 8) (val : Word) (sync : Bool) : (b.enter code val sync).homeWait = b.homeWait := rfl
@[simp] theorem Bureau.enter_pad (b : Bureau) (code : BitVec 8) (val : Word) (sync : Bool) : (b.enter code val sync).pad = b.pad := rfl
@[simp] theorem Bureau.enter_waiting (b : Bureau) (code : BitVec 8) (val : Word) (sync : Bool) : (b.enter code val sync).waiting = false := rfl

/-! ### `Bureau.eret` -/

@[simp] theorem Bureau.eret_pc (b : Bureau) : (b.eret).pc = b.tpc := rfl
@[simp] theorem Bureau.eret_regs (b : Bureau) : (b.eret).regs = b.regs := rfl
@[simp] theorem Bureau.eret_priv (b : Bureau) : (b.eret).priv = b.priv := rfl
@[simp] theorem Bureau.eret_code (b : Bureau) : (b.eret).code = b.code := rfl
@[simp] theorem Bureau.eret_tpc (b : Bureau) : (b.eret).tpc = b.tpc := rfl
@[simp] theorem Bureau.eret_val (b : Bureau) : (b.eret).val = b.val := rfl
@[simp] theorem Bureau.eret_vec (b : Bureau) : (b.eret).vec = b.vec := rfl
@[simp] theorem Bureau.eret_ie (b : Bureau) : (b.eret).ie = b.pie := rfl
@[simp] theorem Bureau.eret_pie (b : Bureau) : (b.eret).pie = b.pie := rfl
@[simp] theorem Bureau.eret_intrap (b : Bureau) : (b.eret).intrap = false := rfl
@[simp] theorem Bureau.eret_dt (b : Bureau) : (b.eret).dt = b.dt := rfl
@[simp] theorem Bureau.eret_mask (b : Bureau) : (b.eret).mask = b.mask := rfl
@[simp] theorem Bureau.eret_homeWait (b : Bureau) : (b.eret).homeWait = b.homeWait := rfl
@[simp] theorem Bureau.eret_pad (b : Bureau) : (b.eret).pad = b.pad := rfl
@[simp] theorem Bureau.eret_waiting (b : Bureau) : (b.eret).waiting = b.waiting := rfl

/-! ### Space in the Cupboard -/

@[simp] theorem Task.gotSpace_handle (t : Task) (p : PortId) : (t.gotSpace p).handle = t.handle := rfl
@[simp] theorem Task.gotSpace_crec (t : Task) (p : PortId) : (t.gotSpace p).crec = t.crec := rfl
@[simp] theorem Task.gotSpace_die (t : Task) (p : PortId) : (t.gotSpace p).die = t.die := rfl
@[simp] theorem Task.gotSpace_members (t : Task) (p : PortId) : (t.gotSpace p).members = t.members := rfl
@[simp] theorem Task.gotSpace_ready (t : Task) (p : PortId) : (t.gotSpace p).ready = t.ready := rfl
@[simp] theorem Task.gotSpace_rerun (t : Task) (p : PortId) : (t.gotSpace p).rerun = t.rerun := rfl
@[simp] theorem Task.gotSpace_origin (t : Task) (p : PortId) : (t.gotSpace p).origin = t.origin := rfl
@[simp] theorem Task.gotSpace_hint (t : Task) (p : PortId) : (t.gotSpace p).hint = t.hint := rfl
@[simp] theorem Task.gotSpace_irrevocable (t : Task) (p : PortId) : (t.gotSpace p).irrevocable = t.irrevocable := rfl
@[simp] theorem Task.gotSpace_admitId (t : Task) (p : PortId) : (t.gotSpace p).admitId = t.admitId := rfl
@[simp] theorem Task.gotSpace_snapNum (t : Task) (p : PortId) : (t.gotSpace p).snapNum = t.snapNum := rfl
@[simp] theorem Task.gotSpace_snap (t : Task) (p : PortId) : (t.gotSpace p).snap = t.snap := rfl
@[simp] theorem Task.gotSpace_snapHost (t : Task) (p : PortId) : (t.gotSpace p).snapHost = t.snapHost := rfl
@[simp] theorem Task.gotSpace_gate (t : Task) (p : PortId) : (t.gotSpace p).gate = t.gate := rfl
@[simp] theorem Task.gotSpace_account (t : Task) (p : PortId) : (t.gotSpace p).account = t.account := rfl
@[simp] theorem Task.gotSpace_added (t : Task) (p : PortId) : (t.gotSpace p).added = t.added := rfl
@[simp] theorem Task.gotSpace_cmd (t : Task) (p : PortId) : (t.gotSpace p).cmd = t.cmd := rfl
@[simp] theorem Task.gotSpace_mark (t : Task) (p : PortId) : (t.gotSpace p).mark = t.mark := rfl
@[simp] theorem Task.gotSpace_armed (t : Task) (p : PortId) : (t.gotSpace p).armed = t.armed := rfl
@[simp] theorem Task.gotSpace_holdField (t : Task) (p : PortId) : (t.gotSpace p).holdField = t.holdField := rfl
@[simp] theorem Task.gotSpace_holdLeft (t : Task) (p : PortId) : (t.gotSpace p).holdLeft = t.holdLeft := rfl
@[simp] theorem Task.gotSpace_skipRefund (t : Task) (p : PortId) : (t.gotSpace p).skipRefund = t.skipRefund := rfl
@[simp] theorem Task.gotSpace_flags (t : Task) (p : PortId) : (t.gotSpace p).flags = t.flags := rfl
@[simp] theorem Task.gotSpace_pc (t : Task) (p : PortId) : (t.gotSpace p).pc = t.pc := rfl
@[simp] theorem Task.gotSpace_icache (t : Task) (p : PortId) : (t.gotSpace p).icache = t.icache := rfl
@[simp] theorem Task.gotSpace_regs (t : Task) (p : PortId) : (t.gotSpace p).regs = t.regs := rfl
@[simp] theorem Task.gotSpace_wait (t : Task) (p : PortId) : (t.gotSpace p).wait = t.wait := rfl
@[simp] theorem Task.gotSpace_paid (t : Task) (p : PortId) : (t.gotSpace p).paid = t.paid := rfl
@[simp] theorem Task.gotSpace_committing (t : Task) (p : PortId) : (t.gotSpace p).committing = t.committing := rfl
@[simp] theorem Task.gotSpace_framed (t : Task) (p : PortId) : (t.gotSpace p).framed = t.framed := rfl
@[simp] theorem Task.gotSpace_fenceReqs (t : Task) (p : PortId) : (t.gotSpace p).fenceReqs = t.fenceReqs := rfl
@[simp] theorem Task.gotSpace_exempt (t : Task) (p : PortId) : (t.gotSpace p).exempt = t.exempt := rfl
@[simp] theorem Task.gotSpace_tl (t : Task) (p : PortId) : (t.gotSpace p).tl = t.tl := rfl
@[simp] theorem Task.gotSpace_issued (t : Task) (p : PortId) : (t.gotSpace p).issued = t.issued := rfl
@[simp] theorem Task.gotSpace_finished (t : Task) (p : PortId) : (t.gotSpace p).finished = t.finished := rfl
@[simp] theorem Task.gotSpace_rwin (t : Task) (p : PortId) : (t.gotSpace p).rwin = t.rwin := rfl
@[simp] theorem Task.gotSpace_cup (t : Task) (p : PortId) : (t.gotSpace p).cup = t.cup := rfl
@[simp] theorem Task.gotSpace_cupLines (t : Task) (p : PortId) : (t.gotSpace p).cupLines = t.cupLines := rfl
@[simp] theorem Task.gotSpace_ioLines (t : Task) (p : PortId) : (t.gotSpace p).ioLines = t.ioLines := rfl
@[simp] theorem Task.gotSpace_redLines (t : Task) (p : PortId) : (t.gotSpace p).redLines = t.redLines := rfl
@[simp] theorem Task.gotSpace_share (t : Task) (p : PortId) : (t.gotSpace p).share = t.share := rfl
@[simp] theorem Task.gotSpace_readSet (t : Task) (p : PortId) : (t.gotSpace p).readSet = t.readSet := rfl
@[simp] theorem Task.gotSpace_sparedBy (t : Task) (p : PortId) : (t.gotSpace p).sparedBy = t.sparedBy := rfl
@[simp] theorem Task.gotSpace_spawns (t : Task) (p : PortId) : (t.gotSpace p).spawns = t.spawns := rfl
@[simp] theorem Task.gotSpace_joinIncs (t : Task) (p : PortId) : (t.gotSpace p).joinIncs = t.joinIncs := rfl
@[simp] theorem Task.gotSpace_joinDecs (t : Task) (p : PortId) : (t.gotSpace p).joinDecs = t.joinDecs := rfl
@[simp] theorem Task.gotSpace_reds (t : Task) (p : PortId) : (t.gotSpace p).reds = t.reds := rfl
@[simp] theorem Task.gotSpace_pushes (t : Task) (p : PortId) : (t.gotSpace p).pushes = t.pushes := rfl
@[simp] theorem Task.gotSpace_pushData (t : Task) (p : PortId) : (t.gotSpace p).pushData = t.pushData := rfl
@[simp] theorem Task.gotSpace_closes (t : Task) (p : PortId) : (t.gotSpace p).closes = t.closes := rfl
@[simp] theorem Task.gotSpace_lockLine (t : Task) (p : PortId) : (t.gotSpace p).lockLine = t.lockLine := rfl
@[simp] theorem Task.gotSpace_regionOpen (t : Task) (p : PortId) : (t.gotSpace p).regionOpen = t.regionOpen := rfl
@[simp] theorem Task.gotSpace_arOps (t : Task) (p : PortId) : (t.gotSpace p).arOps = t.arOps := rfl
@[simp] theorem Task.gotSpace_frames (t : Task) (p : PortId) : (t.gotSpace p).frames = t.frames := rfl
@[simp] theorem Task.gotSpace_staged (t : Task) (p : PortId) : (t.gotSpace p).staged = t.staged := rfl
@[simp] theorem Task.gotSpace_loading (t : Task) (p : PortId) : (t.gotSpace p).loading = t.loading := rfl
@[simp] theorem Task.gotSpace_loadGrant (t : Task) (p : PortId) : (t.gotSpace p).loadGrant = t.loadGrant := rfl
@[simp] theorem Task.gotSpace_cells (t : Task) (p : PortId) : (t.gotSpace p).cells = t.cells := rfl
@[simp] theorem Task.gotSpace_ags (t : Task) (p : PortId) : (t.gotSpace p).ags = t.ags := rfl
@[simp] theorem Task.gotSpace_gos (t : Task) (p : PortId) : (t.gotSpace p).gos = t.gos := rfl
@[simp] theorem Task.gotSpace_engines (t : Task) (p : PortId) : (t.gotSpace p).engines = t.engines := rfl
@[simp] theorem Task.gotSpace_ops2 (t : Task) (p : PortId) : (t.gotSpace p).ops2 = t.ops2 := rfl
@[simp] theorem Task.gotSpace_dest (t : Task) (p : PortId) : (t.gotSpace p).dest = t.dest := rfl
@[simp] theorem Task.gotSpace_arms (t : Task) (p : PortId) : (t.gotSpace p).arms = t.arms := rfl
@[simp] theorem Task.gotSpace_copies (t : Task) (p : PortId) : (t.gotSpace p).copies = t.copies := rfl
@[simp] theorem Task.gotSpace_nests (t : Task) (p : PortId) : (t.gotSpace p).nests = t.nests := rfl
@[simp] theorem Task.gotSpace_frozen (t : Task) (p : PortId) : (t.gotSpace p).frozen = t.frozen := rfl
@[simp] theorem Task.gotSpace_portalReqs (t : Task) (p : PortId) : (t.gotSpace p).portalReqs = t.portalReqs := rfl
@[simp] theorem Task.gotSpace_hangCount (t : Task) (p : PortId) : (t.gotSpace p).hangCount = t.hangCount := rfl
@[simp] theorem Task.gotSpace_beatFault (t : Task) (p : PortId) : (t.gotSpace p).beatFault = t.beatFault := rfl

@[simp] theorem Task.awaitSpace_handle (t : Task) (p : PortId) (k n : Nat) : (t.awaitSpace p k n).handle = t.handle := rfl
@[simp] theorem Task.awaitSpace_crec (t : Task) (p : PortId) (k n : Nat) : (t.awaitSpace p k n).crec = t.crec := rfl
@[simp] theorem Task.awaitSpace_die (t : Task) (p : PortId) (k n : Nat) : (t.awaitSpace p k n).die = t.die := rfl
@[simp] theorem Task.awaitSpace_members (t : Task) (p : PortId) (k n : Nat) : (t.awaitSpace p k n).members = t.members := rfl
@[simp] theorem Task.awaitSpace_ready (t : Task) (p : PortId) (k n : Nat) : (t.awaitSpace p k n).ready = t.ready := rfl
@[simp] theorem Task.awaitSpace_rerun (t : Task) (p : PortId) (k n : Nat) : (t.awaitSpace p k n).rerun = t.rerun := rfl
@[simp] theorem Task.awaitSpace_origin (t : Task) (p : PortId) (k n : Nat) : (t.awaitSpace p k n).origin = t.origin := rfl
@[simp] theorem Task.awaitSpace_hint (t : Task) (p : PortId) (k n : Nat) : (t.awaitSpace p k n).hint = t.hint := rfl
@[simp] theorem Task.awaitSpace_irrevocable (t : Task) (p : PortId) (k n : Nat) : (t.awaitSpace p k n).irrevocable = t.irrevocable := rfl
@[simp] theorem Task.awaitSpace_admitId (t : Task) (p : PortId) (k n : Nat) : (t.awaitSpace p k n).admitId = t.admitId := rfl
@[simp] theorem Task.awaitSpace_snapNum (t : Task) (p : PortId) (k n : Nat) : (t.awaitSpace p k n).snapNum = t.snapNum := rfl
@[simp] theorem Task.awaitSpace_snap (t : Task) (p : PortId) (k n : Nat) : (t.awaitSpace p k n).snap = t.snap := rfl
@[simp] theorem Task.awaitSpace_snapHost (t : Task) (p : PortId) (k n : Nat) : (t.awaitSpace p k n).snapHost = t.snapHost := rfl
@[simp] theorem Task.awaitSpace_gate (t : Task) (p : PortId) (k n : Nat) : (t.awaitSpace p k n).gate = t.gate := rfl
@[simp] theorem Task.awaitSpace_account (t : Task) (p : PortId) (k n : Nat) : (t.awaitSpace p k n).account = t.account := rfl
@[simp] theorem Task.awaitSpace_added (t : Task) (p : PortId) (k n : Nat) : (t.awaitSpace p k n).added = t.added := rfl
@[simp] theorem Task.awaitSpace_cmd (t : Task) (p : PortId) (k n : Nat) : (t.awaitSpace p k n).cmd = t.cmd := rfl
@[simp] theorem Task.awaitSpace_mark (t : Task) (p : PortId) (k n : Nat) : (t.awaitSpace p k n).mark = t.mark := rfl
@[simp] theorem Task.awaitSpace_armed (t : Task) (p : PortId) (k n : Nat) : (t.awaitSpace p k n).armed = t.armed := rfl
@[simp] theorem Task.awaitSpace_holdField (t : Task) (p : PortId) (k n : Nat) : (t.awaitSpace p k n).holdField = t.holdField := rfl
@[simp] theorem Task.awaitSpace_holdLeft (t : Task) (p : PortId) (k n : Nat) : (t.awaitSpace p k n).holdLeft = t.holdLeft := rfl
@[simp] theorem Task.awaitSpace_skipRefund (t : Task) (p : PortId) (k n : Nat) : (t.awaitSpace p k n).skipRefund = t.skipRefund := rfl
@[simp] theorem Task.awaitSpace_flags (t : Task) (p : PortId) (k n : Nat) : (t.awaitSpace p k n).flags = t.flags := rfl
@[simp] theorem Task.awaitSpace_pc (t : Task) (p : PortId) (k n : Nat) : (t.awaitSpace p k n).pc = t.pc := rfl
@[simp] theorem Task.awaitSpace_icache (t : Task) (p : PortId) (k n : Nat) : (t.awaitSpace p k n).icache = t.icache := rfl
@[simp] theorem Task.awaitSpace_regs (t : Task) (p : PortId) (k n : Nat) : (t.awaitSpace p k n).regs = t.regs := rfl
@[simp] theorem Task.awaitSpace_wait (t : Task) (p : PortId) (k n : Nat) : (t.awaitSpace p k n).wait = t.wait := rfl
@[simp] theorem Task.awaitSpace_paid (t : Task) (p : PortId) (k n : Nat) : (t.awaitSpace p k n).paid = t.paid := rfl
@[simp] theorem Task.awaitSpace_committing (t : Task) (p : PortId) (k n : Nat) : (t.awaitSpace p k n).committing = t.committing := rfl
@[simp] theorem Task.awaitSpace_framed (t : Task) (p : PortId) (k n : Nat) : (t.awaitSpace p k n).framed = t.framed := rfl
@[simp] theorem Task.awaitSpace_fenceReqs (t : Task) (p : PortId) (k n : Nat) : (t.awaitSpace p k n).fenceReqs = t.fenceReqs := rfl
@[simp] theorem Task.awaitSpace_exempt (t : Task) (p : PortId) (k n : Nat) : (t.awaitSpace p k n).exempt = t.exempt := rfl
@[simp] theorem Task.awaitSpace_tl (t : Task) (p : PortId) (k n : Nat) : (t.awaitSpace p k n).tl = t.tl := rfl
@[simp] theorem Task.awaitSpace_issued (t : Task) (p : PortId) (k n : Nat) : (t.awaitSpace p k n).issued = t.issued := rfl
@[simp] theorem Task.awaitSpace_finished (t : Task) (p : PortId) (k n : Nat) : (t.awaitSpace p k n).finished = t.finished := rfl
@[simp] theorem Task.awaitSpace_rwin (t : Task) (p : PortId) (k n : Nat) : (t.awaitSpace p k n).rwin = t.rwin := rfl
@[simp] theorem Task.awaitSpace_cup (t : Task) (p : PortId) (k n : Nat) : (t.awaitSpace p k n).cup = t.cup := rfl
@[simp] theorem Task.awaitSpace_cupLines (t : Task) (p : PortId) (k n : Nat) : (t.awaitSpace p k n).cupLines = t.cupLines := rfl
@[simp] theorem Task.awaitSpace_ioLines (t : Task) (p : PortId) (k n : Nat) : (t.awaitSpace p k n).ioLines = t.ioLines := rfl
@[simp] theorem Task.awaitSpace_redLines (t : Task) (p : PortId) (k n : Nat) : (t.awaitSpace p k n).redLines = t.redLines := rfl
@[simp] theorem Task.awaitSpace_share (t : Task) (p : PortId) (k n : Nat) : (t.awaitSpace p k n).share = t.share := rfl
@[simp] theorem Task.awaitSpace_readSet (t : Task) (p : PortId) (k n : Nat) : (t.awaitSpace p k n).readSet = t.readSet := rfl
@[simp] theorem Task.awaitSpace_sparedBy (t : Task) (p : PortId) (k n : Nat) : (t.awaitSpace p k n).sparedBy = t.sparedBy := rfl
@[simp] theorem Task.awaitSpace_spawns (t : Task) (p : PortId) (k n : Nat) : (t.awaitSpace p k n).spawns = t.spawns := rfl
@[simp] theorem Task.awaitSpace_joinIncs (t : Task) (p : PortId) (k n : Nat) : (t.awaitSpace p k n).joinIncs = t.joinIncs := rfl
@[simp] theorem Task.awaitSpace_joinDecs (t : Task) (p : PortId) (k n : Nat) : (t.awaitSpace p k n).joinDecs = t.joinDecs := rfl
@[simp] theorem Task.awaitSpace_reds (t : Task) (p : PortId) (k n : Nat) : (t.awaitSpace p k n).reds = t.reds := rfl
@[simp] theorem Task.awaitSpace_pushes (t : Task) (p : PortId) (k n : Nat) : (t.awaitSpace p k n).pushes = t.pushes := rfl
@[simp] theorem Task.awaitSpace_pushData (t : Task) (p : PortId) (k n : Nat) : (t.awaitSpace p k n).pushData = t.pushData := rfl
@[simp] theorem Task.awaitSpace_closes (t : Task) (p : PortId) (k n : Nat) : (t.awaitSpace p k n).closes = t.closes := rfl
@[simp] theorem Task.awaitSpace_lockLine (t : Task) (p : PortId) (k n : Nat) : (t.awaitSpace p k n).lockLine = t.lockLine := rfl
@[simp] theorem Task.awaitSpace_regionOpen (t : Task) (p : PortId) (k n : Nat) : (t.awaitSpace p k n).regionOpen = t.regionOpen := rfl
@[simp] theorem Task.awaitSpace_arOps (t : Task) (p : PortId) (k n : Nat) : (t.awaitSpace p k n).arOps = t.arOps := rfl
@[simp] theorem Task.awaitSpace_frames (t : Task) (p : PortId) (k n : Nat) : (t.awaitSpace p k n).frames = t.frames := rfl
@[simp] theorem Task.awaitSpace_staged (t : Task) (p : PortId) (k n : Nat) : (t.awaitSpace p k n).staged = t.staged := rfl
@[simp] theorem Task.awaitSpace_loading (t : Task) (p : PortId) (k n : Nat) : (t.awaitSpace p k n).loading = t.loading := rfl
@[simp] theorem Task.awaitSpace_loadGrant (t : Task) (p : PortId) (k n : Nat) : (t.awaitSpace p k n).loadGrant = t.loadGrant := rfl
@[simp] theorem Task.awaitSpace_cells (t : Task) (p : PortId) (k n : Nat) : (t.awaitSpace p k n).cells = t.cells := rfl
@[simp] theorem Task.awaitSpace_ags (t : Task) (p : PortId) (k n : Nat) : (t.awaitSpace p k n).ags = t.ags := rfl
@[simp] theorem Task.awaitSpace_gos (t : Task) (p : PortId) (k n : Nat) : (t.awaitSpace p k n).gos = t.gos := rfl
@[simp] theorem Task.awaitSpace_engines (t : Task) (p : PortId) (k n : Nat) : (t.awaitSpace p k n).engines = t.engines := rfl
@[simp] theorem Task.awaitSpace_ops2 (t : Task) (p : PortId) (k n : Nat) : (t.awaitSpace p k n).ops2 = t.ops2 := rfl
@[simp] theorem Task.awaitSpace_dest (t : Task) (p : PortId) (k n : Nat) : (t.awaitSpace p k n).dest = t.dest := rfl
@[simp] theorem Task.awaitSpace_arms (t : Task) (p : PortId) (k n : Nat) : (t.awaitSpace p k n).arms = t.arms := rfl
@[simp] theorem Task.awaitSpace_copies (t : Task) (p : PortId) (k n : Nat) : (t.awaitSpace p k n).copies = t.copies := rfl
@[simp] theorem Task.awaitSpace_nests (t : Task) (p : PortId) (k n : Nat) : (t.awaitSpace p k n).nests = t.nests := rfl
@[simp] theorem Task.awaitSpace_frozen (t : Task) (p : PortId) (k n : Nat) : (t.awaitSpace p k n).frozen = t.frozen := rfl
@[simp] theorem Task.awaitSpace_portalReqs (t : Task) (p : PortId) (k n : Nat) : (t.awaitSpace p k n).portalReqs = t.portalReqs := rfl
@[simp] theorem Task.awaitSpace_hangCount (t : Task) (p : PortId) (k n : Nat) : (t.awaitSpace p k n).hangCount = t.hangCount := rfl
@[simp] theorem Task.awaitSpace_beatFault (t : Task) (p : PortId) (k n : Nat) : (t.awaitSpace p k n).beatFault = t.beatFault := rfl

end Sys2Proof.Machine
end

