-- ==== Sys2Proof/Laws/Ops.lean ====
section
/-! SUPPORT. What the shared operations do: registers, the agents of the package, issue, exceptions, and steps of other
agents. One lemma says everything that an operation can answer. -/

namespace Sys2Proof.Machine

open Sys2Proof

/-! ### Registers (R25) -/

@[simp] theorem readReg_zero (r : Vector Word 32) : readReg r 0 = 0 := rfl

@[simp] theorem writeReg_zero (r : Vector Word 32) (v : Word) : writeReg r 0 v = r := rfl

/-- A register other than x0 reads what was written to it. -/
theorem readReg_writeReg_self (r : Vector Word 32) {i : Reg} (h : i ≠ 0) (v : Word) : readReg (writeReg r i v) i = v := by
  unfold readReg writeReg
  rw [if_neg h, if_neg h]
  exact Vector.getElem_set_self ..

/-- A write leaves every other register as it was. -/
theorem readReg_writeReg_other (r : Vector Word 32) {i j : Reg} (h : j ≠ i) (v : Word) :
    readReg (writeReg r i v) j = readReg r j := by
  unfold readReg writeReg
  split
  · rfl
  · split
    · rfl
    · have : i.toNat ≠ j.toNat := fun e => h (BitVec.eq_of_toNat_eq e.symm)
      simp [this]

/-! ### Agents -/

/-- A changed die is the one that was there, changed. -/
theorem modAt_getElem? {α : Type} (l : List α) (d : Nat) (f : α → α) (k : Nat) :
    (modAt l d f)[k]? = if k = d then l[k]?.map f else l[k]? := by
  induction l generalizing d k with
  | nil => simp [modAt]
  | cons x r ih =>
    cases d with
    | zero => cases k <;> simp [modAt]
    | succ d => cases k <;> simp [modAt, ih]

@[simp] theorem modAt_length {α : Type} (l : List α) (d : Nat) (f : α → α) : (modAt l d f).length = l.length := by
  induction l generalizing d with
  | nil => rfl
  | cons x r ih => cases d <;> simp [modAt, ih]

/-- The dies after a change of one. -/
theorem State.die?_updDie (s : State) (d : Nat) (f : Die → Die) (k : Nat) :
    (s.updDie d f).die? k = if k = d then (s.die? k).map f else s.die? k :=
  modAt_getElem? s.dies d f k

/-- A task that is put back is found under its handle, if one was there. -/
theorem State.task?_putTask_self {s : State} {t u : Task} (h : s.task? t.handle = some u) :
    (s.putTask t).task? t.handle = some t := by
  unfold State.task? State.putTask at *
  dsimp only
  generalize s.tasks = l at h
  induction l with
  | nil => simp at h
  | cons x r ih =>
    by_cases hx : x.handle = t.handle
    · simp [hx]
    · simp only [List.map_cons, List.find?_cons, beq_eq_false_iff_ne.mpr hx, Bool.false_eq_true, if_false] at h ⊢
      exact ih h

/-- Putting one task back leaves the others as they were. -/
theorem State.task?_putTask_other {s : State} {t : Task} {h : Word} (hh : h ≠ t.handle) :
    (s.putTask t).task? h = s.task? h := by
  unfold State.task? State.putTask
  dsimp only
  induction s.tasks with
  | nil => rfl
  | cons x r ih =>
    by_cases hx : x.handle = t.handle
    · have hn : (t.handle == h) = false := beq_eq_false_iff_ne.mpr (Ne.symm hh)
      simp only [List.map_cons, List.find?_cons, hx, beq_self_eq_true, if_true, hn, ih]
    · simp only [List.map_cons, List.find?_cons, beq_eq_false_iff_ne.mpr hx, Bool.false_eq_true, if_false, ih]

/-! ### Jobs -/

/-- A step that leaves nothing to do is done. -/
@[simp] theorem finish_nil (s : State) : finish (s, []) = s := by
  unfold finish
  generalize s.fuel [] = n
  cases n <;> rfl

/-! ### Exceptions (R315, R333) -/

/-- On a Bureau an exception is trap entry. -/
@[simp] theorem State.takeTrap_bureau (s : State) (d : Nat) (c : Trap) (sub addr val : Nat) :
    s.takeTrap (.bureau d) c sub addr val =
      (s.updBureau d fun b => b.enter (BitVec.ofNat 8 c.code) (BitVec.ofNat 64 val) true, []) := rfl

/-- In a task an exception ends it FAULTED. -/
theorem State.takeTrap_thread {s : State} {h : Word} {t : Task} (ht : s.task? h = some t) (c : Trap) (sub addr val : Nat) :
    s.takeTrap (.thread h) c sub addr val = s.retire { t with gate := .stopped } .faulted c 0 0 sub addr := by
  simp only [State.takeTrap, ht]

/-! ### Issue (R46, R108, R135, R137) -/

/-- An instruction issues on a Bureau that does not wait. -/
theorem State.issueBureau_runs {s : State} {d : Nat} {x : Die} (hx : s.die? d = some x) (hw : x.bureau.waiting = false)
    (hh : x.bureau.homeWait = none) (body : State → Bureau → State × List Job) :
    s.issueBureau d body = .next (finish (body s x.bureau)) := by
  simp [State.issueBureau, hx, hw, hh]

/-- Everything that issue on a Bureau answers. -/
theorem State.issueBureau_next {s t : State} {d : Nat} {body : State → Bureau → State × List Job}
    (h : s.issueBureau d body = .next t) :
    ∃ x, s.die? d = some x ∧ ((x.bureau.waiting || x.bureau.homeWait.isSome) = true ∧ t = s ∨
      (x.bureau.waiting || x.bureau.homeWait.isSome) = false ∧ t = finish (body s x.bureau)) := by
  unfold State.issueBureau at h
  split at h
  · cases h
  · rename_i x hx
    refine ⟨x, hx, ?_⟩
    split at h <;> cases h <;> simp_all

/-- An instruction issues in a task that is RUNNING, whose thread waits for nothing and whose account covers the
draw. -/
theorem State.issueThread_runs {s : State} {t : Task} {i : Instr} {draw : Nat} {kind : CmdKind}
    {pre : Task → Option (Trap × Nat)} {units : State → Task → List (Nat × Nat)} {body : State → Task → State × List Job}
    (ht : s.task? t.handle = some t) (hr : t.ready = true) (hg : t.gate = .running) (hf : t.threadFrozen = false)
    (hw : t.wait = none) (hp : t.paid = false) (hpre : pre t = none) (ha : draw ≤ t.account) :
    s.issueThread t.handle i draw kind pre units body =
      .next (finish (body ((s.debit t draw).1.putTask { (s.debit t draw).2 with wait := none, exempt := t.exempt - 1 })
        { (s.debit t draw).2 with wait := none, exempt := t.exempt - 1 })) := by
  have he : (s.debit t draw).2.exempt = t.exempt := by
    unfold State.debit
    dsimp only
    split <;> rfl
  unfold State.issueThread
  simp only [ht, hr, hg, hf, hw, hp, hpre]
  rw [if_neg (by decide), if_neg (by simp), if_neg (by decide), if_neg (by omega), ← he]

/-- An instruction blocked in a task goes on without a draw (R135). -/
theorem State.issueThread_resumes {s : State} {t : Task} {i : Instr} {draw : Nat} {kind : CmdKind}
    {pre : Task → Option (Trap × Nat)} {units : State → Task → List (Nat × Nat)} {body : State → Task → State × List Job}
    (ht : s.task? t.handle = some t) (hr : t.ready = true) (hg : t.gate = .running) (hf : t.threadFrozen = false)
    (hw : t.wait = some i) (hp : t.paid = true) :
    s.issueThread t.handle i draw kind pre units body = .next (finish (body s t)) := by
  unfold State.issueThread
  simp [ht, hr, hg, hf, hw, hp]

/-- Everything that issue in a task answers: nothing happens, it goes on, it traps, it is refused, or it issues. -/
theorem State.issueThread_next {s s' : State} {h : Word} {i : Instr} {draw : Nat} {kind : CmdKind}
    {pre : Task → Option (Trap × Nat)} {units : State → Task → List (Nat × Nat)} {body : State → Task → State × List Job}
    (hn : s.issueThread h i draw kind pre units body = .next s') :
    ∃ t, s.task? h = some t ∧
      (s' = s ∨ (t.paid = true ∧ s' = finish (body s t)) ∨
       (∃ p, pre t = some p ∧ s' = finish (s.trapAt t p.1 p.2)) ∨
       (t.account < draw ∧ ∃ c, s' = finish (s.refuse t c)) ∨
       (draw ≤ t.account ∧ ∃ u, u = { (s.debit t draw).2 with wait := none, exempt := (s.debit t draw).2.exempt - 1 } ∧
         s' = finish (body ((s.debit t draw).1.putTask u) u))) := by
  unfold State.issueThread at hn
  split at hn
  · cases hn
  · rename_i t ht
    refine ⟨t, ht, ?_⟩
    split at hn
    · cases hn; exact .inl rfl
    · split at hn
      · cases hn; exact .inl rfl
      · split at hn
        · rename_i hp; cases hn; exact .inr (.inl ⟨hp, rfl⟩)
        · split at hn
          · rename_i tr sub hp; cases hn; exact .inr (.inr (.inl ⟨(tr, sub), hp, rfl⟩))
          · split at hn
            · rename_i ha; cases hn; exact .inr (.inr (.inr (.inl ⟨ha, _, rfl⟩)))
            · rename_i ha; cases hn; exact .inr (.inr (.inr (.inr ⟨by omega, _, rfl, rfl⟩)))

/-- A debit that no low-charge notice goes with: the account falls (R115). -/
theorem State.debit_quiet {s : State} {t : Task} {n : Nat} (h : t.armed = false) :
    s.debit t n = (s, { t with account := t.account - n, hangCount := 0 }) := by
  unfold State.debit
  simp [h]

/-! ### Steps of other agents -/

theorem State.onTask_some {s : State} {h : Word} {t : Task} (ht : s.task? h = some t) (f : State → Task → State × List Job) :
    s.onTask h f = .next (finish (f s t)) := by simp [State.onTask, ht]

theorem State.onTask_none {s : State} {h : Word} (ht : s.task? h = none) (f : State → Task → State × List Job) :
    s.onTask h f = .next s := by simp [State.onTask, ht]

theorem State.onDie_some {s : State} {d : Nat} {x : Die} (hx : s.die? d = some x) (f : State → Die → State × List Job) :
    s.onDie d f = .next (finish (f s x)) := by simp [State.onDie, hx]

theorem State.onDie_none {s : State} {d : Nat} (hx : s.die? d = none) (f : State → Die → State × List Job) :
    s.onDie d f = .next s := by simp [State.onDie, hx]

/-! ### A turn of an agent -/

/-- With nothing scheduled, the agent of the last turn moves. -/
theorem step_idle {s : State} (h : s.schedule = []) : step s = s.turn s.current := by simp [step, h]

end Sys2Proof.Machine
end

