-- ==== Sys2Proof/Laws/Charge.lean ====
section
/-! SUPPORT. What a debit does: of the task only the account, the hang monitor's count and the notice's arming change, of the
package only the channel of the notice, the log, and the caches that the notice's entry passes (R115, R201, R203, R363, R365). -/

namespace Sys2Proof.Machine

open Sys2Proof

/-- What a spilled entry does to the caches. -/
theorem State.landSpill_frame (s : State) (pa cls : Nat) : ∃ f r w sl m, s.landSpill pa cls =
    { s with fresh := f, rdc := r, cacheWaits := w, slices := sl, modified := m } := by
  unfold State.landSpill
  split
  · exact ⟨_, _, _, _, _, rfl⟩
  · unfold State.touchHome
    split
    · obtain ⟨f, r, w, sl, h⟩ := State.touch_frame { s with
        rdc := s.rdc.filter (fun r => r.2.1 != lineOf pa)
        modified := (if (s.winOf pa).isSome && !s.modified.contains (pa / 64) then [pa / 64] else []) ++ s.modified } _ pa cls
      exact ⟨f, r, w, sl, _, by rw [h]⟩
    · exact ⟨_, _, _, _, _, rfl⟩

/-- A notice changes its channel or the log; an entry that spills passes a slice. -/
theorem State.pushNotice_frame (s : State) (t : Task) (n : Nat) : ∃ c o f r w sl m, s.pushNotice t n =
    { s with channels := c, out := o, fresh := f, rdc := r, cacheWaits := w, slices := sl, modified := m } := by
  unfold State.pushNotice
  dsimp only
  split <;> [split; skip]
  · unfold State.placeEntry
    dsimp only
    split
    · obtain ⟨f, r, w, sl, m, h⟩ := State.landSpill_frame (s.putChan (Chan.place _ _ true)) _ _
      exact ⟨_, _, f, r, w, sl, m, by rw [h]; rfl⟩
    · exact ⟨_, _, _, _, _, _, _, rfl⟩
  · exact ⟨_, _, _, _, _, _, _, rfl⟩
  · exact ⟨_, _, _, _, _, _, _, rfl⟩

@[simp] theorem State.pushNotice_schedule (s : State) (t : Task) (n : Nat) : (s.pushNotice t n).schedule = s.schedule := by
  obtain ⟨_, _, _, _, _, _, _, h⟩ := s.pushNotice_frame t n; rw [h]
@[simp] theorem State.pushNotice_current (s : State) (t : Task) (n : Nat) : (s.pushNotice t n).current = s.current := by
  obtain ⟨_, _, _, _, _, _, _, h⟩ := s.pushNotice_frame t n; rw [h]
@[simp] theorem State.pushNotice_nextId (s : State) (t : Task) (n : Nat) : (s.pushNotice t n).nextId = s.nextId := by
  obtain ⟨_, _, _, _, _, _, _, h⟩ := s.pushNotice_frame t n; rw [h]
@[simp] theorem State.pushNotice_stage (s : State) (t : Task) (n : Nat) : (s.pushNotice t n).stage = s.stage := by
  obtain ⟨_, _, _, _, _, _, _, h⟩ := s.pushNotice_frame t n; rw [h]
@[simp] theorem State.pushNotice_fwInvalid (s : State) (t : Task) (n : Nat) : (s.pushNotice t n).fwInvalid = s.fwInvalid := by
  obtain ⟨_, _, _, _, _, _, _, h⟩ := s.pushNotice_frame t n; rw [h]
@[simp] theorem State.pushNotice_failDie (s : State) (t : Task) (n : Nat) : (s.pushNotice t n).failDie = s.failDie := by
  obtain ⟨_, _, _, _, _, _, _, h⟩ := s.pushNotice_frame t n; rw [h]
@[simp] theorem State.pushNotice_cause (s : State) (t : Task) (n : Nat) : (s.pushNotice t n).cause = s.cause := by
  obtain ⟨_, _, _, _, _, _, _, h⟩ := s.pushNotice_frame t n; rw [h]
@[simp] theorem State.pushNotice_restoring (s : State) (t : Task) (n : Nat) : (s.pushNotice t n).restoring = s.restoring := by
  obtain ⟨_, _, _, _, _, _, _, h⟩ := s.pushNotice_frame t n; rw [h]
@[simp] theorem State.pushNotice_restoreRun (s : State) (t : Task) (n : Nat) : (s.pushNotice t n).restoreRun = s.restoreRun := by
  obtain ⟨_, _, _, _, _, _, _, h⟩ := s.pushNotice_frame t n; rw [h]
@[simp] theorem State.pushNotice_boots (s : State) (t : Task) (n : Nat) : (s.pushNotice t n).boots = s.boots := by
  obtain ⟨_, _, _, _, _, _, _, h⟩ := s.pushNotice_frame t n; rw [h]
@[simp] theorem State.pushNotice_firmware (s : State) (t : Task) (n : Nat) : (s.pushNotice t n).firmware = s.firmware := by
  obtain ⟨_, _, _, _, _, _, _, h⟩ := s.pushNotice_frame t n; rw [h]
@[simp] theorem State.pushNotice_suspMem (s : State) (t : Task) (n : Nat) : (s.pushNotice t n).suspMem = s.suspMem := by
  obtain ⟨_, _, _, _, _, _, _, h⟩ := s.pushNotice_frame t n; rw [h]
@[simp] theorem State.pushNotice_descriptor (s : State) (t : Task) (n : Nat) : (s.pushNotice t n).descriptor = s.descriptor := by
  obtain ⟨_, _, _, _, _, _, _, h⟩ := s.pushNotice_frame t n; rw [h]
@[simp] theorem State.pushNotice_sweeping (s : State) (t : Task) (n : Nat) : (s.pushNotice t n).sweeping = s.sweeping := by
  obtain ⟨_, _, _, _, _, _, _, h⟩ := s.pushNotice_frame t n; rw [h]
@[simp] theorem State.pushNotice_swept (s : State) (t : Task) (n : Nat) : (s.pushNotice t n).swept = s.swept := by
  obtain ⟨_, _, _, _, _, _, _, h⟩ := s.pushNotice_frame t n; rw [h]
@[simp] theorem State.pushNotice_map (s : State) (t : Task) (n : Nat) : (s.pushNotice t n).map = s.map := by
  obtain ⟨_, _, _, _, _, _, _, h⟩ := s.pushNotice_frame t n; rw [h]
@[simp] theorem State.pushNotice_cxlCache (s : State) (t : Task) (n : Nat) : (s.pushNotice t n).cxlCache = s.cxlCache := by
  obtain ⟨_, _, _, _, _, _, _, h⟩ := s.pushNotice_frame t n; rw [h]
@[simp] theorem State.pushNotice_hostAtomics (s : State) (t : Task) (n : Nat) : (s.pushNotice t n).hostAtomics = s.hostAtomics := by
  obtain ⟨_, _, _, _, _, _, _, h⟩ := s.pushNotice_frame t n; rw [h]
@[simp] theorem State.pushNotice_ualTrained (s : State) (t : Task) (n : Nat) : (s.pushNotice t n).ualTrained = s.ualTrained := by
  obtain ⟨_, _, _, _, _, _, _, h⟩ := s.pushNotice_frame t n; rw [h]
@[simp] theorem State.pushNotice_ualAtomics (s : State) (t : Task) (n : Nat) : (s.pushNotice t n).ualAtomics = s.ualAtomics := by
  obtain ⟨_, _, _, _, _, _, _, h⟩ := s.pushNotice_frame t n; rw [h]
@[simp] theorem State.pushNotice_cxlPorts (s : State) (t : Task) (n : Nat) : (s.pushNotice t n).cxlPorts = s.cxlPorts := by
  obtain ⟨_, _, _, _, _, _, _, h⟩ := s.pushNotice_frame t n; rw [h]
@[simp] theorem State.pushNotice_cxlPersist (s : State) (t : Task) (n : Nat) : (s.pushNotice t n).cxlPersist = s.cxlPersist := by
  obtain ⟨_, _, _, _, _, _, _, h⟩ := s.pushNotice_frame t n; rw [h]
@[simp] theorem State.pushNotice_mem (s : State) (t : Task) (n : Nat) : (s.pushNotice t n).mem = s.mem := by
  obtain ⟨_, _, _, _, _, _, _, h⟩ := s.pushNotice_frame t n; rw [h]
@[simp] theorem State.pushNotice_hostMem (s : State) (t : Task) (n : Nat) : (s.pushNotice t n).hostMem = s.hostMem := by
  obtain ⟨_, _, _, _, _, _, _, h⟩ := s.pushNotice_frame t n; rw [h]
@[simp] theorem State.pushNotice_scratch (s : State) (t : Task) (n : Nat) : (s.pushNotice t n).scratch = s.scratch := by
  obtain ⟨_, _, _, _, _, _, _, h⟩ := s.pushNotice_frame t n; rw [h]
@[simp] theorem State.pushNotice_commitSeq (s : State) (t : Task) (n : Nat) : (s.pushNotice t n).commitSeq = s.commitSeq := by
  obtain ⟨_, _, _, _, _, _, _, h⟩ := s.pushNotice_frame t n; rw [h]
@[simp] theorem State.pushNotice_published (s : State) (t : Task) (n : Nat) : (s.pushNotice t n).published = s.published := by
  obtain ⟨_, _, _, _, _, _, _, h⟩ := s.pushNotice_frame t n; rw [h]
@[simp] theorem State.pushNotice_now (s : State) (t : Task) (n : Nat) : (s.pushNotice t n).now = s.now := by
  obtain ⟨_, _, _, _, _, _, _, h⟩ := s.pushNotice_frame t n; rw [h]
@[simp] theorem State.pushNotice_susp (s : State) (t : Task) (n : Nat) : (s.pushNotice t n).susp = s.susp := by
  obtain ⟨_, _, _, _, _, _, _, h⟩ := s.pushNotice_frame t n; rw [h]
@[simp] theorem State.pushNotice_suspDesc (s : State) (t : Task) (n : Nat) : (s.pushNotice t n).suspDesc = s.suspDesc := by
  obtain ⟨_, _, _, _, _, _, _, h⟩ := s.pushNotice_frame t n; rw [h]
@[simp] theorem State.pushNotice_suspN (s : State) (t : Task) (n : Nat) : (s.pushNotice t n).suspN = s.suspN := by
  obtain ⟨_, _, _, _, _, _, _, h⟩ := s.pushNotice_frame t n; rw [h]
@[simp] theorem State.pushNotice_suspCmd (s : State) (t : Task) (n : Nat) : (s.pushNotice t n).suspCmd = s.suspCmd := by
  obtain ⟨_, _, _, _, _, _, _, h⟩ := s.pushNotice_frame t n; rw [h]
@[simp] theorem State.pushNotice_suspDiscard (s : State) (t : Task) (n : Nat) : (s.pushNotice t n).suspDiscard = s.suspDiscard := by
  obtain ⟨_, _, _, _, _, _, _, h⟩ := s.pushNotice_frame t n; rw [h]
@[simp] theorem State.pushNotice_wardrobe (s : State) (t : Task) (n : Nat) : (s.pushNotice t n).wardrobe = s.wardrobe := by
  obtain ⟨_, _, _, _, _, _, _, h⟩ := s.pushNotice_frame t n; rw [h]
@[simp] theorem State.pushNotice_resyncAddr (s : State) (t : Task) (n : Nat) : (s.pushNotice t n).resyncAddr = s.resyncAddr := by
  obtain ⟨_, _, _, _, _, _, _, h⟩ := s.pushNotice_frame t n; rw [h]
@[simp] theorem State.pushNotice_resyncBusy (s : State) (t : Task) (n : Nat) : (s.pushNotice t n).resyncBusy = s.resyncBusy := by
  obtain ⟨_, _, _, _, _, _, _, h⟩ := s.pushNotice_frame t n; rw [h]
@[simp] theorem State.pushNotice_attestAddr (s : State) (t : Task) (n : Nat) : (s.pushNotice t n).attestAddr = s.attestAddr := by
  obtain ⟨_, _, _, _, _, _, _, h⟩ := s.pushNotice_frame t n; rw [h]
@[simp] theorem State.pushNotice_pkgLimit (s : State) (t : Task) (n : Nat) : (s.pushNotice t n).pkgLimit = s.pkgLimit := by
  obtain ⟨_, _, _, _, _, _, _, h⟩ := s.pushNotice_frame t n; rw [h]
@[simp] theorem State.pushNotice_qtBase (s : State) (t : Task) (n : Nat) : (s.pushNotice t n).qtBase = s.qtBase := by
  obtain ⟨_, _, _, _, _, _, _, h⟩ := s.pushNotice_frame t n; rw [h]
@[simp] theorem State.pushNotice_qtCount (s : State) (t : Task) (n : Nat) : (s.pushNotice t n).qtCount = s.qtCount := by
  obtain ⟨_, _, _, _, _, _, _, h⟩ := s.pushNotice_frame t n; rw [h]
@[simp] theorem State.pushNotice_ctxBase (s : State) (t : Task) (n : Nat) : (s.pushNotice t n).ctxBase = s.ctxBase := by
  obtain ⟨_, _, _, _, _, _, _, h⟩ := s.pushNotice_frame t n; rw [h]
@[simp] theorem State.pushNotice_ctxCount (s : State) (t : Task) (n : Nat) : (s.pushNotice t n).ctxCount = s.ctxCount := by
  obtain ⟨_, _, _, _, _, _, _, h⟩ := s.pushNotice_frame t n; rw [h]
@[simp] theorem State.pushNotice_safeBase (s : State) (t : Task) (n : Nat) : (s.pushNotice t n).safeBase = s.safeBase := by
  obtain ⟨_, _, _, _, _, _, _, h⟩ := s.pushNotice_frame t n; rw [h]
@[simp] theorem State.pushNotice_restore (s : State) (t : Task) (n : Nat) : (s.pushNotice t n).restore = s.restore := by
  obtain ⟨_, _, _, _, _, _, _, h⟩ := s.pushNotice_frame t n; rw [h]
@[simp] theorem State.pushNotice_hcw (s : State) (t : Task) (n : Nat) : (s.pushNotice t n).hcw = s.hcw := by
  obtain ⟨_, _, _, _, _, _, _, h⟩ := s.pushNotice_frame t n; rw [h]
@[simp] theorem State.pushNotice_tlb (s : State) (t : Task) (n : Nat) : (s.pushNotice t n).tlb = s.tlb := by
  obtain ⟨_, _, _, _, _, _, _, h⟩ := s.pushNotice_frame t n; rw [h]
@[simp] theorem State.pushNotice_tlbDrops (s : State) (t : Task) (n : Nat) : (s.pushNotice t n).tlbDrops = s.tlbDrops := by
  obtain ⟨_, _, _, _, _, _, _, h⟩ := s.pushNotice_frame t n; rw [h]
@[simp] theorem State.pushNotice_peerAnswers (s : State) (t : Task) (n : Nat) : (s.pushNotice t n).peerAnswers = s.peerAnswers := by
  obtain ⟨_, _, _, _, _, _, _, h⟩ := s.pushNotice_frame t n; rw [h]
@[simp] theorem State.pushNotice_homing (s : State) (t : Task) (n : Nat) : (s.pushNotice t n).homing = s.homing := by
  obtain ⟨_, _, _, _, _, _, _, h⟩ := s.pushNotice_frame t n; rw [h]
@[simp] theorem State.pushNotice_moving (s : State) (t : Task) (n : Nat) : (s.pushNotice t n).moving = s.moving := by
  obtain ⟨_, _, _, _, _, _, _, h⟩ := s.pushNotice_frame t n; rw [h]
@[simp] theorem State.pushNotice_locks (s : State) (t : Task) (n : Nat) : (s.pushNotice t n).locks = s.locks := by
  obtain ⟨_, _, _, _, _, _, _, h⟩ := s.pushNotice_frame t n; rw [h]
@[simp] theorem State.pushNotice_generations (s : State) (t : Task) (n : Nat) : (s.pushNotice t n).generations = s.generations := by
  obtain ⟨_, _, _, _, _, _, _, h⟩ := s.pushNotice_frame t n; rw [h]
@[simp] theorem State.pushNotice_rowOwner (s : State) (t : Task) (n : Nat) : (s.pushNotice t n).rowOwner = s.rowOwner := by
  obtain ⟨_, _, _, _, _, _, _, h⟩ := s.pushNotice_frame t n; rw [h]
@[simp] theorem State.pushNotice_tasks (s : State) (t : Task) (n : Nat) : (s.pushNotice t n).tasks = s.tasks := by
  obtain ⟨_, _, _, _, _, _, _, h⟩ := s.pushNotice_frame t n; rw [h]
@[simp] theorem State.pushNotice_saved (s : State) (t : Task) (n : Nat) : (s.pushNotice t n).saved = s.saved := by
  obtain ⟨_, _, _, _, _, _, _, h⟩ := s.pushNotice_frame t n; rw [h]
@[simp] theorem State.pushNotice_instances (s : State) (t : Task) (n : Nat) : (s.pushNotice t n).instances = s.instances := by
  obtain ⟨_, _, _, _, _, _, _, h⟩ := s.pushNotice_frame t n; rw [h]
@[simp] theorem State.pushNotice_dies (s : State) (t : Task) (n : Nat) : (s.pushNotice t n).dies = s.dies := by
  obtain ⟨_, _, _, _, _, _, _, h⟩ := s.pushNotice_frame t n; rw [h]

@[simp] theorem State.debit_fst_schedule (s : State) (t : Task) (n : Nat) : (s.debit t n).1.schedule = s.schedule := by
  unfold State.debit; dsimp only; split
  · exact State.pushNotice_schedule ..
  · rfl
@[simp] theorem State.debit_fst_current (s : State) (t : Task) (n : Nat) : (s.debit t n).1.current = s.current := by
  unfold State.debit; dsimp only; split
  · exact State.pushNotice_current ..
  · rfl
@[simp] theorem State.debit_fst_nextId (s : State) (t : Task) (n : Nat) : (s.debit t n).1.nextId = s.nextId := by
  unfold State.debit; dsimp only; split
  · exact State.pushNotice_nextId ..
  · rfl
@[simp] theorem State.debit_fst_stage (s : State) (t : Task) (n : Nat) : (s.debit t n).1.stage = s.stage := by
  unfold State.debit; dsimp only; split
  · exact State.pushNotice_stage ..
  · rfl
@[simp] theorem State.debit_fst_fwInvalid (s : State) (t : Task) (n : Nat) : (s.debit t n).1.fwInvalid = s.fwInvalid := by
  unfold State.debit; dsimp only; split
  · exact State.pushNotice_fwInvalid ..
  · rfl
@[simp] theorem State.debit_fst_failDie (s : State) (t : Task) (n : Nat) : (s.debit t n).1.failDie = s.failDie := by
  unfold State.debit; dsimp only; split
  · exact State.pushNotice_failDie ..
  · rfl
@[simp] theorem State.debit_fst_cause (s : State) (t : Task) (n : Nat) : (s.debit t n).1.cause = s.cause := by
  unfold State.debit; dsimp only; split
  · exact State.pushNotice_cause ..
  · rfl
@[simp] theorem State.debit_fst_restoring (s : State) (t : Task) (n : Nat) : (s.debit t n).1.restoring = s.restoring := by
  unfold State.debit; dsimp only; split
  · exact State.pushNotice_restoring ..
  · rfl
@[simp] theorem State.debit_fst_restoreRun (s : State) (t : Task) (n : Nat) : (s.debit t n).1.restoreRun = s.restoreRun := by
  unfold State.debit; dsimp only; split
  · exact State.pushNotice_restoreRun ..
  · rfl
@[simp] theorem State.debit_fst_boots (s : State) (t : Task) (n : Nat) : (s.debit t n).1.boots = s.boots := by
  unfold State.debit; dsimp only; split
  · exact State.pushNotice_boots ..
  · rfl
@[simp] theorem State.debit_fst_firmware (s : State) (t : Task) (n : Nat) : (s.debit t n).1.firmware = s.firmware := by
  unfold State.debit; dsimp only; split
  · exact State.pushNotice_firmware ..
  · rfl
@[simp] theorem State.debit_fst_suspMem (s : State) (t : Task) (n : Nat) : (s.debit t n).1.suspMem = s.suspMem := by
  unfold State.debit; dsimp only; split
  · exact State.pushNotice_suspMem ..
  · rfl
@[simp] theorem State.debit_fst_descriptor (s : State) (t : Task) (n : Nat) : (s.debit t n).1.descriptor = s.descriptor := by
  unfold State.debit; dsimp only; split
  · exact State.pushNotice_descriptor ..
  · rfl
@[simp] theorem State.debit_fst_sweeping (s : State) (t : Task) (n : Nat) : (s.debit t n).1.sweeping = s.sweeping := by
  unfold State.debit; dsimp only; split
  · exact State.pushNotice_sweeping ..
  · rfl
@[simp] theorem State.debit_fst_swept (s : State) (t : Task) (n : Nat) : (s.debit t n).1.swept = s.swept := by
  unfold State.debit; dsimp only; split
  · exact State.pushNotice_swept ..
  · rfl
@[simp] theorem State.debit_fst_map (s : State) (t : Task) (n : Nat) : (s.debit t n).1.map = s.map := by
  unfold State.debit; dsimp only; split
  · exact State.pushNotice_map ..
  · rfl
@[simp] theorem State.debit_fst_cxlCache (s : State) (t : Task) (n : Nat) : (s.debit t n).1.cxlCache = s.cxlCache := by
  unfold State.debit; dsimp only; split
  · exact State.pushNotice_cxlCache ..
  · rfl
@[simp] theorem State.debit_fst_hostAtomics (s : State) (t : Task) (n : Nat) : (s.debit t n).1.hostAtomics = s.hostAtomics := by
  unfold State.debit; dsimp only; split
  · exact State.pushNotice_hostAtomics ..
  · rfl
@[simp] theorem State.debit_fst_ualTrained (s : State) (t : Task) (n : Nat) : (s.debit t n).1.ualTrained = s.ualTrained := by
  unfold State.debit; dsimp only; split
  · exact State.pushNotice_ualTrained ..
  · rfl
@[simp] theorem State.debit_fst_ualAtomics (s : State) (t : Task) (n : Nat) : (s.debit t n).1.ualAtomics = s.ualAtomics := by
  unfold State.debit; dsimp only; split
  · exact State.pushNotice_ualAtomics ..
  · rfl
@[simp] theorem State.debit_fst_cxlPorts (s : State) (t : Task) (n : Nat) : (s.debit t n).1.cxlPorts = s.cxlPorts := by
  unfold State.debit; dsimp only; split
  · exact State.pushNotice_cxlPorts ..
  · rfl
@[simp] theorem State.debit_fst_cxlPersist (s : State) (t : Task) (n : Nat) : (s.debit t n).1.cxlPersist = s.cxlPersist := by
  unfold State.debit; dsimp only; split
  · exact State.pushNotice_cxlPersist ..
  · rfl
@[simp] theorem State.debit_fst_mem (s : State) (t : Task) (n : Nat) : (s.debit t n).1.mem = s.mem := by
  unfold State.debit; dsimp only; split
  · exact State.pushNotice_mem ..
  · rfl
@[simp] theorem State.debit_fst_hostMem (s : State) (t : Task) (n : Nat) : (s.debit t n).1.hostMem = s.hostMem := by
  unfold State.debit; dsimp only; split
  · exact State.pushNotice_hostMem ..
  · rfl
@[simp] theorem State.debit_fst_scratch (s : State) (t : Task) (n : Nat) : (s.debit t n).1.scratch = s.scratch := by
  unfold State.debit; dsimp only; split
  · exact State.pushNotice_scratch ..
  · rfl
@[simp] theorem State.debit_fst_commitSeq (s : State) (t : Task) (n : Nat) : (s.debit t n).1.commitSeq = s.commitSeq := by
  unfold State.debit; dsimp only; split
  · exact State.pushNotice_commitSeq ..
  · rfl
@[simp] theorem State.debit_fst_published (s : State) (t : Task) (n : Nat) : (s.debit t n).1.published = s.published := by
  unfold State.debit; dsimp only; split
  · exact State.pushNotice_published ..
  · rfl
@[simp] theorem State.debit_fst_now (s : State) (t : Task) (n : Nat) : (s.debit t n).1.now = s.now := by
  unfold State.debit; dsimp only; split
  · exact State.pushNotice_now ..
  · rfl
@[simp] theorem State.debit_fst_susp (s : State) (t : Task) (n : Nat) : (s.debit t n).1.susp = s.susp := by
  unfold State.debit; dsimp only; split
  · exact State.pushNotice_susp ..
  · rfl
@[simp] theorem State.debit_fst_suspDesc (s : State) (t : Task) (n : Nat) : (s.debit t n).1.suspDesc = s.suspDesc := by
  unfold State.debit; dsimp only; split
  · exact State.pushNotice_suspDesc ..
  · rfl
@[simp] theorem State.debit_fst_suspN (s : State) (t : Task) (n : Nat) : (s.debit t n).1.suspN = s.suspN := by
  unfold State.debit; dsimp only; split
  · exact State.pushNotice_suspN ..
  · rfl
@[simp] theorem State.debit_fst_suspCmd (s : State) (t : Task) (n : Nat) : (s.debit t n).1.suspCmd = s.suspCmd := by
  unfold State.debit; dsimp only; split
  · exact State.pushNotice_suspCmd ..
  · rfl
@[simp] theorem State.debit_fst_suspDiscard (s : State) (t : Task) (n : Nat) : (s.debit t n).1.suspDiscard = s.suspDiscard := by
  unfold State.debit; dsimp only; split
  · exact State.pushNotice_suspDiscard ..
  · rfl
@[simp] theorem State.debit_fst_wardrobe (s : State) (t : Task) (n : Nat) : (s.debit t n).1.wardrobe = s.wardrobe := by
  unfold State.debit; dsimp only; split
  · exact State.pushNotice_wardrobe ..
  · rfl
@[simp] theorem State.debit_fst_resyncAddr (s : State) (t : Task) (n : Nat) : (s.debit t n).1.resyncAddr = s.resyncAddr := by
  unfold State.debit; dsimp only; split
  · exact State.pushNotice_resyncAddr ..
  · rfl
@[simp] theorem State.debit_fst_resyncBusy (s : State) (t : Task) (n : Nat) : (s.debit t n).1.resyncBusy = s.resyncBusy := by
  unfold State.debit; dsimp only; split
  · exact State.pushNotice_resyncBusy ..
  · rfl
@[simp] theorem State.debit_fst_attestAddr (s : State) (t : Task) (n : Nat) : (s.debit t n).1.attestAddr = s.attestAddr := by
  unfold State.debit; dsimp only; split
  · exact State.pushNotice_attestAddr ..
  · rfl
@[simp] theorem State.debit_fst_pkgLimit (s : State) (t : Task) (n : Nat) : (s.debit t n).1.pkgLimit = s.pkgLimit := by
  unfold State.debit; dsimp only; split
  · exact State.pushNotice_pkgLimit ..
  · rfl
@[simp] theorem State.debit_fst_qtBase (s : State) (t : Task) (n : Nat) : (s.debit t n).1.qtBase = s.qtBase := by
  unfold State.debit; dsimp only; split
  · exact State.pushNotice_qtBase ..
  · rfl
@[simp] theorem State.debit_fst_qtCount (s : State) (t : Task) (n : Nat) : (s.debit t n).1.qtCount = s.qtCount := by
  unfold State.debit; dsimp only; split
  · exact State.pushNotice_qtCount ..
  · rfl
@[simp] theorem State.debit_fst_ctxBase (s : State) (t : Task) (n : Nat) : (s.debit t n).1.ctxBase = s.ctxBase := by
  unfold State.debit; dsimp only; split
  · exact State.pushNotice_ctxBase ..
  · rfl
@[simp] theorem State.debit_fst_ctxCount (s : State) (t : Task) (n : Nat) : (s.debit t n).1.ctxCount = s.ctxCount := by
  unfold State.debit; dsimp only; split
  · exact State.pushNotice_ctxCount ..
  · rfl
@[simp] theorem State.debit_fst_safeBase (s : State) (t : Task) (n : Nat) : (s.debit t n).1.safeBase = s.safeBase := by
  unfold State.debit; dsimp only; split
  · exact State.pushNotice_safeBase ..
  · rfl
@[simp] theorem State.debit_fst_restore (s : State) (t : Task) (n : Nat) : (s.debit t n).1.restore = s.restore := by
  unfold State.debit; dsimp only; split
  · exact State.pushNotice_restore ..
  · rfl
@[simp] theorem State.debit_fst_hcw (s : State) (t : Task) (n : Nat) : (s.debit t n).1.hcw = s.hcw := by
  unfold State.debit; dsimp only; split
  · exact State.pushNotice_hcw ..
  · rfl
@[simp] theorem State.debit_fst_tlb (s : State) (t : Task) (n : Nat) : (s.debit t n).1.tlb = s.tlb := by
  unfold State.debit; dsimp only; split
  · exact State.pushNotice_tlb ..
  · rfl
@[simp] theorem State.debit_fst_tlbDrops (s : State) (t : Task) (n : Nat) : (s.debit t n).1.tlbDrops = s.tlbDrops := by
  unfold State.debit; dsimp only; split
  · exact State.pushNotice_tlbDrops ..
  · rfl
@[simp] theorem State.debit_fst_peerAnswers (s : State) (t : Task) (n : Nat) : (s.debit t n).1.peerAnswers = s.peerAnswers := by
  unfold State.debit; dsimp only; split
  · exact State.pushNotice_peerAnswers ..
  · rfl
@[simp] theorem State.debit_fst_homing (s : State) (t : Task) (n : Nat) : (s.debit t n).1.homing = s.homing := by
  unfold State.debit; dsimp only; split
  · exact State.pushNotice_homing ..
  · rfl
@[simp] theorem State.debit_fst_moving (s : State) (t : Task) (n : Nat) : (s.debit t n).1.moving = s.moving := by
  unfold State.debit; dsimp only; split
  · exact State.pushNotice_moving ..
  · rfl
@[simp] theorem State.debit_fst_locks (s : State) (t : Task) (n : Nat) : (s.debit t n).1.locks = s.locks := by
  unfold State.debit; dsimp only; split
  · exact State.pushNotice_locks ..
  · rfl
@[simp] theorem State.debit_fst_generations (s : State) (t : Task) (n : Nat) : (s.debit t n).1.generations = s.generations := by
  unfold State.debit; dsimp only; split
  · exact State.pushNotice_generations ..
  · rfl
@[simp] theorem State.debit_fst_rowOwner (s : State) (t : Task) (n : Nat) : (s.debit t n).1.rowOwner = s.rowOwner := by
  unfold State.debit; dsimp only; split
  · exact State.pushNotice_rowOwner ..
  · rfl
@[simp] theorem State.debit_fst_tasks (s : State) (t : Task) (n : Nat) : (s.debit t n).1.tasks = s.tasks := by
  unfold State.debit; dsimp only; split
  · exact State.pushNotice_tasks ..
  · rfl
@[simp] theorem State.debit_fst_saved (s : State) (t : Task) (n : Nat) : (s.debit t n).1.saved = s.saved := by
  unfold State.debit; dsimp only; split
  · exact State.pushNotice_saved ..
  · rfl
@[simp] theorem State.debit_fst_instances (s : State) (t : Task) (n : Nat) : (s.debit t n).1.instances = s.instances := by
  unfold State.debit; dsimp only; split
  · exact State.pushNotice_instances ..
  · rfl
@[simp] theorem State.debit_fst_dies (s : State) (t : Task) (n : Nat) : (s.debit t n).1.dies = s.dies := by
  unfold State.debit; dsimp only; split
  · exact State.pushNotice_dies ..
  · rfl

@[simp] theorem State.debit_snd_handle (s : State) (t : Task) (n : Nat) : (s.debit t n).2.handle = t.handle := by
  unfold State.debit; dsimp only; split <;> rfl
@[simp] theorem State.debit_snd_crec (s : State) (t : Task) (n : Nat) : (s.debit t n).2.crec = t.crec := by
  unfold State.debit; dsimp only; split <;> rfl
@[simp] theorem State.debit_snd_die (s : State) (t : Task) (n : Nat) : (s.debit t n).2.die = t.die := by
  unfold State.debit; dsimp only; split <;> rfl
@[simp] theorem State.debit_snd_members (s : State) (t : Task) (n : Nat) : (s.debit t n).2.members = t.members := by
  unfold State.debit; dsimp only; split <;> rfl
@[simp] theorem State.debit_snd_ready (s : State) (t : Task) (n : Nat) : (s.debit t n).2.ready = t.ready := by
  unfold State.debit; dsimp only; split <;> rfl
@[simp] theorem State.debit_snd_rerun (s : State) (t : Task) (n : Nat) : (s.debit t n).2.rerun = t.rerun := by
  unfold State.debit; dsimp only; split <;> rfl
@[simp] theorem State.debit_snd_origin (s : State) (t : Task) (n : Nat) : (s.debit t n).2.origin = t.origin := by
  unfold State.debit; dsimp only; split <;> rfl
@[simp] theorem State.debit_snd_hint (s : State) (t : Task) (n : Nat) : (s.debit t n).2.hint = t.hint := by
  unfold State.debit; dsimp only; split <;> rfl
@[simp] theorem State.debit_snd_irrevocable (s : State) (t : Task) (n : Nat) : (s.debit t n).2.irrevocable = t.irrevocable := by
  unfold State.debit; dsimp only; split <;> rfl
@[simp] theorem State.debit_snd_admitId (s : State) (t : Task) (n : Nat) : (s.debit t n).2.admitId = t.admitId := by
  unfold State.debit; dsimp only; split <;> rfl
@[simp] theorem State.debit_snd_snapNum (s : State) (t : Task) (n : Nat) : (s.debit t n).2.snapNum = t.snapNum := by
  unfold State.debit; dsimp only; split <;> rfl
@[simp] theorem State.debit_snd_snap (s : State) (t : Task) (n : Nat) : (s.debit t n).2.snap = t.snap := by
  unfold State.debit; dsimp only; split <;> rfl
@[simp] theorem State.debit_snd_snapHost (s : State) (t : Task) (n : Nat) : (s.debit t n).2.snapHost = t.snapHost := by
  unfold State.debit; dsimp only; split <;> rfl
@[simp] theorem State.debit_snd_gate (s : State) (t : Task) (n : Nat) : (s.debit t n).2.gate = t.gate := by
  unfold State.debit; dsimp only; split <;> rfl
@[simp] theorem State.debit_snd_added (s : State) (t : Task) (n : Nat) : (s.debit t n).2.added = t.added := by
  unfold State.debit; dsimp only; split <;> rfl
@[simp] theorem State.debit_snd_cmd (s : State) (t : Task) (n : Nat) : (s.debit t n).2.cmd = t.cmd := by
  unfold State.debit; dsimp only; split <;> rfl
@[simp] theorem State.debit_snd_mark (s : State) (t : Task) (n : Nat) : (s.debit t n).2.mark = t.mark := by
  unfold State.debit; dsimp only; split <;> rfl
@[simp] theorem State.debit_snd_holdField (s : State) (t : Task) (n : Nat) : (s.debit t n).2.holdField = t.holdField := by
  unfold State.debit; dsimp only; split <;> rfl
@[simp] theorem State.debit_snd_holdLeft (s : State) (t : Task) (n : Nat) : (s.debit t n).2.holdLeft = t.holdLeft := by
  unfold State.debit; dsimp only; split <;> rfl
@[simp] theorem State.debit_snd_skipRefund (s : State) (t : Task) (n : Nat) : (s.debit t n).2.skipRefund = t.skipRefund := by
  unfold State.debit; dsimp only; split <;> rfl
@[simp] theorem State.debit_snd_flags (s : State) (t : Task) (n : Nat) : (s.debit t n).2.flags = t.flags := by
  unfold State.debit; dsimp only; split <;> rfl
@[simp] theorem State.debit_snd_pc (s : State) (t : Task) (n : Nat) : (s.debit t n).2.pc = t.pc := by
  unfold State.debit; dsimp only; split <;> rfl
@[simp] theorem State.debit_snd_regs (s : State) (t : Task) (n : Nat) : (s.debit t n).2.regs = t.regs := by
  unfold State.debit; dsimp only; split <;> rfl
@[simp] theorem State.debit_snd_wait (s : State) (t : Task) (n : Nat) : (s.debit t n).2.wait = t.wait := by
  unfold State.debit; dsimp only; split <;> rfl
@[simp] theorem State.debit_snd_paid (s : State) (t : Task) (n : Nat) : (s.debit t n).2.paid = t.paid := by
  unfold State.debit; dsimp only; split <;> rfl
@[simp] theorem State.debit_snd_committing (s : State) (t : Task) (n : Nat) : (s.debit t n).2.committing = t.committing := by
  unfold State.debit; dsimp only; split <;> rfl
@[simp] theorem State.debit_snd_exempt (s : State) (t : Task) (n : Nat) : (s.debit t n).2.exempt = t.exempt := by
  unfold State.debit; dsimp only; split <;> rfl
@[simp] theorem State.debit_snd_tl (s : State) (t : Task) (n : Nat) : (s.debit t n).2.tl = t.tl := by
  unfold State.debit; dsimp only; split <;> rfl
@[simp] theorem State.debit_snd_issued (s : State) (t : Task) (n : Nat) : (s.debit t n).2.issued = t.issued := by
  unfold State.debit; dsimp only; split <;> rfl
@[simp] theorem State.debit_snd_finished (s : State) (t : Task) (n : Nat) : (s.debit t n).2.finished = t.finished := by
  unfold State.debit; dsimp only; split <;> rfl
@[simp] theorem State.debit_snd_rwin (s : State) (t : Task) (n : Nat) : (s.debit t n).2.rwin = t.rwin := by
  unfold State.debit; dsimp only; split <;> rfl
@[simp] theorem State.debit_snd_cup (s : State) (t : Task) (n : Nat) : (s.debit t n).2.cup = t.cup := by
  unfold State.debit; dsimp only; split <;> rfl
@[simp] theorem State.debit_snd_cupLines (s : State) (t : Task) (n : Nat) : (s.debit t n).2.cupLines = t.cupLines := by
  unfold State.debit; dsimp only; split <;> rfl
@[simp] theorem State.debit_snd_framed (s : State) (t : Task) (n : Nat) : (s.debit t n).2.framed = t.framed := by
  unfold State.debit; dsimp only; split <;> rfl
@[simp] theorem State.debit_snd_fenceReqs (s : State) (t : Task) (n : Nat) : (s.debit t n).2.fenceReqs = t.fenceReqs := by
  unfold State.debit; dsimp only; split <;> rfl
@[simp] theorem State.debit_snd_sparedBy (s : State) (t : Task) (n : Nat) : (s.debit t n).2.sparedBy = t.sparedBy := by
  unfold State.debit; dsimp only; split <;> rfl
@[simp] theorem State.debit_snd_redLines (s : State) (t : Task) (n : Nat) : (s.debit t n).2.redLines = t.redLines := by
  unfold State.debit; dsimp only; split <;> rfl
@[simp] theorem State.debit_snd_share (s : State) (t : Task) (n : Nat) : (s.debit t n).2.share = t.share := by
  unfold State.debit; dsimp only; split <;> rfl
@[simp] theorem State.debit_snd_spaceWait (s : State) (t : Task) (n : Nat) : (s.debit t n).2.spaceWait = t.spaceWait := by
  unfold State.debit; dsimp only; split <;> rfl
@[simp] theorem State.debit_snd_readSet (s : State) (t : Task) (n : Nat) : (s.debit t n).2.readSet = t.readSet := by
  unfold State.debit; dsimp only; split <;> rfl
@[simp] theorem State.debit_snd_spawns (s : State) (t : Task) (n : Nat) : (s.debit t n).2.spawns = t.spawns := by
  unfold State.debit; dsimp only; split <;> rfl
@[simp] theorem State.debit_snd_joinIncs (s : State) (t : Task) (n : Nat) : (s.debit t n).2.joinIncs = t.joinIncs := by
  unfold State.debit; dsimp only; split <;> rfl
@[simp] theorem State.debit_snd_joinDecs (s : State) (t : Task) (n : Nat) : (s.debit t n).2.joinDecs = t.joinDecs := by
  unfold State.debit; dsimp only; split <;> rfl
@[simp] theorem State.debit_snd_reds (s : State) (t : Task) (n : Nat) : (s.debit t n).2.reds = t.reds := by
  unfold State.debit; dsimp only; split <;> rfl
@[simp] theorem State.debit_snd_pushes (s : State) (t : Task) (n : Nat) : (s.debit t n).2.pushes = t.pushes := by
  unfold State.debit; dsimp only; split <;> rfl
@[simp] theorem State.debit_snd_pushData (s : State) (t : Task) (n : Nat) : (s.debit t n).2.pushData = t.pushData := by
  unfold State.debit; dsimp only; split <;> rfl
@[simp] theorem State.debit_snd_closes (s : State) (t : Task) (n : Nat) : (s.debit t n).2.closes = t.closes := by
  unfold State.debit; dsimp only; split <;> rfl
@[simp] theorem State.debit_snd_lockLine (s : State) (t : Task) (n : Nat) : (s.debit t n).2.lockLine = t.lockLine := by
  unfold State.debit; dsimp only; split <;> rfl
@[simp] theorem State.debit_snd_regionOpen (s : State) (t : Task) (n : Nat) : (s.debit t n).2.regionOpen = t.regionOpen := by
  unfold State.debit; dsimp only; split <;> rfl
@[simp] theorem State.debit_snd_arOps (s : State) (t : Task) (n : Nat) : (s.debit t n).2.arOps = t.arOps := by
  unfold State.debit; dsimp only; split <;> rfl
@[simp] theorem State.debit_snd_frames (s : State) (t : Task) (n : Nat) : (s.debit t n).2.frames = t.frames := by
  unfold State.debit; dsimp only; split <;> rfl
@[simp] theorem State.debit_snd_staged (s : State) (t : Task) (n : Nat) : (s.debit t n).2.staged = t.staged := by
  unfold State.debit; dsimp only; split <;> rfl
@[simp] theorem State.debit_snd_icache (s : State) (t : Task) (n : Nat) : (s.debit t n).2.icache = t.icache := by
  unfold State.debit; dsimp only; split <;> rfl
@[simp] theorem State.debit_snd_ioLines (s : State) (t : Task) (n : Nat) : (s.debit t n).2.ioLines = t.ioLines := by
  unfold State.debit; dsimp only; split <;> rfl
@[simp] theorem State.debit_snd_loading (s : State) (t : Task) (n : Nat) : (s.debit t n).2.loading = t.loading := by
  unfold State.debit; dsimp only; split <;> rfl
@[simp] theorem State.debit_snd_loadGrant (s : State) (t : Task) (n : Nat) : (s.debit t n).2.loadGrant = t.loadGrant := by
  unfold State.debit; dsimp only; split <;> rfl
@[simp] theorem State.debit_snd_dest (s : State) (t : Task) (n : Nat) : (s.debit t n).2.dest = t.dest := by
  unfold State.debit; dsimp only; split <;> rfl
@[simp] theorem State.debit_snd_beatFault (s : State) (t : Task) (n : Nat) : (s.debit t n).2.beatFault = t.beatFault := by
  unfold State.debit; dsimp only; split <;> rfl
@[simp] theorem State.debit_snd_cells (s : State) (t : Task) (n : Nat) : (s.debit t n).2.cells = t.cells := by
  unfold State.debit; dsimp only; split <;> rfl
@[simp] theorem State.debit_snd_ags (s : State) (t : Task) (n : Nat) : (s.debit t n).2.ags = t.ags := by
  unfold State.debit; dsimp only; split <;> rfl
@[simp] theorem State.debit_snd_gos (s : State) (t : Task) (n : Nat) : (s.debit t n).2.gos = t.gos := by
  unfold State.debit; dsimp only; split <;> rfl
@[simp] theorem State.debit_snd_engines (s : State) (t : Task) (n : Nat) : (s.debit t n).2.engines = t.engines := by
  unfold State.debit; dsimp only; split <;> rfl
@[simp] theorem State.debit_snd_ops2 (s : State) (t : Task) (n : Nat) : (s.debit t n).2.ops2 = t.ops2 := by
  unfold State.debit; dsimp only; split <;> rfl
@[simp] theorem State.debit_snd_arms (s : State) (t : Task) (n : Nat) : (s.debit t n).2.arms = t.arms := by
  unfold State.debit; dsimp only; split <;> rfl
@[simp] theorem State.debit_snd_copies (s : State) (t : Task) (n : Nat) : (s.debit t n).2.copies = t.copies := by
  unfold State.debit; dsimp only; split <;> rfl
@[simp] theorem State.debit_snd_nests (s : State) (t : Task) (n : Nat) : (s.debit t n).2.nests = t.nests := by
  unfold State.debit; dsimp only; split <;> rfl
@[simp] theorem State.debit_snd_frozen (s : State) (t : Task) (n : Nat) : (s.debit t n).2.frozen = t.frozen := by
  unfold State.debit; dsimp only; split <;> rfl
@[simp] theorem State.debit_snd_portalReqs (s : State) (t : Task) (n : Nat) : (s.debit t n).2.portalReqs = t.portalReqs := by
  unfold State.debit; dsimp only; split <;> rfl
@[simp] theorem State.debit_snd_account (s : State) (t : Task) (n : Nat) : (s.debit t n).2.account = t.account - n := by
  unfold State.debit; dsimp only; split <;> rfl
@[simp] theorem State.debit_snd_hangCount (s : State) (t : Task) (n : Nat) : (s.debit t n).2.hangCount = 0 := by
  unfold State.debit; dsimp only; split <;> rfl

end Sys2Proof.Machine
end

