-- ==== Sys2Proof/Laws/Claims.lean ====
section
/-! SUPPORT. What the words of the statements (OnBureau, OnThread, drawn, charged, onBureau, trapped) mean for the shared
operations: how an instruction issues, what its draw leaves, how a trap is taken, how a die changes. -/

set_option linter.unusedSimpArgs false

namespace Sys2Proof.Claims

open Sys2Proof Sys2Proof.Machine

/-! ### Issue -/

/-- An instruction that both modes have, on a Bureau that moves. -/
theorem issueBoth_bureau {s d x} (h : OnBureau s d x) (i draw pre bur thr) :
    issueBoth i draw pre bur thr s = .next (finish (bur s d x.bureau)) := by
  obtain ⟨h1,h2,h3,h4⟩ := h
  unfold issueBoth; rw [h1]; exact State.issueBureau_runs h2 h3 h4 _

/-- An instruction that both modes have, on a thread that moves, its draw covered and no trap at issue. -/
theorem issueBoth_thread {s t draw} (h : OnThread s t draw) {i pre bur thr} (hp : pre t = none) :
    issueBoth i draw pre bur thr s = .next (finish (thr (charged s t draw) (drawn s t draw))) := by
  obtain ⟨h1,h2,h3,h4,h5,h6,h7,h8⟩ := h
  unfold issueBoth; rw [h1]; exact State.issueThread_runs h2 h3 h4 h5 h6 h7 hp h8

/-- A task's instruction, on a thread that moves. -/
theorem issueTask_thread {s t draw} (h : OnThread s t draw) {i pre thr} (hp : pre t = none) :
    issueTask i draw pre thr s = .next (finish (thr (charged s t draw) (drawn s t draw))) := issueBoth_thread h hp

/-- A metered command, on a thread that moves. -/
theorem issueCmd_thread {s t draw} (h : OnThread s t draw) {i k u pre thr} (hp : pre t = none) :
    issueCmd i draw k pre u thr s = .next (finish (thr (charged s t draw) (drawn s t draw))) := by
  obtain ⟨h1,h2,h3,h4,h5,h6,h7,h8⟩ := h
  unfold issueCmd; rw [h1]; exact State.issueThread_runs h2 h3 h4 h5 h6 h7 hp h8
@[simp] theorem drawn_wait (s t n) : (drawn s t n).wait = none := rfl

/-! ### What a draw leaves: every field of the task but the account and its notice, and every field of the package -/

@[simp] theorem drawn_handle (s t n) : (drawn s t n).handle = t.handle := State.debit_snd_handle s t n
@[simp] theorem drawn_crec (s t n) : (drawn s t n).crec = t.crec := State.debit_snd_crec s t n
@[simp] theorem drawn_die (s t n) : (drawn s t n).die = t.die := State.debit_snd_die s t n
@[simp] theorem drawn_members (s t n) : (drawn s t n).members = t.members := State.debit_snd_members s t n
@[simp] theorem drawn_ready (s t n) : (drawn s t n).ready = t.ready := State.debit_snd_ready s t n
@[simp] theorem drawn_rerun (s t n) : (drawn s t n).rerun = t.rerun := State.debit_snd_rerun s t n
@[simp] theorem drawn_origin (s t n) : (drawn s t n).origin = t.origin := State.debit_snd_origin s t n
@[simp] theorem drawn_hint (s t n) : (drawn s t n).hint = t.hint := State.debit_snd_hint s t n
@[simp] theorem drawn_irrevocable (s t n) : (drawn s t n).irrevocable = t.irrevocable := State.debit_snd_irrevocable s t n
@[simp] theorem drawn_admitId (s t n) : (drawn s t n).admitId = t.admitId := State.debit_snd_admitId s t n
@[simp] theorem drawn_snapNum (s t n) : (drawn s t n).snapNum = t.snapNum := State.debit_snd_snapNum s t n
@[simp] theorem drawn_snap (s t n) : (drawn s t n).snap = t.snap := State.debit_snd_snap s t n
@[simp] theorem drawn_snapHost (s t n) : (drawn s t n).snapHost = t.snapHost := State.debit_snd_snapHost s t n
@[simp] theorem drawn_gate (s t n) : (drawn s t n).gate = t.gate := State.debit_snd_gate s t n
@[simp] theorem drawn_added (s t n) : (drawn s t n).added = t.added := State.debit_snd_added s t n
@[simp] theorem drawn_cmd (s t n) : (drawn s t n).cmd = t.cmd := State.debit_snd_cmd s t n
@[simp] theorem drawn_mark (s t n) : (drawn s t n).mark = t.mark := State.debit_snd_mark s t n
@[simp] theorem drawn_holdField (s t n) : (drawn s t n).holdField = t.holdField := State.debit_snd_holdField s t n
@[simp] theorem drawn_holdLeft (s t n) : (drawn s t n).holdLeft = t.holdLeft := State.debit_snd_holdLeft s t n
@[simp] theorem drawn_skipRefund (s t n) : (drawn s t n).skipRefund = t.skipRefund := State.debit_snd_skipRefund s t n
@[simp] theorem drawn_flags (s t n) : (drawn s t n).flags = t.flags := State.debit_snd_flags s t n
@[simp] theorem drawn_pc (s t n) : (drawn s t n).pc = t.pc := State.debit_snd_pc s t n
@[simp] theorem drawn_regs (s t n) : (drawn s t n).regs = t.regs := State.debit_snd_regs s t n
@[simp] theorem drawn_paid (s t n) : (drawn s t n).paid = t.paid := State.debit_snd_paid s t n
@[simp] theorem drawn_committing (s t n) : (drawn s t n).committing = t.committing := State.debit_snd_committing s t n
@[simp] theorem drawn_tl (s t n) : (drawn s t n).tl = t.tl := State.debit_snd_tl s t n
@[simp] theorem drawn_issued (s t n) : (drawn s t n).issued = t.issued := State.debit_snd_issued s t n
@[simp] theorem drawn_finished (s t n) : (drawn s t n).finished = t.finished := State.debit_snd_finished s t n
@[simp] theorem drawn_rwin (s t n) : (drawn s t n).rwin = t.rwin := State.debit_snd_rwin s t n
@[simp] theorem drawn_cup (s t n) : (drawn s t n).cup = t.cup := State.debit_snd_cup s t n
@[simp] theorem drawn_cupLines (s t n) : (drawn s t n).cupLines = t.cupLines := State.debit_snd_cupLines s t n
@[simp] theorem drawn_framed (s t n) : (drawn s t n).framed = t.framed := State.debit_snd_framed s t n
@[simp] theorem drawn_fenceReqs (s t n) : (drawn s t n).fenceReqs = t.fenceReqs := State.debit_snd_fenceReqs s t n
@[simp] theorem drawn_sparedBy (s t n) : (drawn s t n).sparedBy = t.sparedBy := State.debit_snd_sparedBy s t n
@[simp] theorem drawn_redLines (s t n) : (drawn s t n).redLines = t.redLines := State.debit_snd_redLines s t n
@[simp] theorem drawn_share (s t n) : (drawn s t n).share = t.share := State.debit_snd_share s t n
@[simp] theorem drawn_spaceWait (s t n) : (drawn s t n).spaceWait = t.spaceWait := State.debit_snd_spaceWait s t n
@[simp] theorem drawn_readSet (s t n) : (drawn s t n).readSet = t.readSet := State.debit_snd_readSet s t n
@[simp] theorem drawn_spawns (s t n) : (drawn s t n).spawns = t.spawns := State.debit_snd_spawns s t n
@[simp] theorem drawn_joinIncs (s t n) : (drawn s t n).joinIncs = t.joinIncs := State.debit_snd_joinIncs s t n
@[simp] theorem drawn_joinDecs (s t n) : (drawn s t n).joinDecs = t.joinDecs := State.debit_snd_joinDecs s t n
@[simp] theorem drawn_reds (s t n) : (drawn s t n).reds = t.reds := State.debit_snd_reds s t n
@[simp] theorem drawn_pushes (s t n) : (drawn s t n).pushes = t.pushes := State.debit_snd_pushes s t n
@[simp] theorem drawn_pushData (s t n) : (drawn s t n).pushData = t.pushData := State.debit_snd_pushData s t n
@[simp] theorem drawn_closes (s t n) : (drawn s t n).closes = t.closes := State.debit_snd_closes s t n
@[simp] theorem drawn_lockLine (s t n) : (drawn s t n).lockLine = t.lockLine := State.debit_snd_lockLine s t n
@[simp] theorem drawn_regionOpen (s t n) : (drawn s t n).regionOpen = t.regionOpen := State.debit_snd_regionOpen s t n
@[simp] theorem drawn_arOps (s t n) : (drawn s t n).arOps = t.arOps := State.debit_snd_arOps s t n
@[simp] theorem drawn_frames (s t n) : (drawn s t n).frames = t.frames := State.debit_snd_frames s t n
@[simp] theorem drawn_staged (s t n) : (drawn s t n).staged = t.staged := State.debit_snd_staged s t n
@[simp] theorem drawn_icache (s t n) : (drawn s t n).icache = t.icache := State.debit_snd_icache s t n
@[simp] theorem drawn_ioLines (s t n) : (drawn s t n).ioLines = t.ioLines := State.debit_snd_ioLines s t n
@[simp] theorem drawn_loading (s t n) : (drawn s t n).loading = t.loading := State.debit_snd_loading s t n
@[simp] theorem drawn_loadGrant (s t n) : (drawn s t n).loadGrant = t.loadGrant := State.debit_snd_loadGrant s t n
@[simp] theorem drawn_dest (s t n) : (drawn s t n).dest = t.dest := State.debit_snd_dest s t n
@[simp] theorem drawn_beatFault (s t n) : (drawn s t n).beatFault = t.beatFault := State.debit_snd_beatFault s t n
@[simp] theorem drawn_cells (s t n) : (drawn s t n).cells = t.cells := State.debit_snd_cells s t n
@[simp] theorem drawn_ags (s t n) : (drawn s t n).ags = t.ags := State.debit_snd_ags s t n
@[simp] theorem drawn_gos (s t n) : (drawn s t n).gos = t.gos := State.debit_snd_gos s t n
@[simp] theorem drawn_engines (s t n) : (drawn s t n).engines = t.engines := State.debit_snd_engines s t n
@[simp] theorem drawn_ops2 (s t n) : (drawn s t n).ops2 = t.ops2 := State.debit_snd_ops2 s t n
@[simp] theorem drawn_arms (s t n) : (drawn s t n).arms = t.arms := State.debit_snd_arms s t n
@[simp] theorem drawn_copies (s t n) : (drawn s t n).copies = t.copies := State.debit_snd_copies s t n
@[simp] theorem drawn_nests (s t n) : (drawn s t n).nests = t.nests := State.debit_snd_nests s t n
@[simp] theorem drawn_frozen (s t n) : (drawn s t n).frozen = t.frozen := State.debit_snd_frozen s t n
@[simp] theorem drawn_portalReqs (s t n) : (drawn s t n).portalReqs = t.portalReqs := State.debit_snd_portalReqs s t n
@[simp] theorem charged_schedule (s t n) : (charged s t n).schedule = s.schedule := State.debit_fst_schedule s t n
@[simp] theorem charged_current (s t n) : (charged s t n).current = s.current := State.debit_fst_current s t n
@[simp] theorem charged_nextId (s t n) : (charged s t n).nextId = s.nextId := State.debit_fst_nextId s t n
@[simp] theorem charged_stage (s t n) : (charged s t n).stage = s.stage := State.debit_fst_stage s t n
@[simp] theorem charged_fwInvalid (s t n) : (charged s t n).fwInvalid = s.fwInvalid := State.debit_fst_fwInvalid s t n
@[simp] theorem charged_failDie (s t n) : (charged s t n).failDie = s.failDie := State.debit_fst_failDie s t n
@[simp] theorem charged_cause (s t n) : (charged s t n).cause = s.cause := State.debit_fst_cause s t n
@[simp] theorem charged_restoring (s t n) : (charged s t n).restoring = s.restoring := State.debit_fst_restoring s t n
@[simp] theorem charged_restoreRun (s t n) : (charged s t n).restoreRun = s.restoreRun := State.debit_fst_restoreRun s t n
@[simp] theorem charged_boots (s t n) : (charged s t n).boots = s.boots := State.debit_fst_boots s t n
@[simp] theorem charged_firmware (s t n) : (charged s t n).firmware = s.firmware := State.debit_fst_firmware s t n
@[simp] theorem charged_suspMem (s t n) : (charged s t n).suspMem = s.suspMem := State.debit_fst_suspMem s t n
@[simp] theorem charged_descriptor (s t n) : (charged s t n).descriptor = s.descriptor := State.debit_fst_descriptor s t n
@[simp] theorem charged_sweeping (s t n) : (charged s t n).sweeping = s.sweeping := State.debit_fst_sweeping s t n
@[simp] theorem charged_swept (s t n) : (charged s t n).swept = s.swept := State.debit_fst_swept s t n
@[simp] theorem charged_map (s t n) : (charged s t n).map = s.map := State.debit_fst_map s t n
@[simp] theorem charged_cxlCache (s t n) : (charged s t n).cxlCache = s.cxlCache := State.debit_fst_cxlCache s t n
@[simp] theorem charged_hostAtomics (s t n) : (charged s t n).hostAtomics = s.hostAtomics := State.debit_fst_hostAtomics s t n
@[simp] theorem charged_ualTrained (s t n) : (charged s t n).ualTrained = s.ualTrained := State.debit_fst_ualTrained s t n
@[simp] theorem charged_ualAtomics (s t n) : (charged s t n).ualAtomics = s.ualAtomics := State.debit_fst_ualAtomics s t n
@[simp] theorem charged_cxlPorts (s t n) : (charged s t n).cxlPorts = s.cxlPorts := State.debit_fst_cxlPorts s t n
@[simp] theorem charged_cxlPersist (s t n) : (charged s t n).cxlPersist = s.cxlPersist := State.debit_fst_cxlPersist s t n
@[simp] theorem charged_mem (s t n) : (charged s t n).mem = s.mem := State.debit_fst_mem s t n
@[simp] theorem charged_hostMem (s t n) : (charged s t n).hostMem = s.hostMem := State.debit_fst_hostMem s t n
@[simp] theorem charged_scratch (s t n) : (charged s t n).scratch = s.scratch := State.debit_fst_scratch s t n
@[simp] theorem charged_commitSeq (s t n) : (charged s t n).commitSeq = s.commitSeq := State.debit_fst_commitSeq s t n
@[simp] theorem charged_published (s t n) : (charged s t n).published = s.published := State.debit_fst_published s t n
@[simp] theorem charged_now (s t n) : (charged s t n).now = s.now := State.debit_fst_now s t n
@[simp] theorem charged_susp (s t n) : (charged s t n).susp = s.susp := State.debit_fst_susp s t n
@[simp] theorem charged_suspDesc (s t n) : (charged s t n).suspDesc = s.suspDesc := State.debit_fst_suspDesc s t n
@[simp] theorem charged_suspN (s t n) : (charged s t n).suspN = s.suspN := State.debit_fst_suspN s t n
@[simp] theorem charged_suspCmd (s t n) : (charged s t n).suspCmd = s.suspCmd := State.debit_fst_suspCmd s t n
@[simp] theorem charged_suspDiscard (s t n) : (charged s t n).suspDiscard = s.suspDiscard := State.debit_fst_suspDiscard s t n
@[simp] theorem charged_wardrobe (s t n) : (charged s t n).wardrobe = s.wardrobe := State.debit_fst_wardrobe s t n
@[simp] theorem charged_resyncAddr (s t n) : (charged s t n).resyncAddr = s.resyncAddr := State.debit_fst_resyncAddr s t n
@[simp] theorem charged_resyncBusy (s t n) : (charged s t n).resyncBusy = s.resyncBusy := State.debit_fst_resyncBusy s t n
@[simp] theorem charged_attestAddr (s t n) : (charged s t n).attestAddr = s.attestAddr := State.debit_fst_attestAddr s t n
@[simp] theorem charged_pkgLimit (s t n) : (charged s t n).pkgLimit = s.pkgLimit := State.debit_fst_pkgLimit s t n
@[simp] theorem charged_qtBase (s t n) : (charged s t n).qtBase = s.qtBase := State.debit_fst_qtBase s t n
@[simp] theorem charged_qtCount (s t n) : (charged s t n).qtCount = s.qtCount := State.debit_fst_qtCount s t n
@[simp] theorem charged_ctxBase (s t n) : (charged s t n).ctxBase = s.ctxBase := State.debit_fst_ctxBase s t n
@[simp] theorem charged_ctxCount (s t n) : (charged s t n).ctxCount = s.ctxCount := State.debit_fst_ctxCount s t n
@[simp] theorem charged_safeBase (s t n) : (charged s t n).safeBase = s.safeBase := State.debit_fst_safeBase s t n
@[simp] theorem charged_restore (s t n) : (charged s t n).restore = s.restore := State.debit_fst_restore s t n
@[simp] theorem charged_hcw (s t n) : (charged s t n).hcw = s.hcw := State.debit_fst_hcw s t n
@[simp] theorem charged_tlb (s t n) : (charged s t n).tlb = s.tlb := State.debit_fst_tlb s t n
@[simp] theorem charged_tlbDrops (s t n) : (charged s t n).tlbDrops = s.tlbDrops := State.debit_fst_tlbDrops s t n
@[simp] theorem charged_peerAnswers (s t n) : (charged s t n).peerAnswers = s.peerAnswers := State.debit_fst_peerAnswers s t n
@[simp] theorem charged_homing (s t n) : (charged s t n).homing = s.homing := State.debit_fst_homing s t n
@[simp] theorem charged_moving (s t n) : (charged s t n).moving = s.moving := State.debit_fst_moving s t n
@[simp] theorem charged_locks (s t n) : (charged s t n).locks = s.locks := State.debit_fst_locks s t n
@[simp] theorem charged_generations (s t n) : (charged s t n).generations = s.generations := State.debit_fst_generations s t n
@[simp] theorem charged_rowOwner (s t n) : (charged s t n).rowOwner = s.rowOwner := State.debit_fst_rowOwner s t n
@[simp] theorem charged_saved (s t n) : (charged s t n).saved = s.saved := State.debit_fst_saved s t n
@[simp] theorem charged_instances (s t n) : (charged s t n).instances = s.instances := State.debit_fst_instances s t n
@[simp] theorem charged_dies (s t n) : (charged s t n).dies = s.dies := State.debit_fst_dies s t n

@[simp] theorem drawn_x (s t n) : (drawn s t n).x = t.x := by
  funext i; unfold Task.x; rw [drawn_regs]

/-! ### Bureaus, dies and traps -/

/-- Changing the Bureau of a die that is there puts the changed one in its place. -/
theorem updBureau_const {s d x} (h : s.die? d = some x) (f : Bureau → Bureau) : s.updBureau d f = onBureau s d (f x.bureau) := by
  unfold onBureau State.updBureau State.updDie State.die? at *
  congr 1
  generalize s.dies = l at h
  induction l generalizing d with
  | nil => rfl
  | cons y r ih => cases d with
    | zero => simp at h; subst h; rfl
    | succ d => simp at h; simp [modAt, ih h]

/-- Trap entry of the model and of the rules (R333). -/
theorem trapped_eq (b : Bureau) (c : BitVec 8) (v : Word) : b.enter c v true = trapped b c v := by
  unfold Bureau.enter trapped; simp

/-- A trap of a Bureau that moves. -/
theorem bureau_trap {s d x} (h : OnBureau s d x) (c : Trap) (sub addr val : Nat) :
   finish (s.takeTrap (.bureau d) c sub addr val) = onBureau s d (trapped x.bureau (BitVec.ofNat 8 c.code) (BitVec.ofNat 64 val)) := by
  rw [State.takeTrap_bureau, finish_nil, updBureau_const h.2.1, trapped_eq]

/-- The task after its draw stands where it stood. -/
theorem task_charged {s t n} (h : s.task? t.handle = some t) : (charged s t n).task? t.handle = some (drawn s t n) := by
  have h2 : (s.debit t n).1.task? (drawn s t n).handle = some t := by
    unfold State.task?; rw [State.debit_fst_tasks, drawn_handle]; exact h
  have := State.task?_putTask_self h2
  unfold charged; rw [drawn_handle] at this; exact this

/-- A trap of a task after its draw. -/
theorem trapAt_drawn {s t n} (h : s.task? t.handle = some t) (c : Trap) (sub : Nat) :
   (charged s t n).trapAt (drawn s t n) c sub = (charged s t n).retire { drawn s t n with gate := .stopped } .faulted c 0 0 sub t.pc.toNat := by
  unfold State.trapAt
  rw [drawn_handle, State.takeTrap_thread (task_charged h)]
  exact congrArg (fun a : Word => (charged s t n).retire { drawn s t n with gate := .stopped } .faulted c 0 0 sub a.toNat) (drawn_pc s t n)

/-- A die that was changed. -/
theorem die_upd {s:State} {d x} (h : s.die? d = some x) (f) : (s.updDie d f).die d = f x := by
  have := State.die?_updDie s d f d
  simp [h] at this
  unfold State.die; unfold State.updDie at *; unfold State.die? at this; simp [List.getD, this]

/-- A die that is there. -/
theorem die_eq {s:State} {d x} (h : s.die? d = some x) : s.die d = x := by
  unfold State.die; unfold State.die? at h; simp [List.getD, h]

/-- The die of a Bureau that was put in place. -/
theorem onB_die {s : State} {d x b} (h : s.die? d = some x) : (onBureau s d b).die? d = some { x with bureau := b } := by
  unfold onBureau State.updBureau; rw [State.die?_updDie]; simp [h]

/-- Two changes at one place are one. -/
theorem modAt_modAt {α} (l : List α) (d : Nat) (f g : α → α) : modAt (modAt l d f) d g = modAt l d (fun x => g (f x)) := by
  induction l generalizing d with
  | nil => rfl
  | cons y r ih => cases d <;> simp [modAt, ih]

/-- The later of two Bureaus put in one place stands. -/
theorem onB_onB (s : State) (d b c) : onBureau (onBureau s d b) d c = onBureau s d c := by
  unfold onBureau State.updBureau State.updDie; simp [modAt_modAt]

/-- Two changes that agree on the die change it alike. -/
theorem updDie_congr {s : State} {d x} (h : s.die? d = some x) {f g : Die → Die} (e : f x = g x) : s.updDie d f = s.updDie d g := by
  unfold State.updDie State.die? at *
  congr 1
  generalize s.dies = l at h
  induction l generalizing d with
  | nil => rfl
  | cons y r ih => cases d with
    | zero => simp at h; subst h; simp [modAt, e]
    | succ d => simp at h; simp [modAt, ih h]

/-- A change that leaves the die as it is changes nothing. -/
theorem updDie_same {s : State} {d x} (h : s.die? d = some x) {f : Die → Die} (e : f x = x) : s.updDie d f = s := by
  rw [updDie_congr h (g := id) e]
  have m : ∀ (l : List Die) k, modAt l k id = l := by
    intro l; induction l with
    | nil => intro k; rfl
    | cons y r ih => intro k; cases k <;> simp [modAt, ih]
  unfold State.updDie; rw [m]

end Sys2Proof.Claims
end

