-- ==== Sys2Proof/Laws/Rails.lean ====
section
/-! SUPPORT. What gating a rail leaves as it was: scratch, through every operation a hard trip runs (R100, R326). Each lemma
says of one operation that it writes no byte of scratch; the last two are what a claim about a trip or a shallow suspend cites. -/

namespace Sys2Proof.Machine

open Sys2Proof

/-- A fold whose step leaves scratch leaves it. -/
theorem foldl_scratch {α : Type} (f : State → α → State) (h : ∀ s x, (f s x).scratch = s.scratch) (l : List α) (s : State) :
    (l.foldl f s).scratch = s.scratch := by
  induction l generalizing s with
  | nil => rfl
  | cons x r ih => exact (ih _).trans (h s x)

/-! ### Bytes that land -/

@[simp] theorem State.setByte_scratch (s : State) (a : Nat) (b : Byte) : (s.setByte a b).scratch = s.scratch := by
  unfold State.setByte
  split <;> rfl

@[simp] theorem State.setBytes_scratch (s : State) (l : List (Nat × Byte)) : (s.setBytes l).scratch = s.scratch :=
  foldl_scratch (fun s (p : Nat × Byte) => s.setByte p.1 p.2) (fun s p => s.setByte_scratch p.1 p.2) l s

@[simp] theorem State.sweepPass_scratch (s : State) (l : List Nat) : (s.sweepPass l).scratch = s.scratch := by
  unfold State.sweepPass
  split <;> rfl

@[simp] theorem State.land_scratch (s : State) (l : List (Nat × Byte)) : (s.land l).scratch = s.scratch :=
  (State.sweepPass_scratch _ _).trans (s.setBytes_scratch l)

@[simp] theorem State.setHomed_scratch (s : State) (a : Nat) (l : List Byte) : (s.setHomed a l).scratch = s.scratch :=
  s.land_scratch _

/-! ### Cache and translation -/

@[simp] theorem State.rdcFill_scratch (s : State) (d l : Nat) : (s.rdcFill d l).scratch = s.scratch := by
  simp only [State.rdcFill]
  split <;> rfl

@[simp] theorem State.touch_scratch (s : State) (d a c : Nat) : (s.touch d a c).scratch = s.scratch := by
  simp only [State.touch]
  repeat' split
  · rfl
  · rfl
  · rfl
  · exact s.rdcFill_scratch _ _
  · rfl

@[simp] theorem State.touchHome_scratch (s : State) (a c : Nat) : (s.touchHome a c).scratch = s.scratch := by
  unfold State.touchHome
  split
  · exact s.touch_scratch _ _ _
  · rfl

@[simp] theorem State.publish_scratch (s : State) (c : Nat) (out : List Nat) (l : List (Nat × Byte)) :
    (s.publish c out l).scratch = s.scratch :=
  (foldl_scratch _ (fun s _ => s.touchHome_scratch _ c) _ _).trans (s.land_scratch l)

@[simp] theorem State.tableEntry_scratch (s : State) (d a i : Nat) : (s.tableEntry d a i).1.scratch = s.scratch := by
  simp only [State.tableEntry]
  repeat' split
  all_goals first | rfl | exact s.touch_scratch _ _ _

theorem State.walkLast_scratch (s : State) (d ctx va a : Nat) : (s.walkLast d ctx va a).1.scratch = s.scratch := by
  have h (s : State) (i : Nat) {p : State × Except XErr Nat} (e : s.tableEntry d a i = p) : p.1.scratch = s.scratch :=
    e ▸ s.tableEntry_scratch d a i
  simp only [State.walkLast]
  split
  next s' x e => exact h s _ e
  next s' x e =>
    split
    · exact h s _ e
    · split
      next s'' y e' =>
        split at e'
        · cases e'
        · exact (h s' _ e').trans (h s _ e)
      next s'' y e' =>
        split at e'
        · cases e'; exact h s _ e
        · exact (h s' _ e').trans (h s _ e)

theorem State.walkFrom_scratch (d ctx va : Nat) (l : List (Nat × Nat × Nat × Nat)) (s : State) (a : Nat) :
    (s.walkFrom d ctx va a l).1.scratch = s.scratch := by
  induction l generalizing s a with
  | nil => exact s.walkLast_scratch d ctx va a
  | cons x r ih =>
    obtain ⟨lv, hi, lo, z⟩ := x
    have h {p : State × Except XErr Nat} {i : Nat} (e : s.tableEntry d a i = p) : p.1.scratch = s.scratch :=
      e ▸ s.tableEntry_scratch d a i
    simp only [State.walkFrom]
    split
    next s' x e => exact h e
    next s' x e =>
      repeat' split
      all_goals first | exact h e | exact (ih _ _).trans (h e)

@[simp] theorem State.ctxRead_scratch (s : State) (d ctx : Nat) : (s.ctxRead d ctx).scratch = s.scratch := by
  unfold State.ctxRead
  split
  · exact s.touch_scratch _ _ _
  · rfl

@[simp] theorem State.walk_scratch (s : State) (d ctx va : Nat) : (s.walk d ctx va).1.scratch = s.scratch := by
  unfold State.walk
  repeat' split
  · rfl
  · rfl
  · exact s.ctxRead_scratch _ _
  · exact (State.walkFrom_scratch _ _ _ _ _ _).trans (s.ctxRead_scratch _ _)

@[simp] theorem State.translate_scratch (s : State) (d ctx va : Nat) : (s.translate d ctx va).1.scratch = s.scratch := by
  have h {s' : State} {p : State × Except XErr TlbEntry} (e : s'.walk d ctx va = p) : p.1.scratch = s'.scratch :=
    e ▸ s'.walk_scratch d ctx va
  simp only [State.translate]
  repeat' split
  all_goals first | rfl | (rename_i e; have e := h e; exact e)

@[simp] theorem State.access_scratch (s : State) (d ctx va : Nat) (k : AccKind) :
    (s.access d ctx va k).1.scratch = s.scratch := by
  have h {p : State × Except XErr TlbEntry} (e : s.translate d ctx va = p) : p.1.scratch = s.scratch :=
    e ▸ s.translate_scratch d ctx va
  simp only [State.access]
  split
  next e => exact h e
  next e =>
    split
    · exact h e
    · exact h e

/-! ### The channels and the fault ring -/

@[simp] theorem State.zeroPages_scratch (s : State) (a b : Chan) : (s.zeroPages a b).scratch = s.scratch :=
  foldl_scratch _ (fun s _ => s.setHomed_scratch _ _) _ s

@[simp] theorem State.devBytes_scratch (s : State) (c : Chan) (n : Nat) : (s.devBytes c n).1.scratch = s.scratch := by
  have h {p : State × Except AccErr (Nat × TlbEntry)} (e : s.access c.rdie c.ctx (s.cteAddr c.ctx c.num) .load = p) :
      p.1.scratch = s.scratch := e ▸ s.access_scratch _ _ _ _
  unfold State.devBytes
  split
  next e => exact h e
  next e => exact h e

@[simp] theorem State.writeBack_scratch (s : State) (c : Chan) (n : Nat) : (s.writeBack c n).scratch = s.scratch :=
  (State.publish_scratch _ _ _ _).trans (s.devBytes_scratch c n)

@[simp] theorem State.closeChan_scratch (s : State) (c : Chan) : (s.closeChan c).scratch = s.scratch := by
  simp [State.closeChan, State.setSlice]

@[simp] theorem State.releaseChan_scratch (s : State) (c : Chan) (h : Word) (w r : Bool) :
    (s.releaseChan c h w r).scratch = s.scratch := by
  unfold State.releaseChan
  extract_lets c'
  split
  · exact s.closeChan_scratch c'
  · rfl

@[simp] theorem State.leaveChannels_scratch (s : State) (h : Word) : (s.leaveChannels h).scratch = s.scratch := by
  refine foldl_scratch _ (fun s c => ?_) _ s
  split
  · rfl
  · exact State.releaseChan_scratch _ _ _ _ _

@[simp] theorem State.record_scratch (s : State) (t : Task) (f : Frozen) : (s.record t f).1.scratch = s.scratch := by
  simp only [State.record]
  split
  · rfl
  · rw [State.updDie_scratch, State.setHomed_scratch]

@[simp] theorem State.refillPorts_scratch (t : Task) (l done : List Frozen) (s : State) :
    (s.refillPorts t l done).1.scratch = s.scratch := by
  induction l generalizing s done with
  | nil => rfl
  | cons f r ih =>
    simp only [State.refillPorts]
    split
    · exact ih _ _
    · exact (ih _ _).trans (s.record_scratch t f)

@[simp] theorem State.refillRing_scratch (s : State) (d : Nat) (o : Option Word) : (s.refillRing d o).scratch = s.scratch := by
  refine foldl_scratch _ (fun s t => ?_) _ s
  split
  · rfl
  next t _ =>
    have h := State.refillPorts_scratch t t.frozen [] s
    revert h
    cases State.refillPorts s t t.frozen [] with
    | mk s' l => exact id

@[simp] theorem State.withdrawFaults_scratch (s : State) (t : Task) : (s.withdrawFaults t).scratch = s.scratch :=
  (State.refillRing_scratch _ _ _).trans (foldl_scratch _ (fun s _ => s.setHomed_scratch _ _) _ s)

/-! ### A task leaves its cells -/

@[simp] theorem State.discard_scratch (s : State) (t : Task) : (s.discard t).scratch = s.scratch :=
  (State.withdrawFaults_scratch _ _).trans (s.leaveChannels_scratch _)

@[simp] theorem State.nodeRequeued_scratch (s : State) (o : Option (Nat × Nat)) : (s.nodeRequeued o).scratch = s.scratch := by
  unfold State.nodeRequeued
  split <;> rfl

@[simp] theorem State.requeue_scratch (s : State) (t : Task) (n : Nat) (i f : Bool) :
    (s.requeue t n i f).scratch = s.scratch := by
  simp [State.requeue, State.newQRec, State.enqueue, State.dropTask, State.freeRows, State.refund]

/-- A hard trip's gating leaves scratch (R100). -/
@[simp] theorem State.dropCluster_scratch (s : State) (d c : Nat) : (s.dropCluster d c).scratch = s.scratch := by
  refine foldl_scratch _ (fun s t => ?_) _ s
  split
  · rfl
  · exact s.requeue_scratch _ _ _ _

/-- A suspend that ends shallow gates the logic rails and leaves scratch (R100, R329). -/
theorem State.powerDown_shallow_scratch {s : State} (h : s.powerDown.susp = .shallow) : s.powerDown.scratch = s.scratch := by
  have fold (l : List Chan) (s : State) : (l.foldl (fun s c => s.writeBack c c.state.code) s).scratch = s.scratch :=
    foldl_scratch (fun s (c : Chan) => s.writeBack c c.state.code) (fun s c => s.writeBack_scratch c c.state.code) l s
  unfold State.powerDown at h ⊢
  extract_lets at h ⊢
  split at h
  next e => rw [if_pos e]; exact (State.setHomed_scratch _ _ _).trans (fold _ _)
  next => split at h <;> cases h

end Sys2Proof.Machine
end

