-- ==== Sys2Proof/Safety.lean ====
section
/-! DEFINITION. What a safe run is: it meets no fault and no refusal. -/

namespace Sys2Proof

open Sys2Proof.Machine

/-- A run of `k` steps from a state goes on to the end. -/
def Safe : Nat → State → Prop
  | 0, _ => True
  | k + 1, s => ∃ t, step s = .next t ∧ Safe k t

end Sys2Proof
end

