-- ==== Sys2Proof/Tests/Slice0.lean ====
section
/-! SUPPORT. Tests: the well-formedness checks, decoding against words of the spec's encodings, single steps against the
spec's own numbers, and for each statement a state and operands that meet its hypotheses. -/

namespace Sys2Proof.Tests

set_option linter.unusedVariables false
set_option maxRecDepth 20000
set_option Elab.async false

open Sys2Proof Sys2Proof.Machine Sys2Proof.Claims

/-! ### Small states -/

/-- A Bureau with some registers. -/
def bur (rs : List (Reg × Word)) : Bureau :=
  { Bureau.reset with pc := 0x40, regs := rs.foldl (fun r p => writeReg r p.1 p.2) Bureau.reset.regs }

/-- The package at reset with Bureau 0 to move. -/
def onB (b : Bureau) : State := State.reset.updBureau 0 fun _ => b

/-- A started task with some registers: 100 packets declared, one engine, the lead cluster alone. -/
def tsk (rs : List (Reg × Word)) : Task :=
  { wordTask [] with pc := 0x40, regs := rs.foldl (fun r p => writeReg r p.1 p.2) (wordTask []).regs }

/-- Stage C with the first 16 MiB mapped in context 0. -/
def base : State :=
  { State.reset with
    stage := .c
    tlb := [{ ctx := 0, va := 0, size := 0x1000000, pa := 0, w := true, ch := false, io := false }] }

/-- A task alone in a package, and it moves. -/
def with1 (s : State) (t : Task) : State := { s with current := .thread t.handle, tasks := [t] }

theorem bur_moves (b : Bureau) (h : b.waiting = false) (w : b.homeWait = none := by rfl) : ∃ x, OnBureau (onB b) 0 x ∧ x.bureau = b :=
  ⟨{ Die.reset 0 with bureau := b }, ⟨rfl, rfl, h, w⟩, rfl⟩

theorem task_found (s : State) (t : Task) : (with1 s t).task? t.handle = some t := by
  simp [State.task?, with1]

theorem task_moves (s : State) (t : Task) (n : Nat) (h1 : t.ready = true) (h2 : t.gate = .running)
    (h3 : t.threadFrozen = false) (h4 : t.wait = none) (h5 : t.paid = false) (h6 : n ≤ t.account) :
    OnThread (with1 s t) t n :=
  ⟨rfl, task_found s t, h1, h2, h3, h4, h5, h6⟩

/-- A task with registers moves in any package. -/
theorem tsk_moves (s : State) (rs : List (Reg × Word)) (n : Nat) (h : n ≤ 1584) : OnThread (with1 s (tsk rs)) (tsk rs) n :=
  task_moves s (tsk rs) n rfl rfl rfl rfl rfl h

/-- Whether an access went well. -/
def okB {α ε : Type} : Except ε α → Bool
  | .ok _ => true
  | .error _ => false

theorem ok_of {α ε : Type} (r : State × Except ε α) (h : okB r.2 = true) : ∃ u x, r = (u, .ok x) := by
  obtain ⟨u, x⟩ := r
  cases x with
  | ok x => exact ⟨u, x, rfl⟩
  | error e => cases h


/-! ### What meets the hypotheses: scalar instructions, branches, loads and stores -/

theorem witness_ScalarResults :
    (∃ d len f, scalar (.add 1 2 3) = some (d, len, f)) ∧ (∃ d len f, scalar (.li 31 0x80000000) = some (d, len, f)) ∧
    (∃ s k x, OnBureau s k x) ∧ (∃ s t, OnThread s t 1 ∧ t.account = 1584) :=
  ⟨⟨_, _, _, rfl⟩, ⟨_, _, _, rfl⟩, ⟨_, _, _, (bur_moves (bur []) rfl).choose_spec.1⟩, ⟨_, _, tsk_moves base [] 1 (by decide), rfl⟩⟩

theorem witness_BranchResults :
    (∃ a b off c, branch (.beq 1 2 5) = some (a, b, off, c) ∧ c 7 7 = true) ∧
    (∃ s x, OnBureau s 0 x ∧ x.bureau.pc = 0x40) ∧ ∃ s t, OnThread s t 1 :=
  ⟨⟨_, _, _, _, rfl, rfl⟩, ⟨onB (bur []), _, ⟨rfl, rfl, rfl, rfl⟩, rfl⟩, ⟨_, _, tsk_moves base [] 1 (by decide)⟩⟩

/-- The last target that a Bureau reaches, and the last that a task reaches. -/
theorem witness_JumpResults :
    ∃ d g, jump (.jalr 5 1 0) = some (d, g) ∧
      (∃ x, OnBureau (onB (bur [(1, 65532)])) 0 x ∧ ¬ badTarget (g x.bureau.pc x.bureau.x) ∧
        (g x.bureau.pc x.bureau.x).toNat = 65532) ∧
      ∃ s t, OnThread s t 1 ∧ ¬ badTarget (g t.pc t.x) ∧ (g t.pc t.x).toNat = 2 ^ 52 - 4 :=
  ⟨_, _, rfl, ⟨_, ⟨rfl, rfl, rfl, rfl⟩, by unfold badTarget; decide +kernel, by decide +kernel⟩,
    ⟨_, _, tsk_moves base [(1, 0xFFFFFFFFFFFFC)] 1 (by decide), by unfold badTarget; decide +kernel, by decide +kernel⟩⟩

/-- The first target of each kind that traps: misaligned, just beyond private memory, at 2^52. -/
theorem witness_JumpTraps :
    ∃ d g, jump (.jalr 5 1 0) = some (d, g) ∧
      (∃ x, OnBureau (onB (bur [(1, 2)])) 0 x ∧ (g x.bureau.pc x.bureau.x).toNat % 4 ≠ 0) ∧
      (∃ x, OnBureau (onB (bur [(1, 65536)])) 0 x ∧ (g x.bureau.pc x.bureau.x).toNat % 4 = 0 ∧
        (g x.bureau.pc x.bureau.x).toNat = 65536) ∧
      ∃ s t, OnThread s t 1 ∧ badTarget (g t.pc t.x) ∧ (g t.pc t.x).toNat = 2 ^ 52 :=
  ⟨_, _, rfl, ⟨_, ⟨rfl, rfl, rfl, rfl⟩, by decide +kernel⟩,
    ⟨_, ⟨rfl, rfl, rfl, rfl⟩, by decide +kernel, by decide +kernel⟩,
    ⟨_, _, tsk_moves base [(1, 0x10000000000000)] 1 (by decide), by unfold badTarget; decide +kernel, by decide +kernel⟩⟩

/-- The last doubleword of private memory, and the last of a cell. -/
theorem witness_ScratchLoads :
    ∃ n sg d a off, loadForm (.ldsD 5 1 0) = some (.scratch, n, sg, d, a, off) ∧
      (∃ x, OnBureau (onB (bur [(1, 65528)])) 0 x ∧ effective x.bureau.x a off % n = 0 ∧
        effective x.bureau.x a off = 65528) ∧
      ∃ s t, OnThread s t 1 ∧ scratchReach t (effective t.x a off) ∧ effective t.x a off % n = 0 ∧
        effective t.x a off = 98296 ∧ t.nestTouches true (effective t.x a off) n = false :=
  ⟨_, _, _, _, _, rfl, ⟨_, ⟨rfl, rfl, rfl, rfl⟩, by decide +kernel, by decide +kernel⟩,
    ⟨_, _, tsk_moves base [(1, 98296)] 1 (by decide), by unfold scratchReach; decide +kernel, by decide +kernel,
      by decide +kernel, by decide +kernel⟩⟩

theorem witness_ScratchStores :
    ∃ n v a off, storeForm (.stsB 5 1 0) = some (.scratch, n, v, a, off) ∧
      (∃ x, OnBureau (onB (bur [(1, 65535)])) 0 x ∧ effective x.bureau.x a off % n = 0 ∧
        effective x.bureau.x a off = 65535) ∧
      ∃ s t, OnThread s t 1 ∧ scratchReach t (effective t.x a off) ∧ effective t.x a off % n = 0 ∧
        effective t.x a off = 98303 ∧ t.nestTouches true (effective t.x a off) n = false :=
  ⟨_, _, _, _, rfl, ⟨_, ⟨rfl, rfl, rfl, rfl⟩, by decide +kernel, by decide +kernel⟩,
    ⟨_, _, tsk_moves base [(1, 98303)] 1 (by decide), by unfold scratchReach; decide +kernel, by decide +kernel,
      by decide +kernel, by decide +kernel⟩⟩

/-- Without an enabled window every address of the memory map may be reached. -/
theorem reach_of {s : State} {a : Nat} (st : Bool) (h : s.hasHome a = true) (hw : s.winOf a = none) : physReach s a st :=
  ⟨h, fun w e => by rw [hw] at e; cases e⟩

theorem witness_GlobalLoads :
    ∃ n sg d a off, loadForm (.ldgW 5 1 0) = some (.glob, n, sg, d, a, off) ∧
      (∃ x, OnBureau (onB (bur [(1, 0x5FFFFFFFFC)])) 0 x ∧ effective x.bureau.x a off % n = 0 ∧
        physReach (onB (bur [(1, 0x5FFFFFFFFC)])) (effective x.bureau.x a off) false) ∧
      ∃ s t u t' l, OnThread s t 1 ∧ effective t.x a off % n = 0 ∧ effective t.x a off < 2 ^ 52 ∧
        (charged s t 1).nestTouches (drawn s t 1) (effective t.x a off) n = false ∧
        (charged s t 1).viewRead (drawn s t 1) 0 (effective t.x a off) n = (u, .ok (t', l)) := by
  refine ⟨_, _, _, _, _, rfl, ⟨_, ⟨rfl, rfl, rfl, rfl⟩, by decide +kernel, reach_of _ (by decide +kernel) (by decide +kernel)⟩, ?_⟩
  have e := ok_of ((charged (with1 base (tsk [(1, 0xFFFFFC)])) (tsk [(1, 0xFFFFFC)]) 1).viewRead
    (drawn (with1 base (tsk [(1, 0xFFFFFC)])) (tsk [(1, 0xFFFFFC)]) 1) 0 0xFFFFFC 4) (by decide +kernel)
  obtain ⟨u, ⟨t', l⟩, e⟩ := e
  exact ⟨_, _, u, t', l, tsk_moves base [(1, 0xFFFFFC)] 1 (by decide), by decide +kernel, by decide +kernel,
    by decide +kernel, e⟩

theorem witness_GlobalStores :
    ∃ n v a off, storeForm (.stgD 5 1 0) = some (.glob, n, v, a, off) ∧
      (∃ x, OnBureau (onB (bur [(1, 0x1000)])) 0 x ∧ effective x.bureau.x a off % n = 0 ∧
        physReach (onB (bur [(1, 0x1000)])) (effective x.bureau.x a off) true) ∧
      ∃ s t u t', OnThread s t 1 ∧ effective t.x a off % n = 0 ∧ t.crec.rohint = false ∧ effective t.x a off < 2 ^ 52 ∧
        (charged s t 1).nestTouches (drawn s t 1) (effective t.x a off) n = false ∧
        (charged s t 1).viewWrite (drawn s t 1) 0 (effective t.x a off) (lowBytes n (t.x v)) = (u, .ok t') := by
  refine ⟨_, _, _, _, rfl, ⟨_, ⟨rfl, rfl, rfl, rfl⟩, by decide +kernel, reach_of _ (by decide +kernel) (by decide +kernel)⟩, ?_⟩
  have e := ok_of ((charged (with1 base (tsk [(1, 0x1000), (5, 9)])) (tsk [(1, 0x1000), (5, 9)]) 1).viewWrite
    (drawn (with1 base (tsk [(1, 0x1000), (5, 9)])) (tsk [(1, 0x1000), (5, 9)]) 1) 0 0x1000
    (lowBytes 8 ((tsk [(1, 0x1000), (5, 9)]).x 5))) (by decide +kernel)
  obtain ⟨u, t', e⟩ := e
  exact ⟨_, _, u, t', tsk_moves base [(1, 0x1000), (5, 9)] 1 (by decide), by decide +kernel, by decide +kernel,
    by decide +kernel, by decide +kernel, e⟩

theorem witness_GlobalStoreFrame :
    ∃ n v a off s t u t', storeForm (.stgD 5 1 0) = some (.glob, n, v, a, off) ∧ OnThread s t 1 ∧
      effective t.x a off % n = 0 ∧ t.crec.rohint = false ∧ effective t.x a off < 2 ^ 52 ∧
      (charged s t 1).nestTouches (drawn s t 1) (effective t.x a off) n = false ∧
      (charged s t 1).viewWrite (drawn s t 1) 0 (effective t.x a off) (lowBytes n (t.x v)) = (u, .ok t') := by
  obtain ⟨n, v, a, off, h, -, s, t, u, t', r⟩ := witness_GlobalStores
  exact ⟨n, v, a, off, s, t, u, t', h, r⟩

theorem witness_AlignmentFirst :
    ∃ n a off, accessForm (.ldgH 5 1 0) = some (.glob, n, a, off) ∧
      (∃ x, OnBureau (onB (bur [(1, 65537)])) 0 x ∧ effective x.bureau.x a off % n ≠ 0) ∧
      ∃ s t, OnThread s t 1 ∧ effective t.x a off % n ≠ 0 :=
  ⟨_, _, _, rfl, ⟨_, ⟨rfl, rfl, rfl, rfl⟩, by decide +kernel⟩, ⟨_, _, tsk_moves base [(1, 1)] 1 (by decide), by decide +kernel⟩⟩

/-- The first byte beyond a cell, and a misaligned one within it. -/
theorem witness_ScratchTraps :
    ∃ n a off, accessForm (.stsD 5 1 0) = some (.scratch, n, a, off) ∧
      (∃ s t, OnThread s t 1 ∧ ¬ scratchReach t (effective t.x a off) ∧ effective t.x a off = 98304) ∧
      ∃ s t, OnThread s t 1 ∧ scratchReach t (effective t.x a off) ∧ effective t.x a off % n ≠ 0 :=
  ⟨_, _, _, rfl, ⟨_, _, tsk_moves base [(1, 98304)] 1 (by decide), by unfold scratchReach; decide +kernel, by decide +kernel⟩,
    ⟨_, _, tsk_moves base [(1, 98297)] 1 (by decide), by unfold scratchReach; decide +kernel, by decide +kernel⟩⟩

/-- A package with window 0 over 2 MiB at 2^51, its link up or not, writable or not, and a Bureau that addresses it. -/
def facing (up wr : Bool) : State :=
  { onB (bur [(1, 0x8000000000000)]) with
    cxlCache := up, hcw := State.reset.hcw.set 0 { HWin.reset with dev := 0x8000000000000, en := true, wr := wr } }

/-- The first address beyond private memory, one without a home, a window whose link is down, and one that takes no stores. -/
theorem witness_BureauAccessTraps :
    (∃ n a off x, accessForm (.ldsB 5 1 0) = some (.scratch, n, a, off) ∧ OnBureau (onB (bur [(1, 65536)])) 0 x ∧
      effective x.bureau.x a off % n = 0 ∧ effective x.bureau.x a off = 65536) ∧
    (∃ n a off x, accessForm (.ldgD 5 1 0) = some (.glob, n, a, off) ∧ OnBureau (onB (bur [(1, 0x8000000000000)])) 0 x ∧
      effective x.bureau.x a off % n = 0 ∧ (onB (bur [(1, 0x8000000000000)])).hasHome (effective x.bureau.x a off) = false) ∧
    (∃ n a off x w, accessForm (.ldgD 5 1 0) = some (.glob, n, a, off) ∧ OnBureau (facing false true) 0 x ∧
      effective x.bureau.x a off % n = 0 ∧ (facing false true).hasHome (effective x.bureau.x a off) = true ∧
      (facing false true).winOf (effective x.bureau.x a off) = some w ∧ (facing false true).cxlCache = false) ∧
    ∃ n a off x w, accessForm (.stgD 5 1 0) = some (.glob, n, a, off) ∧ OnBureau (facing true false) 0 x ∧
      effective x.bureau.x a off % n = 0 ∧ (facing true false).hasHome (effective x.bureau.x a off) = true ∧
      (facing true false).winOf (effective x.bureau.x a off) = some w ∧ (facing true false).cxlCache = true ∧ w.wr = false ∧
      (storeForm (.stgD 5 1 0)).isSome = true :=
  ⟨⟨_, _, _, _, rfl, ⟨rfl, rfl, rfl, rfl⟩, by decide +kernel, by decide +kernel⟩,
    ⟨_, _, _, _, rfl, ⟨rfl, rfl, rfl, rfl⟩, by decide +kernel, by decide +kernel⟩,
    ⟨_, _, _, _, _, rfl, ⟨rfl, rfl, rfl, rfl⟩, by decide +kernel, by decide +kernel, rfl, rfl⟩,
    ⟨_, _, _, _, _, rfl, ⟨rfl, rfl, rfl, rfl⟩, by decide +kernel, by decide +kernel, rfl, rfl, rfl, rfl⟩⟩
/-! ### What meets the hypotheses: decoding, steps and the system instructions -/

theorem witness_DecodeEncode : ∃ i : Instr, i.wf = true ∧ encodeBytes i ≠ none :=
  ⟨.mxArm 7 1 2, rfl, by decide +kernel⟩

theorem witness_DecodeCanonical : ∃ bs i n, decode bs = .ok (i, n) ∧ bs.length = 4 :=
  ⟨leBytes (0x00326281 : BitVec 32) 4, .add 5 6 25, 4, by decide +kernel, rfl⟩

/-- A Bureau with some bytes at its program counter. -/
def code (bs : List Byte) (pc : Word) : Bureau := { bur [] with priv := Memory.write [] pc.toNat bs, pc := pc }

/-- A task with some bytes at its program counter. -/
def codeTask (bs : List Byte) : Task := { tsk [] with snap := Memory.write [] 0x40 bs }

/-- A task with some bytes at a program counter. -/
def lateTask (pc : Nat) (bs : List Byte) : Task := { tsk [] with pc := BitVec.ofNat 64 pc, snap := Memory.write [] pc bs }

/-- A package whose context 0 has a table without entries. -/
def unmapped : State := { base with tlb := [], ctxBase := 0x100000, ctxCount := 1, mem := Memory.write [] 0x100008 [1] }

/-- Bytes at the last place below 65,536 and the first above; in a task the zero word, a misplaced `nest`, a first word that misses, and a
second word beyond what is mapped. -/
theorem witness_StepRunsDecoded :
    (∃ x i n, OnBureau (onB (code [0x81, 0x62, 0x32, 0x00] 65532)) 0 x ∧
      decode (x.bureau.priv.read x.bureau.pc.toNat n) = .ok (i, n) ∧ x.bureau.pc.toNat + n = 65536) ∧
    (∃ x, OnBureau (onB (code [0x11, 0, 0, 0] 0x44)) 0 x ∧ x.bureau.pc.toNat + 32 ≤ 65536 ∧
      wordAt (x.bureau.priv.read x.bureau.pc.toNat 4) 32 4 &&& 0x7F = 0x11 ∧ x.bureau.pc.toNat % 32 ≠ 0) ∧
    (∃ x e, OnBureau (onB (code [0, 0, 0, 0] 0x44)) 0 x ∧ x.bureau.pc.toNat + 32 ≤ 65536 ∧
      wordAt (x.bureau.priv.read x.bureau.pc.toNat 4) 32 4 &&& 0x7F ≠ 0x11 ∧
      decode (x.bureau.priv.read x.bureau.pc.toNat 8) = .error e) ∧
    (∃ x, OnBureau (onB (code [] 65533)) 0 x ∧ x.bureau.pc.toNat + 4 = 65537) ∧
    (∃ s t u u' i n ps qs, OnThread s t 0 ∧ s.accessRange t.die t.crec.ctx .fetch t.pc.toNat 4 = (u, .ok ps) ∧
      u.accessRange t.die t.crec.ctx .fetch (t.pc.toNat + 4) (n - 4) = (u', .ok qs) ∧
      decode (ps.map (fun p => t.snapByte u p.1) ++ qs.map (fun p => t.snapByte u' p.1)) = .ok (i, n) ∧
      (n = 32 → t.pc.toNat % 32 = 0)) ∧
    (∃ s t u ps, OnThread s t 0 ∧ s.accessRange t.die t.crec.ctx .fetch t.pc.toNat 4 = (u, .ok ps) ∧ t.pc.toNat % 32 ≠ 0 ∧
      wordAt (ps.map fun p => t.snapByte u p.1) 32 4 &&& 0x7F = 0x11) ∧
    (∃ s t u u' ps qs e, OnThread s t 0 ∧ s.accessRange t.die t.crec.ctx .fetch t.pc.toNat 4 = (u, .ok ps) ∧
      (wordAt (ps.map fun p => t.snapByte u p.1) 32 4 &&& 0x7F = 0x11 → t.pc.toNat % 32 = 0) ∧
      u.accessRange t.die t.crec.ctx .fetch (t.pc.toNat + 4)
        (instrLength (wordAt (ps.map fun p => t.snapByte u p.1) 32 4) - 4) = (u', .ok qs) ∧
      decode (ps.map (fun p => t.snapByte u p.1) ++ qs.map (fun p => t.snapByte u' p.1)) = .error e) ∧
    (∃ s t v va, OnThread s t 0 ∧ s.accessRange t.die t.crec.ctx .fetch t.pc.toNat 4 = (v, .error (.miss, va))) ∧
    (∃ s t v f va u ps, OnThread s t 0 ∧ f ≠ .miss ∧ s.accessRange t.die t.crec.ctx .fetch t.pc.toNat 4 = (u, .ok ps) ∧
      (wordAt (ps.map fun p => t.snapByte u p.1) 32 4 &&& 0x7F = 0x11 → t.pc.toNat % 32 = 0) ∧
      u.accessRange t.die t.crec.ctx .fetch (t.pc.toNat + 4)
        (instrLength (wordAt (ps.map fun p => t.snapByte u p.1) 32 4) - 4) = (v, .error (f, va))) ∧
    (∃ s : State, s.schedule = []) ∧
    (∃ (s : State) (a : Agent) (r : List Turn), s.schedule = .agent a :: r ∧ s.present a = true) ∧
    ∃ (s : State) (i : Instr) (r : List Turn), s.schedule = .event i :: r ∧ encode i = none := by
  refine ⟨⟨_, .add 5 6 25, 4, ⟨rfl, rfl, rfl, rfl⟩, by decide +kernel, by decide +kernel⟩,
    ⟨_, ⟨rfl, rfl, rfl, rfl⟩, by decide +kernel, by decide +kernel, by decide +kernel⟩,
    ⟨_, _, ⟨rfl, rfl, rfl, rfl⟩, by decide +kernel, by decide +kernel, rfl⟩,
    ⟨_, ⟨rfl, rfl, rfl, rfl⟩, by decide +kernel⟩,
    ⟨with1 base (codeTask [0x81, 0x62, 0x32, 0x00]), codeTask [0x81, 0x62, 0x32, 0x00], _, _, .add 5 6 25, 4, _, _,
      task_moves _ _ _ rfl rfl rfl rfl rfl (by decide), rfl, rfl, ?_, by decide⟩,
    ⟨_, lateTask 0x44 [0x11], _, _, task_moves base _ _ rfl rfl rfl rfl rfl (by decide), rfl, by decide +kernel, by decide +kernel⟩,
    ⟨_, codeTask [], _, _, _, _, _, task_moves base _ _ rfl rfl rfl rfl rfl (by decide), rfl, by decide +kernel, rfl, rfl⟩,
    ⟨with1 unmapped (tsk []), tsk [], _, 0x40, task_moves _ _ _ rfl rfl rfl rfl rfl (by decide), rfl⟩,
    ⟨_, lateTask 0xFFFFFC [0x83, 3], _, .bad, 0x1000000, _, _, task_moves base _ _ rfl rfl rfl rfl rfl (by decide), by decide, rfl,
      by decide +kernel, rfl⟩,
    ⟨State.reset, rfl⟩, ⟨{ State.reset with schedule := [.agent (.bureau 3)] }, _, _, rfl, by decide +kernel⟩,
    ⟨{ State.reset with schedule := [.event .budgetRingTurn] }, _, _, rfl, by decide +kernel⟩⟩
  decide +kernel

theorem witness_StepKeepsSound : ∃ s s', Sound s ∧ step s = .next s' ∧ s.schedule ≠ [] := by
  refine ⟨{ State.reset with schedule := [.event .bootGo] }, _, ⟨rfl, rfl, rfl, rfl, fun t h => (nomatch h),
    ⟨rfl, ?_, fun y h => (nomatch h), fun l h => (nomatch h)⟩, fun w h => (nomatch h), fun w h => (nomatch h)⟩, rfl, by decide⟩
  decide +kernel

/-- A Bureau in which a source is pending: the doorbell rang. -/
def rang (b : Bureau) : State := (onB b).updDie 0 fun x => { x with rung := true }

theorem witness_TrapInstruction : (∃ s x, OnBureau s 0 x) ∧ ∃ s t, OnThread s t 1 :=
  ⟨⟨onB (bur []), _, rfl, rfl, rfl, rfl⟩, ⟨_, _, tsk_moves base [] 1 (by decide)⟩⟩

theorem witness_PrivilegedInTask :
    ∃ s t, OnThread s t 0 ∧ registerNamed (.sysRd 5 0x100) = some 0x100 ∧ regFields 0x100 ≠ none ∧
      registerNamed (.sysWr 0xFFF 5) = some 0xFFF ∧ regFields 0xFFF = none :=
  ⟨_, _, tsk_moves base [] 0 (by decide), rfl, by decide, rfl, by decide⟩

theorem witness_TaskGroupsOnBureau :
    ∃ w ws s x, encode (.chOpen 5 6) = some (w :: ws) ∧ w.toNat % 128 = 0x17 ∧ OnBureau s 0 x :=
  ⟨_, _, onB (bur []), _, rfl, by decide +kernel, rfl, rfl, rfl, rfl⟩

/-- Registers at the ends of the range that a task has, and just outside it. -/
theorem witness_RegisterReads :
    (∃ s x, OnBureau s 0 x) ∧ regFields 0x121 ≠ none ∧ regFields 0x140 ≠ none ∧ regFields 0x12F = none ∧
    plainRegister (Die.reset 0) 5 0x112 = some 5 ∧ ∃ s t, OnThread s t 1 :=
  ⟨⟨onB (bur []), _, rfl, rfl, rfl, rfl⟩, by decide, by decide, by decide, rfl, ⟨_, _, tsk_moves base [] 1 (by decide)⟩⟩

theorem witness_RegisterWrites :
    (∃ num d a c f rw get put s x, registerForm (.sysSet 5 0x304 6) = some (num, d, a, c, f) ∧
      bureauRegister num.toNat = some (rw, get, put) ∧ OnBureau s 0 x) ∧
    (∃ d a c f s t, registerForm (.sysClr 5 0x137 6) = some (BitVec.ofNat 12 (0x130 + (7 : Fin 8).val), d, a, c, f) ∧
      OnThread s t 1) ∧
    ∃ d a c f s t, registerForm (.sysWr 0x138 6) = some (0x138, d, a, c, f) ∧ OnThread s t 1 :=
  ⟨⟨_, _, _, _, _, _, _, _, onB (bur []), _, rfl, rfl, rfl, rfl, rfl, rfl⟩,
    ⟨_, _, _, _, _, _, rfl, tsk_moves base [] 1 (by decide)⟩, ⟨_, _, _, _, _, _, rfl, tsk_moves base [] 1 (by decide)⟩⟩

/-- A Bureau on whose die a fault record waits: FAULT alone is pending. -/
def faulty (b : Bureau) : State :=
  (onB b).updDie 0 fun x => { x with faults := [{ index := 0, handle := 1, kind := 1, place := 0, state := 0 }] }

/-- HOST pending alone is bit 2, FAULT alone bit 3. -/
theorem witness_InterruptsAndReturn :
    (∃ s x, OnBureau s 0 x) ∧
    (∃ x, OnBureau (onB { bur [] with mask := 15 }) 0 x ∧ x.pend (onB (bur [])).now &&& x.bureau.mask = 0) ∧
    (∃ x, OnBureau (rang { bur [] with mask := 4 }) 0 x ∧ x.pend (rang (bur [])).now &&& x.bureau.mask ≠ 0 ∧
      x.bureau.ie = false) ∧
    (∃ x, OnBureau (rang { bur [] with mask := 4, ie := true }) 0 x ∧ x.bureau.ie = true ∧
      (x.pend (rang (bur [])).now &&& x.bureau.mask).getLsbD 2 = true ∧
      ∀ j < 2, (x.pend (rang (bur [])).now &&& x.bureau.mask).getLsbD j = false) ∧
    (∃ x, OnBureau (faulty { bur [] with mask := 15, ie := true }) 0 x ∧ x.bureau.ie = true ∧
      x.pend (faulty (bur [])).now &&& x.bureau.mask = 8) ∧
    (∃ x, (rang { bur [] with ie := true, mask := 15 }).die? 0 = some x ∧ x.bureau.ie = true ∧
      (x.pend 0 &&& x.bureau.mask).getLsbD 2 = true ∧ ∀ j < 2, (x.pend 0 &&& x.bureau.mask).getLsbD j = false) ∧
    (∃ x, (faulty { bur [] with ie := true, mask := 8, waiting := true }).die? 0 = some x ∧ x.bureau.ie = true ∧
      x.bureau.waiting = true ∧ x.pend 0 &&& x.bureau.mask = 8) ∧
    ∃ x, (rang { bur [] with waiting := true, mask := 4 }).die? 0 = some x ∧ x.bureau.ie = false ∧
      x.bureau.waiting = true ∧ x.pend 0 &&& x.bureau.mask ≠ 0 :=
  ⟨⟨onB (bur []), _, rfl, rfl, rfl, rfl⟩, ⟨_, ⟨rfl, rfl, rfl, rfl⟩, by decide +kernel⟩,
    ⟨_, ⟨rfl, rfl, rfl, rfl⟩, by decide +kernel, rfl⟩, ⟨_, ⟨rfl, rfl, rfl, rfl⟩, rfl, by decide +kernel, by decide +kernel⟩,
    ⟨_, ⟨rfl, rfl, rfl, rfl⟩, rfl, by decide +kernel⟩, ⟨_, rfl, rfl, by decide +kernel, by decide +kernel⟩,
    ⟨_, rfl, rfl, rfl, by decide +kernel⟩, ⟨_, rfl, rfl, rfl, by decide +kernel⟩⟩
/-! ### What meets the hypotheses: regions, reductions, charge, timelines -/

/-- A lock that the first task of cluster 0 holds on line 32. -/
def lockHeld (h : Word) : Lock := { line := 32, holder := some h, work := [], waiters := [] }

/-- Another task, older by its timestamp, with the handle of slot 1. -/
def rival : Task := { tsk [] with handle := mkHandle 0 0 1 1 }

theorem witness_AtomicBegin :
    (∃ s t u pa e, OnThread s t 1 ∧ t.regionOpen = false ∧ t.crec.rohint = false ∧ (t.x 1).toNat < 2 ^ 52 ∧
      (charged s t 1).access t.die t.crec.ctx (t.x 1).toNat .store = (u, .ok (pa, e)) ∧ e.io = false ∧
      t.lockLine = some (pa / 128)) ∧
    (∃ s t u pa e, OnThread s t 1 ∧
      (charged s t 1).access t.die t.crec.ctx (t.x 1).toNat .store = (u, .ok (pa, e)) ∧ e.io = false ∧
      t.lockLine = some 5 ∧ 5 ≠ pa / 128) ∧
    (∃ s t u pa e, OnThread s t 1 ∧
      (charged s t 1).access t.die t.crec.ctx (t.x 1).toNat .store = (u, .ok (pa, e)) ∧ e.io = false ∧ t.lockLine = none ∧
      u.lock? (pa / 128) = none) ∧
    ∃ (t v : Task) (s u : State) (e : TlbEntry), s = { with1 { base with locks := [lockHeld v.handle] } t with tasks := [t, v] } ∧
      OnThread s t 1 ∧ (charged s t 1).access t.die t.crec.ctx (t.x 1).toNat .store = (u, .ok (0x1000, e)) ∧ e.io = false ∧
      t.lockLine = none ∧ u.lock? 32 = some (lockHeld v.handle) ∧ v.handle ≠ t.handle ∧ u.anyTask? v.handle = some v :=
  ⟨⟨_, _, _, 0x1000, _, task_moves base { tsk [(1, 0x1000)] with lockLine := some 32 } 1 rfl rfl rfl rfl rfl (by decide),
      rfl, rfl, by decide, rfl, rfl, rfl⟩,
    ⟨_, _, _, 0x1000, _, task_moves base { tsk [(1, 0x1000)] with lockLine := some 5 } 1 rfl rfl rfl rfl rfl (by decide),
      rfl, rfl, rfl, by decide⟩,
    ⟨_, _, _, 0x1000, _, tsk_moves base [(1, 0x1000)] 1 (by decide), rfl, rfl, rfl, rfl⟩,
    ⟨tsk [(1, 0x1000)], rival, _, _, _, rfl, ⟨rfl, rfl, rfl, rfl, rfl, rfl, rfl, by decide⟩, rfl, rfl, rfl, rfl,
      by decide, rfl⟩⟩

/-- The eighth operation of a region. -/
theorem witness_AtomicAccess :
    (∃ a n st v s t u e l, atomicForm (.arStD 1 2) = some (a, n, st, v) ∧ OnThread s t 1 ∧ t.regionOpen = true ∧
      (t.x a).toNat % n = 0 ∧ (charged s t 1).translate t.die t.crec.ctx (t.x a).toNat = (u, .ok e) ∧
      t.lockLine = some (e.phys (t.x a).toNat / 128) ∧ t.arOps = 7 ∧ u.lock? (e.phys (t.x a).toNat / 128) = some l) ∧
    ∃ s t, OnThread s t 1 ∧ t.regionOpen = true :=
  ⟨⟨_, _, _, _, _, _, _, _, _, rfl,
      task_moves { base with locks := [lockHeld (tsk []).handle] }
        { tsk [(1, 0x1000)] with lockLine := some 32, regionOpen := true, arOps := 7 } 1 rfl rfl rfl rfl rfl (by decide),
      rfl, by decide +kernel, rfl, rfl, rfl, rfl⟩,
    ⟨_, _, task_moves base { tsk [] with regionOpen := true } 1 rfl rfl rfl rfl rfl (by decide), rfl⟩⟩

/-- Outside a region, a misaligned address, a ninth operation, another line. -/
theorem witness_AtomicTraps :
    ∃ a n st v, atomicForm (.arLdW 2 1) = some (a, n, st, v) ∧
      (∃ s t, OnThread s t 1 ∧ t.regionOpen = false) ∧
      (∃ s t, OnThread s t 1 ∧ t.regionOpen = true ∧ (t.x a).toNat % n ≠ 0) ∧
      (∃ s t u e, OnThread s t 1 ∧ t.regionOpen = true ∧ (t.x a).toNat % n = 0 ∧
        (charged s t 1).translate t.die t.crec.ctx (t.x a).toNat = (u, .ok e) ∧ t.arOps = 8) ∧
      ∃ s t u e, OnThread s t 1 ∧ t.regionOpen = true ∧ (t.x a).toNat % n = 0 ∧
        (charged s t 1).translate t.die t.crec.ctx (t.x a).toNat = (u, .ok e) ∧ t.arOps < 8 ∧
        t.lockLine ≠ some (e.phys (t.x a).toNat / 128) :=
  ⟨_, _, _, _, rfl, ⟨_, _, tsk_moves base [] 1 (by decide), rfl⟩,
    ⟨_, _, task_moves base { tsk [(1, 0x1002)] with regionOpen := true } 1 rfl rfl rfl rfl rfl (by decide), rfl,
      by decide +kernel⟩,
    ⟨_, _, _, _, task_moves base { tsk [(1, 0x1000)] with regionOpen := true, arOps := 8 } 1 rfl rfl rfl rfl rfl (by decide),
      rfl, by decide +kernel, rfl, rfl⟩,
    ⟨_, _, _, _, task_moves base { tsk [(1, 0x1000)] with regionOpen := true, lockLine := some 5 } 1 rfl rfl rfl rfl rfl
      (by decide), rfl, by decide +kernel, rfl, by decide, by decide +kernel⟩⟩

/-- A reduction that is held on the same doubleword, or on half of it. -/
def held (w : Nat) : Reduction := { op := 1, addr := 0x1000, width := w, operand := 3, cell := none }

theorem witness_Reductions :
    (∃ op n a b s t u pa e t1, reduction (.redAddD 1 2) = some (op, n, a, b) ∧ OnThread s t 1 ∧ t.crec.rohint = false ∧
      (t.x a).toNat % n = 0 ∧ (t.x a).toNat < 2 ^ 52 ∧
      (charged s t 1).access t.die t.crec.ctx (t.x a).toNat .store = (u, .ok (pa, e)) ∧ e.io = false ∧ t.reds = [held 8] ∧
      (∀ r ∈ t.reds, r.addr = pa ∧ r.width = n) ∧ (0, pa / 128) ∉ t.redLines ∧
      u.growShare (drawn s t 1) 0 128 = .ok t1) ∧
    ∃ op n a b s t u pa e, reduction (.redAddD 1 2) = some (op, n, a, b) ∧ OnThread s t 1 ∧ t.crec.rohint = false ∧
      (t.x a).toNat % n = 0 ∧ (t.x a).toNat < 2 ^ 52 ∧
      (charged s t 1).access t.die t.crec.ctx (t.x a).toNat .store = (u, .ok (pa, e)) ∧ e.io = false ∧ t.reds = [held 4] ∧
      ¬ ((held 4).addr = pa ∧ (held 4).width = n) :=
  ⟨⟨_, _, _, _, _, _, _, 0x1000, _, _, rfl,
      task_moves base { tsk [(1, 0x1000)] with reds := [held 8] } 1 rfl rfl rfl rfl rfl (by decide), rfl, by decide +kernel,
      by decide +kernel, rfl, rfl, rfl, by decide, by decide, rfl⟩,
    ⟨_, _, _, _, _, _, _, 0x1000, _, rfl,
      task_moves base { tsk [(1, 0x1000)] with reds := [held 4] } 1 rfl rfl rfl rfl rfl (by decide), rfl, by decide +kernel,
      by decide +kernel, rfl, rfl, rfl, by decide⟩⟩

theorem witness_TaskHandleAndTimestamp : ∃ s t, OnThread s t 1 ∧ t.account = 1584 :=
  ⟨_, _, tsk_moves base [] 1 (by decide), rfl⟩

theorem witness_TaskReads : (∃ d f, taskRead (.tlRead 5 7) = some (d, f)) ∧ ∃ s t, OnThread s t 1 :=
  ⟨⟨_, _, rfl⟩, ⟨_, _, tsk_moves base [] 1 (by decide)⟩⟩

/-- A package with a quota of 10 packets and budget for them. -/
def rich : State :=
  base.updDie 0 fun x => { x with quotas := [(0, 10, 0)], budget := 160 }

/-- A package whose context table lies in a window, and the link is down. -/
def linkDown (s : State) : State :=
  { s with ctxBase := 0, ctxCount := 1, cxlCache := false
           hcw := { dev := 0, hostBase := 0, size := 21, en := true, wr := true } :: s.hcw }

/-- A task of context 1. -/
def alien : Task := { rival with crec := { rival.crec with dw7 := rival.crec.dw7 ||| 0x100000 } }

theorem witness_ChargeResults :
    (∃ s t g, OnThread s t 1 ∧ (charged s t 1).gateOf (t.x 1) = some g ∧ MayName (charged s t 1) t.crec.ctx g.crec.ctx ∧
      (charged s t 1).topUpOk (drawn s t 1) g (t.x 2).toNat = true ∧ (t.x 2).toNat = 10) ∧
    (∃ s t g, OnThread s t 1 ∧ (charged s t 1).gateOf (t.x 1) = some g ∧ MayName (charged s t 1) t.crec.ctx g.crec.ctx ∧
      (charged s t 1).topUpOk (drawn s t 1) g (t.x 2).toNat = false ∧ (t.x 2).toNat = 11) ∧
    (∃ (s : State) (t g : Task), s = { with1 rich t with tasks := [t, g] } ∧ OnThread s t 1 ∧ (charged s t 1).gateOf (t.x 1) = some g ∧
      NameTrap (charged s t 1) t.crec.ctx g.crec.ctx .priv) ∧
    (∃ s t, OnThread s t 1 ∧ (charged s t 1).gateOf (t.x 1) = none) ∧
    (∃ s t g, OnThread s t 1 ∧ (charged s t 1).task? (t.x 1 &&& 0xFFFFFFFF000007FF) = some g ∧ g.gate ≠ .stopped ∧
      (g.gate = .hold → g.holdLeft ≠ 0) ∧ MayName (charged s t 1) t.crec.ctx g.crec.ctx) ∧
    (∃ (s : State) (t g : Task), s = { with1 (linkDown rich) t with tasks := [t, g] } ∧ OnThread s t 1 ∧
      (charged s t 1).task? (t.x 1 &&& 0xFFFFFFFF000007FF) = some g ∧ g.gate = .hold ∧ g.holdLeft ≠ 0 ∧
      NameTrap (charged s t 1) t.crec.ctx g.crec.ctx .host) ∧
    (∃ (s : State) (t g : Task), s = { with1 rich t with tasks := [t, g] } ∧ OnThread s t 1 ∧
      (charged s t 1).task? (t.x 1 &&& 0xFFFFFFFF000007FF) = some g ∧ g.gate = .hold ∧ g.holdLeft = 0) ∧
    ∃ s t, OnThread s t 1 ∧ ∀ g, (charged s t 1).task? (t.x 1 &&& 0xFFFFFFFF000007FF) = some g → g.gate = .stopped ∨ (g.gate = .hold ∧ g.holdLeft = 0) :=
  ⟨⟨_, _, _, tsk_moves rich [(1, (tsk []).handle), (2, 10)] 1 (by decide), rfl, .inl rfl, by decide +kernel, by decide +kernel⟩,
    ⟨_, _, _, tsk_moves rich [(1, (tsk []).handle), (2, 11)] 1 (by decide), rfl, .inl rfl, by decide +kernel, by decide +kernel⟩,
    ⟨_, tsk [(1, alien.handle)], alien, rfl, ⟨rfl, rfl, rfl, rfl, rfl, rfl, rfl, by decide⟩, rfl, by decide +kernel, .inr (by decide +kernel)⟩,
    ⟨_, _, tsk_moves rich [(1, 7)] 1 (by decide), rfl⟩,
    ⟨_, _, _, tsk_moves rich [(1, (tsk []).handle)] 1 (by decide), rfl, by decide, by decide, .inl rfl⟩,
    ⟨_, tsk [(1, alien.handle)], { alien with gate := .hold, holdLeft := 5 }, rfl,
      ⟨rfl, rfl, rfl, rfl, rfl, rfl, rfl, by decide⟩, rfl, rfl, by decide, by decide +kernel, .inl (by decide +kernel)⟩,
    ⟨_, tsk [(1, alien.handle)], { alien with gate := .hold, holdLeft := 0 }, rfl,
      ⟨rfl, rfl, rfl, rfl, rfl, rfl, rfl, by decide⟩, rfl, rfl, rfl⟩,
    ⟨_, _, tsk_moves rich [(1, 7)] 1 (by decide), fun g e => by
      have : (charged (with1 rich (tsk [(1, 7)])) (tsk [(1, 7)]) 1).task? ((tsk [(1, 7)]).x 1 &&& 0xFFFFFFFF000007FF) = none := rfl
      rw [this] at e; cases e⟩⟩

/-- A nest that has run nothing yet. -/
def pendingNest : Nest := { id := 1, addr := 0, w := default, bd := 0, ba := 0, bb := 0, granted := 0, ran := 0, v := 0 }

/-- A value reached, one not yet reached, one that can never be, and the ends of the two ranges of timelines. -/
theorem witness_Timelines :
    (∃ s t, OnThread s t 1 ∧ (t.x 2).toNat ≤ t.timeline 7 ∧ t.tlWaitBad 7 (t.x 2).toNat = false) ∧
    (∃ s t, OnThread s t 1 ∧ t.timeline 3 < (t.x 2).toNat ∧ t.tlWaitBad 3 (t.x 2).toNat = false) ∧
    (∃ s t, OnThread s t 1 ∧ t.issued.getD 3 0 < (t.x 2).toNat) ∧ (∃ s t, OnThread s t 1 ∧ t.timeline 4 < (t.x 2).toNat) ∧
    (∃ s t, OnThread s t 1 ∧ t.arms = [] ∧ (t.x 2).toNat ≤ t.timeline 2) ∧
    (∃ s t, OnThread s t 1 ∧ t.timeline 4 + (t.x 2).toNat = 2 ^ 64 - 1 ∧ t.nests = []) ∧
    (∃ s t, OnThread s t 1 ∧ t.timeline 7 + (t.x 2).toNat < 2 ^ 64 ∧ t.nests ≠ []) ∧
    (∃ s t, OnThread s t 1 ∧ 2 ^ 64 = t.timeline 4 + (t.x 2).toNat) ∧ ∃ s t, OnThread s t 0 :=
  ⟨⟨_, _, tsk_moves base [] 1 (by decide), by decide +kernel, by decide +kernel⟩,
    ⟨_, _, task_moves base { tsk [(2, 1)] with issued := [0, 0, 0, 1] } 1 rfl rfl rfl rfl rfl (by decide), by decide +kernel,
      by decide +kernel⟩,
    ⟨_, _, tsk_moves base [(2, 1)] 1 (by decide), by decide +kernel⟩,
    ⟨_, _, tsk_moves base [(2, 1)] 1 (by decide), by decide +kernel⟩,
    ⟨_, _, tsk_moves base [] 1 (by decide), rfl, by decide +kernel⟩,
    ⟨_, _, tsk_moves base [(2, 0xFFFFFFFFFFFFFFFF)] 1 (by decide), by decide +kernel, rfl⟩,
    ⟨_, _, task_moves base { tsk [] with nests := [pendingNest] } 1 rfl rfl rfl rfl rfl (by decide), by decide +kernel, by decide⟩,
    ⟨_, _, task_moves base { tsk [(2, 1)] with tl := (tsk []).tl.set 4 0xFFFFFFFFFFFFFFFF } 1 rfl rfl rfl rfl rfl (by decide),
      by decide +kernel⟩,
    ⟨_, _, tsk_moves base [] 0 (by decide)⟩⟩

/-! ### What meets the hypotheses: metered commands -/

theorem witness_RefusedDraw :
    (∃ d len f s t, scalar (.add 1 2 3) = some (d, len, f) ∧ OnThread s t 0 ∧ t.account = 0 ∧ t.holdField ≠ 0) ∧
    (∃ s t, OnThread s t 0 ∧ t.account = 0 ∧ t.holdField = 0 ∧ t.idle = false) ∧
    ∃ s t, OnThread s t 0 ∧ t.account = 0 ∧ t.holdField = 0 ∧ t.idle = true :=
  ⟨⟨_, _, _, _, _, rfl, task_moves base { tsk [] with account := 0, holdField := 1 } 0 rfl rfl rfl rfl rfl (by decide), rfl,
      by decide⟩,
    ⟨_, _, task_moves base { tsk [] with account := 0, ops2 := [{ newOp 1 0 3 1 false false with left := 1 }] } 0 rfl rfl rfl rfl rfl (by decide), rfl, rfl,
      by decide +kernel⟩,
    ⟨_, _, task_moves base { tsk [] with account := 0 } 0 rfl rfl rfl rfl rfl (by decide), rfl, rfl, by decide +kernel⟩⟩

/-- The example of R35, and the same with an operation that is none. -/
def sum16 : NestWord :=
  { xd := 6, xa := 4, xb := 5, lv := [{ ext := 15, sd := 1, sa := 1, sb := 1 }], rm := 0, acc := false, ds := false,
    as := false, bs := false, op := 0x20, rl := 0, sat := false, scan := false }

/-- An account that covers the nest exactly, a base whose last element is out of range, an unassigned operation. -/
theorem witness_NestIssue :
    (∃ s t, OnThread s t 4 ∧ nestOk sum16 = true ∧ t.nestChecks sum16 (nestTotal sum16) 0 = none ∧
      4 + nestTotal sum16 * nestDraw sum16 = t.account) ∧
    (∃ s t c sub, OnThread s t 4 ∧ t.nestChecks sum16 (nestTotal sum16) 0 = some (c, sub)) ∧
    ∃ s t, OnThread s t 0 ∧ nestOk { sum16 with op := 0xFF } = false :=
  ⟨⟨_, _, task_moves base { tsk [(4, 0x1000), (5, 0x2000), (6, 0x3000)] with account := 4 + 16 * nestDraw sum16 } 4 rfl rfl
      rfl rfl rfl (by decide), by decide, by decide +kernel, by decide +kernel⟩,
    ⟨_, _, _, _, tsk_moves base [(4, 0xFFFFFFFFFFFC4)] 4 (by decide), rfl⟩, ⟨_, _, tsk_moves base [] 0 (by decide), by decide⟩⟩

/-- A descriptor of one element of 4 bytes, with the identity and a cluster or gate field of its own. -/
def descTask (flags : Nat) : Task :=
  { tsk [(1, 0x1000)] with
    snap := Memory.write [] 0x1000 (natBytes 8 0x2000 ++ natBytes 8 0x3000 ++ natBytes 8 (0x20 + flags) ++ natBytes 8 1 ++
      natBytes 32 0 ++ natBytes 12 1) }

/-- A plain descriptor, one with a gate that only the copy itself would reach, and a misaligned address. -/
theorem witness_CopyIssue :
    (∃ s t u t' d, OnThread s t 2 ∧ (t.x 1).toNat % 64 = 0 ∧
      (charged s t 2).readDesc (drawn s t 2) (t.x 1).toNat false = (u, .ok (t', .ok d)) ∧ t'.copyBad 1 d = none ∧
      2 + d.blocks * 2 ≤ t.account) ∧
    (∃ s t u t' d c sub, OnThread s t 2 ∧ (t.x 1).toNat % 64 = 0 ∧
      (charged s t 2).readDesc (drawn s t 2) (t.x 1).toNat false = (u, .ok (t', .ok d)) ∧
      t'.copyBad 1 d = some (c, sub)) ∧
    ∃ s t, OnThread s t 0 ∧ (t.x 1).toNat % 64 ≠ 0 :=
  ⟨⟨_, _, _, _, _, task_moves base (descTask 0) 2 rfl rfl rfl rfl rfl (by decide), by decide +kernel, rfl, rfl,
      by decide +kernel⟩,
    ⟨_, _, _, _, _, _, _, task_moves base (descTask 0x4800) 2 rfl rfl rfl rfl rfl (by decide), by decide +kernel, rfl, rfl⟩,
    ⟨_, _, tsk_moves base [(1, 0x1020)] 0 (by decide), by decide +kernel⟩⟩


/-- A task with an arm operation that has tiles left. -/
def busy : Task := { tsk [] with ops2 := [newOp 1 0 3 1 false false] }

/-- A task with a fibre unit that holds part of a pass of section 0. -/
def halfway : Task :=
  { tsk [] with
    cells := [{ Cell.fresh 0 (some (BitVec.ofNat 240 (0x20 + 2 ^ 192 + 2 ^ 202))) none (some (BitVec.ofNat 240 (0x81 * 2 ^ 40))) with
      ports := [{ PortState.fresh with begun := true }] }]
    gos := [{ id := 1, sec := 0, addr := 0, gate := none, launched := true, srcs := [(.mu 0, 0, 0)] }] }

theorem witness_BarResults :
    (∃ s t, OnThread s t 1 ∧ t.arms = [] ∧ (drawn s t 1).barMet = true ∧ (drawn s t 1).openPass (fun _ => true) = none ∧
      t.staged = none) ∧
    (∃ s t fs, OnThread s t 1 ∧ t.arms = [] ∧ (drawn s t 1).barMet = true ∧
      (drawn s t 1).openPass (fun _ => true) = none ∧ t.staged = some fs ∧ (drawn s t 1).bindingsOk fs = true) ∧
    (∃ s t, OnThread s t 1 ∧ t.arms = [] ∧ (drawn s t 1).barMet = false) ∧
    (∃ s t p, OnThread s t 1 ∧ t.arms = [] ∧ (drawn s t 1).barMet = true ∧ (drawn s t 1).openPass (fun _ => true) = some p) ∧
    (∃ s t, OnThread s t 1 ∧ (charged s t 1).drainMet (drawn s t 1) 3 = true ∧ (drawn s t 1).openPass (· == 3) = none) ∧
    (∃ s t, OnThread s t 1 ∧ (drawn s t 1).drained 3 = false) ∧
    ∃ s t p, OnThread s t 1 ∧ (charged s t 1).drainMet (drawn s t 1) 0 = true ∧ (drawn s t 1).openPass (· == 0) = some p :=
  ⟨⟨_, _, tsk_moves base [] 1 (by decide), rfl, rfl, rfl, rfl⟩,
    ⟨_, _, [], task_moves base { tsk [] with staged := some [] } 1 rfl rfl rfl rfl rfl (by decide), rfl, rfl, rfl, rfl, rfl⟩,
    ⟨_, _, task_moves base busy 1 rfl rfl rfl rfl rfl (by decide), rfl, rfl⟩,
    ⟨_, _, _, task_moves base halfway 1 rfl rfl rfl rfl rfl (by decide), rfl, by decide +kernel, rfl⟩,
    ⟨_, _, tsk_moves base [] 1 (by decide), rfl, rfl⟩,
    ⟨_, _, task_moves base busy 1 rfl rfl rfl rfl rfl (by decide), rfl⟩,
    ⟨_, _, _, task_moves base halfway 1 rfl rfl rfl rfl rfl (by decide), by decide +kernel, rfl⟩⟩

/-- A task with a portal request outstanding, that has not issued a `fence` or waits in one. -/
def asking (r : Option (List Nat)) : Task :=
  { tsk [] with
    cells := [{ Cell.fresh 0 none none none with portal := [{ item := LinkRec.none, waiting := [(7, 0)], out := false }] }]
    wait := r.map fun _ => .fence 4, paid := r.isSome, fenceReqs := r }

theorem witness_FenceResults :
    (∃ s t, OnThread s t 1 ∧ t.copiesDone = true ∧ t.portalIds = []) ∧
    (∃ s t, OnThread s t 1 ∧ t.portalIds = [7]) ∧
    (∃ s t, OnThread s t 1 ∧ t.arms = [] ∧ (drawn s t 1).barMet = true ∧ (drawn s t 1).openPass (fun _ => true) = none) ∧
    (∃ s t, OnThread s t 1 ∧ t.arms = [] ∧ (drawn s t 1).barMet = false) ∧
    (∃ s t p, OnThread s t 1 ∧ t.arms = [] ∧ (drawn s t 1).barMet = true ∧ t.portalIds = [] ∧ t.copiesDone = true ∧
      (drawn s t 1).openPass (fun _ => true) = some p) ∧
    (∃ (s : State) (t : Task), s.current = .thread t.handle ∧ s.task? t.handle = some t ∧ t.ready = true ∧ t.gate = .running ∧
      t.threadFrozen = false ∧ t.paid = true ∧ t.wait = some (.fence 4) ∧ t.fenceReqs = some [6] ∧ t.portalIds = [7]) ∧
    (∃ (s : State) (t : Task), s.current = .thread t.handle ∧ s.task? t.handle = some t ∧ t.ready = true ∧ t.gate = .running ∧
      t.threadFrozen = false ∧ t.paid = true ∧ t.wait = some (.fence 4) ∧ t.fenceReqs = some [7] ∧ t.portalIds = [7]) ∧
    ∃ s x, OnBureau s 0 x :=
  ⟨⟨_, _, tsk_moves base [] 1 (by decide), rfl, rfl⟩,
    ⟨_, _, task_moves base (asking none) 1 rfl rfl rfl rfl rfl (by decide), rfl⟩,
    ⟨_, _, tsk_moves base [] 1 (by decide), rfl, rfl, rfl⟩,
    ⟨_, _, task_moves base busy 1 rfl rfl rfl rfl rfl (by decide), rfl, rfl⟩,
    ⟨_, _, _, task_moves base halfway 1 rfl rfl rfl rfl rfl (by decide), rfl, by decide +kernel, rfl, rfl, rfl⟩,
    ⟨with1 base (asking (some [6])), asking (some [6]), rfl, task_found _ _, rfl, rfl, rfl, rfl, rfl, rfl, rfl⟩,
    ⟨with1 base (asking (some [7])), asking (some [7]), rfl, task_found _ _, rfl, rfl, rfl, rfl, rfl, rfl, rfl⟩,
    ⟨onB (bur []), _, rfl, rfl, rfl, rfl⟩⟩

/-- A memory unit that streams 3 records from offset 0 (R40), in cell 0 of a task. -/
def muTask (x : Word) : Task :=
  { tsk [(1, x)] with cells := [Cell.fresh 0 none (some (1 + 64 * 2 ^ 23 + 2 * 2 ^ 39)) none] }

/-- A task whose engine 0 is bound to section 3 in BF16. -/
def engTask (rs : List (Reg × Word)) : Task :=
  { tsk rs with engines := [{ Engine.fresh 0 with sec := some 3, fmt := some 0 }] }

/-- A task whose Snapshot holds an image of two frames at 0x1000, with an account for the issue draw and one of them. -/
def twoFrames : Task := { tsk [(1, 0x1000)] with snap := Memory.write [] 0x101F [0x20], account := 9 }

/-- The same with a swap queued. -/
def queued (rs : List (Reg × Word)) : Task :=
  { engTask rs with engines := (engTask rs).engines.map fun e => e.pushArr .swap 0 }

/-- An image of the end frame alone, and one of two frames that the account covers in part; a draw that the account covers exactly; a go without and with a source. -/
theorem witness_StreamCommands :
    (∃ s t T n p u t' fs, OnThread s t 8 ∧ (t.x 1).toNat % 32 = 0 ∧ t.loading = [] ∧ t.loadGrant = 0 ∧
      T = { (drawn s t 8).block (.cfgLoad 1) with staged := none } ∧ n = (charged s t 8).framesLeft T (t.x 1).toNat [] ∧
      min n T.account = 1 ∧ p = (charged s t 8).debit T 1 ∧
      State.scanImage (t.x 1).toNat 1 p.1 { p.2 with loadGrant := 1, gate := .running, cmd := none } [] = (u, t', fs, .whole) ∧
      n = 1) ∧
    (∃ s t T n p c u t' fs, OnThread s t 8 ∧ (t.x 1).toNat % 32 = 0 ∧ t.loading = [] ∧ t.loadGrant = 0 ∧
      T = { (drawn s t 8).block (.cfgLoad 1) with staged := none } ∧ n = (charged s t 8).framesLeft T (t.x 1).toNat [] ∧
      min n T.account = 1 ∧ p = (charged s t 8).debit T 1 ∧
      State.scanImage (t.x 1).toNat 1 p.1 { p.2 with loadGrant := 1, gate := .short, cmd := c } [] = (u, t', fs, .more) ∧ n = 2) ∧
    (∃ s t, OnThread s t 1 ∧ (t.x 2).toNat = 2 ^ 32 - 1 ∧ (drawn s t 1).sectionEngines 3 ≠ [] ∧
      1 + (t.x 2).toNat * (drawn s t 1).sectionDraw 3 = t.account) ∧
    (∃ s t u t' ags, OnThread s t 1 ∧ (drawn s t 1).srcBad (t.x 1) = false ∧
      State.agCounts (numbered (charged s t 1) 1) (drawn s t 1) ((drawn s t 1).goAgs (t.x 1)) = .ok (u, t', ags) ∧
      t'.goSources (t.x 1) ags = []) ∧
    ∃ s t u t' ags, OnThread s t 1 ∧ (drawn s t 1).srcBad (t.x 1) = false ∧
      State.agCounts (numbered (charged s t 1) 1) (drawn s t 1) ((drawn s t 1).goAgs (t.x 1)) = .ok (u, t', ags) ∧
      t'.goSources (t.x 1) ags ≠ [] ∧ 1 + drawOf (waveRuns ((t'.goSources (t.x 1) ags).map Prod.snd)) ≤ t.account :=
  ⟨⟨_, _, _, 1, _, _, _, _, tsk_moves base [(1, 0x1000)] 8 (by decide), by decide +kernel, rfl, rfl, rfl, by decide +kernel,
      by decide +kernel, rfl, rfl, rfl⟩,
    ⟨_, _, _, 2, _, none, _, _, _, task_moves base twoFrames 8 rfl rfl rfl rfl rfl (by decide), by decide +kernel, rfl, rfl, rfl,
      by decide +kernel, by decide +kernel, rfl, rfl, rfl⟩,
    ⟨_, _, task_moves base { engTask [(2, 0xFFFFFFFF)] with account := 1 + 0xFFFFFFFF * (engTask []).sectionDraw 3 } 1
      rfl rfl rfl rfl rfl (by decide +kernel), by decide +kernel, by decide +kernel, by decide +kernel⟩,
    ⟨_, _, _, _, _, tsk_moves base [] 1 (by decide), rfl, rfl, rfl⟩,
    ⟨_, _, _, _, _, task_moves base (muTask 0x101010001) 1 rfl rfl rfl rfl rfl (by decide), rfl, rfl, by decide +kernel,
      by decide +kernel⟩⟩

/-! ### What meets the hypotheses: tasks and channels -/

theorem witness_Spawns :
    (∃ s t u t' l t1, OnThread s t 1 ∧ (t.x 1).toNat % 64 = 0 ∧
      (charged s t 1).viewRead (drawn s t 1) 0 (t.x 1).toNat 64 = (u, .ok (t', l)) ∧ MayName u t.crec.ctx (Record.ofBytes l).ctx ∧
      u.growShare t' 0 64 = .ok t1) ∧
    ∃ s t, OnThread s t 1 ∧ (t.x 2).toNat % 4 = 0 ∧ t.x 2 ≠ 0 ∧ t.crec.rohint = false :=
  ⟨⟨_, _, _, _, _, _, tsk_moves base [(1, 0x1000)] 1 (by decide), by decide +kernel, rfl, .inl (by decide +kernel), rfl⟩,
    ⟨_, _, tsk_moves base [(2, 4)] 1 (by decide), by decide +kernel, by decide +kernel, rfl⟩⟩

/-- A task that waits in `done`. -/
def doneTask : Task := { tsk [] with wait := some .done, paid := true, committing := true }

/-- A task that waits in `done` with a store into line 32, and the oldest timed task of its context, which has read that line. -/
def storer : Task := { doneTask with cup := [(0x1000, 5)] }
def reader : Task := { rival with readSet := [(0, 32)], crec := { rival.crec with dw3 := 5 } }

theorem witness_DoneCommits :
    (∃ s t, OnThread s t 0 ∧ t.arms = [] ∧ t.barMet = false) ∧
    (∃ (s : State) (t : Task), s.task? t.handle = some t ∧ t.gate = .running ∧ t.threadFrozen = false ∧ t.paid = true ∧ t.wait = some .done ∧
      t.arms = [] ∧ t.barMet = true ∧ t.openPass (fun _ => true) = none ∧ s.inOrder t = true ∧ s.staleBy t = [] ∧
      (State.requestAll t (s.landCommit t).lines s).2.1 = true ∧ s.readers (s.landCommit t).lines t.handle = []) ∧
    (∃ (s : State) (t : Task), t.arms = [] ∧ t.barMet = true ∧ t.openPass (fun _ => true) = none ∧ s.inOrder t = true ∧
      s.staleBy t = [none]) ∧
    (∃ (s : State) (t u : Task), t.barMet = true ∧ s.inOrder t = true ∧ s.staleBy t = [] ∧
      (State.requestAll t (s.landCommit t).lines s).2.1 = true ∧ u ∈ s.readers (s.landCommit t).lines t.handle ∧
      u.crec.ctx = t.crec.ctx ∧ s.isOldest u = true) ∧
    (∃ (s : State) (t : Task) (line : Nat) (who : Option Nat) (n : Nat) (r : Nat × Nat), (line, who, n) ∈ s.published ∧ t.snapNum < n ∧
      r ∈ t.readSet ∧ r.2 = line ∧ t.irrevocable = false ∧ ¬ (who = some t.crec.ctx ∧ n ∈ t.sparedBy)) ∧
    (∃ (s : State) (t : Task), (32, some t.crec.ctx, 1) ∈ s.published ∧ t.sparedBy = [1] ∧ t.snapNum < 1 ∧ (0, 32) ∈ t.readSet ∧
      t.irrevocable = false ∧ s.staleBy t = []) ∧
    (∃ (s : State) (t : Task) (who : Option Nat), who ∈ s.staleBy t) ∧
    ∃ (s : State) (t : Task) (v : Saved), s.task? t.handle = some t ∧ t.crec.ctx = 0 ∧ s.isOldest t = true ∧ v ∈ s.saved ∧
      v.task.crec.ctx = 0 :=
  ⟨⟨_, _, task_moves base busy 0 rfl rfl rfl rfl rfl (by decide), rfl, rfl⟩,
    ⟨with1 base doneTask, doneTask, task_found _ _, rfl, rfl, rfl, rfl, rfl, rfl, rfl, rfl, rfl, rfl, rfl⟩,
    ⟨{ base with published := [(32, none, 1)] }, { doneTask with readSet := [(0, 32)] }, rfl, rfl, rfl, rfl, by decide +kernel⟩,
    ⟨{ base with tasks := [storer, reader] }, storer, reader, rfl, by decide +kernel, by decide +kernel, by decide +kernel,
      by decide +kernel, rfl, by decide +kernel⟩,
    ⟨{ base with published := [(32, none, 1)] }, { doneTask with readSet := [(0, 32)] }, 32, none, 1, (0, 32),
      List.mem_singleton.mpr rfl, by decide, List.mem_singleton.mpr rfl, rfl, rfl, by decide⟩,
    ⟨{ base with published := [(32, some 0, 1)] }, { doneTask with readSet := [(0, 32)], sparedBy := [1] },
      List.mem_singleton.mpr (by decide +kernel), rfl, by decide, List.mem_singleton.mpr rfl, rfl, by decide +kernel⟩,
    ⟨{ base with published := [(32, none, 1)] }, { doneTask with readSet := [(0, 32)] }, none, by decide +kernel⟩,
    ⟨{ base with tasks := [reader], saved := [{ id := 1, task := storer, scratch := [], off := 0, len := 0 }] }, reader, _, rfl, by decide +kernel,
      by decide +kernel, List.mem_singleton.mpr rfl, by decide +kernel⟩⟩

/-- A signed minimum of the thread at an address that the task stored, after it an addition of a cell, and a double addition elsewhere. -/
def reduced : Task :=
  { tsk [] with
    cup := [(0x1000, 5)]
    reds := [{ op := 0, addr := 0x1000, width := 4, operand := 7, cell := some 106 },
             { op := 2, addr := 0x1000, width := 4, operand := 0xFFFFFFFF, cell := none },
             { op := 1, addr := 0x1008, width := 8, operand := 1, cell := none }] }

theorem witness_CommitPublishes :
    ∃ (s : State) (t : Task), t.reds.length = 3 ∧ t.joinIncs = [] ∧ t.joinDecs = [] ∧ t.crec.dw2 = 0 ∧ t.crec.report = 0 ∧
      t.lockLine = none ∧ s.mem.wf = true ∧ Overlay.wf t.cup = true ∧ (∀ w ∈ s.hcw, w.en = false) ∧ t.cup ≠ [] ∧
      (∀ r ∈ t.reds, r.width = (if r.op = 1 then 8 else 4) ∧ r.op < 7 ∧ ∀ c, r.cell = some c → c < 107) ∧
      (∀ r ∈ t.reds, ∀ q ∈ t.reds,
        r.addr = q.addr ∧ r.width = q.width ∨ r.addr + r.width ≤ q.addr ∨ q.addr + q.width ≤ r.addr) ∧
      folded s t 0x1000 4 = (6, 0) := by
  refine ⟨base, reduced, rfl, rfl, rfl, rfl, rfl, rfl, rfl, rfl, by decide, by decide, ?_, by decide, by decide +kernel⟩
  simp [reduced]

theorem witness_CommitPublishes_one :
    ∃ (t : Task), t.reds ≠ [] ∧ ∀ r ∈ t.reds, r.addr = 0x1000 ∧ r.width = 4 ∧ r.op < 7 ∧ ∀ c, r.cell = some c → c < 107 := by
  refine ⟨{ reduced with reds := reduced.reds.take 2 }, by decide, ?_⟩
  simp [reduced]

theorem witness_RetireDiscards :
    ∃ (s : State) (t : Task) (x : Die), t.crec.report = 0 ∧ t.crec.dw2 = 0 ∧ s.die? t.die = some x ∧
      (∀ f ∈ x.faults, f.handle = t.handle → f.state ≠ 0) ∧ (∀ c ∈ s.channels, c.state ≠ .broken) ∧
      (∀ u ∈ s.tasks, u.handle ≠ t.handle → u.die = t.die → ∀ f ∈ u.frozen, f.record ≠ none) ∧ t.cup ≠ [] ∧
      t.account = 1584 :=
  ⟨base, { tsk [] with cup := [(0x1000, 5)] }, Die.reset 0, rfl, rfl, rfl, fun f h => (nomatch h), fun c h => (nomatch h),
    fun u h => (nomatch h), by decide, rfl⟩

/-- The values of xA where the forms of `abort` meet, and re-run counts on both sides of the limit. -/
theorem witness_AbortResults :
    (∃ s t, OnThread s t 0 ∧ (t.x 1).toNat = 2 ^ 33) ∧
    (∃ s t, OnThread s t 0 ∧ (t.x 1).toNat = 2 ^ 33 - 1 ∧ t.rerun = 63) ∧
    (∃ s t, OnThread s t 0 ∧ (t.x 1).toNat = 2 ^ 32 ∧ t.rerun = 64) ∧
    ∃ s t, OnThread s t 0 ∧ (t.x 1).toNat = 2 ^ 32 - 1 :=
  ⟨⟨_, _, tsk_moves base [(1, 0x200000000)] 0 (by decide), by decide +kernel⟩,
    ⟨_, _, task_moves base { tsk [(1, 0x1FFFFFFFF)] with rerun := 63 } 0 rfl rfl rfl rfl rfl (by decide), by decide +kernel, rfl⟩,
    ⟨_, _, task_moves base { tsk [(1, 0x100000000)] with rerun := 64 } 0 rfl rfl rfl rfl rfl (by decide), by decide +kernel, rfl⟩,
    ⟨_, _, tsk_moves base [(1, 0xFFFFFFFF)] 0 (by decide), by decide +kernel⟩⟩

/-- An OPEN channel of 4 elements on chip. -/
def chan (esize : Nat) (w r : Word) (es : List Entry) : Chan :=
  { ctx := 0, num := 1, state := .opened, esize := esize, cap := 4, len := 0, budget := 0, grown := 0, list := 0, rdie := 0,
    rcluster := 0, rslice := 0, remote := false, rdir := false, peer := 0, far := 0, port := 0, head := 0, tail := 0,
    pages := [], slots := [], writer := w, reader := r, entries := es, closing := false, unbinding := false, frozen := false, credit := 0,
    granted := 0 }

/-- Context 0 is a system context with a channel table of 4 entries, and has one channel. -/
def chans (l : List Chan) : State :=
  { base with
    ctxBase := 0x100000, ctxCount := 1, channels := l
    mem := Memory.write [] 0x100000 (natBytes 8 0 ++ natBytes 8 2 ++ natBytes 8 0x9000 ++ natBytes 8 4) }

/-- The same without channels, with some bytes in table entry 3. -/
def entryAt (l : List Byte) : State := { chans [] with mem := (chans []).mem.write 0x90C0 l }

/-- A published entry. -/
def entry (l : List Byte) : Entry := { data := l, tent := none, page := none, sent := false, notice := false }

/-- The handle of the tasks of these tests. -/
def me : Word := (tsk []).handle

/-- Table entry 3 has a spill list of one page in a window whose link is down. -/
def shutList : State :=
  { entryAt ([0, 0, 0x10, 0, 0, 0, 0, 0] ++ natBytes 8 0x400000) with
    cxlCache := false, hcw := [{ dev := 0x400000, hostBase := 0, size := 21, en := true, wr := true }] }

/-- The first channel beyond the table; a side that is free, one's own, another's; one's own and another's of a BROKEN channel; a
CLOSED channel that is refused, and one that opens. -/
theorem witness_ChannelOpens :
    (∃ s t, OnThread s t 1 ∧ chanBad (t.x 1) = false ∧ (charged s t 1).chanCount t.crec.ctx = chanNum (t.x 1) ∧ chanNum (t.x 1) = 4) ∧
    (∃ s t u pa c, OnThread s t 1 ∧ chanBad (t.x 1) = false ∧
      (charged s t 1).cte (drawn s t 1) (chanNum (t.x 1)) = (u, .ok (some pa)) ∧
      u.chan? t.crec.ctx (chanNum (t.x 1)) = some c ∧ c.state = .opened ∧ sideOf c (chanSide (t.x 1)) = 0) ∧
    (∃ s t u pa c, OnThread s t 1 ∧ chanBad (t.x 1) = false ∧
      (charged s t 1).cte (drawn s t 1) (chanNum (t.x 1)) = (u, .ok (some pa)) ∧
      u.chan? t.crec.ctx (chanNum (t.x 1)) = some c ∧ c.state = .broken ∧ sideOf c (chanSide (t.x 1)) = t.handle) ∧
    (∃ s t u pa c, OnThread s t 1 ∧ chanBad (t.x 1) = false ∧
      (charged s t 1).cte (drawn s t 1) (chanNum (t.x 1)) = (u, .ok (some pa)) ∧
      u.chan? t.crec.ctx (chanNum (t.x 1)) = some c ∧ c.state = .broken ∧ sideOf c (chanSide (t.x 1)) ≠ t.handle) ∧
    (∃ s t u pa c, OnThread s t 1 ∧ chanBad (t.x 1) = false ∧
      (charged s t 1).cte (drawn s t 1) (chanNum (t.x 1)) = (u, .ok (some pa)) ∧
      u.chan? t.crec.ctx (chanNum (t.x 1)) = some c ∧ c.state = .opened ∧ sideOf c (chanSide (t.x 1)) ≠ t.handle ∧
      sideOf c (chanSide (t.x 1)) ≠ 0) ∧
    (∃ s t u pa v k, OnThread s t 1 ∧ chanBad (t.x 1) = false ∧
      (charged s t 1).cte (drawn s t 1) (chanNum (t.x 1)) = (u, .ok (some pa)) ∧
      u.chan? t.crec.ctx (chanNum (t.x 1)) = none ∧ u.makeChan t.die t.crec.ctx t.crec.cls (chanNum (t.x 1)) pa = (v, .error (.code k))) ∧
    (∃ s t u pa v, OnThread s t 1 ∧ chanBad (t.x 1) = false ∧
      (charged s t 1).cte (drawn s t 1) (chanNum (t.x 1)) = (u, .ok (some pa)) ∧
      u.chan? t.crec.ctx (chanNum (t.x 1)) = none ∧
      u.makeChan t.die t.crec.ctx t.crec.cls (chanNum (t.x 1)) pa = (v, .error (.trap .host))) ∧
    (∃ (u v : State) (va : Nat), u.access 0 0 va .load = (v, .error .miss)) ∧
    ∃ s t u pa v c, OnThread s t 1 ∧ chanBad (t.x 1) = false ∧
      (charged s t 1).cte (drawn s t 1) (chanNum (t.x 1)) = (u, .ok (some pa)) ∧
      u.chan? t.crec.ctx (chanNum (t.x 1)) = none ∧ t.handle ≠ 0 ∧
      u.makeChan t.die t.crec.ctx t.crec.cls (chanNum (t.x 1)) pa = (v, .ok c) :=
  ⟨⟨_, _, tsk_moves (chans []) [(1, 4)] 1 (by decide), rfl, rfl, rfl⟩,
    ⟨_, _, _, 0x9040, _, tsk_moves (chans [chan 0 me 0 []]) [(1, 0x10001)] 1 (by decide), rfl, rfl, rfl, rfl, rfl⟩,
    ⟨_, _, _, 0x9040, _, tsk_moves (chans [{ chan 0 me 0 [] with state := .broken }]) [(1, 1)] 1 (by decide), rfl, rfl, rfl, rfl, rfl⟩,
    ⟨_, _, _, 0x9040, _, tsk_moves (chans [{ chan 0 me 0 [] with state := .broken }]) [(1, 0x10001)] 1 (by decide), rfl, rfl, rfl,
      rfl, by decide⟩,
    ⟨_, _, _, 0x9040, _, tsk_moves (chans [chan 0 7 0 []]) [(1, 1)] 1 (by decide), rfl, rfl, rfl, rfl, by decide, by decide⟩,
    ⟨_, _, _, 0x90C0, _, 3, tsk_moves { chans [] with mem := (chans []).mem.write 0x90C0 [6] } [(1, 3)] 1 (by decide), rfl, rfl,
      rfl, rfl⟩,
    ⟨_, _, _, 0x90C0, _, tsk_moves shutList [(1, 3)] 1 (by decide), rfl, rfl, rfl, rfl⟩,
    ⟨unmapped, _, 0x40, rfl⟩,
    ⟨_, _, _, 0x90C0, _, _, tsk_moves (chans []) [(1, 3)] 1 (by decide), rfl, rfl, rfl, by decide +kernel, rfl⟩⟩

/-- A table entry with each refusal of R264, one whose slots find no room, and one that opens with one more page than none. -/
theorem witness_ChannelOpens_entry :
    (∃ (u : State) (pa : Nat), 5 < u.natAt pa 8 % 8) ∧
    (∃ (u : State) (pa : Nat), u.natAt pa 8 / 2 ^ 20 % 2 ^ 12 < u.natAt pa 8 / 2 ^ 32 % 2 ^ 16) ∧
    (∃ (u : State) (pa : Nat), u.natAt (pa + 8) 8 % 8 ≠ 0) ∧
    (∃ (u : State) (pa : Nat), (u.die (u.natAt (pa + 16) 8 % 4)).has (u.natAt (pa + 16) 8 / 4 % 128) = false) ∧
    (∃ (u v : State) (pa : Nat), u.natAt pa 8 % 8 ≤ 5 ∧
      u.natAt pa 8 / 2 ^ 32 % 2 ^ 16 ≤ u.natAt pa 8 / 2 ^ 20 % 2 ^ 12 ∧ u.natAt (pa + 8) 8 % 8 = 0 ∧
      (u.die (u.natAt (pa + 16) 8 % 4)).has (u.natAt (pa + 16) 8 / 4 % 128) = true ∧
      u.spillPages 0 0 0 (u.natAt (pa + 8) 8) (u.natAt pa 8 / 2 ^ 20 % 2 ^ 12) = (v, .error (.code 3))) ∧
    (∃ (u v : State) (pa : Nat) (ps : List Nat), u.natAt pa 8 % 8 ≤ 5 ∧
      u.natAt pa 8 / 2 ^ 32 % 2 ^ 16 ≤ u.natAt pa 8 / 2 ^ 20 % 2 ^ 12 ∧ u.natAt (pa + 8) 8 % 8 = 0 ∧
      (u.die (u.natAt (pa + 16) 8 % 4)).has (u.natAt (pa + 16) 8 / 4 % 128) = true ∧
      u.spillPages 0 0 0 (u.natAt (pa + 8) 8) (u.natAt pa 8 / 2 ^ 20 % 2 ^ 12) = (v, .ok ps) ∧
      (v.slice (u.natAt (pa + 16) 8 % 4) (u.natAt (pa + 16) 8 / 4 % 128) (u.natAt (pa + 16) 8 / 2 ^ 9 % 4)).freeSlots.length <
        ((u.natAt pa 8 / 16 % 2 ^ 12 + 1) * (4 * 2 ^ (u.natAt pa 8 % 8)) + 127) / 128) ∧
    ∃ (u v : State) (pa : Nat) (ps : List Nat), u.natAt pa 8 % 8 ≤ 5 ∧
      u.natAt pa 8 / 2 ^ 32 % 2 ^ 16 ≤ u.natAt pa 8 / 2 ^ 20 % 2 ^ 12 ∧ u.natAt (pa + 8) 8 % 8 = 0 ∧
      (u.die (u.natAt (pa + 16) 8 % 4)).has (u.natAt (pa + 16) 8 / 4 % 128) = true ∧
      u.spillPages 0 0 0 (u.natAt (pa + 8) 8) (u.natAt pa 8 / 2 ^ 20 % 2 ^ 12) = (v, .ok ps) ∧
      ((u.natAt pa 8 / 16 % 2 ^ 12 + 1) * (4 * 2 ^ (u.natAt pa 8 % 8)) + 127) / 128 ≤
        (v.slice (u.natAt (pa + 16) 8 % 4) (u.natAt (pa + 16) 8 / 4 % 128) (u.natAt (pa + 16) 8 / 2 ^ 9 % 4)).freeSlots.length := by
  refine ⟨⟨entryAt [6], 0x90C0, by decide +kernel⟩, ⟨entryAt [0, 0, 0, 0, 1], 0x90C0, by decide +kernel⟩,
    ⟨entryAt [0, 0, 0, 0, 0, 0, 0, 0, 4], 0x90C0, by decide +kernel⟩,
    ⟨entryAt ([0, 0, 0, 0, 0, 0, 0, 0] ++ natBytes 8 0 ++ natBytes 8 (104 * 4)), 0x90C0, by decide +kernel⟩,
    ⟨entryAt ([0, 0, 0x10, 0, 0, 0, 0, 0] ++ natBytes 8 0x2000000), _, 0x90C0, by decide +kernel, by decide +kernel,
      by decide +kernel, by decide +kernel, rfl⟩,
    ⟨entryAt [0xF5, 0xFF], _, 0x90C0, _,
      by decide +kernel, by decide +kernel, by decide +kernel, by decide +kernel, rfl, by decide +kernel⟩,
    ⟨entryAt [], _, 0x90C0, _, by decide +kernel, by decide +kernel, by decide +kernel, by decide +kernel, rfl, by decide +kernel⟩⟩

theorem witness_ChannelControl :
    (∃ s t, OnThread s t 1 ∧ chanBad (t.x 1) = false ∧ (charged s t 1).chanCount t.crec.ctx = chanNum (t.x 1) ∧
      (charged s t 1).systemErr t.crec.ctx = none ∧ (t.x 2).toNat < 2 ^ 37) ∧
    (∃ s t u pa c, OnThread s t 1 ∧ chanBad (t.x 1) = false ∧
      (charged s t 1).cte (drawn s t 1) (chanNum (t.x 1)) = (u, .ok (some pa)) ∧
      u.chan? t.crec.ctx (chanNum (t.x 1)) = some c ∧ sideOf c (chanSide (t.x 1)) = t.handle) ∧
    (∃ s t u pa c, OnThread s t 1 ∧ chanBad (t.x 1) = false ∧
      (charged s t 1).cte (drawn s t 1) (chanNum (t.x 1)) = (u, .ok (some pa)) ∧
      u.chan? t.crec.ctx (chanNum (t.x 1)) = some c ∧ c.state ≠ .broken ∧ sideOf c (chanSide (t.x 1)) ≠ t.handle) ∧
    (∃ s t u pa, OnThread s t 1 ∧ chanBad (t.x 1) = false ∧
      (charged s t 1).cte (drawn s t 1) (chanNum (t.x 1)) = (u, .ok (some pa)) ∧ u.chan? t.crec.ctx (chanNum (t.x 1)) = none) ∧
    (∃ s t u pa c v, OnThread s t 1 ∧ chanBad (t.x 1) = false ∧
      (charged s t 1).cte (drawn s t 1) (chanNum (t.x 1)) = (u, .ok (some pa)) ∧ (charged s t 1).systemErr t.crec.ctx = none ∧
      (t.x 2).toNat = 2 ^ 37 - 1 ∧ u.chan? t.crec.ctx (chanNum (t.x 1)) = some c ∧ c.state = .opened ∧ c.remote = false ∧ c.unbinding = false ∧
      sideOf c (!(t.x 2).getLsbD 36) = 0 ∧ State.peerAnswer { u with out := u.out ++ [.bindRequest 0 1 0xFFFF 0xFFFF 15 true 4] } ((t.x 2).extractLsb' 32 4) = (v, some 9)) ∧
    (∃ s t u pa c v, OnThread s t 1 ∧ chanBad (t.x 1) = false ∧
      (charged s t 1).cte (drawn s t 1) (chanNum (t.x 1)) = (u, .ok (some pa)) ∧ (charged s t 1).systemErr t.crec.ctx = none ∧
      (t.x 2).toNat < 2 ^ 37 ∧ u.chan? t.crec.ctx (chanNum (t.x 1)) = some c ∧ c.state = .opened ∧ c.remote = false ∧ c.unbinding = false ∧
      sideOf c (!(t.x 2).getLsbD 36) = 0 ∧ State.peerAnswer { u with out := u.out ++ [.bindRequest 0 1 0xFFFF 0xFFFF 15 true 4] } ((t.x 2).extractLsb' 32 4) = (v, none)) ∧
    (∃ s t, OnThread s t 1 ∧ (charged s t 1).systemErr t.crec.ctx = some .priv) ∧
    ∃ s t, OnThread s t 1 ∧ (charged s t 1).systemErr t.crec.ctx = some .host :=
  ⟨⟨_, _, tsk_moves (chans []) [(1, 4)] 1 (by decide), rfl, rfl, rfl, by decide⟩,
    ⟨_, _, _, 0x9040, _, tsk_moves (chans [chan 0 me 0 []]) [(1, 1)] 1 (by decide), rfl, rfl, rfl, rfl⟩,
    ⟨_, _, _, 0x9040, _, tsk_moves (chans [chan 0 me 0 []]) [(1, 0x10001)] 1 (by decide), rfl, rfl, rfl, by decide, by decide +kernel⟩,
    ⟨_, _, _, 0x9080, tsk_moves (chans []) [(1, 2)] 1 (by decide), rfl, rfl, rfl⟩,
    ⟨_, _, _, 0x9040, _, _, tsk_moves { chans [chan 0 0 me []] with ualTrained := 0x8000, peerAnswers := [some 9] }
      [(1, 1), (2, 0x1FFFFFFFFF)] 1 (by decide), rfl, rfl, by decide +kernel, by decide +kernel, rfl, rfl, rfl, rfl, rfl, rfl⟩,
    ⟨_, _, _, 0x9040, _, _, tsk_moves (chans [chan 0 0 me []]) [(1, 1), (2, 0x1FFFFFFFFF)] 1 (by decide), rfl, rfl, by decide +kernel,
      by decide +kernel, rfl, rfl, rfl, rfl, rfl, rfl⟩,
    ⟨_, _, tsk_moves { chans [] with mem := (chans []).mem.write 0x100008 [0] } [(1, 1)] 1 (by decide), by decide +kernel⟩,
    ⟨_, _, tsk_moves (linkDown base) [(1, 1)] 1 (by decide), by decide +kernel⟩⟩

/-- The last element that a channel holds and the first that it does not; a wrong side; a push that waited. -/
theorem witness_ChannelPushes :
    (∃ s t u c e, OnThread s t 2 ∧ chanBad (t.x 1) = false ∧ t.pushData = none ∧ t.crec.rohint = false ∧
      (charged s t 2).openChan (drawn s t 2) (chanNum (t.x 1)) = (u, .ok c) ∧ c.pushBad t.handle true = none ∧ c.size ≤ 8 ∧
      e = lowBytes c.size (t.x 2) ∧ c.entries.length + t.heldFor c.num + 1 = c.capacity) ∧
    (∃ s t u c, OnThread s t 2 ∧ chanBad (t.x 1) = false ∧ t.pushData = none ∧
      (charged s t 2).openChan (drawn s t 2) (chanNum (t.x 1)) = (u, .ok c) ∧ c.pushBad t.handle true = none ∧
      c.entries.length + t.heldFor c.num + 1 = c.capacity + 1) ∧
    (∃ s t u c e, OnThread s t 2 ∧ chanBad (t.x 1) = false ∧ t.pushData = none ∧ t.crec.rohint = false ∧
      (charged s t 2).openChan (drawn s t 2) (chanNum (t.x 1)) = (u, .ok c) ∧ c.pushBad t.handle false = none ∧ c.size = 16 ∧
      t.elementTrap (t.x 2).toNat c.size = none ∧ t.nestTouches true (t.x 2).toNat c.size = false ∧
      e = u.scratchRead t (t.x 2).toNat c.size) ∧
    (∃ s t u c sub, OnThread s t 2 ∧ chanBad (t.x 1) = false ∧
      (charged s t 2).openChan (drawn s t 2) (chanNum (t.x 1)) = (u, .ok c) ∧ c.pushBad t.handle true = some sub) ∧
    ∃ (s : State) (t : Task) (u : State) (c : Chan) (e : List Byte), s.task? t.handle = some t ∧ t.gate = .running ∧ t.threadFrozen = false ∧ t.paid = true ∧
      t.wait = some (.chPushW 1 2) ∧ chanBad (t.x 1) = false ∧ t.pushData = some e ∧
      s.openChan t (chanNum (t.x 1)) = (u, .ok c) ∧ c.pushBad t.handle true = none :=
  ⟨⟨_, _, _, _, _, tsk_moves (chans [chan 0 me 0 (List.replicate 3 (entry [1, 2, 3, 4]))]) [(1, 1), (2, 7)] 2 (by decide), rfl, rfl,
      rfl, rfl, rfl, by decide, rfl, rfl⟩,
    ⟨_, _, _, _, tsk_moves (chans [chan 0 me 0 (List.replicate 4 (entry [1, 2, 3, 4]))]) [(1, 1), (2, 7)] 2 (by decide), rfl, rfl,
      rfl, rfl, rfl⟩,
    ⟨_, _, _, _, _, tsk_moves (chans [chan 2 me 0 []]) [(1, 1), (2, 64)] 2 (by decide), rfl, rfl, rfl, rfl, rfl, rfl, rfl, rfl, rfl⟩,
    ⟨_, _, _, _, 3, tsk_moves (chans [chan 0 0 me []]) [(1, 1)] 2 (by decide), rfl, rfl, by decide +kernel⟩,
    ⟨_, _, _, _, _, task_found (chans [chan 0 me 0 []])
      { tsk [(1, 1)] with wait := some (.chPushW 1 2), paid := true, pushData := some [1, 2, 3, 4] }, rfl, rfl, rfl, rfl, rfl,
      rfl, rfl, rfl⟩⟩

theorem witness_ChannelPops :
    (∃ word d a b s t u c, popForm (.chPopW 5 1) = some (word, d, a, b) ∧ OnThread s t 2 ∧ chanBad (t.x a) = false ∧
      (charged s t 2).openChan (drawn s t 2) (chanNum (t.x a)) = (u, .ok c) ∧ c.popBad t.handle (some word) = none ∧
      c.next ≠ none) ∧
    (∃ word d a b s t u c, popForm (.chPopD 5 1 2) = some (word, d, a, b) ∧ OnThread s t 2 ∧ chanBad (t.x a) = false ∧
      (charged s t 2).openChan (drawn s t 2) (chanNum (t.x a)) = (u, .ok c) ∧ c.popBad t.handle (some word) = none ∧ c.size = 16 ∧
      b ≠ 0 ∧ t.elementTrap (t.x b).toNat c.size = none ∧ c.next = none) ∧
    (∃ s t u c sub, OnThread s t 2 ∧ chanBad (t.x 1) = false ∧
      (charged s t 2).openChan (drawn s t 2) (chanNum (t.x 1)) = (u, .ok c) ∧ c.popBad t.handle (some true) = some sub) ∧
    (∃ (s : State) (t : Task) (u : State) (c : Chan), s.task? t.handle = some t ∧ t.gate = .running ∧ t.threadFrozen = false ∧ t.paid = true ∧
      t.wait = some (.chPopW 5 1) ∧ chanBad (t.x 1) = false ∧ s.openChan t (chanNum (t.x 1)) = (u, .ok c) ∧
      c.popBad t.handle (some true) = none) ∧
    ∃ s t u c, OnThread s t 1 ∧ chanBad (t.x 1) = false ∧
      (charged s t 1).openChan (drawn s t 1) (chanNum (t.x 1)) = (u, .ok c) ∧ c.popBad t.handle none = none ∧ c.next ≠ none :=
  ⟨⟨_, _, _, _, _, _, _, _, rfl, tsk_moves (chans [chan 0 0 me [entry [1, 2, 3, 4]]]) [(1, 1)] 2 (by decide), rfl, rfl, rfl,
      by decide⟩,
    ⟨_, _, _, _, _, _, _, _, rfl, tsk_moves (chans [chan 2 0 me []]) [(1, 1), (2, 64)] 2 (by decide), rfl, rfl, rfl, rfl, by decide,
      rfl, rfl⟩,
    ⟨_, _, _, _, 4, tsk_moves (chans [chan 0 me 0 []]) [(1, 1)] 2 (by decide), rfl, rfl, by decide +kernel⟩,
    ⟨_, _, _, _, task_found (chans [chan 0 0 me []]) { tsk [(1, 1)] with wait := some (.chPopW 5 1), paid := true }, rfl, rfl, rfl,
      rfl, rfl, rfl, rfl⟩,
    ⟨_, _, _, _, tsk_moves (chans [chan 0 0 me [entry [1, 2, 3, 4]]]) [(1, 1)] 1 (by decide), rfl, rfl, rfl, by decide⟩⟩

/-! ### What meets the hypotheses: matrix commands -/

/-- The last format code and the largest tile count; BF16 on a section; the last of two engines, with its queues empty or not. -/
theorem witness_MatrixCommands :
    (∃ s t e, OnThread s t 1 ∧ t.engine? ((t.x 1).toNat % 16) = some e ∧ (t.x 1).toNat % 16 < t.crec.engines ∧
      t.x 1 &&& 0xFFFFFF0000008000 = 0 ∧ (t.x 1).toNat / 16 % 16 = 8 ∧ (t.x 1).toNat / 2 ^ 16 % 2 ^ 24 ≠ 0 ∧ e.empty = true ∧
      (∀ o ∈ t.engines, o.k ≠ e.k → o.sec = some 3 → o.fmt = some ((t.x 1).toNat / 16 % 16)) ∧
      (t.x 2).toNat % destBytes ((t.x 1).toNat / 16 % 16) = 0 ∧
      sideOk t.frames t.crec.rows e.k ((t.x 1).toNat / 2 ^ 12 % 4) ((t.x 1).getLsbD 11) = true) ∧
    (∃ s t e, OnThread s t 1 ∧ t.engine? ((t.x 1).toNat % 16) = some e ∧ (t.x 1).toNat % 16 < t.crec.engines ∧
      t.x 1 &&& 0xFFFFFF0000008000 = 0 ∧ (t.x 1).toNat / 16 % 16 ≤ 8 ∧ (t.x 1).toNat / 2 ^ 16 % 2 ^ 24 ≠ 0 ∧ e.empty = false) ∧
    (∃ s t e, OnThread s t 1 ∧ t.engine? ((t.x 1).toNat % 16) = some e ∧ (t.x 1).toNat % 16 < t.crec.engines ∧
      t.x 1 &&& 0xFFFFFFFFFFFFFFF0 = 0 ∧ e.fmt ≠ none ∧ e.code < 2 ∧ (t.x 2).toNat % 64 = 0) ∧
    (∃ s t e, OnThread s t 1 ∧ t.engine? ((t.x 1).toNat % 16) = some e ∧ (t.x 1).toNat % 16 < t.crec.engines ∧
      t.x 1 &&& 0xFFFFFFFFFFFFFFC0 = 0 ∧ (t.x 1).toNat / 16 % 4 = 3 ∧ e.fmt ≠ none ∧ e.code < 2 ∧ (t.x 2).toNat % 64 = 0) ∧
    (∃ s t e, OnThread s t 1 ∧ t.engine? ((t.x 1).toNat % 16) = some e ∧ (t.x 1).toNat % 16 < t.crec.engines ∧
      t.x 1 &&& 0xFFFFFFFFFFFFFFF0 = 0 ∧ e.empty = true) ∧
    ∃ s t e, OnThread s t 1 ∧ t.engine? ((t.x 1).toNat % 16) = some e ∧ (t.x 1).toNat % 16 < t.crec.engines ∧
      t.x 1 &&& 0xFFFFFFFFFFFFFFF0 = 0 ∧ e.empty = false :=
  ⟨⟨_, _, _, tsk_moves base [(1, 0xFFFFFF0080), (2, 0x1008)] 1 (by decide), rfl, by decide +kernel, by decide +kernel,
      by decide +kernel, by decide +kernel, rfl, by decide, by decide +kernel, by decide +kernel⟩,
    ⟨_, _, _, task_moves base (queued [(1, 0x10000)]) 1 rfl rfl rfl rfl rfl (by decide), rfl, by decide +kernel, by decide +kernel,
      by decide +kernel, by decide +kernel, rfl⟩,
    ⟨_, _, _, task_moves base (engTask [(1, 0), (2, 0x1000)]) 1 rfl rfl rfl rfl rfl (by decide), rfl, by decide +kernel,
      by decide +kernel, by decide, by decide, by decide +kernel⟩,
    ⟨_, _, _, task_moves base (engTask [(1, 0x30), (2, 64)]) 1 rfl rfl rfl rfl rfl (by decide), rfl, by decide +kernel,
      by decide +kernel, by decide +kernel, by decide, by decide, by decide +kernel⟩,
    ⟨_, _, _, tsk_moves base [] 1 (by decide), rfl, by decide +kernel, by decide +kernel, rfl⟩,
    ⟨_, _, _, task_moves base (queued []) 1 rfl rfl rfl rfl rfl (by decide), rfl, by decide +kernel, by decide +kernel, rfl⟩⟩

/-- The first engine beyond those allotted, a reserved bit, an engine without a format, the first format code that is none, MX9 where
BF16 or FP16 is asked for, the ways in which `mx.arm` is refused, and a task without engines. -/
theorem witness_MatrixTraps :
    (∃ n a r f s t, engineOperand (.mxSwap 1) = some (n, a, r, f) ∧ OnThread s t n ∧ t.crec.engines ≠ 0 ∧
      t.crec.engines = (t.x a).toNat % 16) ∧
    (∃ n a r f s t, engineOperand (.mxStat 5 1) = some (n, a, r, f) ∧ OnThread s t n ∧ t.crec.engines ≠ 0 ∧ t.x a &&& r ≠ 0) ∧
    (∃ n a r f s t e, engineOperand (.mxLds 1 2) = some (n, a, r, f) ∧ OnThread s t n ∧ t.crec.engines ≠ 0 ∧ f = true ∧
      (t.x a).toNat % 16 < t.crec.engines ∧ t.x a &&& r = 0 ∧ t.engine? ((t.x a).toNat % 16) = some e ∧ e.fmt = none) ∧
    (∃ s t e, OnThread s t 1 ∧ (t.x 1).toNat % 16 < t.crec.engines ∧ t.x 1 &&& 0xFFFFFF0000008000 = 0 ∧
      t.engine? ((t.x 1).toNat % 16) = some e ∧ (t.x 1).toNat / 16 % 16 = 9) ∧
    (∃ s t e, OnThread s t 1 ∧ t.x 1 &&& 0xFFFFFFFFFFFFFFF0 = 0 ∧ (t.x 1).toNat % 16 < t.crec.engines ∧
      t.engine? ((t.x 1).toNat % 16) = some e ∧ e.fmt = some 2) ∧
    (∃ s t, OnThread s t 1 ∧ t.crec.engines ≠ 0 ∧ (t.x 1).toNat = 2 ^ 32) ∧
    (∃ s t, OnThread s t 1 ∧ t.crec.engines ≠ 0 ∧ (t.x 2).toNat / 2 ^ 32 % 2 ^ 30 = 2 ^ 29) ∧
    (∃ s t, OnThread s t 1 ∧ t.crec.engines ≠ 0 ∧ t.sectionEngines 3 = []) ∧
    ∃ s t, OnThread s t 0 ∧ t.crec.engines = 0 :=
  ⟨⟨_, _, _, _, _, _, rfl, tsk_moves base [(1, 1)] 1 (by decide), by decide, by decide +kernel⟩,
    ⟨_, _, _, _, _, _, rfl, tsk_moves base [(1, 16)] 1 (by decide), by decide, by decide +kernel⟩,
    ⟨_, _, _, _, _, _, _, rfl, tsk_moves base [(1, 0)] 2 (by decide), by decide, rfl, by decide +kernel, by decide +kernel, rfl, rfl⟩,
    ⟨_, _, _, tsk_moves base [(1, 0x90)] 1 (by decide), by decide +kernel, by decide +kernel, rfl, by decide +kernel⟩,
    ⟨_, _, _, task_moves base { tsk [] with engines := [{ Engine.fresh 0 with sec := some 3, fmt := some 2 }] } 1 rfl rfl rfl rfl rfl
      (by decide), by decide +kernel, by decide +kernel, rfl, rfl⟩,
    ⟨_, _, tsk_moves base [(1, 0x100000000)] 1 (by decide), by decide, by decide +kernel⟩,
    ⟨_, _, tsk_moves base [(2, 0x2000000000000000)] 1 (by decide), by decide, by decide +kernel⟩,
    ⟨_, _, tsk_moves base [] 1 (by decide), by decide, rfl⟩,
    ⟨_, _, task_moves base { tsk [] with crec := { (tsk []).crec with dw5 := 0 } } 0 rfl rfl rfl rfl rfl (by decide), by decide⟩⟩

theorem witness_MatrixGrants :
    (∃ s t e, OnThread s t 2 ∧ (t.x 1).toNat % 16 < t.crec.engines ∧ t.x 1 &&& 0xFFFFFFFF000000E0 = 0 ∧
      t.engine? ((t.x 1).toNat % 16) = some e ∧ e.fmt ≠ none ∧ t.ldsBad e (t.x 1) (t.x 2) = none ∧
      2 + ldsBlocks e.code * 2 = t.account) ∧
    (∃ s t, OnThread s t 1 ∧ t.crec.engines ≠ 0 ∧ (t.x 1).toNat = 2 ^ 32 - 1 ∧ (t.x 2).toNat / 2 ^ 32 % 2 ^ 30 = 0 ∧
      t.sectionEngines 3 ≠ [] ∧ (t.x 2).getLsbD 63 = false ∧ 1 + (t.x 2).toNat % 2 ^ 32 * t.sectionDraw 3 ≤ t.account) ∧
    ∃ s t e u t' gs, OnThread s t 1 ∧ (t.x 1).toNat % 16 < t.crec.engines ∧ t.x 1 &&& 0x7FFFFFFF0000FFF0 = 0 ∧
      t.engine? ((t.x 1).toNat % 16) = some e ∧ e.fmt ≠ none ∧ e.sec ≠ none ∧ (t.x 1).getLsbD 63 = false ∧ (t.x 2).toNat % 16 = 0 ∧
      State.groupTable (t.x 2).toNat ((t.x 1).toNat / 2 ^ 16 % 2 ^ 16 + 1) 0 (charged s t 1) (drawn s t 1) = (u, .ok (t', gs)) ∧
      1 + drawOf (groupRuns e.code gs) ≤ t.account :=
  ⟨⟨_, _, _, task_moves base { engTask [(1, 0x4000), (2, 0x1000)] with account := 130 } 2 rfl rfl rfl rfl rfl (by decide),
      by decide +kernel, by decide +kernel, rfl, by decide, by decide +kernel, by decide⟩,
    ⟨_, _, task_moves base (engTask [(1, 0xFFFFFFFF), (2, 2)]) 1 rfl rfl rfl rfl rfl (by decide), by decide, by decide +kernel,
      by decide +kernel, by decide, by decide +kernel, by decide +kernel⟩,
    ⟨_, _, _, _, _, _, task_moves base (engTask [(1, 0), (2, 0x1000)]) 1 rfl rfl rfl rfl rfl (by decide), by decide +kernel,
      by decide +kernel, rfl, by decide, by decide, by decide +kernel, by decide +kernel, rfl, by decide +kernel⟩⟩


/-! ### What meets the hypotheses: the units of a gang, waits that end, grants -/

/-- A record with one lane. -/
def oneLane : LinkRec := { v := List.replicate 16 1, m := 1, a := 1, t := 0, p := 0 }

/-- A task whose cell 0 has a compute unit with operation `op`, input 0 and a record on it; fibre or not. -/
def cuTask (op : Nat) (fibre : Bool) : Task :=
  { tsk [] with cells := [{ Cell.fresh 0 (some (BitVec.ofNat 240 (op + 2 ^ 192 + if fibre then 2 ^ 202 else 0))) none none with
      links := (List.replicate 10 []).set 5 [.record oneLane] }] }

/-- A task whose memory unit has a launched pass of 3 records, all granted. -/
def muFires : Task :=
  { muTask 0 with
    gos := [{ id := 1, sec := 0, addr := 0, gate := none, launched := true, srcs := [] }]
    cells := (muTask 0).cells.map fun (x : Cell) =>
      { x with passes := [{ go := 1, total := 3, granted := 3, pos := 0, num := 0, lo := 0 }] } }

/-- A task with a generator of some mode at place 0. -/
def agTask (m : Nat) : Task := { tsk [] with ags := [Ag.fresh 0 (BitVec.ofNat 240 m)] }

theorem works_of (s : State) (t : Task) (h : t.ready = true) (g : t.gate ≠ .stopped) : Works (with1 s t) t :=
  ⟨task_found s t, h, g⟩

/-- The cell of a task, its unit, and what its frame holds. -/
theorem cu_of (i : Instr) (h : Word) (c : Nat) (k : BitVec 240 → Prop) (t : Task) (v : BitVec 240) (e : cuStep i = some (h, c, k))
    (eh : h = t.handle) (hr : t.ready = true) (g : t.gate ≠ .stopped) (ec : (t.cell? c).bind Cell.cu = some v) (kv : k v) :
    ∃ h c k v s t, cuStep i = some (h, c, k) ∧ h = t.handle ∧ Works s t ∧ (t.cell? c).bind Cell.cu = some v ∧ k v :=
  ⟨h, c, k, v, _, t, e, eh, works_of base t hr g, ec, kv⟩

theorem witness_FabricBeats_units :
    (∃ h c k v s t, cuStep (.cuFire me 0) = some (h, c, k) ∧ h = t.handle ∧ Works s t ∧
      (t.cell? c).bind Cell.cu = some v ∧ k v) ∧
    (∃ h c k v s t, cuStep (.fibreUnitFire me 0) = some (h, c, k) ∧ h = t.handle ∧ Works s t ∧
      (t.cell? c).bind Cell.cu = some v ∧ k v) ∧
    (∃ h c k v s t, cuStep (.joinStep me 0) = some (h, c, k) ∧ h = t.handle ∧ Works s t ∧
      (t.cell? c).bind Cell.cu = some v ∧ k v) ∧
    (∃ h c k v s t, cuStep (.pmtEnter me 0) = some (h, c, k) ∧ h = t.handle ∧ Works s t ∧
      (t.cell? c).bind Cell.cu = some v ∧ k v) ∧
    (∃ h c k v s t, cuStep (.pmtExit me 0) = some (h, c, k) ∧ h = t.handle ∧ Works s t ∧
      (t.cell? c).bind Cell.cu = some v ∧ k v) ∧
    (∃ h c k v s t, cuStep (.ctlSeq me 0) = some (h, c, k) ∧ h = t.handle ∧ Works s t ∧
      (t.cell? c).bind Cell.cu = some v ∧ k v) ∧
    (∃ h c k v s t, cuStep (.ctlPipe me 0) = some (h, c, k) ∧ h = t.handle ∧ Works s t ∧
      (t.cell? c).bind Cell.cu = some v ∧ k v) ∧
    (∃ h c k v s t, cuStep (.ctlStrm me 0) = some (h, c, k) ∧ h = t.handle ∧ Works s t ∧
      (t.cell? c).bind Cell.cu = some v ∧ k v) ∧
    ∃ h c k v s t, cuStep (.barNode me 0) = some (h, c, k) ∧ h = t.handle ∧ Works s t ∧
      (t.cell? c).bind Cell.cu = some v ∧ k v :=
  ⟨cu_of _ _ _ _ (cuTask 0x20 false) _ rfl rfl rfl (by decide) rfl (by decide +kernel),
    cu_of _ _ _ _ (cuTask 0x20 true) _ rfl rfl rfl (by decide) rfl (by decide +kernel),
    cu_of _ _ _ _ (cuTask 0x66 true) _ rfl rfl rfl (by decide) rfl (by decide +kernel),
    cu_of _ _ _ _ (cuTask 0x80 false) _ rfl rfl rfl (by decide) rfl (by decide +kernel),
    cu_of _ _ _ _ (cuTask 0x81 false) _ rfl rfl rfl (by decide) rfl (by decide +kernel),
    cu_of _ _ _ _ (cuTask 0x82 false) _ rfl rfl rfl (by decide) rfl (by decide +kernel),
    cu_of _ _ _ _ (cuTask 0x83 false) _ rfl rfl rfl (by decide) rfl (by decide +kernel),
    cu_of _ _ _ _ (cuTask 0x84 false) _ rfl rfl rfl (by decide) rfl (by decide +kernel),
    cu_of _ _ _ _ (cuTask 0x86 false) _ rfl rfl rfl (by decide) rfl (by decide +kernel)⟩

/-- Generators of each mode; a compute unit and a memory unit that fire. -/
theorem witness_FabricBeats :
    (∀ m ∈ [1, 2, 3, 4, 5], Works (with1 base (agTask m)) (agTask m) ∧ ∃ a, (agTask m).ag? 0 = some a ∧ agMode a.frame = m) ∧
    okB ((with1 base (cuTask 0x20 false)).beat (cuTask 0x20 false) (.cu 0)) = true ∧
    Works (with1 base muFires) muFires ∧ okB ((with1 base muFires).beat muFires (.mu 0)) = true := by
  refine ⟨?_, by decide +kernel, works_of _ _ rfl (by decide), by decide +kernel⟩
  intro m hm
  exact ⟨works_of _ _ rfl (fun e => nomatch e), _, rfl, by revert m; decide +kernel⟩

theorem witness_RecordOperations : ∃ (a : LinkRec) (b i : Nat), i < 16 ∧ a.m.getLsbD i = true ∧ a.m.getLsbD 15 = false :=
  ⟨oneLane, 0, 0, by decide, by decide, by decide⟩

/-- A firing of a portal cell with one request outstanding, for lane 3. -/
def portalTask : Task :=
  { tsk [] with
    portalReqs := 1
    cells := [{ Cell.fresh 5 (some (BitVec.ofNat 240 0x85)) none none with
      portal := [{ item := oneLane, waiting := [(7, 3)], out := true }] }] }

/-- A generator with a gather outstanding. -/
def gatherTask : Task := { tsk [] with ags := [{ Ag.fresh 0 2 with gathers := [(0x1000, none)] }] }

theorem witness_Replies :
    (∃ (s : State) (t : Task) (x : Cell) (v : BitVec 240) (lane : Nat), s.task? t.handle = some t ∧ t.cell? 5 = some x ∧ x.cu = some v ∧ x.reqLane 7 = some lane ∧
      t.running = true) ∧
    (∃ (s : State) (t : Task) (x : Cell) (v : BitVec 240) (lane : Nat), s.task? t.handle = some t ∧ t.cell? 5 = some x ∧ x.cu = some v ∧ x.reqLane 7 = some lane ∧
      t.running = false) ∧
    ∃ s t a u t' b, Works s t ∧ t.ag? 0 = some a ∧ agMode a.frame = 2 ∧ t.portFrozen a.port = false ∧
      s.gatherReply t a 0 = .ok (u, t') ∧ t'.ag? 0 = some b :=
  ⟨⟨with1 base portalTask, portalTask, _, _, 3, task_found _ _, rfl, rfl, rfl, rfl⟩,
    ⟨with1 base { portalTask with ready := false }, { portalTask with ready := false }, _, _, 3, task_found _ _, rfl, rfl, rfl, rfl⟩,
    ⟨_, gatherTask, _, _, _, _, works_of base _ rfl (by decide), rfl, by decide, rfl, rfl, rfl⟩⟩

/-- Engine 0 of a task. -/
def engine (f : Engine → Engine) : Task := { tsk [] with engines := [f { Engine.fresh 0 with sec := some 3, fmt := some 0 }] }

/-- A load that stands at the head of its queue, of kind `k`. -/
def load (k : LoadKind) : LoadCmd :=
  { id := 1, kind := k, base := 0x1000, addr := 0, seq := 0, swaps := 0, granted := 64, total := 64, buf := [] }

/-- A tile of operation 1 in the array queue. -/
def tile1 (mig : Bool) : ArrCmd := { kind := .tiles 1 1 false mig 0 0, seq := 0, addr := 0 }

/-- A load, a swap and a tile that run; the load of a condensed plane; a MIG command behind a swap that moves to the idle engine of
cluster 1, and one whose next cluster is disabled. -/
theorem witness_EngineSteps :
    (∃ s t e, Works s t ∧ t.engine? 0 = some e ∧ t.portFrozen e.port = false ∧ e.swapReady = true) ∧
    (∃ s t e u t', Works s t ∧ t.engine? 0 = some e ∧ t.portFrozen e.port = false ∧ e.loadReady = true ∧
      s.loadRun t e = (u, t', none) ∧ t' ≠ t) ∧
    (∃ s t e l r u t' p y, Works s t ∧ t.engine? 0 = some e ∧ t.portFrozen e.port = false ∧ e.loads = l :: r ∧
      e.loadReady = true ∧ l.kind = .csr ∧ s.csrRun t e l = .ok (u, t', p) ∧ t'.engine? e.k = some y) ∧
    (∃ s t e op n ovw u t' e', Works s t ∧ t.engine? 0 = some e ∧ t.portFrozen e.port = false ∧ e.tile? = some (op, n, ovw) ∧
      State.tileRows 0 op (e.tileOvw.getD ovw) e.rows.length s t = (u, t', none) ∧ t'.engine? 0 = some e' ∧ e'.rowsDone = 64) ∧
    (∃ s t e x op n ovw a b, Works s t ∧ t.engine? 0 = some e ∧ t.portFrozen e.port = false ∧ e.arr[1]? = some x ∧
      x.kind = .tiles op n ovw true a b ∧ (∀ m ∈ e.migrated, m.1 ≠ op) ∧ (s.die t.die).has (((t.member 0).cluster + 1) % 104) = true ∧
      s.engineTaken t.die (((t.member 0).cluster + 1) % 104) = false ∧ (s.die t.die).gated (((t.member 0).cluster + 1) % 104) = false) ∧
    ∃ s t e x op n ovw a b, Works s t ∧ t.engine? 0 = some e ∧ t.portFrozen e.port = false ∧ e.arr[0]? = some x ∧
      x.kind = .tiles op n ovw true a b ∧ (∀ m ∈ e.migrated, m.1 ≠ op) ∧ e.taken = 0 ∧ e.beats = [] ∧ e.headerTaken = false ∧
      (s.die t.die).has (((t.member 0).cluster + 1) % 104) = false :=
  ⟨⟨_, engine fun e => { e with arr := [{ kind := .swap, seq := 0, addr := 0 }] }, _, works_of base _ rfl (by decide), rfl, rfl, rfl⟩,
    ⟨_, engine fun e => { e with loads := [load .csr] }, _, _, _, works_of base _ rfl (by decide), rfl, rfl, rfl, rfl,
      by decide +kernel⟩,
    ⟨_, engine fun e => { e with loads := [load .csr] }, _, _, _, _, _, _, _, works_of base _ rfl (by decide), rfl, rfl, rfl, rfl,
      rfl, rfl, rfl⟩,
    ⟨_, engine fun e => { e with arr := [tile1 false], rowsDone := 64 }, _, 1, 1, false,
      _, _, _, works_of base _ rfl (by decide), rfl, rfl, rfl, rfl, rfl, rfl⟩,
    ⟨_, engine fun e => { e with arr := [{ kind := .swap, seq := 0, addr := 0 }, tile1 true] }, _, _, 1, 1, false, 0, 0,
      works_of base _ rfl (by decide), rfl, rfl, rfl, rfl, by decide, by decide +kernel, by decide +kernel, by decide +kernel⟩,
    ⟨with1 (base.updDie 0 fun x => { x with enabled := 1 }) (engine fun e => { e with arr := [tile1 true] }),
      engine fun e => { e with arr := [tile1 true] }, _, _, 1, 1, false, 0, 0,
      works_of _ _ rfl (by decide), rfl, rfl, rfl, rfl, by decide, rfl, rfl, rfl, by decide +kernel⟩⟩

/-- A task that waits in an instruction. -/
def waits (i : Instr) : Task := { tsk [] with wait := some i, paid := true }

theorem waits_in (s : State) (t : Task) (i : Instr) (h1 : t.gate = .running) (h2 : t.threadFrozen = false) (h3 : t.paid = true)
    (h4 : t.wait = some i) : Waits (with1 s t) t i := ⟨task_found s t, h1, h2, h3, h4⟩

theorem witness_WaitReleases :
    (∃ s t, Waits s t .bar ∧ t.arms = [] ∧ t.barMet = true ∧ t.openPass (fun _ => true) = none) ∧
    (∃ s t fs, Waits s t .barCfg ∧ t.arms = [] ∧ t.barMet = true ∧ t.openPass (fun _ => true) = none ∧ t.staged = some fs ∧
      t.bindingsOk fs = true) ∧
    (∃ s t, Waits s t (.drain 7) ∧ s.drainMet t 7 = true ∧ t.openPass (· == 7) = none) ∧
    (∃ s t, Waits s t (.tlWait 7 2) ∧ t.tlWaitBad 7 (t.x 2).toNat = false ∧ (t.x 2).toNat ≤ t.timeline 7) ∧
    (∃ s t, Waits s t (.tlWait 2 2) ∧ t.arms = [] ∧ t.tlWaitBad 2 (t.x 2).toNat = false ∧ (t.x 2).toNat ≤ t.timeline 2) ∧
    (∃ s t, Waits s t .barCfg ∧ t.arms = [] ∧ t.barMet = true ∧ t.openPass (fun _ => true) = none ∧ t.staged = none) ∧
    ∃ (s : State) (t : Task), s.task? t.handle = some t :=
  ⟨⟨_, waits .bar, waits_in base _ _ rfl rfl rfl rfl, rfl, rfl, rfl⟩,
    ⟨_, { waits .barCfg with staged := some [] }, [], waits_in base _ _ rfl rfl rfl rfl, rfl, rfl, rfl, rfl, rfl⟩,
    ⟨_, waits (.drain 7), waits_in base _ _ rfl rfl rfl rfl, rfl, rfl⟩,
    ⟨_, waits (.tlWait 7 2), waits_in base _ _ rfl rfl rfl rfl, by decide +kernel, by decide +kernel⟩,
    ⟨_, waits (.tlWait 2 2), waits_in base _ _ rfl rfl rfl rfl, rfl, by decide +kernel, by decide +kernel⟩,
    ⟨_, waits .barCfg, waits_in base _ _ rfl rfl rfl rfl, rfl, rfl, rfl, rfl⟩,
    ⟨with1 base (tsk []), tsk [], task_found _ _⟩⟩

/-- A nest of the example of R35 with every element granted, and a copy of one element. -/
def nestTask : Task :=
  { tsk [] with nests := [{ id := 1, addr := 0, w := sum16, bd := 0x1000, ba := 0x2000, bb := 0x3000, granted := 16, ran := 0, v := 0 }] }

def copyTask (ran : Nat) (gate : Option (Nat × Nat) := none) : Task :=
  { tsk [] with copies := [
    { id := 1, n := 1, num := 1, addr := 0, granted := 1, ran := ran, running := false, cancelled := false, finished := false
      d := { src := 0x1000, dst := 0x2000, sscratch := false, dscratch := false, esize := 2, gate := gate, dmd := false, conv := 0,
             rm := 0, cluster := 0, join := 4, dims := [(1, 0, 0)] }
      rest := [] }] }

/-- A nest; a copy without a gate, and one whose gate is reached; a copy that is done. -/
theorem witness_NestAndCopySteps :
    (∃ s t n r u t' n', Works s t ∧ t.nests = n :: r ∧ t.isFrozen 6 0 0 = false ∧
      State.nestElements (n.granted - n.ran) s t n = (u, t', n', none)) ∧
    (∃ s t c u t' c', Works s t ∧ s.copyHead t 0 1 = some c ∧ t.portFrozen c.port = false ∧ c.d.gate = none ∧
      State.copyElements (c.allowed - c.ran) s t { c with running := true } = (u, t', c', none) ∧ c'.cancelled = false) ∧
    (∃ s t c u t' c', Works s t ∧ s.copyHead t 0 1 = some c ∧ t.portFrozen c.port = false ∧ c.d.gate = some (7, 0) ∧
      0 ≤ t.timeline 7 ∧ State.copyElements (c.allowed - c.ran) s t { c with running := true } = (u, t', c', none) ∧
      c'.cancelled = false) ∧
    ∃ (s : State) (t : Task) (c : Copy), s.task? t.handle = some t ∧ s.copyHead t 0 1 = some c ∧ c.d.total ≤ c.ran :=
  ⟨⟨_, nestTask, _, _, _, _, _, works_of base _ rfl (by decide), rfl, rfl, rfl⟩,
    ⟨_, copyTask 0, _, _, _, _, works_of base _ rfl (by decide), rfl, rfl, rfl, rfl, rfl⟩,
    ⟨_, copyTask 0 (some (7, 0)), _, _, _, _, works_of base _ rfl (by decide), rfl, rfl, rfl, Nat.zero_le _, rfl, rfl⟩,
    ⟨with1 base (copyTask 1), copyTask 1, _, task_found _ _, rfl, by decide⟩⟩

/-- A command of 3 units of 2 grains, one of which is granted. -/
def command : Cmd := { kind := .copy 1, addr := 0, issue := 2, issued := true, runs := [(3, 2)], done := 1 }

/-- An account for no unit, with a hold, in HOLD and with neither; for one of the two units that remain, and for both; a prefix that is
done, of a copy and of a load; a hold that has run out, the granted work done or not; a task without operations on tl2. -/
theorem witness_PrefixGrants :
    (∃ (t : Task) (c : Cmd) (sum : Nat), c.done < c.units ∧ takeUnits c.runs c.done t.account = (0, sum) ∧
      t.gate ≠ .hold ∧ t.holdField ≠ 0) ∧
    (∃ (t : Task) (c : Cmd) (sum : Nat), c.done < c.units ∧ takeUnits c.runs c.done t.account = (0, sum) ∧
      t.gate = .hold ∧ t.holdLeft ≠ 0) ∧
    (∃ (t : Task) (c : Cmd) (sum : Nat), c.done < c.units ∧ takeUnits c.runs c.done t.account = (0, sum) ∧
      t.gate ≠ .hold ∧ t.holdField = 0 ∧ t.idle = true) ∧
    (∃ (t : Task) (c : Cmd) (sum : Nat), c.done < c.units ∧ takeUnits c.runs c.done t.account = (1, sum) ∧
      c.done + 1 < c.units) ∧
    (∃ (t : Task) (c : Cmd) (sum : Nat), c.done < c.units ∧ takeUnits c.runs c.done t.account = (2, sum) ∧
      c.done + 2 = c.units) ∧
    (∃ t : Task, t.crec.notice = false) ∧
    (∃ (s : State) (t : Task) (c : Cmd), s.task? t.handle = some t ∧ t.gate = .short ∧ t.cmd = some c ∧ t.prefixDone c = true ∧
      c.kind ≠ .cfgLoad ∧ c.kind ≠ .image) ∧
    (∃ (s : State) (t : Task) (c : Cmd), s.task? t.handle = some t ∧ t.gate = .short ∧ t.cmd = some c ∧ t.prefixDone c = true ∧
      c.kind = .cfgLoad) ∧
    (∃ (s : State) (t : Task) (c : Cmd), s.task? t.handle = some t ∧ t.gate = .hold ∧ t.cmd = some c ∧ t.holdLeft = 0 ∧
      s.workDone t = true) ∧
    (∃ (s : State) (t : Task) (c : Cmd), s.task? t.handle = some t ∧ t.gate = .hold ∧ t.cmd = some c ∧ t.holdLeft = 0 ∧
      s.workDone t = false) ∧
    ∃ t : Task, t.idle = true ∧ t.ops2 = [] :=
  ⟨⟨{ tsk [] with account := 1, holdField := 1 }, command, 0, by decide, rfl, by decide, by decide⟩,
    ⟨{ tsk [] with account := 1, gate := .hold, holdLeft := 5 }, command, 0, by decide, rfl, by decide, by decide⟩,
    ⟨{ tsk [] with account := 1 }, command, 0, by decide, rfl, by decide, by decide, by decide +kernel⟩,
    ⟨{ tsk [] with account := 3 }, command, 2, by decide, rfl, by decide⟩,
    ⟨{ tsk [] with account := 4 }, command, 4, by decide, rfl, by decide⟩,
    ⟨tsk [], by decide +kernel⟩,
    ⟨with1 base { copyTask 1 with gate := .short, cmd := some command }, { copyTask 1 with gate := .short, cmd := some command },
      command, task_found _ _, rfl, rfl, by decide +kernel, by decide, by decide⟩,
    ⟨with1 base { tsk [] with gate := .short, cmd := some { command with kind := .cfgLoad } },
      { tsk [] with gate := .short, cmd := some { command with kind := .cfgLoad } }, _, task_found _ _, rfl, rfl, by decide +kernel, rfl⟩,
    ⟨with1 base { tsk [] with gate := .hold, cmd := some { command with kind := .instr } },
      { tsk [] with gate := .hold, cmd := some { command with kind := .instr } }, _, task_found _ _, rfl, rfl, rfl, by decide +kernel⟩,
    ⟨with1 base { nestTask with gate := .hold, cmd := some { command with kind := .instr } },
      { nestTask with gate := .hold, cmd := some { command with kind := .instr } }, _, task_found _ _, rfl, rfl, rfl, by decide +kernel⟩,
    ⟨tsk [], by decide +kernel, rfl⟩⟩

/-! ### What meets the hypotheses: what each kind of unit does in a beat -/

/-- What the statements ask of a beat in which a unit fires by itself and leaves its task as `T`. -/
def Alone (t : Task) (u : FUnit) (T : Task) : Prop :=
  Looks t u ∧ T.beatFault = none ∧ (t.stamp T u).spareOuts u = [] ∧ (t.stamp T u).zeroHeld = []

/-- A beat of a unit looks at links with slots only. -/
def looks (t : Task) (u : FUnit) : Bool :=
  t.hop1 == none && match t.wants u with
    | l :: _ => l.all fun d => t.slots d != 0
    | [] => false

def alone (t : Task) (u : FUnit) (o : Option Task) : Bool :=
  match o with
  | some T => looks t u && T.beatFault == none && (t.stamp T u).spareOuts u == [] && (t.stamp T u).zeroHeld == []
  | none => false

theorem looks_of {t : Task} {u : FUnit} (h : looks t u = true) : Looks t u := by
  unfold looks at h
  rw [Bool.and_eq_true] at h
  refine ⟨by simpa using h.1, ?_⟩
  have h2 := h.2
  split at h2
  · rename_i l r e
    exact ⟨l, r, e, fun d hd => by simpa using (List.all_eq_true.mp h2) d hd⟩
  · cases h2

theorem alone_of {t : Task} {u : FUnit} {o : Option Task} (h : alone t u o = true) : ∃ T, o = some T ∧ Alone t u T := by
  unfold alone at h
  split at h
  · rename_i T
    simp only [Bool.and_eq_true, beq_iff_eq] at h
    exact ⟨T, rfl, looks_of h.1.1.1, h.1.1.2, h.1.2, h.2⟩
  · cases h

/-- A compute unit's payload: the operation, selects a and b, the immediate of stage 0, input and output masks, fibre mode, and the
table of a join: entry k of outcome o in bits [2(3o + k) + 1 : 2(3o + k)]. -/
def cuWord (op a b imm ins outs : Nat) (fibre : Bool) (acts : Nat) : BitVec 240 :=
  BitVec.ofNat 240 (op + 2 ^ 8 * a + 2 ^ 11 * b + 2 ^ 24 * imm + 2 ^ 192 * ins + 2 ^ 196 * outs + (if fibre then 2 ^ 202 else 0) +
    2 ^ 206 * acts)

/-- A switch whose compute-unit inputs and memory-unit input hold one item each, from the north. -/
def oneSlot : BitVec 240 := BitVec.ofNat 240 (0x11 * (2 ^ 40 + 2 ^ 48 + 2 ^ 56 + 2 ^ 64 + 2 ^ 72))

/-- A task with one cell and what stands on its input ports. -/
def cellTask (v : BitVec 240) (ports : List (List Item)) (f : Cell → Cell) : Task :=
  { tsk [] with cells := [f { Cell.fresh 0 (some v) none (some oneSlot) with links := List.replicate 5 [] ++ ports ++ [[]] }] }

/-- The cell of a task. -/
def cellOf (t : Task) : Cell := t.cells.headD (Cell.fresh 0 none none none)

/-- A record of one lane with a tag, a pass count and a value. -/
def rec1 (t : BitVec 8) (p : BitVec 16) (w : Lane) : Item :=
  .record { v := w :: List.replicate 15 0, m := 1, a := 1, t := t, p := p }

/-- An addition of two records; `merge` in each of its modes; `recirc` with a record that comes round for the last time, and with one
that enters. -/
def adds : Task := cellTask (cuWord 0x01 0 1 0 3 1 false 0) [[rec1 1 0 5], [rec1 1 0 6], [], []] id
def merges (mode : Nat) (ports : List (List Item)) : Task := cellTask (cuWord 0x71 0 1 mode 3 1 false 0) ports id
def recircs (ports : List (List Item)) : Task := cellTask (cuWord 0x72 0 1 8 3 1 false 0) ports id

theorem works1 (t : Task) (h : t.ready = true) (g : t.gate = .running) : Works (with1 base t) t :=
  works_of _ _ h (by rw [g]; decide)

/-- An ordinary unit whose inputs each hold a record. -/
theorem witness_CuBeats_fires :
    ∃ (t : Task) (x : Cell) (v : BitVec 240) (T : Task), Works (with1 base t) t ∧ t.cell? 0 = some x ∧ x.cu = some v ∧
      cuFibre v = false ∧ cuOp v 0 < 0x80 ∧ cuOp v 0 ≠ 0x71 ∧ cuOp v 0 ≠ 0x72 ∧ cuIns v ≠ [] ∧
      (∀ n ∈ cuIns v, t.portHead 0 n ≠ none) ∧ t.fired x v (cuIns v) none = some T ∧ Alone t (.cu 0) T := by
  obtain ⟨T, e, a⟩ := alone_of (t := adds) (u := .cu 0) (o := adds.fired (cellOf adds) (cuWord 0x01 0 1 0 3 1 false 0)
    (cuIns (cuWord 0x01 0 1 0 3 1 false 0)) none) (by decide +kernel)
  exact ⟨adds, _, _, T, works1 _ rfl rfl, rfl, rfl, by decide +kernel, by decide +kernel, by decide +kernel, by decide +kernel,
    by decide +kernel, by decide +kernel, e, a⟩

/-- `merge` combines two records. -/
theorem witness_CuBeats_merge :
    ∃ (t : Task) (x : Cell) (v : BitVec 240) (p q : LinkRec) (T : Task), Works (with1 base t) t ∧ t.cell? 0 = some x ∧ x.cu = some v ∧
      cuFibre v = false ∧ cuOp v 0 = 0x71 ∧ cuImm v 0 % 4 = 0 ∧ t.portHead 0 (cuSel v 0 0) = some p ∧
      t.portHead 0 (cuSel v 0 1) = some q ∧ t.fired x v [cuSel v 0 0, cuSel v 0 1] (some (recombine p q)) = some T ∧
      Alone t (.cu 0) T := by
  have h : (merges 0 [[rec1 1 0 5], [rec1 1 0 6], [], []]).portHead 0 0 = some (rec1 1 0 5).asRecord := by decide +kernel
  have k : (merges 0 [[rec1 1 0 5], [rec1 1 0 6], [], []]).portHead 0 1 = some (rec1 1 0 6).asRecord := by decide +kernel
  obtain ⟨T, e, a⟩ := alone_of (t := merges 0 [[rec1 1 0 5], [rec1 1 0 6], [], []]) (u := .cu 0)
    (o := (merges 0 [[rec1 1 0 5], [rec1 1 0 6], [], []]).fired (cellOf (merges 0 [[rec1 1 0 5], [rec1 1 0 6], [], []]))
      (cuWord 0x71 0 1 0 3 1 false 0) [0, 1] (some (recombine (rec1 1 0 5).asRecord (rec1 1 0 6).asRecord))) (by decide +kernel)
  exact ⟨merges 0 [[rec1 1 0 5], [rec1 1 0 6], [], []], _, cuWord 0x71 0 1 0 3 1 false 0, _, _, T, works1 _ rfl rfl, rfl, rfl,
    by decide +kernel, by decide +kernel, by decide +kernel, h, k, e, a⟩

/-- `merge` takes turns, at port b; it prefers port a, and takes port b where a is empty. -/
theorem witness_CuBeats_pick :
    (∃ (t : Task) (x : Cell) (v : BitVec 240) (p : LinkRec) (T : Task), Works (with1 base t) t ∧ t.cell? 0 = some x ∧ x.cu = some v ∧
      cuOp v 0 = 0x71 ∧ cuImm v 0 % 4 = 1 ∧ x.turn = true ∧ t.portHead 0 (cuSel v 0 1) = some p ∧
      (t.putCell { x with turn := !x.turn }).fired x v [cuSel v 0 1] (some p) = some T ∧ Alone t (.cu 0) T) ∧
    (∃ (t : Task) (x : Cell) (v : BitVec 240) (p : LinkRec) (T : Task), Works (with1 base t) t ∧ t.cell? 0 = some x ∧ x.cu = some v ∧
      cuOp v 0 = 0x71 ∧ cuImm v 0 % 4 = 2 ∧ t.portHead 0 (cuSel v 0 0) = some p ∧
      t.fired x v [cuSel v 0 0] (some p) = some T ∧ Alone t (.cu 0) T) ∧
    ∃ (t : Task) (x : Cell) (v : BitVec 240) (p : LinkRec) (T : Task), Works (with1 base t) t ∧ t.cell? 0 = some x ∧ x.cu = some v ∧
      cuOp v 0 = 0x71 ∧ cuImm v 0 % 4 = 2 ∧ t.portHead 0 (cuSel v 0 0) = none ∧ t.portHead 0 (cuSel v 0 1) = some p ∧
      t.fired x v [cuSel v 0 1] (some p) = some T ∧ Alone t (.cu 0) T := by
  let t1 : Task := cellTask (cuWord 0x71 0 1 1 3 1 false 0) [[], [rec1 1 0 6], [], []] fun x => { x with turn := true }
  let t2 : Task := merges 2 [[rec1 1 0 5], [rec1 1 0 6], [], []]
  let t3 : Task := merges 2 [[], [rec1 1 0 6], [], []]
  obtain ⟨T1, e1, a1⟩ := alone_of (t := t1) (u := .cu 0) (o := (t1.putCell { cellOf t1 with turn := !(cellOf t1).turn }).fired
    (cellOf t1) (cuWord 0x71 0 1 1 3 1 false 0) [1] (some (rec1 1 0 6).asRecord)) (by decide +kernel)
  obtain ⟨T2, e2, a2⟩ := alone_of (t := t2) (u := .cu 0) (o := t2.fired (cellOf t2) (cuWord 0x71 0 1 2 3 1 false 0) [0]
    (some (rec1 1 0 5).asRecord)) (by decide +kernel)
  obtain ⟨T3, e3, a3⟩ := alone_of (t := t3) (u := .cu 0) (o := t3.fired (cellOf t3) (cuWord 0x71 0 1 2 3 1 false 0) [1]
    (some (rec1 1 0 6).asRecord)) (by decide +kernel)
  exact ⟨⟨t1, cellOf t1, cuWord 0x71 0 1 1 3 1 false 0, (rec1 1 0 6).asRecord, T1, works1 _ rfl rfl, rfl, rfl, by decide +kernel,
      by decide +kernel, rfl, by decide +kernel, e1, a1⟩,
    ⟨t2, cellOf t2, cuWord 0x71 0 1 2 3 1 false 0, (rec1 1 0 5).asRecord, T2, works1 _ rfl rfl, rfl, rfl, by decide +kernel,
      by decide +kernel, by decide +kernel, e2, a2⟩,
    ⟨t3, cellOf t3, cuWord 0x71 0 1 2 3 1 false 0, (rec1 1 0 6).asRecord, T3, works1 _ rfl rfl, rfl, rfl, by decide +kernel,
      by decide +kernel, by decide +kernel, by decide +kernel, e3, a3⟩⟩

/-- `recirc`: a record that comes round for the last time, and one that enters. -/
theorem witness_CuBeats_recirc :
    (∃ (t : Task) (x : Cell) (v : BitVec 240) (r : LinkRec) (T : Task), Works (with1 base t) t ∧ t.cell? 0 = some x ∧ x.cu = some v ∧
      cuOp v 0 = 0x72 ∧ t.portHead 0 (cuSel v 0 1) = some r ∧ r.p.toNat + 1 = cuImm v 0 ∧
      t.fired x v [cuSel v 0 1] (some { r with p := r.p + 1 }) = some T ∧ Alone t (.cu 0) T) ∧
    ∃ (t : Task) (x : Cell) (v : BitVec 240) (r : LinkRec) (T : Task), Works (with1 base t) t ∧ t.cell? 0 = some x ∧ x.cu = some v ∧
      cuOp v 0 = 0x72 ∧ t.portHead 0 (cuSel v 0 1) = none ∧ t.portHead 0 (cuSel v 0 0) = some r ∧
      t.fired x v [cuSel v 0 0] (some { r with p := 1, a := r.m }) = some T ∧ Alone t (.cu 0) T := by
  let t1 : Task := recircs [[rec1 1 0 5], [rec1 1 7 6], [], []]
  let t2 : Task := recircs [[rec1 1 0 5], [], [], []]
  obtain ⟨T1, e1, a1⟩ := alone_of (t := t1) (u := .cu 0) (o := t1.fired (cellOf t1) (cuWord 0x72 0 1 8 3 1 false 0) [1]
    (some { (rec1 1 7 6).asRecord with p := (rec1 1 7 6).asRecord.p + 1 })) (by decide +kernel)
  obtain ⟨T2, e2, a2⟩ := alone_of (t := t2) (u := .cu 0) (o := t2.fired (cellOf t2) (cuWord 0x72 0 1 8 3 1 false 0) [0]
    (some { (rec1 1 0 5).asRecord with p := 1, a := (rec1 1 0 5).asRecord.m })) (by decide +kernel)
  exact ⟨⟨t1, cellOf t1, cuWord 0x72 0 1 8 3 1 false 0, (rec1 1 7 6).asRecord, T1, works1 _ rfl rfl, rfl, rfl, by decide +kernel,
      by decide +kernel, by decide +kernel, e1, a1⟩,
    ⟨t2, cellOf t2, cuWord 0x72 0 1 8 3 1 false 0, (rec1 1 0 5).asRecord, T2, works1 _ rfl rfl, rfl, rfl, by decide +kernel,
      by decide +kernel, by decide +kernel, e2, a2⟩⟩

/-- `recirc` with a record that has come round as often as it may: the unit faults where its outputs have room. -/
theorem witness_CuBeats_bound :
    ∃ (t : Task) (x : Cell) (v : BitVec 240) (r : LinkRec) (U : Task), Works (with1 base t) t ∧ t.cell? 0 = some x ∧ x.cu = some v ∧
      cuFibre v = false ∧ cuOp v 0 = 0x72 ∧ t.portHead 0 (cuSel v 0 1) = some r ∧ cuImm v 0 = r.p.toNat ∧
      (∀ n ∈ cuOuts v, ∀ d ∈ t.outDests 0 n, t.room d = true) ∧ Looks t (.cu 0) ∧ t.beatFault = none ∧
      U = t.stamp { t.takePorts 0 [cuSel v 0 1] with beatFault := some (.illegalOp, 0, 0) } (.cu 0) ∧
      U.spareOuts (.cu 0) = [] ∧ U.zeroHeld = [] := by
  let t : Task := recircs [[rec1 1 0 5], [rec1 1 8 6], [], []]
  exact ⟨t, cellOf t, cuWord 0x72 0 1 8 3 1 false 0, (rec1 1 8 6).asRecord, _, works1 _ rfl rfl, rfl, rfl, by decide +kernel,
    by decide +kernel, by decide +kernel, by decide +kernel, by decide +kernel, looks_of (by decide +kernel), rfl, rfl,
    by decide +kernel, by decide +kernel⟩

/-- The same of a task that is changed once more after what it emits. -/
theorem alone_then {t : Task} {u : FUnit} {o : Option Task} (f : Task → Task) (h : alone t u (o.map f) = true) :
    ∃ T, o = some T ∧ Alone t u (f T) := by
  obtain ⟨T, e, a⟩ := alone_of h
  cases o with
  | none => cases e
  | some T1 =>
    simp only [Option.map_some, Option.some.injEq] at e
    exact ⟨T1, rfl, e ▸ a⟩

/-- A permit node of 4 permits, a `pmt.exit` and a `bar.node`. -/
def permits (n : Nat) (ports : List (List Item)) : Task :=
  cellTask (cuWord 0x80 0 1 (n % 256) 3 1 false 0) ports fun x => { x with permits := n }
def leavers : Task := cellTask (cuWord 0x81 0 1 0 1 3 false 0) [[rec1 1 0 5], [], [], []] id
def barNodes : Task := cellTask (cuWord 0x86 0 1 0 3 3 false 0) [[rec1 1 0 5], [rec1 2 0 6], [], []] id

/-- A permit node: a record passes; a permit returns; both at once; a permit returns to a node that has 255. -/
theorem witness_OrderBeats_permits :
    (∃ s t c x v T r p, Works s t ∧ t.cell? c = some x ∧ x.cu = some v ∧ cuFibre v = false ∧ cuOp v 0 = 0x80 ∧
      t.portHead c (cuSel v 0 1) = none ∧ t.portHead c (cuSel v 0 0) = some r ∧ x.permits = p + 1 ∧
      (t.takePorts c [cuSel v 0 0]).emit c [(0, .record r)] = some T ∧
      Alone t (.cu c) (T.updCell c fun y => { y with permits := p })) ∧
    (∃ s t c x v q, Works s t ∧ t.cell? c = some x ∧ x.cu = some v ∧ cuFibre v = false ∧ cuOp v 0 = 0x80 ∧
      t.portHead c (cuSel v 0 1) = some q ∧ x.permits < 255 ∧ (t.takePorts c [cuSel v 0 1]).portHead c (cuSel v 0 0) = none ∧
      Alone t (.cu c) ((t.takePorts c [cuSel v 0 1]).updCell c fun y => { y with permits := x.permits + 1 })) ∧
    (∃ s t c x v T q r, Works s t ∧ t.cell? c = some x ∧ x.cu = some v ∧ cuFibre v = false ∧ cuOp v 0 = 0x80 ∧
      t.portHead c (cuSel v 0 1) = some q ∧ x.permits < 255 ∧ (t.takePorts c [cuSel v 0 1]).portHead c (cuSel v 0 0) = some r ∧
      ((t.takePorts c [cuSel v 0 1]).takePorts c [cuSel v 0 0]).emit c [(0, .record r)] = some T ∧
      Alone t (.cu c) (T.updCell c fun y => { y with permits := x.permits })) ∧
    ∃ s t c x v q, Works s t ∧ t.cell? c = some x ∧ x.cu = some v ∧ cuFibre v = false ∧ cuOp v 0 = 0x80 ∧
      t.portHead c (cuSel v 0 1) = some q ∧ x.permits = 255 ∧ Looks t (.cu c) := by
  obtain ⟨T1, e1, a1⟩ := alone_then (t := permits 4 [[rec1 1 0 5], [], [], []]) (u := .cu 0)
    (o := ((permits 4 [[rec1 1 0 5], [], [], []]).takePorts 0 [0]).emit 0 [(0, .record (rec1 1 0 5).asRecord)])
    (fun T => T.updCell 0 fun y => { y with permits := 3 }) (by decide +kernel)
  obtain ⟨T2, e2, a2⟩ := alone_of (t := permits 3 [[], [rec1 1 0 5], [], []]) (u := .cu 0)
    (o := some (((permits 3 [[], [rec1 1 0 5], [], []]).takePorts 0 [1]).updCell 0 fun y => { y with permits := 3 + 1 })) (by decide +kernel)
  obtain ⟨T3, e3, a3⟩ := alone_then (t := permits 0 [[rec1 1 0 5], [rec1 1 0 6], [], []]) (u := .cu 0)
    (o := (((permits 0 [[rec1 1 0 5], [rec1 1 0 6], [], []]).takePorts 0 [1]).takePorts 0 [0]).emit 0
      [(0, .record (rec1 1 0 5).asRecord)])
    (fun T => T.updCell 0 fun y => { y with permits := 0 }) (by decide +kernel)
  cases e2
  exact ⟨⟨_, permits 4 [[rec1 1 0 5], [], [], []], 0, _, _, T1, _, 3, works1 _ rfl rfl, rfl, rfl, by decide +kernel, by decide +kernel,
      by decide +kernel, by decide +kernel, rfl, e1, a1⟩,
    ⟨_, permits 3 [[], [rec1 1 0 5], [], []], 0, _, _, (rec1 1 0 5).asRecord, works1 _ rfl rfl, rfl, rfl, by decide +kernel,
      by decide +kernel, by decide +kernel, by decide +kernel, by decide +kernel, a2⟩,
    ⟨_, permits 0 [[rec1 1 0 5], [rec1 1 0 6], [], []], 0, _, _, T3, (rec1 1 0 6).asRecord, _, works1 _ rfl rfl, rfl, rfl,
      by decide +kernel, by decide +kernel, by decide +kernel, by decide +kernel, by decide +kernel, e3, a3⟩,
    ⟨_, permits 255 [[], [rec1 1 0 6], [], []], 0, _, _, (rec1 1 0 6).asRecord, works1 _ rfl rfl, rfl, rfl, by decide +kernel,
      by decide +kernel, by decide +kernel, rfl, looks_of (by decide +kernel)⟩⟩

/-- `pmt.exit` and `bar.node` pass their records. -/
theorem witness_OrderBeats_nodes :
    (∃ s t c x v T r, Works s t ∧ t.cell? c = some x ∧ x.cu = some v ∧ cuFibre v = false ∧ cuOp v 0 = 0x81 ∧
      t.portHead c (cuSel v 0 0) = some r ∧
      (t.takePorts c [cuSel v 0 0]).emit c [(0, .record r), (1, .record LinkRec.none)] = some T ∧ Alone t (.cu c) T) ∧
    ∃ s t c x v T r, Works s t ∧ t.cell? c = some x ∧ x.cu = some v ∧ cuFibre v = false ∧ cuOp v 0 = 0x86 ∧
      (∀ n ∈ cuIns v, t.portHead c n ≠ none) ∧ t.portHead c (cuSel v 0 0) = some r ∧
      (t.takePorts c (cuIns v)).emit c ((cuOuts v).map fun n => (n, .record r)) = some T ∧ Alone t (.cu c) T := by
  obtain ⟨T1, e1, a1⟩ := alone_of (t := leavers) (u := .cu 0)
    (o := (leavers.takePorts 0 [0]).emit 0 [(0, .record (rec1 1 0 5).asRecord), (1, .record LinkRec.none)]) (by decide +kernel)
  obtain ⟨T2, e2, a2⟩ := alone_of (t := barNodes) (u := .cu 0)
    (o := (barNodes.takePorts 0 (cuIns (cuWord 0x86 0 1 0 3 3 false 0))).emit 0
      ((cuOuts (cuWord 0x86 0 1 0 3 3 false 0)).map fun n => (n, .record (rec1 1 0 5).asRecord))) (by decide +kernel)
  exact ⟨⟨_, leavers, 0, _, _, T1, _, works1 _ rfl rfl, rfl, rfl, by decide +kernel, by decide +kernel, by decide +kernel, e1, a1⟩,
    ⟨_, barNodes, 0, _, cuWord 0x86 0 1 0 3 3 false 0, T2, _, works1 _ rfl rfl, rfl, rfl, by decide +kernel, by decide +kernel,
      by decide +kernel, by decide +kernel, e2, a2⟩⟩

/-- A controller of 2 iterations and 2 children, in some state, with a go and a done on its inputs or not. -/
def control (op : Nat) (x : CtlState) (ports : List (List Item)) : Task :=
  cellTask (cuWord op 0 1 (1 + 4096) 3 3 false 0) ports fun y => { y with ctl := x }

/-- What a controller has started, and what is out. -/
def ctlAt (next : List Nat) (await : List Bool) : CtlState := { go := some (rec1 1 0 5).asRecord, next := next, await := await }

/-- Each controller takes a go and sends its first one. -/
theorem witness_OrderBeats_go :
    ∀ op ∈ [0x82, 0x83, 0x84], ∃ s t c x v T y ps k i, Works s t ∧ t.cell? c = some x ∧ x.cu = some v ∧ cuFibre v = false ∧
      cuOp v 0 = op ∧ cuImm v 0 % 4096 + 1 = 2 ∧ cuImm v 0 / 4096 % 8 + 1 = 2 ∧
      ControllerTakes t c (cuSel v 0 0) (cuSel v 0 1) 2 x.ctl y ps ∧ (∃ g, y.go = some g) ∧ ControllerSends op 2 2 y k i ∧
      ¬ ControllerOver op 2 2 y ∧
      (t.takePorts c ps).emit c [(0, .record (ctlRec (if op = 0x84 then 2 else i) (BitVec.ofNat 8 k) i))] = some T ∧
      Alone t (.cu c) (T.updCell c fun z => { z with
        ctl := { y with next := modAt y.next k (· + 1), await := setAt y.await k true } }) := by
  have h : ∀ op ∈ [0x82, 0x83, 0x84], alone (control op { go := none, next := [], await := [] } [[rec1 1 0 5], [], [], []]) (.cu 0)
      ((((control op { go := none, next := [], await := [] } [[rec1 1 0 5], [], [], []]).takePorts 0 [0]).emit 0
        [(0, .record (ctlRec (if op = 0x84 then 2 else 0) (BitVec.ofNat 8 0) 0))]).map fun T => T.updCell 0 fun z => { z with
          ctl := { ctlAt [0, 0] [false, false] with next := modAt [0, 0] 0 (· + 1), await := setAt [false, false] 0 true } }) = true := by
    decide +kernel
  have p : ∀ op ∈ [0x82, 0x83, 0x84], cuFibre (cuWord op 0 1 (1 + 4096) 3 3 false 0) = false ∧
      cuOp (cuWord op 0 1 (1 + 4096) 3 3 false 0) 0 = op ∧ cuImm (cuWord op 0 1 (1 + 4096) 3 3 false 0) 0 % 4096 + 1 = 2 ∧
      cuImm (cuWord op 0 1 (1 + 4096) 3 3 false 0) 0 / 4096 % 8 + 1 = 2 ∧
      (control op { go := none, next := [], await := [] } [[rec1 1 0 5], [], [], []]).portHead 0
        (cuSel (cuWord op 0 1 (1 + 4096) 3 3 false 0) 0 0) = some (rec1 1 0 5).asRecord ∧
      (control op { go := none, next := [], await := [] } [[rec1 1 0 5], [], [], []]).portHead 0
        (cuSel (cuWord op 0 1 (1 + 4096) 3 3 false 0) 0 1) = none ∧ cuSel (cuWord op 0 1 (1 + 4096) 3 3 false 0) 0 0 = 0 := by
    decide +kernel
  intro op m
  obtain ⟨T, e, a⟩ := alone_then _ (h op m)
  obtain ⟨p1, p2, p3, p4, p5, p6, p7⟩ := p op m
  refine ⟨_, control op { go := none, next := [], await := [] } [[rec1 1 0 5], [], [], []], 0, _, cuWord op 0 1 (1 + 4096) 3 3 false 0, T,
    ctlAt [0, 0] [false, false], [0], 0, 0, works1 _ rfl rfl, rfl, rfl, p1, p2, p3, p4,
    .inl ⟨_, rfl, p5, p6, by rw [p7], rfl⟩, ⟨_, rfl⟩, ?_, ?_, e, a⟩
  · simp only [List.mem_cons, List.not_mem_nil, or_false] at m
    rcases m with rfl | rfl | rfl
    · exact .inl ⟨rfl, by decide, by decide, by decide, by decide⟩
    · exact .inr (.inl ⟨rfl, by decide, fun j hj => absurd hj (Nat.not_lt_zero j), rfl⟩)
    · exact .inr (.inr ⟨rfl, by decide, rfl, fun j hj => absurd hj (Nat.not_lt_zero j), rfl⟩)
  · simp only [List.mem_cons, List.not_mem_nil, or_false] at m
    rcases m with rfl | rfl | rfl <;> rintro ⟨-, h⟩ <;> revert h <;> decide

/-- A `pipe` controller takes a done and sends the next go of another child; each controller takes its last done and is over. -/
theorem witness_OrderBeats_done :
    (∃ s t c x v T y ps k i, Works s t ∧ t.cell? c = some x ∧ x.cu = some v ∧ cuFibre v = false ∧ cuOp v 0 = 0x83 ∧
      ControllerTakes t c (cuSel v 0 0) (cuSel v 0 1) 2 x.ctl y ps ∧ (∃ g, y.go = some g) ∧ ControllerSends 0x83 2 2 y k i ∧
      ¬ ControllerOver 0x83 2 2 y ∧ k = 1 ∧
      (t.takePorts c ps).emit c [(0, .record (ctlRec i (BitVec.ofNat 8 k) i))] = some T ∧
      Alone t (.cu c) (T.updCell c fun z => { z with
        ctl := { y with next := modAt y.next k (· + 1), await := setAt y.await k true } })) ∧
    ∀ p ∈ [(0x82, 2), (0x83, 2), (0x84, 1)], ∃ s t c x v T y ps g, Works s t ∧ t.cell? c = some x ∧ x.cu = some v ∧
      cuFibre v = false ∧ cuOp v 0 = p.1 ∧ ControllerTakes t c (cuSel v 0 0) (cuSel v 0 1) 2 x.ctl y ps ∧ y.go = some g ∧
      ControllerOver p.1 2 2 y ∧ (t.takePorts c ps).emit c [(1, .record (ctlRec 2 g.t 0))] = some T ∧
      Alone t (.cu c) (T.updCell c fun z => { z with ctl := { y with go := none } }) := by
  have h1 : alone (control 0x83 (ctlAt [2, 0] [true, false]) [[], [rec1 0 0 5], [], []]) (.cu 0)
      ((((control 0x83 (ctlAt [2, 0] [true, false]) [[], [rec1 0 0 5], [], []]).takePorts 0 [1]).emit 0
        [(0, .record (ctlRec 0 (BitVec.ofNat 8 1) 0))]).map fun T => T.updCell 0 fun z => { z with
          ctl := { ctlAt [2, 0] [false, false] with next := modAt [2, 0] 1 (· + 1), await := setAt [false, false] 1 true } }) = true := by
    decide +kernel
  have h2 : ∀ p ∈ [(0x82, 2), (0x83, 2), (0x84, 1)],
      alone (control p.1 (ctlAt [p.2, p.2] [false, true]) [[], [rec1 1 0 5], [], []]) (.cu 0)
        ((((control p.1 (ctlAt [p.2, p.2] [false, true]) [[], [rec1 1 0 5], [], []]).takePorts 0 [1]).emit 0
          [(1, .record (ctlRec 2 (rec1 1 0 5).asRecord.t 0))]).map fun T => T.updCell 0 fun z =>
            { z with ctl := { ctlAt [p.2, p.2] [false, false] with go := none } }) = true ∧
      cuFibre (cuWord p.1 0 1 (1 + 4096) 3 3 false 0) = false ∧ cuOp (cuWord p.1 0 1 (1 + 4096) 3 3 false 0) 0 = p.1 ∧
      cuSel (cuWord p.1 0 1 (1 + 4096) 3 3 false 0) 0 1 = 1 ∧
      (control p.1 (ctlAt [p.2, p.2] [false, true]) [[], [rec1 1 0 5], [], []]).portHead 0
        (cuSel (cuWord p.1 0 1 (1 + 4096) 3 3 false 0) 0 1) = some (rec1 1 0 5).asRecord := by
    decide +kernel
  obtain ⟨T1, e1, a1⟩ := alone_then _ h1
  refine ⟨⟨_, control 0x83 (ctlAt [2, 0] [true, false]) [[], [rec1 0 0 5], [], []], 0, _, cuWord 0x83 0 1 (1 + 4096) 3 3 false 0, T1,
    ctlAt [2, 0] [false, false], [1], 1, 0, works1 _ rfl rfl, rfl, rfl, by decide +kernel, by decide +kernel,
    .inr (.inr ⟨(rec1 0 0 5).asRecord, by decide, by decide +kernel, by decide +kernel, by decide +kernel, by decide +kernel⟩),
    ⟨_, rfl⟩, .inr (.inl ⟨rfl, by decide, by decide, rfl⟩), by rintro ⟨-, h⟩; revert h; decide, rfl, e1, a1⟩, ?_⟩
  intro p m
  obtain ⟨h, p1, p2, p3, p4⟩ := h2 p m
  obtain ⟨T, e, a⟩ := alone_then _ h
  refine ⟨_, control p.1 (ctlAt [p.2, p.2] [false, true]) [[], [rec1 1 0 5], [], []], 0, _, cuWord p.1 0 1 (1 + 4096) 3 3 false 0, T,
    ctlAt [p.2, p.2] [false, false], [1], _, works1 _ rfl rfl, rfl, rfl, p1, p2,
    .inr (.inr ⟨(rec1 1 0 5).asRecord, Option.some_ne_none (rec1 1 0 5).asRecord, p4, rfl, (congrArg (fun n => [n]) p3).symm, rfl⟩), rfl, ?_, e, a⟩
  simp only [List.mem_cons, List.not_mem_nil, or_false] at m
  rcases m with rfl | rfl | rfl <;> exact ⟨by decide, by decide⟩

/-! ### Units in fibre mode, joins, generators and memory units -/

/-- What the statement on units in fibre mode asks of every case. -/
def FibreAt (s : State) (t : Task) (c : Nat) (x : Cell) (v : BitVec 240) : Prop :=
  Works s t ∧ t.cell? c = some x ∧ x.cu = some v ∧ cuFibre v = true ∧ ¬ (0x60 ≤ cuOp v 0 ∧ cuOp v 0 ≤ 0x66) ∧ cuIns v ≠ [] ∧
    ∀ n ∈ cuIns v, ∀ k, t.tokHead x n = some k → unitFault n (x.port n) (tokOf k.1) = none

/-- The token that stands at an input. -/
def toksOf (t : Task) (x : Cell) : Nat → BitVec 36 := fun n => ((t.tokHead x n).map Prod.fst).getD absentTok

def quietIn (t : Task) (x : Cell) (v : BitVec 240) : Bool :=
  cuFibre v && !(0x60 ≤ cuOp v 0 && cuOp v 0 ≤ 0x66) && cuIns v != [] &&
    (cuIns v).all fun n => (t.tokHead x n).all fun k => unitFault n (x.port n) (tokOf k.1) == none

/-- A unit of two inputs in fibre mode, operation `op`, its inputs mid-pass after a stop or not. -/
def fibreWord (op : Nat) : BitVec 240 := cuWord op 0 1 0 3 1 true 0
def fibred (op : Nat) (stop : Option Nat) (a b : List Item) : Task :=
  cellTask (fibreWord op) [a, b, [], []] fun x => { x with
    ports := List.replicate 4 { PortState.fresh with begun := stop.isSome, lastStop := stop } }

theorem fibreAt_of (op : Nat) (stop : Option Nat) (a b : List Item)
    (h : quietIn (fibred op stop a b) (cellOf (fibred op stop a b)) (fibreWord op) = true) :
    FibreAt (with1 base (fibred op stop a b)) (fibred op stop a b) 0 (cellOf (fibred op stop a b)) (fibreWord op) := by
  simp only [quietIn, Bool.and_eq_true, Bool.not_eq_true', Bool.and_eq_false_iff, decide_eq_false_iff_not, bne_iff_ne, ne_eq,
    List.all_eq_true] at h
  obtain ⟨⟨⟨h1, h2⟩, h3⟩, h4⟩ := h
  refine ⟨works1 _ rfl rfl, rfl, rfl, h1, ?_, h3, fun n m k e => ?_⟩
  · rintro ⟨p, q⟩
    rcases h2 with h2 | h2
    · exact h2 p
    · exact h2 q
  · have := h4 n m
    rw [e] at this
    simpa using this

def valTok (n : Nat) : Item := .token (mkTok 2 (BitVec.ofNat 32 n))

/-- A header goes on, one hop less. -/
theorem witness_FibreBeats_header : ∃ s t c x v w T, FibreAt s t c x v ∧ cuIn v 0 = true ∧ t.tokHead x 0 ≠ none ∧
    tokOf (toksOf t x 0) = .h w ∧ (t.takeUnit c [0]).emitAll x v (hNext w) = some T ∧ Alone t (.cu c) T := by
  obtain ⟨T, e, a⟩ := alone_of (t := fibred 1 none [.token (mkTok 15 0x23000007)] []) (u := .cu 0)
    (o := ((fibred 1 none [.token (mkTok 15 0x23000007)] []).takeUnit 0 [0]).emitAll
      (cellOf (fibred 1 none [.token (mkTok 15 0x23000007)] [])) (fibreWord 1) (hNext 0x23000007)) (by decide +kernel)
  exact ⟨_, _, 0, _, _, 0x23000007, T, fibreAt_of 1 none [.token (mkTok 15 0x23000007)] [] (by decide +kernel), by decide +kernel,
    by decide +kernel, by decide +kernel, e, a⟩

/-- Items: with a stage that works, and with none; one that is absent. -/
theorem witness_FibreBeats_items :
    (∃ s t c x v T res acc fl, FibreAt s t c x v ∧ (∀ n ∈ cuIns v, t.tokHead x n ≠ none) ∧
      (∀ n ∈ cuIns v, (tokOf (toksOf t x n)).isItem = true ∧ tokOf (toksOf t x n) ≠ .e) ∧ busyStages v ≠ [] ∧
      runStages t.crec.ftz v x.acc (fun n => (Item.token (toksOf t x n)).asRecord) none = (res, acc, fl) ∧
      (((t.takeUnit c (cuIns v)).flag fl).updCell c fun y => { y with acc := acc }).emit c ((cuOuts v).map fun n =>
        (n, .token (mkTok 2 ((res.getD (cuOutSrc v n) LinkRec.none).v.headD 0)))) = some T ∧ Alone t (.cu c) T) ∧
    (∃ s t c x v T, FibreAt s t c x v ∧ (∀ n ∈ cuIns v, t.tokHead x n ≠ none) ∧
      (∀ n ∈ cuIns v, (tokOf (toksOf t x n)).isItem = true ∧ tokOf (toksOf t x n) ≠ .e) ∧ busyStages v = [] ∧
      (t.takeUnit c (cuIns v)).emit c ((cuOuts v).map fun n =>
        (n, .token (passToken v (toksOf t x) (cuOutSrc v n)))) = some T ∧ Alone t (.cu c) T) ∧
    ∃ s t c x v T, FibreAt s t c x v ∧ (∀ n ∈ cuIns v, t.tokHead x n ≠ none) ∧
      (∀ n ∈ cuIns v, (tokOf (toksOf t x n)).isItem = true) ∧ (∃ n ∈ cuIns v, tokOf (toksOf t x n) = .e) ∧
      (t.takeUnit c (cuIns v)).emitAll x v absentTok = some T ∧ Alone t (.cu c) T := by
  let t1 : Task := fibred 1 none [valTok 5] [valTok 6]
  let t2 : Task := fibred 0 none [valTok 5] [valTok 6]
  let t3 : Task := fibred 1 none [valTok 5] [.token absentTok]
  let r := runStages t1.crec.ftz (fibreWord 1) (cellOf t1).acc (fun n => (Item.token (toksOf t1 (cellOf t1) n)).asRecord) none
  obtain ⟨T1, e1, a1⟩ := alone_of (t := t1) (u := .cu 0)
    (o := (((t1.takeUnit 0 (cuIns (fibreWord 1))).flag r.2.2).updCell 0 fun y => { y with acc := r.2.1 }).emit 0
      ((cuOuts (fibreWord 1)).map fun n => (n, .token (mkTok 2 ((r.1.getD (cuOutSrc (fibreWord 1) n) LinkRec.none).v.headD 0)))))
    (by decide +kernel)
  obtain ⟨T2, e2, a2⟩ := alone_of (t := t2) (u := .cu 0)
    (o := (t2.takeUnit 0 (cuIns (fibreWord 0))).emit 0 ((cuOuts (fibreWord 0)).map fun n =>
      (n, .token (passToken (fibreWord 0) (toksOf t2 (cellOf t2)) (cuOutSrc (fibreWord 0) n))))) (by decide +kernel)
  obtain ⟨T3, e3, a3⟩ := alone_of (t := t3) (u := .cu 0)
    (o := (t3.takeUnit 0 (cuIns (fibreWord 1))).emitAll (cellOf t3) (fibreWord 1) absentTok) (by decide +kernel)
  exact ⟨⟨_, t1, 0, cellOf t1, fibreWord 1, T1, r.1, r.2.1, r.2.2, fibreAt_of 1 none [valTok 5] [valTok 6] (by decide +kernel),
      by decide +kernel, by decide +kernel, by decide +kernel, rfl, e1, a1⟩,
    ⟨_, t2, 0, cellOf t2, fibreWord 0, T2, fibreAt_of 0 none [valTok 5] [valTok 6] (by decide +kernel),
      by decide +kernel, by decide +kernel, by decide +kernel, e2, a2⟩,
    ⟨_, t3, 0, cellOf t3, fibreWord 1, T3, fibreAt_of 1 none [valTok 5] [.token absentTok] (by decide +kernel),
      by decide +kernel, by decide +kernel, by decide +kernel, e3, a3⟩⟩

/-- Stops that agree, D on every input, and stops that do not agree. -/
theorem witness_FibreBeats_stops :
    (∃ s t c x v T, FibreAt s t c x v ∧ (∀ n ∈ cuIns v, t.tokHead x n ≠ none) ∧
      (∀ n ∈ cuIns v, tokOf (toksOf t x n) = .stop 1) ∧ (t.takeUnit c (cuIns v)).emitAll x v (stopTok 1) = some T ∧
      Alone t (.cu c) T) ∧
    (∃ s t c x v T, FibreAt s t c x v ∧ (∀ n ∈ cuIns v, t.tokHead x n ≠ none) ∧
      (∀ n ∈ cuIns v, tokOf (toksOf t x n) = .done) ∧ (t.takeUnit c (cuIns v)).emitAll x v doneTok = some T ∧ Alone t (.cu c) T) ∧
    ∃ s t c x v n m, FibreAt s t c x v ∧ (∀ n ∈ cuIns v, t.tokHead x n ≠ none) ∧ n ∈ cuIns v ∧ m ∈ cuIns v ∧
      tokOf (toksOf t x n) = .stop 0 ∧ tokOf (toksOf t x m) = .stop 1 ∧ tokOf (toksOf t x 0) = .stop 0 ∧ Looks t (.cu c) := by
  let t1 : Task := fibred 1 none [.token (stopTok 1)] [.token (stopTok 1)]
  let t2 : Task := fibred 1 (some 0) [.token doneTok] [.token doneTok]
  let t3 : Task := fibred 1 none [.token (stopTok 0)] [.token (stopTok 1)]
  obtain ⟨T1, e1, a1⟩ := alone_of (t := t1) (u := .cu 0)
    (o := (t1.takeUnit 0 (cuIns (fibreWord 1))).emitAll (cellOf t1) (fibreWord 1) (stopTok 1)) (by decide +kernel)
  obtain ⟨T2, e2, a2⟩ := alone_of (t := t2) (u := .cu 0)
    (o := (t2.takeUnit 0 (cuIns (fibreWord 1))).emitAll (cellOf t2) (fibreWord 1) doneTok) (by decide +kernel)
  exact ⟨⟨_, t1, 0, cellOf t1, fibreWord 1, T1, fibreAt_of 1 none [.token (stopTok 1)] [.token (stopTok 1)] (by decide +kernel),
      by decide +kernel, by decide +kernel, e1, a1⟩,
    ⟨_, t2, 0, cellOf t2, fibreWord 1, T2, fibreAt_of 1 (some 0) [.token doneTok] [.token doneTok] (by decide +kernel),
      by decide +kernel, by decide +kernel, e2, a2⟩,
    ⟨_, t3, 0, cellOf t3, fibreWord 1, 0, 1, fibreAt_of 1 none [.token (stopTok 0)] [.token (stopTok 1)] (by decide +kernel),
      by decide +kernel, by decide +kernel, by decide +kernel, by decide +kernel, by decide +kernel, by decide +kernel,
      looks_of (by decide +kernel)⟩⟩

/-- What a stage reads where port 0 holds a record. -/
def stageIn (r : LinkRec) : StageIn := { port := fun _ => r, prev := LinkRec.none, acc := List.replicate 16 0 }

/-- A stage that adds, keeping the accumulator or not; lane reductions of a record of one lane, and of one without lanes. -/
theorem witness_RecordOperations_stages :
    (∀ acc ∈ [false, true], ∃ (v : BitVec 240) (x : StageIn) (r : LinkRec), laneReduction (cuOp v 0) (cuSel v 0 2) = false ∧ cuOp v 0 < 0x50 ∧
      cuAcc v 0 = acc ∧ stageRecords v 0 x = [r, r]) ∧
    (∃ (v : BitVec 240) (x : StageIn) (r : LinkRec), laneReduction (cuOp v 0) (cuSel v 0 2) = true ∧ stageRecords v 0 x = [r] ∧ r.m = 1 ∧ r.a = 1 ∧
      0 < (stageOperand v 0 0 x).length) ∧
    (∃ (v : BitVec 240) (x : StageIn), laneReduction (cuOp v 0) (cuSel v 0 2) = true ∧
      ∀ j < 16, ∃ r ∈ stageRecords v 0 x, r.m.getLsbD j = false ∨ r.a.getLsbD j = false) ∧
    (Fmt.s.unpack (0x7F800001 : Lane).toNat).isNan = true ∧ (Fmt.s.unpack (0x7F800000 : Lane).toNat).isNan = false := by
  refine ⟨fun acc _ => ⟨BitVec.ofNat 240 (0x01 + 2 ^ 11 + 7 * 2 ^ 14 + if acc then 2 ^ 20 else 0), stageIn (rec1 1 0 5).asRecord, (rec1 1 0 5).asRecord, ?_⟩,
    ⟨BitVec.ofNat 240 (0x01 + 7 * 2 ^ 11 + 6 * 2 ^ 14), stageIn (rec1 1 0 5).asRecord, (rec1 1 0 5).asRecord, by decide +kernel⟩,
    ⟨BitVec.ofNat 240 (0x01 + 7 * 2 ^ 11 + 6 * 2 ^ 14), stageIn LinkRec.none, by decide +kernel⟩, by decide +kernel, by decide +kernel⟩
  cases acc <;> decide +kernel

/-- What the statement on joins asks of every case: the unit of task `t0`, with the headers taken (here none), stands before tokens. -/
def JoinCase (s : State) (t0 t : Task) (c : Nat) (x : Cell) (v : BitVec 240) (op : Nat) (ka kb ca cb : BitVec 36) : Prop :=
  ∃ x0 v0, Works s t0 ∧ t0.cell? c = some x0 ∧ x0.cu = some v0 ∧ cuFibre v0 = true ∧ 0x60 ≤ cuOp v0 0 ∧ cuOp v0 0 ≤ 0x66 ∧
    cuSel v0 0 0 = cuSel v 0 0 ∧ v = joinApply v0 x0.headers ∧ x = { x0 with cu := some v, headers := [] } ∧ t = t0.putCell x ∧
    (joinPorts v).op = op ∧ JoinAt t x v ka kb ca cb ∧ ∀ n ∈ cuIns v0, n ≠ cuSel v0 0 0 → InForce t0 x0 n

/-- What `InForce` asks at every enabled input but a. -/
def inForce (t : Task) (x : Cell) (v : BitVec 240) : Bool :=
  (cuIns v).all fun n => n == cuSel v 0 0 || match (t.tokHead x n).map fun k => tokOf k.1 with
    | some .bad => false
    | some (.h _) => false
    | _ => true

theorem inForce_of {t : Task} {x : Cell} {v : BitVec 240} (h : inForce t x v = true) :
    ∀ n ∈ cuIns v, n ≠ cuSel v 0 0 → InForce t x n := by
  intro n m ne k e
  have b := (List.all_eq_true.mp h) n m
  rw [e, Option.map_some] at b
  rcases Bool.or_eq_true_iff.mp b with b | b
  · exact absurd (beq_iff_eq.mp b) ne
  · refine ⟨fun c => ?_, fun w c => ?_⟩ <;> rw [c] at b <;> cases b

def joinAt (t : Task) (x : Cell) (v : BitVec 240) (ka kb ca cb : BitVec 36) : Bool :=
  let j := joinPorts v
  let tok (o : Option Nat) : BitVec 36 := (o.bind fun n => (t.tokHead x n).map Prod.fst).getD absentTok
  (j.all.all fun n => match t.tokHead x n with | some k => !k.2 || j.fault x n (tokOf k.1) == none | none => false) &&
  (ka == tok (some j.a) && kb == tok j.b && ca == tok j.ca && cb == tok j.cb) &&
  ((match tokOf ka with | .h _ => false | _ => true) && (j.ca == none || sameKind (tokOf ka) (tokOf ca)) &&
    (j.cb == none || j.b == none || sameKind (tokOf kb) (tokOf cb)) &&
    (j.cb == none || j.b != none || sameKind (tokOf ka) (tokOf cb)))

theorem joinAt_of {t : Task} {x : Cell} {v : BitVec 240} {ka kb ca cb : BitVec 36} (h : joinAt t x v ka kb ca cb = true) :
    JoinAt t x v ka kb ca cb := by
  simp only [joinAt, Bool.and_eq_true, List.all_eq_true, beq_iff_eq, Bool.or_eq_true, bne_iff_ne, ne_eq] at h
  obtain ⟨⟨h1, ⟨⟨⟨h2, h3⟩, h4⟩, h5⟩⟩, ⟨⟨h6, h7⟩, h8⟩, h9⟩ := h
  refine ⟨fun n m => ?_, h2, h3, h4, h5, ?_, fun e => h7.resolve_left e, fun e f => ?_, fun e f => ?_⟩
  · have := h1 n m
    split at this
    · rename_i k e
      refine ⟨k.1, k.2, e, fun f => ?_⟩
      simpa [f] using this
    · cases this
  · intro w e
    rw [e] at h6
    cases h6
  · rcases h8 with (h8 | h8) | h8
    · exact absurd h8 e
    · exact absurd h8 f
    · exact h8
  · rcases h9 with (h9 | h9) | h9
    · exact absurd h9 e
    · exact absurd f h9
    · exact h9

/-- A join of operation `op`: two fibres of depth 2 with companions on inputs 2 and 3 or none, results and companion a on its outputs;
less takes a's head and emits nothing, equal takes both and emits, greater rewinds b's side and emits with placeholders; the table of a
`jrepeat` takes a's head and emits. -/
def joinWord (op imm : Nat) : BitVec 240 := cuWord op 0 1 (imm + 4 + 2 * 2 ^ 10) 15 3 true
  (if op = 0x62 then 20 else 4 + 64 * 16 + 4096 * 41)
def companions : Nat := 0x40 + 0x20 + 0x200 + 0x180
def joining (op imm : Nat) (stop : Option Nat) (ports : List (List Item)) (run value : Option (BitVec 32) := none) : Task :=
  cellTask (joinWord op imm) ports fun x => { x with
    ports := List.replicate 4 { PortState.fresh with begun := stop.isSome, lastStop := stop }, runCoord := run, runValue := value }

theorem joinCase_of (op imm : Nat) (stop : Option Nat) (ports : List (List Item)) (run value : Option (BitVec 32)) (ka kb ca cb : BitVec 36)
    (hw : (cuFibre (joinWord op imm) && 0x60 ≤ cuOp (joinWord op imm) 0 && cuOp (joinWord op imm) 0 ≤ 0x66 &&
      (joinPorts (joinWord op imm)).op == op) = true)
    (h : (joinAt (joining op imm stop ports run value) (cellOf (joining op imm stop ports run value)) (joinWord op imm) ka kb ca cb &&
      inForce (joining op imm stop ports run value) (cellOf (joining op imm stop ports run value)) (joinWord op imm)) = true) :
    JoinCase (with1 base (joining op imm stop ports run value)) (joining op imm stop ports run value)
      (joining op imm stop ports run value) 0 (cellOf (joining op imm stop ports run value)) (joinWord op imm) op ka kb ca cb := by
  simp only [Bool.and_eq_true, decide_eq_true_eq, beq_iff_eq] at hw
  obtain ⟨⟨⟨h1, h2⟩, h3⟩, h4⟩ := hw
  exact ⟨_, joinWord op imm, works1 _ rfl rfl, rfl, rfl, h1, h2, h3, rfl, rfl, rfl, rfl, h4,
    joinAt_of (Bool.and_eq_true_iff.mp h).1, inForce_of (Bool.and_eq_true_iff.mp h).2⟩

def cTok (n : Nat) : Item := .token (mkTok 0 (BitVec.ofNat 32 n))

/-- Two inputs, with companions: stops that agree, and D. -/
theorem witness_JoinBeats_stops :
    ∀ op ∈ [0x60, 0x61, 0x64],
      (∃ s t0 t c x v ka kb ca cb T, JoinCase s t0 t c x v op ka kb ca cb ∧ tokOf ka = .stop 1 ∧ tokOf kb = .stop 1 ∧
        (t.consumeAll c (joinPorts v) (joinPorts v).all).emitAll x v (stopTok 1) = some T ∧ Alone t0 (.cu c) T) ∧
      ∃ s t0 t c x v ka kb ca cb T, JoinCase s t0 t c x v op ka kb ca cb ∧ tokOf ka = .done ∧ tokOf kb = .done ∧
        (t.consumeAll c (joinPorts v) (joinPorts v).all).emitAll x v doneTok = some T ∧ Alone t0 (.cu c) (T.endPass c) := by
  have h1 : ∀ op ∈ [0x60, 0x61, 0x64], ∀ p ∈ [(stopTok 1, none), (doneTok, some 1)],
      (cuFibre (joinWord op companions) && 0x60 ≤ cuOp (joinWord op companions) 0 && cuOp (joinWord op companions) 0 ≤ 0x66 &&
        (joinPorts (joinWord op companions)).op == op) = true ∧
      (joinAt (joining op companions p.2 (List.replicate 4 [.token p.1])) (cellOf (joining op companions p.2 (List.replicate 4 [.token p.1])))
        (joinWord op companions) p.1 p.1 p.1 p.1 && inForce (joining op companions p.2 (List.replicate 4 [.token p.1]))
          (cellOf (joining op companions p.2 (List.replicate 4 [.token p.1]))) (joinWord op companions)) = true ∧
      alone (joining op companions p.2 (List.replicate 4 [.token p.1])) (.cu 0)
        ((((joining op companions p.2 (List.replicate 4 [.token p.1])).consumeAll 0 (joinPorts (joinWord op companions))
          (joinPorts (joinWord op companions)).all).emitAll (cellOf (joining op companions p.2 (List.replicate 4 [.token p.1])))
          (joinWord op companions) p.1).map fun T => if p.1 = doneTok then T.endPass 0 else T) = true := by
    decide +kernel
  intro op m
  obtain ⟨a1, a2, a3⟩ := h1 op m (stopTok 1, none) (by simp)
  obtain ⟨b1, b2, b3⟩ := h1 op m (doneTok, some 1) (by simp)
  obtain ⟨T, e, a⟩ := alone_then _ a3
  obtain ⟨T', e', a'⟩ := alone_then _ b3
  exact ⟨⟨_, _, _, 0, _, _, _, _, _, _, T, joinCase_of op companions none _ none none _ _ _ _ a1 a2, by decide +kernel,
      by decide +kernel, e, a⟩,
    ⟨_, _, _, 0, _, _, _, _, _, _, T', joinCase_of op companions (some 1) _ none none _ _ _ _ b1 b2, by decide +kernel,
      by decide +kernel, e', a'⟩⟩

/-- Two inputs: stops that do not agree; and items of each outcome: the table emits nothing, the result, and with placeholders. -/
def sides (t : Task) (c : Nat) (v : BitVec 240) (o : Nat) : Task :=
  (t.act c (joinPorts v) (joinPorts v).sideA true (cuAct v o 0)).act c (joinPorts v) (joinPorts v).sideB true (cuAct v o 1)

theorem witness_JoinBeats_unlike :
    ∀ op ∈ [0x60, 0x61, 0x64], ∃ s t0 t c x v ka kb ca cb, JoinCase s t0 t c x v op ka kb ca cb ∧ tokOf ka = .stop 0 ∧
      tokOf kb = .stop 1 ∧ Looks t0 (.cu c) := by
  have h1 : ∀ op ∈ [0x60, 0x61, 0x64],
      (cuFibre (joinWord op 0) && 0x60 ≤ cuOp (joinWord op 0) 0 && cuOp (joinWord op 0) 0 ≤ 0x66 &&
        (joinPorts (joinWord op 0)).op == op) = true ∧
      (joinAt (joining op 0 none [[.token (stopTok 0)], [.token (stopTok 1)], [], []])
        (cellOf (joining op 0 none [[.token (stopTok 0)], [.token (stopTok 1)], [], []])) (joinWord op 0) (stopTok 0) (stopTok 1)
        absentTok absentTok && inForce (joining op 0 none [[.token (stopTok 0)], [.token (stopTok 1)], [], []])
          (cellOf (joining op 0 none [[.token (stopTok 0)], [.token (stopTok 1)], [], []])) (joinWord op 0)) = true ∧
      looks (joining op 0 none [[.token (stopTok 0)], [.token (stopTok 1)], [], []]) (.cu 0) = true := by
    decide +kernel
  intro op m
  obtain ⟨a1, a2, a3⟩ := h1 op m
  exact ⟨_, _, _, 0, _, _, _, _, _, _, joinCase_of op 0 none _ none none _ _ _ _ a1 a2, by decide +kernel, by decide +kernel,
    looks_of a3⟩

/-- Coordinates 3 and 5, 5 and 5, 7 and 5, with companions. -/
def paired (x : Nat) : List (List Item) := [[cTok x], [cTok 5], [valTok 1], [valTok 2]]

theorem witness_JoinBeats_items :
    ∀ op ∈ [0x60, 0x61, 0x64],
      (∃ s t0 t c x v ka kb ca cb, JoinCase s t0 t c x v op ka kb ca cb ∧ joinOutcome (tokOf ka) (tokOf kb) = 0 ∧
        (tokOf ka).isItem = true ∧ tokOf ka ≠ .done ∧ tokOf kb ≠ .done ∧ cuAct v 0 0 ≠ 2 ∧ cuAct v 0 1 ≠ 2 ∧ cuAct v 0 2 = 0 ∧
        Alone t0 (.cu c) (sides t c v 0)) ∧
      (∃ s t0 t c x v ka kb ca cb T, JoinCase s t0 t c x v op ka kb ca cb ∧ joinOutcome (tokOf ka) (tokOf kb) = 1 ∧
        (tokOf ka).isItem = true ∧ (tokOf kb).isItem = true ∧ cuAct v 1 0 ≠ 2 ∧ cuAct v 1 1 ≠ 2 ∧ cuAct v 1 2 = 1 ∧
        (sides t c v 1).emitJoin x v (joinPorts v).imm (if op = 0x64 then mkTok 2 1 else mkTok 0 (tokOf ka).val) ca cb = some T ∧
        Alone t0 (.cu c) T) ∧
      ∃ s t0 t c x v ka kb ca cb T, JoinCase s t0 t c x v op ka kb ca cb ∧ joinOutcome (tokOf ka) (tokOf kb) = 2 ∧
        (tokOf ka).isItem = true ∧ (tokOf kb).isItem = true ∧ cuAct v 2 0 ≠ 2 ∧ cuAct v 2 1 = 2 ∧
        (∀ n ∈ (joinPorts v).sideB, (x.port n).window.length ≤ 1024) ∧ cuAct v 2 2 = 2 ∧ (tokOf ka).val ≠ (tokOf kb).val ∧
        (sides t c v 2).emitJoin x v (joinPorts v).imm (if op = 0x64 then mkTok 2 2 else mkTok 0 (tokOf kb).val) absentTok cb =
          some T ∧ Alone t0 (.cu c) T := by
  have h1 : ∀ op ∈ [0x60, 0x61, 0x64], ∀ y ∈ [3, 5, 7],
      (cuFibre (joinWord op companions) && 0x60 ≤ cuOp (joinWord op companions) 0 && cuOp (joinWord op companions) 0 ≤ 0x66 &&
        (joinPorts (joinWord op companions)).op == op) = true ∧
      (joinAt (joining op companions none (paired y)) (cellOf (joining op companions none (paired y))) (joinWord op companions)
        (mkTok 0 (BitVec.ofNat 32 y)) (mkTok 0 5) (mkTok 2 1) (mkTok 2 2) &&
          inForce (joining op companions none (paired y)) (cellOf (joining op companions none (paired y))) (joinWord op companions)) = true := by
    decide +kernel
  have h2 : ∀ op ∈ [0x60, 0x61, 0x64],
      alone (joining op companions none (paired 3)) (.cu 0)
        (some (sides (joining op companions none (paired 3)) 0 (joinWord op companions) 0)) = true ∧
      alone (joining op companions none (paired 5)) (.cu 0) ((sides (joining op companions none (paired 5)) 0 (joinWord op companions)
        1).emitJoin (cellOf (joining op companions none (paired 5))) (joinWord op companions) (joinPorts (joinWord op companions)).imm
          (if op = 0x64 then mkTok 2 1 else mkTok 0 (tokOf (mkTok 0 5)).val) (mkTok 2 1) (mkTok 2 2)) = true ∧
      alone (joining op companions none (paired 7)) (.cu 0) ((sides (joining op companions none (paired 7)) 0 (joinWord op companions)
        2).emitJoin (cellOf (joining op companions none (paired 7))) (joinWord op companions) (joinPorts (joinWord op companions)).imm
          (if op = 0x64 then mkTok 2 2 else mkTok 0 (tokOf (mkTok 0 5)).val) absentTok (mkTok 2 2)) = true ∧
      cuAct (joinWord op companions) 0 0 ≠ 2 ∧ cuAct (joinWord op companions) 0 1 ≠ 2 ∧ cuAct (joinWord op companions) 0 2 = 0 ∧
      cuAct (joinWord op companions) 1 0 ≠ 2 ∧ cuAct (joinWord op companions) 1 1 ≠ 2 ∧ cuAct (joinWord op companions) 1 2 = 1 ∧
      cuAct (joinWord op companions) 2 0 ≠ 2 ∧ cuAct (joinWord op companions) 2 1 = 2 ∧ cuAct (joinWord op companions) 2 2 = 2 ∧
      ∀ n ∈ (joinPorts (joinWord op companions)).sideB,
        ((cellOf (joining op companions none (paired 7))).port n).window.length ≤ 1024 := by
    decide +kernel
  intro op m
  obtain ⟨a1, a2⟩ := h1 op m 3 (by simp)
  obtain ⟨-, b2⟩ := h1 op m 5 (by simp)
  obtain ⟨-, c2⟩ := h1 op m 7 (by simp)
  obtain ⟨d1, d2, d3, k1, k2, k3, k4, k5, k6, k7, k8, k9, k10⟩ := h2 op m
  obtain ⟨T1, e1, l1⟩ := alone_of d1
  obtain ⟨T2, e2, l2⟩ := alone_of d2
  obtain ⟨T3, e3, l3⟩ := alone_of d3
  cases e1
  exact ⟨⟨_, _, _, 0, _, _, _, _, _, _, joinCase_of op companions none _ none none _ _ _ _ a1 a2, by decide +kernel,
      by decide +kernel, by decide +kernel, by decide +kernel, k1, k2, k3, l1⟩,
    ⟨_, _, _, 0, _, _, _, _, _, _, T2, joinCase_of op companions none _ none none _ _ _ _ a1 b2, by decide +kernel,
      by decide +kernel, by decide +kernel, k4, k5, k6, e2, l2⟩,
    ⟨_, _, _, 0, _, _, _, _, _, _, T3, joinCase_of op companions none _ none none _ _ _ _ a1 c2, by decide +kernel,
      by decide +kernel, by decide +kernel, k7, k8, k10, k9, by decide +kernel, e3, l3⟩⟩

/-- `jrepeat`: an item of a with the item of b, the stop that ends a run, and a stop above. -/
theorem witness_JoinBeats_repeat :
    (∃ s t0 t c x v ka kb ca cb T, JoinCase s t0 t c x v 0x62 ka kb ca cb ∧ (tokOf ka).isItem = true ∧ (tokOf kb).isItem = true ∧
      cuAct v 0 0 ≠ 2 ∧ cuAct v 0 1 ≠ 2 ∧ cuAct v 0 2 ≠ 0 ∧ (sides t c v 0).emitJoin x v (joinPorts v).imm ka ca kb = some T ∧
      Alone t0 (.cu c) T) ∧
    (∃ s t0 t c x v ka kb ca cb T, JoinCase s t0 t c x v 0x62 ka kb ca cb ∧ tokOf ka = .stop 0 ∧ (tokOf kb).isItem = true ∧
      (t.consumeAll c (joinPorts v) (joinPorts v).all).emitAll x v (stopTok 0) = some T ∧ Alone t0 (.cu c) T) ∧
    ∃ s t0 t c x v ka kb ca cb T, JoinCase s t0 t c x v 0x62 ka kb ca cb ∧ tokOf ka = .stop 1 ∧ tokOf kb = .stop 0 ∧
      ((t.updCell c fun y => { y with afterItem := false }).consumeAll c (joinPorts v) (joinPorts v).all).emitAll x v (stopTok 1) =
        some T ∧ Alone t0 (.cu c) T := by
  let t1 : Task := joining 0x62 0x60 none [[cTok 3], [cTok 5], [valTok 1], []]
  let t2 : Task := joining 0x62 0x60 none [[.token (stopTok 0)], [cTok 5], [.token (stopTok 0)], []]
  let t3 : Task := joining 0x62 0x60 none [[.token (stopTok 1)], [.token (stopTok 0)], [.token (stopTok 1)], []]
  let v : BitVec 240 := joinWord 0x62 0x60
  obtain ⟨T1, e1, l1⟩ := alone_of (t := t1) (u := .cu 0)
    (o := (sides t1 0 v 0).emitJoin (cellOf t1) v (joinPorts v).imm (mkTok 0 3) (mkTok 2 1) (mkTok 0 5)) (by decide +kernel)
  obtain ⟨T2, e2, l2⟩ := alone_of (t := t2) (u := .cu 0)
    (o := (t2.consumeAll 0 (joinPorts v) (joinPorts v).all).emitAll (cellOf t2) v (stopTok 0)) (by decide +kernel)
  obtain ⟨T3, e3, l3⟩ := alone_of (t := t3) (u := .cu 0)
    (o := ((t3.updCell 0 fun y => { y with afterItem := false }).consumeAll 0 (joinPorts v) (joinPorts v).all).emitAll (cellOf t3) v
      (stopTok 1)) (by decide +kernel)
  exact ⟨⟨_, t1, t1, 0, cellOf t1, v, mkTok 0 3, mkTok 0 5, mkTok 2 1, absentTok, T1,
      joinCase_of 0x62 0x60 none _ none none _ _ _ _ (by decide +kernel) (by decide +kernel),
      by decide +kernel, by decide +kernel, by decide +kernel, by decide +kernel, by decide +kernel, e1, l1⟩,
    ⟨_, t2, t2, 0, cellOf t2, v, stopTok 0, mkTok 0 5, stopTok 0, absentTok, T2,
      joinCase_of 0x62 0x60 none _ none none _ _ _ _ (by decide +kernel) (by decide +kernel), by decide +kernel, by decide +kernel, e2, l2⟩,
    ⟨_, t3, t3, 0, cellOf t3, v, stopTok 1, stopTok 0, stopTok 1, absentTok, T3,
      joinCase_of 0x62 0x60 none _ none none _ _ _ _ (by decide +kernel) (by decide +kernel), by decide +kernel, by decide +kernel, e3,
      l3⟩⟩

/-- `jreduce` with `iadd.w`: a run begins, goes on, ends at another coordinate, and a stop passes. -/
theorem witness_JoinBeats_reduce :
    (∃ s t0 t c x v ka kb ca cb d w, JoinCase s t0 t c x v 0x63 ka kb ca cb ∧ tokOf ka = .c d ∧ x.runCoord = none ∧ tokOf ca = .v w ∧
      Alone t0 (.cu c) ((t.consumeAll c (joinPorts v) (joinPorts v).sideA).updCell c fun y =>
        { y with runCoord := some d, runValue := some w })) ∧
    (∃ s t0 t c x v ka kb ca cb d a b r, JoinCase s t0 t c x v 0x63 ka kb ca cb ∧ tokOf ka = .c d ∧ x.runCoord = some d ∧
      x.runValue = some a ∧ tokOf ca = .v b ∧
      r = nodeOp (reduceOp (joinParam (joinPorts v).imm)) (cuRm v 0) (cuSat v 0) t.crec.ftz 0 a b 0 ∧
      Alone t0 (.cu c) (((t.consumeAll c (joinPorts v) (joinPorts v).sideA).updCell c fun y =>
        { y with runValue := some r.1 }).flag r.2)) ∧
    (∃ s t0 t c x v ka kb ca cb d e w T, JoinCase s t0 t c x v 0x63 ka kb ca cb ∧ tokOf ka = .c d ∧ x.runCoord = some e ∧ e ≠ d ∧
      (joinParam (joinPorts v).imm).testBit 3 = false ∧ tokOf ca = .v w ∧
      ((t.consumeAll c (joinPorts v) (joinPorts v).sideA).updCell c fun y =>
        { y with runCoord := some d, runValue := some w }).emitRun x v (joinPorts v) e = some T ∧ Alone t0 (.cu c) T) ∧
    ∃ s t0 t c x v ka kb ca cb T, JoinCase s t0 t c x v 0x63 ka kb ca cb ∧ tokOf ka = .stop 0 ∧ x.runCoord = none ∧
      (t.consumeAll c (joinPorts v) (joinPorts v).sideA).emitAll x v (stopTok 0) = some T ∧ Alone t0 (.cu c) T := by
  let i : Nat := 0x60 + 2 ^ 16
  let v : BitVec 240 := joinWord 0x63 i
  let t1 : Task := joining 0x63 i none [[cTok 3], [], [valTok 1], []]
  let t2 : Task := joining 0x63 i none [[cTok 3], [], [valTok 1], []] (some 3) (some 6)
  let t3 : Task := joining 0x63 i none [[cTok 3], [], [valTok 1], []] (some 2) (some 6)
  let t4 : Task := joining 0x63 i none [[.token (stopTok 0)], [], [.token (stopTok 0)], []]
  let r : Flagged := nodeOp (reduceOp (joinParam (joinPorts v).imm)) (cuRm v 0) (cuSat v 0) t2.crec.ftz 0 6 1 0
  obtain ⟨T1, e1, l1⟩ := alone_of (t := t1) (u := .cu 0)
    (o := some ((t1.consumeAll 0 (joinPorts v) (joinPorts v).sideA).updCell 0 fun y =>
      { y with runCoord := some 3, runValue := some 1 })) (by decide +kernel)
  obtain ⟨T2, e2, l2⟩ := alone_of (t := t2) (u := .cu 0)
    (o := some (((t2.consumeAll 0 (joinPorts v) (joinPorts v).sideA).updCell 0 fun y =>
      { y with runValue := some r.1 }).flag r.2)) (by decide +kernel)
  obtain ⟨T3, e3, l3⟩ := alone_of (t := t3) (u := .cu 0)
    (o := ((t3.consumeAll 0 (joinPorts v) (joinPorts v).sideA).updCell 0 fun y =>
      { y with runCoord := some 3, runValue := some 1 }).emitRun (cellOf t3) v (joinPorts v) 2) (by decide +kernel)
  obtain ⟨T4, e4, l4⟩ := alone_of (t := t4) (u := .cu 0)
    (o := (t4.consumeAll 0 (joinPorts v) (joinPorts v).sideA).emitAll (cellOf t4) v (stopTok 0)) (by decide +kernel)
  cases e1
  cases e2
  exact ⟨⟨_, t1, t1, 0, cellOf t1, v, mkTok 0 3, absentTok, mkTok 2 1, absentTok, 3, 1,
      joinCase_of 0x63 i none _ none none _ _ _ _ (by decide +kernel) (by decide +kernel), by decide +kernel, rfl, by decide +kernel, l1⟩,
    ⟨_, t2, t2, 0, cellOf t2, v, mkTok 0 3, absentTok, mkTok 2 1, absentTok, 3, 6, 1, r,
      joinCase_of 0x63 i none _ (some 3) (some 6) _ _ _ _ (by decide +kernel) (by decide +kernel), by decide +kernel, rfl, rfl,
      by decide +kernel, rfl, l2⟩,
    ⟨_, t3, t3, 0, cellOf t3, v, mkTok 0 3, absentTok, mkTok 2 1, absentTok, 3, 2, 1, T3,
      joinCase_of 0x63 i none _ (some 2) (some 6) _ _ _ _ (by decide +kernel) (by decide +kernel), by decide +kernel, rfl,
      by decide +kernel, by decide +kernel, by decide +kernel, e3, l3⟩,
    ⟨_, t4, t4, 0, cellOf t4, v, stopTok 0, absentTok, stopTok 0, absentTok, T4,
      joinCase_of 0x63 i none _ none none _ _ _ _ (by decide +kernel) (by decide +kernel), by decide +kernel, rfl, e4, l4⟩⟩

/-- `jstop` of one level: a stop goes, a stop is lowered, an item passes. `jcount`: an item is counted, a stop gives the count. -/
theorem witness_JoinBeats_count :
    (∃ s t0 t c x v ka kb ca cb, JoinCase s t0 t c x v 0x65 ka kb ca cb ∧ tokOf ka = .stop 0 ∧ 0 < joinParam (joinPorts v).imm ∧
      Alone t0 (.cu c) (t.consumeAll c (joinPorts v) (joinPorts v).all)) ∧
    (∃ s t0 t c x v ka kb ca cb T, JoinCase s t0 t c x v 0x65 ka kb ca cb ∧ tokOf ka = .stop 1 ∧ joinParam (joinPorts v).imm ≤ 1 ∧
      (t.consumeAll c (joinPorts v) (joinPorts v).all).emitAll x v (stopTok (1 - joinParam (joinPorts v).imm)) = some T ∧
      Alone t0 (.cu c) T) ∧
    (∃ s t0 t c x v ka kb ca cb T, JoinCase s t0 t c x v 0x65 ka kb ca cb ∧ (tokOf ka).isItem = true ∧
      (t.consumeAll c (joinPorts v) (joinPorts v).all).emitJoin x v (joinPorts v).imm ka ca cb = some T ∧ Alone t0 (.cu c) T) ∧
    (∃ s t0 t c x v ka kb ca cb, JoinCase s t0 t c x v 0x66 ka kb ca cb ∧ (tokOf ka).isItem = true ∧ tokOf ka ≠ .e ∧
      Alone t0 (.cu c) ((t.consumeAll c (joinPorts v) (joinPorts v).all).updCell c fun y =>
        { y with count := y.count + 1, afterItem := true })) ∧
    ∃ s t0 t c x v ka kb ca cb T, JoinCase s t0 t c x v 0x66 ka kb ca cb ∧ tokOf ka = .stop 0 ∧ x.runValue = none ∧
      (t.updCell c fun y => { y with runValue := some 1 }).emitJoin x v (joinPorts v).imm (mkTok 2 (BitVec.ofNat 32 x.count))
        absentTok absentTok = some T ∧ Alone t0 (.cu c) T := by
  let i : Nat := 2 ^ 16
  let v : BitVec 240 := joinWord 0x65 i
  let w : BitVec 240 := joinWord 0x66 0
  let t1 : Task := joining 0x65 i none [[.token (stopTok 0)], [], [], []]
  let t2 : Task := joining 0x65 i none [[.token (stopTok 1)], [], [], []]
  let t3 : Task := joining 0x65 i none [[cTok 3], [], [], []]
  let t4 : Task := joining 0x66 0 none [[cTok 3], [], [], []]
  let t5 : Task := joining 0x66 0 none [[.token (stopTok 0)], [], [], []]
  obtain ⟨T1, e1, l1⟩ := alone_of (t := t1) (u := .cu 0)
    (o := some (t1.consumeAll 0 (joinPorts v) (joinPorts v).all)) (by decide +kernel)
  obtain ⟨T2, e2, l2⟩ := alone_of (t := t2) (u := .cu 0)
    (o := (t2.consumeAll 0 (joinPorts v) (joinPorts v).all).emitAll (cellOf t2) v (stopTok (1 - joinParam (joinPorts v).imm)))
    (by decide +kernel)
  obtain ⟨T3, e3, l3⟩ := alone_of (t := t3) (u := .cu 0)
    (o := (t3.consumeAll 0 (joinPorts v) (joinPorts v).all).emitJoin (cellOf t3) v (joinPorts v).imm (mkTok 0 3) absentTok absentTok)
    (by decide +kernel)
  obtain ⟨T4, e4, l4⟩ := alone_of (t := t4) (u := .cu 0)
    (o := some ((t4.consumeAll 0 (joinPorts w) (joinPorts w).all).updCell 0 fun y =>
      { y with count := y.count + 1, afterItem := true })) (by decide +kernel)
  obtain ⟨T5, e5, l5⟩ := alone_of (t := t5) (u := .cu 0)
    (o := (t5.updCell 0 fun y => { y with runValue := some 1 }).emitJoin (cellOf t5) w (joinPorts w).imm
      (mkTok 2 (BitVec.ofNat 32 (cellOf t5).count)) absentTok absentTok) (by decide +kernel)
  cases e1
  cases e4
  exact ⟨⟨_, t1, t1, 0, cellOf t1, v, stopTok 0, absentTok, absentTok, absentTok,
      joinCase_of 0x65 i none _ none none _ _ _ _ (by decide +kernel) (by decide +kernel), by decide +kernel, by decide +kernel, l1⟩,
    ⟨_, t2, t2, 0, cellOf t2, v, stopTok 1, absentTok, absentTok, absentTok, T2,
      joinCase_of 0x65 i none _ none none _ _ _ _ (by decide +kernel) (by decide +kernel), by decide +kernel, by decide +kernel, e2, l2⟩,
    ⟨_, t3, t3, 0, cellOf t3, v, mkTok 0 3, absentTok, absentTok, absentTok, T3,
      joinCase_of 0x65 i none _ none none _ _ _ _ (by decide +kernel) (by decide +kernel), by decide +kernel, e3, l3⟩,
    ⟨_, t4, t4, 0, cellOf t4, w, mkTok 0 3, absentTok, absentTok, absentTok,
      joinCase_of 0x66 0 none _ none none _ _ _ _ (by decide +kernel) (by decide +kernel), by decide +kernel, by decide +kernel, l4⟩,
    ⟨_, t5, t5, 0, cellOf t5, w, stopTok 0, absentTok, absentTok, absentTok, T5,
      joinCase_of 0x66 0 none _ none none _ _ _ _ (by decide +kernel) (by decide +kernel), by decide +kernel, rfl, e5, l5⟩⟩

/-- A header, and an unknown tag, at an input other than a, behind an input that holds neither, while a holds none. -/
theorem witness_JoinBeats_early :
    (∃ s t c x v n r k e w, Works s t ∧ t.cell? c = some x ∧ x.cu = some v ∧ cuFibre v = true ∧ 0x60 ≤ cuOp v 0 ∧ cuOp v 0 ≤ 0x66 ∧
      (cuIns v).filter (· ≠ cuSel v 0 0) = 1 :: n :: r ∧ InForce t x 1 ∧ t.tokHead x n = some k ∧ tokOf k.1 = .h w ∧ e = 7) ∧
    ∃ s t c x v n r k e, Works s t ∧ t.cell? c = some x ∧ x.cu = some v ∧ cuFibre v = true ∧ 0x60 ≤ cuOp v 0 ∧ cuOp v 0 ≤ 0x66 ∧
      (cuIns v).filter (· ≠ cuSel v 0 0) = n :: r ∧ t.tokHead x n = some k ∧ tokOf k.1 = .bad ∧ e = 5 := by
  let t1 : Task := joining 0x60 0 none [[], [cTok 5], [.token (hNext 3)], []]
  let t2 : Task := joining 0x60 0 none [[], [.token (mkTok 5 0)], [], []]
  exact ⟨⟨_, t1, 0, cellOf t1, joinWord 0x60 0, 2, [3], (hNext 3, true), 7, _, works1 _ rfl rfl, rfl, rfl, by decide +kernel,
      by decide +kernel, by decide +kernel, by decide +kernel,
      fun k e => by
        obtain rfl := Option.some.inj ((show t1.tokHead (cellOf t1) 1 = some (mkTok 0 5, true) by decide +kernel).symm.trans e)
        exact ⟨by decide +kernel, fun w h => nomatch (show Tok.c 5 = .h w from h)⟩,
      by decide +kernel, rfl, rfl⟩,
    ⟨_, t2, 0, cellOf t2, joinWord 0x60 0, 1, [2, 3], (mkTok 5 0, true), 5, works1 _ rfl rfl, rfl, rfl, by decide +kernel,
      by decide +kernel, by decide +kernel, by decide +kernel, by decide +kernel, by decide +kernel, rfl⟩⟩

/-- A generator's payload: mode, token output, p1, log2 of the element size, and the fields from bit 113 on. -/
def agWord (mode tok p1 esize hi : Nat) : BitVec 240 :=
  BitVec.ofNat 240 (mode + 8 * tok + 16 * p1 + 2 ^ 108 * esize + 2 ^ 113 * hi)

/-- A bound, a fan-out, a depth, and the stride of dimension 0 (R43, R234). -/
def agHigh (bound fan depth stride : Nat) : Nat := (bound - 1) + 2 ^ 32 * (fan - 1) + 2 ^ 48 * depth + 2 ^ 64 * stride

/-- A task whose first generator on the north edge has a frame and a launched go. -/
def agOne (v : BitVec 240) (f : Ag → Ag) : Task :=
  { tsk [] with
    gos := [{ id := 1, sec := 0, addr := 0, gate := none, launched := true, srcs := [(.ag 0, 2, 4)] }]
    ags := [f (Ag.fresh 0 v)] }

/-- Its generator. -/
def agOf (t : Task) : Ag := t.ags.headD (Ag.fresh 0 0)

/-- A pass of 2 elements, granted, of which `n` are done. -/
def pass2 (n : Nat) : Pass := { go := 1, total := 2, granted := 2, pos := n, num := 0, lo := 0 }

theorem alone_read {t : Task} {u : FUnit} (r : State × Except ViewErr (Task × List Byte)) (f : Task → List Byte → Task)
    (h : alone t u (match r.2 with | .ok p => some (f p.1 p.2) | _ => none) = true) :
    ∃ s' t' l, r = (s', .ok (t', l)) ∧ Alone t u (f t' l) := by
  obtain ⟨T, e, a⟩ := alone_of h
  obtain ⟨s', p⟩ := r
  cases p with
  | ok p => cases e; exact ⟨s', p.1, p.2, rfl, a⟩
  | error => cases e

theorem alone_fired {t : Task} {u : FUnit} (r : Fired) (f : Task → Task)
    (h : alone t u (match r with | .ok p => some (f p.2) | _ => none) = true) :
    ∃ s' t', r = .ok (s', t') ∧ Alone t u (f t') := by
  obtain ⟨T, e, a⟩ := alone_of h
  cases r with
  | ok p => cases e; exact ⟨p.1, p.2, rfl, a⟩
  | error => cases e

/-- An AFFINE generator of 2 words from 0x1000, one after the other. -/
def affine (f : Ag → Ag) : Task := agOne (agWord 1 1 0x1000 2 (1 + 2 ^ 64)) f

/-- AFFINE: an element is read; a token leaves, in the middle of a pass and at its end. -/
theorem witness_AgBeats_read :
    (∃ s t p a q s' t' l, AgAt s t p a 1 ∧ t.agSource a = true ∧ PassAt t a q [] ∧ a.out = [] ∧ a.out2 = [] ∧ q.pos < q.granted ∧
      s.viewRead t (placeCluster p) (agAddress a (a.boxDisp q.pos)) (2 ^ agEsize a.frame) = (s', .ok (t', l)) ∧
      agTokens a.frame = true ∧ Alone t (.ag p) (t'.updAg p fun b => { b with
        passes := match b.passes with | y :: z => { y with pos := y.pos + 1 } :: z | [] => []
        out := .token (mkTok 2 (BitVec.ofNat 32 (ofLeBytes l))) ::
          ((match a.closes q.pos with | some k => [Item.token (stopTok k)] | none => []) ++
            if q.total ≤ q.pos + 1 then [.token doneTok] else []) })) ∧
    ∀ n ∈ [1, 2], ∃ s t p a q o T1 b, AgAt s t p a 1 ∧ t.agSource a = true ∧ PassAt t a q [] ∧ a.out = [o] ∧ a.out2 = [] ∧ q.pos = n ∧
      (t.updAg p fun b => { b with out := [] }).place (t.agDests p (agPort a.frame)) o = some T1 ∧ T1.ag? p = some b ∧
      Alone t (.ag p) (if b.out = [] ∧ q.total ≤ q.pos then T1.agEndPass b else T1) := by
  let t1 : Task := affine fun a => { a with passes := [pass2 1] }
  obtain ⟨s', t', l, e1, l1⟩ := alone_read (t := t1) (u := .ag 0)
    ((with1 base t1).viewRead t1 (placeCluster 0) (agAddress (agOf t1) ((agOf t1).boxDisp (pass2 1).pos)) (2 ^ agEsize (agOf t1).frame))
    (fun t' l => t'.updAg 0 fun b => { b with
        passes := match b.passes with | y :: z => { y with pos := y.pos + 1 } :: z | [] => []
        out := .token (mkTok 2 (BitVec.ofNat 32 (ofLeBytes l))) ::
          ((match (agOf t1).closes (pass2 1).pos with | some k => [Item.token (stopTok k)] | none => []) ++
            if (pass2 1).total ≤ (pass2 1).pos + 1 then [.token doneTok] else []) }) (by decide +kernel)
  have h : ∀ n ∈ [1, 2], alone (affine fun a => { a with passes := [pass2 n], out := [valTok 5] }) (.ag 0)
      ((((affine fun a => { a with passes := [pass2 n], out := [valTok 5] }).updAg 0 fun b => { b with out := [] }).place
        ((affine fun a => { a with passes := [pass2 n], out := [valTok 5] }).agDests 0 0) (valTok 5)).map fun T =>
          if (agOf T).out = [] ∧ 2 ≤ n then T.agEndPass (agOf T) else T) = true ∧
      (match ((affine fun a => { a with passes := [pass2 n], out := [valTok 5] }).updAg 0 fun b => { b with out := [] }).place
        ((affine fun a => { a with passes := [pass2 n], out := [valTok 5] }).agDests 0 0) (valTok 5) with
        | some T => T.ag? 0 == some (agOf T)
        | none => false) = true ∧
      (affine fun a => { a with passes := [pass2 n], out := [valTok 5] }).agSource
        (agOf (affine fun a => { a with passes := [pass2 n], out := [valTok 5] })) = true ∧
      agMode (agOf (affine fun a => { a with passes := [pass2 n], out := [valTok 5] })).frame = 1 ∧
      (affine fun a => { a with passes := [pass2 n], out := [valTok 5] }).portFrozen
        (agOf (affine fun a => { a with passes := [pass2 n], out := [valTok 5] })).port = false := by
    decide +kernel
  refine ⟨⟨_, t1, 0, agOf t1, pass2 1, s', t', l, ⟨works1 _ rfl rfl, rfl, by decide +kernel, by decide +kernel⟩, by decide +kernel,
    ⟨rfl, by decide +kernel⟩, rfl, rfl, by decide, e1, by decide +kernel, l1⟩, ?_⟩
  intro n m
  obtain ⟨h1, h2, h3, h4, h5⟩ := h n m
  obtain ⟨T, e, l⟩ := alone_then _ h1
  rw [e] at h2
  exact ⟨_, affine fun a => { a with passes := [pass2 n], out := [valTok 5] }, 0, _, pass2 n, valTok 5, T, agOf T,
    ⟨works1 _ rfl rfl, rfl, h4, h5⟩, h3, ⟨rfl, rfl⟩, rfl, rfl, rfl, e, by simpa using h2, l⟩

/-- The switch of cell 0 drives its edge link, so the generator there writes. -/
def driven : List (BitVec 256) := [BitVec.ofNat 256 (3 * 2 ^ 252 + 2 ^ 36)]

/-- AFFINE: a token is stored at the first place of the box. -/
theorem witness_AgBeats_write :
    ∃ s t p a k w s' t', AgAt s t p a 1 ∧ t.agSource a = false ∧ (t.head (.ag p false)).map Item.body = some (.token k) ∧
      tokOf k = .v w ∧ a.inp.lastStop = none ∧ a.pos = 0 ∧ 0 < a.boxTotal ∧
      s.agWrite (t.take (.ag p false)) a (agAddress a (a.boxDisp 0)) (natBytes (min (2 ^ agEsize a.frame) 4) w.toNat) 0 =
        .ok (s', t') ∧
      Alone t (.ag p) (t'.updAg p fun b => { b with pos := b.pos + 1, inp := { b.inp with begun := true, lastStop := none } }) := by
  let t1 : Task := { affine fun a => { a with q := [valTok 5] } with frames := driven }
  obtain ⟨s', t', e1, l1⟩ := alone_fired (t := t1) (u := .ag 0)
    ((with1 base t1).agWrite (t1.take (.ag 0 false)) (agOf t1) (agAddress (agOf t1) ((agOf t1).boxDisp 0))
      (natBytes (min (2 ^ agEsize (agOf t1).frame) 4) (5 : BitVec 32).toNat) 0)
    (fun t' => t'.updAg 0 fun b => { b with pos := b.pos + 1, inp := { b.inp with begun := true, lastStop := none } })
    (by decide +kernel)
  exact ⟨_, t1, 0, agOf t1, mkTok 2 5, 5, s', t', ⟨works1 _ rfl rfl, rfl, by decide +kernel, by decide +kernel⟩, by decide +kernel,
    by decide +kernel, by decide +kernel, rfl, rfl, by decide +kernel, e1, l1⟩

/-- GATHER: a coordinate becomes a request; the result at the head leaves. -/
theorem witness_AgBeats_gather :
    (∃ s t p a x k, AgAt s t p a 2 ∧ a.gathers = [] ∧ a.headers = [] ∧ t.head (.ag p false) = some x ∧ tokOf x.asToken = k ∧
      (∃ w, k = .c w ∨ k = .f w) ∧ a.accept.fault a.inp k = none ∧ k.val.toNat < agBound a.frame ∧
      Alone t (.ag p) (((t.putAg a).take (.ag p false)).updAg p fun b => { b with
        inp := a.accept.took b.inp k, gathers := b.gathers ++ [(agAddress a ((k.val.toNat : Int) * agStride a.frame 0), none)] })) ∧
    ∃ s t p a va k T, AgAt s t p a 2 ∧ a.gathers = [(va, some k)] ∧
      (t.updAg p fun b => { b with gathers := [] }).place (t.agDests p (agPort a.frame)) (.token k) = some T ∧ Alone t (.ag p) T := by
  let v : BitVec 240 := agWord 2 0 0x1000 2 (agHigh 16 1 1 1)
  let t1 : Task := agOne v fun a => { a with q := [cTok 5] }
  let t2 : Task := agOne v fun a => { a with gathers := [(0x1000, some (mkTok 2 5))] }
  obtain ⟨T1, e1, l1⟩ := alone_of (t := t1) (u := .ag 0)
    (o := some (((t1.putAg (agOf t1)).take (.ag 0 false)).updAg 0 fun b => { b with
      inp := (agOf t1).accept.took b.inp (.c 5)
      gathers := b.gathers ++ [(agAddress (agOf t1) ((5 : Nat) * agStride (agOf t1).frame 0), none)] })) (by decide +kernel)
  obtain ⟨T2, e2, l2⟩ := alone_of (t := t2) (u := .ag 0)
    (o := (t2.updAg 0 fun b => { b with gathers := [] }).place (t2.agDests 0 0) (.token (mkTok 2 5))) (by decide +kernel)
  cases e1
  exact ⟨⟨_, t1, 0, agOf t1, cTok 5, .c 5, ⟨works1 _ rfl rfl, rfl, by decide +kernel, by decide +kernel⟩, rfl, rfl, rfl,
      by decide +kernel, ⟨5, .inl rfl⟩, by decide +kernel, by decide +kernel, l1⟩,
    ⟨_, t2, 0, agOf t2, 0x1000, mkTok 2 5, T2, ⟨works1 _ rfl rfl, rfl, by decide +kernel, by decide +kernel⟩, rfl, e2, l2⟩⟩

/-- SCATTER stores a value at the place of its partner. -/
theorem witness_AgBeats_scatter :
    ∃ s t p a x y i w, ∃ vAcc : Accept, ∃ s' t', AgAt s t p a 3 ∧ a.headers = [] ∧ t.head (.ag p false) = some x ∧ t.head (.ag p true) = some y ∧
      tokOf x.asToken = i ∧ (∃ z, i = .c z ∨ i = .f z) ∧ tokOf y.asToken = .v w ∧ a.accept.fault a.inp i = none ∧
      vAcc = { c := false, f := false, v := true, e := true, depth := agDepth a.frame, order := 0 } ∧
      vAcc.fault a.inp2 (.v w) = none ∧ i.val.toNat < agBound a.frame ∧
      s.agWrite ((((t.putAg a).take (.ag p false)).take (.ag p true)).updAg p fun b =>
        { b with inp := a.accept.took b.inp i, inp2 := vAcc.took b.inp2 (.v w) }) a
        (agAddress a ((i.val.toNat : Int) * agStride a.frame 0)) (natBytes (min (2 ^ agEsize a.frame) 4) w.toNat) a.pos = .ok (s', t') ∧
      Alone t (.ag p) t' := by
  let t1 : Task := agOne (agWord 3 0 0x1000 2 (agHigh 16 1 1 1)) fun a => { a with q := [cTok 5], q2 := [valTok 7] }
  let vAcc : Accept := { c := false, f := false, v := true, e := true, depth := agDepth (agOf t1).frame, order := 0 }
  obtain ⟨s', t', e1, l1⟩ := alone_fired (t := t1) (u := .ag 0)
    ((with1 base t1).agWrite ((((t1.putAg (agOf t1)).take (.ag 0 false)).take (.ag 0 true)).updAg 0 fun b =>
        { b with inp := (agOf t1).accept.took b.inp (.c 5), inp2 := vAcc.took b.inp2 (.v 7) }) (agOf t1)
      (agAddress (agOf t1) (((Tok.c 5).val.toNat : Int) * agStride (agOf t1).frame 0))
      (natBytes (min (2 ^ agEsize (agOf t1).frame) 4) (7 : BitVec 32).toNat) (agOf t1).pos) id (by decide +kernel)
  exact ⟨_, t1, 0, agOf t1, cTok 5, valTok 7, .c 5, 7, vAcc, s', t', ⟨works1 _ rfl rfl, rfl, by decide +kernel, by decide +kernel⟩,
    rfl, rfl, rfl, by decide +kernel, ⟨5, .inl rfl⟩, by decide +kernel, by decide +kernel, rfl, by decide +kernel, by decide +kernel, e1,
    l1⟩

/-- LEVEL raises a stop; a reference into an identity level of one coordinate is expanded, in an open fibre or not. -/
theorem witness_AgBeats_level :
    (∃ s t p a x, AgAt s t p a 4 ∧ agDepth a.frame ≠ 0 ∧ a.headers = [] ∧ a.out = [] ∧ a.out2 = [] ∧ t.head (.ag p false) = some x ∧
      tokOf x.asToken = .stop 0 ∧ a.accept.fault a.inp (.stop 0) = none ∧
      Alone t (.ag p) ((((t.putAg a).take (.ag p false)).updAg p fun b => { b with inp := a.accept.took b.inp (.stop 0) }).updAg p
        fun b => { b with out := b.out ++ [.token (stopTok (0 + 1))], out2 := b.out2 ++ [.token (stopTok (0 + 1))], open? := false })) ∧
    ∀ o ∈ [true, false], ∃ s t p a x w, AgAt s t p a 4 ∧ agDepth a.frame ≠ 0 ∧ a.headers = [] ∧ a.out = [] ∧ a.out2 = [] ∧
      t.head (.ag p false) = some x ∧ tokOf x.asToken = .f w ∧ a.accept.fault a.inp (.f w) = none ∧ w.toNat < agBound a.frame ∧
      agP1 a.frame = 0 ∧ agFan a.frame = 1 ∧ a.open? = o ∧
      Alone t (.ag p) ((((t.putAg a).take (.ag p false)).updAg p fun b => { b with inp := a.accept.took b.inp (.f w) }).updAg p
        fun b => { b with out := b.out ++ (if a.open? = true then [Item.token (stopTok 0)] else []) ++ [.token (mkTok 0 0)],
                          out2 := b.out2 ++ (if a.open? = true then [Item.token (stopTok 0)] else []) ++ [.token (mkTok 1 w)],
                          open? := true }) := by
  let v : BitVec 240 := agWord 4 0 0 2 (agHigh 16 1 2 0)
  let t1 : Task := agOne v fun a => { a with q := [.token (stopTok 0)], open? := true }
  obtain ⟨T1, e1, l1⟩ := alone_of (t := t1) (u := .ag 0)
    (o := some ((((t1.putAg (agOf t1)).take (.ag 0 false)).updAg 0 fun b =>
        { b with inp := (agOf t1).accept.took b.inp (.stop 0) }).updAg 0 fun b =>
        { b with out := b.out ++ [.token (stopTok (0 + 1))], out2 := b.out2 ++ [.token (stopTok (0 + 1))], open? := false }))
    (by decide +kernel)
  have h : ∀ o ∈ [true, false], alone (agOne v fun a => { a with q := [.token (mkTok 1 5)], open? := o }) (.ag 0)
      (some (((((agOne v fun a => { a with q := [.token (mkTok 1 5)], open? := o }).putAg
        (agOf (agOne v fun a => { a with q := [.token (mkTok 1 5)], open? := o }))).take (.ag 0 false)).updAg 0 fun b =>
          { b with inp := (agOf (agOne v fun a => { a with q := [.token (mkTok 1 5)], open? := o })).accept.took b.inp (.f 5) }).updAg 0
        fun b => { b with out := b.out ++ (if o = true then [Item.token (stopTok 0)] else []) ++ [.token (mkTok 0 0)],
                          out2 := b.out2 ++ (if o = true then [Item.token (stopTok 0)] else []) ++ [.token (mkTok 1 5)],
                          open? := true })) = true ∧
      (agOne v fun a => { a with q := [.token (mkTok 1 5)], open? := o }).portFrozen { kind := 2, place := 0, part := 0 } = false ∧
      (agOf (agOne v fun a => { a with q := [.token (mkTok 1 5)], open? := o })).accept.fault
        (agOf (agOne v fun a => { a with q := [.token (mkTok 1 5)], open? := o })).inp (.f 5) = none := by
    decide +kernel
  have k : agMode v = 4 ∧ agDepth v ≠ 0 ∧ tokOf (Item.token (mkTok 1 5)).asToken = .f 5 ∧ (5 : BitVec 32).toNat < agBound v ∧ agP1 v = 0 ∧
      agFan v = 1 := by
    decide +kernel
  obtain ⟨k1, k2, k3, k4, k5, k6⟩ := k
  cases e1
  refine ⟨⟨_, t1, 0, agOf t1, .token (stopTok 0), ⟨works1 _ rfl rfl, rfl, by decide +kernel, by decide +kernel⟩, by decide +kernel,
    rfl, rfl, rfl, rfl, by decide +kernel, by decide +kernel, l1⟩, ?_⟩
  intro o m
  obtain ⟨h1, h2, h3⟩ := h o m
  obtain ⟨T, e, l⟩ := alone_of h1
  cases e
  exact ⟨_, agOne v fun a => { a with q := [.token (mkTok 1 5)], open? := o }, 0, _, .token (mkTok 1 5), 5,
    ⟨works1 _ rfl rfl, rfl, k1, h2⟩, k2, rfl, rfl, rfl, rfl, k3, h3, k4, k5, k6, rfl, l⟩

theorem found_of (r : State × Except ChanErr Chan) (c : Chan) (h : (match r.2 with | .ok x => x == c | _ => false) = true) :
    ∃ u, r = (u, .ok c) := by
  obtain ⟨u, p⟩ := r
  cases p with
  | ok x => exact ⟨u, by rw [show x = c by simpa using h]⟩
  | error => cases h

/-- CHANNEL pops a token. -/
theorem witness_AgBeats_channel :
    ∃ s t p a q u c e k, AgAt s t p a 5 ∧ t.isFrozen 7 p 1 = false ∧ agDepth a.frame = 0 ∧ PassAt t a q [] ∧ a.out = [] ∧ a.out2 = [] ∧
      q.pos = 0 ∧ q.pos < q.granted ∧ s.openChan t a.chan = (u, .ok c) ∧ c.popBad t.handle (some false) = none ∧ c.esize = 1 ∧
      c.next = some e ∧ k = BitVec.ofNat 36 (ofLeBytes e.data) ∧ ofLeBytes e.data < 2 ^ 36 ∧ tokOf k ≠ .bad ∧
      Alone t (.ag p) (t.updAg p fun b => { b with
        out := [.token (canonTok k)]
        passes := { q with pos := if tokOf k = .done ∨ q.total ≤ q.pos + 1 then q.total else q.pos + 1 } :: b.passes.drop 1 }) := by
  let e : Entry := entry [5, 0, 0, 0, 2, 0, 0, 0]
  let t1 : Task := agOne (agWord 5 0 1 2 (agHigh 2 1 0 0)) fun a => { a with passes := [pass2 0] }
  obtain ⟨T1, e1, l1⟩ := alone_of (t := t1) (u := .ag 0)
    (o := some (t1.updAg 0 fun b => { b with
      out := [.token (canonTok (BitVec.ofNat 36 (ofLeBytes e.data)))]
      passes := { pass2 0 with pos := if tokOf (BitVec.ofNat 36 (ofLeBytes e.data)) = .done ∨ 2 ≤ 0 + 1 then 2 else 0 + 1 } ::
        b.passes.drop 1 })) (by decide +kernel)
  cases e1
  obtain ⟨u, eu⟩ := found_of ((with1 (chans [chan 1 0 t1.handle [e]]) t1).openChan t1 (agOf t1).chan) (chan 1 0 t1.handle [e])
    (by decide +kernel)
  exact ⟨with1 (chans [chan 1 0 t1.handle [e]]) t1, t1, 0, agOf t1, pass2 0, _, chan 1 0 t1.handle [e], e, _,
    ⟨works1 _ rfl rfl, rfl, by decide +kernel, by decide +kernel⟩, by decide +kernel,
    by decide +kernel, ⟨rfl, rfl⟩, rfl, rfl, rfl, by decide, eu, by decide +kernel, rfl, rfl, rfl, by decide +kernel, by decide +kernel, l1⟩

/-- A memory unit of 3 accesses in a mode, with a launched pass or an item on its input. -/
def muWord (mode : Nat) : BitVec 240 := BitVec.ofNat 240 (mode + 64 * 2 ^ 23 + 2 * 2 ^ 39)
def muOne (mode : Nat) (f : Cell → Cell) : Task :=
  { tsk [] with
    gos := [{ id := 1, sec := 0, addr := 0, gate := none, launched := true, srcs := [(.mu 0, 3, 2)] }]
    cells := [f (Cell.fresh 0 none (some (muWord mode)) (some oneSlot))] }

/-- A read; a write; an rw access. -/
theorem witness_MuBeats :
    (∃ s t c x v q T, Works s t ∧ t.cell? c = some x ∧ x.mu = some v ∧ muMode v = 1 ∧ x.passes = [q] ∧ t.launched q = true ∧
      x.tail = 0 ∧ q.pos < q.granted ∧ q.pos < muCount v ∧ muLanes v = 16 ∧
      (t.putCell (x.muStep (muTokens x v))).place (t.dests c 8) (muItem (muTokens x v) (s.muRead t x v q.pos)) = some T ∧
      Alone t (.mu c) T) ∧
    (∃ s t c x v r T, Works s t ∧ t.cell? c = some x ∧ x.mu = some v ∧ (t.head (.cell c 9)).map Item.body = some (.record r) ∧
      muMode v = 2 ∧ T = (t.take (.cell c 9)).updCell c (fun y => { y with pos := if x.pos + 1 < muCount v then x.pos + 1 else 0 }) ∧
      Works s t ∧ Alone t (.mu c) T) ∧
    (∃ s t c x v r T, Works s t ∧ t.cell? c = some x ∧ x.mu = some v ∧ (t.head (.cell c 9)).map Item.body = some (.record r) ∧
      muMode v = 3 ∧ ((t.take (.cell c 9)).updCell c fun y =>
        { y with pos := if x.pos + 1 < muCount v then x.pos + 1 else 0 }).place
          (((t.take (.cell c 9)).updCell c fun y => { y with pos := if x.pos + 1 < muCount v then x.pos + 1 else 0 }).dests c 8)
          (muItem (muTokens x v) (s.muRead t x v x.pos)) = some T ∧ Alone t (.mu c) T) ∧
    muLanes (BitVec.ofNat 240 (2 + 3 * 16)) = 1 := by
  let t1 : Task := muOne 1 fun x => { x with passes := [{ go := 1, total := 3, granted := 3, pos := 0, num := 0, lo := 0 }] }
  let t2 : Task := muOne 2 fun x => { x with links := x.links.set 9 [rec1 1 0 5] }
  let t3 : Task := muOne 3 fun x => { x with links := x.links.set 9 [rec1 1 0 5], pos := 2 }
  let go2 (t : Task) : Task := (t.take (.cell 0 9)).updCell 0 fun y =>
    { y with pos := if (cellOf t).pos + 1 < muCount (muWord 2) then (cellOf t).pos + 1 else 0 }
  let go3 (t : Task) : Task := (t.take (.cell 0 9)).updCell 0 fun y =>
    { y with pos := if (cellOf t).pos + 1 < muCount (muWord 3) then (cellOf t).pos + 1 else 0 }
  obtain ⟨T1, e1, l1⟩ := alone_of (t := t1) (u := .mu 0)
    (o := (t1.putCell ((cellOf t1).muStep (muTokens (cellOf t1) (muWord 1)))).place (t1.dests 0 8)
      (muItem (muTokens (cellOf t1) (muWord 1)) ((with1 base t1).muRead t1 (cellOf t1) (muWord 1) 0))) (by decide +kernel)
  obtain ⟨T2, e2, l2⟩ := alone_of (t := t2) (u := .mu 0) (o := some (go2 t2)) (by decide +kernel)
  obtain ⟨T3, e3, l3⟩ := alone_of (t := t3) (u := .mu 0)
    (o := (go3 t3).place ((go3 t3).dests 0 8) (muItem (muTokens (cellOf t3) (muWord 3))
      ((with1 base t3).muRead t3 (cellOf t3) (muWord 3) 2))) (by decide +kernel)
  cases e2
  exact ⟨⟨_, t1, 0, cellOf t1, muWord 1, _, T1, works1 _ rfl rfl, rfl, rfl, by decide +kernel, rfl, by decide +kernel, rfl, by decide,
      by decide +kernel, by decide +kernel, e1, l1⟩,
    ⟨_, t2, 0, cellOf t2, muWord 2, (rec1 1 0 5).asRecord, _, works1 _ rfl rfl, rfl, rfl, by decide +kernel, by decide +kernel, rfl,
      works1 _ rfl rfl, l2⟩,
    ⟨_, t3, 0, cellOf t3, muWord 3, (rec1 1 0 5).asRecord, T3, works1 _ rfl rfl, rfl, rfl, by decide +kernel, by decide +kernel, e3, l3⟩,
    by decide +kernel⟩

/-- A task whose engine reads the north edge, where the switch of cell 0 drives link 0, and its header the south edge. -/
def rowTask (header : Bool) (first : Item) : Task :=
  { engine fun e => { e with arr := [tile1 false], header := header, inq := (List.replicate 5 []).set (if header then 4 else 0) [first] } with
    cells := [Cell.fresh 0 none none (some (BitVec.ofNat 240 (0x11 * 2 ^ 32))),
      { Cell.fresh 0 none none (some (BitVec.ofNat 240 (0x11 * 2 ^ 32))) with idx := 8 * ((tsk []).crec.rows - 1) + 1 }] }

def engineOf (t : Task) : Engine := t.engines.headD (Engine.fresh 0)

/-- An engine takes a row, and its header. -/
theorem witness_EngineSteps_row :
    (∃ s t e ds vals t1 y, Works s t ∧ t.engine? 0 = some e ∧ t.portFrozen e.port = false ∧ e.tile? ≠ none ∧ e.header = false ∧
      e.taken < 64 ∧ ds = (List.range 4).filter (t.driven 0 e.side ·) ∧ ds = [0] ∧ (∀ p ∈ ds, t.head (.eng 0 p) ≠ none) ∧
      vals = ((List.range 4).flatMap fun p => (List.range 16).map fun i =>
        match (if p ∈ ds then (t.head (.eng 0 p)).map Item.asRecord else none) with
        | some r => if r.m.getLsbD i = true ∧ r.a.getLsbD i = true then some (laneValue e.code (r.v.getD i 0)) else none
        | none => none) ∧
      t1 = ds.foldl (fun t p => t.take (.eng 0 p)) t ∧ t1.engine? 0 = some y ∧
      Alone t (.eng 0) (t1.putEngine (if 64 * y.active.q ≤ (y.beats ++ vals).length then
        { y with beats := [], rows := y.rows ++ [y.beats ++ vals] } else { y with beats := y.beats ++ vals }))) ∧
    ∃ s t e x y, Works s t ∧ t.engine? 0 = some e ∧ t.portFrozen e.port = false ∧ e.tile? ≠ none ∧ e.header = true ∧
      e.headerTaken = false ∧ t.head (.eng 0 4) = some x ∧ tokOf x.asToken = .e ∧ (t.take (.eng 0 4)).engine? 0 = some y ∧
      Alone t (.eng 0) ((t.take (.eng 0 4)).putEngine { y with headerTaken := true }) := by
  let t1 : Task := rowTask false (rec1 1 0 5)
  let t2 : Task := rowTask true (.token absentTok)
  let vals : List (Option (BitVec 16)) := (List.range 4).flatMap fun p => (List.range 16).map fun i =>
    match (if p ∈ [0] then (t1.head (.eng 0 p)).map Item.asRecord else none) with
    | some r => if r.m.getLsbD i = true ∧ r.a.getLsbD i = true then some (laneValue (engineOf t1).code (r.v.getD i 0)) else none
    | none => none
  let y : Engine := engineOf (t1.take (.eng 0 0))
  obtain ⟨T1, e1, l1⟩ := alone_of (t := t1) (u := .eng 0)
    (o := some ((t1.take (.eng 0 0)).putEngine (if 64 * y.active.q ≤ (y.beats ++ vals).length then
        { y with beats := [], rows := y.rows ++ [y.beats ++ vals] } else { y with beats := y.beats ++ vals }))) (by decide +kernel)
  obtain ⟨T2, e2, l2⟩ := alone_of (t := t2) (u := .eng 0)
    (o := some ((t2.take (.eng 0 4)).putEngine { engineOf (t2.take (.eng 0 4)) with headerTaken := true })) (by decide +kernel)
  cases e1
  cases e2
  exact ⟨⟨_, t1, engineOf t1, [0], vals, t1.take (.eng 0 0), y, works1 _ rfl rfl, rfl, rfl, by decide +kernel, rfl, by decide +kernel,
      by decide +kernel, rfl, by decide +kernel, rfl, rfl, rfl, l1⟩,
    ⟨_, t2, engineOf t2, .token absentTok, _, works1 _ rfl rfl, rfl, rfl, by decide +kernel, rfl, rfl, rfl, by decide +kernel, rfl, l2⟩⟩
/-! ### What meets the hypotheses: queues, placement, links -/

/-- A queue table of two queues in physical memory at 0x200000: rings of 16 entries on die 0, `held` entries in the first. -/
def queues (held : Nat) (die0 : Die → Die) : State :=
  { base.updDie 0 die0 with
    qtBase := 0x200000, qtCount := 2
    mem := Memory.write (Memory.write [] 0x200000 (natBytes 8 0x300000 ++ natBytes 8 (4 + 32) ++ natBytes 8 held))
      0x200040 (natBytes 8 0x310000 ++ natBytes 8 (4 + 32)) }

/-- A slot that queue 0 holds since the start. -/
def mapped (final : Bool) (x : Die) : Die :=
  { x with slots := [{ idx := 63, queue := 0, since := 0, final := final, renotified := false }] }

/-- The last queue of the table, neither mapped nor pending, mapped, and pending; a slot free, the slice just over, a queue waiting and
none. -/
theorem witness_QueueSteps :
    (∃ (s : State) (x : Die), s.die? 0 = some x ∧ s.stage = .c ∧ (1 : BitVec 32).toNat + 1 = s.qtCount.toNat ∧ (s.qte 1).die = 0 ∧
      (∀ y ∈ x.slots, y.queue ≠ 1) ∧ ∀ p ∈ x.pending, p.1 ≠ 1) ∧
    (∃ (s : State) (x : Die), s.die? 0 = some x ∧ s.stage = .c ∧ (0 : BitVec 32).toNat < s.qtCount.toNat ∧ (s.qte 0).die = 0 ∧
      ∃ y ∈ x.slots, y.queue = 0) ∧
    (∃ (s : State) (x : Die), s.die? 0 = some x ∧ s.stage = .c ∧ (1 : BitVec 32).toNat < s.qtCount.toNat ∧ (s.qte 1).die = 0 ∧
      (∀ y ∈ x.slots, y.queue ≠ 1) ∧ ∃ p ∈ x.pending, p.1 = 1) ∧
    (∃ (s : State) (x : Die), s.die? 0 = some x ∧ s.stage = .c ∧ s.susp = .running ∧ (∀ y ∈ x.slots, y.idx ≠ 0) ∧ NextQueue s 0 x (1, 0)) ∧
    (∃ (s : State) (x : Die) (y : QSlot), s.die? 0 = some x ∧ s.stage = .c ∧ s.susp = .running ∧ x.slots.filter (·.idx = 63) = [y] ∧
      y.since + x.sliceLen.toNat = s.now ∧ ∀ p ∈ x.pending, s.servable 0 p.1 = false) ∧
    ∃ (s : State) (x : Die) (y : QSlot), s.die? 0 = some x ∧ s.stage = .c ∧ s.susp = .running ∧ x.slots.filter (·.idx = 63) = [y] ∧
      y.since + x.sliceLen.toNat = s.now ∧ NextQueue s 0 x (1, 0) ∧ s.headPrio y.queue = s.queueLevel (1, 0) :=
  ⟨⟨queues 0 id, _, rfl, rfl, by decide, by decide +kernel, fun y h => (nomatch h), fun p h => (nomatch h)⟩,
    ⟨queues 0 (mapped false), _, rfl, rfl, by decide, by decide +kernel, _, List.mem_singleton.mpr rfl, rfl⟩,
    ⟨queues 0 fun x => { x with pending := [(1, 0)] }, _, rfl, rfl, by decide, by decide +kernel, fun y h => (nomatch h),
      (1, 0), List.mem_singleton.mpr rfl, rfl⟩,
    ⟨queues 0 fun x => { x with pending := [(1, 0)] }, _, rfl, rfl, rfl, fun y h => (nomatch h),
      [], [], rfl, by decide +kernel, fun q h => (nomatch h), fun q h => (nomatch h)⟩,
    ⟨{ queues 0 (mapped false) with now := 200 }, _, _, rfl, rfl, rfl, rfl, rfl, fun p h => (nomatch h)⟩,
    ⟨{ queues 0 (fun x => { mapped false x with pending := [(1, 0)] }) with now := 200 }, _, _, rfl, rfl, rfl, rfl, rfl,
      ⟨[], [], rfl, by decide +kernel, fun q h => (nomatch h), fun q h => (nomatch h)⟩, by decide +kernel⟩⟩

/-- An instance of an arm node that is held for the task of node 1. -/
def armed : State :=
  { base with
    tasks := [tsk []]
    instances := [{ id := 9, queue := 0, die := 0, frame := 0, tsbase := 0, prio := 0, cls := 0, ctx := 0, completion := 0
                    nodes := [{ succ := [], count := 0, tmpl := 0, tsOff := 0, target := some (1, 3, 5), life := .held
                                everReady := true, targetSeen := true, paid := false },
                              { succ := [], count := 0, tmpl := 0, tsOff := 0, target := none, life := .running me
                                everReady := true, targetSeen := false, paid := false }]
                    retired := 0 }] }

/-- A full ring, one entry more, an empty ring, its final read; a queue that is not served; a launch entry in order; a held arm. -/
theorem witness_LaunchSteps :
    (∃ (s : State) (x : Die) (y : QSlot), s.die? 0 = some x ∧ s.stage = .c ∧ s.susp = .running ∧ x.slots.find? (·.idx = 63) = some y ∧
      s.servable 0 y.queue = true ∧ y.final = false ∧ (s.qte y.queue).held = 2 ^ (s.qte y.queue).log2 ∧ s.inFlight y.queue < 4) ∧
    (∃ (s : State) (x : Die) (y : QSlot), s.die? 0 = some x ∧ s.stage = .c ∧ s.susp = .running ∧ x.slots.find? (·.idx = 63) = some y ∧
      s.servable 0 y.queue = true ∧ y.final = false ∧ (s.qte y.queue).held = 2 ^ (s.qte y.queue).log2 + 1) ∧
    (∃ (s : State) (x : Die) (y : QSlot), s.die? 0 = some x ∧ s.stage = .c ∧ s.susp = .running ∧ x.slots.find? (·.idx = 63) = some y ∧
      s.servable 0 y.queue = true ∧ y.final = false ∧ (s.qte y.queue).held = 0 ∧ s.inFlight y.queue = 0) ∧
    (∃ (s : State) (x : Die) (y : QSlot), s.die? 0 = some x ∧ s.stage = .c ∧ s.susp = .running ∧ x.slots.find? (·.idx = 63) = some y ∧
      s.servable 0 y.queue = true ∧ y.final = true ∧ s.inFlight y.queue = 0) ∧
    (∃ (s : State) (x : Die) (y : QSlot), s.die? 0 = some x ∧ s.stage = .c ∧ s.susp = .running ∧ x.slots.find? (·.idx = 63) = some y ∧
      s.servable 0 y.queue = false ∧ y.final = true) ∧
    (∃ (s : State) (x : Die) (y : QSlot), s.die? 0 = some x ∧ s.stage = .c ∧ s.susp = .running ∧ x.slots.find? (·.idx = 63) = some y ∧
      s.servable 0 y.queue = false ∧ y.final = false ∧ y.renotified = true) ∧
    (∃ (s : State) (l : LaunchEntry) (u : State) (ns : List RawNode), l.completion.toNat % 8 = 0 ∧ s.entryBad l 0 = none ∧
      State.rawNodes 0 0 l.graph.toNat l.count s = (u, .ok ns) ∧ graphOk ns = true) ∧
    ∃ (s : State) (i : Instance) (n : Node) (t : Task), s.instances.find? (·.id = 9) = some i ∧ i.nodes[0]? = some n ∧
      n.target = some (1, 3, 5) ∧ n.life = .held ∧ (i.nodes[1]?).map Node.life = some (.running t.handle) ∧
      s.task? t.handle = some t ∧ t.paid = false :=
  ⟨⟨queues 16 (mapped false), _, _, rfl, rfl, rfl, rfl, by decide +kernel, rfl, by decide +kernel, by decide +kernel⟩,
    ⟨queues 17 (mapped false), _, _, rfl, rfl, rfl, rfl, by decide +kernel, rfl, by decide +kernel⟩,
    ⟨queues 0 (mapped false), _, _, rfl, rfl, rfl, rfl, by decide +kernel, rfl, by decide +kernel, by decide +kernel⟩,
    ⟨queues 0 (mapped true), _, _, rfl, rfl, rfl, rfl, by decide +kernel, rfl, by decide +kernel⟩,
    ⟨base.updDie 0 (mapped true), _, _, rfl, rfl, rfl, rfl, by decide +kernel, rfl⟩,
    ⟨base.updDie 0 fun x => { x with slots := [{ idx := 63, queue := 0, since := 0, final := false, renotified := true }] }, _, _, rfl,
      rfl, rfl, rfl, by decide +kernel, rfl, rfl⟩,
    ⟨{ base with mem := [(0x1000, 1)] },
      { graph := 0x1000, frame := 0, count := 1, prio := 43, cls := 0, ctx := 0, tsbase := 0, completion := 8 }, _, _,
      by decide, by decide +kernel, rfl, by decide +kernel⟩,
    ⟨armed, _, _, tsk [], rfl, rfl, rfl, rfl, rfl, task_found base (tsk []), rfl⟩⟩

/-- A record of 4 packets in order, and the same waiting on die 0. -/
def record : Record := { dw0 := 0, dw1 := 0, dw2 := 0, dw3 := 0, dw4 := 4, dw5 := 0, dw6 := 0, dw7 := 0 }

def qrec (r : Record) : QRec :=
  { id := 5, crec := r, rerun := 0, origin := none, since := 0, gained := 0, fundSince := 0, fitSince := 0, hint := none,
    irrevocable := false, front := false, image := none }

def waiting (r : Record) (budget : Nat) : State :=
  base.updDie 0 fun x => { x with taskQueue := [qrec r], budget := budget }

/-- A task that has just been allotted, whose record names an image of two frames in its Snapshot. -/
def imaged : Task :=
  { tsk [] with ready := false, framed := false, crec := { (tsk []).crec with dw6 := 0x1000 }, snap := Memory.write [] 0x101F [0x20] }

/-- A record whose funds are just there; one that declares nothing; one out of order; admission with and without a frame, and
with an image; the edges of the registers that a frame fills. -/
theorem witness_PlacementSteps :
    (∃ (s : State) (x : Die) (c : Cand) (ms : List Member), s.die? 0 = some x ∧ s.stage = .c ∧ s.susp = .running ∧ s.verdict 0 c = some (.fresh ms) ∧
      FirstWith (fun c => NotHeldBack x c ∧ s.verdict 0 c ≠ none) x.order c ∧ c.q.crec.grains = (s.die 0).budget) ∧
    (∃ (s : State) (c : Cand), s.verdict 0 c = some .short) ∧
    (∃ (s : State) (c : Cand), s.verdict 0 c = some (.bad .misalign 1)) ∧
    (∃ (s : State) (c : Cand) (m : Member) (ms : List Member), s.imageOf c.q = none ∧ s.recordBad c.q.crec = none ∧
      c.q.crec.packets ≠ 0 ∧ c.q.irrevocable = false ∧ c.q.crec.grains ≤ (s.die 0).budget ∧ c.q.origin = none ∧
      s.gangFor 0 c = some (m :: ms)) ∧
    (∃ (s : State) (t : Task), s.task? t.handle = some t ∧ t.ready = false ∧ t.gate = .running ∧ t.threadFrozen = false ∧
      t.framed = true) ∧
    (∃ (s : State) (t : Task), s.task? t.handle = some t ∧ t.ready = false ∧ t.gate = .running ∧ t.threadFrozen = false ∧
      t.framed = false ∧ t.crec.dw1 = 0 ∧ t.crec.dw6 = 0) ∧
    (∃ (s : State) (t : Task) (u : State) (t' : Task) (l : List Byte), s.task? t.handle = some t ∧ t.ready = false ∧
      t.gate = .running ∧ t.threadFrozen = false ∧ t.framed = false ∧ t.crec.dw1 ≠ 0 ∧
      (s.zeroForeign t).viewRead t 0 t.crec.dw1.toNat 64 = (u, .ok (t', l))) ∧
    (∃ (s : State) (t : Task) (q : State × Task) (n : Nat) (p : State × Task) (u : State) (t' : Task) (fs : List (BitVec 256)),
      s.task? t.handle = some t ∧ t.ready = false ∧ t.gate = .running ∧ t.threadFrozen = false ∧ t.framed = false ∧ t.crec.dw1 = 0 ∧ t.crec.dw6 ≠ 0 ∧
      t.paid = false ∧ t.wait = none ∧ t.loading = [] ∧ t.loadGrant = 0 ∧ q = (s.zeroForeign t).debit { t with framed := true } 8 ∧
      n = q.1.framesLeft { q.2 with paid := true } t.crec.dw6.toNat [] ∧ 0 < n ∧ 8 + n ≤ t.account ∧
      p = q.1.debit { q.2 with paid := true } n ∧
      State.scanImage t.crec.dw6.toNat n p.1 { p.2 with loadGrant := n, gate := .running, cmd := none } [] = (u, t', fs, .whole)) ∧
    (List.replicate 64 (0 : Byte)).length = 64 ∧ (3 : Reg).toNat < 4 ∧ 12 ≤ (12 : Reg).toNat :=
  ⟨⟨waiting record 64, _, { q := qrec record, deque := none }, [{ cluster := 0, slot := 0, row := 0 }], rfl, rfl, rfl, by decide +kernel,
      ⟨[], [], by decide +kernel, ⟨by constructor <;> decide +kernel, by decide +kernel⟩, fun b h => (nomatch h)⟩, by decide +kernel⟩,
    ⟨waiting { record with dw4 := 0 } 0, { q := qrec { record with dw4 := 0 }, deque := none }, by decide +kernel⟩,
    ⟨waiting { record with dw0 := 2 } 0, { q := qrec { record with dw0 := 2 }, deque := none }, by decide +kernel⟩,
    ⟨waiting record 64, { q := qrec record, deque := none }, { cluster := 0, slot := 0, row := 0 }, [], by decide +kernel,
      by decide +kernel, by decide, rfl, by decide +kernel, rfl, by decide +kernel⟩,
    ⟨with1 base { tsk [] with ready := false, framed := true }, { tsk [] with ready := false, framed := true }, task_found _ _, rfl,
      rfl, rfl, rfl⟩,
    ⟨with1 base { tsk [] with ready := false, framed := false }, { tsk [] with ready := false, framed := false }, task_found _ _, rfl,
      rfl, rfl, rfl, rfl, rfl⟩,
    ⟨with1 base { tsk [] with ready := false, framed := false, crec := { (tsk []).crec with dw1 := 0x1000 } },
      { tsk [] with ready := false, framed := false, crec := { (tsk []).crec with dw1 := 0x1000 } }, _, _, _, task_found _ _, rfl, rfl,
      rfl, rfl, by decide, rfl⟩,
    ⟨with1 base imaged, imaged, _, _, _, _, _, _, task_found _ _, rfl, rfl, rfl, rfl, rfl, by decide, rfl, rfl, rfl, rfl, rfl, rfl,
      by decide +kernel, by decide +kernel, rfl, rfl⟩, rfl, by decide, by decide⟩

/-- A record unfunded for exactly 1 ms; one that asks for more clusters than the die has; a cluster without work. -/
theorem witness_WaitingSteps :
    (∃ (s : State) (x : Die) (c : Cand), s.die? 0 = some x ∧ c ∈ x.heads ∧ c.q.id ∉ x.fundStops ∧ s.wantsFunds 0 c.q = true ∧
      c.q.fundSince + 1000 = s.now) ∧
    (∃ (s : State) (x : Die) (c : Cand), s.die? 0 = some x ∧ x.order.head? = some c ∧ s.wantsRoom 0 c = true ∧
      c.q.fitSince + 1000 = s.now ∧ c.q.id ∉ x.placeStops) ∧
    ∃ (s : State) (x : Die), s.die? 0 = some x ∧ s.stage = .c ∧ s.susp = .running ∧ x.has 103 = true ∧ s.freeTaskSlot 0 103 ≠ none ∧
      x.asking 103 = false ∧ s.hasWork 0 103 = false ∧
      FirstWith (fun v => (assocD x.mail v []).length < 4) (victims x 103) 0 := by
  refine ⟨⟨{ waiting record 63 with now := 1000 }, _, { q := qrec record, deque := none }, rfl, by decide +kernel, by decide,
      by decide +kernel, by decide⟩,
    ⟨{ (waiting record 64).updDie 0 (fun x => { x with enabled := 0 }) with now := 1000 }, _, { q := qrec record, deque := none }, rfl,
      by decide +kernel, by decide +kernel, by decide, by decide⟩,
    ⟨base, Die.reset 0, rfl, rfl, rfl, by decide +kernel, by decide +kernel, by decide +kernel, by decide +kernel,
      [], (victims (Die.reset 0) 103).drop 1, by decide +kernel, by decide +kernel, fun b h => (nomatch h)⟩⟩

/-- A channel that is bound outbound, or inbound. -/
def bound (rdir : Bool) (es : List Entry) : Chan := { chan 0 0 0 es with remote := true, rdir := rdir, port := 2 }

/-- An entry to forward, with credit and with none; one that is acknowledged; the last room of an inbound channel; an unbind from the peer
and one that is acknowledged; a handshake for a side that is free, and for one that a task holds. -/
theorem witness_ChannelLinks :
    (∃ (s : State) (c : Chan) (l : List Entry) (e : Entry) (r : List Entry), s.chan? 0 1 = some c ∧ c.state = .opened ∧ c.remote = true ∧ c.rdir = false ∧ c.frozen = false ∧
      c.entries = l ++ e :: r ∧ l.length = 1 ∧ (∀ x ∈ l, x.sent = true) ∧ e.sent = false ∧ c.credit = 0) ∧
    (∃ (s : State) (c : Chan) (l : List Entry) (e : Entry) (r : List Entry), s.chan? 0 1 = some c ∧ c.state = .opened ∧ c.remote = true ∧ c.rdir = false ∧ c.frozen = false ∧
      c.entries = l ++ e :: r ∧ l.length = 1 ∧ (∀ x ∈ l, x.sent = true) ∧ e.sent = false ∧ c.credit = 1) ∧
    (∃ (s : State) (c : Chan) (e : Entry) (r : List Entry), s.chan? 0 1 = some c ∧ c.remote = true ∧ c.rdir = false ∧ c.entries = e :: r ∧ e.sent = true ∧
      c.closing = false) ∧
    (∃ (s : State) (c : Chan), s.chan? 0 1 = some c ∧ c.remote = true ∧ c.rdir = true ∧ c.state = .opened ∧ c.frozen = false ∧
      c.capacity - (c.entries.length + c.granted) ≠ 0) ∧
    (∀ n ∈ [0, 1], ∃ (s : State) (c : Chan), s.chan? 0 1 = some c ∧ c.state = .opened ∧ c.remote = true ∧ c.rdir = true ∧ c.frozen = false ∧
      ([1, 2, 3, 4] : List Byte).length = c.size ∧ c.granted = n) ∧
    (∃ (s : State) (c : Chan), s.chan? 0 1 = some c ∧ c.remote = true) ∧
    (∃ (s : State) (c u : Chan), s.chan? 0 1 = some c ∧ c.unbinding = true ∧
      u = { c with remote := false, credit := 0, granted := 0, entries := c.entries.map fun e => { e with sent := false } } ∧
      s.canClose { u with unbinding := false } = true) ∧
    (∃ (s : State) (c u : Chan), s.chan? 0 1 = some c ∧ c.unbinding = true ∧
      u = { c with remote := false, credit := 0, granted := 0, entries := c.entries.map fun e => { e with sent := false } } ∧
      s.canClose { u with unbinding := false } = false) ∧
    (∃ (s : State) (c : Chan), s.chan? 0 1 = some c ∧ c.unbinding = false) ∧
    (∃ (s : State) (c : Chan), s.chan? 0 1 = some c ∧ c.state = .opened ∧ c.remote = false ∧ c.unbinding = false ∧ sideOf c (!true) = 0) ∧
    ∃ (s : State) (c : Chan), s.chan? 0 1 = some c ∧ c.state = .opened ∧ c.remote = false ∧ c.unbinding = false ∧ sideOf c (!true) ≠ 0 :=
  ⟨⟨chans [bound false [{ entry [] with sent := true }, entry []]], _, [{ entry [] with sent := true }], entry [], [], rfl, rfl, rfl,
      rfl, rfl, rfl, rfl, by simp, rfl, rfl⟩,
    ⟨chans [{ bound false [{ entry [] with sent := true }, entry []] with credit := 1 }], _, [{ entry [] with sent := true }], entry [], [],
      rfl, rfl, rfl, rfl, rfl, rfl, rfl, by simp, rfl, rfl⟩,
    ⟨chans [bound false [{ entry [] with sent := true }, entry []]], _, _, _, rfl, rfl, rfl, rfl, rfl, rfl⟩,
    ⟨chans [bound true (List.replicate 3 (entry [1, 2, 3, 4]))], _, rfl, rfl, rfl, rfl, rfl, by decide⟩,
    fun n _ => ⟨chans [{ bound true (List.replicate 3 (entry [1, 2, 3, 4])) with granted := n }], _, rfl, rfl, rfl, rfl, rfl, rfl, rfl⟩,
    ⟨chans [{ bound false [] with unbinding := true }], _, rfl, rfl⟩,
    ⟨chans [{ bound false [] with unbinding := true, closing := true }], _, _, rfl, rfl, rfl, by decide +kernel⟩,
    ⟨chans [{ bound false [entry []] with unbinding := true }], _, _, rfl, rfl, rfl, by decide +kernel⟩,
    ⟨chans [bound false []], _, rfl, rfl⟩,
    ⟨chans [chan 0 0 0 []], _, rfl, rfl, rfl, rfl, rfl⟩, ⟨chans [chan 0 me 0 []], _, rfl, rfl, rfl, rfl, by decide⟩⟩

/-! ### What meets the hypotheses: faults, pre-emption, suspension, rails, caches -/

/-- A task that fills the Cupboard of its lead cluster and waits for a line more. -/
def cramped : Task := { tsk [] with spaceWait := [(threadPort, 0, 524416)], share := [524288] }

/-- The same, the oldest timed task of its context. -/
def crampedTimed : Task := { cramped with crec := { cramped.crec with dw3 := 5 } }

theorem quiet_dies : ∀ (k : Nat) (y : Die), k ≠ 0 → base.die? k = some y → y.samples = [] := by
  intro k y _ h
  have m : y ∈ base.dies := List.mem_of_getElem? h
  have all : ∀ z ∈ base.dies, z.samples = [] := by decide +kernel
  exact all y m

/-- The interval just reached, without a map and with one; a gate in SHORT; a space deadlock; a free lock with a waiter at the start of its
region and one at `done`; a detector that finds nothing blocked. -/
theorem witness_DeadlockSteps :
    (∃ (s : State) (t : Task), s.task? t.handle = some t ∧ 0 < (s.die t.die).hangIvl.toNat ∧
      (s.die t.die).hangIvl.toNat = t.hangCount ∧ s.preempting t = false ∧ t.gate ≠ .short ∧ (s.die t.die).hmapBase = 0) ∧
    (∃ (s : State) (t : Task), s.task? t.handle = some t ∧ 0 < (s.die t.die).hangIvl.toNat ∧
      (s.die t.die).hangIvl.toNat = t.hangCount ∧ s.preempting t = false ∧ t.gate = .short ∧ EndsHang t) ∧
    (∃ (s : State) (t : Task), s.task? t.handle = some t ∧ 0 < (s.die t.die).hangIvl.toNat ∧
      (s.die t.die).hangIvl.toNat = t.hangCount ∧ s.preempting t = true) ∧
    (∃ (s : State) (t : Task) (c : Cmd) (k : Nat), s.task? t.handle = some t ∧ (s.die t.die).hangIvl.toNat ≤ t.hangCount ∧
      s.preempting t = false ∧ t.gate = .short ∧ t.cmd = some c ∧ takeUnits c.runs c.done t.account = (0, k)) ∧
    (∃ (s : State) (t : Task), s.task? t.handle = some t ∧ 0 < (s.die t.die).hangIvl.toNat ∧
      (s.die t.die).hangIvl.toNat = t.hangCount ∧ s.preempting t = false ∧ t.gate ≠ .short ∧ (s.die t.die).hmapBase ≠ 0) ∧
    (∃ (s : State) (x : Die) (t : Task), s.die? 0 = some x ∧ s.spaceDeadlock 0 0 = true ∧
      youngest ((s.spaceHolders 0 0).filter fun t => !s.isOldest t) = some t) ∧
    (∃ (s : State) (x : Die) (t : Task), s.die? 0 = some x ∧ s.spaceDeadlock 0 0 = true ∧
      (∀ u ∈ s.spaceHolders 0 0, s.isOldest u = true) ∧ youngest (s.spaceHolders 0 0) = some t) ∧
    (∃ (s : State) (x : Die), s.die? 0 = some x ∧ s.spaceDeadlock 0 0 = false ∧ s.spaceHolders 0 0 ≠ []) ∧
    (∃ (s : State) (l : Lock) (t : Task), s.lock? 32 = some l ∧ l.holder = none ∧ Oldest (l.waiters.filterMap s.task?) t ∧ t.wait = some (.arBegin 1)) ∧
    (∃ (s : State) (l : Lock) (t : Task), s.lock? 32 = some l ∧ l.holder = none ∧ Oldest (l.waiters.filterMap s.task?) t ∧ t.wait = some .done ∧
      t.gate = .running) ∧
    ∃ (s : State) (x : Die), s.die? 0 = some x ∧ s.sampleEnds 0 = [] ∧ (∀ k y, k ≠ 0 → s.die? k = some y → y.samples = []) ∧
      s.dies.length = 4 :=
  ⟨⟨with1 base { tsk [] with hangCount := 100000 }, { tsk [] with hangCount := 100000 }, task_found _ _, by decide +kernel,
      by decide +kernel, by decide +kernel, by decide, by decide +kernel⟩,
    ⟨with1 base { tsk [] with hangCount := 100000, gate := .short, cmd := some command, account := 3 },
      { tsk [] with hangCount := 100000, gate := .short, cmd := some command, account := 3 }, task_found _ _,
      by decide +kernel, by decide +kernel, by decide +kernel, rfl, .inr ⟨command, 1, 2, rfl, rfl, by decide⟩⟩,
    ⟨{ with1 base { tsk [] with hangCount := 100000 } with susp := .suspending }, { tsk [] with hangCount := 100000 }, rfl,
      by decide +kernel, by decide +kernel, by decide +kernel⟩,
    ⟨with1 base { tsk [] with hangCount := 100000, gate := .short, cmd := some command, account := 1 },
      { tsk [] with hangCount := 100000, gate := .short, cmd := some command, account := 1 }, _, _, task_found _ _,
      by decide +kernel, by decide +kernel, rfl, rfl, rfl⟩,
    ⟨with1 (base.updDie 0 fun x => { x with hmapBase := 0x10000 }) { tsk [] with hangCount := 100000 },
      { tsk [] with hangCount := 100000 }, task_found _ _, by decide +kernel, by decide +kernel, by decide +kernel, by decide,
      by decide +kernel⟩,
    ⟨with1 base cramped, Die.reset 0, cramped, rfl, by decide +kernel, by decide +kernel⟩,
    ⟨with1 base crampedTimed, Die.reset 0, crampedTimed, rfl, by decide +kernel, by decide +kernel, by decide +kernel⟩,
    ⟨with1 base { cramped with share := [128], spaceWait := [(threadPort, 0, 256)] }, Die.reset 0, rfl, by decide +kernel, by decide +kernel⟩,
    ⟨with1 { base with locks := [{ lockHeld 0 with holder := none, waiters := [me] }] } (waits (.arBegin 1)), _, waits (.arBegin 1), rfl,
      rfl, ⟨[], [], rfl, fun u h => (nomatch h), fun u h => (nomatch h)⟩, rfl⟩,
    ⟨with1 { base with locks := [{ lockHeld 0 with holder := none, waiters := [me] }] } (waits .done), _, waits .done, rfl,
      rfl, ⟨[], [], rfl, fun u h => (nomatch h), fun u h => (nomatch h)⟩, rfl, rfl⟩,
    ⟨base, _, rfl, rfl, quiet_dies, rfl⟩⟩

/-- A port that is frozen with record 3 of the ring. -/
def port : Frozen := { kind := 1, place := 0, part := 0, va := 0x5000, counter := 0, access := 0, addr := 0x40, record := some 3 }

def frozen : State :=
  (with1 base { tsk [] with frozen := [port] }).updDie 0 fun x =>
    { x with faults := [{ index := 3, handle := me, kind := 1, place := 0, state := 0 }] }

/-- A record whose pre-emption mode is Save. -/
def saver : Record := { (tsk []).crec with dw4 := 100 + 0x40000000000000 }

/-- A package with a task and PRE_HANDLE on it, and bytes in the save pool. -/
def preempting (t : Task) (pool : BitVec 40) : State := (with1 base t).updDie 0 fun x => { x with preHandle := t.handle, saveSize := pool }

/-- A pool of 1 GiB has room for any image. -/
theorem pool_takes (t : Task) (h : t.irrevocable = false) (d : t.die = 0) : (preempting t (2 ^ 30)).cannotSave t = false := by
  have l : ((preempting t (2 ^ 30)).imageOfTask t).length ≤ 2 ^ 30 := List.length_take_le ..
  have n : (((preempting t (2 ^ 30)).die 0).saveSize).toNat = 2 ^ 30 := rfl
  have e : (preempting t (2 ^ 30)).saved = [] := rfl
  simp only [State.cannotSave, h, d, State.poolRoom, e, n, List.filter_nil, List.all_nil, Bool.and_true, List.find?_cons,
    Nat.zero_add, l, decide_true, Option.isNone_some, Bool.or_self]

/-- A pending record whose port is frozen; an error at a region; a task of each mode, saved at once, saved as a Discard, and one that
waits for its gathers. -/
theorem witness_InterventionSteps :
    (∃ (s : State) (x : Die) (r : FaultRec) (t : Task) (f : Frozen), s.die? 0 = some x ∧ x.faults.find? (fun r => r.index = 3 ∧ r.state = 0) = some r ∧
      s.task? r.handle = some t ∧ t.frozen.find? (fun f => f.record = some 3) = some f) ∧
    (∃ (s : State) (x : Die) (t : Task), s.die? 0 = some x ∧ s.task? t.handle = some t) ∧
    (∃ (s : State) (x : Die) (t : Task), MayPreempt s 0 x t ∧ t.crec.pmode ≠ 1) ∧
    (∃ (s : State) (x : Die) (t : Task), MayPreempt s 0 x t ∧ t.crec.pmode = 1 ∧ ¬ Arrived s t) ∧
    (∃ (s : State) (x : Die) (t : Task), MayPreempt s 0 x t ∧ t.crec.pmode = 1 ∧ Arrived s t ∧ s.cannotSave t = false) ∧
    ∃ (s : State) (x : Die) (t : Task), MayPreempt s 0 x t ∧ t.crec.pmode = 1 ∧ Arrived s t ∧ s.cannotSave t = true :=
  ⟨⟨frozen, _, _, _, _, rfl, rfl, rfl, rfl⟩, ⟨with1 base (tsk []), _, tsk [], rfl, task_found _ _⟩,
    ⟨preempting (tsk []) 0, _, tsk [], ⟨rfl, rfl, rfl, task_found base _, rfl, rfl⟩, by decide⟩,
    ⟨preempting { gatherTask with crec := saver } 0, _, { gatherTask with crec := saver },
      ⟨rfl, rfl, rfl, task_found base _, rfl, rfl⟩, by decide,
      fun a => a.2.1 { Ag.fresh 0 2 with gathers := [(0x1000, none)] } (List.mem_singleton.mpr rfl) (by decide) rfl (0x1000, none)
        (List.mem_singleton.mpr rfl) rfl⟩,
    ⟨preempting { copyTask 32 with crec := saver } (2 ^ 30), _, { copyTask 32 with crec := saver },
      ⟨rfl, rfl, rfl, task_found base _, rfl, rfl⟩, by decide,
      ⟨rfl, fun a h => (nomatch h), .inr ⟨fun e h => by cases List.mem_singleton.mp h; exact .inl rfl,
        fun c h => by cases List.mem_singleton.mp h; decide⟩⟩, pool_takes _ rfl rfl⟩,
    ⟨preempting { tsk [] with crec := saver, irrevocable := true } 0, _, { tsk [] with crec := saver, irrevocable := true },
      ⟨rfl, rfl, rfl, task_found base _, rfl, rfl⟩, by decide,
      ⟨rfl, fun a h => (nomatch h), .inr ⟨fun e h => by cases List.mem_singleton.mp h; exact .inl rfl, fun c h => (nomatch h)⟩⟩,
      rfl⟩⟩

/-- A Wardrobe's descriptor. -/
def chest : Descriptor :=
  { n := 7, dies := State.reset.dies, saved := [], instances := [], channels := [], slotWays := [], locks := [], generations := []
    published := [] }

/-- A package of 4 KiB of HBM4 and as much CXL memory, in which SAFEBASE lies. -/
def chested : State :=
  { base with
    map := [{ base := 0, size := 4096, die := 0, kind := .hbm }, { base := 0x10000, size := 0x10000, die := 0, kind := .cxl }]
    safeBase := 0x10000, mem := [(5, 9)] }

theorem chest_places : ∀ o, chested.safeSource o = some 5 ↔ o = 5 := by
  intro o
  have e : tierPlaces 0 chested.map = [(0, { base := 0, size := 4096, die := 0, kind := .hbm })] := rfl
  unfold State.safeSource
  rw [e]
  by_cases h : o < 4096
  · simp [List.find?, h]
  · simp [List.find?, h]
    omega

/-- The same with CXL memory that holds any Wardrobe of 4 KiB. -/
def roomy : State :=
  { chested with
    map := [{ base := 0, size := 4096, die := 0, kind := .hbm }, { base := 0x10000, size := 0x1000000, die := 0, kind := .cxl }] }

/-- A package in which the bytes of a descriptor stand behind the memory of a Wardrobe at SAFEBASE. -/
def standing : State :=
  { roomy with
    hcw := [], wardrobe := [(0x10000, chest)]
    mem := Memory.write [] (0x10000 + 4096) ((Config.descriptorBytes chest).take (2 ^ 22)) }

theorem stands_at (s : State) (w : Descriptor) (h1 : s.hcw = []) (h2 : s.wardrobe = [(s.safeBase.toNat, w)])
    (h3 : s.mem = Memory.write [] (s.safeBase.toNat + s.tierSize) ((Config.descriptorBytes w).take (2 ^ 22)))
    (h4 : ∀ n ≤ 2 ^ 22, s.safeThere (s.tierSize + n) = true) :
    s.wardrobeAt = some w := by
  have b : ∀ l : List Byte, s.mem = Memory.write [] (s.safeBase.toNat + s.tierSize) l →
      s.bytesAt (s.safeBase.toNat + s.tierSize) l.length = l := by
    intro l e
    apply List.ext_getElem
    · simp [State.bytesAt]
    · intro i _ i2
      have g := Memory.get_write_inside (m := []) rfl (s.safeBase.toNat + s.tierSize) l i2
      simp [State.bytesAt, State.byteAt, State.winOf, h1, e, g]
  have e := b _ h3
  simp only [State.wardrobeAt, h2, List.find?, beq_self_eq_true, Bool.true_and]
  rw [e, h4 _ (by simp)]
  simp

theorem safe_there (s : State) (r : Range) (n : Nat) (h1 : s.rangeOf s.safeBase.toNat = some r) (h2 : r.kind = .cxl)
    (h3 : s.safeBase.toNat + n ≤ r.base + r.size) : s.safeThere n = true := by
  simp [State.safeThere, h1, h2, h3]

/-- A command with nothing resident and with a task; the three forms; memory and descriptor written and read back; a resume; a restore. -/
theorem witness_SuspendSteps :
    (∃ s : State, s.susp = .running ∧ s.tasks = []) ∧
    (∃ s u : State, s.susp = .running ∧ u = { s with susp := .suspending, suspCmd := 1, suspDiscard := false } ∧
      (u.clearTasks 0).tasks ≠ []) ∧
    (∀ k ∈ [1, 2, 3], ∃ s : State, s.suspCmd = k) ∧
    (∃ (s : State) (d : Descriptor), s.susp = .writing ∧ s.descriptor = some d) ∧
    (∃ (s : State) (m : Memory) (a o : Nat), s.mem.wf = true ∧ m.wf = true ∧ s.safeOffset a = some o ∧
      s.inCxl (s.safeBase.toNat + o) = true ∧ m.get a = 9) ∧
    (∃ (s : State) (a o : Nat), s.mem.wf = true ∧ (∀ o', s.safeSource o' = some a ↔ o' = o) ∧
      s.inCxl (s.safeBase.toNat + o) = true ∧ s.inCxl a = false) ∧
    (∃ s : State, s.susp = .deep ∧ s.instances ≠ [] ∧
      (∀ i ∈ s.instances, (∀ n ∈ i.nodes, n.life ≠ .waiting ∨ n.count ≠ 0) ∧ ∃ n ∈ i.nodes, n.live = true) ∧ s.saved ≠ [] ∧
      ∀ x ∈ s.saved, ∃ y ∈ s.dies, ∃ q ∈ y.taskQueue, q.image = some x.id) ∧
    (∃ (s : State) (x : Saved), s.imageQueued x = false ∧ s.saved = [x]) ∧
    (∃ s : State, s.mem.wf = true ∧ s.suspMem.wf = true ∧ (∀ w ∈ s.hcw, w.en = false) ∧
      (∀ k < s.tierSize + 2 ^ 22, s.inCxl (s.safeBase.toNat + k) = true) ∧ s.safeThere (s.tierSize + 2 ^ 22) = true) ∧
    (∃ s : State, s.inCxl s.safeBase.toNat = false) ∧
    (∃ s : State, s.wardrobeAt = none ∧ s.stage = .b ∧ s.restoreRun = true) ∧
    ∃ (s : State) (w : Descriptor), s.wardrobeAt = some w ∧ s.stage = .b ∧ s.restoreRun = true :=
  ⟨⟨base, rfl, rfl⟩, ⟨with1 base doneTask, _, rfl, rfl, by decide +kernel⟩, fun k _ => ⟨{ base with suspCmd := k }, rfl⟩,
    ⟨{ base with susp := .writing, descriptor := some chest }, _, rfl, rfl⟩,
    ⟨chested, [(5, 9)], 5, 5, rfl, rfl, by decide +kernel, by decide +kernel, rfl⟩,
    ⟨chested, 5, 5, rfl, chest_places, by decide +kernel, by decide +kernel⟩,
    ⟨{ armed.updDie 0 (fun x => { x with taskQueue := [{ qrec record with image := some 1 }] }) with
        susp := .deep, saved := [{ id := 1, task := tsk [], scratch := [], off := 0, len := 0 }] },
      rfl, by decide, by decide +kernel, by decide, by decide +kernel⟩,
    ⟨{ base with saved := [{ id := 1, task := tsk [], scratch := [], off := 0, len := 0 }] }, _, by decide +kernel, rfl⟩,
    ⟨roomy, rfl, rfl, by decide, fun k h => by
      have e : roomy.tierSize = 4096 := rfl
      have b : roomy.safeBase.toNat = 0x10000 := rfl
      rw [e] at h
      have r : roomy.rangeOf (0x10000 + k) = some { base := 0x10000, size := 0x1000000, die := 0, kind := .cxl } := by
        have n : ¬ 0x10000 + k < 4096 := by omega
        have i : 0x10000 + k < 0x10000 + 0x1000000 := by omega
        simp [State.rangeOf, roomy, List.find?, n, i]
      rw [b, State.inCxl, r]; rfl, by decide +kernel⟩,
    ⟨base, by decide +kernel⟩,
    ⟨{ base with stage := .b, restoreRun := true }, rfl, rfl, rfl⟩,
    ⟨{ standing with stage := .b, restoreRun := true }, chest, stands_at _ _ rfl rfl rfl fun n h =>
      safe_there _ { base := 0x10000, size := 0x1000000, die := 0, kind := .cxl } _ (by decide +kernel) rfl (by
        change 0x10000 + (4096 + n) ≤ 0x10000 + 0x1000000
        omega), rfl, rfl⟩⟩

/-- The last region; a temperature just below and at the trip point, on a cluster and elsewhere; a region that stays tripped; the cluster of
a task; a die that holds less than a record declares, and one that waits for none. -/
theorem witness_RailSteps :
    (∃ (s : State) (x : Die) (g : Region), s.die? 0 = some x ∧ x.regions[106]? = some g ∧ ((1919 : BitVec 16).toInt / 16 < 120)) ∧
    (∃ (s : State) (x : Die) (g : Region), s.die? 0 = some x ∧ x.regions[103]? = some g ∧ Reaches g 1920) ∧
    (∃ (s : State) (x : Die) (g : Region), s.die? 0 = some x ∧ x.regions[104]? = some g ∧ Reaches g 1920) ∧
    (∃ g : Region, 120 ≤ (1920 : BitVec 16).toInt / 16 ∧ ¬ Reaches g 1920) ∧
    (∃ (s : State) (t : Task) (r : Nat), s.tasks = [t] ∧ t.die = 0 ∧ ∃ m ∈ t.members, m.cluster = r) ∧
    (∃ (s : State) (x : Die), s.die? 0 = some x ∧ x.thermSel.toNat = 103) ∧
    (∃ s : State, (∀ x ∈ s.dies, x.preBusy = none) ∧ s.susp ≠ .suspending) ∧
    (∃ (s : State) (a b c d : Die), s.dies = [a, b, c, d]) ∧
    (∃ (s : State) (x : Die), ∀ q ∈ x.taskQueue ++ x.deques.flatMap Prod.snd, ¬ Unfunded s x q) ∧
    ∃ (s : State) (x : Die) (q : QRec), x.taskQueue ++ x.deques.flatMap Prod.snd = [] ++ q :: [] ∧ Unfunded s x q :=
  ⟨⟨base, _, _, rfl, rfl, by decide⟩,
    ⟨base, _, Region.reset, rfl, rfl, by decide, Or.inr rfl⟩, ⟨base, _, Region.reset, rfl, rfl, by decide, Or.inr rfl⟩,
    ⟨{ Region.reset with temp := 1920, tripped := true }, by decide, fun h => h.2.elim (by decide) (fun e => nomatch e)⟩,
    ⟨with1 base (tsk []), tsk [], 0, rfl, rfl, _, List.mem_singleton.mpr rfl, rfl⟩,
    ⟨base.updDie 0 fun x => { x with thermSel := 103 }, _, rfl, rfl⟩, ⟨base, by decide +kernel, by decide⟩,
    ⟨base, _, _, _, _, rfl⟩, ⟨base, Die.reset 0, fun q h => (nomatch h)⟩,
    ⟨waiting record 63, { Die.reset 0 with taskQueue := [qrec record], budget := 63 }, qrec record, rfl, by decide +kernel,
      by decide +kernel, by decide⟩⟩

/-- A slice with a way awake and a way gated. -/
def sliceOf (s : State) : Slice := { s.slice 0 0 0 with gate := 2, awake := 0xFFFD }

theorem witness_CacheSteps :
    (∃ (s : State) (x : Die), s.die? 0 = some x ∧ x.tlbiOp = none) ∧
    (∃ (s : State) (x : Die), s.die? 0 = some x ∧ x.tlbiOp = some (2, 0, 0) ∧ 2 < 3) ∧
    (∃ (s : State) (x : Die) (c : Nat) (k : Nat), s.die? 0 = some x ∧ s.homeDie (x.homeSel.toNat * 65536) = some 0 ∧
      s.homeSlice (x.homeSel.toNat * 65536) = some (0, c, k) ∧ x.has ((0x1FF : Word).toNat % 128) = false ∧
      x.has ((0xE7 : Word).toNat % 128) = true ∧ (c, k) ≠ ((0xE7 : Word).toNat % 128, (0xE7 : Word).toNat / 128 % 4)) ∧
    (∃ (s : State) (x : Die) (o : Nat), s.die? 0 = some x ∧ s.homeDie (3 * 65536) = some 0 ∧ s.moving.filter (·.1 = 3) = [(3, o)] ∧
      s.homeSlice (3 * 65536) ≠ some (0, o / 4, o % 4)) ∧
    (∃ (s : State) (x : Die) (y : Slice), s.die? 0 = some x ∧ s.selected 0 = some y ∧ y.gate.getLsbD 15 = false ∧ y.slotWay 15 = false ∧
      y.gate.getLsbD 1 = true) ∧
    (∃ (s : State) (a : Nat), (3, 0) ∈ s.moving ∧ a / 65536 = 3 ∧ (s.homeSlice a).isSome = true ∧ ∀ r ∈ s.rdc, r.2.1 ≠ a / 128) ∧
    (∃ s : State, s.cacheWaits = []) ∧
    ∃ (s : State) (x : Die) (y : Slice), s.die? 0 = some x ∧ s.slice 0 0 0 = y ∧ (1, s.now) ∈ y.waking :=
  ⟨⟨base, _, rfl, rfl⟩, ⟨base.updDie 0 fun x => { x with tlbiOp := some (2, 0, 0) }, _, rfl, rfl, by decide⟩,
    ⟨base, Die.reset 0, 0, 0, rfl, by decide +kernel, by decide +kernel, by decide +kernel, by decide +kernel, by decide⟩,
    ⟨{ base with homing := [(3, 5, 1)], moving := [(3, 12)] }, Die.reset 0, 12, rfl, by decide +kernel, by decide, by decide +kernel⟩,
    ⟨base.setSlice (sliceOf base), Die.reset 0, sliceOf base, rfl, by decide +kernel, by decide, by decide +kernel, by decide⟩,
    ⟨{ base with moving := [(3, 0)] }, 3 * 65536, List.mem_singleton.mpr rfl, by decide, by decide +kernel, fun r h => (nomatch h)⟩,
    ⟨base, rfl⟩,
    ⟨base.setSlice { sliceOf base with waking := [(1, 0)] }, Die.reset 0, _, rfl, rfl, by decide +kernel⟩⟩

/-! ### What meets the hypotheses: the host -/

theorem witness_HostRegisters :
    (∃ (s : State) (x : Die), s.die? 3 = some x) ∧
    regFields (0x7FF : BitVec 12).toNat = none ∧
    (∃ f, regFields (0x300 : BitVec 12).toNat = some f ∧ ¬ (0x130 ≤ (0x300 : BitVec 12).toNat ∧ (0x300 : BitVec 12).toNat ≤ 0x138)) ∧
    (∃ (s : State) (w : HWin), s.hcw[7]? = some w ∧ w.en = false ∧ (0x55 : Word).getLsbD 6 = true) ∧
    ∃ (s : State) (w : HWin), s.hcw[7]? = some w ∧ w.en = true ∧ (0x15 : Word).getLsbD 6 = false :=
  ⟨⟨base, _, rfl⟩, by decide +kernel, ⟨_, rfl, by decide⟩, ⟨base, HWin.reset, rfl, rfl, by decide⟩,
    ⟨{ base with hcw := base.hcw.set 7 { HWin.reset with en := true } }, { HWin.reset with en := true }, rfl, rfl, by decide⟩⟩

/-- A package with window 0 over 2 MiB at 2^51, and the link up. -/
def windowed : State :=
  { base with cxlCache := true, hcw := base.hcw.set 0 { HWin.reset with dev := 0x8000000000000, en := true, wr := true } }

/-- The last byte of a page, an address without memory, a window line. -/
theorem witness_OutsideAccess :
    (∃ (s : State) (a : Nat) (l : List Byte), outsideWrite (.hostWrite 0xFFF [9]) = some (a, l) ∧ s.stage = .c ∧
      s.hasHome a = true ∧ s.winOf a = none) ∧
    (∃ (s : State) (a : Nat) (l : List Byte), outsideWrite (.cxlMemWrite 0x8000000000000 (List.replicate 64 1)) = some (a, l) ∧
      s.hasHome a = false) ∧
    (∃ (a : Nat) (l : List Byte), outsideWrite (.ualinkWrite (.addr 0) (List.replicate 4096 1)) = some (a, l)) ∧
    (∃ s : State, s.mem.wf = true ∧ (∀ p, s.winOf p = none) ∧ s.mem = [(1, 1)]) ∧
    (∃ (s : State) (t : Task), t ∈ s.tasks ∧ t.handle ≠ 0 ∧ ∃ r ∈ t.readSet, r.2 = (128 + 0) / 128) ∧
    (∃ s : State, Request 4095 1 ∧ s.stage = .c ∧ s.hasHome 4095 = true ∧ s.winOf 4095 = none) ∧
    (∃ (s : State) (w : HWin), s.winOf 0x8000000000000 = some w ∧ s.cxlCache = true ∧ (List.replicate 64 (1 : Byte)).length = 64) ∧
    ∃ (s : State) (d c k : Nat), s.homeSlice (128 * 5) = some (d, c, k) :=
  ⟨⟨base, _, _, rfl, rfl, by decide +kernel, by decide +kernel⟩, ⟨base, _, _, rfl, by decide +kernel⟩, ⟨_, _, rfl⟩,
    ⟨{ base with mem := [(1, 1)] }, by decide +kernel, fun p => by
      simp [State.winOf, base, State.reset, HWin.covers, HWin.reset], rfl⟩,
    ⟨with1 base { tsk [] with readSet := [(0, 1)] }, _, List.mem_singleton.mpr rfl, by decide, (0, 1), List.mem_singleton.mpr rfl, by decide⟩,
    ⟨base, ⟨by decide, by decide, by decide⟩, rfl, by decide +kernel, by decide +kernel⟩, ⟨windowed, _, rfl, rfl, rfl⟩, ⟨base, _, _, _, rfl⟩⟩

/-- Power-good with CXL memory that persists; firmware that does not verify; GO, the timeout just reached, and a restore; stage B; the
last block of the sweep and one that is none; RESYNC and a summary of the least size; a report. -/
theorem witness_BringUpSteps :
    (∃ (s : State) (a : Nat), s.mem.wf = true ∧ s.mem.get a = 9) ∧
    (∃ (s : State) (f : Firmware), s.stage = .a ∧ s.fwInvalid = false ∧ f ∈ s.firmware ∧ f.verified = false) ∧
    (∀ r ∈ [true, false], ∃ s : State, s.stage = .a ∧ s.fwInvalid = false ∧ (∀ f ∈ s.firmware, f.verified = true) ∧ s.restore = r ∧
      s.stageAEnd + 50000 = s.now ∧ s.mem.wf = true) ∧
    (∀ r ∈ [true, false], ∃ s : State, s.stage = .b ∧ s.restoreRun = false ∧ s.restoring = r ∧ s.mem.wf = true) ∧
    (∃ (s : State) (b : Nat), s.sweeping = true ∧ s.secondTier b = true ∧ b ∉ s.swept) ∧
    (∃ (s : State) (b : Nat), s.sweeping = true ∧ s.secondTier b = false) ∧ (∃ s : State, s.resyncBusy = false) ∧
    ∃ (s : State), s.resyncBusy = true ∧ 64 = ofLeBytes ((List.range 8).map fun i => s.hostByte (s.resyncAddr + i)) :=
  ⟨⟨{ chested with mem := [(0x10005, 9)] }, 0x10005, rfl, rfl⟩,
    ⟨{ State.reset with firmware := [{ code := [1], scheme := .other 0, sig := [] }] }, { code := [1], scheme := .other 0, sig := [] }, rfl, rfl,
      List.mem_singleton.mpr rfl, rfl⟩,
    fun r _ => ⟨{ State.reset with restore := r, now := State.reset.stageAEnd + 50000 }, rfl, rfl, fun f h => (nomatch h), rfl, rfl, rfl⟩,
    fun r _ => ⟨{ State.reset with stage := .b, restoring := r }, rfl, rfl, rfl, rfl⟩,
    ⟨{ base with sweeping := true }, 0x600000, rfl, by decide +kernel, by decide⟩, ⟨{ base with sweeping := true }, 0, rfl, by decide +kernel⟩,
    ⟨base, rfl⟩, ⟨{ base with resyncBusy := true, hostMem := Overlay.write [] 0 (natBytes 8 64) }, rfl, by decide +kernel⟩⟩

/-! ### What meets the hypotheses: the edges of queues and launches -/

/-- Queue 0 mapped in slot 63 with one entry of priority 1, queue 1 waiting, the slice just over. -/
def outranked : State :=
  let s := queues 1 fun x => { mapped false x with pending := [(1, 0)] }
  { s with now := 200, mem := s.mem.set 0x300012 1 }

/-- A number just past the table; a queue of another die; a waiting queue of a lower level than the slot's. -/
theorem witness_QueueSteps_edges :
    (∃ (s : State) (x : Die), s.die? 0 = some x ∧ s.stage = .c ∧ s.qtCount.toNat = (2 : BitVec 32).toNat) ∧
    (∃ (s : State) (x : Die), s.die? 1 = some x ∧ s.stage = .c ∧ (1 : BitVec 32).toNat < s.qtCount.toNat ∧ (s.qte 1).die ≠ 1) ∧
    ∃ (s : State) (x : Die) (y : QSlot), s.die? 0 = some x ∧ s.stage = .c ∧ s.susp = .running ∧ x.slots.filter (·.idx = 63) = [y] ∧
      y.since + x.sliceLen.toNat = s.now ∧ NextQueue s 0 x (1, 0) ∧ s.queueLevel (1, 0) + 1 = s.headPrio y.queue :=
  ⟨⟨queues 0 id, _, rfl, rfl, rfl⟩, ⟨queues 0 id, _, rfl, rfl, by decide, by decide +kernel⟩,
    ⟨outranked, _, _, rfl, rfl, rfl, rfl, rfl, ⟨[], [], rfl, by decide +kernel, fun q h => (nomatch h), fun q h => (nomatch h)⟩,
      by decide +kernel⟩⟩

/-- `n` instances of queue 0 in flight, with no node. -/
def flying (n : Nat) (s : State) : State :=
  { s with instances := (List.range n).map fun k =>
      { id := k, queue := 0, die := 0, frame := 0, tsbase := 0, prio := 0, cls := 0, ctx := 0, completion := 0, nodes := [], retired := 0 } }

/-- Four instances in flight with one entry held; one in flight with none held; a slot alone with its number. -/
theorem witness_LaunchSteps_edges :
    (∃ (s : State) (x : Die) (y : QSlot), s.die? 0 = some x ∧ s.stage = .c ∧ s.susp = .running ∧ x.slots.find? (·.idx = 63) = some y ∧
      s.servable 0 y.queue = true ∧ y.final = false ∧ (s.qte y.queue).held = 1 ∧ 1 ≤ 2 ^ (s.qte y.queue).log2 ∧ s.inFlight y.queue = 4) ∧
    (∃ (s : State) (x : Die) (y : QSlot), s.die? 0 = some x ∧ s.stage = .c ∧ s.susp = .running ∧ x.slots.find? (·.idx = 63) = some y ∧
      s.servable 0 y.queue = true ∧ (s.qte y.queue).held = 0 ∧ s.inFlight y.queue = 1) ∧
    ∃ (s : State) (x : Die) (y : QSlot), s.die? 0 = some x ∧ x.slots.filter (·.idx = 63) = [y] :=
  ⟨⟨flying 4 (queues 1 (mapped false)), _, _, rfl, rfl, rfl, rfl, by decide +kernel, rfl, by decide +kernel, by decide +kernel,
      by decide +kernel⟩,
    ⟨flying 1 (queues 0 (mapped true)), _, _, rfl, rfl, rfl, rfl, by decide +kernel, by decide +kernel, by decide +kernel⟩,
    ⟨queues 0 (mapped false), _, _, rfl, rfl⟩⟩

/-! ### What meets the hypotheses: where channels and global accesses fail -/

/-- Channel 1 of context 0 with one entry spilled to a Hutch page. -/
def spilledTo (page : Nat) : State :=
  { chans [{ chan 0 me 0 [{ entry [1, 2, 3, 4] with page := some (0, 0) }] with pages := [page] }] with
    cxlCache := false, hcw := [{ dev := 0x400000, hostBase := 0, size := 21, en := true, wr := true }] }

/-- A channel number at the entry count; a package whose context table, and one whose channel table, cannot be read; table entries of no
channel, of a BROKEN one, of one with a page behind a link that is down, with one that has no home, and of one that can be used. -/
theorem witness_ChannelFails :
    (∃ n a s t u sub, channelForm (.chPushW 1 2) = some (n, a) ∧ OnThread s t n ∧ chanBad (t.x a) = false ∧
      (charged s t n).openChan (drawn s t n) (chanNum (t.x a)) = (u, .error (.misuse sub))) ∧
    (∃ n a s t u e va, channelForm (.chPopD 5 1 2) = some (n, a) ∧ OnThread s t n ∧ chanBad (t.x a) = false ∧
      (charged s t n).openChan (drawn s t n) (chanNum (t.x a)) = (u, .error (.acc e va)) ∧ e ≠ .miss) ∧
    (∃ n a s t u va, channelForm (.chPeek 5 1) = some (n, a) ∧ OnThread s t n ∧ chanBad (t.x a) = false ∧
      (charged s t n).openChan (drawn s t n) (chanNum (t.x a)) = (u, .error (.acc .miss va))) ∧
    (∃ (s : State) (t : Task), s.ctxDown t.crec.ctx = false ∧ s.chanCount t.crec.ctx = 4) ∧
    (∃ (s : State) (t : Task) (u : State) (pa : Nat), s.ctxDown t.crec.ctx = false ∧ s.cte t 2 = (u, .ok (some pa)) ∧
      u.chan? t.crec.ctx 2 = none) ∧
    (∃ (s : State) (t : Task) (u : State) (pa : Nat) (c : Chan), s.ctxDown t.crec.ctx = false ∧ s.cte t 1 = (u, .ok (some pa)) ∧
      u.chan? t.crec.ctx 1 = some c ∧ c.state ≠ .opened) ∧
    (∃ (s : State) (t : Task) (u : State) (pa : Nat) (c : Chan), s.ctxDown t.crec.ctx = false ∧ s.cte t 1 = (u, .ok (some pa)) ∧
      u.chan? t.crec.ctx 1 = some c ∧ c.state = .opened ∧ ∃ p ∈ c.usedPages, u.linkDown (c.pages.getD p 0) = true) ∧
    (∃ (s : State) (t : Task) (u : State) (pa : Nat) (c : Chan), s.ctxDown t.crec.ctx = false ∧ s.cte t 1 = (u, .ok (some pa)) ∧
      u.chan? t.crec.ctx 1 = some c ∧ c.state = .opened ∧ (∀ p, u.linkDown (c.pages.getD p 0) = false) ∧
      ∃ p ∈ c.usedPages, u.hasHome (c.pages.getD p 0) = false) ∧
    (∃ (s : State) (t : Task) (u : State) (pa : Nat) (c : Chan), s.ctxDown t.crec.ctx = false ∧ s.cte t 1 = (u, .ok (some pa)) ∧
      u.chan? t.crec.ctx 1 = some c ∧ c.state = .opened ∧ (∀ p, u.linkDown (c.pages.getD p 0) = false) ∧
      ∀ p, u.hasHome (c.pages.getD p 0) = true) ∧
    ∃ (s : State) (t : Task), s.ctxDown t.crec.ctx = true :=
  ⟨⟨_, _, _, _, _, _, rfl, tsk_moves (chans []) [(1, 4)] 2 (by decide), rfl, rfl⟩,
    ⟨_, _, _, _, _, .host, 0, rfl, tsk_moves (linkDown base) [(1, 1)] 2 (by decide), rfl, rfl, by decide⟩,
    ⟨_, _, _, _, _, _, rfl, tsk_moves { chans [] with tlb := [], mem := (chans []).mem.write 0x100008 [3] } [(1, 1)] 1 (by decide), rfl, rfl⟩,
    ⟨chans [], tsk [], by decide +kernel, by decide +kernel⟩,
    ⟨chans [], tsk [], _, 0x9080, by decide +kernel, rfl, rfl⟩,
    ⟨chans [{ chan 0 me 0 [] with state := .broken }], tsk [], _, 0x9040, _, by decide +kernel, rfl, rfl, by decide⟩,
    ⟨spilledTo 0x400000, tsk [], _, 0x9040, _, by decide +kernel, rfl, rfl, rfl, 0, by decide +kernel, by decide +kernel⟩,
    ⟨{ spilledTo (2 ^ 51) with hcw := [] }, tsk [], _, 0x9040, _, by decide +kernel, rfl, rfl, rfl, fun p => rfl, 0, by decide +kernel, by decide +kernel⟩,
    ⟨chans [chan 0 me 0 []], tsk [], _, 0x9040, _, by decide +kernel, rfl, rfl, rfl, fun p => rfl, fun p => rfl⟩,
    ⟨linkDown base, tsk [], by decide +kernel⟩⟩

/-- The page that list entry 0x90C0 names is a CH page of the channel's context. -/
def listed (page : Nat) (up : Bool) : State :=
  { entryAt (natBytes 8 page) with
    tlb := [{ ctx := 0, va := 0, size := 0x100000, pa := 0, w := true, ch := false, io := false },
            { ctx := 0, va := page, size := 4096, pa := page, w := true, ch := true, io := false }]
    cxlCache := up, hcw := [{ dev := 0x400000, hostBase := 0, size := 21, en := true, wr := true }] }

/-- A list that cannot be read; a page in a window whose link is down, one that has no home, and one that serves. -/
theorem witness_ChannelOpens_list :
    (∃ (u v : State) (e : AccErr), u.access 0 0 0x90C0 .load = (v, .error e)) ∧
    (∃ (u v w : State) (pa : Nat) (e : TlbEntry) (page : Nat) (p : TlbEntry), u.access 0 0 0x90C0 .load = (v, .ok (pa, e)) ∧ e.io = false ∧
      page = (v.touch 0 pa 0).natAt pa 8 ∧ (v.touch 0 pa 0).translate 0 0 page = (w, .ok p) ∧ page % 4096 = 0 ∧ p.ch = true ∧
      w.linkDown (p.phys page) = true) ∧
    (∃ (u v w : State) (pa : Nat) (e : TlbEntry) (page : Nat) (p : TlbEntry), u.access 0 0 0x90C0 .load = (v, .ok (pa, e)) ∧ e.io = false ∧
      page = (v.touch 0 pa 0).natAt pa 8 ∧ (v.touch 0 pa 0).translate 0 0 page = (w, .ok p) ∧ page % 4096 = 0 ∧ p.ch = true ∧
      w.linkDown (p.phys page) = false ∧ w.hasHome (p.phys page) = false) ∧
    ∃ (u v w : State) (pa : Nat) (e : TlbEntry) (page : Nat) (p : TlbEntry) (x : State) (l : List Nat),
      u.access 0 0 0x90C0 .load = (v, .ok (pa, e)) ∧ e.io = false ∧
      page = (v.touch 0 pa 0).natAt pa 8 ∧ (v.touch 0 pa 0).translate 0 0 page = (w, .ok p) ∧ page % 4096 = 0 ∧ p.ch = true ∧
      w.linkDown (p.phys page) = false ∧ w.hasHome (p.phys page) = true ∧ w.spillPages 0 0 0 (0x90C0 + 8) 0 = (x, .ok l) := by
  have page : (0x400000 : Nat) = ((listed 0x400000 false).touch 0 0x90C0 0).natAt 0x90C0 8 := by decide +kernel
  have page' : (0x400000 : Nat) = ((listed 0x400000 true).touch 0 0x90C0 0).natAt 0x90C0 8 := by decide +kernel
  have far : (0x8000000000000 : Nat) = ((listed 0x8000000000000 true).touch 0 0x90C0 0).natAt 0x90C0 8 := by decide +kernel
  exact ⟨⟨unmapped, _, _, rfl⟩,
    ⟨listed 0x400000 false, _, _, 0x90C0, _, 0x400000, _, rfl, rfl, page, rfl, rfl, rfl, by decide +kernel⟩,
    ⟨listed 0x8000000000000 true, _, _, 0x90C0, _, 0x8000000000000, _, rfl, rfl, far, rfl, rfl, rfl, by decide +kernel, by decide +kernel⟩,
    ⟨listed 0x400000 true, _, _, 0x90C0, _, 0x400000, _, _, _, rfl, rfl, page', rfl, rfl, rfl, by decide +kernel, by decide +kernel, rfl⟩⟩

/-- A package in which the only page mapped is a CH page, or one that may only be read. -/
def paged (ch w : Bool) : State :=
  { base with tlb := [{ ctx := 0, va := 0, size := 4096, pa := 0, w := w, ch := ch, io := false }] }

/-- A store under ROHINT; the first address that is none; a store to an RO page and a load that misses; a page behind a link that is down,
a CH page, and one that serves; a context without a table. -/
theorem witness_GlobalTraps :
    (∃ n a off s t, accessForm (.stgD 2 1 0) = some (.glob, n, a, off) ∧ OnThread s t 1 ∧ effective t.x a off % n = 0 ∧
      accessKind (.stgD 2 1 0) = .store ∧ t.crec.rohint = true) ∧
    (∃ n a off s t, accessForm (.ldgD 5 1 0) = some (.glob, n, a, off) ∧ OnThread s t 1 ∧ effective t.x a off % n = 0 ∧
      accessKind (.ldgD 5 1 0) ≠ .store ∧ effective t.x a off = 2 ^ 52) ∧
    (∃ n a off s t u e, accessForm (.stgD 2 1 0) = some (.glob, n, a, off) ∧ OnThread s t 1 ∧ effective t.x a off % n = 0 ∧
      t.crec.rohint = false ∧ effective t.x a off < 2 ^ 52 ∧
      (charged s t 1).nestTouches (drawn s t 1) (effective t.x a off) n = false ∧
      (charged s t 1).access t.die t.crec.ctx (effective t.x a off) .store = (u, .error e) ∧ e ≠ .miss) ∧
    (∃ n a off s t u, accessForm (.ldgB 5 1 0) = some (.glob, n, a, off) ∧ OnThread s t 1 ∧ effective t.x a off % n = 0 ∧
      accessKind (.ldgB 5 1 0) ≠ .store ∧ effective t.x a off < 2 ^ 52 ∧
      (charged s t 1).nestTouches (drawn s t 1) (effective t.x a off) n = false ∧
      (charged s t 1).access t.die t.crec.ctx (effective t.x a off) .load = (u, .error .miss)) ∧
    (∃ (s u : State) (e : TlbEntry), s.translate 0 0 0 = (u, .ok e) ∧ u.linkDown (e.phys 0) = true) ∧
    (∃ (s u : State) (e : TlbEntry), s.translate 0 0 0 = (u, .ok e) ∧ u.linkDown (e.phys 0) = false ∧ forbidden u e (e.phys 0) .load) ∧
    (∃ (s u : State) (e : TlbEntry), s.translate 0 0 0 = (u, .ok e) ∧ u.linkDown (e.phys 0) = false ∧ ¬ forbidden u e (e.phys 0) .store) ∧
    ∃ (s u : State) (x : XErr), s.translate 0 0 0 = (u, .error x) :=
  ⟨⟨_, _, _, _, _, rfl, task_moves base { tsk [] with crec := { (tsk []).crec with dw4 := 100 + 2 ^ 58 } } 1 rfl rfl rfl rfl rfl (by decide),
      by decide +kernel, rfl, by decide +kernel⟩,
    ⟨_, _, _, _, _, rfl, tsk_moves base [(1, 0x10000000000000)] 1 (by decide), by decide +kernel, by decide, by decide +kernel⟩,
    ⟨_, _, _, _, _, _, .perm, rfl, tsk_moves (paged false false) [(1, 0xFF8)] 1 (by decide), by decide +kernel, by decide +kernel,
      by decide +kernel, rfl, rfl, by decide⟩,
    ⟨_, _, _, _, _, _, rfl, tsk_moves unmapped [(1, 0xFFFFFFFFFFFFF)] 1 (by decide), by decide +kernel, by decide, by decide +kernel, rfl, rfl⟩,
    ⟨linkDown base, _, _, rfl, rfl⟩, ⟨paged true true, _, _, rfl, rfl, .inl rfl⟩,
    ⟨paged false true, _, _, rfl, rfl, by
      rintro (h | h | ⟨-, h | ⟨w, h, -⟩⟩)
      · cases h
      · cases h
      · cases h
      · cases h⟩,
    ⟨unmapped, _, _, rfl⟩⟩

/-- A full fault ring, and one with room. -/
theorem witness_InterventionSteps_freeze :
    (∃ (s : State) (t : Task) (f : Frozen) (x : Die), s.die? t.die = some x ∧ t.isFrozen f.kind f.place f.part = false ∧
      x.fringHead = x.fringTail ∧ ∃ r ∈ x.faults, r.state = 0) ∧
    ∃ (s : State) (t : Task) (f : Frozen) (x : Die), s.die? t.die = some x ∧ t.isFrozen f.kind f.place f.part = false ∧
      ¬ (x.fringHead = x.fringTail ∧ ∃ r ∈ x.faults, r.state = 0) :=
  ⟨⟨frozen, tsk [], port, _, rfl, rfl, rfl, _, List.mem_singleton.mpr rfl, rfl⟩,
    ⟨with1 base (tsk []), tsk [], port, _, rfl, rfl, fun h => nomatch h.2.choose_spec.1⟩⟩

/-! ### What meets the hypotheses: cancelled copies, top-ups, funded arms -/

/-- One of three copies that are not complete: `n` its timeline, `d` demand mode into the FIFO of cell 0. -/
def under (id n num : Nat) (running dmd : Bool) : Copy :=
  { id := id, n := n, num := num, addr := 0, granted := 9, ran := 1, running := running, cancelled := false, finished := false
    d := { src := 0x1000, dst := 0, sscratch := false, dscratch := dmd, esize := 2, gate := none, dmd := dmd, conv := 0,
           rm := 0, cluster := 0, join := 4, dims := [(9, 4, 4)] }
    rest := [] }

/-- A running copy and one in the midst of a slot on timeline 1, with a frozen port, and a copy on timeline 2. -/
def copying : Task :=
  { tsk [] with
    copies := [under 1 1 1 true false, under 2 1 2 false true, under 3 2 1 false false]
    cells := [Cell.fresh 0 none (some 4) none]
    frozen := [{ port with kind := 3, place := 0, part := 1 }] }

/-- A copy that runs and ends, one that is marked, one of another timeline; and a number that completes a prefix of a timeline. -/
theorem witness_CopyCancel :
    (∃ s t n counted, OnThread s t 1 ∧ n = (1 : BitVec 5).toNat ∧ counted = (ending t n).foldl (fun u c => u.finish c.n c.num) (drawn s t 1) ∧
      ((toCancel t n).map Copy.id, (ending t n).map Copy.id, (endingPorts t n).length, t.copies.length) = ([1, 2], [1], 1, 3)) ∧
    ∃ (t : Task) (n num K : Nat), n < 8 ∧ num < 2 ^ 64 ∧ (∀ p ∈ t.finished, p.2 < 2 ^ 64) ∧ K = (t.finish n num).timeline n ∧ K = 2 ∧
      t.timeline n = 0 :=
  ⟨⟨_, _, 1, _, task_moves base copying 1 rfl rfl rfl rfl rfl (by decide), rfl, rfl, by decide +kernel⟩,
    ⟨{ tsk [] with finished := [(1, 2)] }, 1, 1, 2, by decide, by decide,
      fun p h => by cases List.mem_singleton.mp h; decide, by decide +kernel, rfl, rfl⟩⟩

/-- A task that issues, its die, and one packet more than the quota. -/
theorem witness_ChargeResults_topUp :
    ∃ (s : State) (t g : Task) (x : Die), s.die? t.die = some x ∧ s.topUpOk t g 10 = true ∧ x.quota t.crec.ctx = 10 ∧ s.topUpOk t g 11 = false :=
  ⟨rich, tsk [], tsk [], _, rfl, by decide +kernel, by decide +kernel, by decide +kernel⟩

/-- A task of an instance of two arms aimed at it: node 0 in state `life`, and node 1, which asks for `tiles` tiles on section 3; it has
`account` grains, and engine 0 on that section or none. -/
def armedTask (tiles account : Nat) (bound : Bool) : Task :=
  { tsk [] with
    arms := [{ inst := 9, node := 1, sec := 3, tiles := tiles, op := none }], account := account
    engines := if bound then [{ Engine.fresh 0 with sec := some 3, fmt := some 0 }] else [] }

def aimed (life : NodeLife) (t : Task) : State :=
  { with1 base t with
    instances := [{ id := 9, queue := 0, die := 0, frame := 0, tsbase := 0, prio := 0, cls := 0, ctx := 0, completion := 0
                    nodes := [{ succ := [], count := 0, tmpl := 0, tsOff := 0, target := some (2, 3, 5), life := life
                                everReady := true, targetSeen := true, paid := false },
                              { succ := [], count := 0, tmpl := 0, tsOff := 0, target := some (2, 3, 5), life := .armed
                                everReady := true, targetSeen := true, paid := false },
                              { succ := [], count := 0, tmpl := 0, tsOff := 0, target := none, life := .running me
                                everReady := true, targetSeen := false, paid := false }]
                    retired := 0 }] }

theorem aimed_moves (life : NodeLife) (t : Task) (n : Nat) (h : t.handle = me) (h1 : t.ready = true) (h2 : t.gate = .running)
    (h3 : t.threadFrozen = false) (h4 : t.wait = none) (h5 : t.paid = false) (h6 : n ≤ t.account) : OnThread (aimed life t) t n :=
  ⟨rfl, task_found base t, h1, h2, h3, h4, h5, h6⟩

theorem only_arm {T : Task} {a : WalkerArm} (h : T.arms = [a]) (o : a.op = none) :
    FirstWith (fun b => b.op = none ∧ ∀ c ∈ T.arms, c.op = none → b.node ≤ c.node) T.arms a :=
  ⟨[], [], h, ⟨o, fun c m _ => by rw [h] at m; rw [List.mem_singleton.mp m]⟩, fun b h => (nomatch h)⟩

/-- Each funding point; an arm that the account covers to the grain, one whose first tiles it covers, one of which it covers none, one of a
section without engines; a lower-numbered arm still to be funded; an arm delivered to a thread that is blocked at a `bar`. -/
theorem witness_ArmFunding :
    (∃ s t S T a f es e, AtFundingPoint s t .bar S T ∧ t.arms = [a] ∧ a.op = none ∧ NextArm S T a ∧ 0 < a.tiles ∧
      T.sectionEngines a.sec = e :: es ∧ f = e.fmt.getD 0 ∧ a.tiles * tileDraw f = T.account) ∧
    (∃ s t S T a f es e p, AtFundingPoint s t (.fence 2) S T ∧ t.arms = [a] ∧ a.op = none ∧ NextArm S T a ∧ 0 < a.tiles ∧
      T.sectionEngines a.sec = e :: es ∧ f = e.fmt.getD 0 ∧ 0 < 4 ∧ a.tiles = 5 ∧ 4 * tileDraw f ≤ T.account ∧
      T.account + 1 = 5 * tileDraw f ∧ p = (numbered S 1).debit (withArm T a S.nextId) (4 * tileDraw f)) ∧
    (∃ s t S T a f es e, AtFundingPoint s t (.tlWait 2 1) S T ∧ t.arms = [a] ∧ a.op = none ∧ NextArm S T a ∧ 0 < a.tiles ∧
      T.sectionEngines a.sec = e :: es ∧ f = e.fmt.getD 0 ∧ T.account + 1 = tileDraw f ∧ t.holdField ≠ 0) ∧
    (∃ s t S T a, AtFundingPoint s t .done S T ∧ NextArm S T a ∧ T.sectionEngines a.sec = []) ∧
    (∃ s t S T, AtFundingPoint s t .barCfg S T ∧ t.arms ≠ [] ∧ ∀ a ∈ t.arms, a.op = none → S.armBefore T a.inst a.node = true) ∧
    (∃ (S : State) (T : Task) (a : WalkerArm) (e : Engine) (es : List Engine), S.task? T.handle = some T ∧ T.gate = .running ∧
      NextArm S T a ∧ T.sectionEngines a.sec = e :: es) ∧
    ∃ (s : State) (i : Instance) (n : Node) (h : Word) (t : Task), s.instances.find? (·.id = 9) = some i ∧ i.nodes[0]? = some n ∧
      n.target = some (2, 3, 5) ∧ n.life = .held ∧ (i.nodes[2]?).map Node.life = some (.running h) ∧ s.task? h = some t ∧
      t.paid = true ∧ t.wait = some .bar ∧ fundingPoint .bar = true :=
  ⟨⟨aimed .discarded (armedTask 5 481 true), armedTask 5 481 true, _, _, _, _, _, _,
      .inl ⟨.inl rfl, aimed_moves _ _ 1 rfl rfl rfl rfl rfl rfl (by decide), rfl, rfl⟩, rfl, rfl, ⟨only_arm rfl rfl, by decide +kernel⟩,
      by decide, rfl, rfl, by decide +kernel⟩,
    ⟨aimed .discarded (armedTask 5 480 true), armedTask 5 480 true, _, _, _, _, _, _, _,
      .inr (.inl ⟨2, rfl, by decide, aimed_moves _ _ 1 rfl rfl rfl rfl rfl rfl (by decide), rfl, rfl⟩), rfl, rfl,
      ⟨only_arm rfl rfl, by decide +kernel⟩, by decide, rfl, rfl, by decide, rfl, by decide +kernel, by decide +kernel, rfl⟩,
    ⟨aimed .discarded { armedTask 5 96 true with regs := (tsk [(1, 1)]).regs, holdField := 1 },
      { armedTask 5 96 true with regs := (tsk [(1, 1)]).regs, holdField := 1 }, _, _, _, _, _, _,
      .inr (.inr (.inl ⟨1, rfl, by decide +kernel, aimed_moves _ _ 1 rfl rfl rfl rfl rfl rfl (by decide), rfl, rfl⟩)), rfl, rfl,
      ⟨only_arm rfl rfl, by decide +kernel⟩, by decide, rfl, rfl, by decide +kernel, by decide⟩,
    ⟨aimed .discarded (armedTask 5 0 false), armedTask 5 0 false, _, _, _,
      .inr (.inr (.inr ⟨rfl, aimed_moves _ _ 0 rfl rfl rfl rfl rfl rfl (by decide), rfl, rfl⟩)), ⟨only_arm rfl rfl, by decide +kernel⟩,
      rfl⟩,
    ⟨aimed .waiting (armedTask 5 481 true), armedTask 5 481 true, _, _,
      .inl ⟨.inr rfl, aimed_moves _ _ 1 rfl rfl rfl rfl rfl rfl (by decide), rfl, rfl⟩, by decide,
      fun a m _ => by cases List.mem_singleton.mp m; decide +kernel⟩,
    ⟨aimed .discarded (armedTask 5 481 true), armedTask 5 481 true, _, _, _, task_found base _, rfl,
      ⟨only_arm rfl rfl, by decide +kernel⟩, rfl⟩,
    ⟨aimed .held { tsk [] with paid := true, wait := some .bar }, _, _, me, { tsk [] with paid := true, wait := some .bar }, rfl, rfl, rfl,
      rfl, rfl, task_found base { tsk [] with paid := true, wait := some .bar }, rfl, rfl, rfl⟩⟩

/-! ### What meets the hypotheses: record operations -/

/-- An odd number above 1 is no power of two. -/
theorem not_power {n : Nat} (h1 : n ≠ 1) (h2 : n % 2 = 1) : ∀ j : Nat, n ≠ 2 ^ j := by
  intro j e
  cases j with
  | zero => exact h1 e
  | succ j => rw [Nat.pow_succ] at e; omega

/-- A number on each side of each bound of the approximations. -/
theorem witness_RecordOperations_approximations :
    (∃ x n m e, Finite x n m e ∧ 2 ^ 23 ≤ m ∧ e = 102) ∧ (∃ x n m e, Finite x n m e ∧ e = -149 ∧ m = 2 ^ 21 + 1) ∧
    (∃ x n m e, Finite x n m e ∧ e = -149 ∧ m = 2 ^ 21) ∧ (∃ x n m e, Finite x n m e ∧ e = 103) ∧
    (∃ x n m e, Finite x n m e ∧ e = 103 ∧ m * 2 ^ e.toNat = 2 ^ 126 + 2 ^ 103) ∧
    (∃ x n m e t, ∃ v : Int, Finite x n m e ∧ v = (if n = true then -1 else 1) * m * 2 ^ e.toNat ∧ t = (-e).toNat ∧ v = -126 * 2 ^ t) ∧
    (∃ x n m e t, ∃ v : Int, Finite x n m e ∧ v = (if n = true then -1 else 1) * m * 2 ^ e.toNat ∧ t = (-e).toNat ∧ v = 128 * 2 ^ t) ∧
    (∃ x n m e t, ∃ v : Int, Finite x n m e ∧ v = (if n = true then -1 else 1) * m * 2 ^ e.toNat ∧ t = (-e).toNat ∧ v = -149 * 2 ^ t) ∧
    (∃ x n m e t, ∃ v : Int, Finite x n m e ∧ v = (if n = true then -1 else 1) * m * 2 ^ e.toNat ∧ t = (-e).toNat ∧ v = -150 * 2 ^ t) ∧
    (∃ x m e j, Finite x false m e ∧ m = 2 ^ j) ∧
    (∃ x m e, Finite x false m e ∧ (∀ j : Nat, m ≠ 2 ^ j) ∧ e + bitLen m - 1 = 0) ∧
    (∃ x m e, Finite x false m e ∧ (∀ j : Nat, m ≠ 2 ^ j) ∧ e + bitLen m - 1 = -1) ∧
    (∃ m e x, Finite x true m e) ∧ ∃ x, Fmt.s.unpack x = .nan true :=
  ⟨⟨0x7E000000, false, 2 ^ 23, 102, ⟨by decide +kernel, by decide⟩, by decide, rfl⟩,
    ⟨0x200001, false, 2 ^ 21 + 1, -149, ⟨by decide +kernel, by decide⟩, rfl, rfl⟩,
    ⟨0x80200000, true, 2 ^ 21, -149, ⟨by decide +kernel, by decide⟩, rfl, rfl⟩,
    ⟨0x7E800000, false, 2 ^ 23, 103, ⟨by decide +kernel, by decide⟩, rfl⟩,
    ⟨0x7E800001, false, 2 ^ 23 + 1, 103, ⟨by decide +kernel, by decide⟩, rfl, by decide +kernel⟩,
    ⟨0xC2FC0000, true, 0xFC0000, -17, 17, -0xFC0000, ⟨by decide +kernel, by decide⟩, by decide, rfl, by decide⟩,
    ⟨0x43000000, false, 0x800000, -16, 16, 0x800000, ⟨by decide +kernel, by decide⟩, by decide, rfl, by decide⟩,
    ⟨0xC3150000, true, 0x950000, -16, 16, -0x950000, ⟨by decide +kernel, by decide⟩, by decide, rfl, by decide⟩,
    ⟨0xC3160000, true, 0x960000, -16, 16, -0x960000, ⟨by decide +kernel, by decide⟩, by decide, rfl, by decide⟩,
    ⟨0x3F800000, 2 ^ 23, -23, 23, ⟨by decide +kernel, by decide⟩, rfl⟩,
    ⟨0x3F800001, 2 ^ 23 + 1, -23, ⟨by decide +kernel, by decide⟩, not_power (by decide) (by decide), by decide +kernel⟩,
    ⟨0x3F000001, 2 ^ 23 + 1, -24, ⟨by decide +kernel, by decide⟩, not_power (by decide) (by decide), by decide +kernel⟩,
    ⟨2 ^ 23, -23, 0xBF800000, by decide +kernel, by decide⟩, ⟨0x7F800001, by decide +kernel⟩⟩

/-- Values with a NaN, of zeros alone, of 1.0 and 0; a block of 32 mantissas; sums that are not zero, that keep the accumulator, that
cancel, and of two negative zeros; the last scale that is a number. -/
theorem witness_RecordOperations_blocks :
    (∃ vs : List Lane, ∃ v ∈ vs, (Fmt.s.unpack v.toNat).isNan = true) ∧
    (∃ vs : List Lane, vs ≠ [] ∧ ∀ v ∈ vs, v = 0 ∨ v = 0x80000000) ∧
    (∃ (vs : List Lane) (h E : Int), (∀ v ∈ vs, ∃ n k e, Fmt.s.unpack v.toNat = .fin n k e ∧ k < 2 ^ (h + 1 - e).toNat) ∧
      (∃ v ∈ vs, ∃ n k e, Fmt.s.unpack v.toNat = .fin n k e ∧ e ≤ h ∧ 2 ^ (h - e).toNat ≤ k) ∧ E = max (h + 127) 1) ∧
    (∃ ms : List Int, ms.length = 32) ∧
    (∀ y ∈ [((5 : Lane), (0x3F800000 : Lane), (0x3F800000 : Lane), (0x3F800000 : Lane)), (0, 0x3F800000, 0x3F800000, 0x3F800000),
        (1, 0x3F800000, 0x3F800000, 0xBF800000), (0, 0x3F800000, 0x3F800000, 0x80000000)],
      ∃ n1 m1 e1 n2 m2 e2 n0 m0 e0, Fmt.s.unpack y.2.1.toNat = .fin n1 m1 e1 ∧ Fmt.s.unpack y.2.2.1.toNat = .fin n2 m2 e2 ∧
        Fmt.s.unpack y.2.2.2.toNat = .fin n0 m0 e0 ∧ ∃ p E V : Int,
          p = y.1.toInt * ((if n1 = true then -1 else 1) * m1) * ((if n2 = true then -1 else 1) * m2) ∧ E = min e0 (e1 + e2) ∧
          V = (if n0 = true then -1 else 1) * m0 * 2 ^ (e0 - E).toNat + p * 2 ^ (e1 + e2 - E).toNat ∧
          (y.1 = 5 → V ≠ 0) ∧ (y = (0, 0x3F800000, 0x3F800000, 0x3F800000) → p = 0 ∧ 2 ^ 23 ≤ m0) ∧
          (y.1 = 1 → p ≠ 0 ∧ V = 0) ∧ (y.2.2.2 = 0x80000000 → p = 0 ∧ 0 ≤ y.1.toInt ∧ n1 = n2)) ∧
    ∃ a : Lane, a.toNat % 256 = 254 := by
  have one : Fmt.s.unpack (0x3F800000 : Lane).toNat = .fin false 0x800000 (-23) := by decide +kernel
  have less : Fmt.s.unpack (0xBF800000 : Lane).toNat = .fin true 0x800000 (-23) := by decide +kernel
  have none : Fmt.s.unpack (0 : Lane).toNat = .fin false 0 (-149) := by decide +kernel
  have zero : Fmt.s.unpack (0x80000000 : Lane).toNat = .fin true 0 (-149) := by decide +kernel
  refine ⟨⟨[0x7FC00000], _, List.mem_singleton.mpr rfl, by decide +kernel⟩, ⟨[0x80000000, 0], by simp, by simp⟩,
    ⟨[0x3F800000, 0], 0, 127, fun v m => ?_, ⟨0x3F800000, .head _, _, _, _, one, by decide, by decide +kernel⟩, by decide⟩, ⟨List.replicate 32 (-1), rfl⟩, fun y m => ?_,
    ⟨254, by decide⟩⟩
  · rcases List.mem_cons.mp m with rfl | m
    · exact ⟨_, _, _, one, by decide⟩
    · cases List.mem_singleton.mp m
      exact ⟨_, _, _, none, by decide⟩
  · simp only [List.mem_cons, List.not_mem_nil, or_false] at m
    rcases m with rfl | rfl | rfl | rfl
    · exact ⟨_, _, _, _, _, _, _, _, _, one, one, one, _, _, _, rfl, rfl, rfl, by decide +kernel⟩
    · exact ⟨_, _, _, _, _, _, _, _, _, one, one, one, _, _, _, rfl, rfl, rfl, by decide +kernel⟩
    · exact ⟨_, _, _, _, _, _, _, _, _, one, one, less, _, _, _, rfl, rfl, rfl, by decide +kernel⟩
    · exact ⟨_, _, _, _, _, _, _, _, _, one, one, zero, _, _, _, rfl, rfl, rfl, by decide +kernel⟩

/-- A `filter` and an `exit` in the last stage, on the record before it; a unit without them. A record whose lanes all leave the loop, and
one of which one stays. `bdot` and `bquant` of the widest elements, keeping the accumulator or not. -/
theorem witness_RecordOperations_emissions :
    (∀ op ∈ [0x70, 0x73], ∃ v : BitVec 240, cuOp v 3 = op ∧ cuSel v 3 0 = 4 ∧ ∀ j < 4, j ≠ 3 → cuOp v j ≠ 0x70 ∧ cuOp v j ≠ 0x73) ∧
    (∃ v : BitVec 240, ∀ j < 4, cuOp v j ≠ 0x70 ∧ cuOp v j ≠ 0x73) ∧
    (∃ (a : LinkRec) (b : List Lane), a.a ≠ 0 ∧ ∀ i < 16, a.a.getLsbD i = true → b.getD i 0 ≠ 0) ∧
    (∃ (a : LinkRec) (b : List Lane), ∃ i < 16, a.a.getLsbD i = true ∧ b.getD i 0 = 0) ∧
    ∀ op ∈ [0x50, 0x56, 0x57, 0x5D], ∀ acc ∈ [false, true], ∃ (v : BitVec 240) (x : StageIn) (r : LinkRec), cuOp v 0 = op ∧ cuAcc v 0 = acc ∧
      stageRecords v 0 x = [r, r] ∧ r.m.getLsbD 0 = true ∧ r.a.getLsbD 0 = true := by
  refine ⟨fun op m => ⟨BitVec.ofNat 240 ((op + 4 * 2 ^ 8) * 2 ^ 144), ?_⟩, ⟨0, by decide +kernel⟩, ⟨oneLane, [1], by decide +kernel, by decide +kernel⟩,
    ⟨oneLane, [], 0, by decide, by decide +kernel⟩, fun op m acc n => ⟨BitVec.ofNat 240 (op + 2 ^ 11 + 7 * 2 ^ 14 + if acc then 2 ^ 20 else 0),
      stageIn (rec1 1 0 5).asRecord, (rec1 1 0 5).asRecord, ?_⟩⟩
  · revert op; decide +kernel
  · revert acc; revert op; decide +kernel

/-! ### Decoding against words of the table: every constructor that has a word -/

theorem test_decode_alu :
    [0x00326281, 0x00726281, 0x00B26281, 0x00F26281, 0x01326281, 0x01726281, 0x01B26281, 0x01F26281, 0x02326281,
     0x02726281, 0x02B26281, 0x02F26281, 0x03326281, 0x03726281, 0x03B26281, 0x03F26281, 0x04326281, 0x04726281,
     0x04B26281, 0x04F26281, 0x05326281, 0x05406281, 0x05806281, 0x05C06281].map (decodeTableWord 32) =
    ([.add 5 6 25, .sub 5 6 25, .and 5 6 25, .or 5 6 25, .xor 5 6 25, .sll 5 6 25, .srl 5 6 25, .sra 5 6 25,
      .slt 5 6 25, .sltu 5 6 25, .mul 5 6 25, .mulh 5 6 25, .mulhu 5 6 25, .div 5 6 25, .divu 5 6 25, .rem 5 6 25,
      .remu 5 6 25, .min 5 6 25, .max 5 6 25, .minu 5 6 25, .maxu 5 6 25, .clz 5 6, .ctz 5 6, .pop 5 6] : List Instr).map some := by
  decide +kernel

theorem test_decode_alui :
    [0x8F106282, 0x8F126282, 0x8F146282, 0x8F166282, 0x02586282, 0x025A6282, 0x025C6282, 0x8F1E6282].map (decodeTableWord 32) =
    ([.addi 5 6 0x8f1, .andi 5 6 0x8f1, .ori 5 6 0x8f1, .xori 5 6 0x8f1, .slli 5 6 37, .srli 5 6 37, .srai 5 6 37,
      .slti 5 6 0x8f1] : List Instr).map some := by
  decide +kernel

theorem test_decode_branch :
    [0x8F119304, 0x8F139304, 0x8F159304, 0x8F179304, 0x8F199304, 0x8F1B9304].map (decodeTableWord 32) =
    ([.beq 6 25 0x8f1, .bne 6 25 0x8f1, .blt 6 25 0x8f1, .bge 6 25 0x8f1, .bltu 6 25 0x8f1, .bgeu 6 25 0x8f1] : List Instr).map some := by
  decide +kernel

theorem test_decode_jal :
    [0x8F13D285].map (decodeTableWord 32) =
    ([.jal 5 0x8f13d] : List Instr).map some := by
  decide +kernel

theorem test_decode_jalr :
    [0x8F106286].map (decodeTableWord 32) =
    ([.jalr 5 6 0x8f1] : List Instr).map some := by
  decide +kernel

theorem test_decode_lds :
    [0x8F119287, 0x8F139287, 0x8F159287, 0x8F179287, 0x8F199287, 0x8F1B9287, 0x8F1D9287].map (decodeTableWord 32) =
    ([.ldsB 5 25 0x8f1, .ldsH 5 25 0x8f1, .ldsW 5 25 0x8f1, .ldsD 5 25 0x8f1, .ldsBu 5 25 0x8f1, .ldsHu 5 25 0x8f1,
      .ldsWu 5 25 0x8f1] : List Instr).map some := by
  decide +kernel

theorem test_decode_sts :
    [0x8F119488, 0x8F139488, 0x8F159488, 0x8F179488].map (decodeTableWord 32) =
    ([.stsB 9 25 0x8f1, .stsH 9 25 0x8f1, .stsW 9 25 0x8f1, .stsD 9 25 0x8f1] : List Instr).map some := by
  decide +kernel

theorem test_decode_ldg :
    [0x8F119289, 0x8F139289, 0x8F159289, 0x8F179289, 0x8F199289, 0x8F1B9289, 0x8F1D9289].map (decodeTableWord 32) =
    ([.ldgB 5 25 0x8f1, .ldgH 5 25 0x8f1, .ldgW 5 25 0x8f1, .ldgD 5 25 0x8f1, .ldgBu 5 25 0x8f1, .ldgHu 5 25 0x8f1,
      .ldgWu 5 25 0x8f1] : List Instr).map some := by
  decide +kernel

theorem test_decode_stg :
    [0x8F11948A, 0x8F13948A, 0x8F15948A, 0x8F17948A].map (decodeTableWord 32) =
    ([.stgB 9 25 0x8f1, .stgH 9 25 0x8f1, .stgW 9 25 0x8f1, .stgD 9 25 0x8f1] : List Instr).map some := by
  decide +kernel

theorem test_decode_ar :
    [0x0000600B, 0x0040628B, 0x0080628B, 0x00F2600B, 0x0132600B, 0x0140000B].map (decodeTableWord 32) =
    ([.arBegin 6, .arLdW 5 6, .arLdD 5 6, .arStW 6 25, .arStD 6 25, .arEnd] : List Instr).map some := by
  decide +kernel

theorem test_decode_red :
    [0x0032600C, 0x0072600C, 0x00B2600C, 0x00F2600C, 0x0132600C, 0x0172600C, 0x01B2600C].map (decodeTableWord 32) =
    ([.redAddW 6 25, .redAddD 6 25, .redMinW 6 25, .redMaxW 6 25, .redOrW 6 25, .redAndW 6 25, .redFaddS 6 25] : List Instr).map some := by
  decide +kernel

theorem test_decode_sys :
    [0x2A50028D, 0x2A52600D, 0x2A54628D, 0x2A56628D, 0x8F18000D, 0x000A000D, 0x000C000D, 0x005E000D].map (decodeTableWord 32) =
    ([.sysRd 5 0x2a5, .sysWr 0x2a5 6, .sysSet 5 0x2a5 6, .sysClr 5 0x2a5 6, .trap 0x8f1, .eret, .wfi, .fence 5] : List Instr).map some := by
  decide +kernel

theorem test_decode_strm :
    [0x00006010, 0x00400010, 0x00800010, 0x00F20190, 0x01000190, 0x01406190, 0x01B26190].map (decodeTableWord 32) =
    ([.cfgLoad 6, .bar, .barCfg, .arm 3 25, .drain 3, .strmGo 3 6, .strmCond 3 6 25] : List Instr).map some := by
  decide +kernel

theorem test_decode_copy :
    [0x00006092, 0x00406092, 0x00801292].map (decodeTableWord 32) =
    ([.tcopy 1 6, .tcopyDmd 1 6, .tcopyCancel 5 1] : List Instr).map some := by
  decide +kernel

theorem test_decode_tl :
    [0x00320093, 0x00401293, 0x00B20093].map (decodeTableWord 32) =
    ([.tlWait 1 25, .tlRead 5 1, .tlAdv 1 25] : List Instr).map some := by
  decide +kernel

theorem test_decode_task :
    [0x00006015, 0x00726015, 0x00800015, 0x00C00015, 0x01006015, 0x01400295, 0x01800295].map (decodeTableWord 32) =
    ([.spawn 6, .spawnj 6 25, .done, .yield, .abort 6, .tskSelf 5, .tskTs 5] : List Instr).map some := by
  decide +kernel

theorem test_decode_chg :
    [0x00326296, 0x00406296, 0x00806296, 0x00C06296, 0x01000296].map (decodeTableWord 32) =
    ([.chgAdd 5 6 25, .chgRead 5 6, .chgLow 5 6, .chgHold 5 6, .chgSelf 5] : List Instr).map some := by
  decide +kernel

theorem test_decode_ch :
    [0x00006297, 0x00726017, 0x00B26017, 0x00C06297, 0x01326297, 0x01406297, 0x01806297, 0x01C06297, 0x02326297].map (decodeTableWord 32) =
    ([.chOpen 5 6, .chPushW 6 25, .chPushD 6 25, .chPopW 5 6, .chPopD 5 6 25, .chPeek 5 6, .chClose 5 6, .chStat 5 6,
      .chBind 5 6 25] : List Instr).map some := by
  decide +kernel

theorem test_decode_mx :
    [0x00326198, 0x00726018, 0x00806018, 0x00F26198, 0x01326018, 0x01726018, 0x01B26018, 0x01C06298, 0x02006018].map (decodeTableWord 32) =
    ([.mxFmt 3 6 25, .mxLds 6 25, .mxSwap 6, .mxArm 3 6 25, .mxGroup 6 25, .mxCsr 6 25, .mxCond 6 25, .mxStat 5 6,
      .mxClr 6] : List Instr).map some := by
  decide +kernel

/-! ### Decoding against words of the spec, bit by bit -/

/-- The example word of R35. -/
theorem test_decode_nest_example :
    decodeTableWord 256 0x0040100400000000000F0020000A4311 = some (.nest sum16) ∧
    decodeTableWord 256 0x0040100400000000000F0020800A4311 = none := by
  decide +kernel

/-- One word of each format, its fields written apart from R28–R35: [31:22] FN, xb, xa, xd, major; [31:20] immediate,
[19:17] the small code, xa, xd, major; [31:12] offset, xd, major. -/
theorem test_decode_bits :
    decodeTableWord 32 0b0000000001_00111_00110_00101_0000001 = some (.sub 5 6 7) ∧
    decodeTableWord 32 0b000000000011_100_00110_00101_0000010 = some (.slli 5 6 3) ∧
    decodeTableWord 64 0b10000000000000000000000000000001_0000000001_00000_00110_00101_0000011 = some (.lih 5 6 0x80000001) ∧
    decodeTableWord 32 0b100000000001_101_00110_00101_0000100 = some (.bgeu 5 6 0x801) ∧
    decodeTableWord 32 0b10000000000000000001_00001_0000101 = some (.jal 1 0x80001) ∧
    decodeTableWord 32 0b100000000001_000_00001_00101_0000110 = some (.jalr 5 1 0x801) ∧
    decodeTableWord 32 0b000001000000_010_01001_01000_0000111 = some (.ldsW 8 9 64) ∧
    decodeTableWord 32 0b100000000000_011_01001_01000_0001000 = some (.stsD 8 9 0x800) ∧
    decodeTableWord 32 0b111111111111_100_00110_00101_0001001 = some (.ldgBu 5 6 0xFFF) ∧
    decodeTableWord 32 0b000000000100_010_00101_00111_0001010 = some (.stgW 7 5 4) ∧
    decodeTableWord 32 0b0000000011_00110_00101_00000_0001011 = some (.arStW 5 6) ∧
    decodeTableWord 32 0b0000000110_00110_00101_00000_0001100 = some (.redFaddS 5 6) ∧
    decodeTableWord 32 0b000000000110_111_00000_00000_0001101 = some (.fence 6) ∧
    decodeTableWord 32 0b0000000110_00110_00101_00001_0010000 = some (.strmCond 1 5 6) ∧
    decodeTableWord 32 0b0000000010_00000_00001_01000_0010010 = some (.tcopyCancel 8 1) ∧
    decodeTableWord 32 0b0000000010_00101_00000_00100_0010011 = some (.tlAdv 4 5) ∧
    decodeTableWord 32 0b0000000001_00110_00101_00000_0010101 = some (.spawnj 5 6) ∧
    decodeTableWord 32 0b0000000000_00110_00101_00111_0010110 = some (.chgAdd 7 5 6) ∧
    decodeTableWord 32 0b0000000100_00110_00101_00111_0010111 = some (.chPopD 7 5 6) ∧
    decodeTableWord 32 0b0000000011_00110_00101_00001_0011000 = some (.mxArm 1 5 6) := by
  decide +kernel

/-- The wide words of R140. -/
theorem test_decode_wide :
    decodeTableWord 64 0x8765432100000383 = some (.li 7 0x87654321) ∧
    decodeTableWord 64 0x0000000900407383 = some (.lih 7 7 9) ∧
    decodeTableWord 64 0xFFFE796000806283 = some (.addiw 5 6 0xFFFE7960) := by
  decide +kernel

/-- What R46 names: the zero word, unassigned majors, unlisted codes, reserved fields not zero, timelines and sections
of 8 and above, shifts of 64, a long word cut short. -/
theorem test_decode_rejects :
    [0x00000000, 0x00000080, 0x0000000E, 0x0000000F, 0x00000014, 0x00000019, 0x0000007F].all
      (fun w => decodeTableWord 32 w == none) = true ∧
    [0b0000011000_00000_00000_00001_0000001, 0b000000000000_110_00000_00001_0000100, 0b000000000000_001_00000_00001_0000110,
     0b000000000000_111_00000_00001_0000111, 0b000000000000_100_00000_00001_0001000, 0b0000000011_00000_00000_00001_0000011,
     0b0000000110_00000_00001_00000_0001011, 0b0000000111_00000_00001_00000_0001100, 0b0000000111_00000_00000_00000_0010000,
     0b0000000011_00000_00000_00000_0010011, 0b0000001001_00000_00000_00000_0010111].all
      (fun w => decodeTableWord 64 w == none) = true ∧
    [0b0000010101_00001_01010_01001_0000001, 0b000001000000_100_00110_00101_0000010, 0b000000000000_000_00001_00101_0001101,
     0b000000001000_111_00000_00000_0001101, 0b0000000000_00000_00101_00001_0010000, 0b0000000000_00001_00101_00000_0010101].all
      (fun w => decodeTableWord 32 w == none) = true ∧
    [0b0000000100_00000_00000_01000_0010000, 0b0000000000_00110_00000_01000_0010011, 0b0000000011_00110_00101_11111_0011000,
     0b0000000000_00000_00100_00010_0010010].all (fun w => decodeTableWord 32 w == none) = true ∧
    decode (leBytes (0x00000383 : BitVec 32) 4) = .error .short := by
  decide +kernel

/-! ### Well-formed terms: one ill-formed term for each check -/

def badNest (lv : List NestLevel) (rl : BitVec 3) : Instr := .nest { sum16 with lv := lv, rl := rl }

theorem test_wf_refuses :
    ([.arm 8 1, .drain 31, .strmGo 8 1, .strmCond 9 1 2, .mxFmt 8 1 2, .mxArm 8 1 2,
      badNest [] 0, badNest (List.replicate 6 ⟨1, 1, 1, 1⟩) 0, badNest [⟨1, 1, 1, 1⟩] 1,
      .tcopy 2 1, .tcopyDmd 2 1, .tcopyCancel 1 2, .tlWait 8 1, .tlRead 1 8, .tlAdv 8 1,
      .notificationWrite 4 0 0, .notificationWrite 0 2 0, .queueSlotMap 4, .placementDecision 4, .fundingStall 4,
      .placementStall 4, .channelDetectorSample 4, .bureauTrapEntry 4, .wfiWake 4, .timerExpiry 4, .preemptByRecord 4,
      .preemptDiscard 4, .preemptDrop 4, .tlbInvalidateComplete 4, .doorbellRead 4, .throttleSetOne 4 0,
      .throttleSetAll 4 0, .tlbiPage 4 0, .tlbiContext 4 0, .tlbiAll 4, .homeSliceWrite 4 0, .homePageMoveComplete 4 0,
      .wayGate 4 0, .wayWake 4 0, .doorbellWrite 4 0, .registerWrite 4 0 0, .timeSliceEnd 0 64, .timeSliceEnd 4 0,
      .launchEntryRead 0 64, .stealRequest 0 104, .stealWithdraw 4 0, .cupboardSpaceAbort 0 104] : List Instr).all
      (fun i => !i.wf) = true ∧
    ([.cuFire 1 1024, .fibreUnitFire 1 1024, .joinStep 1 1024, .pmtEnter 1 1024, .pmtExit 1 1024, .ctlSeq 1 1024,
      .ctlPipe 1 1024, .ctlStrm 1 1024, .barNode 1 1024, .muAccess 1 1024, .portalReply 1 1024 0 true 0,
      .portalTimeout 1 1024 0, .affineElement 1 1024, .affineElement 1 2, .gatherRequest 1 1, .scatterStore 1 3,
      .levelExpand 1 1024, .channelAgElement 1 1, .gatherReply 1 2 0, .copyLaunch 1 16 0, .copyComplete 1 0 2,
      .planeLoadRun 1 16, .planeSwapRun 1 16, .matrixTile 1 16, .activationRow 1 16, .matrixMigration 1 16 ⟨true, 0⟩,
      .channelForward 0 65536, .channelPeerAck 0 ⟨65536, true, 0⟩, .peerBindHandshake 0 65536 0 0 0 ⟨true, 0⟩, .peerUnbind 0 65536 true, .linkFailure 0 16, .linkFailure 4 0,
      .faultRetry 0 1024, .faultFail 4 0, .thermalSample 0 107 0, .eccEvent 0 107 true 0 0, .wayAwake 0 0 4 0,
      .wayAwake 0 0 0 16, .wayAwake 0 104 0 0, .hcwCtlWrite 8 0, .hostWrite 0 (List.replicate 4097 0),
      .cxlMemWrite 32 (List.replicate 64 0), .cxlMemWrite 0 [], .cxlCacheSnoop 1 none, .cxlCacheSnoop 0 (some []),
      .hostRead 0 4097] : List Instr).all (fun i => !i.wf) = true := by
  decide +kernel

/-! ### Single steps against the spec's own numbers -/

/-- What one instruction leaves in a register of Bureau 0. -/
def onBur (i : Instr) (rs : List (Reg × Word)) (d : Reg) : Option Word :=
  match exec i (onB (bur rs)) with
  | .next s => some ((s.die 0).bureau.x d)
  | _ => none

/-- The division table of R138. -/
theorem test_divide :
    onBur (.div 3 1 2) [] 3 = some 0 ∧ onBur (.div 3 1 2) [(1, 5)] 3 = some 0x7FFFFFFFFFFFFFFF ∧
    onBur (.div 3 1 2) [(1, -5)] 3 = some 0x8000000000000000 ∧ onBur (.divu 3 1 2) [(1, 5)] 3 = some (-1) ∧
    onBur (.div 3 1 2) [(1, 0x8000000000000000), (2, -1)] 3 = some 0x7FFFFFFFFFFFFFFF ∧
    onBur (.div 3 1 2) [(1, -7), (2, 2)] 3 = some (-3) ∧ onBur (.rem 3 1 2) [(1, -7), (2, 2)] 3 = some (-1) := by
  decide +kernel

theorem test_remainder :
    onBur (.rem 3 1 2) [(1, -5)] 3 = some (-5) ∧ onBur (.remu 3 1 2) [(1, 5)] 3 = some 5 ∧
    onBur (.rem 3 1 2) [(1, 0x8000000000000000), (2, -1)] 3 = some 0 := by
  decide +kernel

/-- A sign moves in from the left; only the low six bits of the count matter (R138). -/
theorem test_shift :
    onBur (.sra 3 1 2) [(1, -8), (2, 65)] 3 = some (-4) ∧ onBur (.srl 3 1 2) [(1, -8), (2, 63)] 3 = some 1 ∧
    onBur (.clz 3 1) [] 3 = some 64 ∧ onBur (.ctz 3 1) [(1, 8)] 3 = some 3 ∧ onBur (.pop 3 1) [(1, -1)] 3 = some 64 := by
  decide +kernel

theorem test_high_product :
    onBur (.mulh 3 1 2) [(1, -1), (2, -1)] 3 = some 0 ∧ onBur (.mulhu 3 1 2) [(1, -1), (2, -1)] 3 = some (-2) ∧
    onBur (.mulh 1 1 2) [(1, -1), (2, 5)] 1 = some (-1) := by
  decide +kernel

/-- The example of R140: x7 = 0xFFFF_FFFF_8765_4321, then 0x0000_0009_8765_4321. -/
theorem test_wide_immediates :
    onBur (.li 7 0x87654321) [] 7 = some 0xFFFFFFFF87654321 ∧
    onBur (.lih 7 7 9) [(7, 0xFFFFFFFF87654321)] 7 = some 0x0000000987654321 ∧
    onBur (.addiw 0 7 9) [(7, 1)] 0 = some 0 := by
  decide +kernel

/-- Where Bureau 0 goes, and the trap it stands in. -/
def burPc (i : Instr) (rs : List (Reg × Word)) : Option (Word × BitVec 8 × Word) :=
  match exec i (onB (bur rs)) with
  | .next s => some ((s.die 0).bureau.pc, (s.die 0).bureau.code, (s.die 0).bureau.tpc)
  | _ => none

/-- R141 and R142: offsets count words; the link register may be the base. -/
theorem test_jump_targets :
    burPc (.blt 5 6 3) [(5, -1)] = some (0x4C, 0, 0) ∧ burPc (.bltu 5 6 3) [(5, -1)] = some (0x44, 0, 0) ∧
    burPc (.beq 0 0 0xFFF) [] = some (0x3C, 0, 0) ∧ burPc (.jal 1 16) [] = some (0x80, 0, 0) ∧
    burPc (.jalr 1 1 0xFFC) [(1, 0x104)] = some (0x100, 0, 0) ∧ onBur (.jalr 1 1 0) [(1, 0x100)] 1 = some 0x44 := by
  decide +kernel

/-- R137 and R143: a misaligned access, one beyond private memory, a task instruction; the handler stands at the vector. -/
theorem test_bureau_traps :
    (burPc (.ldsW 5 6 0) [(6, 2)]).map (·.2) = some (3, 0x40) ∧ (burPc (.ldsW 5 6 0) [(6, 0x10000)]).map (·.2) = some (5, 0x40) ∧
    (burPc .bar []).map (·.2) = some (1, 0x40) := by
  decide +kernel

/-- A byte load extends its sign, and the narrow one its zeros (R144). -/
theorem test_scratch_load :
    (∀ m ∈ [Memory.write [] 8 [0x80, 0xFF]],
      (match exec (.ldsB 5 6 0) (onB { bur [(6, 8)] with priv := m }) with
        | .next s => some ((s.die 0).bureau.x 5) | _ => none) = some 0xFFFFFFFFFFFFFF80 ∧
      (match exec (.ldsHu 5 6 0) (onB { bur [(6, 8)] with priv := m }) with
        | .next s => some ((s.die 0).bureau.x 5) | _ => none) = some 0xFF80) := by
  decide +kernel

/-- The table of R346: 84 °C leaks 4 and stops at 0; 95 °C stands still; 119 °C gains 60. -/
theorem test_damage :
    damageNext 3 84 = 0 ∧ damageNext 10 95 = 10 ∧ damageNext 10 104 = 14 ∧ damageNext 0 119 = 60 ∧
    damageNext 0xFFFFFFFF 119 = 0xFFFFFFFF := by
  decide

/-- What a task's own gate does: an instruction draws one grain and moves on. -/
theorem test_draw :
    (match exec (.chgSelf 10) (with1 base (tsk [])) with
      | .next s => s.tasks.head?.map fun t => (t.x 10, t.account, t.pc) | _ => none) = some (1583, 1583, 0x44) := by
  decide +kernel

/-- `chg.low` returns the old mark, and takes the low 32 bits (R120). -/
theorem test_low_mark :
    (match exec (.chgLow 9 6) (with1 base { tsk [(6, 0x500000010)] with mark := 7 }) with
      | .next s => s.tasks.head?.map fun t => (t.x 9, t.mark) | _ => none) = some (7, 16) := by
  decide +kernel

/-- A store is seen by its own task at once, and memory keeps the old byte until the commit (R146). -/
theorem test_store_is_own :
    (match exec (.stgW 7 5 4) (with1 base (tsk [(5, 0x1000), (7, 0x11223344)])) with
      | .next s => some (s.byteAt 0x1004, match exec (.ldgBu 8 5 5) s with
          | .next u => u.tasks.head?.map fun t => t.x 8 | _ => none) | _ => none) = some (0, some 0x33) := by
  decide +kernel

end Sys2Proof.Tests
end

section
/-! SUPPORT. What decodes is canonical: the decoder of each major accepts only what its words are the encoding of
(R4, R28–R35, R45, R46), and O4. -/
namespace Sys2Proof.Laws.Decoding

open Sys2Proof Sys2Proof.Laws.Encoding

/-! ### Bytes of a word read back -/

theorem ofLeBytes_lt (l : List Byte) : ofLeBytes l < 2 ^ (8 * l.length) := by
  induction l with
  | nil => decide
  | cons b r ih =>
    have hb : b.toNat < 256 := b.isLt
    have hpow : 2 ^ (8 * (r.length + 1)) = 2 ^ (8 * r.length) * 256 := Nat.pow_add 2 (8 * r.length) 8
    simp only [ofLeBytes, List.length_cons]
    omega

/-- Byte `i` of the number that bytes hold. -/
theorem ofNat_ofLeBytes_shiftRight (l : List Byte) {i : Nat} (h : i < l.length) :
    BitVec.ofNat 8 (ofLeBytes l >>> (8 * i)) = l[i] := by
  induction l generalizing i with
  | nil => simp at h
  | cons b r ih =>
    have hb : b.toNat < 256 := b.isLt
    cases i with
    | zero => apply BitVec.eq_of_toNat_eq; simp [ofLeBytes, hb]
    | succ j =>
      have hshift : ofLeBytes (b :: r) >>> (8 * (j + 1)) = ofLeBytes r >>> (8 * j) := by
        rw [show 8 * (j + 1) = 8 + 8 * j by omega, Nat.shiftRight_add]
        congr 1
        simp only [ofLeBytes, Nat.shiftRight_eq_div_pow]
        omega
      simpa [hshift] using ih (by simpa using h)

/-- The bytes of the word that bytes hold are those bytes (R2). -/
theorem leBytes_wordAt {n : Nat} {bs : List Byte} (h : n ≤ bs.length) :
    leBytes (wordAt bs (8 * n) n) n = bs.take n := by
  have hlen : (bs.take n).length = n := by simp [h]
  apply List.ext_getElem
  · simp [leBytes, h]
  · intro i hi hi'
    rw [← ofNat_ofLeBytes_shiftRight (bs.take n) hi']
    have hlt := ofLeBytes_lt (bs.take n)
    rw [hlen] at hlt
    simp [leBytes, wordAt, BitVec.extractLsb', Nat.mod_eq_of_lt hlt]

/-! ### Fields of a word put together -/

/-- Two neighbouring fields are one field. -/
theorem field_append_field {m : Nat} (w : BitVec m) {hi lo j k : Nat} (h : hi = lo + k) :
    field w hi j ++ field w lo k = field w lo (j + k) := by
  subst h
  ext i hi
  simp only [field, BitVec.getElem_append, BitVec.getElem_extractLsb']
  split
  · rfl
  · congr 1; omega

/-- A concatenation is zero only where both parts are. -/
theorem append_eq_zero {m n : Nat} {x : BitVec m} {y : BitVec n} (h : x ++ y = 0) : x = 0 ∧ y = 0 := by
  constructor
  · rw [← field_all x, ← Nat.sub_self n, ← field_append_high x y n m le_rfl, h]; simp [field]
  · rw [← field_all y, ← field_append_low x y 0 n (by omega), h]; simp [field]

/-- A Format A word is its fields (R28). -/
theorem encA_fields (w : BitVec 32) :
    encA (field w 0 7) (field w 7 5) (field w 12 5) (field w 17 5) (field w 22 10) = w := by
  simp (disch := decide) only [encA, field_append_field]
  exact field_all w

/-- A Format B, M or S word is its fields (R28). -/
theorem encB_fields (w : BitVec 32) :
    encB (field w 0 7) (field w 7 5) (field w 12 5) (field w 17 3) (field w 20 12) = w := by
  simp (disch := decide) only [encB, field_append_field]
  exact field_all w

/-- A Format J word is its fields (R28). -/
theorem encJ_fields (w : BitVec 32) : encJ (field w 0 7) (field w 7 5) (field w 12 20) = w := by
  simp (disch := decide) only [encJ, field_append_field]
  exact field_all w

/-! ### What a decoder answers -/

/-- Whatever instruction a decoder answers is well formed, and `ws` are the words of its encoding. -/
def Canonical (r : Except Reject Instr) (ws : List (BitVec 32)) : Prop :=
  ∀ i, r = .ok i → i.wf = true ∧ encode i = some ws

theorem canonical_ok {i : Instr} {ws : List (BitVec 32)} (hw : i.wf = true) (he : encode i = some ws) :
    Canonical (.ok i) ws := by
  rintro _ ⟨⟩
  exact ⟨hw, he⟩

/-- A word that is refused has no meaning to be canonical. -/
theorem canonical_error {e : Reject} {ws : List (BitVec 32)} : Canonical (.error e) ws := by
  rintro _ ⟨⟩

/-- What stands under a check holds of the words that pass it. -/
theorem canonical_ite {c : Prop} [Decidable c] {r : Except Reject Instr} {e : Reject} {ws : List (BitVec 32)}
    (h : c → Canonical r ws) : Canonical (if c then r else .error e) ws := by
  split
  · exact h ‹_›
  · exact canonical_error

/-- A reserved field that is accepted is zero (R4). -/
theorem canonical_needZero {n : Nat} {r : BitVec n} {i : Instr} {ws : List (BitVec 32)}
    (h : r = 0 → Canonical (.ok i) ws) : Canonical (needZero r i) ws := canonical_ite h

/-- The same of a reserved field in two parts. -/
theorem canonical_needZero_pair {m n : Nat} {x : BitVec m} {y : BitVec n} {i : Instr} {ws : List (BitVec 32)}
    (h : x = 0 → y = 0 → Canonical (.ok i) ws) : Canonical (needZero (x ++ y) i) ws :=
  canonical_needZero fun hr => h (append_eq_zero hr).1 (append_eq_zero hr).2

/-- The same of a reserved field in three parts. -/
theorem canonical_needZero_triple {l m n : Nat} {x : BitVec l} {y : BitVec m} {z : BitVec n} {i : Instr}
    {ws : List (BitVec 32)} (h : x = 0 → y = 0 → z = 0 → Canonical (.ok i) ws) :
    Canonical (needZero (x ++ y ++ z) i) ws :=
  canonical_needZero_pair fun hxy => h (append_eq_zero hxy).1 (append_eq_zero hxy).2

/-- A timeline or section field that is accepted is below 8 (R29). -/
theorem canonical_needNumber {n : BitVec 5} {i : Instr} {ws : List (BitVec 32)}
    (h : decide (n.toNat < 8) = true → Canonical (.ok i) ws) : Canonical (needNumber n i) ws :=
  canonical_ite fun hn => h (decide_eq_true hn)

/-- An instruction whose encoding is the Format A word with the fields of `w`, before the words `ws`. -/
theorem canonical_formatA {i : Instr} {w : BitVec 32} {ws : List (BitVec 32)} {m : BitVec 7} {d a b : BitVec 5}
    {fn : BitVec 10} (he : encode i = some (encA m d a b fn :: ws)) (hm : (field w 0 7).toNat = m.toNat)
    (hf : (field w 22 10).toNat = fn.toNat) (hd : field w 7 5 = d) (ha : field w 12 5 = a) (hb : field w 17 5 = b)
    (hw : i.wf = true) : Canonical (.ok i) (w :: ws) := by
  refine canonical_ok hw ?_
  rw [he, ← BitVec.eq_of_toNat_eq hm, ← BitVec.eq_of_toNat_eq hf, ← hd, ← ha, ← hb, encA_fields]

/-- An instruction whose encoding is the Format B, M or S word with the fields of `w`. -/
theorem canonical_formatB {i : Instr} {w : BitVec 32} {m : BitVec 7} {d a : BitVec 5} {fn : BitVec 3} {imm : BitVec 12}
    (he : encode i = some [encB m d a fn imm]) (hm : (field w 0 7).toNat = m.toNat)
    (hf : (field w 17 3).toNat = fn.toNat) (hd : field w 7 5 = d) (ha : field w 12 5 = a) (himm : field w 20 12 = imm)
    (hw : i.wf = true) : Canonical (.ok i) [w] := by
  refine canonical_ok hw ?_
  rw [he, ← BitVec.eq_of_toNat_eq hm, ← BitVec.eq_of_toNat_eq hf, ← hd, ← ha, ← himm, encB_fields]

/-! ### The majors of R45: the listed minors are canonical, with their reserved fields zero -/

section
variable {w : BitVec 32}

/-- The last of the eight values of an FN3 field. -/
theorem fn3_eq_seven {f : BitVec 3} (h0 : f.toNat ≠ 0) (h1 : f.toNat ≠ 1) (h2 : f.toNat ≠ 2) (h3 : f.toNat ≠ 3)
    (h4 : f.toNat ≠ 4) (h5 : f.toNat ≠ 5) (h6 : f.toNat ≠ 6) : f.toNat = 7 := by
  have := f.isLt
  omega

theorem decodeAlu_canonical (hm : (field w 0 7).toNat = 0x01) : Canonical (decodeAlu w) [w] := by
  unfold decodeAlu
  dsimp only
  split
  iterate 21 next hf => exact canonical_formatA rfl hm hf rfl rfl rfl rfl
  iterate 3 next hf => exact canonical_needZero fun hb => canonical_formatA rfl hm hf rfl rfl hb rfl
  exact canonical_error

/-- The immediate of a shift whose reserved bits are zero is its count. -/
theorem shift_imm (hz : field w 26 6 = 0) : field w 20 12 = (0 : BitVec 6) ++ field w 20 6 := by
  rw [← hz]
  exact (field_append_field w (lo := 20) (j := 6) (k := 6) rfl).symm

theorem decodeAlui_canonical (hm : (field w 0 7).toNat = 0x02) : Canonical (decodeAlui w) [w] := by
  unfold decodeAlui
  dsimp only
  split
  iterate 4 next hf => exact canonical_formatB rfl hm hf rfl rfl rfl rfl
  iterate 3 next hf => exact canonical_needZero fun hz => canonical_formatB rfl hm hf rfl rfl (shift_imm hz) rfl
  next h0 h1 h2 h3 h4 h5 h6 =>
    exact canonical_formatB rfl hm (fn3_eq_seven h0 h1 h2 h3 h4 h5 h6) rfl rfl rfl rfl

theorem decodeBranch_canonical (hm : (field w 0 7).toNat = 0x04) : Canonical (decodeBranch w) [w] := by
  unfold decodeBranch
  dsimp only
  split
  iterate 6 next hf => exact canonical_formatB rfl hm hf rfl rfl rfl rfl
  exact canonical_error

theorem decodeJalr_canonical (hm : (field w 0 7).toNat = 0x06) : Canonical (decodeJalr w) [w] :=
  canonical_ite fun hf => canonical_formatB rfl hm (congrArg BitVec.toNat hf) rfl rfl rfl rfl

theorem decodeLds_canonical (hm : (field w 0 7).toNat = 0x07) : Canonical (decodeLds w) [w] := by
  unfold decodeLds
  dsimp only
  split
  iterate 7 next hf => exact canonical_formatB rfl hm hf rfl rfl rfl rfl
  exact canonical_error

theorem decodeSts_canonical (hm : (field w 0 7).toNat = 0x08) : Canonical (decodeSts w) [w] := by
  unfold decodeSts
  dsimp only
  split
  iterate 4 next hf => exact canonical_formatB rfl hm hf rfl rfl rfl rfl
  exact canonical_error

theorem decodeLdg_canonical (hm : (field w 0 7).toNat = 0x09) : Canonical (decodeLdg w) [w] := by
  unfold decodeLdg
  dsimp only
  split
  iterate 7 next hf => exact canonical_formatB rfl hm hf rfl rfl rfl rfl
  exact canonical_error

theorem decodeStg_canonical (hm : (field w 0 7).toNat = 0x0A) : Canonical (decodeStg w) [w] := by
  unfold decodeStg
  dsimp only
  split
  iterate 4 next hf => exact canonical_formatB rfl hm hf rfl rfl rfl rfl
  exact canonical_error

theorem decodeAtomic_canonical (hm : (field w 0 7).toNat = 0x0B) : Canonical (decodeAtomic w) [w] := by
  unfold decodeAtomic
  dsimp only
  split
  next hf => exact canonical_needZero_pair fun hd hb => canonical_formatA rfl hm hf hd rfl hb rfl
  iterate 2 next hf => exact canonical_needZero fun hb => canonical_formatA rfl hm hf rfl rfl hb rfl
  iterate 2 next hf => exact canonical_needZero fun hd => canonical_formatA rfl hm hf hd rfl rfl rfl
  next hf => exact canonical_needZero_triple fun hd ha hb => canonical_formatA rfl hm hf hd ha hb rfl
  exact canonical_error

theorem decodeRed_canonical (hm : (field w 0 7).toNat = 0x0C) : Canonical (decodeRed w) [w] := by
  unfold decodeRed
  dsimp only
  split
  iterate 7 next hf => exact canonical_needZero fun hd => canonical_formatA rfl hm hf hd rfl rfl rfl
  exact canonical_error

/-- The number field of a `fence` whose reserved bits are zero is its mask. -/
theorem fence_imm (hz : field w 23 9 = 0) : field w 20 12 = (0 : BitVec 9) ++ field w 20 3 := by
  rw [← hz]
  exact (field_append_field w (lo := 20) (j := 9) (k := 3) rfl).symm

theorem decodeSys_canonical (hm : (field w 0 7).toNat = 0x0D) : Canonical (decodeSys w) [w] := by
  unfold decodeSys
  dsimp only
  split
  next hf => exact canonical_needZero fun ha => canonical_formatB rfl hm hf rfl ha rfl rfl
  next hf => exact canonical_needZero fun hd => canonical_formatB rfl hm hf hd rfl rfl rfl
  iterate 2 next hf => exact canonical_formatB rfl hm hf rfl rfl rfl rfl
  next hf => exact canonical_needZero_pair fun ha hd => canonical_formatB rfl hm hf hd ha rfl rfl
  iterate 2 next hf => exact canonical_needZero_triple fun hi ha hd => canonical_formatB rfl hm hf hd ha hi rfl
  next h0 h1 h2 h3 h4 h5 h6 =>
    exact canonical_needZero_triple fun hz ha hd =>
      canonical_formatB rfl hm (fn3_eq_seven h0 h1 h2 h3 h4 h5 h6) hd ha (fence_imm hz) rfl

theorem decodeStream_canonical (hm : (field w 0 7).toNat = 0x10) : Canonical (decodeStream w) [w] := by
  unfold decodeStream
  dsimp only
  split
  next hf => exact canonical_needZero_pair fun hd hb => canonical_formatA rfl hm hf hd rfl hb rfl
  iterate 2 next hf => exact canonical_needZero_triple fun hd ha hb => canonical_formatA rfl hm hf hd ha hb rfl
  next hf => exact canonical_ite fun ha => canonical_needNumber fun hn => canonical_formatA rfl hm hf rfl ha rfl hn
  next hf => exact canonical_ite fun hr =>
    have ⟨ha, hb⟩ := append_eq_zero hr
    canonical_needNumber fun hn => canonical_formatA rfl hm hf rfl ha hb hn
  next hf => exact canonical_ite fun hb => canonical_needNumber fun hn => canonical_formatA rfl hm hf rfl rfl hb hn
  next hf => exact canonical_needNumber fun hn => canonical_formatA rfl hm hf rfl rfl rfl hn
  exact canonical_error

theorem decodeCopy_canonical (hm : (field w 0 7).toNat = 0x12) : Canonical (decodeCopy w) [w] := by
  unfold decodeCopy
  dsimp only
  split
  iterate 3
    next hf => exact canonical_ite fun hn => canonical_needZero fun hb =>
      canonical_formatA rfl hm hf rfl rfl hb (decide_eq_true hn)
  exact canonical_error

theorem decodeTimeline_canonical (hm : (field w 0 7).toNat = 0x13) : Canonical (decodeTimeline w) [w] := by
  unfold decodeTimeline
  dsimp only
  split
  next hf => exact canonical_ite fun ha => canonical_needNumber fun hn => canonical_formatA rfl hm hf rfl ha rfl hn
  next hf => exact canonical_ite fun hb => canonical_needNumber fun hn => canonical_formatA rfl hm hf rfl rfl hb hn
  next hf => exact canonical_ite fun ha => canonical_needNumber fun hn => canonical_formatA rfl hm hf rfl ha rfl hn
  exact canonical_error

theorem decodeTask_canonical (hm : (field w 0 7).toNat = 0x15) : Canonical (decodeTask w) [w] := by
  unfold decodeTask
  dsimp only
  split
  next hf => exact canonical_needZero_pair fun hd hb => canonical_formatA rfl hm hf hd rfl hb rfl
  next hf => exact canonical_needZero fun hd => canonical_formatA rfl hm hf hd rfl rfl rfl
  iterate 2 next hf => exact canonical_needZero_triple fun hd ha hb => canonical_formatA rfl hm hf hd ha hb rfl
  next hf => exact canonical_needZero_pair fun hd hb => canonical_formatA rfl hm hf hd rfl hb rfl
  iterate 2 next hf => exact canonical_needZero_pair fun ha hb => canonical_formatA rfl hm hf rfl ha hb rfl
  exact canonical_error

theorem decodeCharge_canonical (hm : (field w 0 7).toNat = 0x16) : Canonical (decodeCharge w) [w] := by
  unfold decodeCharge
  dsimp only
  split
  next hf => exact canonical_formatA rfl hm hf rfl rfl rfl rfl
  iterate 3 next hf => exact canonical_needZero fun hb => canonical_formatA rfl hm hf rfl rfl hb rfl
  next hf => exact canonical_needZero_pair fun ha hb => canonical_formatA rfl hm hf rfl ha hb rfl
  exact canonical_error

theorem decodeChannel_canonical (hm : (field w 0 7).toNat = 0x17) : Canonical (decodeChannel w) [w] := by
  unfold decodeChannel
  dsimp only
  split
  next hf => exact canonical_needZero fun hb => canonical_formatA rfl hm hf rfl rfl hb rfl
  iterate 2 next hf => exact canonical_needZero fun hd => canonical_formatA rfl hm hf hd rfl rfl rfl
  next hf => exact canonical_needZero fun hb => canonical_formatA rfl hm hf rfl rfl hb rfl
  next hf => exact canonical_formatA rfl hm hf rfl rfl rfl rfl
  iterate 3 next hf => exact canonical_needZero fun hb => canonical_formatA rfl hm hf rfl rfl hb rfl
  next hf => exact canonical_formatA rfl hm hf rfl rfl rfl rfl
  exact canonical_error

theorem decodeMatrix_canonical (hm : (field w 0 7).toNat = 0x18) : Canonical (decodeMatrix w) [w] := by
  unfold decodeMatrix
  dsimp only
  split
  next hf => exact canonical_needNumber fun hn => canonical_formatA rfl hm hf rfl rfl rfl hn
  next hf => exact canonical_needZero fun hd => canonical_formatA rfl hm hf hd rfl rfl rfl
  next hf => exact canonical_needZero_pair fun hd hb => canonical_formatA rfl hm hf hd rfl hb rfl
  next hf => exact canonical_needNumber fun hn => canonical_formatA rfl hm hf rfl rfl rfl hn
  iterate 3 next hf => exact canonical_needZero fun hd => canonical_formatA rfl hm hf hd rfl rfl rfl
  next hf => exact canonical_needZero fun hb => canonical_formatA rfl hm hf rfl rfl hb rfl
  next hf => exact canonical_needZero_pair fun hd hb => canonical_formatA rfl hm hf hd rfl hb rfl
  exact canonical_error

/-- Every one-word instruction is canonical (R45). -/
theorem decodeWord_canonical : Canonical (decodeWord w) [w] := by
  unfold decodeWord
  split
  · exact canonical_error
  · split
    next hm => exact decodeAlu_canonical hm
    next hm => exact decodeAlui_canonical hm
    next hm => exact decodeBranch_canonical hm
    next hm =>
      refine canonical_ok rfl (congrArg (fun x => some [x]) ?_)
      rw [show (0x05 : BitVec 7) = field w 0 7 from (BitVec.eq_of_toNat_eq hm).symm, encJ_fields]
    next hm => exact decodeJalr_canonical hm
    next hm => exact decodeLds_canonical hm
    next hm => exact decodeSts_canonical hm
    next hm => exact decodeLdg_canonical hm
    next hm => exact decodeStg_canonical hm
    next hm => exact decodeAtomic_canonical hm
    next hm => exact decodeRed_canonical hm
    next hm => exact decodeSys_canonical hm
    next hm => exact decodeStream_canonical hm
    next hm => exact decodeCopy_canonical hm
    next hm => exact decodeTimeline_canonical hm
    next hm => exact decodeTask_canonical hm
    next hm => exact decodeCharge_canonical hm
    next hm => exact decodeChannel_canonical hm
    next hm => exact decodeMatrix_canonical hm
    exact canonical_error

theorem decodeWide_canonical {imm : BitVec 32} (hm : (field w 0 7).toNat = 0x03) :
    Canonical (decodeWide w imm) [w, imm] := by
  unfold decodeWide
  dsimp only
  split
  next hf => exact canonical_needZero_pair fun hb ha => canonical_formatA rfl hm hf rfl ha hb rfl
  iterate 2 next hf => exact canonical_needZero fun hb => canonical_formatA rfl hm hf rfl rfl hb rfl
  exact canonical_error

end

/-! ### The `nest` word (R34, R35) -/

/-- One bit is the bit of its test. -/
theorem bit1_decide (x : BitVec 1) : bit1 (decide (x = 1)) = x := by
  revert x
  decide

/-- The strides of a level, as encoded, are one field. -/
theorem encStrides_nestLevel (W : BitVec 256) (k : Nat) : encStrides (nestLevel W k) = field W (98 + 30 * k) 30 := by
  rw [encStrides, nestLevel]
  dsimp only
  rw [field_append_field W (show 118 + 30 * k = 108 + 30 * k + 10 by omega),
    field_append_field W (show 108 + 30 * k = 98 + 30 * k + 10 by omega)]

/-- The levels that are read are those of the word, where the word is zero above the level count. -/
theorem levelOr_map_nestLevel {W : BitVec 256} {n k : Nat} (hk : k < 5)
    (hz : ((List.range 5).drop n).any (fun k => nestLevel W k ≠ ⟨0, 0, 0, 0⟩) = false) :
    levelOr ((List.range n).map (nestLevel W)) k = nestLevel W k := by
  by_cases h : k < n
  · simp [levelOr, h]
  · have hmem : k ∈ (List.range 5).drop n :=
      List.mem_drop_iff_getElem.mpr ⟨k - n, by simp; omega, by simp; omega⟩
    rw [levelOr_beyond (by simpa using h)]
    simpa using Eq.symm (not_not.mp (mt decide_eq_true (List.any_eq_false.mp hz k hmem)))

/-- The fields of a `nest` word, with the levels that its level count gives. -/
def nestFields (W : BitVec 256) : NestWord :=
  { xd := field W 7 5, xa := field W 12 5, xb := field W 17 5
    lv := (List.range ((field W 22 3).toNat + 1)).map (nestLevel W)
    rm := field W 25 2, acc := field W 27 1 = 1, ds := field W 28 1 = 1, as := field W 29 1 = 1
    bs := field W 30 1 = 1, op := field W 32 8, rl := field W 40 3, sat := field W 43 1 = 1
    scan := field W 44 1 = 1 }

theorem nestFields_lv_length (W : BitVec 256) : (nestFields W).lv.length = (field W 22 3).toNat + 1 := by
  simp only [nestFields, List.length_map, List.length_range]

/-- The reserved bits of a `nest` word are zero, and so are its levels above the level count (R34, R35). -/
def NestReserved (W : BitVec 256) : Prop :=
  field W 31 1 = 0 ∧ field W 45 3 = 0 ∧ field W 248 8 = 0 ∧
    ((List.range 5).drop ((field W 22 3).toNat + 1)).any (fun k => nestLevel W k ≠ ⟨0, 0, 0, 0⟩) = false

/-- What the decoder accepts as a `nest` word. -/
theorem decodeNest_ok {W : BitVec 256} {i : Instr} (h : decodeNest W = .ok i) :
    i = .nest (nestFields W) ∧ NestReserved W ∧ (nestFields W).wf = true := by
  unfold decodeNest at h
  dsimp only at h
  split at h
  · cases h
  next hlv =>
    split at h
    · cases h
    next hr =>
      split at h
      · cases h
      next hz =>
        split at h
        · cases h
        next hrl =>
          cases h
          obtain ⟨h31, h45, h248⟩ : field W 31 1 = 0 ∧ field W 45 3 = 0 ∧ field W 248 8 = 0 := by simpa using hr
          refine ⟨rfl, ⟨h31, h45, h248, Bool.eq_false_iff.mpr hz⟩, ?_⟩
          simp only [NestWord.wf, nestFields_lv_length, Bool.and_eq_true, decide_eq_true_eq]
          exact ⟨⟨by omega, by omega⟩, not_le.mp hrl⟩

/-- A `nest` word is the encoding of its fields. -/
theorem encNest_nestFields {W : BitVec 256} (hm : field W 0 7 = 0x11) (hr : NestReserved W) :
    encNest (nestFields W) = W := by
  obtain ⟨h31, h45, h248, hz⟩ := hr
  have hlen : BitVec.ofNat 3 ((nestFields W).lv.length - 1) = field W 22 3 := by
    rw [nestFields_lv_length, Nat.add_sub_cancel, BitVec.ofNat_toNat, BitVec.setWidth_eq]
  have hlv : ∀ k < 5, levelOr (nestFields W).lv k = nestLevel W k := fun k hk => levelOr_map_nestLevel hk hz
  unfold encNest
  simp only [hlen, hlv, Nat.reduceLT, encStrides_nestLevel]
  simp only [nestFields, bit1_decide, nestLevel, ← hm, ← h31, ← h45, ← h248]
  simp (disch := decide) only [field_append_field]
  exact field_all W

/-- The eight words of a `nest` word that decodes are its encoding. -/
theorem decodeNest_canonical {W : BitVec 256} (hm : field W 0 7 = 0x11) : Canonical (decodeNest W) (nestWords W) := by
  intro i h
  obtain ⟨rfl, hr, hw⟩ := decodeNest_ok h
  exact ⟨hw, congrArg (fun V => some (nestWords V)) (encNest_nestFields hm hr)⟩

/-! ### Bytes -/

/-- A field of a field is a field of the whole. -/
theorem extractLsb'_field {m n : Nat} (x : BitVec m) {lo start k : Nat} (h : start + k ≤ n) :
    (field x lo n).extractLsb' start k = x.extractLsb' (lo + start) k := by
  ext i hi
  simp [field, show start + i < n by omega, Nat.add_assoc]

/-- The bytes of the eight words of a 256-bit word are its bytes. -/
theorem flatMap_leBytes_nestWords (W : BitVec 256) : (nestWords W).flatMap (fun w => leBytes w 4) = leBytes W 32 := by
  simp [nestWords, leBytes, List.range, List.range.loop, extractLsb'_field]

/-- What a decoder answers with the number of bytes that `ws` are, from bytes that begin with them. -/
theorem Canonical.encodeBytes_eq {r : Except Reject Instr} {ws : List (BitVec 32)} {bs : List Byte} {i : Instr}
    {k n : Nat} (hc : Canonical r ws) (hws : ws.flatMap (fun w => leBytes w 4) = bs.take k)
    (h : (r.map fun i => (i, k)) = .ok (i, n)) :
    i.wf = true ∧ encodeBytes i = some (bs.take n) := by
  cases r with
  | error e => cases h
  | ok j =>
    cases h
    obtain ⟨hw, he⟩ := hc _ rfl
    exact ⟨hw, by rw [encodeBytes, he, Option.map_some, hws]⟩

/-- The bytes of the word at the head of `bs` (R2). -/
theorem leBytes_wordAt_four {bs : List Byte} (h : 4 ≤ bs.length) : leBytes (wordAt bs 32 4) 4 = bs.take 4 :=
  leBytes_wordAt h

/-- The major opcode of a 256-bit word stands in the first of its words. -/
theorem field_wordAt_nest {bs : List Byte} (h : 32 ≤ bs.length) :
    field (wordAt bs 256 32) 0 7 = field (wordAt bs 32 4) 0 7 := by
  have hbs : bs = (nestWords (wordAt bs 256 32)).flatMap (fun w => leBytes w 4) ++ bs.drop 32 := by
    rw [flatMap_leBytes_nestWords, leBytes_wordAt (n := 32) h, List.take_append_drop]
  conv_rhs => rw [hbs, wordAt_nestWords_first, field_field _ _ _ (by decide)]

end Sys2Proof.Laws.Decoding

namespace Sys2Proof.Proofs

open Sys2Proof Sys2Proof.Laws.Encoding Sys2Proof.Laws.Decoding

/-- Settles O4, by the three lengths of an instruction: what each decoder answers is encoded by the words it was
given, and the bytes of those words are the bytes at the head of `bs`. -/
theorem decodeCanonical : Obligations.DecodeCanonical := by
  unfold Obligations.DecodeCanonical
  intro bs i n h
  unfold decode at h
  split at h
  · cases h
  next h4 =>
    have hfirst := leBytes_wordAt_four (not_lt.mp h4)
    dsimp only at h
    split at h
    next hm =>
      split at h
      · cases h
      next h8 =>
        refine (decodeWide_canonical hm).encodeBytes_eq ?_ h
        have hsecond : leBytes (wordAt (bs.drop 4) 32 4) 4 = (bs.drop 4).take 4 :=
          leBytes_wordAt_four (by simp; omega)
        simp only [List.flatMap_cons, List.flatMap_nil, List.append_nil, hfirst, hsecond]
        exact (List.take_add ..).symm
    next hm =>
      split at h
      · cases h
      next h32 =>
        have hlen := not_lt.mp h32
        have hmajor := (field_wordAt_nest hlen).trans (BitVec.eq_of_toNat_eq (y := 0x11) hm)
        exact (decodeNest_canonical hmajor).encodeBytes_eq
          ((flatMap_leBytes_nestWords _).trans (leBytes_wordAt (n := 32) hlen)) h
    next => exact decodeWord_canonical.encodeBytes_eq (by simpa using hfirst) h

end Sys2Proof.Proofs
end

section
/-! SUPPORT. What a Bureau and a task read from the registers of the package (R304, R334, R356), and O13. -/

namespace Sys2Proof.Laws.Registers

open Sys2Proof Sys2Proof.Machine Sys2Proof.Claims

/-! ### Which registers there are -/

theorem taskReg_iff {n : Nat} : taskReg n = true ↔ 0x130 ≤ n ∧ n ≤ 0x138 := by
  simp [taskReg]

/-- RWIN 0–7 have bits [51:2]. -/
theorem regFields_rwin (n : Fin 8) : regFields (0x130 + n.val) = rwBits 51 2 := by
  revert n
  decide

/-- Every number of a task register is assigned. -/
theorem regFields_taskReg {n : Nat} (h : taskReg n = true) : ∃ fs, regFields n = some fs := by
  obtain ⟨hlo, hhi⟩ := taskReg_iff.mp h
  rcases Nat.lt_or_eq_of_le hhi with hlt | rfl
  · obtain ⟨k, rfl⟩ := Nat.exists_eq_add_of_le hlo
    exact ⟨_, regFields_rwin ⟨k, by omega⟩⟩
  · exact ⟨_, rfl⟩

/-- A task has its registers without a trap at issue (R334). -/
theorem taskRegTrap_taskReg {n : Nat} (h : taskReg n = true) : taskRegTrap n = none := by
  obtain ⟨fs, hfs⟩ := regFields_taskReg h
  simp [taskRegTrap, hfs, h]

/-! ### The register forms on a Bureau -/

/-- The four register forms are one operation (R334). -/
theorem exec_eq_issueReg {i : Instr} {num : BitVec 12} (h : registerNamed i = some num) :
    ∃ d a reads f, ∀ s, exec i s = issueReg i num d a reads f s := by
  unfold registerNamed at h
  split at h
  next d num => cases h; exact ⟨d, 0, true, none, fun s => (rfl : _ = execSysRd d num s)⟩
  next num a => cases h; exact ⟨0, a, false, some _, fun s => (rfl : _ = execSysWr num a s)⟩
  next d num a => cases h; exact ⟨d, a, true, some _, fun s => (rfl : _ = execSysSet d num a s)⟩
  next d num a => cases h; exact ⟨d, a, true, some _, fun s => (rfl : _ = execSysClr d num a s)⟩
  next => cases h

section
variable {s : State} {k : Nat} {x : Die}

/-- A register form that names no register traps ILLEGAL_OP (R46). -/
theorem issueReg_unassigned (h : OnBureau s k x) {num : BitVec 12} (hn : regFields num.toNat = none) (i : Instr)
    (d a : Reg) (reads : Bool) (f : Option (RegFields → Word → Word → Word × Option Word × Word)) :
    issueReg i num d a reads f s = .next (onBureau s k (trapped x.bureau 1 0)) := by
  unfold issueReg
  rw [issueBoth_bureau h, hn]
  exact congrArg Host.Outcome.next (bureau_trap h .illegalOp 0 0 0)

/-- `sys.rd` of an assigned register puts what the Bureau reads into xD and moves on. -/
theorem execSysRd_bureau (h : OnBureau s k x) {num : BitVec 12} {fs : RegFields} (hn : regFields num.toNat = some fs)
    {u : State} {v : Word} (hread : s.bureauRegRead k num.toNat = (u, v)) (d : Reg) :
    execSysRd d num s = .next (u.updBureau k fun b => (b.setX d v).advance 4) := by
  unfold execSysRd issueReg
  rw [issueBoth_bureau h, hn]
  simp only [if_true, hread, finish_nil]

/-- What a Bureau reads from a register that is neither a task's nor DOORBELL. -/
theorem bureauRegRead_of_not_taskReg {n : Nat} (hn : taskReg n = false) (hd : n ≠ 0x317) :
    s.bureauRegRead k n = (s, s.regRead k n) := by
  simp [State.bureauRegRead, hn, hd]

/-- A Bureau's read of DOORBELL clears what rings (R356). -/
theorem bureauRegRead_doorbell (hx : s.die? k = some x) :
    s.bureauRegRead k 0x317 = (s.updDie k fun y => { y with rung := false }, x.doorbell.zeroExtend 64) := by
  have hv : s.regRead k 0x317 = BitVec.ofNat 64 (s.die k).doorbell.toNat := rfl
  rw [State.bureauRegRead, hv, die_eq hx, BitVec.ofNat_toNat]
  rfl

/-- The bits of a register of tasks that are not reserved (R304, R334). -/
def taskRegMask (n : Nat) : Word := if n = 0x138 then 0xFF else 0xFFFFFFFFFFFFC

/-- The counter of free values stands apart from the Bureaus. -/
theorem updBureau_setFresh (s : State) (k n : Nat) (f : Bureau → Bureau) :
    State.updBureau { s with fresh := n } k f = { s.updBureau k f with fresh := n } := rfl

/-- A Bureau's read of a task's register takes eight free bytes, under the register's mask (log entry 12). -/
theorem bureauRegRead_taskReg {n : Nat} (hn : taskReg n = true) :
    ∃ v, s.bureauRegRead k n = ({ s with fresh := s.fresh + 8 }, v &&& taskRegMask n) := by
  have hmask : (if n = 0x138 then onesFrom 7 0 else onesFrom 51 2) = taskRegMask n := by
    unfold taskRegMask
    split <;> rfl
  simp only [State.bureauRegRead, hn, if_true, State.freeBytes, hmask]
  exact ⟨_, rfl⟩

end

/-- Nothing stays of a masked value outside the mask. -/
theorem and_and_not_self {n : Nat} (v m : BitVec n) : v &&& m &&& ~~~m = 0 := by
  rw [BitVec.and_assoc, BitVec.and_not_self]
  exact BitVec.and_zero

/-! ### `sys.rd` in a task -/

/-- `sys.rd` of a task's register puts its value into xD and moves on. -/
theorem execSysRd_thread {s : State} {t : Task} (h : OnThread s t 1) {num : BitVec 12}
    (hn : taskReg num.toNat = true) (d : Reg) : execSysRd d num s =
      .next ((charged s t 1).putTask (((drawn s t 1).setX d (t.regRead num.toNat)).advance 4)) := by
  obtain ⟨fs, hfs⟩ := regFields_taskReg hn
  have hread : (drawn s t 1).regRead num.toNat = t.regRead num.toNat := by
    simp only [Task.regRead, drawn_flags, drawn_rwin]
  unfold execSysRd issueReg
  rw [issueBoth_thread h (taskRegTrap_taskReg hn), hfs]
  simp only [hread, finish_nil]

theorem toNat_rwin (n : Fin 8) : (BitVec.ofNat 12 (0x130 + n.val)).toNat = 0x130 + n.val := by
  rw [BitVec.toNat_ofNat]
  omega

/-- The value of RWIN `n` (R304). -/
theorem regRead_rwin (t : Task) (n : Fin 8) : t.regRead (0x130 + n.val) = t.rwin[n] := by
  have hne : ¬ 0x130 + n.val = 0x138 := by omega
  simp [Task.regRead, hne]

/-! ### Plain registers -/

/-- A plain register reads the field that it names (R84, R319, R332, R350). -/
theorem regRead_plainRegister {s : State} {k : Nat} {x : Die} (hx : s.die? k = some x) {num : Nat} {v : Word}
    (h : plainRegister x s.now num = some v) : s.regRead k num = v := by
  rw [← die_eq hx] at h
  unfold plainRegister at h
  split_ifs at h with h1 h2 h3 h4 h5 h6 h7 h8 h9 <;> subst num <;> cases h
  · rfl
  · rfl
  · exact BitVec.ofNat_toNat ..
  · exact BitVec.ofNat_toNat ..
  · exact BitVec.ofNat_toNat ..
  · rfl
  · rfl
  · exact BitVec.ofNat_toNat ..
  · rfl

end Sys2Proof.Laws.Registers

namespace Sys2Proof.Proofs

open Sys2Proof Sys2Proof.Machine Sys2Proof.Claims Sys2Proof.Laws.Registers

/-- Settles O13, by what a Bureau and a task read from a register of each kind. -/
theorem registerReads : Obligations.RegisterReads := by
  unfold Obligations.RegisterReads
  refine ⟨?supervisor, fun s k x num v hx hv => regRead_plainRegister hx hv, ?doorbell, ?taskOnBureau, ?unassigned,
    ?rwin, ?flags⟩
  case supervisor =>
    intro s k x d num h hassigned htask hdoorbell
    obtain ⟨fs, hfs⟩ := Option.ne_none_iff_exists'.mp hassigned
    have hread := bureauRegRead_of_not_taskReg (s := s) (k := k) (Bool.eq_false_iff.mpr (mt taskReg_iff.mp htask))
      fun he => hdoorbell (BitVec.eq_of_toNat_eq he)
    refine (execSysRd_bureau h hfs hread d).trans ?_
    rw [updBureau_const h.2.1]
  case doorbell =>
    intro s k x d h
    have hx := h.2.1
    refine (execSysRd_bureau h (num := 0x317) rfl (bureauRegRead_doorbell hx) d).trans ?_
    simp only [State.updBureau, State.updDie, modAt_modAt]
    exact congrArg Host.Outcome.next (updDie_congr hx rfl)
  case taskOnBureau =>
    intro s k x d num h hlo hhi
    have htask := taskReg_iff.mpr ⟨hlo, hhi⟩
    obtain ⟨fs, hfs⟩ := regFields_taskReg htask
    obtain ⟨v, hv⟩ := bureauRegRead_taskReg (s := s) (k := k) htask
    refine ⟨v &&& taskRegMask num.toNat, ?_, (execSysRd_bureau h hfs hv d).trans ?_⟩
    · have hmask : (if num = 0x138 then 0xFF else 0xFFFFFFFFFFFFC : Word) = taskRegMask num.toNat := by
        unfold taskRegMask
        congr 1
        exact propext (BitVec.toNat_inj (y := 0x138#12)).symm
      rw [hmask, and_and_not_self]
    · rw [updBureau_setFresh, updBureau_const h.2.1]
  case unassigned =>
    intro i num s k x hi h hn
    obtain ⟨d, a, reads, f, he⟩ := exec_eq_issueReg hi
    rw [he, issueReg_unassigned h hn]
  case rwin =>
    intro s t d n h
    have hn := toNat_rwin n
    have htask : taskReg (BitVec.ofNat 12 (0x130 + n.val)).toNat = true := taskReg_iff.mpr (by omega)
    refine (execSysRd_thread h htask d).trans ?_
    rw [hn, regRead_rwin]
  case flags =>
    intro s t d h
    exact execSysRd_thread h rfl d

end Sys2Proof.Proofs
end

section
/-! SUPPORT. Every operation of the model keeps the four dies and the canonical form of memory (log entry 6), and O8 and O9.
There is one lemma for each function that answers with a state, a task, a Bureau or a die, in the order of the model; the lemma
of a function rests on those of the functions that it calls, and `step_sound` on them all. -/
namespace Sys2Proof.Laws.Soundness

open Sys2Proof Sys2Proof.Machine Sys2Proof.Claims

variable {s : State} {t : Task}

-- Each lemma unfolds a function of the model. Elaborated all at once, every one of them would hold a thread, with its stack, while it
-- waits for that function's equations.
set_option Elab.async false

/-! ### Answers of each shape -/

/-- `Sound` as a relation between the parts of the state that it speaks of: an update of any other field leaves it as it stands. -/
def SoundOf (mem : Memory) (hostMem : Overlay) (scratch suspMem : Memory) (tasks : List Task) (dies : List Die)
    (saved : List Saved) (locks : List Lock) (descriptor : Option Descriptor) (wardrobe : List (Nat × Descriptor)) : Prop :=
  mem.wf = true ∧ hostMem.wf = true ∧ scratch.wf = true ∧ suspMem.wf = true ∧ (∀ t ∈ tasks, TaskSound t) ∧
    PartsSound dies saved locks ∧ (∀ w, descriptor = some w → PartsSound w.dies w.saved w.locks) ∧
    ∀ p ∈ wardrobe, PartsSound p.2.dies p.2.saved p.2.locks

theorem sound_iff (s : State) : Sound s ↔
    SoundOf s.mem s.hostMem s.scratch s.suspMem s.tasks s.dies s.saved s.locks s.descriptor s.wardrobe := Iff.rfl

/-- What a computation answers, where it answers, has the property. -/
def Answers {ε α : Type} (P : α → Prop) : Except ε α → Prop
  | .ok a => P a
  | .error _ => True

/-- The value, where there is one, has the property. -/
def Opt {α : Type} (P : α → Prop) : Option α → Prop
  | some a => P a
  | none => True

/-- What a computation stops with, where it stops, has the property. -/
def Errs {ε α : Type} (P : ε → Prop) : Except ε α → Prop
  | .ok _ => True
  | .error e => P e

/-- The next state, where there is one, is sound. -/
def Lands : Host.Outcome State Fault Refusal → Prop
  | .next s => Sound s
  | _ => True

theorem answers_ok {ε α : Type} {P : α → Prop} {r : Except ε α} {a : α} (he : r = .ok a) (h : Answers P r) : P a := by
  subst he
  exact h

theorem answers_ite {ε α : Type} {P : α → Prop} {c : Prop} [Decidable c] {q r : Except ε α} (hq : Answers P q)
    (hr : Answers P r) : Answers P (if c then q else r) := by
  split
  · exact hq
  · exact hr

theorem answers_error {ε α : Type} {P : α → Prop} {e : ε} : Answers P (.error e : Except ε α) := True.intro

theorem answers_map {ε α β : Type} {P : β → Prop} {f : α → β} {r : Except ε α} (h : Answers (fun a => P (f a)) r) :
    Answers P (r.map f) := by
  cases r with
  | error e => trivial
  | ok a => exact h

theorem answers_map_self {ε α : Type} {P : α → Prop} {f : α → α} {r : Except ε α} (h : Answers P r)
    (hf : ∀ a, P a → P (f a)) : Answers P (r.map f) := by
  cases r with
  | error e => trivial
  | ok a => exact hf a h

/-- A computation on a task alone, beside a sound state. -/
theorem answers_beside {ε : Type} {r : Except ε Task} (hs : Sound s) (h : Answers (fun t => TaskSound t) r) :
    Answers (fun p => Sound p.1 ∧ TaskSound p.2) (r.map fun t => (s, t)) := by
  cases r with
  | error e => trivial
  | ok t => exact ⟨hs, h⟩

theorem opt_foldl {α : Type} {P : α → Prop} {f : Option α → α → Option α} {l : List α} {b : Option α}
    (hl : ∀ a ∈ l, P a) (hb : Opt P b) (hf : ∀ b a, Opt P b → P a → Opt P (f b a)) : Opt P (l.foldl f b) := by
  induction l generalizing b with
  | nil => exact hb
  | cons a r ih =>
    exact ih (fun c hc => hl c (List.mem_cons_of_mem a hc)) (hf b a hb (hl a List.mem_cons_self))

theorem opt_getD {α : Type} {P : α → Prop} {o : Option α} {d : α} (h : Opt P o) (hd : P d) : P (o.getD d) := by
  cases o with
  | none => exact hd
  | some a => exact h

theorem sound_foldl {α : Type} {f : State → α → State} {l : List α} (hs : Sound s)
    (hf : ∀ s a, Sound s → Sound (f s a)) : Sound (l.foldl f s) := by
  induction l generalizing s with
  | nil => exact hs
  | cons a r ih => exact ih (hf s a hs)

theorem taskSound_foldl {α : Type} {f : Task → α → Task} {l : List α} (ht : TaskSound t)
    (hf : ∀ t a, TaskSound t → TaskSound (f t a)) : TaskSound (l.foldl f t) := by
  induction l generalizing t with
  | nil => exact ht
  | cons a r ih => exact ih (hf t a ht)

theorem sound_foldl_fst {α β : Type} {f : State × β → α → State × β} {p : State × β} {l : List α} (hp : Sound p.1)
    (hf : ∀ p a, Sound p.1 → Sound (f p a).1) : Sound (l.foldl f p).1 := by
  induction l generalizing p with
  | nil => exact hp
  | cons a r ih => exact ih (hf p a hp)

theorem sound_foldl_both {α : Type} {f : State × Task → α → State × Task} {p : State × Task} {l : List α}
    (hp : Sound p.1 ∧ TaskSound p.2) (hf : ∀ p a, Sound p.1 → TaskSound p.2 → Sound (f p a).1 ∧ TaskSound (f p a).2) :
    Sound (l.foldl f p).1 ∧ TaskSound (l.foldl f p).2 := by
  induction l generalizing p with
  | nil => exact hp
  | cons a r ih => exact ih (hf p a hp.1 hp.2)

theorem mem_modAt {α : Type} {x : α} {f : α → α} {l : List α} {i : Nat} (h : x ∈ modAt l i f) :
    x ∈ l ∨ ∃ y ∈ l, x = f y := by
  induction l generalizing i with
  | nil => simp [modAt] at h
  | cons a r ih =>
    cases i with
    | zero => simp [modAt] at h ⊢; grind
    | succ i => simp [modAt] at h ⊢; grind

theorem length_modAt {α : Type} (f : α → α) (l : List α) (i : Nat) : (modAt l i f).length = l.length := by
  induction l generalizing i with
  | nil => rfl
  | cons a r ih => cases i <;> simp [modAt, ih]

/-! ### Memory, dies and tasks -/

theorem Memory.filter_wfFrom {m : Memory} {lo : Nat} {p : Host.Cell → Bool} (h : Memory.wfFrom lo m = true) :
    Memory.wfFrom lo (m.filter p) = true := by
  induction m generalizing lo with
  | nil => rfl
  | cons c r ih =>
    obtain ⟨a, v⟩ := c
    simp only [Memory.wfFrom, Bool.and_eq_true, decide_eq_true_eq] at h
    obtain ⟨⟨ha, hv⟩, hr⟩ := h
    by_cases hp : p (a, v) = true
    · rw [List.filter_cons_of_pos hp]
      simpa [Memory.wfFrom, ha] using ⟨by simpa using hv, ih hr⟩
    · rw [List.filter_cons_of_neg hp]
      exact Memory.wfFrom_mono (ih hr) (Nat.le_succ_of_le ha)

theorem Memory.filter_wf {m : Memory} {p : Host.Cell → Bool} (h : m.wf = true) : Memory.wf (m.filter p) = true :=
  Memory.filter_wfFrom h

theorem State.setByte_sound {pa : Nat} {b : Byte} (hs : Sound s) : Sound (s.setByte pa b) := by
  obtain ⟨hmem, hhost, hrest⟩ := hs
  unfold State.setByte
  split
  · exact ⟨hmem, Overlay.set_wf hhost, hrest⟩
  · exact ⟨Memory.set_wf hmem, hhost, hrest⟩

theorem State.sweepPass_sound {blocks : List Nat} (hs : Sound s) : Sound (s.sweepPass blocks) := by
  unfold State.sweepPass
  grind only [sound_iff]

theorem State.setBytes_sound {l : List (Nat × Byte)} (hs : Sound s) : Sound (s.setBytes l) :=
  sound_foldl hs fun _ _ => State.setByte_sound

theorem State.land_sound {bytes : List (Nat × Byte)} (hs : Sound s) : Sound (s.land bytes) :=
  State.sweepPass_sound (State.setBytes_sound hs)

theorem State.setHomed_sound {a : Nat} {l : List Byte} (hs : Sound s) : Sound (s.setHomed a l) := State.land_sound hs

theorem State.die?_sound {d : Nat} {x : Die} (hs : Sound s) (hx : s.die? d = some x) : x.bureau.priv.wf = true := by
  obtain ⟨_, _, _, _, _, ⟨_, hdies, _⟩, _⟩ := hs
  exact hdies x (List.mem_of_getElem? hx)

theorem State.updDie_sound {d : Nat} {f : Die → Die} (hs : Sound s)
    (hf : ∀ x, x.bureau.priv.wf = true → (f x).bureau.priv.wf = true) : Sound (s.updDie d f) := by
  obtain ⟨hmem, hhost, hscratch, hsusp, htasks, ⟨hfour, hdies, hsaved, hlocks⟩, hkept⟩ := hs
  have hfour' := (length_modAt f s.dies d).trans hfour
  refine ⟨hmem, hhost, hscratch, hsusp, htasks, ⟨hfour', fun x hx => ?_, hsaved, hlocks⟩, hkept⟩
  rcases mem_modAt hx with hx | ⟨y, hy, rfl⟩
  · exact hdies x hx
  · exact hf y (hdies y hy)

theorem State.setSlice_sound {x : Slice} (hs : Sound s) : Sound (s.setSlice x) := hs

theorem State.rdcFill_sound {source line : Nat} (hs : Sound s) : Sound (s.rdcFill source line) := by
  unfold State.rdcFill
  grind only [sound_iff]

theorem State.touch_sound {source pa cls : Nat} (hs : Sound s) : Sound (s.touch source pa cls) := by
  unfold State.touch
  grind only [sound_iff, State.rdcFill_sound, State.setSlice_sound]

theorem State.touchHome_sound {pa cls : Nat} (hs : Sound s) : Sound (s.touchHome pa cls) := by
  unfold State.touchHome
  grind only [State.touch_sound]

theorem State.touchLines_sound {source cls : Nat} {pas : List Nat} (hs : Sound s) :
    Sound (s.touchLines source cls pas) := sound_foldl hs fun _ _ => State.touch_sound

theorem State.dropLine_sound {line : Nat} (hs : Sound s) : Sound (s.dropLine line) := by
  unfold State.dropLine
  grind only [sound_iff, State.setSlice_sound]

theorem State.cacheGoOn_sound (hs : Sound s) : Sound s.cacheGoOn := sound_foldl hs fun _ _ => State.touch_sound

theorem State.tableEntry_sound {d table idx : Nat} (hs : Sound s) : Sound (s.tableEntry d table idx).1 := by
  unfold State.tableEntry
  grind only [State.touch_sound]

theorem State.walkLast_sound {d ctx va table : Nat} (hs : Sound s) : Sound (s.walkLast d ctx va table).1 := by
  unfold State.walkLast
  grind only [State.tableEntry_sound]

theorem State.walkFrom_sound {d ctx va n : Nat} {l : List (Nat × Nat × Nat × Nat)} (hs : Sound s) :
    Sound (s.walkFrom d ctx va n l).1 := by
  fun_induction State.walkFrom s d ctx va n l <;> grind only [State.tableEntry_sound, State.walkLast_sound]

theorem State.ctxRead_sound {d ctx : Nat} (hs : Sound s) : Sound (s.ctxRead d ctx) := by
  unfold State.ctxRead
  grind only [State.touch_sound]

theorem State.walk_sound {d ctx va : Nat} (hs : Sound s) : Sound (s.walk d ctx va).1 := by
  unfold State.walk
  grind only [State.ctxRead_sound, State.walkFrom_sound]

theorem State.translate_sound {d ctx va : Nat} (hs : Sound s) : Sound (s.translate d ctx va).1 := by
  unfold State.translate
  grind only [sound_iff, State.walk_sound]

/-! ### The accessors of the state -/

theorem State.task?_sound {h : Word} (hs : Sound s) (ht : s.task? h = some t) : TaskSound t := by
  obtain ⟨_, _, _, _, htasks, _⟩ := hs
  exact htasks t (List.mem_of_find?_eq_some ht)

theorem State.putTask_sound (hs : Sound s) (ht : TaskSound t) : Sound (s.putTask t) := by
  obtain ⟨hmem, hhost, hscratch, hsusp, htasks, hrest⟩ := hs
  refine ⟨hmem, hhost, hscratch, hsusp, fun u hu => ?_, hrest⟩
  obtain ⟨v, hv, rfl⟩ := List.mem_map.mp hu
  split
  · exact ht
  · exact htasks v hv

theorem State.dropTask_sound {h : Word} (hs : Sound s) : Sound (s.dropTask h) := by
  obtain ⟨hmem, hhost, hscratch, hsusp, htasks, hrest⟩ := hs
  exact ⟨hmem, hhost, hscratch, hsusp, fun t ht => htasks t (List.mem_of_mem_filter ht), hrest⟩

theorem State.newId_sound (hs : Sound s) : Sound s.newId.1 := hs

theorem State.freeBytes_sound {n : Nat} (hs : Sound s) : Sound (s.freeBytes n).1 := hs

theorem State.log_sound {die code : Nat} (hs : Sound s) : Sound (s.log die code) := hs

theorem Task.setX_sound {i : Reg} {v : Word} (ht : TaskSound t) : TaskSound (t.setX i v) := ht

theorem Task.advance_sound {n : Nat} (ht : TaskSound t) : TaskSound (t.advance n) := ht

theorem Task.block_sound {i : Instr} (ht : TaskSound t) : TaskSound (t.block i) := ht

theorem Task.flag_sound {f : BitVec 8} (ht : TaskSound t) : TaskSound (t.flag f) := ht

theorem Task.setTimeline_sound {n v : Nat} (ht : TaskSound t) : TaskSound (t.setTimeline n v) := ht

theorem State.scratchWrite_sound {a : Nat} {l : List Byte} (hs : Sound s) : Sound (s.scratchWrite t a l) := by
  obtain ⟨hmem, hhost, hscratch, hrest⟩ := hs
  exact ⟨hmem, hhost, Memory.write_wf hscratch _ _, hrest⟩

theorem State.access_sound {d ctx va : Nat} {k : AccKind} (hs : Sound s) : Sound (s.access d ctx va k).1 := by
  unfold State.access
  grind only [State.translate_sound]

theorem State.accessRange_sound {d ctx : Nat} {k : AccKind} {n n' : Nat} (hs : Sound s) :
    Sound (s.accessRange d ctx k n n').1 := by
  fun_induction State.accessRange s d ctx k n n' <;> grind only [State.access_sound]

theorem Task.track_sound {k line : Nat} (ht : TaskSound t) : Opt (fun p => TaskSound p) (t.track k line) := by
  unfold Task.track
  grind only [TaskSound, Opt]

theorem Task.trackAll_sound {k : Nat} {l : List (Nat × TlbEntry)} (ht : TaskSound t) :
    Opt (fun p => TaskSound p) (t.trackAll k l) := by
  fun_induction Task.trackAll t k l <;> grind only [Opt, Task.track_sound]

theorem Task.gotSpace_sound {p : PortId} (ht : TaskSound t) : TaskSound (t.gotSpace p) := ht

theorem Task.awaitSpace_sound {p : PortId} {k n : Nat} (ht : TaskSound t) : TaskSound (t.awaitSpace p k n) := ht

theorem State.viewRead_sound {k va n : Nat} (hs : Sound s) (ht : TaskSound t) :
    Sound (s.viewRead t k va n).1 ∧ Answers (fun p => TaskSound p.1) (s.viewRead t k va n).2 := by
  unfold State.viewRead
  grind only [Answers, Opt, State.accessRange_sound, State.touchLines_sound, Task.trackAll_sound]

theorem State.growShare_sound {k n : Nat} (ht : TaskSound t) :
    Answers (fun p => TaskSound p) (s.growShare t k n) := by
  unfold State.growShare
  grind only [TaskSound, Answers]

theorem State.cupLine_sound {k line : Nat} (ht : TaskSound t) :
    Answers (fun p => TaskSound p) (s.cupLine t k line) := by
  unfold State.cupLine
  grind only [TaskSound, Answers, State.growShare_sound]

theorem State.cupLineAll_sound {k : Nat} {l : List Nat} (hs : Sound s) (ht : TaskSound t) :
    Answers (fun p => TaskSound p) (s.cupLineAll t k l) := by
  fun_induction State.cupLineAll s t k l <;> grind only [Answers, State.cupLine_sound, State.putTask_sound]

theorem Overlay.foldl_set_wf {m : Overlay} {l : List ((Nat × TlbEntry) × Byte)} (hm : m.wf = true) :
    Overlay.wf (l.foldl (fun o p => o.set p.1.1 p.2) m) = true := by
  induction l generalizing m with
  | nil => exact hm
  | cons p r ih => exact ih (Overlay.set_wf hm)

theorem State.cupWrite_sound {k : Nat} {ps : List (Nat × TlbEntry)} {l : List Byte} (hs : Sound s) (ht : TaskSound t)
    : Answers (fun p => TaskSound p) (s.cupWrite t k ps l) := by
  unfold State.cupWrite
  grind only [TaskSound, Answers, State.cupLineAll_sound, Overlay.foldl_set_wf]

theorem State.viewWrite_sound {k va : Nat} {l : List Byte} (hs : Sound s) (ht : TaskSound t) :
    Sound (s.viewWrite t k va l).1 ∧ Answers (fun p => TaskSound p) (s.viewWrite t k va l).2 := by
  unfold State.viewWrite
  grind only [Answers, State.accessRange_sound, State.cupWrite_sound]

theorem State.viewClaim_sound {k va n : Nat} (hs : Sound s) (ht : TaskSound t) :
    Sound (s.viewClaim t k va n).1 ∧ Answers (fun p => TaskSound p.1) (s.viewClaim t k va n).2 := by
  unfold State.viewClaim
  split
  · exact ⟨by grind only [State.accessRange_sound], trivial⟩
  next u ps he =>
    have hu : Sound u := by grind only [State.accessRange_sound]
    exact ⟨hu, answers_map (State.cupWrite_sound hu ht)⟩

/-! ### Channels -/

theorem State.putChan_sound {c : Chan} (hs : Sound s) : Sound (s.putChan c) := hs

theorem State.zeroPages_sound {before after : Chan} (hs : Sound s) : Sound (s.zeroPages before after) :=
  sound_foldl hs fun _ _ => State.setHomed_sound

theorem State.devBytes_sound {c : Chan} {state : Nat} (hs : Sound s) : Sound (s.devBytes c state).1 := by
  unfold State.devBytes
  grind only [State.access_sound]

theorem Die.setQuota_sound {d : Die} {ctx q r : Nat} (hd : d.bureau.priv.wf = true) :
    (d.setQuota ctx q r).bureau.priv.wf = true := hd

theorem State.publish_sound {cls : Nat} {out : List Nat} {bytes : List (Nat × Byte)} (hs : Sound s) :
    Sound (s.publish cls out bytes) := sound_foldl (State.land_sound hs) fun _ _ => State.touchHome_sound

theorem State.writeBack_sound {c : Chan} {state : Nat} (hs : Sound s) : Sound (s.writeBack c state) :=
  State.publish_sound (State.devBytes_sound hs)

theorem State.closeChan_sound {c : Chan} (hs : Sound s) : Sound (s.closeChan c) :=
  State.setSlice_sound (State.updDie_sound (State.writeBack_sound (State.zeroPages_sound hs)) (fun _ h => h))

theorem State.releaseChan_sound {c : Chan} {h : Word} {w r : Bool} (hs : Sound s) :
    Sound (s.releaseChan c h w r) := by
  unfold State.releaseChan
  grind only [State.closeChan_sound, State.putChan_sound]

theorem State.leaveChannels_sound {h : Word} (hs : Sound s) : Sound (s.leaveChannels h) := by
  unfold State.leaveChannels
  grind only [sound_foldl, State.putChan_sound, State.releaseChan_sound]

theorem State.tryClose_sound {ctx num : Nat} (hs : Sound s) : Sound (s.tryClose ctx num) := by
  unfold State.tryClose
  grind only [sound_iff, State.closeChan_sound, State.putChan_sound]

theorem State.grantCredit_sound {ctx num : Nat} (hs : Sound s) : Sound (s.grantCredit ctx num) := by
  unfold State.grantCredit
  grind only [sound_iff, State.putChan_sound]

theorem State.landSpill_sound {pa cls : Nat} (hs : Sound s) : Sound (s.landSpill pa cls) := by
  unfold State.landSpill
  grind only [sound_iff, State.touchHome_sound]

theorem State.placeEntry_sound {c : Chan} {data : List Byte} {notice : Bool} {cls : Nat} (hs : Sound s) :
    Sound (s.placeEntry c data notice cls) := by
  unfold State.placeEntry
  grind only [State.landSpill_sound, State.putChan_sound]

theorem State.pushNotice_sound {account : Nat} (hs : Sound s) : Sound (s.pushNotice t account) := by
  unfold State.pushNotice
  grind only [State.log_sound, State.placeEntry_sound]

/-! ### Destinations of matrix engines -/

theorem Overlay.foldl_set_pair_wf {m : Overlay} {l : List (Nat × Byte)} (hm : m.wf = true) :
    Overlay.wf (l.foldl (fun o q => o.set q.1 q.2) m) = true := by
  induction l generalizing m with
  | nil => exact hm
  | cons p r ih => exact ih (Overlay.set_wf hm)

theorem State.joinElement_sound {r : DestRow} {p : State × Task} {x : (Nat × Bool) × List Lane} (hp0 : Sound p.1)
    (hp1 : TaskSound p.2) : Sound (State.joinElement r p x).1 ∧ TaskSound (State.joinElement r p x).2 := by
  unfold State.joinElement
  grind only [TaskSound, State.scratchWrite_sound, Task.flag_sound, Overlay.foldl_set_pair_wf]

theorem State.joinRow_sound {p : State × Task} {r : DestRow} (hp0 : Sound p.1) (hp1 : TaskSound p.2) :
    Sound (State.joinRow p r).1 ∧ TaskSound (State.joinRow p r).2 := by
  unfold State.joinRow
  grind only [State.joinElement_sound, sound_foldl_both]

theorem State.joinRows_sound {rs : List DestRow} (hs : Sound s) (ht : TaskSound t) :
    Sound (s.joinRows t rs).1 ∧ TaskSound (s.joinRows t rs).2 := by
  unfold State.joinRows
  grind only [TaskSound, State.joinRow_sound, sound_foldl_both]

theorem State.joinDest_sound {ops : List Nat} (hs : Sound s) (ht : TaskSound t) :
    Sound (s.joinDest t ops).1 ∧ TaskSound (s.joinDest t ops).2 := State.joinRows_sound hs ht

/-! ### Commits that land, re-queues and retirements -/

theorem State.stamp_sound {lines : List Nat} {who : Option Nat} (hs : Sound s) : Sound (s.stamp lines who) := hs

theorem State.landExternal_sound {out : List Nat} {bytes : List (Nat × Byte)} {but : Word} (hs : Sound s) :
    Sound (s.landExternal out bytes but).1 := State.publish_sound hs

theorem State.newQRec_sound {r : Record} (hs : Sound s) : Sound (s.newQRec r).1 := hs

theorem State.enqueue_sound {die : Nat} {q : QRec} (hs : Sound s) : Sound (s.enqueue die q) :=
  State.updDie_sound hs fun _ h => h

theorem State.pushDeque_sound {die cluster : Nat} {q : QRec} (hs : Sound s) : Sound (s.pushDeque die cluster q) :=
  State.updDie_sound hs fun _ h => h

theorem State.deliver_sound {die cluster : Nat} {r : Record} (hs : Sound s) : Sound (s.deliver die cluster r) := by
  unfold State.deliver
  grind only [State.newQRec_sound, State.pushDeque_sound, State.updDie_sound]

theorem State.readHome_sound {e : TlbEntry} {pa : Nat} (hs : Sound s) : Sound (s.readHome e pa) := by
  unfold State.readHome
  grind only [State.touchHome_sound]

theorem State.joinChange_sound {die cls ctx j : Nat} {up : Bool} (hs : Sound s) :
    Sound (s.joinChange die cls ctx j up).1 := by
  unfold State.joinChange
  grind only [State.access_sound, State.log_sound, State.publish_sound, State.readHome_sound]

theorem State.joinChanges_sound {die cls ctx : Nat} {up : Bool} {l : List Nat} (hs : Sound s) :
    Sound (s.joinChanges die cls ctx up l).1 := by
  fun_induction State.joinChanges s die cls ctx up l <;> grind only [State.joinChange_sound]

theorem State.reportBytes_sound {die : Nat} {r : Record} {p : Report} (hs : Sound s) :
    Sound (s.reportBytes die r p).1 := by
  unfold State.reportBytes
  grind only [State.access_sound, State.log_sound]

theorem State.landReport_sound {die : Nat} {cluster : Option Nat} {r : Record} {p : Report} {self : Word}
    (hs : Sound s) : Sound (s.landReport die cluster r p self).1 := by
  unfold State.landReport
  grind only [sound_iff, State.deliver_sound, State.enqueue_sound, State.joinChange_sound, State.newQRec_sound,
    State.publish_sound, State.reportBytes_sound, State.stamp_sound]

theorem State.freeRows_sound {committed : Bool} (hs : Sound s) : Sound (s.freeRows t committed) := hs

theorem State.unlock_sound {h : Word} (hs : Sound s) : Sound (s.unlock h) := by
  obtain ⟨hmem, hhost, hscratch, hsusp, htasks, ⟨hfour, hdies, hsaved, hlocks⟩, hkept⟩ := hs
  refine ⟨hmem, hhost, hscratch, hsusp, htasks, ⟨hfour, hdies, hsaved, fun l hl => ?_⟩, hkept⟩
  obtain ⟨l', hl', rfl⟩ := List.mem_map.mp (List.mem_of_mem_filter hl)
  dsimp only
  split
  · rfl
  · exact hlocks l' hl'

theorem State.record_sound {f : Frozen} (hs : Sound s) : Sound (s.record t f).1 := by
  unfold State.record
  grind only [State.setHomed_sound, State.updDie_sound]

theorem State.refillPorts_sound {l l' : List Frozen} (hs : Sound s) : Sound (s.refillPorts t l l').1 := by
  fun_induction State.refillPorts s t l l' <;> grind only [State.record_sound]

theorem State.refillRing_sound {d : Nat} {but : Option Word} (hs : Sound s) : Sound (s.refillRing d but) := by
  unfold State.refillRing
  grind only [TaskSound, sound_foldl, State.putTask_sound, State.refillPorts_sound, → State.task?_sound]

theorem State.withdrawFaults_sound (hs : Sound s) : Sound (s.withdrawFaults t) := by
  unfold State.withdrawFaults
  grind only [sound_foldl, State.refillRing_sound, State.setHomed_sound, State.updDie_sound]

theorem State.discard_sound (hs : Sound s) : Sound (s.discard t) :=
  State.withdrawFaults_sound (State.unlock_sound (State.leaveChannels_sound hs))

theorem State.refund_sound {die n : Nat} (hs : Sound s) : Sound (s.refund die n) := State.updDie_sound hs fun _ h => h

theorem State.updNode_sound {inst k : Nat} {f : Node → Node} (hs : Sound s) : Sound (s.updNode inst k f) := hs

theorem State.nodeRequeued_sound {origin : Option (Nat × Nat)} (hs : Sound s) : Sound (s.nodeRequeued origin) := by
  unfold State.nodeRequeued
  grind only [sound_iff]

theorem State.requeue_sound {rerun : Nat} {irrevocable front : Bool} (hs : Sound s) :
    Sound (s.requeue t rerun irrevocable front) := by
  unfold State.requeue
  grind only [State.discard_sound, State.dropTask_sound, State.enqueue_sound, State.freeRows_sound,
    State.newQRec_sound, State.nodeRequeued_sound, State.refund_sound]

theorem State.retire_sound {e : Ending} {tr : Trap} {shortfall granted sub addr : Nat} (hs : Sound s) :
    Sound (s.retire t e tr shortfall granted sub addr).1 := by
  unfold State.retire
  grind only [State.discard_sound, State.dropTask_sound, State.freeRows_sound, State.landReport_sound,
    State.refund_sound]

theorem filterSaved_sound {p : Saved → Bool} (hs : Sound s) : Sound { s with saved := s.saved.filter p } := by
  obtain ⟨hmem, hhost, hscratch, hsusp, htasks, ⟨hfour, hdies, hsaved, hlocks⟩, hkept⟩ := hs
  exact ⟨hmem, hhost, hscratch, hsusp, htasks,
    ⟨hfour, hdies, fun y hy => hsaved y (List.mem_of_mem_filter hy), hlocks⟩, hkept⟩

theorem State.conflictAbort_sound {h : Word} {own : Bool} (hs : Sound s) : Sound (s.conflictAbort h own).1 := by
  unfold State.conflictAbort
  grind only [State.discard_sound, State.enqueue_sound, State.newQRec_sound, State.nodeRequeued_sound,
    State.refund_sound, State.requeue_sound, State.retire_sound, State.updDie_sound, filterSaved_sound]

theorem State.hintOf_sound {die : Nat} {r : Record} (hs : Sound s) : Sound (s.hintOf die r).1 := by
  unfold State.hintOf
  grind only [State.translate_sound]

theorem State.readyNode_sound {inst k : Nat} (hs : Sound s) : Sound (s.readyNode inst k).1 := by
  unfold State.readyNode
  split
  · exact hs
  split
  · exact hs
  dsimp only
  split
  · grind only [State.updNode_sound]
  · grind only [State.updNode_sound, State.accessRange_sound, State.touchLines_sound,
      State.newQRec_sound, State.hintOf_sound, State.enqueue_sound]

theorem State.readyAll_sound {inst : Nat} {l : List Nat} (hs : Sound s) : Sound (s.readyAll inst l).1 := by
  fun_induction State.readyAll s inst l <;> grind only [State.readyNode_sound]

theorem State.readyNodes_sound {inst : Nat} {ks : List Nat} (hs : Sound s) : Sound (s.readyNodes inst ks).1 := by
  unfold State.readyNodes
  grind only [State.readyAll_sound]

theorem State.landCompletion_sound {die ctx addr v : Nat} (hs : Sound s) :
    Sound (s.landCompletion die ctx addr v).1 := by
  unfold State.landCompletion
  grind only [State.access_sound, State.landExternal_sound, State.log_sound]

theorem State.endInstance_sound {inst : Nat} (hs : Sound s) : Sound (s.endInstance inst).1 := by
  unfold State.endInstance
  grind only [sound_iff, State.landCompletion_sound]

theorem State.nodeEnd_sound {inst k : Nat} {life : NodeLife} (hs : Sound s) : Sound (s.nodeEnd inst k life).1 := by
  unfold State.nodeEnd
  grind only [sound_iff, State.endInstance_sound, State.readyNodes_sound]

theorem State.walkersGoOn_sound (hs : Sound s) : Sound s.walkersGoOn.1 := by
  unfold State.walkersGoOn
  grind only [State.endInstance_sound, State.readyNodes_sound, sound_foldl_fst]

theorem State.runJob_sound {x : Job} (hs : Sound s) : Sound (s.runJob x).1 := by
  unfold State.runJob
  grind only [State.conflictAbort_sound, State.nodeEnd_sound]

theorem State.runJobs_sound {n : Nat} {l : List Job} (hs : Sound s) : Sound (s.runJobs n l) := by
  fun_induction State.runJobs n l s <;> grind only [State.runJob_sound]

theorem finish_sound {p : State × List Job} (hp : Sound p.1) : Sound (finish p) := State.runJobs_sound hp

/-! ### Configuration frames -/

theorem Task.install_sound {fs : List (BitVec 256)} (ht : TaskSound t) : TaskSound (t.install fs) := ht

theorem Task.putCell_sound {c : Cell} (ht : TaskSound t) : TaskSound (t.putCell c) := ht

theorem Task.putAg_sound {a : Ag} (ht : TaskSound t) : TaskSound (t.putAg a) := ht

theorem Task.putEngine_sound {e : Engine} (ht : TaskSound t) : TaskSound (t.putEngine e) := ht

/-! ### The packet gate -/

theorem State.debit_sound {n : Nat} (hs : Sound s) (ht : TaskSound t) :
    Sound (s.debit t n).1 ∧ TaskSound (s.debit t n).2 := by
  unfold State.debit
  grind only [TaskSound, State.pushNotice_sound]

theorem State.shortfall_sound {c : Cmd} (hs : Sound s) : Sound (s.shortfall t c).1 := State.retire_sound hs

theorem State.refuse_sound {c : Cmd} (hs : Sound s) (ht : TaskSound t) : Sound (s.refuse t c).1 := by
  unfold State.refuse
  grind only [TaskSound, State.putTask_sound, State.shortfall_sound]

theorem Task.queueTiles_sound {o : Op2} {k : Nat} (ht : TaskSound t) : TaskSound (t.queueTiles o k) := by
  unfold Task.queueTiles
  grind only [taskSound_foldl, Task.putEngine_sound]

theorem Task.grantTiles_sound {id k : Nat} (ht : TaskSound t) : TaskSound (t.grantTiles id k) := by
  unfold Task.grantTiles
  grind only [TaskSound, Task.queueTiles_sound]

theorem Task.grantGroups_sound {l : List Nat} {n : Nat} (ht : TaskSound t) : TaskSound (t.grantGroups l n) := by
  fun_induction Task.grantGroups t l n <;> grind only [Task.grantTiles_sound]

theorem Task.advanceTl2_sound {n : Nat} (ht : TaskSound t) : TaskSound (t.advanceTl2 n) := by
  fun_induction Task.advanceTl2 t n <;> grind only [TaskSound, Task.setTimeline_sound]

theorem Task.applyGrant_sound {c : Cmd} {k : Nat} (ht : TaskSound t) : TaskSound (t.applyGrant c k) := by
  unfold Task.applyGrant
  grind only [TaskSound, Task.grantGroups_sound, Task.grantTiles_sound, Task.putEngine_sound]

theorem State.grantCmd_sound {c : Cmd} (hs : Sound s) (ht : TaskSound t) : Sound (s.grantCmd t c).1 := by
  unfold State.grantCmd
  grind only [TaskSound, State.debit_sound, State.putTask_sound, State.refuse_sound, Task.applyGrant_sound]

theorem State.fundArms_sound {h : Word} {n : Nat} (hs : Sound s) : Sound (s.fundArms h n).1 := by
  fun_induction State.fundArms s h n <;> grind only [TaskSound, State.grantCmd_sound, State.newId_sound,
    State.retire_sound, → State.task?_sound]

/-! ### What instructions share -/

theorem State.updBureau_sound {d : Nat} {f : Bureau → Bureau} (hs : Sound s)
    (hf : ∀ b, b.priv.wf = true → (f b).priv.wf = true) : Sound (s.updBureau d f) := by
  unfold State.updBureau
  grind only [State.updDie_sound]

theorem Bureau.setX_sound {b : Bureau} {i : Reg} {v : Word} (hb : b.priv.wf = true) : (b.setX i v).priv.wf = true :=
  hb

theorem Bureau.advance_sound {b : Bureau} {n : Nat} (hb : b.priv.wf = true) : (b.advance n).priv.wf = true := hb

theorem Bureau.enter_sound {b : Bureau} {code : BitVec 8} {val : Word} {sync : Bool} (hb : b.priv.wf = true) :
    (b.enter code val sync).priv.wf = true := hb

theorem Bureau.eret_sound {b : Bureau} (hb : b.priv.wf = true) : b.eret.priv.wf = true := hb

theorem State.takeTrap_sound {a : Agent} {code : Trap} {sub addr val : Nat} (hs : Sound s) :
    Sound (s.takeTrap a code sub addr val).1 := by
  unfold State.takeTrap
  grind only [Bureau.enter_sound, State.retire_sound, State.updBureau_sound]

theorem State.trapAt_sound {code : Trap} {sub : Nat} (hs : Sound s) : Sound (s.trapAt t code sub).1 :=
  State.takeTrap_sound hs

theorem State.overflow_sound (hs : Sound s) : Sound (s.overflow t).1 := State.requeue_sound hs

theorem State.freeze_sound {f : Frozen} (hs : Sound s) (ht : TaskSound t) : Sound (s.freeze t f) := by
  unfold State.freeze
  grind only [TaskSound, State.putTask_sound, State.record_sound]

theorem State.freezeThread_sound {i : Instr} {kind va access : Nat} (hs : Sound s) (ht : TaskSound t) :
    Sound (s.freezeThread t i kind va access) := by
  unfold State.freezeThread
  grind only [TaskSound, State.freeze_sound]

theorem State.threadErr_sound {i : Instr} {access : Nat} {e : ViewErr} (hs : Sound s) (ht : TaskSound t) :
    Sound (s.threadErr t i access e).1 := by
  unfold State.threadErr
  grind only [State.freezeThread_sound, State.overflow_sound, State.putTask_sound, State.trapAt_sound,
    Task.awaitSpace_sound, Task.block_sound]

theorem State.issueThread_sound {h : Word} {i : Instr} {draw : Nat} {kind : CmdKind}
    {pre : Task → Option (Trap × Nat)} {units : State → Task → List (Nat × Nat)}
    {body : State → Task → State × List Job} (hs : Sound s)
    (hbody : ∀ u v, Sound u → TaskSound v → Sound (body u v).1) :
    Lands (s.issueThread h i draw kind pre units body) := by
  unfold State.issueThread
  grind only [TaskSound, Lands, State.debit_sound, State.putTask_sound, State.refuse_sound, State.trapAt_sound,
    finish_sound, → State.task?_sound]

theorem State.issueBureau_sound {d : Nat} {body : State → Bureau → State × List Job} (hs : Sound s)
    (hbody : ∀ u b, Sound u → b.priv.wf = true → Sound (body u b).1) : Lands (s.issueBureau d body) := by
  unfold State.issueBureau
  grind only [Lands, finish_sound, → State.die?_sound]

theorem issueBoth_sound {i : Instr} {draw : Nat} {pre : Task → Option (Trap × Nat)}
    {bur : State → Nat → Bureau → State × List Job} {thr : State → Task → State × List Job} (hs : Sound s)
    (hbur : ∀ u b c, Sound u → c.priv.wf = true → Sound (bur u b c).1)
    (hthr : ∀ u v, Sound u → TaskSound v → Sound (thr u v).1) : Lands (issueBoth i draw pre bur thr s) := by
  unfold issueBoth
  grind only [State.issueBureau_sound, State.issueThread_sound]

theorem issueTask_sound {i : Instr} {draw : Nat} {pre : Task → Option (Trap × Nat)}
    {thr : State → Task → State × List Job} (hs : Sound s) (hthr : ∀ u v, Sound u → TaskSound v → Sound (thr u v).1) :
    Lands (issueTask i draw pre thr s) :=
  issueBoth_sound hs (fun _ _ _ h _ => State.takeTrap_sound h) hthr

theorem issueCmd_sound {i : Instr} {draw : Nat} {kind : CmdKind} {pre : Task → Option (Trap × Nat)}
    {units : State → Task → List (Nat × Nat)} {thr : State → Task → State × List Job} (hs : Sound s)
    (hthr : ∀ u v, Sound u → TaskSound v → Sound (thr u v).1) : Lands (issueCmd i draw kind pre units thr s) := by
  unfold issueCmd
  grind only [State.issueBureau_sound, State.issueThread_sound, State.takeTrap_sound]

theorem issueScalar_sound {i : Instr} {len : Nat} {d : Reg} {f : (Reg → Word) → Word} (hs : Sound s) :
    Lands (issueScalar i len d f s) := by
  unfold issueScalar
  grind only [Bureau.advance_sound, Bureau.setX_sound, State.putTask_sound, State.updBureau_sound, Task.advance_sound,
    Task.setX_sound, issueBoth_sound]

theorem issueSimple_sound {i : Instr} {f : Task → Task} (hs : Sound s) (hf : ∀ v, TaskSound v → TaskSound (f v)) :
    Lands (issueSimple i f s) := by
  unfold issueSimple
  grind only [State.putTask_sound, Task.advance_sound, issueTask_sound]

theorem State.onTask_sound {h : Word} {f : State → Task → State × List Job} (hs : Sound s)
    (hf : ∀ u v, Sound u → TaskSound v → Sound (f u v).1) : Lands (s.onTask h f) := by
  unfold State.onTask
  grind only [Lands, finish_sound, → State.task?_sound]

theorem State.onDie_sound {d : Nat} {f : State → Die → State × List Job} (hs : Sound s)
    (hf : ∀ u x, Sound u → x.bureau.priv.wf = true → Sound (f u x).1) : Lands (s.onDie d f) := by
  unfold State.onDie
  grind only [Lands, finish_sound, → State.die?_sound]

theorem State.fired_sound (hs : Sound s) (ht : TaskSound t) : Sound (s.fired t) := State.putTask_sound hs ht

theorem State.taskFault_sound {code : Trap} {sub addr : Nat} (hs : Sound s) (ht : TaskSound t) :
    Sound (s.taskFault t code sub addr).1 := State.takeTrap_sound (State.putTask_sound hs ht)

/-! ### Fetching -/

theorem State.fetchLines_sound {pas : List Nat} (hs : Sound s) (ht : TaskSound t) : Sound (s.fetchLines t pas) := by
  unfold State.fetchLines
  grind only [TaskSound, sound_foldl, State.putTask_sound, State.touch_sound]

theorem State.fetchTask_sound (hs : Sound s) (ht : TaskSound t) : Sound (s.fetchTask t).1 := by
  unfold State.fetchTask
  grind only [State.accessRange_sound, State.fetchLines_sound]

theorem State.fetch_sound {a : Agent} (hs : Sound s) :
    Errs (fun p => Sound p) (s.fetch a).1 ∧ Sound (s.fetch a).2 := by
  unfold State.fetch
  grind only [State.fetchTask_sound, State.freeze_sound, State.takeTrap_sound, State.trapAt_sound, finish_sound,
    → State.task?_sound, Errs]

/-! ### Loads and stores -/

theorem issueLds_sound {i : Instr} {size : Nat} {d base : Reg} {off : BitVec 12} (hs : Sound s) :
    Lands (issueLds i size d base off s) := by
  unfold issueLds
  grind only [Bureau.advance_sound, Bureau.setX_sound, State.putTask_sound, State.takeTrap_sound, State.trapAt_sound,
    State.updBureau_sound, Task.advance_sound, Task.block_sound, Task.setX_sound, issueBoth_sound]

theorem issueSts_sound {i : Instr} {size : Nat} {src base : Reg} {off : BitVec 12} (hs : Sound s) :
    Lands (issueSts i size src base off s) := by
  unfold issueSts
  grind only [Bureau.advance_sound, State.putTask_sound, State.scratchWrite_sound, State.takeTrap_sound,
    State.trapAt_sound, State.updBureau_sound, Task.advance_sound, Task.block_sound, issueBoth_sound, Memory.write_wf]

theorem issueLdg_sound {i : Instr} {size : Nat} {d base : Reg} {off : BitVec 12} (hs : Sound s) :
    Lands (issueLdg i size d base off s) := by
  unfold issueLdg
  grind only [Answers, Bureau.advance_sound, Bureau.setX_sound, State.putTask_sound, State.takeTrap_sound,
    State.threadErr_sound, State.touch_sound, State.trapAt_sound, State.updBureau_sound, State.viewRead_sound,
    Task.advance_sound, Task.block_sound, Task.setX_sound, issueBoth_sound]

theorem issueStg_sound {i : Instr} {size : Nat} {src base : Reg} {off : BitVec 12} (hs : Sound s) :
    Lands (issueStg i size src base off s) := by
  unfold issueStg
  grind only [Answers, Bureau.advance_sound, State.landExternal_sound, State.putTask_sound, State.takeTrap_sound,
    State.threadErr_sound, State.trapAt_sound, State.updBureau_sound, State.viewWrite_sound, Task.advance_sound,
    Task.block_sound, Task.gotSpace_sound, issueBoth_sound]

/-! ### Atomic regions -/

theorem State.lock?_sound {line : Nat} {l : Lock} (hs : Sound s) (hl : s.lock? line = some l) : l.work.wf = true := by
  obtain ⟨_, _, _, _, _, ⟨_, _, _, hlocks⟩, _⟩ := hs
  exact hlocks l (List.mem_of_find?_eq_some hl)

theorem State.setLock_sound {l : Lock} (hs : Sound s) (hl : l.work.wf = true) : Sound (s.setLock l) := by
  obtain ⟨hmem, hhost, hscratch, hsusp, htasks, ⟨hfour, hdies, hsaved, hlocks⟩, hkept⟩ := hs
  unfold State.setLock
  split
  · refine ⟨hmem, hhost, hscratch, hsusp, htasks, ⟨hfour, hdies, hsaved, fun x hx => ?_⟩, hkept⟩
    obtain ⟨y, hy, rfl⟩ := List.mem_map.mp hx
    split
    · exact hl
    · exact hlocks y hy
  · refine ⟨hmem, hhost, hscratch, hsusp, htasks, ⟨hfour, hdies, hsaved, fun x hx => ?_⟩, hkept⟩
    rcases List.mem_append.mp hx with hx | hx
    · exact hlocks x hx
    · rw [List.mem_singleton.mp hx]
      exact hl

theorem State.request_sound {line : Nat} (hs : Sound s) : Sound (s.request t line).1 := by
  unfold State.request
  grind only [State.setLock_sound, → State.lock?_sound]

theorem State.takeLock_sound {line : Nat} (hs : Sound s) (ht : TaskSound t) :
    Sound (s.takeLock t line).1 ∧ TaskSound (s.takeLock t line).2 := by
  unfold State.takeLock
  grind only [TaskSound, State.setLock_sound, State.touchHome_sound, Overlay.wf, Overlay.wfFrom]

@[simp] theorem execArBegin_sound {a : Reg} (hs : Sound s) : Lands (execArBegin a s) := by
  unfold execArBegin
  grind only [TaskSound, State.access_sound, State.putTask_sound, State.request_sound, State.takeLock_sound,
    State.threadErr_sound, State.trapAt_sound, Task.advance_sound, Task.block_sound, issueTask_sound]

theorem issueAr_sound {i : Instr} {n : Nat} {a : Reg} {act : State → Task → Nat → Lock → State × Task} (hs : Sound s)
    (hact : ∀ u v c l, Sound u → TaskSound v → l.work.wf = true → Sound (act u v c l).1 ∧ TaskSound (act u v c l).2) :
    Lands (issueAr i n a act s) := by
  unfold issueAr
  grind only [TaskSound, State.putTask_sound, State.touchHome_sound, State.translate_sound, State.trapAt_sound,
    Task.advance_sound, issueTask_sound, → State.lock?_sound]

@[simp] theorem execArLdW_sound {d a : Reg} (hs : Sound s) : Lands (execArLdW d a s) := by
  unfold execArLdW
  grind only [Task.setX_sound, issueAr_sound]

@[simp] theorem execArLdD_sound {d a : Reg} (hs : Sound s) : Lands (execArLdD d a s) := by
  unfold execArLdD
  grind only [Task.setX_sound, issueAr_sound]

@[simp] theorem execArStW_sound {a b : Reg} (hs : Sound s) : Lands (execArStW a b s) := by
  unfold execArStW
  grind only [State.setLock_sound, issueAr_sound, Overlay.write_wf]

@[simp] theorem execArStD_sound {a b : Reg} (hs : Sound s) : Lands (execArStD a b s) := by
  unfold execArStD
  grind only [State.setLock_sound, issueAr_sound, Overlay.write_wf]

@[simp] theorem execArEnd_sound (hs : Sound s) : Lands (execArEnd s) := by
  unfold execArEnd
  grind only [TaskSound, State.putTask_sound, State.trapAt_sound, Task.advance_sound, issueTask_sound]

/-! ### Reductions -/

theorem State.holdRed_sound {k op va : Nat} {operand : Word} {cell : Option Nat} (hs : Sound s) (ht : TaskSound t) :
    Sound (s.holdRed t k op va operand cell).1 ∧ Answers (fun p => TaskSound p) (s.holdRed t k op va operand cell).2 := by
  unfold State.holdRed
  dsimp only
  split
  · exact ⟨hs, trivial⟩
  split
  · exact ⟨hs, trivial⟩
  split
  · exact ⟨hs, trivial⟩
  split
  · grind only [Answers, State.access_sound]
  · grind only [TaskSound, Answers, State.access_sound, State.growShare_sound]

theorem issueRed_sound {i : Instr} {op : Nat} {a b : Reg} (hs : Sound s) : Lands (issueRed i op a b s) := by
  unfold issueRed
  grind only [Answers, State.holdRed_sound, State.putTask_sound, State.threadErr_sound, Task.advance_sound,
    Task.gotSpace_sound, issueTask_sound]

/-! ### Caches -/

theorem State.tlbiDone_sound {d : Nat} (hs : Sound s) : Sound (s.tlbiDone d) := by
  unfold State.tlbiDone
  grind only [sound_iff, State.updDie_sound]

theorem State.tlbiStart_sound {d : Nat} {ctx : BitVec 16} {scope : BitVec 2} (hs : Sound s) :
    Sound (s.tlbiStart d ctx scope) := by
  unfold State.tlbiStart
  grind only [State.tlbiDone_sound, State.updDie_sound]

@[simp] theorem execTlbiPage_sound {die : Nat} {ctx : BitVec 16} (hs : Sound s) : Lands (execTlbiPage die ctx s) :=
  State.onDie_sound hs fun _ _ h _ => State.tlbiStart_sound h

@[simp] theorem execTlbiContext_sound {die : Nat} {ctx : BitVec 16} (hs : Sound s) : Lands (execTlbiContext die ctx s) :=
  State.onDie_sound hs fun _ _ h _ => State.tlbiStart_sound h

@[simp] theorem execTlbiAll_sound {die : Nat} (hs : Sound s) : Lands (execTlbiAll die s) :=
  State.onDie_sound hs fun _ _ h _ => State.tlbiStart_sound h

@[simp] theorem execTlbInvalidateComplete_sound {die : Nat} (hs : Sound s) : Lands (execTlbInvalidateComplete die s) :=
  State.onDie_sound hs fun _ _ h _ => State.tlbiDone_sound h

theorem State.homeWrite_sound {d cluster slice : Nat} (hs : Sound s) : Sound (s.homeWrite d cluster slice) := by
  unfold State.homeWrite
  grind only [sound_iff, State.updDie_sound]

theorem State.homeWaits_sound {d : Nat} (hs : Sound s) : Sound (s.homeWaits d) := by
  unfold State.homeWaits
  grind only [State.updDie_sound]

@[simp] theorem execHomeSliceWrite_sound {die : Nat} {value : Word} (hs : Sound s) : Lands (execHomeSliceWrite die value s) :=
  State.onDie_sound hs fun _ _ h _ => State.homeWrite_sound h

@[simp] theorem execHomePageMoveComplete_sound {die page : Nat} (hs : Sound s) :
    Lands (execHomePageMoveComplete die page s) := by
  refine State.onDie_sound hs fun u x hu _ => ?_
  dsimp only
  split
  · exact hu
  · refine State.cacheGoOn_sound (show Sound (State.updDie _ _ _) from
      State.updDie_sound (sound_foldl hu fun v o hv => ?_) fun y hy => ?_)
    · split
      · exact hv
      · exact State.setSlice_sound hv
    · split <;> exact hy

theorem State.gateWrite_sound {d : Nat} {v : BitVec 16} (hs : Sound s) : Sound (s.gateWrite d v) := by
  unfold State.gateWrite
  grind only [State.cacheGoOn_sound, State.setSlice_sound]

@[simp] theorem execWayGate_sound {die : Nat} {ways : BitVec 16} (hs : Sound s) : Lands (execWayGate die ways s) := by
  unfold execWayGate
  grind only [State.gateWrite_sound, State.onDie_sound]

@[simp] theorem execWayWake_sound {die : Nat} {ways : BitVec 16} (hs : Sound s) : Lands (execWayWake die ways s) := by
  unfold execWayWake
  grind only [State.gateWrite_sound, State.onDie_sound]

@[simp] theorem execWayAwake_sound {die cluster slice way : Nat} (hs : Sound s) :
    Lands (execWayAwake die cluster slice way s) := by
  unfold execWayAwake
  grind only [State.cacheGoOn_sound, State.onDie_sound, State.setSlice_sound]

theorem State.maskWrite_sound {d cls : Nat} {v : BitVec 16} (hs : Sound s) : Sound (s.maskWrite d cls v) := by
  unfold State.maskWrite
  grind only [State.cacheGoOn_sound, State.setSlice_sound]

/-! ### Configuration images -/

theorem State.scanImage_sound {a n : Nat} {l : List (BitVec 256)} (hs : Sound s) (ht : TaskSound t) :
    Sound (s.scanImage a n t l).1 ∧ TaskSound (s.scanImage a n t l).2.1 := by
  fun_induction State.scanImage a n s t l <;> grind only [Answers, State.viewRead_sound]

theorem State.freezeEarly_sound {va : Nat} (hs : Sound s) (ht : TaskSound t) : Sound (s.freezeEarly t va).1 :=
  State.freeze_sound hs ht

theorem State.readGranted_sound {k : State → Task → State × List Job} (hs : Sound s) (ht : TaskSound t)
    (hk : ∀ u v, Sound u → TaskSound v → Sound (k u v).1) : Sound (s.readGranted t k).1 := by
  have hscan := State.scanImage_sound (a := t.loadBase) (n := t.loadGrant - t.loading.length) (l := t.loading) hs ht
  unfold State.readGranted
  generalize State.scanImage t.loadBase (t.loadGrant - t.loading.length) s t t.loading = r at hscan ⊢
  obtain ⟨u, t', fs, fin⟩ := r
  obtain ⟨hu, ht'⟩ := hscan
  cases fin with
  | more => exact hk u _ hu ht'
  | bad c sub => exact State.takeTrap_sound (State.putTask_sound hu ht')
  | whole =>
    dsimp only
    split
    · exact State.putTask_sound hu ht'
    · exact State.putTask_sound hu (Task.install_sound (fs := fs)
        (show TaskSound { t' with gate := _, cmd := _, loading := _, loadGrant := _ } from ht'))
  | stop e =>
    dsimp only
    split
    · cases ‹LoadEnd.stop e = _›
    · split
      · exact State.freezeThread_sound hu ht'
      · exact State.freezeEarly_sound hu ht'
    · exact State.overflow_sound hu
    · exact State.putTask_sound hu ht'
    · cases ‹LoadEnd.stop e = _›
    · cases ‹LoadEnd.stop e = _›

theorem State.loadGo_sound (hs : Sound s) (ht : TaskSound t) : Sound (s.loadGo t).1 := by
  unfold State.loadGo
  grind only [TaskSound, State.debit_sound, State.putTask_sound, State.readGranted_sound, State.refuse_sound]

/-! ### Links and hops of a fabric -/

theorem State.stop_sound {x : Stop} (hs : Sound s) (ht : TaskSound t) : Sound (s.stop t x).1 := by
  unfold State.stop
  grind only [State.freeze_sound, State.overflow_sound, State.putTask_sound, State.taskFault_sound,
    Task.awaitSpace_sound]

theorem Task.setQueue_sound {d : Dest} {l : List Item} (ht : TaskSound t) : TaskSound (t.setQueue d l) := by
  unfold Task.setQueue
  grind only [Task.putAg_sound, Task.putCell_sound, Task.putEngine_sound]

theorem Task.place_sound {ds : List Dest} {x : Item} (ht : TaskSound t) :
    Opt (fun p => TaskSound p) (t.place ds x) := by
  unfold Task.place
  grind only [Opt, taskSound_foldl, Task.setQueue_sound]

theorem Task.take_sound {d : Dest} (ht : TaskSound t) : TaskSound (t.take d) := Task.setQueue_sound ht

theorem Task.hop_sound {c n : Nat} (ht : TaskSound t) : Opt (fun p => TaskSound p) (t.hop c n) := by
  unfold Task.hop
  grind only [Opt, Task.place_sound, Task.take_sound]

theorem Task.hopFar_sound {c n : Nat} (ht : TaskSound t) : Opt (fun p => TaskSound p) (t.hopFar c n) := by
  unfold Task.hopFar
  grind only [Opt, Task.place_sound, Task.take_sound]

theorem Task.hop1_sound (ht : TaskSound t) : Opt (fun p => TaskSound p) t.hop1 := by
  unfold Task.hop1
  generalize List.flatMap _ t.cells = l
  induction l with
  | nil => trivial
  | cons p r ih =>
    have hfar := Task.hopFar_sound (c := p.1) (n := p.2) ht
    rw [List.findSome?_cons]
    split <;> grind only

theorem Task.settle_sound {n : Nat} (ht : TaskSound t) : TaskSound (t.settle n) := by
  fun_induction Task.settle n t <;> grind only [Opt, Task.hop1_sound]

theorem Task.finish_go_sound {n k : Nat} (ht : TaskSound t) : TaskSound (Task.finish.go n k t) := by
  fun_induction Task.finish.go n k t <;> grind only [TaskSound, Task.setTimeline_sound]

theorem Task.finish_sound {n num : Nat} (ht : TaskSound t) : TaskSound (t.finish n num) := Task.finish_go_sound ht

/-! ### Faults and pre-emption -/

theorem State.headWrite_sound {d : Nat} {v : BitVec 10} (hs : Sound s) : Sound (s.headWrite d v) :=
  State.refillRing_sound (State.updDie_sound hs (fun _ h => h))

theorem State.settleFault_sound {d index st : Nat} (hs : Sound s) : Sound (s.settleFault d index st) :=
  State.updDie_sound (State.setHomed_sound hs) fun _ h => h

theorem State.resolve_sound {d index action : Nat} (hs : Sound s) : Sound (s.resolve d index action).1 := by
  unfold State.resolve
  grind only [TaskSound, State.putTask_sound, State.refillRing_sound, State.settleFault_sound, State.takeTrap_sound,
    → State.task?_sound]

@[simp] theorem execFaultRetry_sound {die index : Nat} (hs : Sound s) : Lands (execFaultRetry die index s) :=
  State.onDie_sound hs fun _ _ h _ => State.resolve_sound h

@[simp] theorem execFaultFail_sound {die index : Nat} (hs : Sound s) : Lands (execFaultFail die index s) :=
  State.onDie_sound hs fun _ _ h _ => State.resolve_sound h

theorem State.queueImage_sound {x : Saved} (hs : Sound s) : Sound (s.queueImage x) := State.enqueue_sound hs

theorem addSaved_sound {x : Saved} {f : List Word → List Word} (hs : Sound s) (hx : TaskSound x.task) :
    Sound { s with saved := s.saved ++ [x], locks := s.locks.map fun l => { l with waiters := f l.waiters } } := by
  obtain ⟨hmem, hhost, hscratch, hsusp, htasks, ⟨hfour, hdies, hsaved, hlocks⟩, hkept⟩ := hs
  refine ⟨hmem, hhost, hscratch, hsusp, htasks, ⟨hfour, hdies, fun y hy => ?_, fun l hl => ?_⟩, hkept⟩
  · rcases List.mem_append.mp hy with hy | hy
    · exact hsaved y hy
    · rw [List.mem_singleton.mp hy]
      exact hx
  · obtain ⟨l', hl', rfl⟩ := List.mem_map.mp hl
    exact hlocks l' hl'

theorem State.save_sound (hs : Sound s) (ht : TaskSound t) : Sound (s.save t) := by
  unfold State.save
  dsimp only
  split
  · refine State.queueImage_sound (State.dropTask_sound (State.freeRows_sound (addSaved_sound ?_ ht)))
    exact State.withdrawFaults_sound (State.setHomed_sound (State.newId_sound hs))
  · refine State.dropTask_sound (State.freeRows_sound (addSaved_sound ?_ ht))
    exact State.withdrawFaults_sound (State.setHomed_sound (State.newId_sound hs))

theorem State.preemptDiscard_sound (hs : Sound s) : Sound (s.preemptDiscard t) := State.requeue_sound hs

theorem State.preempt_sound {mode : Nat} (hs : Sound s) (ht : TaskSound t) : Sound (s.preempt t mode).1 := by
  unfold State.preempt
  grind only [State.preemptDiscard_sound, State.retire_sound, State.save_sound]

theorem State.preemptWrite_sound {d mode : Nat} (hs : Sound s) : Sound (s.preemptWrite d mode).1 := by
  unfold State.preemptWrite
  grind only [State.preempt_sound, State.updDie_sound, → State.task?_sound]

theorem State.preemptGoOn_sound {d : Nat} (hs : Sound s) : Sound (s.preemptGoOn d) := by
  unfold State.preemptGoOn
  grind only [State.preemptDiscard_sound, State.save_sound, State.updDie_sound, → State.task?_sound]

@[simp] theorem execPreemptByRecord_sound {die : Nat} (hs : Sound s) : Lands (execPreemptByRecord die s) :=
  State.onDie_sound hs fun _ _ h _ => State.preemptWrite_sound h

@[simp] theorem execPreemptDiscard_sound {die : Nat} (hs : Sound s) : Lands (execPreemptDiscard die s) :=
  State.onDie_sound hs fun _ _ h _ => State.preemptWrite_sound h

@[simp] theorem execPreemptDrop_sound {die : Nat} (hs : Sound s) : Lands (execPreemptDrop die s) :=
  State.onDie_sound hs fun _ _ h _ => State.preemptWrite_sound h

/-! ### Suspension and the Wardrobe -/

theorem State.clearTasks_sound {mode : Nat} (hs : Sound s) : Sound (s.clearTasks mode) := by
  unfold State.clearTasks
  grind only [sound_foldl, State.preempt_sound, → State.task?_sound]

theorem State.describe_sound (hs : Sound s) : PartsSound s.describe.dies s.describe.saved s.describe.locks := by
  obtain ⟨_, _, _, _, _, hparts, _⟩ := hs
  exact hparts

theorem withDescriptor_sound {d : Descriptor} {l : List Nat} (hs : Sound s) (hd : PartsSound d.dies d.saved d.locks) :
    Sound { s with descriptor := some d, suspMem := s.mem, modified := l } := by
  obtain ⟨hmem, hhost, hscratch, hsusp, htasks, hparts, hdesc, hward⟩ := hs
  exact ⟨hmem, hhost, hscratch, hmem, htasks, hparts, fun w hw => Option.some.inj hw ▸ hd, hward⟩

theorem withoutScratch_sound (hs : Sound s) : Sound { s with scratch := [] } := by
  obtain ⟨hmem, hhost, hscratch, hrest⟩ := hs
  exact ⟨hmem, hhost, rfl, hrest⟩

theorem State.powerDown_sound (hs : Sound s) : Sound s.powerDown := by
  unfold State.powerDown
  have hdown : Sound (List.foldl (fun (s : State) (c : Chan) => s.writeBack c c.state.code)
      { s with suspN := s.commitSeq, channels := s.channels.map fun (c : Chan) => { c with frozen := c.remote } }
      (s.channels.map fun (c : Chan) => { c with frozen := c.remote })) :=
    sound_foldl hs fun u c hu => State.writeBack_sound hu
  have hdesc := State.describe_sound hdown
  dsimp only
  split
  · exact withDescriptor_sound (l := []) (State.setHomed_sound hdown) hdesc
  · exact withoutScratch_sound (withDescriptor_sound (l := []) (State.setHomed_sound hdown) hdesc)

theorem State.suspendGoOn_sound (hs : Sound s) : Sound s.suspendGoOn := by
  unfold State.suspendGoOn
  grind only [State.clearTasks_sound, State.powerDown_sound]

theorem State.requeueSaved_sound (hs : Sound s) : Sound s.requeueSaved := by
  unfold State.requeueSaved
  grind only [sound_foldl, State.queueImage_sound]

theorem State.resumeAll_sound (hs : Sound s) : Sound s.resumeAll.1 := by
  obtain ⟨hmem, hhost, hscratch, hsusp, hrest⟩ := hs
  exact State.walkersGoOn_sound (State.requeueSaved_sound ⟨hmem, hhost, hscratch, rfl, hrest⟩)

theorem State.suspendWrite_sound {cmd : Nat} {discard : Bool} (hs : Sound s) :
    Sound (s.suspendWrite cmd discard).1 := by
  unfold State.suspendWrite
  grind only [sound_iff, State.resumeAll_sound, State.suspendGoOn_sound]

theorem State.tidy_sound (hs : Sound s) : Sound s.tidy := by
  unfold State.tidy
  grind only [sound_foldl, State.preemptGoOn_sound, State.suspendGoOn_sound]

@[simp] theorem execSuspendShallow_sound {discard : Bool} (hs : Sound s) : Lands (execSuspendShallow discard s) :=
  finish_sound (State.suspendWrite_sound hs)

@[simp] theorem execSuspendDeep_sound {discard : Bool} (hs : Sound s) : Lands (execSuspendDeep discard s) :=
  finish_sound (State.suspendWrite_sound hs)

@[simp] theorem execSuspendWardrobe_sound {discard : Bool} (hs : Sound s) : Lands (execSuspendWardrobe discard s) :=
  finish_sound (State.suspendWrite_sound hs)

theorem State.safeWrite_wf {m : Memory} {d : Descriptor} (hs : Sound s) : (s.safeWrite m d).wf = true := by
  obtain ⟨hmem, _⟩ := hs
  exact Memory.apply_wf (Memory.filter_wf hmem) _

theorem State.safeRead_wf (hs : Sound s) : s.safeRead.wf = true := by
  obtain ⟨hmem, _⟩ := hs
  exact Memory.apply_wf (Memory.filter_wf hmem) _

theorem State.wardrobeAt_sound {d : Descriptor} (hs : Sound s) (hd : s.wardrobeAt = some d) :
    PartsSound d.dies d.saved d.locks := by
  obtain ⟨_, _, _, _, _, _, _, hward⟩ := hs
  obtain ⟨p, hp, rfl⟩ := Option.map_eq_some_iff.mp hd
  exact hward p (List.mem_of_find?_eq_some hp)

@[simp] theorem execWardrobeWrite_sound (hs : Sound s) : Lands (execWardrobeWrite s) := by
  unfold execWardrobeWrite
  split
  · exact hs
  next d hd =>
    split
    · have hmem := State.safeWrite_wf (m := s.suspMem) (d := d) hs
      obtain ⟨_, hhost, hscratch, hsusp, htasks, hparts, hdesc, hward⟩ := hs
      refine ⟨hmem, hhost, hscratch, hsusp, htasks, hparts, hdesc, fun p hp => ?_⟩
      rcases List.mem_cons.mp hp with rfl | hp
      · exact hdesc d hd
      · exact hward p hp
    · exact hs

@[simp] theorem execResume_sound (hs : Sound s) : Lands (execResume s) := finish_sound (State.suspendWrite_sound hs)

theorem State.train_sound (hs : Sound s) : Sound s.train := hs

@[simp] theorem execWardrobeRestore_sound (hs : Sound s) : Lands (execWardrobeRestore s) := by
  unfold execWardrobeRestore
  split
  · exact hs
  split
  · exact hs
  next w hw =>
    obtain ⟨hfour', hdies', hsaved', hlocks'⟩ := State.wardrobeAt_sound hs hw
    have hmem := State.safeRead_wf hs
    obtain ⟨_, hhost, hscratch, hsusp, htasks, ⟨hfour, hdies, _, _⟩, hkept⟩ := hs
    refine ⟨hmem, hhost, hscratch, hsusp, htasks, ⟨by simp [hfour, hfour'], fun x hx => ?_, hsaved', hlocks'⟩, hkept⟩
    obtain ⟨p, hp, rfl⟩ := List.mem_map.mp hx
    exact hdies p.1 (List.of_mem_zip hp).1

/-! ### Thermal regions, soft errors and the timer -/

theorem Die.setRegion_sound {x : Die} {r : Nat} {g : Region} (hx : x.bureau.priv.wf = true) :
    (x.setRegion r g).bureau.priv.wf = true := hx

theorem State.dropCluster_sound {d cluster : Nat} (hs : Sound s) : Sound (s.dropCluster d cluster) := by
  unfold State.dropCluster
  grind only [sound_foldl, State.preemptDiscard_sound]

@[simp] theorem execThermalSample_sound {die region : Nat} {temp : BitVec 16} (hs : Sound s) :
    Lands (execThermalSample die region temp s) := by
  unfold execThermalSample
  grind only [Die.setRegion_sound, State.dropCluster_sound, State.onDie_sound, State.updDie_sound]

theorem Die.stepAll_sound {x : Die} {v : BitVec 3} (hx : x.bureau.priv.wf = true) :
    (x.stepAll v).bureau.priv.wf = true := hx

theorem Die.stepOne_sound {x : Die} {v : BitVec 3} (hx : x.bureau.priv.wf = true) :
    (x.stepOne v).bureau.priv.wf = true := by
  unfold Die.stepOne
  grind only

@[simp] theorem execThrottleSetOne_sound {die : Nat} {level : BitVec 3} (hs : Sound s) :
    Lands (execThrottleSetOne die level s) :=
  State.onDie_sound hs fun _ _ h _ => State.updDie_sound h fun _ => Die.stepOne_sound

@[simp] theorem execThrottleSetAll_sound {die : Nat} {level : BitVec 3} (hs : Sound s) :
    Lands (execThrottleSetAll die level s) := State.onDie_sound hs fun _ _ h _ => State.updDie_sound h fun _ h => h

@[simp] theorem execTimerExpiry_sound {die : Nat} (hs : Sound s) : Lands (execTimerExpiry die s) :=
  State.onDie_sound hs fun _ _ h _ => h

@[simp] theorem execEccEvent_sound {die region : Nat} {uncorrected : Bool} {victim : Word} {sub : BitVec 2} (hs : Sound s) :
    Lands (execEccEvent die region uncorrected victim sub s) := by
  unfold execEccEvent
  grind only [Die.setRegion_sound, State.onDie_sound, State.takeTrap_sound, State.updDie_sound]

/-! ### System registers -/

theorem State.hcwCtl_sound {k : Nat} {v : Word} (hs : Sound s) : Sound (s.hcwCtl k v) := by
  unfold State.hcwCtl
  grind only [sound_iff]

theorem State.stageB_sound (hs : Sound s) : Sound s.stageB := by
  unfold State.stageB
  dsimp only
  split
  · exact hs
  · obtain ⟨hmem, hrest⟩ := hs
    exact ⟨Memory.filter_wf hmem, hrest⟩

theorem State.bootGo_sound (hs : Sound s) : Sound s.bootGo := by
  unfold State.bootGo
  grind only [sound_iff, State.stageB_sound]

theorem sound_fst_ite {β : Type} {c : Prop} [Decidable c] {p q : State × β} (hp : Sound p.1) (hq : Sound q.1) :
    Sound (if c then p else q).1 := by
  split
  · exact hp
  · exact hq

theorem State.regWrite_sound {d num : Nat} {host : Bool} {rw : Word} {wo : Option Word} {clear : Word} (hs : Sound s)
    : Sound (s.regWrite d num host rw wo clear).1 := by
  unfold State.regWrite
  dsimp only
  repeat' refine sound_fst_ite ?_ ?_
  all_goals
  grind only [sound_iff, Die.setQuota_sound, Die.setRegion_sound, Die.stepAll_sound, Die.stepOne_sound,
    State.bootGo_sound, State.gateWrite_sound, State.hcwCtl_sound, State.headWrite_sound, State.homeWaits_sound,
    State.homeWrite_sound, State.maskWrite_sound, State.preemptWrite_sound, State.resolve_sound,
    State.suspendWrite_sound, State.tlbiStart_sound, State.updBureau_sound, State.updDie_sound]

theorem State.regSet_sound {d num : Nat} {host : Bool} {v : Word} (hs : Sound s) :
    Sound (s.regSet d num host v).1 := by
  unfold State.regSet
  grind only [State.regWrite_sound]

@[simp] theorem execRegisterWrite_sound {die : Nat} {num : BitVec 12} {value : Word} (hs : Sound s) :
    Lands (execRegisterWrite die num value s) := State.onDie_sound hs fun _ _ h _ => State.regSet_sound h

@[simp] theorem execDoorbellWrite_sound {die : Nat} {value : BitVec 32} (hs : Sound s) :
    Lands (execDoorbellWrite die value s) := State.onDie_sound hs fun _ _ h _ => State.regSet_sound h

@[simp] theorem execDoorbellRead_sound {die : Nat} (hs : Sound s) : Lands (execDoorbellRead die s) :=
  State.onDie_sound hs fun _ _ h _ => State.updDie_sound h fun _ h => h

@[simp] theorem execHcwCtlWrite_sound {window : Nat} {value : Word} (hs : Sound s) :
    Lands (execHcwCtlWrite window value s) := by
  unfold execHcwCtlWrite
  grind only [Lands, State.hcwCtl_sound]

@[simp] theorem execBootGo_sound (hs : Sound s) : Lands (execBootGo s) := State.bootGo_sound hs

@[simp] theorem execStageBTimeout_sound (hs : Sound s) : Lands (execStageBTimeout s) := by
  unfold execStageBTimeout
  grind only [Lands, State.bootGo_sound]

/-! ### System instructions -/

theorem Task.regWrite_sound {num : Nat} {v : Word} (ht : TaskSound t) : TaskSound (t.regWrite num v) := by
  unfold Task.regWrite
  grind only [TaskSound]

theorem State.bureauRegRead_sound {d num : Nat} (hs : Sound s) : Sound (s.bureauRegRead d num).1 := by
  unfold State.bureauRegRead
  grind only [State.freeBytes_sound, State.updDie_sound]

theorem issueReg_sound {i : Instr} {num : BitVec 12} {d a : Reg} {reads : Bool}
    {f : Option (RegFields → Word → Word → Word × Option Word × Word)} (hs : Sound s) :
    Lands (issueReg i num d a reads f s) := by
  unfold issueReg
  grind only [Bureau.advance_sound, Bureau.setX_sound, State.bureauRegRead_sound, State.putTask_sound,
    State.regWrite_sound, State.takeTrap_sound, State.trapAt_sound, State.updBureau_sound, Task.advance_sound,
    Task.regWrite_sound, Task.setX_sound, issueBoth_sound]

@[simp] theorem execTrap_sound {imm : BitVec 12} (hs : Sound s) : Lands (execTrap imm s) :=
  issueBoth_sound hs (fun _ _ _ h _ => State.takeTrap_sound h) fun _ _ h _ => State.takeTrap_sound h

@[simp] theorem execEret_sound (hs : Sound s) : Lands (execEret s) := by
  unfold execEret
  grind only [Bureau.eret_sound, State.trapAt_sound, State.updBureau_sound, issueBoth_sound]

theorem State.interrupt_sound {d k : Nat} (hs : Sound s) : Sound (s.interrupt d k) := by
  unfold State.interrupt
  grind only [Bureau.enter_sound, State.freeBytes_sound, State.updBureau_sound]

theorem State.wake_sound {d : Nat} (hs : Sound s) : Sound (s.wake d) := by
  unfold State.wake
  grind only [State.interrupt_sound, State.updBureau_sound]

@[simp] theorem execWfi_sound (hs : Sound s) : Lands (execWfi s) := by
  unfold execWfi
  grind only [Bureau.advance_sound, State.trapAt_sound, State.updBureau_sound, State.wake_sound, issueBoth_sound]

@[simp] theorem execBureauTrapEntry_sound {die : Nat} (hs : Sound s) : Lands (execBureauTrapEntry die s) := by
  unfold execBureauTrapEntry
  grind only [State.onDie_sound, State.wake_sound]

@[simp] theorem execWfiWake_sound {die : Nat} (hs : Sound s) : Lands (execWfiWake die s) := by
  unfold execWfiWake
  grind only [State.onDie_sound, State.wake_sound]

/-! ### Channel instructions -/

theorem State.cte_sound {num : Nat} (hs : Sound s) : Sound (s.cte t num).1 := by
  unfold State.cte
  grind only [State.access_sound, State.touch_sound]

theorem State.openChan_sound {num : Nat} (hs : Sound s) : Sound (s.openChan t num).1 := by
  unfold State.openChan
  grind only [State.cte_sound]

theorem State.chanErr_sound {i : Instr} {num : Nat} {x : ChanErr} (hs : Sound s) (ht : TaskSound t) :
    Sound (s.chanErr t i num x).1 := by
  unfold State.chanErr
  grind only [State.freezeThread_sound, State.trapAt_sound, Task.block_sound]

theorem State.holdPush_sound {k : Nat} {c : Chan} {e : List Byte} (ht : TaskSound t) :
    Answers (fun p => TaskSound p) (s.holdPush t k c e) := by
  unfold State.holdPush
  dsimp only
  split
  · refine answers_map ?_
    exact State.growShare_sound ht
  · exact ht

theorem State.noticePopped_sound {e : Entry} (ht : TaskSound t) : TaskSound (s.noticePopped t e) := by
  unfold State.noticePopped
  grind only [TaskSound]

theorem State.pushWait_sound {i : Instr} {c : Chan} {e : List Byte} (hs : Sound s) (ht : TaskSound t) :
    Sound (s.pushWait t i c e).1 := by
  unfold State.pushWait
  grind only [TaskSound, Answers, State.holdPush_sound, State.putTask_sound, State.threadErr_sound,
    Task.advance_sound, Task.block_sound, Task.gotSpace_sound]

theorem pushBody_sound {i : Instr} {word : Bool} {a b : Reg} (hs : Sound s) (ht : TaskSound t) :
    Sound (pushBody i word a b s t).1 := by
  unfold pushBody
  grind only [State.chanErr_sound, State.openChan_sound, State.pushWait_sound, State.putTask_sound,
    State.trapAt_sound, Task.block_sound]

theorem popBody_sound {i : Instr} {word : Bool} {d a b : Reg} (hs : Sound s) (ht : TaskSound t) :
    Sound (popBody i word d a b s t).1 := by
  unfold popBody
  grind only [State.chanErr_sound, State.noticePopped_sound, State.openChan_sound, State.putChan_sound,
    State.putTask_sound, State.scratchWrite_sound, State.trapAt_sound, Task.advance_sound, Task.block_sound,
    Task.setX_sound]

theorem peekBody_sound {d a : Reg} (hs : Sound s) (ht : TaskSound t) : Sound (peekBody d a s t).1 := by
  unfold peekBody
  grind only [State.chanErr_sound, State.openChan_sound, State.putTask_sound, State.trapAt_sound, Task.advance_sound,
    Task.block_sound, Task.setX_sound]

@[simp] theorem execChPushW_sound {a b : Reg} (hs : Sound s) : Lands (execChPushW a b s) :=
  issueTask_sound hs fun _ _ => pushBody_sound

@[simp] theorem execChPushD_sound {a b : Reg} (hs : Sound s) : Lands (execChPushD a b s) :=
  issueTask_sound hs fun _ _ => pushBody_sound

@[simp] theorem execChPopW_sound {d a : Reg} (hs : Sound s) : Lands (execChPopW d a s) :=
  issueTask_sound hs fun _ _ => popBody_sound

@[simp] theorem execChPopD_sound {d a b : Reg} (hs : Sound s) : Lands (execChPopD d a b s) :=
  issueTask_sound hs fun _ _ => popBody_sound

@[simp] theorem execChPeek_sound {d a : Reg} (hs : Sound s) : Lands (execChPeek d a s) :=
  issueTask_sound hs fun _ _ => peekBody_sound

theorem State.spillPages_sound {d ctx cls n n' : Nat} (hs : Sound s) : Sound (s.spillPages d ctx cls n n').1 := by
  induction n' generalizing s n with
  | zero => exact hs
  | succ k ih =>
    unfold State.spillPages
    grind only [State.access_sound, State.touch_sound, State.translate_sound]

theorem State.makeChan_sound {d ctx cls num pa : Nat} (hs : Sound s) : Sound (s.makeChan d ctx cls num pa).1 := by
  unfold State.makeChan
  grind only [sound_iff, State.setSlice_sound, State.spillPages_sound]

theorem State.claim_sound {c : Chan} {h : Word} {side : Bool} (hs : Sound s) : Sound (s.claim c h side).1 := by
  unfold State.claim
  grind only [State.putChan_sound]

@[simp] theorem execChOpen_sound {d a : Reg} (hs : Sound s) : Lands (execChOpen d a s) := by
  unfold execChOpen
  grind only [State.chanErr_sound, State.claim_sound, State.cte_sound, State.makeChan_sound, State.putTask_sound,
    State.trapAt_sound, Task.advance_sound, Task.setX_sound, issueTask_sound]

@[simp] theorem execChClose_sound {d a : Reg} (hs : Sound s) : Lands (execChClose d a s) := by
  unfold execChClose
  grind only [TaskSound, State.chanErr_sound, State.cte_sound, State.putTask_sound, State.trapAt_sound,
    Task.advance_sound, Task.setX_sound, issueTask_sound]

@[simp] theorem execChStat_sound {d a : Reg} (hs : Sound s) : Lands (execChStat d a s) := by
  unfold execChStat
  grind only [State.chanErr_sound, State.cte_sound, State.putTask_sound, State.trapAt_sound, Task.advance_sound,
    Task.setX_sound, issueTask_sound]

theorem State.peerAnswer_sound {port : BitVec 4} (hs : Sound s) : Sound (s.peerAnswer port).1 := by
  unfold State.peerAnswer
  grind only [sound_iff]

@[simp] theorem execChBind_sound {d a b : Reg} (hs : Sound s) : Lands (execChBind d a b s) := by
  refine issueTask_sound hs fun u t hu ht => ?_
  dsimp only
  split
  · exact State.trapAt_sound hu
  split
  · exact State.trapAt_sound hu
  · grind only [sound_iff, State.chanErr_sound, State.cte_sound, State.peerAnswer_sound, State.putChan_sound,
      State.putTask_sound, Task.advance_sound, Task.setX_sound]

@[simp] theorem execChannelForward_sound {ctx num : Nat} (hs : Sound s) : Lands (execChannelForward ctx num s) := by
  unfold execChannelForward
  grind only [sound_iff, Lands, State.putChan_sound]

@[simp] theorem execChannelPeerAck_sound {ctx : Nat} {ack : PeerAck} (hs : Sound s) :
    Lands (execChannelPeerAck ctx ack s) := by
  unfold execChannelPeerAck
  grind only [Lands, State.putChan_sound, State.tryClose_sound, State.zeroPages_sound]

@[simp] theorem execLinkFailure_sound {die port : Nat} (hs : Sound s) : Lands (execLinkFailure die port s) :=
  State.onDie_sound hs fun _ _ h _ => h

@[simp] theorem execPeerUnbind_sound {ctx num : Nat} {ack : Bool} (hs : Sound s) : Lands (execPeerUnbind ctx num ack s) := by
  unfold execPeerUnbind
  grind only [sound_iff, Lands, State.closeChan_sound, State.putChan_sound]

@[simp] theorem execPeerBindHandshake_sound {ctx num : Nat} {peer far : BitVec 16} {port : BitVec 4} {offer : PeerOffer}
    (hs : Sound s) : Lands (execPeerBindHandshake ctx num peer far port offer s) := by
  unfold execPeerBindHandshake
  grind only [sound_iff, Lands, State.putChan_sound]

@[simp] theorem execChannelPushRelease_sound {h : Word} (hs : Sound s) : Lands (execChannelPushRelease h s) := by
  unfold execChannelPushRelease
  grind only [State.onTask_sound, pushBody_sound]

@[simp] theorem execChannelPopRelease_sound {h : Word} (hs : Sound s) : Lands (execChannelPopRelease h s) := by
  unfold execChannelPopRelease
  grind only [State.onTask_sound, peekBody_sound, popBody_sound]

/-! ### Compute units -/

theorem Task.emit_sound {c : Nat} {l : List (Nat × Item)} (ht : TaskSound t) :
    Opt (fun p => TaskSound p) (t.emit c l) := by
  fun_induction Task.emit t c l <;> grind only [Opt, Task.place_sound]

theorem Task.takePorts_sound {c : Nat} {ps : List Nat} (ht : TaskSound t) : TaskSound (t.takePorts c ps) :=
  taskSound_foldl ht fun _ _ => Task.take_sound

theorem Task.fired_sound {x : Cell} {v : BitVec 240} {taken : List Nat} {first : Option LinkRec} (ht : TaskSound t) :
    Opt (fun p => TaskSound p) (t.fired x v taken first) := by
  unfold Task.fired
  grind only [Opt, Task.emit_sound, Task.flag_sound, Task.putCell_sound, Task.takePorts_sound]

theorem Task.breakBeat_sound {c : Trap} {sub addr : Nat} (ht : TaskSound t) : TaskSound (t.breakBeat c sub addr) := ht

theorem Task.cuFire_sound {x : Cell} {v : BitVec 240} (ht : TaskSound t) :
    Answers (fun p => TaskSound p) (t.cuFire x v) := by
  unfold Task.cuFire
  grind only [Answers, Opt, Task.breakBeat_sound, Task.fired_sound, Task.putCell_sound, Task.takePorts_sound]

theorem Task.pmtEnter_sound {x : Cell} {v : BitVec 240} (ht : TaskSound t) :
    Answers (fun p => TaskSound p) (t.pmtEnter x v) := by
  unfold Task.pmtEnter
  grind only [Answers, Opt, Task.emit_sound, Task.putCell_sound, Task.takePorts_sound]

theorem Task.pmtExit_sound {x : Cell} {v : BitVec 240} (ht : TaskSound t) :
    Answers (fun p => TaskSound p) (t.pmtExit x v) := by
  unfold Task.pmtExit
  grind only [Answers, Opt, Task.emit_sound, Task.takePorts_sound]

theorem Task.ctlBeat_sound {x : Cell} {v : BitVec 240} (ht : TaskSound t) :
    Answers (fun p => TaskSound p) (t.ctlBeat x v) := by
  have hput : ∀ (u : Task) (c : CtlState), TaskSound u →
      TaskSound (match u.cell? x.idx with | some y => u.putCell { y with ctl := c } | none => u) := by
    intro u c hu
    split
    · exact Task.putCell_sound hu
    · exact hu
  unfold Task.ctlBeat
  dsimp only
  split
  · exact True.intro
  · exact True.intro
  next c ta tb _ =>
    have hsent : ∀ c' l, Opt (fun u => TaskSound u) (((t.takePorts x.idx ((if ta then [cuSel v 0 0] else []) ++
        (if tb then [cuSel v 0 1] else []))).emit x.idx l).map fun u =>
          match u.cell? x.idx with | some y => u.putCell { y with ctl := c' } | none => u) := by
      intro c' l
      have hemit := Task.emit_sound (c := x.idx) (l := l) (Task.takePorts_sound (c := x.idx)
        (ps := (if ta then [cuSel v 0 0] else []) ++ (if tb then [cuSel v 0 1] else [])) ht)
      revert hemit
      cases Task.emit _ _ _ with
      | none => exact id
      | some u => exact hput u c'
    split
    next u hu =>
      cases hgo : c.go with
      | none => rw [hgo] at hu; cases hu
      | some g =>
        rw [hgo] at hu
        dsimp only at hu
        split at hu
        · exact (hu ▸ hsent _ _ : Opt _ (some u))
        split at hu
        · cases hu
        · exact (hu ▸ hsent _ _ : Opt _ (some u))
    · split
      · exact hput _ c (Task.takePorts_sound ht)
      · exact True.intro

theorem Task.barFire_sound {x : Cell} {v : BitVec 240} (ht : TaskSound t) :
    Answers (fun p => TaskSound p) (t.barFire x v) := by
  unfold Task.barFire
  grind only [Answers, Opt, Task.emit_sound, Task.takePorts_sound]

theorem State.rnodeLanes_sound {x : Cell} {op base : Nat} {a b : List Lane} {perf : BitVec 16} {l : List Nat}
    (hs : Sound s) (ht : TaskSound t) :
    Answers (fun p => Sound p.1 ∧ TaskSound p.2) (s.rnodeLanes x op base a b perf l t) := by
  fun_induction State.rnodeLanes x op base a b perf l s t <;> grind only [Answers, State.holdRed_sound,
    Task.gotSpace_sound]

theorem State.rnodeFire_sound {x : Cell} {v : BitVec 240} (hs : Sound s) (ht : TaskSound t) :
    Answers (fun p => Sound p.1 ∧ TaskSound p.2) (s.rnodeFire t x v) := by
  unfold State.rnodeFire
  grind only [Answers, Opt, State.rnodeLanes_sound, Task.fired_sound]

theorem Task.portalOut_sound {x : Cell} {v : BitVec 240} (ht : TaskSound t) :
    Opt (fun p => TaskSound p) (t.portalOut x v) := by
  unfold Task.portalOut
  grind only [Opt, Task.emit_sound, Task.putCell_sound]

theorem State.portalFire_sound {x : Cell} {v : BitVec 240} (hs : Sound s) (ht : TaskSound t) :
    Answers (fun p => Sound p.1 ∧ TaskSound p.2) (s.portalFire t x v) := by
  unfold State.portalFire
  dsimp only
  split
  · grind only [Answers, Opt, Task.portalOut_sound]
  split
  · exact True.intro
  split
  · exact True.intro
  split
  · exact True.intro
  split
  · exact True.intro
  · grind only [sound_iff, TaskSound, Answers, Opt, Task.emit_sound, Task.takePorts_sound, Task.putCell_sound,
      Task.breakBeat_sound]

theorem State.cuBeat_sound {x : Cell} {v : BitVec 240} (hs : Sound s) (ht : TaskSound t) :
    Answers (fun p => Sound p.1 ∧ TaskSound p.2) (s.cuBeat t x v) := by
  unfold State.cuBeat
  grind only [State.portalFire_sound, State.rnodeFire_sound, Task.barFire_sound, Task.ctlBeat_sound,
    Task.cuFire_sound, Task.pmtEnter_sound, Task.pmtExit_sound, answers_beside]

/-! ### Memory units -/

theorem State.muWrite_sound {x : Cell} {v : BitVec 240} {i : Nat} {r : LinkRec} (hs : Sound s) :
    Sound (s.muWrite t x v i r) := by
  unfold State.muWrite
  grind only [sound_foldl, State.scratchWrite_sound]

theorem State.muSource_sound {x : Cell} {v : BitVec 240} (hs : Sound s) (ht : TaskSound t) :
    Answers (fun p => Sound p.1 ∧ TaskSound p.2) (s.muSource t x v) := by
  unfold State.muSource
  grind only [Answers, Opt, Task.place_sound, Task.putCell_sound]

theorem State.muRecord_sound {x : Cell} {v : BitVec 240} {r : LinkRec} (hs : Sound s) (ht : TaskSound t) :
    Answers (fun p => Sound p.1 ∧ TaskSound p.2) (s.muRecord t x v r) := by
  unfold State.muRecord
  grind only [Answers, Opt, State.muWrite_sound, Task.place_sound, Task.putCell_sound, Task.take_sound]

theorem State.muToken_sound {x : Cell} {v : BitVec 240} {k : BitVec 36} (hs : Sound s) (ht : TaskSound t) :
    Answers (fun p => Sound p.1 ∧ TaskSound p.2) (s.muToken t x v k) := by
  unfold State.muToken
  grind only [Answers, Opt, State.muWrite_sound, Task.place_sound, Task.putCell_sound, Task.take_sound]

theorem State.muTake_sound {x : Cell} {v : BitVec 240} (hs : Sound s) (ht : TaskSound t) :
    Answers (fun p => Sound p.1 ∧ TaskSound p.2) (s.muTake t x v) := by
  unfold State.muTake
  grind only [Answers, State.muRecord_sound, State.muToken_sound]

theorem State.muBeat_sound {x : Cell} {v : BitVec 240} (hs : Sound s) (ht : TaskSound t) :
    Answers (fun p => Sound p.1 ∧ TaskSound p.2) (s.muBeat t x v) := by
  unfold State.muBeat
  grind only [Answers, State.muSource_sound, State.muTake_sound]

/-! ### Fibre mode -/

theorem Task.consume_sound {c n : Nat} {a : Accept} (ht : TaskSound t) : TaskSound (t.consume c n a) := by
  unfold Task.consume
  grind only [Task.putCell_sound, Task.take_sound]

theorem Task.updCell_sound {c : Nat} {f : Cell → Cell} (ht : TaskSound t) : TaskSound (t.updCell c f) := by
  unfold Task.updCell
  grind only [Task.putCell_sound]

theorem Task.rewind_sound {c n : Nat} (ht : TaskSound t) : TaskSound (t.rewind c n) := by
  unfold Task.rewind
  grind only [Task.putCell_sound]

theorem Task.endPass_sound {c : Nat} (ht : TaskSound t) : TaskSound (t.endPass c) := by
  unfold Task.endPass
  grind only [Task.putCell_sound]

theorem Task.emitAll_sound {x : Cell} {v : BitVec 240} {k : BitVec 36} (ht : TaskSound t) :
    Opt (fun p => TaskSound p) (t.emitAll x v k) := Task.emit_sound ht

theorem orIdle_sound {o : Option Task} (hs : Sound s) (ho : Opt (fun p => TaskSound p) o) :
    Answers (fun p => Sound p.1 ∧ TaskSound p.2) (orIdle s o) := by
  unfold orIdle
  grind only [Answers, Opt]

theorem Task.takeUnit_sound {c : Nat} {ps : List Nat} (ht : TaskSound t) : TaskSound (t.takeUnit c ps) := by
  unfold Task.takeUnit
  grind only [taskSound_foldl, Task.putCell_sound, Task.take_sound]

theorem Task.unitItems_sound {x : Cell} {v : BitVec 240} {toks : Nat → BitVec 36} (ht : TaskSound t) :
    Opt (fun p => TaskSound p) (t.unitItems x v toks) := by
  unfold Task.unitItems
  grind only [Opt, Task.emit_sound, Task.flag_sound, Task.putCell_sound, Task.takeUnit_sound]

theorem State.unitBeat_sound {x : Cell} {v : BitVec 240} (hs : Sound s) (ht : TaskSound t) :
    Answers (fun p => Sound p.1 ∧ TaskSound p.2) (s.unitBeat t x v) := by
  unfold State.unitBeat
  extract_lets heads bad toks ks isItem
  have hall : ∀ ps k, Answers (fun p => Sound p.1 ∧ TaskSound p.2) (orIdle s ((t.takeUnit x.idx ps).emitAll x v k)) :=
    fun ps k => orIdle_sound hs (Task.emitAll_sound (Task.takeUnit_sound ht))
  split
  · exact answers_error
  split
  · exact hall _ _
  refine answers_ite answers_error ?_
  refine answers_ite (answers_ite (hall _ _) (orIdle_sound hs (Task.unitItems_sound ht))) ?_
  clear_value ks
  split
  · exact answers_ite (hall _ _) answers_error
  · exact answers_ite (hall _ _) answers_error
  · exact answers_error

theorem Task.consumeAll_sound {c : Nat} {j : JoinPorts} {ps : List Nat} (ht : TaskSound t) :
    TaskSound (t.consumeAll c j ps) := taskSound_foldl ht fun _ _ => Task.consume_sound

theorem Task.emitJoin_sound {x : Cell} {v : BitVec 240} {imm : Nat} {r ca cb : BitVec 36} (ht : TaskSound t) :
    Opt (fun p => TaskSound p) (t.emitJoin x v imm r ca cb) := Task.emit_sound ht

theorem Task.act_sound {c : Nat} {j : JoinPorts} {ps : List Nat} {isItem : Bool} {action : Nat} (ht : TaskSound t) :
    TaskSound (t.act c j ps isItem action) := by
  unfold Task.act
  grind only [taskSound_foldl, Task.consumeAll_sound, Task.rewind_sound]

theorem State.joinItems_sound {x : Cell} {v : BitVec 240} {j : JoinPorts} {o : Nat} {ka kb ca cb : BitVec 36}
    (hs : Sound s) (ht : TaskSound t) :
    Answers (fun p => Sound p.1 ∧ TaskSound p.2) (s.joinItems t x v j o ka kb ca cb) := by
  unfold State.joinItems
  grind only [Answers, Task.act_sound, Task.emitJoin_sound, orIdle_sound]

theorem State.joinPass_sound {x : Cell} {v : BitVec 240} {j : JoinPorts} {ps : List Nat} {k : BitVec 36}
    (hs : Sound s) (ht : TaskSound t) : Answers (fun p => Sound p.1 ∧ TaskSound p.2) (s.joinPass t x v j ps k) :=
  orIdle_sound hs (Task.emitAll_sound (Task.consumeAll_sound ht))

theorem State.joinTwo_sound {x : Cell} {v : BitVec 240} {j : JoinPorts} {ka kb ca cb : BitVec 36} (hs : Sound s)
    (ht : TaskSound t) : Answers (fun p => Sound p.1 ∧ TaskSound p.2) (s.joinTwo t x v j ka kb ca cb) := by
  unfold State.joinTwo
  grind only [Answers, answers_map_self, State.joinItems_sound, State.joinPass_sound, Task.endPass_sound]

theorem State.joinRepeat_sound {x : Cell} {v : BitVec 240} {j : JoinPorts} {ka kb ca : BitVec 36} (hs : Sound s)
    (ht : TaskSound t) : Answers (fun p => Sound p.1 ∧ TaskSound p.2) (s.joinRepeat t x v j ka kb ca) := by
  unfold State.joinRepeat
  grind only [Answers, answers_map_self, State.joinItems_sound, State.joinPass_sound, Task.consumeAll_sound,
    Task.endPass_sound, Task.updCell_sound]

theorem Task.emitRun_sound {x : Cell} {v : BitVec 240} {j : JoinPorts} {coord : BitVec 32} (ht : TaskSound t) :
    Opt (fun p => TaskSound p) (t.emitRun x v j coord) := Task.emitJoin_sound ht

theorem State.joinReduce_sound {x : Cell} {v : BitVec 240} {j : JoinPorts} {ka ca : BitVec 36} (hs : Sound s)
    (ht : TaskSound t) : Answers (fun p => Sound p.1 ∧ TaskSound p.2) (s.joinReduce t x v j ka ca) := by
  unfold State.joinReduce
  grind only [Answers, answers_map_self, State.joinPass_sound, Task.consumeAll_sound, Task.emitRun_sound,
    Task.endPass_sound, Task.flag_sound, Task.updCell_sound, orIdle_sound]

theorem State.joinStop_sound {x : Cell} {v : BitVec 240} {j : JoinPorts} {ka ca cb : BitVec 36} (hs : Sound s)
    (ht : TaskSound t) : Answers (fun p => Sound p.1 ∧ TaskSound p.2) (s.joinStop t x v j ka ca cb) := by
  unfold State.joinStop
  grind only [Answers, answers_map_self, State.joinPass_sound, Task.consumeAll_sound, Task.emitJoin_sound,
    Task.endPass_sound, orIdle_sound]

theorem State.joinCount_sound {x : Cell} {v : BitVec 240} {j : JoinPorts} {ka : BitVec 36} (hs : Sound s)
    (ht : TaskSound t) : Answers (fun p => Sound p.1 ∧ TaskSound p.2) (s.joinCount t x v j ka) := by
  unfold State.joinCount
  grind only [Answers, answers_map_self, State.joinPass_sound, Task.consumeAll_sound, Task.emitJoin_sound,
    Task.endPass_sound, Task.updCell_sound, orIdle_sound]

theorem State.joinHeader_sound {x : Cell} {v : BitVec 240} {j : JoinPorts} {w : BitVec 32} (hs : Sound s)
    (ht : TaskSound t) : Answers (fun p => Sound p.1 ∧ TaskSound p.2) (s.joinHeader t x v j w) := by
  unfold State.joinHeader
  grind only [Answers, Task.emitAll_sound, Task.putCell_sound, Task.take_sound, orIdle_sound]

theorem State.joinBeat_sound {x : Cell} {v0 : BitVec 240} (hs : Sound s) (ht : TaskSound t) :
    Answers (fun p => Sound p.1 ∧ TaskSound p.2) (s.joinBeat t x v0) := by
  unfold State.joinBeat
  extract_lets j0 v y u j heads tok ka kb ca cb
  split
  · exact answers_error
  · split
    · exact answers_error
    · exact State.joinHeader_sound hs ht
  · refine answers_ite answers_error ?_
    have hu : TaskSound u := Task.putCell_sound ht
    split
    · exact answers_error
    refine answers_ite answers_error ?_
    clear_value ka kb ca cb u y j
    refine answers_ite answers_error (answers_ite answers_error (answers_ite answers_error ?_))
    split
    · exact State.joinRepeat_sound hs hu
    · exact State.joinReduce_sound hs hu
    · exact State.joinStop_sound hs hu
    · exact State.joinCount_sound hs hu
    · exact State.joinTwo_sound hs hu

theorem State.fibreBeat_sound {x : Cell} {v : BitVec 240} (hs : Sound s) (ht : TaskSound t) :
    Answers (fun p => Sound p.1 ∧ TaskSound p.2) (s.fibreBeat t x v) := by
  unfold State.fibreBeat
  grind only [State.joinBeat_sound, State.unitBeat_sound]

/-! ### Edge address generators -/

theorem Task.agBad_sound {a : Ag} {sub port : Nat} :
    Answers (fun p => Sound p.1 ∧ TaskSound p.2) (t.agBad a sub port) := answers_error

theorem Task.updAg_sound {p : Nat} {f : Ag → Ag} (ht : TaskSound t) : TaskSound (t.updAg p f) := by
  unfold Task.updAg
  grind only [Task.putAg_sound]

theorem State.agRead_sound {a : Ag} {va n counter : Nat} (hs : Sound s) (ht : TaskSound t) :
    Answers (fun p => Sound p.1 ∧ TaskSound p.2.1) (s.agRead t a va n counter) := by
  unfold State.agRead
  grind only [Answers, State.viewRead_sound]

theorem State.agWrite_sound {a : Ag} {va : Nat} {l : List Byte} {counter : Nat} (hs : Sound s) (ht : TaskSound t) :
    Answers (fun p => Sound p.1 ∧ TaskSound p.2) (s.agWrite t a va l counter) := by
  unfold State.agWrite
  grind only [Answers, State.viewWrite_sound, Task.gotSpace_sound]

theorem State.laneOfElement_sound {a : Ag} {v : Nat} (hs : Sound s) : Sound (s.laneOfElement a v).1 := by
  unfold State.laneOfElement
  grind only [State.freeBytes_sound]

theorem Task.agEmit_sound {a : Ag} (ht : TaskSound t) : Opt (fun p => TaskSound p) (t.agEmit a) := by
  unfold Task.agEmit
  extract_lets q try1 try2
  have htry1 : ∀ u, TaskSound u → Opt (fun u => TaskSound u) (try1 u) := by
    intro u hu
    dsimp only [try1]
    split
    · exact Task.place_sound (Task.updAg_sound hu)
    · exact True.intro
  have htry2 : ∀ u, TaskSound u → Opt (fun u => TaskSound u) (try2 u) := by
    intro u hu
    dsimp only [try2]
    split
    · exact Task.place_sound (Task.updAg_sound hu)
    · exact True.intro
  have hfirst := htry1 t ht
  split
  next t1 he =>
    rw [he] at hfirst
    exact opt_getD (htry2 t1 hfirst) hfirst
  · exact htry2 t ht

theorem Task.agEndPass_sound {a : Ag} (ht : TaskSound t) : TaskSound (t.agEndPass a) := by
  unfold Task.agEndPass
  grind only [Task.finish_sound, Task.updAg_sound]

theorem State.agHeader_sound {a : Ag} {w : BitVec 32} (hs : Sound s) (ht : TaskSound t) :
    Answers (fun p => Sound p.1 ∧ TaskSound p.2) (s.agHeader t a w) := by
  unfold State.agHeader
  grind only [Answers, Task.agBad_sound, Task.take_sound, Task.updAg_sound]

theorem State.affineRead_sound {a : Ag} {p : Pass} (hs : Sound s) (ht : TaskSound t) :
    Answers (fun p => Sound p.1 ∧ TaskSound p.2) (s.affineRead t a p) := by
  unfold State.affineRead
  grind only [Answers, State.agRead_sound, State.laneOfElement_sound, Task.updAg_sound]

theorem State.affineLanes_sound {a : Ag} {r : LinkRec} {pos : Nat} {l : List Nat} (hs : Sound s) (ht : TaskSound t) :
    Answers (fun p => Sound p.1 ∧ TaskSound p.2) (s.affineLanes t a r pos l) := by
  fun_induction State.affineLanes s t a r pos l <;> grind only [Answers, State.agWrite_sound, State.freeBytes_sound]

theorem State.affineToken_sound {a : Ag} {k : BitVec 36} (hs : Sound s) (ht : TaskSound t) :
    Answers (fun p => Sound p.1 ∧ TaskSound p.2) (s.affineToken t a k) := by
  unfold State.affineToken
  extract_lets expects wants t1 took closed next item
  have ht1 : TaskSound t1 := Task.take_sound ht
  have htook : ∀ u f, TaskSound u → TaskSound (took u f) := fun u f hu => Task.updAg_sound hu
  have hitem : ∀ b, Answers (fun p => Sound p.1 ∧ TaskSound p.2) (item b) := by
    intro b
    dsimp only [item]
    refine answers_ite Task.agBad_sound (answers_ite Task.agBad_sound (answers_ite Task.agBad_sound (answers_ite ?_ ?_)))
    · exact ⟨hs, htook _ _ ht1⟩
    · exact answers_map_self (State.agWrite_sound hs ht1) fun r hr => ⟨hr.1, htook _ _ hr.2⟩
  clear_value item took t1
  generalize tokOf k = tok
  cases tok with
  | v w => exact hitem true
  | e => exact hitem false
  | stop j => exact answers_ite Task.agBad_sound (answers_ite ⟨hs, htook _ _ ht1⟩ Task.agBad_sound)
  | done => exact answers_ite ⟨hs, htook _ _ ht1⟩ Task.agBad_sound
  | h w => exact Task.agBad_sound
  | c w => exact Task.agBad_sound
  | f w => exact Task.agBad_sound
  | bad => exact Task.agBad_sound

theorem State.affineBeat_sound {a : Ag} (hs : Sound s) (ht : TaskSound t) :
    Answers (fun p => Sound p.1 ∧ TaskSound p.2) (s.affineBeat t a) := by
  unfold State.affineBeat
  have hemit := Task.agEmit_sound (a := a) ht
  refine answers_ite ?_ ?_
  · grind only [Answers, Opt, State.affineRead_sound, Task.agEndPass_sound]
  split
  · exact answers_error
  · exact State.affineToken_sound hs ht
  · exact answers_map_self (State.affineLanes_sound hs (Task.take_sound ht)) fun q hq => ⟨hq.1, Task.updAg_sound hq.2⟩

theorem State.gatherReply_sound {a : Ag} {i : Nat} (hs : Sound s) (ht : TaskSound t) :
    Answers (fun p => Sound p.1 ∧ TaskSound p.2) (s.gatherReply t a i) := by
  unfold State.gatherReply
  grind only [Answers, State.agRead_sound, Task.updAg_sound]

theorem Task.gatherEmit_sound {a : Ag} (ht : TaskSound t) : Opt (fun p => TaskSound p) (t.gatherEmit a) := by
  unfold Task.gatherEmit
  grind only [Opt, Task.place_sound, Task.updAg_sound]

theorem State.gatherTake_sound {a0 : Ag} (hs : Sound s) (ht : TaskSound t) :
    Answers (fun p => Sound p.1 ∧ TaskSound p.2) (s.gatherTake t a0) := by
  unfold State.gatherTake
  grind only [Answers, State.agHeader_sound, Task.agBad_sound, Task.putAg_sound, Task.take_sound, Task.updAg_sound]

theorem State.gatherBeat_sound {a : Ag} (hs : Sound s) (ht : TaskSound t) :
    Answers (fun p => Sound p.1 ∧ TaskSound p.2) (s.gatherBeat t a) := by
  unfold State.gatherBeat
  grind only [Answers, Opt, State.gatherTake_sound, Task.gatherEmit_sound]

theorem State.scatterBeat_sound {a0 : Ag} (hs : Sound s) (ht : TaskSound t) :
    Answers (fun p => Sound p.1 ∧ TaskSound p.2) (s.scatterBeat t a0) := by
  unfold State.scatterBeat
  grind only [Answers, State.agHeader_sound, State.agWrite_sound, Task.agBad_sound, Task.putAg_sound, Task.take_sound,
    Task.updAg_sound]

theorem State.levelWord_sound {a : Ag} {base i : Nat} (hs : Sound s) (ht : TaskSound t) :
    Answers (fun p => Sound p.1 ∧ TaskSound p.2.1) (s.levelWord t a base i) := State.agRead_sound hs ht

theorem State.levelFibre_sound {a : Ag} {r : Nat} (hs : Sound s) (ht : TaskSound t) :
    Answers (fun p => Sound p.1 ∧ TaskSound p.2.1) (s.levelFibre t a r) := by
  unfold State.levelFibre
  grind only [Answers, State.levelWord_sound]

theorem State.levelCoord_sound {a : Ag} {p j : Nat} (hs : Sound s) (ht : TaskSound t) :
    Answers (fun p => Sound p.1 ∧ TaskSound p.2.1) (s.levelCoord t a p j) := by
  unfold State.levelCoord
  grind only [Answers, State.levelWord_sound]

theorem State.levelTokens_sound {a : Ag} {lo : Nat} {l : List Nat} (hs : Sound s) (ht : TaskSound t) :
    Answers (fun p => Sound p.1 ∧ TaskSound p.2.1) (s.levelTokens a lo l t) := by
  fun_induction State.levelTokens a lo l s t <;> grind only [Answers, State.levelCoord_sound]

theorem State.levelTake_sound {a0 : Ag} (hs : Sound s) (ht : TaskSound t) :
    Answers (fun p => Sound p.1 ∧ TaskSound p.2) (s.levelTake t a0) := by
  unfold State.levelTake
  split
  · exact answers_error
  split
  · exact State.agHeader_sound hs ht
  extract_lets a t1 both
  have ht1 : TaskSound t1 := Task.updAg_sound (Task.take_sound (Task.putAg_sound ht))
  have hboth : ∀ k o, Answers (fun p => Sound p.1 ∧ TaskSound p.2) (both k o) := fun k o => ⟨hs, Task.updAg_sound ht1⟩
  split
  · exact Task.agBad_sound
  split
  · exact answers_ite Task.agBad_sound (hboth _ _)
  · exact hboth _ _
  · refine answers_ite Task.agBad_sound ?_
    clear_value t1
    grind only [Answers, State.levelFibre_sound, State.levelTokens_sound, Task.updAg_sound]

theorem State.levelBeat_sound {a : Ag} (hs : Sound s) (ht : TaskSound t) :
    Answers (fun p => Sound p.1 ∧ TaskSound p.2) (s.levelBeat t a) := by
  unfold State.levelBeat
  grind only [Answers, Opt, State.levelTake_sound, State.levelTokens_sound, Task.agEmit_sound, Task.agEndPass_sound,
    Task.updAg_sound]

theorem State.channelPop_sound {a : Ag} {p : Pass} (hs : Sound s) (ht : TaskSound t) :
    Answers (fun p => Sound p.1 ∧ TaskSound p.2) (s.channelPop t a p) := by
  unfold State.channelPop
  grind only [Answers, State.openChan_sound, State.putChan_sound, Task.agBad_sound, Task.updAg_sound]

theorem State.channelPush_sound {a : Ag} (hs : Sound s) (ht : TaskSound t) :
    Answers (fun p => Sound p.1 ∧ TaskSound p.2) (s.channelPush t a) := by
  unfold State.channelPush
  dsimp only
  split
  · exact answers_error
  split
  · exact Task.agBad_sound
  split
  · exact answers_error
  split
  · exact answers_error
  refine answers_ite answers_error (answers_ite answers_error ?_)
  grind only [Answers, State.openChan_sound, State.holdPush_sound, Task.gotSpace_sound, Task.take_sound, Task.updAg_sound]

theorem State.channelBeat_sound {a : Ag} (hs : Sound s) (ht : TaskSound t) :
    Answers (fun p => Sound p.1 ∧ TaskSound p.2) (s.channelBeat t a) := by
  unfold State.channelBeat
  grind only [Answers, Opt, State.channelPop_sound, State.channelPush_sound, Task.agEmit_sound, Task.agEndPass_sound]

theorem State.agBeat_sound {a : Ag} (hs : Sound s) (ht : TaskSound t) :
    Answers (fun p => Sound p.1 ∧ TaskSound p.2) (s.agBeat t a) := by
  unfold State.agBeat
  grind only [Answers, State.affineBeat_sound, State.channelBeat_sound, State.gatherBeat_sound, State.levelBeat_sound,
    State.scatterBeat_sound]

/-! ### Matrix engines -/

theorem State.headerBeat_sound {e : Engine} (hs : Sound s) (ht : TaskSound t) :
    Answers (fun p => Sound p.1 ∧ TaskSound p.2) (s.headerBeat t e) := by
  unfold State.headerBeat
  grind only [Answers, Task.putEngine_sound, Task.take_sound]

theorem State.rowBeat_sound {e : Engine} (hs : Sound s) (ht : TaskSound t) :
    Answers (fun p => Sound p.1 ∧ TaskSound p.2) (s.rowBeat t e) := by
  unfold State.rowBeat
  grind only [Answers, taskSound_foldl, Task.putEngine_sound, Task.take_sound]

theorem State.engineBeat_sound {e : Engine} (hs : Sound s) (ht : TaskSound t) :
    Answers (fun p => Sound p.1 ∧ TaskSound p.2) (s.engineBeat t e) := by
  unfold State.engineBeat
  grind only [Answers, State.headerBeat_sound, State.rowBeat_sound]

theorem State.destClaim_sound {e : Engine} {ovw : Bool} {va : Nat} (hs : Sound s) (ht : TaskSound t) :
    Answers (fun p => Sound p.1 ∧ TaskSound p.2.1) (s.destClaim t e ovw va) := by
  unfold State.destClaim
  grind only [Answers, State.viewClaim_sound, State.viewRead_sound, Task.gotSpace_sound]

theorem State.tileRow_sound {e : Engine} {op : Nat} {ovw : Bool} {l : List (Option (BitVec 16))} (hs : Sound s)
    (ht : TaskSound t) : Answers (fun p => Sound p.1 ∧ TaskSound p.2) (s.tileRow t e op ovw l) := by
  unfold State.tileRow
  grind only [TaskSound, Answers, State.destClaim_sound, Task.flag_sound]

theorem State.tileRows_sound {k op : Nat} {ovw : Bool} {n : Nat} (hs : Sound s) (ht : TaskSound t) :
    Sound (s.tileRows k op ovw n t).1 ∧ TaskSound (s.tileRows k op ovw n t).2.1 := by
  fun_induction State.tileRows k op ovw n s t <;> grind only [Answers, State.tileRow_sound, Task.putEngine_sound]

theorem State.advanceTl2_sound (hs : Sound s) (ht : TaskSound t) :
    Sound (s.advanceTl2 t).1 ∧ TaskSound (s.advanceTl2 t).2.1 := State.joinDest_sound hs (Task.advanceTl2_sound ht)

theorem Task.tileDone_sound {e : Engine} {op n : Nat} (ht : TaskSound t) : TaskSound (t.tileDone e op n) := ht

theorem State.engRead_sound {e : Engine} {l : LoadCmd} {va n : Nat} (hs : Sound s) (ht : TaskSound t) :
    Answers (fun p => Sound p.1 ∧ TaskSound p.2.1) (s.engRead t e l va n) := by
  unfold State.engRead
  grind only [Answers, State.viewRead_sound]

theorem State.ldsBlock_sound {e : Engine} {l : LoadCmd} {b : Nat} (hs : Sound s) (ht : TaskSound t) :
    Answers (fun p => Sound p.1 ∧ TaskSound p.2.1) (s.ldsBlock t e l b) := by
  unfold State.ldsBlock
  grind only [Answers, State.viewRead_sound]

theorem State.ldsRun_sound {k n : Nat} (hs : Sound s) (ht : TaskSound t) :
    Sound (s.ldsRun k n t).1 ∧ TaskSound (s.ldsRun k n t).2.1 := by
  fun_induction State.ldsRun k n s t <;> grind only [Answers, State.ldsBlock_sound, Task.putEngine_sound]

theorem State.csrBlock_sound {e : Engine} {l : LoadCmd} (hs : Sound s) (ht : TaskSound t) :
    Answers (fun p => Sound p.1 ∧ TaskSound p.2.1) (s.csrBlock t e l) := by
  unfold State.csrBlock
  dsimp only
  split
  · exact answers_error
  next s1 t1 p h1 =>
    obtain ⟨hs1, ht1⟩ := answers_ok h1 (State.engRead_sound hs ht)
    split
    · exact answers_error
    next s2 t2 c h2 =>
      obtain ⟨hs2, ht2⟩ := answers_ok h2 (State.engRead_sound hs1 ht1)
      grind only [Answers, State.engRead_sound]

theorem State.csrEntries_sound {e : Engine} {l : LoadCmd} {c : Csr} {n n' : Nat} {x : Option Nat} (hs : Sound s)
    (ht : TaskSound t) : Answers (fun p => Sound p.1 ∧ TaskSound p.2.1) (s.csrEntries e l c n n' x t) := by
  fun_induction State.csrEntries e l c n n' x s t <;> grind only [Answers, State.engRead_sound]

theorem State.csrRow_sound {e : Engine} {l : LoadCmd} {c : Csr} {i : Nat} (hs : Sound s) (ht : TaskSound t) :
    Answers (fun p => Sound p.1 ∧ TaskSound p.2.1) (s.csrRow t e l c i) := by
  unfold State.csrRow
  grind only [Answers, State.csrEntries_sound, State.engRead_sound]

theorem State.csrRows_sound {e : Engine} {l : LoadCmd} {c : Csr} {l' : List Nat} (hs : Sound s) (ht : TaskSound t) :
    Answers (fun p => Sound p.1 ∧ TaskSound p.2.1) (s.csrRows e l c l' t) := by
  fun_induction State.csrRows e l c l' s t <;> grind only [Answers, State.csrRow_sound]

theorem State.csrRun_sound {e : Engine} {l : LoadCmd} (hs : Sound s) (ht : TaskSound t) :
    Answers (fun p => Sound p.1 ∧ TaskSound p.2.1) (s.csrRun t e l) := by
  unfold State.csrRun
  grind only [Answers, State.csrBlock_sound, State.csrRows_sound]

theorem State.condRun_sound {e : Engine} {l : LoadCmd} {q : Nat} (hs : Sound s) (ht : TaskSound t) :
    Answers (fun p => Sound p.1 ∧ TaskSound p.2.1) (s.condRun t e l q) := by
  unfold State.condRun
  grind only [Answers, State.csrBlock_sound, State.csrRows_sound, State.engRead_sound]

theorem State.loadRun_sound {e : Engine} (hs : Sound s) (ht : TaskSound t) :
    Sound (s.loadRun t e).1 ∧ TaskSound (s.loadRun t e).2.1 := by
  unfold State.loadRun
  split
  · exact ⟨hs, ht⟩
  next l r _ =>
    extract_lets finish
    have hfinish : ∀ x, Answers (fun p => Sound p.1 ∧ TaskSound p.2.1) x →
        Sound (finish x).1 ∧ TaskSound (finish x).2.1 := by
      intro x hx
      dsimp only [finish]
      grind only [Answers, Task.putEngine_sound]
    split
    · exact State.ldsRun_sound hs ht
    · exact hfinish _ (State.csrRun_sound hs ht)
    · exact hfinish _ (State.condRun_sound hs ht)

/-! ### Beats of the fabric -/

theorem State.fireUnit_sound {u : FUnit} (hs : Sound s) (ht : TaskSound t) :
    Answers (fun p => Sound p.1 ∧ TaskSound p.2) (s.fireUnit t u) := by
  unfold State.fireUnit
  grind only [Answers, State.agBeat_sound, State.cuBeat_sound, State.engineBeat_sound, State.fibreBeat_sound,
    State.muBeat_sound]

theorem Task.stamp_sound {t0 t : Task} {u : FUnit} (ht : TaskSound t) : TaskSound (t0.stamp t u) := ht

theorem State.fireOwned_sound {u : FUnit} (hs : Sound s) (ht : TaskSound t) :
    Answers (fun p => Sound p.1 ∧ TaskSound p.2) (s.fireOwned t u) := by
  unfold State.fireOwned
  grind only [answers_map_self, State.fireUnit_sound, Task.stamp_sound]

theorem firstFired_sound {f : Driver → Fired} {l : List Driver}
    (hf : ∀ a, Answers (fun q => Sound q.1 ∧ TaskSound q.2) (f a)) :
    Answers (fun p => Sound p.1 ∧ TaskSound p.2) (firstFired f l) := by
  fun_induction firstFired f l <;> grind only [Answers]

theorem pullAll_sound {f : State → Task → Dest → Fired} {l : List Dest} (hs : Sound s) (ht : TaskSound t)
    (hf : ∀ u v c, Sound u → TaskSound v → Answers (fun q => Sound q.1 ∧ TaskSound q.2) (f u v c)) :
    Answers (fun p => Sound p.1 ∧ TaskSound p.2) (pullAll f l s t) := by
  fun_induction pullAll f l s t <;> grind only [Answers]

theorem firstWay_sound {pull : State → Task → Dest → Fired} {fire : State → Task → Fired} {l : List (List Dest)}
    (hs : Sound s) (ht : TaskSound t)
    (hpull : ∀ u v c, Sound u → TaskSound v → Answers (fun q => Sound q.1 ∧ TaskSound q.2) (pull u v c))
    (hfire : ∀ u v, Sound u → TaskSound v → Answers (fun q => Sound q.1 ∧ TaskSound q.2) (fire u v)) :
    Answers (fun p => Sound p.1 ∧ TaskSound p.2) (firstWay pull fire s t l) := by
  fun_induction firstWay pull fire s t l <;> grind only [Answers, taskSound_foldl, Task.setQueue_sound, pullAll_sound]

theorem pushZero_sound {f : Goal → State → Task → Fired} {n : Nat} (hs : Sound s) (ht : TaskSound t)
    (hf : ∀ a u v, Sound u → TaskSound v → Answers (fun q => Sound q.1 ∧ TaskSound q.2) (f a u v)) :
    Answers (fun p => Sound p.1 ∧ TaskSound p.2) (pushZero f n s t) := by
  fun_induction pushZero f n s t <;> grind only [Answers, Opt, Task.hop_sound]

theorem drive_sound {n : Nat} {x : Goal} (hs : Sound s) (ht : TaskSound t) :
    Answers (fun p => Sound p.1 ∧ TaskSound p.2) (drive n x s t) := by
  fun_induction drive n x s t <;> grind only [Answers, Opt, State.fireOwned_sound, Task.hop_sound, firstFired_sound,
    firstWay_sound]

theorem State.closeBeat_sound (hs : Sound s) (ht : TaskSound t) :
    Answers (fun p => Sound p.1 ∧ TaskSound p.2) (s.closeBeat t) := by
  unfold State.closeBeat
  grind only [Answers, Task.settle_sound, drive_sound, pushZero_sound]

theorem State.beat_sound {u : FUnit} (hs : Sound s) (ht : TaskSound t) :
    Answers (fun p => Sound p.1 ∧ TaskSound p.2) (s.beat t u) := by
  unfold State.beat
  grind only [Answers, State.closeBeat_sound, Task.settle_sound, drive_sound]

theorem State.runBeat_sound {u : FUnit} (hs : Sound s) (ht : TaskSound t) : Sound (s.runBeat t u).1 := by
  unfold State.runBeat
  grind only [TaskSound, Answers, State.beat_sound, State.fired_sound, State.putTask_sound, State.stop_sound,
    State.taskFault_sound]

theorem State.cuEvent_sound {h : Word} {cell : Nat} {kind : BitVec 240 → Bool} (hs : Sound s) :
    Lands (s.cuEvent h cell kind) := by
  unfold State.cuEvent
  grind only [State.onTask_sound, State.runBeat_sound]

theorem State.agEvent_sound {h : Word} {place mode : Nat} (hs : Sound s) : Lands (s.agEvent h place mode) := by
  unfold State.agEvent
  grind only [State.onTask_sound, State.runBeat_sound]

@[simp] theorem execMuAccess_sound {h : Word} {cell : Nat} (hs : Sound s) : Lands (execMuAccess h cell s) :=
  State.onTask_sound hs fun _ _ => State.runBeat_sound

@[simp] theorem execActivationRow_sound {h : Word} {k : Nat} (hs : Sound s) : Lands (execActivationRow h k s) :=
  State.onTask_sound hs fun _ _ => State.runBeat_sound

theorem State.orLeave_sound {u : FUnit} {o : Option Task} (hs : Sound s) (ht : TaskSound t)
    (ho : Opt (fun p => TaskSound p) o) : Sound (s.orLeave t u o) := by
  unfold State.orLeave
  grind only [Answers, Opt, State.closeBeat_sound, State.fired_sound, State.putTask_sound, Task.stamp_sound]

@[simp] theorem execGatherReply_sound {h : Word} {place idx : Nat} (hs : Sound s) :
    Lands (execGatherReply h place idx s) := by
  refine State.onTask_sound hs fun u t hu ht => ?_
  split
  · exact hu
  next a _ =>
    split
    · exact hu
    have hreply := State.gatherReply_sound (a := a) (i := idx) hu ht
    split
    · exact State.stop_sound hu ht
    next v w he =>
      rw [he] at hreply
      obtain ⟨hv, hw⟩ := hreply
      split
      · exact State.orLeave_sound hv (show TaskSound { w with hangCount := 0 } from hw) (Task.gatherEmit_sound hw)
      · exact hv

theorem State.portalAnswer_sound {cell req : Nat} {value : Option Word} (hs : Sound s) (ht : TaskSound t) :
    Sound (s.portalAnswer t cell req value).1 := by
  unfold State.portalAnswer
  grind only [TaskSound, State.orLeave_sound, State.putTask_sound, State.taskFault_sound, State.tidy_sound,
    Task.portalOut_sound, Task.putCell_sound]

@[simp] theorem execPortalReply_sound {h : Word} {cell req : Nat} {ok : Bool} {value : Word} (hs : Sound s) :
    Lands (execPortalReply h cell req ok value s) := State.onTask_sound hs fun _ _ => State.portalAnswer_sound

@[simp] theorem execPortalTimeout_sound {h : Word} {cell req : Nat} (hs : Sound s) : Lands (execPortalTimeout h cell req s) :=
  State.onTask_sound hs fun _ _ => State.portalAnswer_sound

/-! ### Branches and jumps -/

theorem issueBranch_sound {i : Instr} {a b : Reg} {off : BitVec 12} {taken : Word → Word → Bool} (hs : Sound s) :
    Lands (issueBranch i a b off taken s) := by
  unfold issueBranch
  grind only [TaskSound, State.putTask_sound, State.takeTrap_sound, State.updBureau_sound, issueBoth_sound]

theorem issueJump_sound {i : Instr} {d : Reg} {target : Word → (Reg → Word) → Word} (hs : Sound s) :
    Lands (issueJump i d target s) := by
  unfold issueJump
  grind only [TaskSound, Bureau.setX_sound, State.putTask_sound, State.takeTrap_sound, State.trapAt_sound,
    State.updBureau_sound, Task.setX_sound, issueBoth_sound]

/-! ### Sections and streams -/

theorem Task.closeSections_sound {p : Nat → Bool} (ht : TaskSound t) :
    Answers (fun p => TaskSound p) (t.closeSections p) := by
  unfold Task.closeSections
  grind only [TaskSound, Answers]

theorem State.funded_sound {i : Instr} {f : State → Task → State × List Job} (hs : Sound s) (ht : TaskSound t)
    (hf : ∀ u v, Sound u → TaskSound v → Sound (f u v).1) : Sound (s.funded t i f).1 := by
  unfold State.funded
  grind only [State.fundArms_sound, State.putTask_sound, Task.block_sound, → State.task?_sound]

theorem State.barWait_sound {i : Instr} {met : Task → Bool} {p : Nat → Bool} {k : State → Task → State × List Job}
    (hs : Sound s) (ht : TaskSound t) (hk : ∀ u v, Sound u → TaskSound v → Sound (k u v).1) :
    Sound (s.barWait t i met p k).1 := by
  unfold State.barWait
  grind only [Answers, State.putTask_sound, State.stop_sound, Task.block_sound, Task.closeSections_sound]

theorem State.barBody_sound (hs : Sound s) (ht : TaskSound t) : Sound (s.barBody t).1 := by
  unfold State.barBody
  grind only [State.barWait_sound, State.funded_sound, State.putTask_sound, Task.advance_sound]

theorem State.putStaged_sound (hs : Sound s) (ht : TaskSound t) : Sound (s.putStaged t).1 := by
  unfold State.putStaged
  grind only [TaskSound, State.putTask_sound, State.trapAt_sound, Task.advance_sound, Task.install_sound]

theorem State.barCfgBody_sound (hs : Sound s) (ht : TaskSound t) : Sound (s.barCfgBody t).1 := by
  unfold State.barCfgBody
  grind only [State.barWait_sound, State.funded_sound, State.putStaged_sound]

theorem State.joinSection_sound {sec : Nat} (hs : Sound s) (ht : TaskSound t) :
    Sound (s.joinSection t sec).1 ∧ TaskSound (s.joinSection t sec).2 := State.joinRows_sound hs ht

theorem State.drainBody_sound {sec : BitVec 5} (hs : Sound s) (ht : TaskSound t) : Sound (s.drainBody sec t).1 := by
  unfold State.drainBody
  grind only [State.barWait_sound, State.joinSection_sound, State.putTask_sound, Task.advance_sound]

theorem State.fenceBody_sound {k : BitVec 3} (hs : Sound s) (ht : TaskSound t) : Sound (s.fenceBody k t).1 := by
  unfold State.fenceBody
  grind only [TaskSound, State.barWait_sound, State.funded_sound, State.putTask_sound, Task.advance_sound,
    Task.block_sound]

@[simp] theorem execBar_sound (hs : Sound s) : Lands (execBar s) := issueTask_sound hs fun _ _ => State.barBody_sound

@[simp] theorem execBarCfg_sound (hs : Sound s) : Lands (execBarCfg s) := issueTask_sound hs fun _ _ => State.barCfgBody_sound

@[simp] theorem execDrain_sound {sec : BitVec 5} (hs : Sound s) : Lands (execDrain sec s) :=
  issueTask_sound hs fun _ _ => State.drainBody_sound

@[simp] theorem execFence_sound {k : BitVec 3} (hs : Sound s) : Lands (execFence k s) := by
  unfold execFence
  grind only [Bureau.advance_sound, State.fenceBody_sound, State.takeTrap_sound, State.updBureau_sound,
    issueBoth_sound]

@[simp] theorem execBarRelease_sound {h : Word} (hs : Sound s) : Lands (execBarRelease h s) := by
  unfold execBarRelease
  grind only [State.barBody_sound, State.barCfgBody_sound, State.drainBody_sound, State.onTask_sound]

theorem State.cfgLoadBody_sound {a : Reg} (hs : Sound s) (ht : TaskSound t) : Sound (s.cfgLoadBody a t).1 :=
  State.loadGo_sound hs ht

@[simp] theorem execCfgLoad_sound {a : Reg} (hs : Sound s) : Lands (execCfgLoad a s) :=
  issueCmd_sound hs fun _ _ => State.cfgLoadBody_sound

theorem State.settleTl2_sound {h : Word} (hs : Sound s) : Sound (s.settleTl2 h).1 := by
  unfold State.settleTl2
  grind only [State.advanceTl2_sound, State.putTask_sound, → State.task?_sound]

theorem State.grantArm_sound {c : Cmd} (hs : Sound s) (ht : TaskSound t) : Sound (s.grantArm t c).1 :=
  State.settleTl2_sound (State.grantCmd_sound hs ht)

theorem State.armBody_sound {sec : BitVec 5} {b : Reg} (hs : Sound s) (ht : TaskSound t) :
    Sound (s.armBody sec b t).1 := by
  unfold State.armBody
  grind only [TaskSound, State.grantArm_sound, State.newId_sound, State.trapAt_sound, Task.advance_sound]

@[simp] theorem execArm_sound {sec : BitVec 5} {b : Reg} (hs : Sound s) : Lands (execArm sec b s) :=
  issueCmd_sound hs fun _ _ => State.armBody_sound

theorem State.agCount_sound {a : Ag} (hs : Sound s) (ht : TaskSound t) :
    Answers (fun p => Sound p.1 ∧ TaskSound p.2.1) (s.agCount t a) := by
  unfold State.agCount
  grind only [Answers, State.levelFibre_sound]

theorem State.agCounts_sound {l : List Ag} (hs : Sound s) (ht : TaskSound t) :
    Answers (fun p => Sound p.1 ∧ TaskSound p.2.1) (s.agCounts t l) := by
  fun_induction State.agCounts s t l <;> grind only [Answers, State.agCount_sound]

theorem Task.addPasses_sound {id : Nat} {d : Word} {ags : List (Ag × Nat × Nat)} (ht : TaskSound t) :
    TaskSound (t.addPasses id d ags) := ht

theorem State.goBody_sound {i : Instr} {sec : BitVec 5} {d : Word} {gate : Option (Nat × Nat)} (hs : Sound s)
    (ht : TaskSound t) : Sound (s.goBody i sec d gate t).1 := by
  unfold State.goBody
  grind only [TaskSound, Answers, State.agCounts_sound, State.grantCmd_sound, State.newId_sound, State.putTask_sound,
    State.taskFault_sound, State.threadErr_sound, State.trapAt_sound, Task.addPasses_sound, Task.advance_sound]

theorem State.strmGoBody_sound {sec : BitVec 5} {a : Reg} (hs : Sound s) (ht : TaskSound t) :
    Sound (s.strmGoBody sec a t).1 := State.goBody_sound hs ht

theorem State.strmCondBody_sound {sec : BitVec 5} {a b : Reg} (hs : Sound s) (ht : TaskSound t) :
    Sound (s.strmCondBody sec a b t).1 := State.goBody_sound hs ht

@[simp] theorem execStrmGo_sound {sec : BitVec 5} {a : Reg} (hs : Sound s) : Lands (execStrmGo sec a s) :=
  issueCmd_sound hs fun _ _ => State.strmGoBody_sound

@[simp] theorem execStrmCond_sound {sec : BitVec 5} {a b : Reg} (hs : Sound s) : Lands (execStrmCond sec a b s) :=
  issueCmd_sound hs fun _ _ => State.strmCondBody_sound

@[simp] theorem execStreamGateLaunch_sound {h : Word} {go : Nat} (hs : Sound s) : Lands (execStreamGateLaunch h go s) :=
  State.onTask_sound hs fun _ _ h h' => State.putTask_sound h h'

/-! ### Nests -/

theorem State.nestBody_sound {w : NestWord} (hs : Sound s) (ht : TaskSound t) : Sound (s.nestBody w t).1 := by
  unfold State.nestBody
  grind only [TaskSound, State.grantCmd_sound, State.newId_sound, State.trapAt_sound, Task.advance_sound]

@[simp] theorem execNest_sound {w : NestWord} (hs : Sound s) : Lands (execNest w s) :=
  issueCmd_sound hs fun _ _ => State.nestBody_sound

theorem State.nestRead_sound {n : Nest} {o : Opnd} {j : Nat} (hs : Sound s) (ht : TaskSound t) :
    Answers (fun p => Sound p.1 ∧ TaskSound p.2.1) (s.nestRead t n o j) := by
  unfold State.nestRead
  grind only [Answers, State.viewRead_sound]

theorem State.nestWrite_sound {n : Nest} {j : Nat} {v : Lane} (hs : Sound s) (ht : TaskSound t) :
    Answers (fun p => Sound p.1 ∧ TaskSound p.2) (s.nestWrite t n j v) := by
  unfold State.nestWrite
  grind only [Answers, State.scratchWrite_sound, State.viewWrite_sound, Task.gotSpace_sound]

theorem State.nestValue_sound {n : Nest} {j : Nat} {a b : Lane} (hs : Sound s) (ht : TaskSound t) :
    Answers (fun p => Sound p.1 ∧ TaskSound p.2.1) (s.nestValue t n j a b) := by
  unfold State.nestValue
  refine answers_ite ⟨hs, ht⟩ (answers_ite ?_ (answers_ite ⟨hs, ht⟩ ⟨hs, ht⟩))
  refine answers_map ?_
  exact State.nestRead_sound hs ht

theorem State.nestElement_sound {n : Nest} {j : Nat} (hs : Sound s) (ht : TaskSound t) :
    Answers (fun p => Sound p.1 ∧ TaskSound p.2.1) (s.nestElement t n j) := by
  have hwrite : ∀ {u : State} {v : Task} {l : Lane} {m : Nest}, Sound u → TaskSound v →
      Answers (fun p => Sound p.1 ∧ TaskSound p.2.1) ((u.nestWrite v n j l).map fun x => (x.1, x.2, m)) := by
    intro u v l m hu hv
    refine answers_map ?_
    exact State.nestWrite_sound hu hv
  unfold State.nestElement
  split
  · exact answers_error
  next s1 t1 a h1 =>
    obtain ⟨hs1, ht1⟩ := answers_ok h1 (State.nestRead_sound hs ht)
    split
    · exact answers_error
    next s2 t2 b h2 =>
      obtain ⟨hs2, ht2⟩ :=
        answers_ok (P := fun p => Sound p.1 ∧ TaskSound p.2.1) h2
          (answers_ite ⟨hs1, ht1⟩ (State.nestRead_sound hs1 ht1))
      refine answers_ite ?_ ?_
      · split
        · exact answers_error
        next s3 t3 c f h3 =>
          obtain ⟨hs3, ht3⟩ := answers_ok h3 (State.nestValue_sound hs2 ht2)
          exact answers_ite (hwrite hs3 (Task.flag_sound ht3)) ⟨hs3, Task.flag_sound ht3⟩
      · split
        · exact answers_error
        next s3 t3 c h3 =>
          obtain ⟨hs3, ht3⟩ :=
            answers_ok (P := fun p => Sound p.1 ∧ TaskSound p.2.1) h3
              (answers_ite (State.nestRead_sound hs2 ht2) ⟨hs2, ht2⟩)
          exact hwrite hs3 (Task.flag_sound ht3)

theorem State.nestElements_sound {n : Nat} {x : Nest} (hs : Sound s) (ht : TaskSound t) :
    Sound (s.nestElements n t x).1 ∧ TaskSound (s.nestElements n t x).2.1 := by
  fun_induction State.nestElements n s t x <;> grind only [Answers, State.nestElement_sound]

theorem State.nestStop_sound {n : Nest} {x : NestErr} (hs : Sound s) (ht : TaskSound t) :
    Sound (s.nestStop t n x).1 := by
  unfold State.nestStop
  grind only [State.freeze_sound, State.overflow_sound, State.putTask_sound, State.taskFault_sound,
    Task.awaitSpace_sound]

theorem State.nestRun_sound (hs : Sound s) (ht : TaskSound t) : Sound (s.nestRun t).1 := by
  unfold State.nestRun
  grind only [TaskSound, State.nestElements_sound, State.nestStop_sound, State.putTask_sound]

@[simp] theorem execNestComplete_sound {h : Word} (hs : Sound s) : Lands (execNestComplete h s) :=
  State.onTask_sound hs fun _ _ => State.nestRun_sound

/-! ### Copies and timelines -/

theorem State.readDesc_sound {a : Nat} {dmd : Bool} (hs : Sound s) (ht : TaskSound t) :
    Sound (s.readDesc t a dmd).1 ∧ Answers (fun p => TaskSound p.1) (s.readDesc t a dmd).2 := by
  unfold State.readDesc
  grind only [Answers, State.viewRead_sound]

theorem State.copyBody_sound {i : Instr} {n : Nat} {a : Reg} {dmd : Bool} (hs : Sound s) (ht : TaskSound t) :
    Sound (s.copyBody i n a dmd t).1 := by
  unfold State.copyBody
  grind only [TaskSound, Answers, State.grantCmd_sound, State.newId_sound, State.readDesc_sound,
    State.threadErr_sound, State.trapAt_sound, Task.advance_sound]

theorem issueCopy_sound {i : Instr} {n : Nat} {a : Reg} {dmd : Bool} (hs : Sound s) : Lands (issueCopy i n a dmd s) :=
  issueCmd_sound hs fun _ _ => State.copyBody_sound

theorem State.copyRead_sound {c : Copy} {j : Nat} (hs : Sound s) (ht : TaskSound t) :
    Answers (fun p => Sound p.1 ∧ TaskSound p.2.1) (s.copyRead t c j) := by
  unfold State.copyRead
  grind only [Answers, State.viewRead_sound]

theorem State.fifoWrite_sound {v : BitVec 240} {c off : Nat} {l : List Byte} (hs : Sound s) (ht : TaskSound t) :
    Sound (s.fifoWrite v c off l t).1 ∧ TaskSound (s.fifoWrite v c off l t).2.1 := by
  fun_induction State.fifoWrite v c off l s t <;> grind only [State.scratchWrite_sound, Task.putCell_sound]

theorem State.copyWrite_sound {c : Copy} {j : Nat} {l : List Byte} (hs : Sound s) (ht : TaskSound t) :
    Answers (fun p => Sound p.1 ∧ TaskSound p.2) (s.copyWrite t c j l) := by
  unfold State.copyWrite
  grind only [Answers, State.scratchWrite_sound, State.viewWrite_sound, Task.gotSpace_sound]

theorem State.fifoElement_sound {c : Copy} {l : List Byte} (hs : Sound s) (ht : TaskSound t) :
    Sound (s.fifoElement t c l).1 ∧ TaskSound (s.fifoElement t c l).2.1 := by
  unfold State.fifoElement
  grind only [State.fifoWrite_sound]

theorem State.copyElement_sound {c : Copy} (hs : Sound s) (ht : TaskSound t) :
    Sound (s.copyElement t c).1 ∧ TaskSound (s.copyElement t c).2.1 := by
  unfold State.copyElement
  grind only [Answers, State.copyRead_sound, State.copyWrite_sound, State.fifoElement_sound, Task.flag_sound]

theorem State.copyElements_sound {n : Nat} {x : Copy} (hs : Sound s) (ht : TaskSound t) :
    Sound (s.copyElements n t x).1 ∧ TaskSound (s.copyElements n t x).2.1 := by
  fun_induction State.copyElements n s t x <;> grind only [State.copyElement_sound]

theorem Task.putCopy_sound {c : Copy} (ht : TaskSound t) : TaskSound (t.putCopy c) := ht

theorem State.copyStop_sound {c : Copy} {x : CopyStop} (hs : Sound s) (ht : TaskSound t) :
    Sound (s.copyStop t c x).1 := by
  unfold State.copyStop
  grind only [State.freeze_sound, State.overflow_sound, State.putTask_sound, State.taskFault_sound,
    Task.awaitSpace_sound]

theorem Task.endCopy_sound {c : Copy} (ht : TaskSound t) : TaskSound (t.endCopy c) := Task.finish_sound ht

theorem State.copyGo_sound {c : Copy} (hs : Sound s) (ht : TaskSound t) : Sound (s.copyGo t c).1 := by
  unfold State.copyGo
  grind only [TaskSound, State.copyElements_sound, State.copyStop_sound, State.fired_sound, State.putTask_sound,
    Task.endCopy_sound, Task.putCopy_sound]

theorem State.copyRun_sound {k n : Nat} (hs : Sound s) (ht : TaskSound t) : Sound (s.copyRun t k n).1 := by
  unfold State.copyRun
  grind only [State.copyGo_sound]

@[simp] theorem execCopyLaunch_sound {h : Word} {cluster n : Nat} (hs : Sound s) : Lands (execCopyLaunch h cluster n s) :=
  State.onTask_sound hs fun _ _ => State.copyRun_sound

@[simp] theorem execCopyComplete_sound {h : Word} {cluster n : Nat} (hs : Sound s) :
    Lands (execCopyComplete h cluster n s) := by
  unfold execCopyComplete
  grind only [TaskSound, State.fired_sound, State.onTask_sound, Task.endCopy_sound]

theorem State.unfreeze_sound {p : PortId} (hs : Sound s) (ht : TaskSound t) :
    Sound (s.unfreeze t p).1 ∧ TaskSound (s.unfreeze t p).2 := by
  unfold State.unfreeze
  grind only [TaskSound, sound_foldl, State.settleFault_sound]

theorem State.cancelCopies_sound {l : List Copy} (hs : Sound s) (ht : TaskSound t) :
    Sound (s.cancelCopies l t).1 ∧ TaskSound (s.cancelCopies l t).2 := by
  fun_induction State.cancelCopies l s t <;> grind only [State.unfreeze_sound, Task.endCopy_sound, Task.putCopy_sound]

@[simp] theorem execTcopyCancel_sound {d : Reg} {tl : BitVec 5} (hs : Sound s) : Lands (execTcopyCancel d tl s) := by
  unfold execTcopyCancel
  grind only [State.cancelCopies_sound, State.putTask_sound, State.refillRing_sound, Task.advance_sound,
    Task.setX_sound, issueTask_sound]

theorem State.tlWaitBody_sound {tl : BitVec 5} {b : Reg} (hs : Sound s) (ht : TaskSound t) :
    Sound (s.tlWaitBody tl b t).1 := by
  unfold State.tlWaitBody
  grind only [State.funded_sound, State.putTask_sound, State.trapAt_sound, Task.advance_sound, Task.block_sound]

@[simp] theorem execTlWait_sound {tl : BitVec 5} {b : Reg} (hs : Sound s) : Lands (execTlWait tl b s) :=
  issueTask_sound hs fun _ _ => State.tlWaitBody_sound

@[simp] theorem execTimelineWaitRelease_sound {h : Word} (hs : Sound s) : Lands (execTimelineWaitRelease h s) := by
  unfold execTimelineWaitRelease
  grind only [State.onTask_sound, State.tlWaitBody_sound]

@[simp] theorem execTlRead_sound {d : Reg} {tl : BitVec 5} (hs : Sound s) : Lands (execTlRead d tl s) :=
  issueSimple_sound hs fun _ h => h

@[simp] theorem execTlAdv_sound {tl : BitVec 5} {b : Reg} (hs : Sound s) : Lands (execTlAdv tl b s) := by
  unfold execTlAdv
  grind only [State.putTask_sound, State.trapAt_sound, Task.advance_sound, Task.block_sound, Task.setTimeline_sound,
    issueTask_sound]

/-! ### Matrix commands -/

theorem onEngine_sound {xa reserved : Word} {needFmt : Bool} {f : State → Task → Engine → State × List Job}
    (hs : Sound s) (ht : TaskSound t) (hf : ∀ u v c, Sound u → TaskSound v → Sound (f u v c).1) :
    Sound (onEngine xa reserved needFmt f s t).1 := by
  unfold onEngine
  grind only [State.trapAt_sound]

theorem issueMx_sound {i : Instr} {f : State → Task → State × List Job} (hs : Sound s)
    (hf : ∀ u v, Sound u → TaskSound v → Sound (f u v).1) : Lands (issueMx i f s) := issueTask_sound hs hf

theorem State.mxBind_sound {sec : Nat} {xa xb : Word} {e : Engine} (hs : Sound s) (ht : TaskSound t) :
    Sound (s.mxBind sec xa xb t e).1 := by
  unfold State.mxBind
  grind only [State.putTask_sound, State.trapAt_sound, Task.advance_sound, Task.putEngine_sound]

@[simp] theorem execMxFmt_sound {sec : BitVec 5} {a b : Reg} (hs : Sound s) : Lands (execMxFmt sec a b s) := by
  unfold execMxFmt
  grind only [State.mxBind_sound, State.putTask_sound, State.trapAt_sound, Task.block_sound, issueMx_sound,
    onEngine_sound]

theorem State.ldsBody_sound {xa xb : Word} {e : Engine} (hs : Sound s) (ht : TaskSound t) :
    Sound (s.ldsBody xa xb t e).1 := by
  unfold State.ldsBody
  grind only [State.grantCmd_sound, State.newId_sound, State.trapAt_sound, Task.advance_sound, Task.putEngine_sound]

theorem State.mxLdsBody_sound {a b : Reg} (hs : Sound s) (ht : TaskSound t) : Sound (s.mxLdsBody a b t).1 :=
  onEngine_sound hs ht fun _ _ _ => State.ldsBody_sound

@[simp] theorem execMxLds_sound {a b : Reg} (hs : Sound s) : Lands (execMxLds a b s) :=
  issueCmd_sound hs fun _ _ => State.mxLdsBody_sound

theorem State.sparseLoad_sound {kind : LoadKind} {xb : Word} {e : Engine} (hs : Sound s) (ht : TaskSound t) :
    Sound (s.sparseLoad kind xb t e).1 := by
  unfold State.sparseLoad
  grind only [State.newId_sound, State.putTask_sound, State.trapAt_sound, Task.advance_sound, Task.putEngine_sound]

@[simp] theorem execMxCsr_sound {a b : Reg} (hs : Sound s) : Lands (execMxCsr a b s) := by
  unfold execMxCsr
  grind only [State.sparseLoad_sound, issueMx_sound, onEngine_sound]

@[simp] theorem execMxCond_sound {a b : Reg} (hs : Sound s) : Lands (execMxCond a b s) := by
  unfold execMxCond
  grind only [State.sparseLoad_sound, issueMx_sound, onEngine_sound]

@[simp] theorem execMxSwap_sound {a : Reg} (hs : Sound s) : Lands (execMxSwap a s) := by
  unfold execMxSwap
  grind only [State.putTask_sound, Task.advance_sound, Task.putEngine_sound, issueMx_sound, onEngine_sound]

theorem State.mxArmBody_sound {sec : BitVec 5} {a b : Reg} (hs : Sound s) (ht : TaskSound t) :
    Sound (s.mxArmBody sec a b t).1 := by
  unfold State.mxArmBody
  grind only [TaskSound, State.grantArm_sound, State.newId_sound, State.trapAt_sound, Task.advance_sound,
    Task.putEngine_sound, taskSound_foldl]

@[simp] theorem execMxArm_sound {sec : BitVec 5} {a b : Reg} (hs : Sound s) : Lands (execMxArm sec a b s) :=
  issueCmd_sound hs fun _ _ => State.mxArmBody_sound

theorem State.groupTable_sound {base n n' : Nat} (hs : Sound s) (ht : TaskSound t) :
    Sound (s.groupTable base n n' t).1 ∧ Answers (fun p => TaskSound p.1) (s.groupTable base n n' t).2 := by
  fun_induction State.groupTable base n n' s t <;> grind only [Answers, State.viewRead_sound]

theorem State.groupBody_sound {i : Instr} {xa xb : Word} {e : Engine} (hs : Sound s) (ht : TaskSound t) :
    Sound (s.groupBody i xa xb t e).1 := by
  unfold State.groupBody
  grind only [sound_iff, TaskSound, Answers, State.grantArm_sound, State.groupTable_sound, State.threadErr_sound,
    State.trapAt_sound, Task.advance_sound]

theorem State.mxGroupBody_sound {a b : Reg} (hs : Sound s) (ht : TaskSound t) : Sound (s.mxGroupBody a b t).1 :=
  onEngine_sound hs ht fun _ _ _ => State.groupBody_sound

@[simp] theorem execMxGroup_sound {a b : Reg} (hs : Sound s) : Lands (execMxGroup a b s) :=
  issueCmd_sound hs fun _ _ => State.mxGroupBody_sound

@[simp] theorem execMxStat_sound {d a : Reg} (hs : Sound s) : Lands (execMxStat d a s) := by
  unfold execMxStat
  grind only [State.putTask_sound, Task.advance_sound, Task.setX_sound, issueMx_sound, onEngine_sound]

@[simp] theorem execMxClr_sound {a : Reg} (hs : Sound s) : Lands (execMxClr a s) := by
  unfold execMxClr
  grind only [State.putTask_sound, Task.advance_sound, Task.block_sound, Task.putEngine_sound, issueMx_sound,
    onEngine_sound]

theorem State.engineStep_sound {h : Word} {k : Nat} {f : State → Task → Engine → State × List Job} (hs : Sound s)
    (hf : ∀ u v c, Sound u → TaskSound v → Sound (f u v c).1) : Lands (s.engineStep h k f) := by
  unfold State.engineStep
  grind only [State.onTask_sound]

theorem State.engineEnd_sound {t0 t : Task} {z : Option Stop} (hs : Sound s) (ht0 : TaskSound t0) (ht : TaskSound t) :
    Sound (s.engineEnd t0 t z).1 := by
  unfold State.engineEnd
  grind only [TaskSound, State.putTask_sound, State.stop_sound]

@[simp] theorem execPlaneLoadRun_sound {h : Word} {k : Nat} (hs : Sound s) : Lands (execPlaneLoadRun h k s) := by
  unfold execPlaneLoadRun
  grind only [State.engineEnd_sound, State.engineStep_sound, State.loadRun_sound]

@[simp] theorem execPlaneSwapRun_sound {h : Word} {k : Nat} (hs : Sound s) : Lands (execPlaneSwapRun h k s) := by
  unfold execPlaneSwapRun
  grind only [State.engineStep_sound, State.fired_sound, Task.putEngine_sound]

@[simp] theorem execMatrixTile_sound {h : Word} {k : Nat} (hs : Sound s) : Lands (execMatrixTile h k s) := by
  unfold execMatrixTile
  grind only [State.advanceTl2_sound, State.engineEnd_sound, State.engineStep_sound, State.fired_sound,
    State.tileRows_sound, Task.tileDone_sound]

@[simp] theorem execMatrixMigration_sound {h : Word} {k : Nat} {move : Migration} (hs : Sound s) :
    Lands (execMatrixMigration h k move s) := by
  unfold execMatrixMigration
  grind only [State.engineStep_sound, State.putTask_sound, Task.putEngine_sound]

/-! ### Task instructions and the commit -/

theorem State.spawnBody_sound {i : Instr} {a : Word} {j : Option Word} (hs : Sound s) (ht : TaskSound t) :
    Sound (s.spawnBody i a j t).1 := by
  unfold State.spawnBody
  grind only [TaskSound, Answers, State.growShare_sound, State.putTask_sound, State.threadErr_sound,
    State.trapAt_sound, State.viewRead_sound, Task.advance_sound, Task.gotSpace_sound]

@[simp] theorem execSpawn_sound {a : Reg} (hs : Sound s) : Lands (execSpawn a s) :=
  issueTask_sound hs fun _ _ => State.spawnBody_sound

@[simp] theorem execSpawnj_sound {a b : Reg} (hs : Sound s) : Lands (execSpawnj a b s) :=
  issueTask_sound hs fun _ _ => State.spawnBody_sound

@[simp] theorem execTskSelf_sound {d : Reg} (hs : Sound s) : Lands (execTskSelf d s) := issueSimple_sound hs fun _ h => h

@[simp] theorem execTskTs_sound {d : Reg} (hs : Sound s) : Lands (execTskTs d s) := issueSimple_sound hs fun _ h => h

@[simp] theorem execYield_sound (hs : Sound s) : Lands (execYield s) := issueSimple_sound hs fun _ ht => ht

theorem State.retry_sound (hs : Sound s) : Sound (s.retry t).1 := by
  unfold State.retry
  grind only [State.requeue_sound, State.retire_sound]

@[simp] theorem execAbort_sound {a : Reg} (hs : Sound s) : Lands (execAbort a s) := by
  unfold execAbort
  grind only [State.retire_sound, State.retry_sound, State.trapAt_sound, issueTask_sound]

theorem State.spare_sound {ctx num : Nat} (hs : Sound s) : Sound (s.spare ctx num) := by
  obtain ⟨hmem, hhost, hscratch, hsusp, htasks, ⟨hfour, hdies, hsaved, hlocks⟩, hkept⟩ := hs
  have hmark : ∀ t : Task, TaskSound t →
      TaskSound (if t.crec.ctx == ctx && s.isOldest t then { t with sparedBy := num :: t.sparedBy } else t) := by
    intro t ht
    split
    · exact ht
    · exact ht
  refine ⟨hmem, hhost, hscratch, hsusp, fun t ht => ?_, ⟨hfour, hdies, fun x hx => ?_, hlocks⟩, hkept⟩
  · obtain ⟨u, hu, rfl⟩ := List.mem_map.mp ht
    exact hmark u (htasks u hu)
  · obtain ⟨y, hy, rfl⟩ := List.mem_map.mp hx
    exact hmark y.task (hsaved y hy)

theorem State.publishPushes_sound (hs : Sound s) : Sound (s.publishPushes t) := by
  unfold State.publishPushes
  grind only [sound_foldl, State.placeEntry_sound]

theorem State.publishPops_sound {h : Word} (hs : Sound s) : Sound (s.publishPops h) := by
  unfold State.publishPops
  grind only [sound_foldl, State.grantCredit_sound, State.putChan_sound, State.zeroPages_sound]

theorem State.publishCloses_sound (hs : Sound s) : Sound (s.publishCloses t) := by
  unfold State.publishCloses
  grind only [sound_foldl, State.releaseChan_sound, State.tryClose_sound]

theorem State.landCommit_sound (hs : Sound s) : Sound (s.landCommit t).s := by
  unfold State.landCommit
  grind only [sound_iff, State.joinChanges_sound, State.publish_sound, State.reportBytes_sound]

theorem State.afterCommit_sound {p : Landed} (hp : Sound p.s) : Sound (s.afterCommit t p).1 := by
  unfold State.afterCommit
  grind only [sound_foldl, State.deliver_sound, State.dropTask_sound, State.freeRows_sound, State.leaveChannels_sound,
    State.publishCloses_sound, State.publishPops_sound, State.publishPushes_sound, State.refund_sound,
    State.spare_sound, State.stamp_sound, State.unlock_sound, State.withdrawFaults_sound]

theorem State.requestAll_sound {l : List Nat} (hs : Sound s) : Sound (s.requestAll t l).1 := by
  fun_induction State.requestAll t l s <;> grind only [State.request_sound]

theorem State.tryCommit_sound (hs : Sound s) (ht : TaskSound t) : Sound (s.tryCommit t).1 := by
  unfold State.tryCommit
  grind only [State.afterCommit_sound, State.landCommit_sound, State.putTask_sound, State.requestAll_sound,
    Task.block_sound]

theorem State.doneBody_sound (hs : Sound s) (ht : TaskSound t) : Sound (s.doneBody t).1 := by
  unfold State.doneBody
  grind only [TaskSound, State.barWait_sound, State.funded_sound, State.putTask_sound, State.tryCommit_sound,
    Task.block_sound]

@[simp] theorem execDone_sound (hs : Sound s) : Lands (execDone s) := issueTask_sound hs fun _ _ => State.doneBody_sound

@[simp] theorem execTaskCommit_sound {h : Word} (hs : Sound s) : Lands (execTaskCommit h s) := by
  unfold execTaskCommit
  grind only [State.doneBody_sound, State.onTask_sound]

theorem filterLocks_sound {p : Lock → Bool} (hs : Sound s) : Sound { s with locks := s.locks.filter p } := by
  obtain ⟨hmem, hhost, hscratch, hsusp, htasks, ⟨hfour, hdies, hsaved, hlocks⟩, hkept⟩ := hs
  exact ⟨hmem, hhost, hscratch, hsusp, htasks,
    ⟨hfour, hdies, hsaved, fun l hl => hlocks l (List.mem_of_mem_filter hl)⟩, hkept⟩

theorem tasksOf_sound {l : List Word} (hs : Sound s) : ∀ t ∈ l.filterMap s.task?, TaskSound t := by
  intro t ht
  obtain ⟨h, _, hh⟩ := List.mem_filterMap.mp ht
  exact State.task?_sound hs hh

@[simp] theorem execLockGrant_sound {line : Nat} (hs : Sound s) : Lands (execLockGrant line s) := by
  unfold execLockGrant
  split
  · exact hs
  next l hl =>
    split
    · exact hs
    split
    · exact filterLocks_sound hs
    next t ht =>
      have holdest : Opt (fun u => TaskSound u) (some t) :=
        ht ▸ opt_foldl (tasksOf_sound hs) True.intro (by grind only [Opt])
      have hwork := State.lock?_sound hs hl
      grind only [Opt, Lands, TaskSound, State.takeLock_sound, State.putTask_sound, Task.advance_sound,
        State.doneBody_sound, finish_sound, State.setLock_sound]

theorem youngest_sound {l : List Task} (hl : ∀ u ∈ l, TaskSound u) (ht : youngest l = some t) : TaskSound t := by
  have h : Opt (fun u => TaskSound u) (youngest l) := by
    refine opt_foldl hl True.intro fun b u hb hu => ?_
    cases b with
    | none => exact hu
    | some v =>
      dsimp only
      split
      · exact hu
      · exact hb
  rw [ht] at h
  exact h

@[simp] theorem execCupboardSpaceAbort_sound {die cluster : Nat} (hs : Sound s) :
    Lands (execCupboardSpaceAbort die cluster s) := by
  unfold execCupboardSpaceAbort
  grind only [State.onDie_sound, State.requeue_sound]

/-! ### The hang monitor and the deadlock detector -/

theorem State.hangEnd_sound (hs : Sound s) : Sound (s.hangEnd t).1 := by
  unfold State.hangEnd
  grind only [State.retire_sound, State.setHomed_sound, State.updDie_sound]

@[simp] theorem execHangDetect_sound {h : Word} (hs : Sound s) : Lands (execHangDetect h s) := by
  unfold execHangDetect
  grind only [State.hangEnd_sound, State.onTask_sound, State.shortfall_sound]

theorem State.growChan_sound {c : Chan} (hs : Sound s) : Opt (fun p => Sound p) (s.growChan c) := by
  unfold State.growChan
  grind only [sound_iff, Opt, Die.setQuota_sound, State.grantCredit_sound, State.log_sound, State.putChan_sound,
    State.updDie_sound]

theorem State.hangAll_sound {l : List Word} (hs : Sound s) : Sound (s.hangAll l).1 := by
  fun_induction State.hangAll s l <;> grind only [State.hangEnd_sound]

theorem State.breakCycle_sound {c : List Sample} (hs : Sound s) : Sound (s.breakCycle c).1 := by
  unfold State.breakCycle
  grind only [Opt, State.growChan_sound, State.hangAll_sound, State.taskFault_sound, → youngest_sound, tasksOf_sound]

theorem State.breakCycles_sound {d : Nat} {l l' : List Sample} (hs : Sound s) : Sound (s.breakCycles d l l').1 := by
  fun_induction State.breakCycles d l l' s <;> grind only [State.breakCycle_sound]

@[simp] theorem execChannelDetectorSample_sound {die : Nat} (hs : Sound s) : Lands (execChannelDetectorSample die s) :=
  State.onDie_sound hs fun _ _ h _ => State.breakCycles_sound (State.updDie_sound h (fun _ h => h))

/-! ### User queues and graphs -/

theorem State.readQueue_sound {d q : Nat} {head : Bool} (hs : Sound s) : Sound (s.readQueue d q head) := by
  unfold State.readQueue
  grind only [State.touchLines_sound]

theorem State.notify_sound {d q : Nat} (hs : Sound s) : Sound (s.notify d q) := by
  unfold State.notify
  grind only [State.readQueue_sound, State.updDie_sound]

@[simp] theorem execNotificationWrite_sound {die : Nat} {off : BitVec 12} {value : BitVec 32} (hs : Sound s) :
    Lands (execNotificationWrite die off value s) := by
  unfold execNotificationWrite
  grind only [State.notify_sound, State.onDie_sound]

theorem State.readWaiting_sound {d : Nat} (hs : Sound s) : Sound (s.readWaiting d) :=
  sound_foldl hs fun _ _ => State.readQueue_sound

theorem State.mapQueue_sound {d slot q : Nat} (hs : Sound s) : Sound (s.mapQueue d slot q) :=
  State.updDie_sound hs fun _ h => h

@[simp] theorem execQueueSlotMap_sound {die : Nat} (hs : Sound s) : Lands (execQueueSlotMap die s) := by
  unfold execQueueSlotMap
  grind only [State.mapQueue_sound, State.onDie_sound, State.readWaiting_sound]

theorem State.freeSlot_sound {d slot : Nat} {again : Bool} (hs : Sound s) : Sound (s.freeSlot d slot again) :=
  State.updDie_sound hs fun _ h => h

@[simp] theorem execTimeSliceEnd_sound {die slot : Nat} (hs : Sound s) : Lands (execTimeSliceEnd die slot s) := by
  unfold execTimeSliceEnd
  refine State.onDie_sound hs fun u x hu _ => ?_
  have hagain : ∀ v : State, Sound v → Sound (v.updDie die fun x =>
      { x with slots := x.slots.map fun (z : QSlot) => if z.idx == slot then { z with since := u.now } else z }) :=
    fun v hv => State.updDie_sound hv fun _ hx => hx
  split
  · exact hu
  split
  · exact hu
  dsimp only
  split
  · exact hagain _ (State.readWaiting_sound hu)
  split
  · exact hagain _ (State.readQueue_sound (State.readWaiting_sound hu))
  · exact State.mapQueue_sound (State.freeSlot_sound (State.readQueue_sound (State.readWaiting_sound hu)))

theorem State.rawNode_sound {d ctx a : Nat} (hs : Sound s) : Sound (s.rawNode d ctx a).1 := by
  unfold State.rawNode
  grind only [State.accessRange_sound, State.touchLines_sound]

theorem State.rawNodes_sound {d ctx n n' : Nat} (hs : Sound s) : Sound (s.rawNodes d ctx n n').1 := by
  fun_induction State.rawNodes d ctx n n' s <;> grind only [State.rawNode_sound]

theorem State.refuseLaunch_sound {d ctx : Nat} {e : LaunchEntry} {t : Trap} (hs : Sound s) :
    Sound (s.refuseLaunch d ctx e t).1 := State.landCompletion_sound hs

theorem State.startInstance_sound {d q : Nat} {e : LaunchEntry} {ns : List RawNode} (hs : Sound s) :
    Sound (s.startInstance d q e ns).1 := by
  unfold State.startInstance
  grind only [sound_iff, State.endInstance_sound, State.newId_sound, State.readyNodes_sound]

theorem State.launch_sound {d q : Nat} {e : LaunchEntry} {ctx : Nat} (hs : Sound s) :
    Sound (s.launch d q e ctx).1 := by
  unfold State.launch
  grind only [State.log_sound, State.rawNodes_sound, State.refuseLaunch_sound, State.startInstance_sound]

theorem State.queueOverrun_sound {d slot q : Nat} (hs : Sound s) : Sound (s.queueOverrun d slot q) :=
  State.updDie_sound (State.freeSlot_sound (State.setHomed_sound hs)) fun _ h => h

theorem State.emptyRing_sound {d : Nat} {y : QSlot} (hs : Sound s) : Sound (s.emptyRing d y) := by
  unfold State.emptyRing
  grind only [State.freeSlot_sound, State.updDie_sound]

@[simp] theorem execLaunchEntryRead_sound {die slot : Nat} (hs : Sound s) :
    Lands (execLaunchEntryRead die slot s) := by
  unfold execLaunchEntryRead
  refine State.onDie_sound hs fun u x hu _ => ?_
  split
  · exact hu
  next y hy =>
    have hread := State.readQueue_sound (d := die) (q := y.queue) (head := false) hu
    dsimp only
    split
    · exact hu
    split
    · exact State.freeSlot_sound hread
    split
    · exact State.emptyRing_sound hread
    split
    · exact State.queueOverrun_sound hread
    split
    · exact State.emptyRing_sound hread
    split
    · exact hread
    · exact State.launch_sound (State.setHomed_sound (State.readQueue_sound hu))

theorem State.fundIfBlocked_sound {h : Word} (hs : Sound s) : Sound (s.fundIfBlocked h).1 := by
  unfold State.fundIfBlocked
  grind only [State.fundArms_sound, State.settleTl2_sound]

@[simp] theorem execWalkerArmDelivery_sound {inst node : Nat} (hs : Sound s) :
    Lands (execWalkerArmDelivery inst node s) := by
  unfold execWalkerArmDelivery
  split
  · exact hs
  split
  · split
    · split
      · exact hs
      next t ht =>
        have htask : TaskSound t := State.task?_sound hs ht
        exact finish_sound (State.fundIfBlocked_sound (State.updNode_sound (State.putTask_sound hs htask)))
    · exact hs
  · exact hs

/-! ### Placement -/

theorem State.imageOf_sound {q : QRec} (hs : Sound s) : Opt (fun p => TaskSound p.task) (s.imageOf q) := by
  obtain ⟨_, _, _, _, _, ⟨_, _, hsaved, _⟩, _⟩ := hs
  unfold State.imageOf
  cases q.image with
  | none => exact True.intro
  | some id =>
    simp only [Option.bind_some]
    cases hx : s.saved.find? fun x => x.id == id with
    | none => exact True.intro
    | some x => exact hsaved x (List.mem_of_find?_eq_some hx)

theorem State.takeRecord_sound {d id : Nat} (hs : Sound s) : Sound (s.takeRecord d id) :=
  State.updDie_sound hs fun _ h => h

theorem State.refuseRecord_sound {d : Nat} {q : QRec} {e : Ending} {t : Trap} {shortfall sub : Nat} (hs : Sound s) :
    Sound (s.refuseRecord d q e t shortfall sub).1 := by
  unfold State.refuseRecord
  grind only [State.landReport_sound, State.takeRecord_sound]

theorem State.newHandle_sound {die cluster slot : Nat} (hs : Sound s) : Sound (s.newHandle die cluster slot).1 := hs

theorem State.placed_sound {d : Nat} {c : Cand} {lead : Nat} (hs : Sound s) : Sound (s.placed d c lead) :=
  State.updDie_sound (State.takeRecord_sound hs) fun _ h => h

theorem State.nodeRuns_sound {origin : Option (Nat × Nat)} {h : Word} (hs : Sound s) :
    Sound (s.nodeRuns origin h) := by
  unfold State.nodeRuns
  grind only [sound_iff]

theorem addTask_sound (hs : Sound s) (ht : TaskSound t) : Sound { s with tasks := s.tasks ++ [t] } := by
  grind only [sound_iff, SoundOf, = List.mem_append, = List.mem_singleton]

theorem State.allot_sound {d : Nat} {c : Cand} {ms : List Member} (hs : Sound s) : Sound (s.allot d c ms) := by
  unfold State.allot
  have hid := State.newId_sound (State.newHandle_sound (die := d) (cluster := (ms.headD default).cluster)
    (slot := (ms.headD default).slot) (State.placed_sound (d := d) (c := c) (lead := (ms.headD default).cluster) hs))
  have hfresh := hid
  obtain ⟨hmem, hhost, _⟩ := hfresh
  exact State.nodeRuns_sound (addTask_sound (State.updDie_sound hid fun _ hx => hx) ⟨hmem, hhost, rfl⟩)

theorem State.rename_sound {old new : Word} (hs : Sound s) : Sound (s.rename old new) := by
  obtain ⟨hmem, hhost, hscratch, hsusp, htasks, ⟨hfour, hdies, hsaved, hlocks⟩, hkept⟩ := hs
  refine ⟨hmem, hhost, hscratch, hsusp, htasks, ⟨hfour, hdies, hsaved, fun l hl => ?_⟩, hkept⟩
  obtain ⟨k, hk, rfl⟩ := List.mem_map.mp hl
  exact hlocks k hk

theorem State.zeroRows_sound {p : Nat → Bool} (hs : Sound s) : Sound (s.zeroRows t p) := by
  obtain ⟨hmem, hhost, hscratch, hrest⟩ := hs
  exact ⟨hmem, hhost, Memory.filter_wf hscratch, hrest⟩

theorem State.putScratch_sound {l : List Host.Cell} (hs : Sound s) : Sound (s.putScratch t l) :=
  sound_foldl hs fun _ _ h => State.scratchWrite_sound h

theorem dropSaved_sound {p : Saved → Bool} (hs : Sound s) : Sound { s with saved := s.saved.filter p } := by
  grind only [sound_iff, SoundOf, PartsSound, = List.mem_filter]

theorem State.restoreTask_sound {d : Nat} {c : Cand} {x : Saved} {ms : List Member} (hs : Sound s)
    (hx : TaskSound x.task) : Sound (s.restoreTask d c x ms) := by
  unfold State.restoreTask
  extract_lets m u
  have hnew := State.newHandle_sound (die := d) (cluster := m.cluster) (slot := m.slot) (show Sound u from State.placed_sound hs)
  split
  next v h heq =>
    rw [heq] at hnew
    obtain ⟨hmem, hhost, _⟩ := id hnew
    obtain ⟨_, _, hcup⟩ := hx
    extract_lets t w
    have ht : TaskSound t := ⟨hmem, hhost, hcup⟩
    have hw : Sound w := State.zeroRows_sound (State.rename_sound hnew)
    clear_value t w
    exact State.nodeRuns_sound (State.putScratch_sound (addTask_sound (dropSaved_sound hw) ht))

theorem State.verdict_restore {d : Nat} {c : Cand} {x : Saved} {ms : List Member} (hs : Sound s)
    (hv : s.verdict d c = some (.restore x ms)) : TaskSound x.task := by
  have himage := State.imageOf_sound (q := c.q) hs
  unfold State.verdict at hv
  split at hv
  next y hy =>
    rw [hy] at himage
    cases hg : s.gangFor d c with
    | none => simp [hg] at hv
    | some l =>
      simp only [hg, Option.map_some, Option.some.injEq, Verdict.restore.injEq] at hv
      exact hv.1 ▸ himage
  · split at hv
    · simp at hv
    · split at hv
      · simp at hv
      split at hv
      · simp at hv
      split at hv
      · simp at hv
      · simp at hv

@[simp] theorem execPlacementDecision_sound {die : Nat} (hs : Sound s) : Lands (execPlacementDecision die s) := by
  unfold execPlacementDecision
  refine State.onDie_sound hs fun u x hu _ => ?_
  dsimp only
  split
  · exact hu
  split
  · exact hu
  · exact State.refuseRecord_sound hu
  · exact State.refuseRecord_sound hu
  · exact State.allot_sound hu
  next c y ms hv =>
    obtain ⟨k, _, hk⟩ := List.exists_of_findSome?_eq_some hv
    obtain ⟨v, hverdict, heq⟩ := Option.map_eq_some_iff.mp hk
    cases heq
    exact State.restoreTask_sound hu (State.verdict_restore hu hverdict)

theorem Die.mapRecords_sound {x : Die} {f : QRec → QRec} (hx : x.bureau.priv.wf = true) :
    (x.mapRecords f).bureau.priv.wf = true := hx

@[simp] theorem execRecordAging_sound {id : Nat} (hs : Sound s) : Lands (execRecordAging id s) := by
  obtain ⟨hmem, hhost, hscratch, hsusp, htasks, ⟨hfour, hdies, hrest⟩, hkept⟩ := hs
  refine ⟨hmem, hhost, hscratch, hsusp, htasks, ⟨(List.length_map _).trans hfour, fun x hx => ?_, hrest⟩, hkept⟩
  obtain ⟨y, hy, rfl⟩ := List.mem_map.mp hx
  exact Die.mapRecords_sound (hdies y hy)

@[simp] theorem execFundingStall_sound {die : Nat} (hs : Sound s) : Lands (execFundingStall die s) :=
  State.onDie_sound hs fun _ _ h _ => State.updDie_sound h fun _ h => h

@[simp] theorem execPlacementStall_sound {die : Nat} (hs : Sound s) : Lands (execPlacementStall die s) := by
  unfold execPlacementStall
  grind only [State.onDie_sound, State.updDie_sound]

theorem State.sampleHeads_sound {d : Nat} (hs : Sound s) : Sound (s.sampleHeads d) :=
  State.updDie_sound hs fun _ h => h

theorem State.zeroForeign_sound (hs : Sound s) : Sound (s.zeroForeign t) := State.zeroRows_sound hs

theorem Task.setFrame_sound {l : List Byte} (ht : TaskSound t) : TaskSound (t.setFrame l) :=
  taskSound_foldl ht fun _ _ h => h

theorem State.loadImage_sound (hs : Sound s) (ht : TaskSound t) : Sound (s.loadImage t).1 := by
  unfold State.loadImage
  grind only [TaskSound, State.debit_sound, State.loadGo_sound, State.refuse_sound]

theorem State.afterFrame_sound (hs : Sound s) (ht : TaskSound t) : Sound (s.afterFrame t).1 := by
  unfold State.afterFrame
  grind only [TaskSound, State.loadImage_sound, State.putTask_sound, Task.install_sound]

@[simp] theorem execAdmission_sound {h : Word} (hs : Sound s) : Lands (execAdmission h s) := by
  unfold execAdmission
  grind only [Answers, State.afterFrame_sound, State.freezeEarly_sound, State.onTask_sound, State.overflow_sound,
    State.takeTrap_sound, State.viewRead_sound, State.zeroForeign_sound, Task.setFrame_sound]

@[simp] theorem execStealRequest_sound {die cluster : Nat} (hs : Sound s) : Lands (execStealRequest die cluster s) := by
  unfold execStealRequest
  grind only [State.onDie_sound, State.updDie_sound]

@[simp] theorem execStealWithdraw_sound {die cluster : Nat} (hs : Sound s) : Lands (execStealWithdraw die cluster s) :=
  State.onDie_sound hs fun _ _ h _ => State.updDie_sound h fun _ h => h

/-! ### The budget ring -/

theorem Die.take_sound {x : Die} {want token : Nat} (hx : x.bureau.priv.wf = true) :
    (x.take want token).1.bureau.priv.wf = true := hx

theorem ringPass_sound {want : Die → Nat} {l : List Die} {n : Nat} (hl : ∀ x ∈ l, x.bureau.priv.wf = true) :
    ∀ x ∈ (ringPass want l n).1, x.bureau.priv.wf = true := by
  fun_induction ringPass want l n with
  | case1 => exact hl
  | case2 x r t y u htake ds v hpass ih =>
    rw [hpass] at ih
    have hy := Die.take_sound (want := want x) (token := t) (hl x List.mem_cons_self)
    rw [htake] at hy
    exact List.forall_mem_cons.mpr ⟨hy, ih fun z hz => hl z (List.mem_cons_of_mem x hz)⟩

theorem length_ringPass (want : Die → Nat) (l : List Die) (n : Nat) : (ringPass want l n).1.length = l.length := by
  fun_induction ringPass want l n with
  | case1 => rfl
  | case2 x r t y u htake ds v hpass ih =>
    rw [hpass] at ih
    exact congrArg (· + 1) ih

theorem State.ringTurn_sound (hs : Sound s) : Sound s.ringTurn := by
  obtain ⟨hmem, hhost, hscratch, hsusp, htasks, ⟨hfour, hdies, hrest⟩, hkept⟩ := hs
  exact ⟨hmem, hhost, hscratch, hsusp, htasks, ⟨by simpa [State.ringTurn, length_ringPass] using hfour,
    ringPass_sound (ringPass_sound hdies), hrest⟩, hkept⟩

theorem State.tickTask_sound (ht : TaskSound t) : TaskSound (s.tickTask t) := ht

theorem State.tick_sound (hs : Sound s) : Sound s.tick := by
  obtain ⟨hmem, hhost, hscratch, hsusp, htasks, hparts⟩ := id hs
  refine sound_foldl ⟨hmem, hhost, hscratch, hsusp, fun t ht => ?_, hparts⟩ fun _ _ h => State.sampleHeads_sound h
  obtain ⟨u, hu, rfl⟩ := List.mem_map.mp ht
  exact State.tickTask_sound (htasks u hu)

@[simp] theorem execBudgetRingTurn_sound (hs : Sound s) : Lands (execBudgetRingTurn s) :=
  State.tidy_sound (State.tick_sound (State.ringTurn_sound hs))

/-! ### Bring-up, the host and peers -/

@[simp] theorem execPowerGood_sound (hs : Sound s) : Lands (execPowerGood s) := by
  obtain ⟨hmem, hhost, _, _, _, _, _, hwardrobe⟩ := hs
  refine ⟨Memory.filter_wf hmem, hhost, rfl, rfl, ?_, ⟨rfl, fun x hx => ?_, ?_, ?_⟩, ?_, hwardrobe⟩
  case refine_2 =>
    obtain ⟨d, _, rfl⟩ := List.mem_map.mp hx
    rfl
  all_goals simp [State.reset]

@[simp] theorem execStageBComplete_sound {failing : Option StageFailure} (hs : Sound s) :
    Lands (execStageBComplete failing s) := by
  unfold execStageBComplete
  have htrain := State.train_sound hs
  split
  · exact hs
  split
  · exact hs
  · dsimp only
    obtain ⟨hmem, hrest⟩ := id htrain
    split
    · exact htrain
    · exact ⟨Memory.filter_wf hmem, hrest⟩

@[simp] theorem execZeroingSweep_sound {block : Nat} (hs : Sound s) : Lands (execZeroingSweep block s) :=
  State.sweepPass_sound hs

theorem State.refuseAccess_sound {a : Nat} (hs : Sound s) : Sound (s.refuseAccess a) := hs

theorem State.outsideWrite_sound {a : Nat} {l : List Byte} (hs : Sound s) : Sound (s.outsideWrite a l).1 := by
  unfold State.outsideWrite
  grind only [State.landExternal_sound, State.refuseAccess_sound]

@[simp] theorem execCxlMemWrite_sound {addr : Nat} {data : List Byte} (hs : Sound s) :
    Lands (execCxlMemWrite addr data s) := by
  unfold execCxlMemWrite
  grind only [Lands, State.outsideWrite_sound, finish_sound]

@[simp] theorem execCxlCacheSnoop_sound {addr : Nat} {data : Option (List Byte)} (hs : Sound s) :
    Lands (execCxlCacheSnoop addr data s) := by
  unfold execCxlCacheSnoop
  grind only [sound_iff, Lands, State.dropLine_sound, State.publish_sound, State.stamp_sound, finish_sound]

theorem State.landEntry_sound {ctx num : Nat} {l : List Byte} (hs : Sound s) : Sound (s.landEntry ctx num l) := by
  unfold State.landEntry
  grind only [sound_iff, State.placeEntry_sound]

@[simp] theorem execUalinkWrite_sound {target : LinkTarget} {data : List Byte} (hs : Sound s) :
    Lands (execUalinkWrite target data s) := by
  unfold execUalinkWrite
  grind only [Lands, State.landEntry_sound, State.outsideWrite_sound, finish_sound]

theorem State.hostPut_sound {a : Nat} {l : List Byte} (hs : Sound s) : Sound (s.hostPut a l) := by
  obtain ⟨hmem, hhost, hrest⟩ := hs
  exact ⟨hmem, Overlay.write_wf hhost a l, hrest⟩

@[simp] theorem execResyncRequest_sound {value : Word} (hs : Sound s) : Lands (execResyncRequest value s) := by
  unfold execResyncRequest
  grind only [sound_iff, Lands]

@[simp] theorem execResyncSummaryWritten_sound (hs : Sound s) : Lands (execResyncSummaryWritten s) := by
  unfold execResyncSummaryWritten
  grind only [sound_iff, Lands, State.hostPut_sound]

@[simp] theorem execAttestRequest_sound {value : Word} (hs : Sound s) : Lands (execAttestRequest value s) :=
  State.hostPut_sound hs

@[simp] theorem execHostRead_sound {addr len : Nat} (hs : Sound s) : Lands (execHostRead addr len s) := by
  unfold execHostRead
  grind only [sound_iff, Lands, State.refuseAccess_sound]

theorem State.windowWrite_sound {d num half : Nat} {l : List Byte} (hs : Sound s) :
    Sound (s.windowWrite d num half l).1 := by
  unfold State.windowWrite
  grind only [State.regSet_sound]

theorem State.barWrite_sound {off : Nat} {l : List Byte} (hs : Sound s) : Lands (s.barWrite off l) := by
  unfold State.barWrite
  grind only [Lands, State.onDie_sound, State.windowWrite_sound, execAttestRequest_sound, execNotificationWrite_sound,
    execResyncRequest_sound]

@[simp] theorem execHostWrite_sound {addr : Nat} {data : List Byte} (hs : Sound s) : Lands (execHostWrite addr data s) := by
  unfold execHostWrite
  grind only [Lands, State.barWrite_sound, State.outsideWrite_sound, finish_sound]

/-! ### Charge instructions -/

theorem commandBody_sound {x : Instr} :
    Opt (fun p => (∀ a1 b1, Sound a1 → TaskSound b1 → Sound (p a1 b1).1)) (commandBody x) := by
  unfold commandBody
  grind only [Opt, State.armBody_sound, State.cfgLoadBody_sound, State.copyBody_sound, State.mxArmBody_sound,
    State.mxGroupBody_sound, State.mxLdsBody_sound, State.nestBody_sound, State.strmCondBody_sound,
    State.strmGoBody_sound]

theorem State.grantOn_sound {g : Task} {c : Cmd} (hs : Sound s) (hg : TaskSound g) : Sound (s.grantOn g c).1 := by
  unfold State.grantOn
  grind only [State.grantCmd_sound, State.loadGo_sound, State.settleTl2_sound]

theorem State.issueHeld_sound {g : Task} {c : Cmd} (hs : Sound s) (hg : TaskSound g) : Sound (s.issueHeld g c).1 := by
  unfold State.issueHeld
  grind only [TaskSound, Opt, State.debit_sound, State.grantOn_sound, State.loadGo_sound, State.putTask_sound,
    commandBody_sound]

theorem State.leaveHold_sound {h : Word} (hs : Sound s) : Sound (s.leaveHold h) := by
  unfold State.leaveHold
  grind only [TaskSound, State.putTask_sound, → State.task?_sound]

theorem State.resumeGate_sound {g : Task} (hs : Sound s) (hg : TaskSound g) : Sound (s.resumeGate g).1 := by
  unfold State.resumeGate
  grind only [State.grantOn_sound, State.issueHeld_sound, State.leaveHold_sound]

theorem State.topUp_sound {g : Task} {n : Nat} (hs : Sound s) (hg : TaskSound g) : Sound (s.topUp g n).1 := by
  unfold State.topUp
  grind only [TaskSound, State.putTask_sound, State.resumeGate_sound]

theorem State.topUpAt_sound {h : Word} {n : Nat} (hs : Sound s) : Sound (s.topUpAt h n).1 := by
  unfold State.topUpAt
  grind only [State.topUp_sound, → State.task?_sound]

theorem State.spend_sound {n : Nat} (hs : Sound s) : Sound (s.spend t n) := State.updDie_sound hs fun _ h => h

theorem State.chargeResult_sound {h : Word} {d : Reg} {v : Word} (hs : Sound s) : Sound (s.chargeResult h d v) := by
  unfold State.chargeResult
  grind only [State.putTask_sound, Task.advance_sound, Task.setX_sound, → State.task?_sound]

@[simp] theorem execChgAdd_sound {d a b : Reg} (hs : Sound s) : Lands (execChgAdd d a b s) := by
  unfold execChgAdd
  grind only [State.chargeResult_sound, State.spend_sound, State.topUpAt_sound, State.trapAt_sound, issueTask_sound]

@[simp] theorem execChgRead_sound {d a : Reg} (hs : Sound s) : Lands (execChgRead d a s) := by
  unfold execChgRead
  grind only [State.chargeResult_sound, State.trapAt_sound, issueTask_sound]

@[simp] theorem execChgLow_sound {d a : Reg} (hs : Sound s) : Lands (execChgLow d a s) := by
  unfold execChgLow
  exact issueSimple_sound hs fun t ht => Task.setX_sound (show TaskSound _ from ht)

@[simp] theorem execChgHold_sound {d a : Reg} (hs : Sound s) : Lands (execChgHold d a s) := by
  unfold execChgHold
  exact issueSimple_sound hs fun t ht => Task.setX_sound (show TaskSound _ from ht)

@[simp] theorem execChgSelf_sound {d : Reg} (hs : Sound s) : Lands (execChgSelf d s) := issueSimple_sound hs fun _ h => h

@[simp] theorem execPrefixEnd_sound {h : Word} (hs : Sound s) : Lands (execPrefixEnd h s) := by
  unfold execPrefixEnd
  grind only [State.grantOn_sound, State.onTask_sound]

@[simp] theorem execHoldTimerExpiry_sound {h : Word} (hs : Sound s) : Lands (execHoldTimerExpiry h s) := by
  unfold execHoldTimerExpiry
  grind only [State.onTask_sound, State.shortfall_sound]

/-! ### The dispatch -/

/-- Instructions that share an operation share its lemma; each other one, and each event, has its own. -/
theorem exec_sound {i : Instr} (hs : Sound s) : Lands (exec i s) := by
  cases i with
  | add | sub | and | or | xor | sll | srl | sra | slt | sltu | mul | mulh | mulhu | div | divu | rem | remu | min |
    max | minu | maxu | clz | ctz | pop | addi | andi | ori | xori | slli | srli | srai | slti | li | lih | addiw =>
    rw [exec]
    exact issueScalar_sound hs
  | beq | bne | blt | bge | bltu | bgeu =>
    rw [exec]
    exact issueBranch_sound hs
  | jal | jalr =>
    rw [exec]
    exact issueJump_sound hs
  | ldsB | ldsH | ldsW | ldsD | ldsBu | ldsHu | ldsWu =>
    rw [exec]
    exact issueLds_sound hs
  | stsB | stsH | stsW | stsD =>
    rw [exec]
    exact issueSts_sound hs
  | ldgB | ldgH | ldgW | ldgD | ldgBu | ldgHu | ldgWu =>
    rw [exec]
    exact issueLdg_sound hs
  | stgB | stgH | stgW | stgD =>
    rw [exec]
    exact issueStg_sound hs
  | redAddW | redAddD | redMinW | redMaxW | redOrW | redAndW | redFaddS =>
    rw [exec]
    exact issueRed_sound hs
  | sysRd | sysWr | sysSet | sysClr =>
    rw [exec]
    exact issueReg_sound hs
  | tcopy | tcopyDmd =>
    rw [exec]
    exact issueCopy_sound hs
  | cuFire | fibreUnitFire | joinStep | pmtEnter | pmtExit | ctlSeq | ctlPipe | ctlStrm | barNode =>
    rw [exec]
    exact State.cuEvent_sound hs
  | affineElement | gatherRequest | scatterStore | levelExpand | channelAgElement =>
    rw [exec]
    exact State.agEvent_sound hs
  | _ => simp [exec, hs]

/-! ### One step -/

theorem State.turn_sound {a : Agent} (hs : Sound s) : Lands (s.turn a) := by
  obtain ⟨hstopped, hgoes⟩ := State.fetch_sound (a := a) hs
  unfold State.turn
  split
  next i u hf =>
    rw [hf] at hgoes
    exact exec_sound (show Sound _ from hgoes)
  next u v hf =>
    rw [hf] at hstopped
    exact hstopped

theorem step_sound (hs : Sound s) : Lands (step s) := by
  unfold step
  grind only [sound_iff, Lands, State.turn_sound, exec_sound]

end Sys2Proof.Laws.Soundness

namespace Sys2Proof.Proofs

open Sys2Proof Sys2Proof.Machine Sys2Proof.Claims Sys2Proof.Laws.Soundness

/-- Settles O8: the dies at reset are the four of `State.reset`, and every memory there is empty. -/
theorem resetSound : Obligations.ResetSound := by
  unfold Obligations.ResetSound Sound PartsSound
  refine ⟨rfl, rfl, rfl, rfl, by simp [State.reset], ⟨rfl, ?_, ?_, ?_⟩, ?_, ?_⟩
  all_goals simp [State.reset, Die.reset, Bureau.reset, Memory.wf, Memory.wfFrom]

/-- Settles O9 by `step_sound`, which says so of every step. -/
theorem stepKeepsSound : Obligations.StepKeepsSound := by
  intro s s' hs hstep
  have hlands := step_sound hs
  rw [hstep] at hlands
  exact hlands

end Sys2Proof.Proofs
end

section
/-! SUPPORT. The nest and the copy that a task works on (R161, R215, R217), and O36. -/
namespace Sys2Proof.Laws.Copying

open Sys2Proof Sys2Proof.Machine Sys2Proof.Claims

/-- A ready task that is not stopped runs its units: its nests and copies go on. -/
theorem running_of_works {s : State} {t : Task} (h : Works s t) : t.running = true := by
  obtain ⟨_, hready, hgate⟩ := h
  simpa [Task.running, Task.works, hready] using hgate

theorem nestRun_of_none {s u : State} {t t' : Task} {n n' : Nest} {r : List Nest} (hrun : t.running = true)
    (hn : t.nests = n :: r) (hfree : t.isFrozen 6 0 0 = false)
    (he : State.nestElements (n.granted - n.ran) s t n = (u, t', n', none)) :
    s.nestRun t = (u.putTask { t' with nests := if nestTotal n.w ≤ n'.ran then r else n' :: r,
                                       hangCount := if n.ran < n'.ran then 0 else t'.hangCount }, []) := by
  simp [State.nestRun, hn, hrun, hfree, he]

/-- A copy goes on once it has begun, where it has no gate, or where its gate is reached. -/
theorem copyOpen_of_reached {t : Task} {c : Copy}
    (h : c.running = true ∨ c.d.gate = none ∨ ∃ g v, c.d.gate = some (g, v) ∧ v ≤ t.timeline g) :
    t.copyOpen c = true := by
  unfold Task.copyOpen
  obtain hrun | hnone | ⟨g, v, hgate, hreached⟩ := h
  · cases c.d.gate <;> simp [hrun]
  · rw [hnone]
  · simp [hgate, hreached]

theorem copyGo_of_none {s u : State} {t t' : Task} {c c' : Copy}
    (he : State.copyElements (c.allowed - c.ran) s t { c with running := true } = (u, t', c', none))
    (hc : c'.cancelled = false) :
    s.copyGo t c = (u.putTask
      (Task.putCopy { t' with hangCount := if c' = { c with running := true } then t'.hangCount else 0 } c'), []) := by
  simp [State.copyGo, he, hc]

theorem copyRun_of_open {s : State} {t : Task} {k n : Nat} {c : Copy} (hrun : t.running = true)
    (hc : s.copyHead t k n = some c) (hopen : t.copyOpen c = true) (hfree : t.portFrozen c.port = false) :
    s.copyRun t k n = s.copyGo t c := by
  simp [State.copyRun, hc, hrun, hopen, hfree]

/-- The copy at the head of an engine is the first of those that the engine has still to complete. -/
theorem head?_engineCopies {s : State} {t : Task} {k n : Nat} {c : Copy} (hc : s.copyHead t k n = some c) :
    (s.engineCopies t.die (t.member k).cluster n).head?.map (fun p => (p.1.handle, p.2)) = some (t.handle, c) := by
  unfold State.copyHead at hc
  split at hc
  next u d r hl =>
    split at hc
    next h =>
      obtain ⟨hu, _⟩ := Bool.and_eq_true_iff.mp h
      cases hc
      rw [hl]
      exact congrArg some (Prod.ext (eq_of_beq hu) rfl)
    next => cases hc
  next => cases hc

/-- Counting numbers on a timeline leaves the decrements that a task holds. -/
theorem finish_go_joinDecs (n k : Nat) (t : Task) : (Task.finish.go n k t).joinDecs = t.joinDecs := by
  induction k generalizing t with
  | zero => rfl
  | succ k ih =>
    unfold Task.finish.go
    split
    · exact ih _
    · rfl

theorem endCopy_joinDecs (t : Task) (c : Copy) : (t.endCopy c).joinDecs = t.joinDecs :=
  (finish_go_joinDecs c.n _ _).trans (Task.gotSpace_joinDecs t c.port)

/-- COPY_COMPLETE where the copy at the head of the engine has run: it ends, and the decrement of its join cell is held. -/
theorem execCopyComplete_of_ran {s : State} {t : Task} {k n : Nat} {c : Copy} (ht : s.task? t.handle = some t)
    (hc : s.copyHead t k n = some c) (hran : c.d.total ≤ c.ran) :
    execCopyComplete t.handle k n s = .next (s.putTask
      { t.endCopy c with joinDecs := t.joinDecs ++ (if c.d.join = 0 then [] else [c.d.join]), hangCount := 0 }) := by
  rw [execCopyComplete, State.onTask_some ht]
  simp only [hc, if_neg (Nat.not_lt.mpr hran), finish_nil, State.fired, endCopy_joinDecs]

end Sys2Proof.Laws.Copying

namespace Sys2Proof.Proofs

open Sys2Proof Sys2Proof.Machine Sys2Proof.Claims Sys2Proof.Laws.Copying

/-- Settles O36, a part at a time: the nest, the copy that goes on, what stands at the head of an engine, the copy that is done. -/
theorem nestAndCopySteps : Obligations.NestAndCopySteps := by
  refine ⟨?nest, ?launch, ?head, ?complete⟩
  case nest =>
    intro s t n r u t' n' hworks hn hfree he
    obtain ⟨ht, _⟩ := id hworks
    rw [exec, execNestComplete, State.onTask_some ht, nestRun_of_none (running_of_works hworks) hn hfree he, finish_nil]
  case launch =>
    intro s t cl n c u t' c' hworks hc hfree hgate he hcancelled
    obtain ⟨ht, _⟩ := id hworks
    rw [exec, execCopyLaunch, State.onTask_some ht,
      copyRun_of_open (running_of_works hworks) hc (copyOpen_of_reached hgate) hfree,
      copyGo_of_none he hcancelled, finish_nil]
  case head =>
    exact fun s t cl n c hc => ⟨_, rfl, head?_engineCopies hc⟩
  case complete =>
    exact fun s t cl n c ht hc hran => execCopyComplete_of_ran ht hc hran

end Sys2Proof.Proofs
end

section
/-! SUPPORT. The packet gate: what a refusal does, how many units an account covers, what one grant does with them, and what the
record of a shortfall says (R108, R111, R113), and O37 and O22. -/
namespace Sys2Proof.Laws.Gate

open Sys2Proof Sys2Proof.Machine Sys2Proof.Claims

variable {s : State} {t : Task} {c : Cmd} {runs r : List (Nat × Nat)} {n d k skip acc sum : Nat}

/-! ### Refusals (R108, R111) -/

/-- A task whose gate holds command `c`, with `left` still to run of the hold. -/
def held (t : Task) (c : Cmd) (left : Nat) : Task := { t with cmd := some c, gate := .hold, holdLeft := left }

@[simp] theorem held_idle (left : Nat) : (held t c left).idle = t.idle := rfl

/-- What a refusal leaves on the hold timer: the timer of a gate in HOLD runs on, any other starts at the hold field. -/
def holdTimer (t : Task) : Nat := if t.gate = .hold then t.holdLeft else t.holdField.toNat * 64

theorem holdTimer_of_hold (h : t.gate = .hold) : holdTimer t = t.holdLeft := if_pos h

theorem holdTimer_of_ne_hold (h : t.gate ≠ .hold) : holdTimer t = t.holdField.toNat * 64 := if_neg h

theorem holdTimer_eq_zero_iff (h : t.gate ≠ .hold) : holdTimer t = 0 ↔ t.holdField = 0 := by
  rw [holdTimer_of_ne_hold h, ← BitVec.toNat_inj]
  simp

theorem held_of_hold (h : t.gate = .hold) : held t c t.holdLeft = { t with cmd := some c } := by
  rw [held, ← h]

theorem refuse_eq (s : State) (t : Task) (c : Cmd) : s.refuse t c =
    if holdTimer t = 0 ∧ t.idle = true then s.shortfall (held t c (holdTimer t)) c
    else (s.putTask (held t c (holdTimer t)), []) := by
  simp only [State.refuse, holdTimer, held, beq_iff_eq, Bool.and_eq_true, decide_eq_true_eq]
  rfl

theorem refuse_of_open (h : holdTimer t ≠ 0 ∨ t.idle = false) :
    s.refuse t c = (s.putTask (held t c (holdTimer t)), []) := by
  rw [refuse_eq, if_neg]
  rintro ⟨hzero, hidle⟩
  simp [hzero, hidle] at h

theorem refuse_of_spent (hzero : holdTimer t = 0) (hidle : t.idle = true) :
    s.refuse t c = s.shortfall (held t c 0) c := by
  rw [refuse_eq, if_pos ⟨hzero, hidle⟩, hzero]

theorem refuse_enters_hold (hgate : t.gate ≠ .hold) (h : t.holdField ≠ 0 ∨ t.idle = false) :
    s.refuse t c = (s.putTask (held t c (t.holdField.toNat * 64)), []) := by
  rw [← holdTimer_of_ne_hold hgate]
  exact refuse_of_open (h.imp_left (mt (holdTimer_eq_zero_iff hgate).mp))

theorem refuse_stays_in_hold (hgate : t.gate = .hold) (h : t.holdLeft ≠ 0 ∨ t.idle = false) :
    s.refuse t c = (s.putTask { t with cmd := some c }, []) := by
  rw [← holdTimer_of_hold hgate] at h
  rw [refuse_of_open h, holdTimer_of_hold hgate, held_of_hold hgate]

theorem refuse_ends_task (hgate : t.gate ≠ .hold) (hfield : t.holdField = 0) (hidle : t.idle = true) :
    s.refuse t c = s.shortfall (held t c 0) c :=
  refuse_of_spent ((holdTimer_eq_zero_iff hgate).mpr hfield) hidle

/-! ### Draws of consecutive units (R108) -/

/-- What the `n` units from number `skip` on draw together. -/
def drawFrom (runs : List (Nat × Nat)) (skip n : Nat) : Nat := ((List.range n).map fun i => unitDraw runs (skip + i)).sum

@[simp] theorem drawFrom_zero : drawFrom runs skip 0 = 0 := rfl

theorem drawFrom_add (m : Nat) : drawFrom runs skip (m + n) = drawFrom runs skip m + drawFrom runs (skip + m) n := by
  simp [drawFrom, List.range_add, Function.comp_def, Nat.add_assoc]

@[simp] theorem drawFrom_nil : drawFrom [] skip n = 0 := by
  simp [drawFrom, unitDraw]

theorem unitDraw_cons_add (i : Nat) : unitDraw ((n, d) :: r) (n + i) = unitDraw r i := by
  simp [unitDraw]

/-- Units past the first run are units of the others. -/
theorem drawFrom_cons_add (m : Nat) : drawFrom ((n, d) :: r) (n + skip) m = drawFrom r skip m := by
  simp [drawFrom, Nat.add_assoc, unitDraw_cons_add]

/-- Units of the first run draw alike. -/
theorem drawFrom_cons_within (h : skip + k ≤ n) : drawFrom ((n, d) :: r) skip k = k * d := by
  have hmap : (List.range k).map (fun i => unitDraw ((n, d) :: r) (skip + i)) = (List.range k).map fun _ => d :=
    List.map_congr_left fun i hi => if_pos (by have := List.mem_range.mp hi; omega)
  rw [drawFrom, hmap]
  simp

/-- Units that go on past the first run: the rest of it, then units of the others from the first. -/
theorem drawFrom_cons_past (h : skip ≤ n) :
    drawFrom ((n, d) :: r) skip (n - skip + k) = (n - skip) * d + drawFrom r 0 k := by
  rw [drawFrom_add, drawFrom_cons_within (by omega), Nat.add_sub_cancel' h]
  exact congrArg _ (drawFrom_cons_add (skip := 0) k)

@[simp] theorem unitsOf_nil : Claims.unitsOf [] = 0 := rfl

@[simp] theorem unitsOf_cons : Claims.unitsOf ((n, d) :: r) = n + Claims.unitsOf r := by
  simp [Claims.unitsOf]

/-- The draws left after `skip` units are those of all units from there on. -/
theorem restDraw_eq_drawFrom (runs : List (Nat × Nat)) (skip : Nat) :
    restDraw runs skip = drawFrom runs skip (Claims.unitsOf runs - skip) := by
  fun_induction restDraw runs skip with
  | case1 => simp
  | case2 n d r skip hskip ih =>
    obtain ⟨j, rfl⟩ := Nat.exists_eq_add_of_le hskip
    rw [ih, unitsOf_cons, drawFrom_cons_add]
    congr 1 <;> omega
  | case3 n d r skip hskip ih =>
    rw [ih, unitsOf_cons, Nat.sub_add_comm (by omega : skip ≤ n),
      drawFrom_cons_past (by omega), Nat.sub_zero]

/-! ### How many units an account covers (R108) -/

/-- From unit number `skip` on, an account of `acc` covers `k` units, of draw `sum` together, and not one more. -/
structure LargestPrefix (runs : List (Nat × Nat)) (skip acc k sum : Nat) : Prop where
  covered : sum ≤ acc
  draw : sum = drawFrom runs skip k
  maximal : skip + k < Claims.unitsOf runs → acc < sum + unitDraw runs (skip + k)
  units : skip ≤ Claims.unitsOf runs → skip + k ≤ Claims.unitsOf runs

namespace LargestPrefix

theorem nil : LargestPrefix [] skip acc 0 0 where
  covered := acc.zero_le
  draw := rfl
  maximal h := absurd h (Nat.not_lt_zero _)
  units h := h

/-- Where the first run lies before unit `skip`, the units are those of the other runs. -/
theorem cons_past (h : LargestPrefix r skip acc k sum) : LargestPrefix ((n, d) :: r) (n + skip) acc k sum where
  covered := h.covered
  draw := by rw [drawFrom_cons_add, h.draw]
  maximal hlt := by
    rw [Nat.add_assoc, unitDraw_cons_add]
    rw [unitsOf_cons] at hlt
    exact h.maximal (by omega)
  units hle := by
    rw [unitsOf_cons] at *
    have := h.units (by omega)
    omega

/-- Where the account ends within the first run, it covers `acc / d` units. -/
theorem cons_within (hd : d ≠ 0) (hk : k = acc / d) (hlt : skip + k < n) :
    LargestPrefix ((n, d) :: r) skip acc k (k * d) where
  covered := hk ▸ Nat.div_mul_le_self acc d
  draw := (drawFrom_cons_within (by omega)).symm
  maximal _ := by
    have hdraw : unitDraw ((n, d) :: r) (skip + k) = d := if_pos hlt
    rw [hdraw, hk, ← Nat.succ_mul]
    exact (Nat.div_lt_iff_lt_mul (Nat.pos_of_ne_zero hd)).mp (Nat.lt_succ_self _)
  units _ := by rw [unitsOf_cons]; omega

/-- Where the account covers the rest of the first run, what is left of it goes to the others. -/
theorem cons_whole (hskip : skip ≤ n) (hcov : (n - skip) * d ≤ acc)
    (h : LargestPrefix r 0 (acc - (n - skip) * d) k sum) :
    LargestPrefix ((n, d) :: r) skip acc (n - skip + k) ((n - skip) * d + sum) where
  covered := by have := h.covered; omega
  draw := by rw [drawFrom_cons_past hskip, h.draw]
  maximal hlt := by
    rw [← Nat.add_assoc, Nat.add_sub_cancel' hskip] at *
    rw [unitDraw_cons_add]
    rw [unitsOf_cons] at hlt
    have := h.maximal (by omega)
    rw [Nat.zero_add] at this
    omega
  units _ := by
    have := h.units (Nat.zero_le _)
    rw [unitsOf_cons]
    omega

end LargestPrefix

theorem takeUnits_largestPrefix (runs : List (Nat × Nat)) (skip acc : Nat) :
    LargestPrefix runs skip acc (takeUnits runs skip acc).1 (takeUnits runs skip acc).2 := by
  fun_induction takeUnits runs skip acc with
  | case1 => exact .nil
  | case2 n d r skip acc hskip ih =>
    obtain ⟨j, rfl⟩ := Nat.exists_eq_add_of_le hskip
    rw [Nat.add_sub_cancel_left] at ih ⊢
    exact ih.cons_past
  | case3 n d r skip acc hskip m k hlt =>
    have hd : d ≠ 0 := by rintro rfl; simp [k] at hlt
    have hk : k = min m (acc / d) := if_neg hd
    exact .cons_within hd (by omega) (by omega)
  | case4 n d r skip acc hskip m k hge p ih =>
    have hk : k = n - skip ∧ (n - skip) * d ≤ acc := by
      by_cases hd : d = 0
      · exact ⟨if_pos hd, by simp [hd]⟩
      · have hmin : k = min m (acc / d) := if_neg hd
        exact ⟨by omega, (Nat.le_div_iff_mul_le (Nat.pos_of_ne_zero hd)).mp (by omega)⟩
    obtain ⟨hk, hcov⟩ := hk
    simp only [p, hk] at ih ⊢
    exact ih.cons_whole (by omega) hcov

/-! ### Grants (R108) -/

theorem grantCmd_of_none (hlt : c.done < c.units) (htake : takeUnits c.runs c.done t.account = (0, sum)) :
    s.grantCmd t c = s.refuse t c := by
  simp [State.grantCmd, hlt.ne, htake]

theorem grantCmd_short (htake : takeUnits c.runs c.done t.account = (k, sum)) (hk : 0 < k) (hlt : c.done + k < c.units) :
    s.grantCmd t c = ((s.debit t sum).1.putTask { (s.debit t sum).2.applyGrant c k with
      gate := .short, cmd := some { c with done := c.done + k } }, []) := by
  have hne : c.done ≠ c.units := by omega
  simp [State.grantCmd, hne, htake, hk.ne', hlt]

theorem grantCmd_running (htake : takeUnits c.runs c.done t.account = (k, sum)) (hk : 0 < k) (hall : c.done + k = c.units) :
    s.grantCmd t c = ((s.debit t sum).1.putTask { (s.debit t sum).2.applyGrant c k with gate := .running, cmd := none }, []) := by
  have hne : c.done ≠ c.units := by omega
  simp [State.grantCmd, hne, htake, hk.ne', hall]

/-- Without a channel for its notice a debit is the fall of the account (R115). -/
theorem debit_of_no_notice (h : t.crec.notice = false) :
    s.debit t n = (s, { t with account := t.account - n, hangCount := 0 }) := by
  simp [State.debit, h]

theorem grantOn_of_load (h : c.kind = .cfgLoad ∨ c.kind = .image) : s.grantOn t c = s.loadGo t := by
  obtain h | h := h <;> simp [State.grantOn, h]

theorem grantOn_of_units (hcfg : c.kind ≠ .cfgLoad) (himage : c.kind ≠ .image) :
    s.grantOn t c = (((s.grantCmd t c).1.settleTl2 t.handle).1,
      (s.grantCmd t c).2 ++ ((s.grantCmd t c).1.settleTl2 t.handle).2) := by
  unfold State.grantOn
  split
  next h => exact absurd h hcfg
  next h => exact absurd h himage
  next => rfl

/-! ### The gate's own steps (R108, R111) -/

theorem execPrefixEnd_of_done (ht : s.task? t.handle = some t) (hgate : t.gate = .short) (hcmd : t.cmd = some c)
    (hdone : t.prefixDone c = true) : execPrefixEnd t.handle s = .next (finish (s.grantOn t c)) := by
  rw [execPrefixEnd, State.onTask_some ht]
  simp [hgate, hcmd, hdone]

theorem execHoldTimerExpiry_of_spent (ht : s.task? t.handle = some t) (hgate : t.gate = .hold) (hcmd : t.cmd = some c)
    (hleft : t.holdLeft = 0) : execHoldTimerExpiry t.handle s =
      .next (finish (if s.workDone t = true then s.shortfall t c else (s, []))) := by
  rw [execHoldTimerExpiry, State.onTask_some ht]
  simp [hgate, hcmd, hleft]

theorem workDone_of_idle (h : t.idle = true) : s.workDone t = true := by
  simp [State.workDone, h]

/-! ### The record of a shortfall (R113) -/

theorem subcode_eq_subcodeOf (kind : CmdKind) : kind.subcode = subcodeOf kind := by
  cases kind <;> rfl

/-- What the record of a shortfall names as its address (R113). -/
def refusedAddr (c : Cmd) : Nat := match c.kind with | .walkerArm n => n | .image => 0 | _ => c.addr.toNat

theorem shortfall_eq_retire (s : State) (t : Task) (c : Cmd) : s.shortfall t c =
    s.retire { t with gate := .stopped } .shortfall .shortfall
      ((if c.issued = true then 0 else c.issue) + drawFrom c.runs c.done (Claims.unitsOf c.runs - c.done))
      c.done (subcodeOf c.kind) (refusedAddr c) := by
  rw [← restDraw_eq_drawFrom, ← subcode_eq_subcodeOf]
  rfl

/-! ### A scalar instruction that the account does not cover (R108) -/

/-- A scalar instruction issues as `issueScalar` has it, whatever it computes. -/
theorem exec_scalar {i : Instr} {x : Reg} {len : Nat} {f : (Reg → Word) → Word} (h : scalar i = some (x, len, f)) :
    ∃ g, exec i s = issueScalar i len x g s := by
  unfold scalar at h
  split at h
  all_goals cases h
  all_goals
    rw [exec]
    exact ⟨_, rfl⟩

theorem issueScalar_refused {i : Instr} {x : Reg} {len : Nat} {g : (Reg → Word) → Word} (h : OnThread s t 0)
    (haccount : t.account = 0) : issueScalar i len x g s = .next (finish (s.refuse t (refusedInstr t i))) := by
  obtain ⟨hcur, ht, hready, hgate, hfree, hwait, hpaid, -⟩ := h
  simp [issueScalar, issueBoth, hcur, State.issueThread, ht, hready, hgate, hfree, hwait, hpaid, noTrap, haccount, refusedInstr]

end Sys2Proof.Laws.Gate

namespace Sys2Proof.Proofs

open Sys2Proof Sys2Proof.Machine Sys2Proof.Claims Sys2Proof.Laws.Gate

/-- Settles O37, a part at a time: how many units are covered, one grant, one debit, the end of the granted units, the end of a hold,
and the record of a shortfall. -/
theorem prefixGrants : Obligations.PrefixGrants := by
  refine ⟨?largest, ?grant, ?debit, ?prefixEnd, ?holdEnd, ?idle, ?shortfall⟩
  case largest =>
    intro runs skip acc k sum htake
    obtain ⟨hcovered, hdraw, hmaximal, hunits⟩ := takeUnits_largestPrefix runs skip acc
    rw [htake] at hcovered hdraw hmaximal hunits
    exact ⟨hcovered, hdraw, hmaximal, hunits⟩
  case grant =>
    intro u t c k sum hlt htake
    refine ⟨?enters, ?stays, ?ends, ?short, ?running⟩
    case enters =>
      rintro rfl hgate hopen
      rw [grantCmd_of_none hlt htake]
      exact refuse_enters_hold hgate hopen
    case stays =>
      rintro rfl hgate hopen
      rw [grantCmd_of_none hlt htake]
      exact refuse_stays_in_hold hgate hopen
    case ends =>
      rintro rfl hgate hfield hidle
      rw [grantCmd_of_none hlt htake]
      exact refuse_ends_task hgate hfield hidle
    case short => exact fun hk hshort => grantCmd_short htake hk hshort
    case running => exact fun hk hall => grantCmd_running htake hk hall
  case debit => exact fun u t n => ⟨State.debit_snd_account u t n, debit_of_no_notice⟩
  case prefixEnd =>
    intro s t c ht hgate hcmd hdone
    have hexec : exec (.prefixEnd t.handle) s = .next (finish (s.grantOn t c)) := execPrefixEnd_of_done ht hgate hcmd hdone
    refine ⟨fun hcfg himage => ?_, fun hload => ?_⟩
    · rw [hexec, grantOn_of_units hcfg himage]
    · rw [hexec, grantOn_of_load hload]
  case holdEnd =>
    intro s t c ht hgate hcmd hleft
    have hexec := execHoldTimerExpiry_of_spent ht hgate hcmd hleft
    refine ⟨fun hdone => ?_, fun hdone => ?_⟩
    · rw [exec, hexec, if_pos hdone]
    · rw [exec, hexec, if_neg (by simp [hdone]), finish_nil]
  case idle => exact fun s t => workDone_of_idle
  case shortfall => exact shortfall_eq_retire

/-- Settles O22: issue refuses the instruction, and the refusal enters HOLD or ends the task. -/
theorem refusedDraw : Obligations.RefusedDraw := by
  intro i d len f s t hscalar hthread haccount
  obtain ⟨g, hexec⟩ := exec_scalar (s := s) hscalar
  obtain ⟨-, -, -, hgate, -⟩ := id hthread
  have hgate : t.gate ≠ .hold := by simp [hgate]
  rw [hexec, issueScalar_refused hthread haccount]
  refine ⟨fun hopen => ?_, fun hfield hidle => ?_⟩
  · rw [refuse_enters_hold hgate hopen, finish_nil]
    rfl
  · rw [refuse_ends_task hgate hfield hidle]
    rfl

end Sys2Proof.Proofs
end

section
/-! SUPPORT. Instructions that complete on the task alone and the records that a task spawns (R94–R96, R120, R212, R341), and O18, O19
and O25. -/
namespace Sys2Proof.Laws.TaskInstr

open Sys2Proof Sys2Proof.Machine Sys2Proof.Claims

/-! ### Instructions that complete on the task alone -/

/-- A task-only instruction that completes at once draws 1 grain, changes the task, and moves on. -/
theorem issueSimple_thread {s : State} {t : Task} (h : OnThread s t 1) (i : Instr) (f : Task → Task) :
    issueSimple i f s = .next ((charged s t 1).putTask ((f (drawn s t 1)).advance 4)) := by
  rw [issueSimple, issueTask_thread h rfl, finish_nil]

/-- A write to x0 is discarded (R25). -/
@[simp] theorem setX_zero (t : Task) (v : Word) : t.setX 0 v = t := rfl

/-- The value of a timeline that there is, and 0 for any other number. -/
theorem ofNat_timeline (t : Task) (n : Nat) : BitVec.ofNat 64 (t.timeline n) = if h : n < 8 then t.tl[n] else 0 := by
  unfold Task.timeline
  split
  next h => simp [List.getD, h]
  next h => simp [List.getD, h]

/-- A status read issues as `issueSimple` has it, with the value that it names. -/
theorem exec_taskRead {i : Instr} {d : Reg} {f : Task → Word} (h : taskRead i = some (d, f)) (s : State) :
    exec i s = issueSimple i (fun t => t.setX d (f t)) s := by
  unfold taskRead at h
  split at h
  case h_4 =>
    cases h
    simp only [exec, execTlRead, ofNat_timeline]
  case h_5 => cases h
  all_goals
    cases h
    rw [exec]
    rfl

theorem exec_taskRead_thread {i : Instr} {d : Reg} {f : Task → Word} {s : State} {t : Task} (hi : taskRead i = some (d, f))
    (h : OnThread s t 1) :
    exec i s = .next ((charged s t 1).putTask (((drawn s t 1).setX d (f (drawn s t 1))).advance 4)) := by
  rw [exec_taskRead hi, issueSimple_thread h]

/-- `yield` changes no register (R341). -/
theorem exec_yield_thread {s : State} {t : Task} (h : OnThread s t 1) :
    exec .yield s = .next ((charged s t 1).putTask ((drawn s t 1).advance 4)) := by
  rw [exec, execYield, issueSimple_thread h, id]

/-! ### Spawned records (R94, R95, R130) -/

theorem track_crec {t u : Task} {k line : Nat} (h : t.track k line = some u) : u.crec = t.crec := by
  unfold Task.track at h
  split at h
  · cases h; rfl
  · split at h
    · cases h
    · cases h; rfl

theorem trackAll_crec {t u : Task} {k : Nat} {l : List (Nat × TlbEntry)} (h : t.trackAll k l = some u) : u.crec = t.crec := by
  induction l generalizing t with
  | nil => cases h; rfl
  | cons p r ih =>
    unfold Task.trackAll at h
    split at h
    · split at h
      · cases h
      next v hv => exact (ih h).trans (track_crec hv)
    · exact ih h

/-- A read of the task's view changes its read set, not its record. -/
theorem viewRead_crec {s u : State} {t t' : Task} {k va n : Nat} {l : List Byte} (h : s.viewRead t k va n = (u, .ok (t', l))) :
    t'.crec = t.crec := by
  unfold State.viewRead at h
  split at h
  · cases h
  · split at h
    · cases h
    next v hv =>
      cases h
      exact trackAll_crec hv

/-- A task that may name the context of a record meets no trap there. -/
theorem contextErr_of_mayName {s : State} {own ctx : Nat} (h : MayName s own ctx) :
    (if ctx = own then none else s.systemErr own) = none := by
  obtain h | ⟨hdown, hsys⟩ := h
  · exact if_pos h
  · simp [State.systemErr, hdown, hsys]

/-- What a spawn holds where its checks pass: the record read, with the join address in the place of its own, and the increment
of the join cell (R94, R95). -/
theorem spawnBody_of_read {s u : State} {t t' t1 : Task} {l : List Byte} (i : Instr) {a : Word} {j : Option Word}
    (halign : a.toNat % 64 = 0) (hjoin : ∀ v, j = some v → v.toNat % 4 = 0 ∧ (v ≠ 0 → t.crec.rohint = false))
    (hread : s.viewRead t 0 a.toNat 64 = (u, .ok (t', l))) (hname : MayName u t.crec.ctx (Record.ofBytes l).ctx)
    (hgrow : u.growShare t' 0 64 = .ok t1) :
    State.spawnBody i a j s t = (u.putTask ((spaceFound { t1 with
      spawns := t1.spawns ++ [(j.map fun v => { Record.ofBytes l with dw2 := v }).getD (Record.ofBytes l)]
      joinIncs := t1.joinIncs ++ j.toList.filter (· ≠ 0) }).advance 4), []) := by
  have haddr : wbits a 5 0 = 0 := by simpa [wbits, bitsOf] using halign
  have hctx := contextErr_of_mayName hname
  rw [← viewRead_crec hread] at hctx
  cases j with
  | none =>
    simp only [State.spawnBody, haddr, hread, hctx, hgrow, Option.getD_none]
    rfl
  | some v =>
    obtain ⟨hv, hro⟩ := hjoin v rfl
    by_cases hzero : v = 0
    · subst hzero
      simp [State.spawnBody, haddr, hread, hctx, hgrow, spaceFound, Task.gotSpace]
    · have hne : v.toNat ≠ 0 := fun h => hzero (BitVec.eq_of_toNat_eq h)
      have hkeep : [v].filter (· ≠ 0) = [v] := List.filter_cons_of_pos (decide_eq_true hzero)
      simp only [State.spawnBody, haddr, hread, hctx, hgrow, Option.getD_some, Option.toList_some, hv, hro hzero, hkeep, bne_iff_ne.mpr hne]
      rfl

end Sys2Proof.Laws.TaskInstr

namespace Sys2Proof.Proofs

open Sys2Proof Sys2Proof.Machine Sys2Proof.Claims Sys2Proof.Laws.TaskInstr

/-- Settles O18: the two words are those of the encoder, and both instructions are status reads. -/
theorem taskHandleAndTimestamp : Obligations.TaskHandleAndTimestamp := by
  refine ⟨fun d => ⟨rfl, rfl⟩, fun d s t h => ⟨?self, ?ts⟩, setX_zero⟩
  case self => rw [exec_taskRead_thread (i := .tskSelf d) rfl h, drawn_handle]
  case ts => rw [exec_taskRead_thread (i := .tskTs d) rfl h, drawn_crec]

/-- Settles O19, by `exec_taskRead_thread` and `exec_yield_thread`. -/
theorem taskReads : Obligations.TaskReads :=
  ⟨fun _ _ _ _ _ hi h => exec_taskRead_thread hi h, fun _ _ h => exec_yield_thread h⟩

/-- Settles O25: both instructions run `spawnBody`, `spawn` without a join address. -/
theorem spawns : Obligations.Spawns := by
  intro i a j s t u t' l t1 hthread hi halign hjoin hread hname hgrow
  rw [← drawn_crec s t 1] at hjoin hname
  have hbody := fun i => spawnBody_of_read i halign hjoin hread hname hgrow
  obtain ⟨rfl, rfl⟩ | ⟨b, rfl, rfl⟩ := hi
  · rw [exec, execSpawn, issueTask_thread hthread rfl, drawn_x, hbody, finish_nil]
  · rw [exec, execSpawnj, issueTask_thread hthread rfl, drawn_x, hbody, finish_nil]

end Sys2Proof.Proofs
end

section
/-! SUPPORT. Waiting records, stalls and steal requests (R90, R93, R103, R126), and O41. -/
namespace Sys2Proof.Laws.Waiting

open Sys2Proof Sys2Proof.Machine Sys2Proof.Claims

/-! ### Aging and stalls (R90, R103, R126) -/

/-- A record of the number named ages as R90 says, every other one stays. -/
theorem agedAt_eq (q : QRec) (id now : Nat) :
    (if q.id == id then q.agedAt now else q) =
      if q.id = id ∧ q.level < 43 ∧ q.since + 10000 * (q.gained + 1) ≤ now then { q with gained := q.gained + 1 } else q := by
  by_cases hid : q.id = id <;> simp [QRec.agedAt, hid]

/-- The records that begin to stop others: those that stand unfunded for 1 ms at the head of their level, and do not stop others yet. -/
def newFundStops (s : State) (d : Nat) (x : Die) : List Nat :=
  ((x.heads.filter fun c => s.wantsFunds d c.q && s.now ≥ c.q.fundSince + 1000).map fun c => c.q.id).filter
    fun i => !x.fundStops.contains i

theorem mem_newFundStops {s : State} {d : Nat} {x : Die} {i : Nat} : i ∈ newFundStops s d x ↔
    i ∉ x.fundStops ∧ ∃ c ∈ x.heads, c.q.id = i ∧ s.wantsFunds d c.q = true ∧ c.q.fundSince + 1000 ≤ s.now := by
  simp only [newFundStops, List.mem_filter, List.mem_map, Bool.not_eq_true', List.contains_eq_mem, decide_eq_false_iff_not,
    Bool.and_eq_true, decide_eq_true_eq]
  constructor
  · rintro ⟨⟨c, ⟨hc, hfunds, hsince⟩, hid⟩, hnew⟩
    exact ⟨hnew, c, hc, hid, hfunds, hsince⟩
  · rintro ⟨hnew, c, hc, hid, hfunds, hsince⟩
    exact ⟨⟨c, ⟨hc, hfunds, hsince⟩, hid⟩, hnew⟩

theorem execFundingStall_eq {s : State} {d : Nat} {x : Die} (h : s.die? d = some x) :
    execFundingStall d s = .next (s.updDie d fun x' => { x' with fundStops := x'.fundStops ++ newFundStops s d x }) := by
  rw [execFundingStall, State.onDie_some h, finish_nil, newFundStops]

theorem execPlacementStall_of_stalled {s : State} {d : Nat} {x : Die} {c : Cand} (h : s.die? d = some x)
    (hfirst : x.order.head? = some c) (hroom : s.wantsRoom d c = true) (hsince : c.q.fitSince + 1000 ≤ s.now)
    (hnew : c.q.id ∉ x.placeStops) :
    execPlacementStall d s = .next (s.updDie d fun x => { x with placeStops := x.placeStops ++ [c.q.id] }) := by
  rw [execPlacementStall, State.onDie_some h]
  simp [hfirst, hroom, hsince, hnew]

/-! ### Steal requests (R93) -/

theorem find?_of_firstWith {α : Type} {p : α → Prop} {f : α → Bool} {l : List α} {a : α} (h : FirstWith p l a)
    (hf : ∀ b, f b = true ↔ p b) : l.find? f = some a := by
  obtain ⟨l₁, l₂, rfl, ha, hbefore⟩ := h
  refine List.find?_eq_some_iff_append.mpr ⟨(hf a).mpr ha, l₁, l₂, rfl, fun b hb => ?_⟩
  simpa using mt (hf b).mp (hbefore b hb)

theorem execStealRequest_of_room {s : State} {d k v : Nat} {x : Die} (h : s.die? d = some x) (hserving : s.serving = true)
    (hhas : x.has k = true) (hslot : s.freeTaskSlot d k ≠ none) (hasking : x.asking k = false) (hwork : s.hasWork d k = false)
    (hfirst : FirstWith (fun v => (assocD x.mail v []).length < 4) (victims x k) v) :
    execStealRequest d k s = .next (s.updDie d fun x =>
      { x with mail := assocSet x.mail v (assocD x.mail v [] ++ [(k, s.now)]),
               lastVictim := assocSet x.lastVictim k v }) := by
  have hvictims : victims x k = (x.ringAfter (assocD x.lastVictim k k)).filter (· != k) :=
    List.filter_congr fun _ _ => by simp [bne, beq_eq_decide]
  have hfind := find?_of_firstWith (f := fun v => decide ((assocD x.mail v []).length < 4)) hfirst fun _ => decide_eq_true_iff
  rw [hvictims] at hfind
  have hslot : (s.freeTaskSlot d k).isNone = false := by simpa [Option.isNone_eq_false_iff, Option.isSome_iff_ne_none] using hslot
  rw [execStealRequest, State.onDie_some h]
  simp [hserving, hhas, hslot, hasking, hwork, hfind]

/-- A request stays unless it is the cluster's own and has stood for 64 µs. -/
theorem stays_eq (r : Nat × Nat) (k now : Nat) :
    (!(r.1 == k && now ≥ r.2 + 64)) = decide (¬ (r.1 = k ∧ r.2 + 64 ≤ now)) := by
  rw [beq_eq_decide, ← Bool.decide_and, ← decide_not]

end Sys2Proof.Laws.Waiting

namespace Sys2Proof.Proofs

open Sys2Proof Sys2Proof.Machine Sys2Proof.Claims Sys2Proof.Laws.Waiting

/-- Settles O41, a step at a time: aging, the stall of a funding, the stall of a placement, a steal request, its withdrawal. -/
theorem waitingSteps : Obligations.WaitingSteps := by
  refine ⟨?aging, ?funding, ?placement, ?request, ?withdraw⟩
  case aging =>
    intro s id
    simp only [exec, execRecordAging, agedAt_eq]
  case funding =>
    intro s d x hx
    exact ⟨newFundStops s d x, by rw [exec, execFundingStall_eq hx], fun i => mem_newFundStops⟩
  case placement =>
    intro s d x c hx hfirst hroom hsince hnew
    rw [exec, execPlacementStall_of_stalled hx hfirst hroom hsince hnew]
  case request =>
    intro s d x k v hx hstage hsusp hhas hslot hasking hwork hfirst
    have hserving : s.serving = true := by simp [State.serving, hstage, hsusp]
    rw [exec, execStealRequest_of_room hx hserving hhas hslot hasking hwork hfirst]
  case withdraw =>
    intro s d x k hx
    simp only [exec, execStealWithdraw, State.onDie_some hx, finish_nil, stays_eq]

end Sys2Proof.Proofs
end

section
/-! SUPPORT. Reads through a full RDC take a free value (R8, R201; log entry 60), and O38, which says that the reads of the device take
none. -/
namespace Sys2Proof.Laws.FullRdc

open Sys2Proof Sys2Proof.Machine Sys2Proof.Claims

/-- A line that enters a full RDC uses up a free value, which names the line that leaves (log entry 60). -/
theorem rdcFill_fresh_of_full {s : State} {d line : Nat} (h : Config.rdcLines ≤ (s.rdc.filter fun r => r.1 == d).length) :
    (s.rdcFill d line).fresh = s.fresh + 1 := by
  rw [State.rdcFill, if_neg (Nat.not_lt.mpr h)]

/-- A read of a line that is homed on another die and has no copy, where nothing waits and the RDC is full, uses up a free value. -/
theorem touch_fresh_of_full {s : State} {d pa cls e c k : Nat} (hhome : s.homeSlice pa = some (e, c, k)) (hfar : e ≠ d)
    (hcopy : (s.rdc.any fun r => r.1 == d && r.2.1 == lineOf pa) = false)
    (hwaits : (s.moving.any (fun m => m.1 == pa / 65536) || (s.slice e c k).waits cls) = false)
    (hfull : Config.rdcLines ≤ (s.rdc.filter fun r => r.1 == d).length) :
    (s.touch d pa cls).fresh = s.fresh + 1 := by
  simp only [State.touch, hhome, hcopy, hwaits, Bool.and_false, Bool.false_eq_true, if_false, if_pos hfar]
  exact rdcFill_fresh_of_full hfull

/-- The first line of the memory of die 1. -/
def farLine : Nat := 0x30000000

/-- The RDC of die 0 holds as many lines as it can, all of them lines of die 1. -/
def fullRdc : List (Nat × Nat × Nat) := (List.range Config.rdcLines).map fun i => (0, farLine + 1 + i, 0)

theorem fullRdc_full : Config.rdcLines ≤ (fullRdc.filter fun r => r.1 == 0).length := by
  rw [List.filter_eq_self.mpr]
  · simp [fullRdc]
  · simp [fullRdc]

theorem farLine_not_in_fullRdc : (fullRdc.any fun r => r.1 == 0 && r.2.1 == farLine) = false := by
  simp only [fullRdc, List.any_map, List.any_eq_false]
  intro i _
  simp
  omega

/-- The package after power-good, but with lines in its RDCs. -/
def caching (l : List (Nat × Nat × Nat)) : State := { State.reset with rdc := l }

theorem caching_homeSlice (l : List (Nat × Nat × Nat)) : (caching l).homeSlice (128 * farLine) = some (1, 96, 0) := by
  have hreset : State.reset.homeSlice (128 * farLine) = some (1, 96, 0) := by decide +kernel
  exact hreset

/-- Die 0 reads the first line of die 1, which enters a full RDC. -/
theorem caching_touchLines_fresh {l : List (Nat × Nat × Nat)} (hfull : Config.rdcLines ≤ (l.filter fun r => r.1 == 0).length)
    (hcopy : (l.any fun r => r.1 == 0 && r.2.1 == farLine) = false) :
    ((caching l).touchLines 0 0 [128 * farLine]).fresh = (caching l).fresh + 1 := by
  have hline : lineOf (128 * farLine) = farLine := by decide
  have hlines : ([128 * farLine].map lineOf).eraseDups = [farLine] := by decide
  rw [State.touchLines, hlines, List.foldl_cons, List.foldl_nil]
  exact touch_fresh_of_full (caching_homeSlice l) (by decide) (by rw [hline]; exact hcopy) rfl hfull

/-- What changes the slices, the RDCs and the waiting accesses alone leaves the counter of free values. -/
theorem fresh_of_caches_only {s v u : State}
    (h : v = { s with slices := u.slices, rdc := u.rdc, cacheWaits := u.cacheWaits }) : v.fresh = s.fresh := by
  rw [h]

end Sys2Proof.Laws.FullRdc

namespace Sys2Proof.Proofs

open Sys2Proof Sys2Proof.Machine Sys2Proof.Claims Sys2Proof.Laws.FullRdc

/-- Refutes O38 in its clause on the device's reads: where the RDC of die 0 is full, a read of a line of die 1 changes the counter of
free values too (log entry 60), and not the slices, the RDCs and the waiting accesses alone. -/
theorem not_queueSteps : ¬ Obligations.QueueSteps := by
  rintro ⟨-, hreads, -⟩
  obtain ⟨u, hu⟩ := hreads (caching fullRdc) 0 [128 * farLine]
  have hfresh := fresh_of_caches_only hu
  rw [caching_touchLines_fresh fullRdc_full farLine_not_in_fullRdc] at hfresh
  exact Nat.succ_ne_self _ hfresh

end Sys2Proof.Proofs
end

section
/-! SUPPORT. A retirement leaves no resident task under the handle that retires: what lands of a report changes the tasks no more (R112,
R337, R338). Each lemma says of one operation that it leaves the resident tasks. -/
namespace Sys2Proof.Laws.Retiring

open Sys2Proof Sys2Proof.Machine

variable {s : State}

/-! ### Bytes that land -/

theorem foldl_tasks {α : Type} {f : State → α → State} {l : List α} (h : ∀ s x, (f s x).tasks = s.tasks) :
    (l.foldl f s).tasks = s.tasks := by
  induction l generalizing s with
  | nil => rfl
  | cons x r ih => exact ih.trans (h s x)

theorem setByte_tasks (a : Nat) (b : Byte) : (s.setByte a b).tasks = s.tasks := by
  unfold State.setByte
  split <;> rfl

theorem setBytes_tasks (l : List (Nat × Byte)) : (s.setBytes l).tasks = s.tasks :=
  foldl_tasks fun _ p => setByte_tasks p.1 p.2

theorem sweepPass_tasks (l : List Nat) : (s.sweepPass l).tasks = s.tasks := by
  unfold State.sweepPass
  split <;> rfl

theorem land_tasks (l : List (Nat × Byte)) : (s.land l).tasks = s.tasks :=
  (sweepPass_tasks _).trans (setBytes_tasks l)

theorem touch_tasks (d a c : Nat) : (s.touch d a c).tasks = s.tasks := by
  obtain ⟨f, r, w, sl, h⟩ := s.touch_frame d a c
  rw [h]

theorem touchHome_tasks (a c : Nat) : (s.touchHome a c).tasks = s.tasks := by
  unfold State.touchHome
  split
  · exact touch_tasks _ _ _
  · rfl

theorem publish_tasks (c : Nat) (out : List Nat) (l : List (Nat × Byte)) : (s.publish c out l).tasks = s.tasks :=
  (foldl_tasks fun _ _ => touchHome_tasks _ c).trans (land_tasks l)

/-! ### Translation -/

theorem tableEntry_tasks (d a i : Nat) : (s.tableEntry d a i).1.tasks = s.tasks := by
  unfold State.tableEntry
  grind only [touch_tasks]

theorem walkLast_tasks (d ctx va a : Nat) : (s.walkLast d ctx va a).1.tasks = s.tasks := by
  unfold State.walkLast
  grind only [tableEntry_tasks]

theorem walkFrom_tasks (d ctx va a : Nat) (l : List (Nat × Nat × Nat × Nat)) :
    (s.walkFrom d ctx va a l).1.tasks = s.tasks := by
  fun_induction State.walkFrom s d ctx va a l <;> grind only [tableEntry_tasks, walkLast_tasks]

theorem ctxRead_tasks (d ctx : Nat) : (s.ctxRead d ctx).tasks = s.tasks := by
  unfold State.ctxRead
  split
  · exact touch_tasks _ _ _
  · rfl

theorem walk_tasks (d ctx va : Nat) : (s.walk d ctx va).1.tasks = s.tasks := by
  unfold State.walk
  grind only [ctxRead_tasks, walkFrom_tasks]

theorem translate_tasks (d ctx va : Nat) : (s.translate d ctx va).1.tasks = s.tasks := by
  unfold State.translate
  grind only [walk_tasks]

theorem access_tasks (d ctx va : Nat) (k : AccKind) : (s.access d ctx va k).1.tasks = s.tasks := by
  unfold State.access
  grind only [translate_tasks]

/-! ### Reports and join cells (R94, R338) -/

theorem log_tasks (d code : Nat) : (s.log d code).tasks = s.tasks := rfl

theorem reportBytes_tasks (d : Nat) (r : Record) (p : Report) : (s.reportBytes d r p).1.tasks = s.tasks := by
  unfold State.reportBytes
  grind only [access_tasks, log_tasks]

theorem readHome_tasks (e : TlbEntry) (pa : Nat) : (s.readHome e pa).tasks = s.tasks := by
  unfold State.readHome
  split
  · rfl
  · exact touchHome_tasks _ _

theorem joinChange_tasks (d cls ctx j : Nat) (up : Bool) : (s.joinChange d cls ctx j up).1.tasks = s.tasks := by
  unfold State.joinChange
  grind only [access_tasks, log_tasks, publish_tasks, readHome_tasks]

theorem stamp_tasks (lines : List Nat) (who : Option Nat) : (s.stamp lines who).tasks = s.tasks := rfl

theorem newQRec_tasks (r : Record) : (s.newQRec r).1.tasks = s.tasks := rfl

theorem pushDeque_tasks (d k : Nat) (q : QRec) : (s.pushDeque d k q).tasks = s.tasks := rfl

theorem enqueue_tasks (d : Nat) (q : QRec) : (s.enqueue d q).tasks = s.tasks := rfl

theorem deliver_tasks (d k : Nat) (r : Record) : (s.deliver d k r).tasks = s.tasks := by
  unfold State.deliver
  grind only [newQRec_tasks, pushDeque_tasks, State.updDie_tasks]

theorem landReport_tasks (d : Nat) (k : Option Nat) (r : Record) (p : Report) (self : Word) :
    (s.landReport d k r p self).1.tasks = s.tasks := by
  unfold State.landReport
  grind only [reportBytes_tasks, publish_tasks, joinChange_tasks, stamp_tasks, deliver_tasks, newQRec_tasks, enqueue_tasks]

/-! ### The task that is gone -/

theorem task?_dropTask_self (h : Word) : (s.dropTask h).task? h = none := by
  simp [State.task?, State.dropTask]

/-- A task that retires is no longer resident (R112). -/
theorem task?_retire_self {t : Task} {e : Ending} {tr : Trap} {shortfall granted sub addr : Nat} :
    (s.retire t e tr shortfall granted sub addr).1.task? t.handle = none := by
  simp only [State.retire, State.task?, landReport_tasks]
  exact task?_dropTask_self _

end Sys2Proof.Laws.Retiring
end

section
/-! SUPPORT. What a thread does at a funding point (R107): the walker arms delivered are funded one at a time, and then it waits. -/
namespace Sys2Proof.Laws.Funding

open Sys2Proof Sys2Proof.Machine Sys2Proof.Claims Sys2Proof.Laws.Gate Sys2Proof.Laws.Retiring

variable {s S G : State} {t T : Task} {i : Instr} {a : WalkerArm} {h : Word} {n : Nat} {js : List Job}
  {f : State → Task → State × List Job}

/-! ### Putting a task back -/

/-- Of two tasks put back under one handle the later stands. -/
theorem putTask_putTask {u : Task} (h : u.handle = t.handle) : (s.putTask t).putTask u = s.putTask u := by
  simp only [State.putTask, List.map_map]
  congr 1
  refine List.map_congr_left fun x _ => ?_
  by_cases hx : x.handle = t.handle <;> simp [h, hx]

/-- Blocking a task in the instruction that it is blocked in changes nothing. -/
theorem block_of_blocked (hwait : t.wait = some i) (hpaid : t.paid = true) : t.block i = t := by
  rw [Task.block, ← hwait, ← hpaid]

@[simp] theorem block_block : (t.block i).block i = t.block i := rfl

/-- Task `T` is resident, runs, and is blocked in `i`; the package holds it as it is. -/
structure BlockedIn (S : State) (T : Task) (i : Instr) : Prop where
  found : S.task? T.handle = some T
  running : T.gate = .running
  wait : T.wait = some i
  paid : T.paid = true
  put : S.putTask T = S

theorem blockedIn_putTask {u : Task} (hfound : s.task? t.handle = some u) (hrun : t.gate = .running) :
    BlockedIn (s.putTask (t.block i)) (t.block i) i where
  found := State.task?_putTask_self (t := t.block i) hfound
  running := hrun
  wait := rfl
  paid := rfl
  put := putTask_putTask rfl

/-! ### What follows the funding -/

/-- What a wait at a funding point does once the arms are funded: no more where the task is gone or its gate is not RUNNING. -/
def afterFunding (p : State × List Job) (h : Word) (f : State → Task → State × List Job) : State × List Job :=
  match p.1.task? h with
  | none => p
  | some t => if t.gate != .running then p else ((f p.1 t).1, p.2 ++ (f p.1 t).2)

theorem funded_eq (s : State) (t : Task) (i : Instr) (f : State → Task → State × List Job) : s.funded t i f =
    afterFunding ((s.putTask (t.block i)).fundArms (t.block i).handle ((t.block i).arms.length + 1)) (t.block i).handle f := rfl

theorem afterFunding_of_gone (hgone : G.task? h = none) : afterFunding (G, js) h f = (G, js) := by
  simp [afterFunding, hgone]

theorem afterFunding_of_not_running (hfound : G.task? h = some T) (hgate : T.gate ≠ .running) :
    afterFunding (G, js) h f = (G, js) := by
  simp [afterFunding, hfound, hgate]

theorem afterFunding_of_running (hfound : G.task? h = some T) (hgate : T.gate = .running) :
    afterFunding (G, []) h f = f G T := by
  simp [afterFunding, hfound, hgate]

/-! ### Which arm is funded -/

/-- The arm that is funded next of those with no operation yet, as the model picks it. -/
def lowerArm (b : Option WalkerArm) (a : WalkerArm) : Option WalkerArm :=
  match b with
  | none => some a
  | some x => if a.node < x.node then some a else some x

theorem foldl_lowerArm_stays {l : List WalkerArm} (h : ∀ b ∈ l, a.node ≤ b.node) : l.foldl lowerArm (some a) = some a := by
  induction l with
  | nil => rfl
  | cons b r ih =>
    have hb : ¬ b.node < a.node := by have := h b List.mem_cons_self; omega
    rw [List.foldl_cons, lowerArm, if_neg hb]
    exact ih fun c hc => h c (List.mem_cons_of_mem _ hc)

theorem foldl_lowerArm_reaches {l : List WalkerArm} {b : Option WalkerArm} (hb : ∀ x, b = some x → a.node < x.node)
    (hl : ∀ x ∈ l, a.node < x.node) : lowerArm (l.foldl lowerArm b) a = some a := by
  induction l generalizing b with
  | nil =>
    cases b with
    | none => rfl
    | some x => exact if_pos (hb x rfl)
  | cons c r ih =>
    refine ih (fun x hx => ?_) fun x hx => hl x (List.mem_cons_of_mem _ hx)
    have hc := hl c List.mem_cons_self
    cases b with
    | none => cases hx; exact hc
    | some y =>
      rw [lowerArm] at hx
      split at hx
      · cases hx; exact hc
      · cases hx; exact hb _ rfl

theorem foldl_lowerArm_or_mem {l : List WalkerArm} {b : Option WalkerArm} (h : l.foldl lowerArm b = some a) :
    b = some a ∨ a ∈ l := by
  induction l generalizing b with
  | nil => exact .inl h
  | cons c r ih =>
    obtain hc | hr := ih h
    · cases b with
      | none => cases hc; exact .inr List.mem_cons_self
      | some y =>
        rw [lowerArm] at hc
        split at hc
        · cases hc; exact .inr List.mem_cons_self
        · exact .inl hc
    · exact .inr (List.mem_cons_of_mem _ hr)

theorem foldl_lowerArm_mem {l : List WalkerArm} (h : l.foldl lowerArm none = some a) : a ∈ l :=
  (foldl_lowerArm_or_mem h).resolve_left (Option.some_ne_none a).symm

/-- The next arm of a task is the one that the model picks. -/
theorem foldl_lowerArm_of_next (hnext : NextArm S T a) : (T.arms.filter fun b => b.op.isNone).foldl lowerArm none = some a := by
  obtain ⟨⟨l₁, l₂, hl, ⟨hop, hmin⟩, hbefore⟩, -⟩ := hnext
  have hlt : ∀ x ∈ l₁.filter (fun b => b.op.isNone), a.node < x.node := by
    intro x hx
    obtain ⟨hx, hxop⟩ := List.mem_filter.mp hx
    have hxop : x.op = none := Option.isNone_iff_eq_none.mp hxop
    obtain ⟨c, hc, hcop, hcn⟩ : ∃ c ∈ T.arms, c.op = none ∧ c.node < x.node := by
      simpa [hxop] using hbefore x hx
    exact lt_of_le_of_lt (hmin c hc hcop) hcn
  have hle : ∀ x ∈ l₂.filter (fun b => b.op.isNone), a.node ≤ x.node := by
    intro x hx
    obtain ⟨hx, hxop⟩ := List.mem_filter.mp hx
    exact hmin x (by rw [hl]; simp [hx]) (Option.isNone_iff_eq_none.mp hxop)
  rw [hl, List.filter_append, List.filter_cons_of_pos (by simp [hop]), List.foldl_append, List.foldl_cons,
    foldl_lowerArm_reaches (by simp) hlt, foldl_lowerArm_stays hle]

/-! ### One arm -/

theorem fundArms_of_not_running (hfound : S.task? h = some T) (hgate : T.gate ≠ .running) : S.fundArms h n = (S, []) := by
  cases n with
  | zero => rfl
  | succ n => simp [State.fundArms, hfound, hgate]

/-- While a lower-numbered arm is still to be funded, or where none waits, no arm is funded. -/
theorem fundArms_of_none (hfound : S.task? h = some T)
    (harms : ∀ a ∈ T.arms, a.op = none → S.armBefore T a.inst a.node = true) : S.fundArms h n = (S, []) := by
  cases n with
  | zero => rfl
  | succ n =>
    simp only [State.fundArms, hfound]
    split
    · rfl
    · split
      next => rfl
      next x hx =>
        obtain ⟨hmem, hop⟩ := List.mem_filter.mp (foldl_lowerArm_mem hx)
        rw [if_pos (harms x hmem (Option.isNone_iff_eq_none.mp hop))]

/-- The next arm is funded: its operation is put on tl2 and granted, and then the arm after it is looked for. One of a section
without engines ends the task (R107). -/
theorem fundArms_of_next (hfound : S.task? h = some T) (hrun : T.gate = .running) (hnext : NextArm S T a) :
    S.fundArms h (n + 1) = match T.sectionEngines a.sec with
      | [] => S.retire { T with gate := .stopped } .faulted .illegalOp 0 0 0 a.node
      | e :: _ =>
        let p := State.grantCmd (numbered S 1) (withArm T a S.nextId) (armCmd a (e.fmt.getD 0) 0)
        ((p.1.fundArms h n).1, p.2 ++ (p.1.fundArms h n).2) := by
  have hpick := foldl_lowerArm_of_next hnext
  obtain ⟨-, hbefore⟩ := hnext
  have harm : ∀ x : WalkerArm, (if x.node = a.node then { x with op := some S.nextId } else x) =
      if x.node == a.node then { x with op := some S.nextId } else x := fun x => by simp
  simp only [State.fundArms, hfound, withArm, harm]
  rw [if_neg (by simp [hrun])]
  split
  next hx => exact absurd (hpick.symm.trans hx) (Option.some_ne_none a)
  next x hx =>
    obtain rfl : a = x := Option.some.inj (hpick.symm.trans hx)
    rw [if_neg (by simp [hbefore])]
    rfl

end Sys2Proof.Laws.Funding
end

section
/-! SUPPORT. The waits of `bar`, `bar.cfg`, `drain` and `fence` once the arms are funded (R151–R154, R243, R295). -/
namespace Sys2Proof.Laws.Waits

open Sys2Proof Sys2Proof.Machine Sys2Proof.Claims Sys2Proof.Laws.Funding

variable {s : State} {t u : Task} {i : Instr} {met : Task → Bool} {p : Nat → Bool} {f : State → Task → State × List Job}

/-! ### What a task's wait leaves -/

section
variable {w : Option Instr} {b : Bool} {r : Option (List Nat)} {q : Go → Bool}

/-- A task whose thread waits in another way: in another instruction or in none, for other replies. -/
def withWait (t : Task) (w : Option Instr) (b : Bool) (r : Option (List Nat)) : Task :=
  { t with wait := w, paid := b, fenceReqs := r }

theorem withWait_onward : (withWait t w b r).onward = t.onward := rfl

theorem withWait_spread (n : Nat) (l : List (Dest × Nat)) : (withWait t w b r).spread n l = t.spread n l := by
  induction n generalizing l with
  | zero => rfl
  | succ n ih => simp only [Task.spread, withWait_onward, ih]

theorem withWait_goUnits : (withWait t w b r).goUnits q = t.goUnits q :=
  congrArg (fun l => (Machine.unitsOf l).map Prod.fst) (withWait_spread _ _)

theorem withWait_goDone : (withWait t w b r).goDone = t.goDone := rfl

theorem withWait_heldPass : (withWait t w b r).heldPass = t.heldPass := rfl

theorem withWait_openPass : (withWait t w b r).openPass p = t.openPass p := by
  unfold Task.openPass
  simp only [withWait_goUnits, withWait_goDone, withWait_heldPass]

end

@[simp] theorem block_openPass : (t.block i).openPass p = t.openPass p := withWait_openPass (r := t.fenceReqs)

@[simp] theorem block_barMet : (t.block i).barMet = t.barMet := rfl

/-! ### Waiting until the sections are drained -/

section
variable {k : State → Task → State × List Job}

theorem barWait_of_not_met (h : met t = false) : s.barWait t i met p k = (s.putTask (t.block i), []) := by
  simp [State.barWait, h]

theorem barWait_of_closed (h : met t = true) (hopen : t.openPass p = none) :
    s.barWait t i met p k = k s { t with gos := t.gos.filter fun g => !p g.sec } := by
  simp [State.barWait, h, Task.closeSections, hopen]

/-- A pass left open traps FIBRE_MALFORMED, subcode 8 (R243, R244). -/
theorem finish_barWait_of_open {place port : Nat} {ag : Bool} (h : met t = true) (hopen : t.openPass p = some (place, port, ag)) :
    finish (s.barWait t i met p k) = leftOpen s t place port ag := by
  simp only [State.barWait, h, Task.closeSections, hopen]
  rfl

end

theorem barMet_of_arms (h : t.arms ≠ []) : t.barMet = false := by
  have harms : t.arms.isEmpty = false := by simpa using h
  simp [Task.barMet, harms]

/-- Without arms nothing is funded, and the wait goes on with the task blocked. -/
theorem funded_of_no_arms (hfound : s.task? t.handle = some u) (hrun : t.gate = .running) (harms : t.arms = []) :
    s.funded t i f = f (s.putTask (t.block i)) (t.block i) := by
  have hin := blockedIn_putTask (i := i) hfound hrun
  rw [funded_eq, fundArms_of_none hin.found (by simp [Task.block, harms]), afterFunding_of_running hin.found hin.running]

/-! ### `bar` and `bar.cfg` (R151, R152) -/

/-- A task whose goes are forgotten, as its sections are drained. -/
def forgetting (t : Task) : Task := { t with gos := [] }

/-- A wait for the work that `bar` covers, of a task without arms: how it ends where nothing is left to wait for. -/
theorem funded_barWait_of_closed {k : State → Task → State × List Job} (hfound : s.task? t.handle = some u)
    (hrun : t.gate = .running) (harms : t.arms = []) (hmet : met (t.block i) = true) (hopen : t.openPass (fun _ => true) = none) :
    (s.funded t i fun s t => s.barWait t i met (fun _ => true) k) =
      k (s.putTask (t.block i)) (forgetting (t.block i)) := by
  rw [funded_of_no_arms hfound hrun harms, barWait_of_closed hmet (by rw [block_openPass, hopen])]
  simp [forgetting]

theorem funded_barWait_of_not_met {k : State → Task → State × List Job} (hfound : s.task? t.handle = some u)
    (hrun : t.gate = .running) (harms : t.arms = []) (hmet : met (t.block i) = false) :
    (s.funded t i fun s t => s.barWait t i met (fun _ => true) k) = (s.putTask (t.block i), []) := by
  rw [funded_of_no_arms hfound hrun harms, barWait_of_not_met hmet, block_block, putTask_putTask rfl]

theorem finish_funded_barWait_of_open {k : State → Task → State × List Job} {place port : Nat} {ag : Bool}
    (hfound : s.task? t.handle = some u) (hrun : t.gate = .running) (harms : t.arms = []) (hmet : met (t.block i) = true)
    (hopen : t.openPass (fun _ => true) = some (place, port, ag)) :
    finish (s.funded t i fun s t => s.barWait t i met (fun _ => true) k) =
      leftOpen (s.putTask (t.block i)) (t.block i) place port ag := by
  rw [funded_of_no_arms hfound hrun harms, finish_barWait_of_open hmet (by rw [block_openPass, hopen])]

/-! ### `fence` (R295) -/

/-- What `fence` waits for beside the work that `bar` covers: the copies and the replies that its mask names. -/
def fenceMet (k : BitVec 3) (t : Task) : Bool := (!k.getLsbD 0 || t.copiesDone) && (!k.getLsbD 2 || t.repliesIn)

/-- A `fence` completes. -/
def passFence (s : State) (t : Task) : State × List Job := (s.putTask { t.advance 4 with fenceReqs := none }, [])

/-- A task that notes the portal requests that are outstanding. -/
def noting (t : Task) : Task := { t with fenceReqs := some t.portalIds }

theorem noting_openPass : (noting t).openPass p = t.openPass p := withWait_openPass (w := t.wait) (b := t.paid)

theorem noting_barMet : (noting t).barMet = t.barMet := rfl

/-- What `fence` does with a task that has noted the requests it waits for. -/
def fenceOn (k : BitVec 3) (s : State) (t : Task) : State × List Job :=
  if k.getLsbD 1 then s.funded t (.fence k) fun s t =>
    s.barWait t (.fence k) (fun t => fenceMet k t && t.barMet) (fun _ => true) passFence
  else if fenceMet k t then passFence s t
  else (s.putTask (t.block (.fence k)), [])

theorem fenceBody_eq (k : BitVec 3) (s : State) (t : Task) : State.fenceBody k s t = fenceOn k s { t with
    fenceReqs := some (if t.paid && t.wait == some (.fence k) then t.fenceReqs.getD t.portalIds else t.portalIds) } := rfl

theorem fenceBody_first {k : BitVec 3} (hpaid : t.paid = false) : State.fenceBody k s t = fenceOn k s (noting t) := by
  rw [fenceBody_eq, if_neg (by simp [hpaid]), noting]

theorem fenceBody_again {k : BitVec 3} {l : List Nat} (hpaid : t.paid = true) (hwait : t.wait = some (.fence k))
    (hreqs : t.fenceReqs = some l) : State.fenceBody k s t = fenceOn k s t := by
  rw [fenceBody_eq, if_pos (by simp [hpaid, hwait]), hreqs, Option.getD_some, ← hreqs]

theorem fenceMet_iff {k : BitVec 3} : fenceMet k t = true ↔
    (k.getLsbD 0 = true → t.copiesDone = true) ∧
      (k.getLsbD 2 = true → ∀ r ∈ t.fenceReqs.getD [], r ∉ t.portalIds) := by
  simp [fenceMet, Task.repliesIn, Bool.or_eq_true, or_iff_not_imp_left]

/-- A `fence` that has just issued waits for every request that is outstanding. -/
theorem fenceMet_noting_iff {k : BitVec 3} : fenceMet k (noting t) = true ↔
    (k.getLsbD 0 = true → t.copiesDone = true) ∧ (k.getLsbD 2 = true → t.portalIds = []) := by
  rw [fenceMet_iff]
  refine and_congr Iff.rfl (imp_congr Iff.rfl ?_)
  rw [List.eq_nil_iff_forall_not_mem]
  exact ⟨fun h r hr => h r hr hr, fun h r hr => absurd hr (h r)⟩

theorem drawn_copiesDone (s : State) (t : Task) (n : Nat) : (drawn s t n).copiesDone = t.copiesDone := by
  simp [Task.copiesDone, Task.timeline]

theorem drawn_portalIds (s : State) (t : Task) (n : Nat) : (drawn s t n).portalIds = t.portalIds := by
  simp [Task.portalIds]

end Sys2Proof.Laws.Waits
end

section
/-! SUPPORT. `bar`, `bar.cfg`, `drain` and `fence` at issue (R149, R151–R154, R243, R295). -/
namespace Sys2Proof.Laws.Waits

open Sys2Proof Sys2Proof.Machine Sys2Proof.Claims Sys2Proof.Laws.Funding

variable {s : State} {t u : Task} {i : Instr} {n : Nat} {k : BitVec 3} {sec : BitVec 5} {place port : Nat} {ag : Bool}
  {fs : List (BitVec 256)}

/-! ### `bar` and `bar.cfg` -/

theorem finish_barBody_of_closed (hfound : s.task? t.handle = some u) (hrun : t.gate = .running) (harms : t.arms = [])
    (hmet : t.barMet = true) (hopen : t.openPass (fun _ => true) = none) :
    finish (s.barBody t) = s.putTask ((forgetting t).advance 4) := by
  rw [State.barBody, funded_barWait_of_closed hfound hrun harms (by rw [block_barMet, hmet]) hopen, finish_nil]
  exact putTask_putTask rfl

theorem finish_barBody_of_not_met (hfound : s.task? t.handle = some u) (hrun : t.gate = .running) (harms : t.arms = [])
    (hmet : t.barMet = false) : finish (s.barBody t) = s.putTask (t.block .bar) := by
  rw [State.barBody, funded_barWait_of_not_met hfound hrun harms (by rw [block_barMet, hmet]), finish_nil]

theorem finish_barBody_of_open (hfound : s.task? t.handle = some u) (hrun : t.gate = .running) (harms : t.arms = [])
    (hmet : t.barMet = true) (hopen : t.openPass (fun _ => true) = some (place, port, ag)) :
    finish (s.barBody t) = leftOpen (s.putTask (t.block .bar)) (t.block .bar) place port ag := by
  rw [State.barBody, finish_funded_barWait_of_open hfound hrun harms (by rw [block_barMet, hmet]) hopen]

theorem finish_barCfgBody_of_closed (hfound : s.task? t.handle = some u) (hrun : t.gate = .running) (harms : t.arms = [])
    (hmet : t.barMet = true) (hopen : t.openPass (fun _ => true) = none) :
    finish (s.barCfgBody t) = finish ((s.putTask (t.block .barCfg)).putStaged (forgetting (t.block .barCfg))) := by
  rw [State.barCfgBody, funded_barWait_of_closed hfound hrun harms (by rw [block_barMet, hmet]) hopen]

theorem finish_barCfgBody_of_not_met (hfound : s.task? t.handle = some u) (hrun : t.gate = .running) (harms : t.arms = [])
    (hmet : t.barMet = false) : finish (s.barCfgBody t) = s.putTask (t.block .barCfg) := by
  rw [State.barCfgBody, funded_barWait_of_not_met hfound hrun harms (by rw [block_barMet, hmet]), finish_nil]

theorem finish_barCfgBody_of_open (hfound : s.task? t.handle = some u) (hrun : t.gate = .running) (harms : t.arms = [])
    (hmet : t.barMet = true) (hopen : t.openPass (fun _ => true) = some (place, port, ag)) :
    finish (s.barCfgBody t) = leftOpen (s.putTask (t.block .barCfg)) (t.block .barCfg) place port ag := by
  rw [State.barCfgBody, finish_funded_barWait_of_open hfound hrun harms (by rw [block_barMet, hmet]) hopen]

theorem finish_putStaged_of_none (h : t.staged = none) :
    finish ((s.putTask (t.block i)).putStaged (forgetting (t.block i))) = s.putTask ((forgetting t).advance 4) := by
  have hstaged : (forgetting (t.block i)).staged = none := h
  simp only [State.putStaged, hstaged, finish_nil]
  exact putTask_putTask rfl

/-- The staged image is put in force once the sections are drained (R152). -/
theorem finish_putStaged_of_ok (h : t.staged = some fs) (hok : t.bindingsOk fs = true) :
    finish ((s.putTask (t.block i)).putStaged (forgetting (t.block i))) =
      s.putTask (({ forgetting t with staged := none }.install fs).advance 4) := by
  have hstaged : (forgetting (t.block i)).staged = some fs := h
  have hok : (forgetting (t.block i)).bindingsOk fs = true := hok
  simp only [State.putStaged, hstaged, hok, if_true, finish_nil]
  exact putTask_putTask rfl

/-! ### `drain` -/

theorem drainMet_eq_false_iff {i : Nat} : s.drainMet t i = false ↔
    t.drained i = false ∨ s.joinsLate t (t.sectionRows i) = true := by
  rw [State.drainMet, Bool.and_eq_false_iff, Bool.not_eq_false']

theorem finish_drainBody_of_closed (hmet : s.drainMet t sec.toNat = true) (hopen : t.openPass (· == sec.toNat) = none) :
    finish (State.drainBody sec s t) = pastDrain s t sec.toNat := by
  rw [State.drainBody, barWait_of_closed hmet hopen, finish_nil]
  rfl

theorem finish_drainBody_of_not_met (hmet : s.drainMet t sec.toNat = false) :
    finish (State.drainBody sec s t) = s.putTask (t.block (.drain sec)) := by
  rw [State.drainBody, barWait_of_not_met hmet, finish_nil]

theorem finish_drainBody_of_open (hmet : s.drainMet t sec.toNat = true)
    (hopen : t.openPass (· == sec.toNat) = some (place, port, ag)) :
    finish (State.drainBody sec s t) = leftOpen s t place port ag :=
  finish_barWait_of_open hmet hopen

/-! ### `fence` -/

theorem finish_passFence : finish (passFence s t) = s.putTask { t.advance 4 with fenceReqs := none } := finish_nil _

theorem fencing_eq (t : Task) (k : BitVec 3) : fencing t k = (noting t).block (.fence k) := rfl

theorem finish_fenceOn_of_met (hbar : k.getLsbD 1 = false) (hrest : fenceMet k (noting t) = true) :
    finish (fenceOn k s (noting t)) = s.putTask { t.advance 4 with fenceReqs := none } := by
  rw [fenceOn, hbar, if_neg Bool.false_ne_true, if_pos hrest, finish_passFence]
  rfl

theorem finish_fenceOn_of_not_met (hbar : k.getLsbD 1 = false) (hrest : fenceMet k (noting t) = false) :
    finish (fenceOn k s (noting t)) = s.putTask (fencing t k) := by
  rw [fenceOn, hbar, if_neg Bool.false_ne_true, hrest, if_neg Bool.false_ne_true, finish_nil, fencing_eq]

theorem finish_fenceOn_bar_of_closed (hbar : k.getLsbD 1 = true) (hfound : s.task? t.handle = some u) (hrun : t.gate = .running)
    (harms : t.arms = []) (hmet : (fenceMet k (noting t) && t.barMet) = true) (hopen : t.openPass (fun _ => true) = none) :
    finish (fenceOn k s (noting t)) = s.putTask ({ forgetting t with fenceReqs := none }.advance 4) := by
  rw [fenceOn, if_pos hbar, funded_barWait_of_closed (t := noting t) hfound hrun harms hmet (by rw [noting_openPass, hopen]),
    finish_passFence]
  exact putTask_putTask rfl

theorem finish_fenceOn_bar_of_not_met (hbar : k.getLsbD 1 = true) (hfound : s.task? t.handle = some u)
    (hrun : t.gate = .running) (harms : t.arms = []) (hmet : (fenceMet k (noting t) && t.barMet) = false) :
    finish (fenceOn k s (noting t)) = s.putTask (fencing t k) := by
  rw [fenceOn, if_pos hbar, funded_barWait_of_not_met (t := noting t) hfound hrun harms hmet, finish_nil, fencing_eq]

theorem finish_fenceOn_bar_of_open (hbar : k.getLsbD 1 = true) (hfound : s.task? t.handle = some u) (hrun : t.gate = .running)
    (harms : t.arms = []) (hmet : (fenceMet k (noting t) && t.barMet) = true)
    (hopen : t.openPass (fun _ => true) = some (place, port, ag)) :
    finish (fenceOn k s (noting t)) = leftOpen (s.putTask (fencing t k)) (fencing t k) place port ag := by
  rw [fenceOn, if_pos hbar,
    finish_funded_barWait_of_open (t := noting t) hfound hrun harms hmet (by rw [noting_openPass, hopen]), fencing_eq]

/-! ### A task after its draw -/

theorem found_of_onThread (h : OnThread s t n) : (charged s t n).task? (drawn s t n).handle = some (drawn s t n) := by
  obtain ⟨-, hfound, -⟩ := h
  rw [drawn_handle]
  exact task_charged hfound

theorem running_of_onThread (h : OnThread s t n) : (drawn s t n).gate = .running := by
  obtain ⟨-, -, -, hgate, -⟩ := h
  rw [drawn_gate, hgate]

theorem paid_of_onThread (h : OnThread s t n) : (drawn s t n).paid = false := by
  obtain ⟨-, -, -, -, -, -, hpaid, -⟩ := h
  rw [drawn_paid, hpaid]

theorem drawn_no_arms (harms : t.arms = []) : (drawn s t n).arms = [] := by
  rw [drawn_arms, harms]

theorem exec_bar (h : OnThread s t 1) : exec .bar s = .next (finish ((charged s t 1).barBody (drawn s t 1))) := by
  rw [exec, execBar, issueTask_thread h rfl]

theorem exec_barCfg (h : OnThread s t 1) : exec .barCfg s = .next (finish ((charged s t 1).barCfgBody (drawn s t 1))) := by
  rw [exec, execBarCfg, issueTask_thread h rfl]

theorem exec_drain (h : OnThread s t 1) :
    exec (.drain sec) s = .next (finish (State.drainBody sec (charged s t 1) (drawn s t 1))) := by
  rw [exec, execDrain, issueTask_thread h rfl]

theorem exec_fence (h : OnThread s t 1) (hk : k ≠ 0) :
    exec (.fence k) s = .next (finish (fenceOn k (charged s t 1) (noting (drawn s t 1)))) := by
  rw [exec, execFence, issueBoth_thread h (if_neg hk), fenceBody_first (paid_of_onThread h)]

/-- A thread that waits in `fence` goes on without a draw, for the requests that it noted (R135, R295). -/
theorem exec_fence_again {l : List Nat} (hcur : s.current = .thread t.handle) (hfound : s.task? t.handle = some t)
    (hready : t.ready = true) (hgate : t.gate = .running) (hfree : t.threadFrozen = false) (hpaid : t.paid = true)
    (hwait : t.wait = some (.fence k)) (hreqs : t.fenceReqs = some l) :
    exec (.fence k) s = .next (finish (fenceOn k s t)) := by
  rw [exec, execFence, issueBoth, hcur, ← fenceBody_again hpaid hwait hreqs]
  exact State.issueThread_resumes hfound hready hgate hfree hwait hpaid

/-- A trap at issue draws nothing and ends the task at its program counter (R46, R315). -/
theorem issueBoth_trapsAtIssue {draw sub : Nat} {c : Trap} {pre : Task → Option (Trap × Nat)}
    {bur : State → Nat → Bureau → State × List Job} {thr : State → Task → State × List Job} (h : OnThread s t 0)
    (hpre : pre t = some (c, sub)) : issueBoth i draw pre bur thr s = .next (faultedAtIssue s t c sub) := by
  obtain ⟨hcur, hfound, hready, hgate, hfree, hwait, hpaid, -⟩ := h
  simp [issueBoth, hcur, State.issueThread, hfound, hready, hgate, hfree, hwait, hpaid, hpre, State.trapAt,
    State.takeTrap_thread hfound, faultedAtIssue]

/-! ### What `bar`, `bar.cfg` and `drain` do at issue -/

theorem barResults : BarResults := by
  refine ⟨?closed, ?waits, ?opened, ?drain⟩
  case closed =>
    intro s t h harms hmet hopen
    have hfound := found_of_onThread h
    have hrun := running_of_onThread h
    have hnone : (drawn s t 1).arms = [] := drawn_no_arms harms
    rw [exec_bar h, exec_barCfg h, finish_barBody_of_closed hfound hrun hnone hmet hopen,
      finish_barCfgBody_of_closed hfound hrun hnone hmet hopen]
    refine ⟨rfl, fun hstaged => ?_, fun fs hstaged hok => ?_⟩
    · rw [finish_putStaged_of_none (by rw [drawn_staged, hstaged])]
      rfl
    · rw [finish_putStaged_of_ok (by rw [drawn_staged, hstaged]) hok]
      rfl
  case waits =>
    intro s t h harms hmet
    rw [exec_bar h, exec_barCfg h,
      finish_barBody_of_not_met (found_of_onThread h) (running_of_onThread h) (drawn_no_arms harms) hmet,
      finish_barCfgBody_of_not_met (found_of_onThread h) (running_of_onThread h) (drawn_no_arms harms) hmet]
    exact ⟨rfl, rfl⟩
  case opened =>
    rintro i s t place port ag (rfl | rfl) h harms hmet hopen
    · rw [exec_bar h, finish_barBody_of_open (found_of_onThread h) (running_of_onThread h) (drawn_no_arms harms) hmet hopen]
    · rw [exec_barCfg h,
        finish_barCfgBody_of_open (found_of_onThread h) (running_of_onThread h) (drawn_no_arms harms) hmet hopen]
  case drain =>
    intro sec s t h
    rw [exec_drain h]
    refine ⟨fun hmet hopen => ?_, fun hwaits => ?_, fun place port ag hmet hopen => ?_⟩
    · rw [finish_drainBody_of_closed hmet hopen]
    · rw [finish_drainBody_of_not_met (drainMet_eq_false_iff.mpr hwaits)]
    · rw [finish_drainBody_of_open hmet hopen]

/-! ### What `fence` does -/

theorem fenceMet_drawn_iff : fenceMet k (noting (drawn s t n)) = true ↔
    (k.getLsbD 0 = true → t.copiesDone = true) ∧ (k.getLsbD 2 = true → t.portalIds = []) := by
  rw [fenceMet_noting_iff, drawn_copiesDone, drawn_portalIds]

theorem fenceMet_drawn_eq_false (h : (k.getLsbD 0 = true ∧ t.copiesDone = false) ∨ (k.getLsbD 2 = true ∧ t.portalIds ≠ [])) :
    fenceMet k (noting (drawn s t n)) = false := by
  rw [← Bool.not_eq_true, fenceMet_drawn_iff]
  rintro ⟨hcopies, hreplies⟩
  obtain ⟨hk, hnot⟩ | ⟨hk, hnot⟩ := h
  · simp [hcopies hk] at hnot
  · exact hnot (hreplies hk)

theorem ne_zero_of_bit {j : Nat} (h : k.getLsbD j = true) : k ≠ 0 := by
  rintro rfl
  simp at h

theorem fenceResults : FenceResults := by
  refine ⟨?plain, ?closed, ?waits, ?opened, ?again, ?bureau, ?zero, ?zeroBureau⟩
  case plain =>
    intro k s t h hk hbar
    rw [exec_fence h hk]
    refine ⟨fun hcopies hreplies => ?_, fun hwaits => ?_⟩
    · rw [finish_fenceOn_of_met hbar (fenceMet_drawn_iff.mpr ⟨hcopies, hreplies⟩)]
    · rw [finish_fenceOn_of_not_met hbar (fenceMet_drawn_eq_false hwaits)]
  case closed =>
    intro k s t h hbar harms hmet hopen hcopies hreplies
    have hall : (fenceMet k (noting (drawn s t 1)) && (drawn s t 1).barMet) = true :=
      Bool.and_eq_true_iff.mpr ⟨fenceMet_drawn_iff.mpr ⟨hcopies, hreplies⟩, hmet⟩
    rw [exec_fence h (ne_zero_of_bit hbar),
      finish_fenceOn_bar_of_closed hbar (found_of_onThread h) (running_of_onThread h) (drawn_no_arms harms) hall hopen]
    rfl
  case waits =>
    intro k s t h hbar harms hwaits
    have hnot : (fenceMet k (noting (drawn s t 1)) && (drawn s t 1).barMet) = false := by
      obtain hmet | hwaits := hwaits
      · rw [hmet, Bool.and_false]
      · rw [fenceMet_drawn_eq_false hwaits, Bool.false_and]
    rw [exec_fence h (ne_zero_of_bit hbar),
      finish_fenceOn_bar_of_not_met hbar (found_of_onThread h) (running_of_onThread h) (drawn_no_arms harms) hnot]
  case opened =>
    intro k s t place port ag h hbar harms hmet hcopies hreplies hopen
    have hall : (fenceMet k (noting (drawn s t 1)) && (drawn s t 1).barMet) = true :=
      Bool.and_eq_true_iff.mpr ⟨fenceMet_drawn_iff.mpr ⟨hcopies, hreplies⟩, hmet⟩
    rw [exec_fence h (ne_zero_of_bit hbar),
      finish_fenceOn_bar_of_open hbar (found_of_onThread h) (running_of_onThread h) (drawn_no_arms harms) hall hopen]
  case again =>
    intro k s t l hcur hfound hready hgate hfree hpaid hwait hreqs hbar hcopies
    rw [exec_fence_again hcur hfound hready hgate hfree hpaid hwait hreqs, fenceOn, hbar, if_neg Bool.false_ne_true]
    refine ⟨fun hreplies => ?_, fun hk ⟨r, hr, hout⟩ => ?_⟩
    · rw [if_pos (fenceMet_iff.mpr ⟨hcopies, by rwa [hreqs, Option.getD_some]⟩), finish_passFence]
    · have hnot : ¬ fenceMet k t = true := by
        rw [fenceMet_iff, hreqs, Option.getD_some]
        exact fun hmet => hmet.2 hk r hr hout
      rw [if_neg hnot, finish_nil, block_of_blocked hwait hpaid]
  case bureau =>
    intro k s d x h hk
    rw [exec, execFence, issueBoth_bureau h, if_neg hk, finish_nil]
    rfl
  case zero =>
    intro s t h
    rw [exec, execFence, issueBoth_trapsAtIssue h (if_pos rfl)]
  case zeroBureau =>
    intro s d x h
    rw [exec, execFence, issueBoth_bureau h, if_pos rfl, bureau_trap h]
    rfl

end Sys2Proof.Laws.Waits
end

section
/-! SUPPORT. The walker arms of a task, funded at a wait of its thread (R87, R107, R108, R111), and O57. -/
namespace Sys2Proof.Laws.Arms

open Sys2Proof Sys2Proof.Machine Sys2Proof.Claims Sys2Proof.Laws.Gate Sys2Proof.Laws.Retiring Sys2Proof.Laws.Funding
  Sys2Proof.Laws.Waits

variable {s S G : State} {t T : Task} {i : Instr} {a : WalkerArm} {n k d id f : Nat} {js : List Job}

/-! ### What granting tiles leaves -/

theorem foldl_engines {α : Type} {g : Task → α → Task} (h : ∀ t x, ∃ es, g t x = { t with engines := es }) (l : List α) (t : Task) :
    ∃ es, l.foldl g t = { t with engines := es } := by
  induction l generalizing t with
  | nil => exact ⟨t.engines, rfl⟩
  | cons x r ih =>
    obtain ⟨es, hx⟩ := h t x
    obtain ⟨es', hr⟩ := ih { t with engines := es }
    exact ⟨es', by rw [List.foldl_cons, hx, hr]⟩

theorem queueTiles_engines (t : Task) (o : Op2) (k : Nat) : ∃ es, t.queueTiles o k = { t with engines := es } := by
  refine foldl_engines (fun t p => ?_) _ t
  dsimp only
  split
  · exact ⟨t.engines, rfl⟩
  · exact ⟨_, rfl⟩

/-- Granting tiles changes the operation and the engines that run it. -/
theorem grantTiles_frame (t : Task) (id k : Nat) : ∃ es os, t.grantTiles id k = { t with engines := es, ops2 := os } := by
  unfold Task.grantTiles
  split
  · exact ⟨t.engines, t.ops2, rfl⟩
  next o _ =>
    obtain ⟨es, h⟩ := queueTiles_engines t o k
    exact ⟨es, _, by rw [h]⟩

theorem applyGrant_armCmd_frame (t : Task) : ∃ es os, t.applyGrant (armCmd a f k) n = { t with engines := es, ops2 := os } := by
  simp only [Task.applyGrant, armCmd]
  split
  · exact grantTiles_frame _ _ _
  · exact ⟨t.engines, t.ops2, rfl⟩

theorem debit_snd_frame (s : State) (t : Task) (n : Nat) :
    ∃ b, (s.debit t n).2 = { t with account := t.account - n, hangCount := 0, armed := b } := by
  unfold State.debit
  dsimp only
  split
  · exact ⟨_, rfl⟩
  · exact ⟨_, rfl⟩

/-! ### The grant of an arm (R104, R108, R111) -/

theorem tileDraw_pos (f : Nat) : 0 < tileDraw f := by
  unfold tileDraw
  split
  · decide
  · split
    · decide
    · split <;> decide

/-- An account covers as many units of one kind as their draw goes into it. -/
theorem takeUnits_one (hd : 0 < d) (acc : Nat) :
    takeUnits [(n, d)] 0 acc = (min n (acc / d), min n (acc / d) * d) := by
  cases n with
  | zero => simp [takeUnits]
  | succ n => simp [takeUnits, hd.ne']

theorem takeUnits_arm (hcover : k * tileDraw f ≤ T.account) (hmax : k = a.tiles ∨ k < a.tiles ∧ T.account < (k + 1) * tileDraw f) :
    takeUnits (armCmd a f 0).runs (armCmd a f 0).done T.account = (k, k * tileDraw f) := by
  have hpos := tileDraw_pos f
  have hle : k ≤ T.account / tileDraw f := (Nat.le_div_iff_mul_le hpos).mpr hcover
  have hmin : min a.tiles (T.account / tileDraw f) = k := by
    obtain rfl | ⟨hlt, hacc⟩ := hmax
    · omega
    · have := (Nat.div_lt_iff_lt_mul hpos).mpr hacc
      omega
  rw [armCmd, takeUnits_one hpos, hmin]

theorem armCmd_units : (armCmd a f k).units = a.tiles := Nat.zero_add _

/-- The task after a grant of `k` tiles of its arm. -/
def afterGrant (S : State) (T : Task) (a : WalkerArm) (f k : Nat) (g : Gate) (c : Option Cmd) : Task :=
  { ((numbered S 1).debit (withArm T a S.nextId) (k * tileDraw f)).2.applyGrant (armCmd a f 0) k with gate := g, cmd := c }

theorem afterGrant_frame (S : State) (T : Task) (a : WalkerArm) (f k : Nat) (g : Gate) (c : Option Cmd) :
    ∃ b es os acc, afterGrant S T a f k g c = { withArm T a S.nextId with
      account := acc, hangCount := 0, armed := b, engines := es, ops2 := os, gate := g, cmd := c } := by
  obtain ⟨b, hdebit⟩ := debit_snd_frame (numbered S 1) (withArm T a S.nextId) (k * tileDraw f)
  obtain ⟨es, os, hgrant⟩ := applyGrant_armCmd_frame (a := a) (f := f) (k := 0) (n := k)
    ((numbered S 1).debit (withArm T a S.nextId) (k * tileDraw f)).2
  exact ⟨b, es, os, _, by rw [afterGrant, hgrant, hdebit]⟩

/-- What is funded is blocked as before, and its arms are there. -/
structure Still (T T' : Task) : Prop where
  handle : T'.handle = T.handle
  wait : T'.wait = T.wait
  paid : T'.paid = T.paid
  tl : T'.tl = T.tl
  arms : T.arms ≠ [] → T'.arms ≠ []

theorem still_afterGrant {g : Gate} {c : Option Cmd} : Still T (afterGrant S T a f k g c) := by
  obtain ⟨b, es, os, acc, h⟩ := afterGrant_frame S T a f k g c
  rw [h]
  exact ⟨rfl, rfl, rfl, rfl, fun harms => by simpa [withArm] using harms⟩

/-! ### One arm at a wait (R107, R108, R111) -/

theorem task?_debit_fst (S : State) (T : Task) (n : Nat) (h : Word) : (S.debit T n).1.task? h = S.task? h := by
  rw [State.task?, State.task?, State.debit_fst_tasks]

/-- The package after a grant of `k` tiles of an arm. -/
def withGrant (S : State) (T : Task) (a : WalkerArm) (f k : Nat) (g : Gate) (c : Option Cmd) : State :=
  ((numbered S 1).debit (withArm T a S.nextId) (k * tileDraw f)).1.putTask (afterGrant S T a f k g c)

theorem task?_withGrant {g : Gate} {c : Option Cmd} (hfound : S.task? T.handle = some T) :
    (withGrant S T a f k g c).task? T.handle = some (afterGrant S T a f k g c) := by
  have hhandle : (afterGrant S T a f k g c).handle = T.handle := still_afterGrant.handle
  rw [← hhandle] at hfound ⊢
  refine State.task?_putTask_self (u := T) ?_
  rw [task?_debit_fst]
  exact hfound

/-- The one arm of a task has its operation once it is funded. -/
theorem afterGrant_funded {g : Gate} {c : Option Cmd} (harms : T.arms = [a]) :
    ∀ b ∈ (afterGrant S T a f k g c).arms, b.op ≠ none := by
  obtain ⟨b, es, os, acc, h⟩ := afterGrant_frame S T a f k g c
  rw [h]
  simp [withArm, harms]

variable {e : Engine} {es : List Engine}

/-- Where an arm's grant leaves nothing more to fund, that grant is all. -/
theorem fundArms_of_grant (hin : BlockedIn S T i) (hnext : NextArm S T a) (hes : T.sectionEngines a.sec = e :: es)
    (hgrant : State.grantCmd (numbered S 1) (withArm T a S.nextId) (armCmd a (e.fmt.getD 0) 0) = (G, []))
    (hrest : G.fundArms T.handle n = (G, [])) : S.fundArms T.handle (n + 1) = (G, []) := by
  rw [fundArms_of_next hin.found hin.running hnext, hes]
  simp only [hgrant, hrest, List.append_nil]

/-- The account covers all tiles of the one arm: they are funded. -/
theorem fundArms_covered (hin : BlockedIn S T i) (harms : T.arms = [a]) (hnext : NextArm S T a) (hpos : 0 < a.tiles)
    (hes : T.sectionEngines a.sec = e :: es) (hf : f = e.fmt.getD 0) (hcover : a.tiles * tileDraw f ≤ T.account) :
    S.fundArms T.handle (T.arms.length + 1) = (withGrant S T a f a.tiles .running none, []) := by
  subst hf
  have hgrant := grantCmd_running (s := numbered S 1) (t := withArm T a S.nextId) (c := armCmd a (e.fmt.getD 0) 0)
    (takeUnits_arm hcover (.inl rfl)) hpos ((Nat.zero_add _).trans armCmd_units.symm)
  have hrest := fundArms_of_none (S := withGrant S T a (e.fmt.getD 0) a.tiles .running none) (n := T.arms.length)
    (task?_withGrant hin.found) fun b hb hop => absurd hop (afterGrant_funded harms b hb)
  exact fundArms_of_grant hin hnext hes hgrant hrest

/-- The account covers a part of the tiles of the one arm: they are granted, and the gate is SHORT. -/
theorem fundArms_short (hin : BlockedIn S T i) (hnext : NextArm S T a) (hes : T.sectionEngines a.sec = e :: es)
    (hf : f = e.fmt.getD 0) (hk : 0 < k) (hlt : k < a.tiles) (hcover : k * tileDraw f ≤ T.account)
    (hmax : T.account < (k + 1) * tileDraw f) :
    S.fundArms T.handle (n + 1) = (withGrant S T a f k .short (some (armCmd a f k)), []) := by
  subst hf
  have hgrant := grantCmd_short (s := numbered S 1) (t := withArm T a S.nextId) (c := armCmd a (e.fmt.getD 0) 0)
    (takeUnits_arm hcover (.inr ⟨hlt, hmax⟩)) hk (by rw [armCmd_units, armCmd, Nat.zero_add]; exact hlt)
  have hcmd : { armCmd a (e.fmt.getD 0) 0 with done := (armCmd a (e.fmt.getD 0) 0).done + k } = armCmd a (e.fmt.getD 0) k := by
    simp [armCmd]
  rw [hcmd] at hgrant
  have hrest := fundArms_of_not_running (S := withGrant S T a (e.fmt.getD 0) k .short (some (armCmd a (e.fmt.getD 0) k))) (n := n)
    (task?_withGrant hin.found) (by simp [afterGrant])
  exact fundArms_of_grant hin hnext hes hgrant hrest

/-- The account covers no tile of the arm: the gate is in HOLD. -/
theorem fundArms_held (hin : BlockedIn S T i) (hnext : NextArm S T a) (hpos : 0 < a.tiles)
    (hes : T.sectionEngines a.sec = e :: es) (hf : f = e.fmt.getD 0) (hacc : T.account < tileDraw f) (hhold : T.holdField ≠ 0) :
    S.fundArms T.handle (n + 1) =
      ((numbered S 1).putTask (held (withArm T a S.nextId) (armCmd a f 0) (T.holdField.toNat * 64)), []) := by
  subst hf
  have htake := takeUnits_arm (T := withArm T a S.nextId) (a := a) (f := e.fmt.getD 0) (k := 0) (by simp)
    (.inr ⟨hpos, by simpa [withArm] using hacc⟩)
  have hgate : (withArm T a S.nextId).gate ≠ .hold := by simp [withArm, hin.running]
  have hgrant : State.grantCmd (numbered S 1) (withArm T a S.nextId) (armCmd a (e.fmt.getD 0) 0) =
      ((numbered S 1).putTask (held (withArm T a S.nextId) (armCmd a (e.fmt.getD 0) 0) (T.holdField.toNat * 64)), []) := by
    rw [grantCmd_of_none (by rw [armCmd_units]; exact hpos) htake]
    exact refuse_enters_hold hgate (.inl hhold)
  have hfound : ((numbered S 1).putTask
      (held (withArm T a S.nextId) (armCmd a (e.fmt.getD 0) 0) (T.holdField.toNat * 64))).task? T.handle =
      some (held (withArm T a S.nextId) (armCmd a (e.fmt.getD 0) 0) (T.holdField.toNat * 64)) :=
    State.task?_putTask_self (t := held (withArm T a S.nextId) (armCmd a (e.fmt.getD 0) 0) (T.holdField.toNat * 64)) hin.found
  have hrest := fundArms_of_not_running (n := n) hfound (by simp [held])
  exact fundArms_of_grant hin hnext hes hgrant hrest

/-- An arm of a section without engines ends the task. -/
theorem fundArms_no_engine (hin : BlockedIn S T i) (hnext : NextArm S T a) (hes : T.sectionEngines a.sec = []) :
    S.fundArms T.handle (n + 1) = S.retire { T with gate := .stopped } .faulted .illegalOp 0 0 0 a.node := by
  rw [fundArms_of_next hin.found hin.running hnext, hes]

end Sys2Proof.Laws.Arms
end

section
/-! SUPPORT. The funding points: `bar`, `bar.cfg`, `fence`, `tl.wait` and `done` fund the arms and then wait (R107), and O57. -/
namespace Sys2Proof.Laws.Arms

open Sys2Proof Sys2Proof.Machine Sys2Proof.Claims Sys2Proof.Laws.Gate Sys2Proof.Laws.Retiring Sys2Proof.Laws.Funding
  Sys2Proof.Laws.Waits

variable {s S G : State} {t T : Task} {i : Instr} {a : WalkerArm} {n k : Nat} {js : List Job}

/-! ### The funding points -/

/-- Instruction `i`, at a funding point, has blocked the thread of `T` in package `S`: it funds the arms, and a task that is still
there as it was, with arms, then waits. -/
structure FundsAndWaits (s : State) (t : Task) (i : Instr) (S : State) (T : Task) (f : State → Task → State × List Job) : Prop where
  blocked : BlockedIn S T i
  arms : T.arms = t.arms
  holdField : T.holdField = t.holdField
  exec : exec i s = .next (finish (afterFunding (S.fundArms T.handle (T.arms.length + 1)) T.handle f))
  waits : ∀ G T', Still T T' → T'.arms ≠ [] → f G T' = (G.putTask (T'.block i), [])

/-- A wait for the work that `bar` covers does not end while the task has arms. -/
theorem barWait_of_arms {met : Task → Bool} {p : Nat → Bool} {k : State → Task → State × List Job}
    (hmet : met t = true → t.barMet = true) (harms : t.arms ≠ []) : s.barWait t i met p k = (s.putTask (t.block i), []) :=
  barWait_of_not_met (Bool.eq_false_iff.mpr fun h => Bool.false_ne_true ((barMet_of_arms harms).symm.trans (hmet h)))

theorem fundsAndWaits_of_funded {g : State → Task → State × List Job} {u : Task} {m : Nat} (h : OnThread s t m)
    (hu : u.handle = t.handle ∧ u.gate = t.gate ∧ u.arms = t.arms ∧ u.holdField = t.holdField)
    (hexec : Machine.exec i s = .next (finish ((charged s t m).funded u i g)))
    (hwaits : ∀ G T', Still (u.block i) T' → T'.arms ≠ [] → g G T' = (G.putTask (T'.block i), [])) :
    FundsAndWaits s t i ((charged s t m).putTask (u.block i)) (u.block i) g := by
  obtain ⟨hhandle, hgate, harms, hhold⟩ := hu
  have hrun := running_of_onThread h
  rw [drawn_gate, ← hgate] at hrun
  have hfound := found_of_onThread h
  rw [drawn_handle, ← hhandle] at hfound
  exact ⟨blockedIn_putTask hfound hrun, harms, hhold, by rw [hexec, funded_eq], hwaits⟩

theorem fundsAndWaits_bar (h : OnThread s t 1) :
    ∃ f, FundsAndWaits s t .bar ((charged s t 1).putTask ((drawn s t 1).block .bar)) ((drawn s t 1).block .bar) f :=
  ⟨_, fundsAndWaits_of_funded h (by simp) (by rw [exec_bar h, State.barBody]) fun _ _ _ harms => barWait_of_arms id harms⟩

theorem fundsAndWaits_barCfg (h : OnThread s t 1) :
    ∃ f, FundsAndWaits s t .barCfg ((charged s t 1).putTask ((drawn s t 1).block .barCfg)) ((drawn s t 1).block .barCfg) f :=
  ⟨_, fundsAndWaits_of_funded h (by simp) (by rw [exec_barCfg h, State.barCfgBody]) fun _ _ _ harms => barWait_of_arms id harms⟩

theorem fundsAndWaits_fence {k : BitVec 3} (h : OnThread s t 1) (hbar : k.getLsbD 1 = true) :
    ∃ f, FundsAndWaits s t (.fence k) ((charged s t 1).putTask (fencing (drawn s t 1) k)) (fencing (drawn s t 1) k) f :=
  ⟨_, fundsAndWaits_of_funded (u := noting (drawn s t 1)) h (by simp [noting])
    (by rw [exec_fence h (ne_zero_of_bit hbar), fenceOn, if_pos hbar])
    fun _ _ _ harms => barWait_of_arms (fun hmet => (Bool.and_eq_true_iff.mp hmet).2) harms⟩

/-- What `tl.wait` on tl2 does once the arms are funded (R211). -/
def waitTl2 (b : Reg) (v : Nat) (s : State) (t : Task) : State × List Job :=
  if t.timeline 2 ≥ v then (s.putTask (t.advance 4), []) else (s.putTask (t.block (.tlWait 2 b)), [])

theorem tlWaitBody_tl2 (b : Reg) (s : State) (t : Task) :
    State.tlWaitBody 2 b s t = s.funded t (.tlWait 2 b) (waitTl2 b (t.x b).toNat) := rfl

theorem fundsAndWaits_tlWait {b : Reg} (h : OnThread s t 1) (hahead : t.timeline 2 < (t.x b).toNat) :
    ∃ f, FundsAndWaits s t (.tlWait 2 b) ((charged s t 1).putTask ((drawn s t 1).block (.tlWait 2 b)))
      ((drawn s t 1).block (.tlWait 2 b)) f := by
  refine ⟨waitTl2 b (t.x b).toNat, fundsAndWaits_of_funded h (by simp)
    (by rw [exec, execTlWait, issueTask_thread h rfl, tlWaitBody_tl2, drawn_x]) fun G T' hstill _ => if_neg ?_⟩
  have htl : T'.tl = t.tl := hstill.tl.trans (drawn_tl s t 1)
  rw [Task.timeline, htl]
  exact Nat.not_le.mpr hahead

/-- `done` closes its region and waits as `bar` does (R340). -/
theorem fundsAndWaits_done (h : OnThread s t 0) :
    ∃ f, FundsAndWaits s t .done
      ((charged s t 0).putTask (({ drawn s t 0 with regionOpen := false, committing := true } : Task).block .done))
      (({ drawn s t 0 with regionOpen := false, committing := true } : Task).block .done) f :=
  ⟨_, fundsAndWaits_of_funded (u := { drawn s t 0 with regionOpen := false, committing := true }) h (by simp)
    (by rw [exec, execDone, issueTask_thread h rfl, State.doneBody])
    fun _ _ _ harms => barWait_of_arms (fun hmet => (Bool.and_eq_true_iff.mp hmet).1) harms⟩

theorem fundsAndWaits_of_atFundingPoint (h : AtFundingPoint s t i S T) : ∃ f, FundsAndWaits s t i S T f := by
  obtain ⟨rfl | rfl, h, rfl, rfl⟩ | ⟨k, rfl, hbar, h, rfl, rfl⟩ | ⟨b, rfl, hahead, h, rfl, rfl⟩ | ⟨rfl, h, rfl, rfl⟩ := h
  · exact fundsAndWaits_bar h
  · exact fundsAndWaits_barCfg h
  · exact fundsAndWaits_fence h hbar
  · exact fundsAndWaits_tlWait h hahead
  · exact fundsAndWaits_done h

/-! ### What the wait does after the funding -/

section
variable {f : State → Task → State × List Job} {e : Engine} {es : List Engine} {d : Nat}

/-- A task that is there as it was, still RUNNING and with arms, is left as it is. -/
theorem FundsAndWaits.exec_of_still (h : FundsAndWaits s t i S T f) {T' : Task}
    (hfund : S.fundArms T.handle (T.arms.length + 1) = (G, [])) (hfound : G.task? T.handle = some T')
    (hrun : T'.gate = .running) (hput : G.putTask T' = G) (hstill : Still T T') (harms : T'.arms ≠ []) :
    Machine.exec i s = .next G := by
  have hwait : T'.wait = some i := hstill.wait.trans h.blocked.wait
  have hpaid : T'.paid = true := hstill.paid.trans h.blocked.paid
  rw [h.exec, hfund, afterFunding_of_running hfound hrun, h.waits G T' hstill harms, block_of_blocked hwait hpaid, hput, finish_nil]

/-- A gate that is not RUNNING after the funding ends what the instruction does. -/
theorem FundsAndWaits.exec_of_gate (h : FundsAndWaits s t i S T f) {T' : Task}
    (hfund : S.fundArms T.handle (T.arms.length + 1) = (G, [])) (hfound : G.task? T.handle = some T')
    (hgate : T'.gate ≠ .running) : Machine.exec i s = .next G := by
  rw [h.exec, hfund, afterFunding_of_not_running hfound hgate, finish_nil]

theorem withGrant_eq_granted (hpos : 0 < a.tiles) :
    withGrant S T a d a.tiles .running none =
      granted (numbered S 1) (withArm T a S.nextId) (.walkerArm a.node) [(a.tiles, tileDraw d)] := by
  have hunits : Claims.unitsOf [(a.tiles, tileDraw d)] = a.tiles := by simp
  have hdraw : drawOf [(a.tiles, tileDraw d)] = a.tiles * tileDraw d := by simp [drawOf]
  rw [granted, hunits, hdraw, if_neg hpos.ne']
  rfl

/-- The account covers the one arm: it is funded whole, and the thread waits for it. -/
theorem FundsAndWaits.exec_covered (h : FundsAndWaits s t i S T f) (harms : t.arms = [a]) (hnext : NextArm S T a)
    (hpos : 0 < a.tiles) (hes : T.sectionEngines a.sec = e :: es) (hd : d = e.fmt.getD 0)
    (hcover : a.tiles * tileDraw d ≤ T.account) :
    Machine.exec i s =
      .next (granted (numbered S 1) (withArm T a S.nextId) (.walkerArm a.node) [(a.tiles, tileDraw d)]) := by
  have hone : T.arms = [a] := h.arms.trans harms
  have hstill : Still T (afterGrant S T a d a.tiles .running none) := still_afterGrant
  rw [← withGrant_eq_granted hpos]
  exact h.exec_of_still (fundArms_covered h.blocked hone hnext hpos hes hd hcover) (task?_withGrant h.blocked.found) rfl
    (putTask_putTask rfl) hstill (hstill.arms (by simp [hone]))

/-- The account covers a part of the arm: the gate is SHORT. -/
theorem FundsAndWaits.exec_short (h : FundsAndWaits s t i S T f) (hnext : NextArm S T a)
    (hes : T.sectionEngines a.sec = e :: es) (hd : d = e.fmt.getD 0) (hk : 0 < k) (hlt : k < a.tiles)
    (hcover : k * tileDraw d ≤ T.account) (hmax : T.account < (k + 1) * tileDraw d) :
    Machine.exec i s = .next (withGrant S T a d k .short (some (armCmd a d k))) :=
  h.exec_of_gate (fundArms_short h.blocked hnext hes hd hk hlt hcover hmax) (task?_withGrant h.blocked.found)
    (by simp [afterGrant])

/-- The account covers nothing of the arm: the gate is in HOLD. -/
theorem FundsAndWaits.exec_held (h : FundsAndWaits s t i S T f) (hnext : NextArm S T a) (hpos : 0 < a.tiles)
    (hes : T.sectionEngines a.sec = e :: es) (hd : d = e.fmt.getD 0) (hacc : T.account < tileDraw d) (hhold : t.holdField ≠ 0) :
    Machine.exec i s =
      .next ((numbered S 1).putTask (held (withArm T a S.nextId) (armCmd a d 0) (t.holdField.toNat * 64))) := by
  rw [← h.holdField] at hhold ⊢
  exact h.exec_of_gate (fundArms_held h.blocked hnext hpos hes hd hacc hhold)
    (State.task?_putTask_self (t := held (withArm T a S.nextId) (armCmd a d 0) (T.holdField.toNat * 64)) h.blocked.found)
    (by simp [held])

/-- A section without engines: the task ends, and waits no more. -/
theorem FundsAndWaits.exec_no_engine (h : FundsAndWaits s t i S T f) (hnext : NextArm S T a)
    (hes : T.sectionEngines a.sec = []) :
    Machine.exec i s = .next (finish (S.retire { T with gate := .stopped } .faulted .illegalOp 0 0 0 a.node)) := by
  have hgone : (S.retire { T with gate := .stopped } .faulted .illegalOp 0 0 0 a.node).1.task? T.handle = none :=
    task?_retire_self (t := { T with gate := .stopped })
  rw [h.exec, fundArms_no_engine h.blocked hnext hes, afterFunding_of_gone hgone]

/-- While no arm may be funded the thread only waits. -/
theorem FundsAndWaits.exec_of_none (h : FundsAndWaits s t i S T f) (harms : t.arms ≠ [])
    (hnone : ∀ a ∈ t.arms, a.op = none → S.armBefore T a.inst a.node = true) : Machine.exec i s = .next S := by
  rw [← h.arms] at harms hnone
  exact h.exec_of_still (fundArms_of_none h.blocked.found hnone) h.blocked.found h.blocked.running h.blocked.put
    ⟨rfl, rfl, rfl, rfl, id⟩ harms

end

/-! ### Lower-numbered arms, and the delivery of an arm (R87, R107) -/

theorem mem_zip_range {α : Type} {l : List α} {k j : Nat} {x : α} : (j, x) ∈ (List.range k).zip l ↔ j < k ∧ l[j]? = some x := by
  rw [List.mem_iff_getElem?]
  constructor
  · rintro ⟨m, hm⟩
    obtain ⟨hrange, hl⟩ := List.getElem?_zip_eq_some.mp hm
    obtain ⟨hlt, hget⟩ := List.getElem?_eq_some_iff.mp hrange
    rw [List.getElem_range] at hget
    subst hget
    exact ⟨by simpa using hlt, hl⟩
  · rintro ⟨hlt, hl⟩
    exact ⟨j, List.getElem?_zip_eq_some.mpr ⟨List.getElem?_range hlt, hl⟩⟩

/-- The target that a node names, as the model compares it. -/
theorem sameTarget_iff {n : Node} {o : Option Node} :
    ((n.target.map Prod.fst == o.bind fun m => m.target.map Prod.fst) && (o.bind fun m => m.target.map Prod.fst).isSome) = true ↔
      ∃ m u v, o = some m ∧ n.target = some u ∧ m.target = some v ∧ u.1 = v.1 := by
  constructor
  · intro h
    obtain ⟨heq, hsome⟩ := Bool.and_eq_true_iff.mp h
    obtain ⟨x, hx⟩ := Option.isSome_iff_exists.mp hsome
    obtain ⟨m, hm, hmx⟩ := Option.bind_eq_some_iff.mp hx
    obtain ⟨v, hv, hvx⟩ := Option.map_eq_some_iff.mp hmx
    obtain ⟨u, hu, hux⟩ := Option.map_eq_some_iff.mp ((beq_iff_eq.mp heq).trans hx)
    exact ⟨m, u, v, hm, hu, hv, hux.trans hvx.symm⟩
  · rintro ⟨m, u, v, rfl, hu, hv, huv⟩
    simp [hu, hv, huv]

/-- A node is still to be funded where it is not delivered yet, or delivered and without its operation (R107). -/
theorem toFund_iff {n : Node} {k : Nat} :
    (n.life == .waiting || n.life == .held || (n.life == .armed && T.arms.any fun a => a.node == k && a.op.isNone)) = true ↔
      (n.life = .waiting ∨ n.life = .held ∨ (n.life = .armed ∧ ∃ b ∈ T.arms, b.node = k ∧ b.op = none)) := by
  simp [or_assoc]

theorem armBefore_iff (S : State) (T : Task) (inst j : Nat) : S.armBefore T inst j = true ↔
    ∃ i, S.instances.find? (·.id = inst) = some i ∧
      ∃ k < j, ∃ n m u v, i.nodes[k]? = some n ∧ i.nodes[j]? = some m ∧ n.target = some u ∧ m.target = some v ∧ u.1 = v.1 ∧
        (n.life = .waiting ∨ n.life = .held ∨ (n.life = .armed ∧ ∃ b ∈ T.arms, b.node = k ∧ b.op = none)) := by
  have hid : (fun i : Instance => decide (i.id = inst)) = fun i => i.id == inst := funext fun i => (beq_eq_decide _ _).symm
  rw [hid]
  simp only [State.armBefore]
  cases S.instances.find? fun i => i.id == inst with
  | none => simp
  | some i =>
    simp only [List.any_eq_true, Option.some.injEq, exists_eq_left']
    constructor
    · rintro ⟨⟨k, n⟩, hmem, h⟩
      obtain ⟨hlt, hn⟩ := mem_zip_range.mp hmem
      obtain ⟨hsame, hfund⟩ := Bool.and_eq_true_iff.mp h
      obtain ⟨m, u, v, hm, hu, hv, huv⟩ := sameTarget_iff.mp hsame
      exact ⟨k, hlt, n, m, u, v, hn, hm, hu, hv, huv, toFund_iff.mp hfund⟩
    · rintro ⟨k, hlt, n, m, u, v, hn, hm, hu, hv, huv, hfund⟩
      exact ⟨(k, n), mem_zip_range.mpr ⟨hlt, hn⟩, Bool.and_eq_true_iff.mpr ⟨sameTarget_iff.mpr ⟨m, u, v, hm, hu, hv, huv⟩, toFund_iff.mpr hfund⟩⟩

theorem task?_updNode (S : State) (id k : Nat) (g : Node → Node) (h : Word) : (S.updNode id k g).task? h = S.task? h := rfl

theorem fundIfBlocked_of_funding {h : Word} {w : Instr} (hfound : S.task? h = some T) (hpaid : T.paid = true)
    (hwait : T.wait = some w) (hpoint : fundingPoint w = true) :
    S.fundIfBlocked h = (((S.fundArms h (T.arms.length + 1)).1.settleTl2 h).1,
      (S.fundArms h (T.arms.length + 1)).2 ++ ((S.fundArms h (T.arms.length + 1)).1.settleTl2 h).2) := by
  simp [State.fundIfBlocked, hfound, hpaid, hwait, hpoint]

/-- Task `t` with an arm that was just delivered to it. -/
def delivered (t : Task) (id k sec tiles : Nat) : Task :=
  { t with arms := t.arms ++ [{ inst := id, node := k, sec := sec, tiles := tiles, op := none }] }

/-- The package with that task, and its arm node armed. -/
def afterDelivery (s : State) (t : Task) (id k sec tiles : Nat) : State :=
  (s.putTask (delivered t id k sec tiles)).updNode id k fun n => { n with life := .armed }

theorem task?_afterDelivery {h : Word} {id k sec tiles : Nat} (hfound : s.task? h = some t) :
    (afterDelivery s t id k sec tiles).task? h = some (delivered t id k sec tiles) := by
  have hhandle : t.handle = h := by simpa using List.find?_some hfound
  subst hhandle
  rw [afterDelivery, task?_updNode]
  exact State.task?_putTask_self (t := delivered t id k sec tiles) hfound

theorem execWalkerArmDelivery_of_held {h : Word} {id k tgt sec tiles : Nat} {i : Instance} {n : Node}
    (hi : s.instances.find? (·.id = id) = some i) (hn : i.nodes[k]? = some n) (htarget : n.target = some (tgt, sec, tiles))
    (hheld : n.life = .held) (hlife : (i.nodes[tgt]?).map Node.life = some (.running h)) (hfound : s.task? h = some t) :
    execWalkerArmDelivery id k s = .next (finish ((afterDelivery s t id k sec tiles).fundIfBlocked h)) := by
  have hid : (fun i : Instance => decide (i.id = id)) = fun i => i.id == id := funext fun i => (beq_eq_decide _ _).symm
  rw [hid] at hi
  simp only [execWalkerArmDelivery, hi, Option.bind_some, hn, Option.map_some, htarget, hheld, hlife, hfound]
  rfl

end Sys2Proof.Laws.Arms

namespace Sys2Proof.Proofs

open Sys2Proof Sys2Proof.Machine Sys2Proof.Claims Sys2Proof.Laws.Funding Sys2Proof.Laws.Waits Sys2Proof.Laws.Arms

/-- How walker arms are funded, a part at a time: one arm, a section without engines, arms that may not be funded, several arms, the
arms that come before one, and the delivery of an arm. -/
theorem armFunding : ArmFunding := by
  refine ⟨?one, ?noEngine, ?notYet, ?several, ?before, ?delivery⟩
  case one =>
    intro s t i S T a d es e hpoint harms _ hnext hpos hes hd
    obtain ⟨f, h⟩ := fundsAndWaits_of_atFundingPoint hpoint
    refine ⟨h.exec_covered harms hnext hpos hes hd, fun k p hk hlt hcover hmax hp => ?_, h.exec_held hnext hpos hes hd⟩
    rw [hp]
    exact h.exec_short hnext hes hd hk hlt hcover hmax
  case noEngine =>
    intro s t i S T a hpoint hnext hes
    obtain ⟨f, h⟩ := fundsAndWaits_of_atFundingPoint hpoint
    exact h.exec_no_engine hnext hes
  case notYet =>
    intro s t i S T hpoint harms hnone
    obtain ⟨f, h⟩ := fundsAndWaits_of_atFundingPoint hpoint
    exact h.exec_of_none harms hnone
  case several =>
    intro S T a e es n p hfound hrun hnext hes hp
    rw [hp, fundArms_of_next hfound hrun hnext, hes]
  case before => exact fun S T a => armBefore_iff S T a.inst a.node
  case delivery =>
    intro s id k i n tgt sec tiles h t w p q hi hn htarget hheld hlife hfound hpaid hwait hpoint hp hq
    have harms : (delivered t id k sec tiles).arms.length + 1 = t.arms.length + 2 := by simp [delivered]
    rw [exec, execWalkerArmDelivery_of_held hi hn htarget hheld hlife hfound,
      fundIfBlocked_of_funding (task?_afterDelivery hfound) hpaid hwait hpoint, harms, hq, hp]
    rfl

/-- Settles O57 by its parts: the waits of `bar`, `bar.cfg` and `drain`, those of `fence`, the funding of arms, and `yield`. -/
theorem barsAndFences : Obligations.BarsAndFences :=
  ⟨barResults, fenceResults, armFunding, fun _ _ h => Sys2Proof.Laws.TaskInstr.exec_yield_thread h⟩

end Sys2Proof.Proofs
end

section
/-! SUPPORT. The charge instructions (R117–R120, R363), and O20. -/
namespace Sys2Proof.Laws.ChargeInstr

open Sys2Proof Sys2Proof.Machine Sys2Proof.Claims Sys2Proof.Laws.TaskInstr

variable {s : State} {t g : Task} {d a b : Reg} {c : Trap} {n : Nat} {v x : Word}

/-! ### Quotas (R117) -/

/-- Giving key `k` a value leaves the keys of the pairs. -/
theorem key_comp_setKey {α : Type} (k e : Nat) (v : α) :
    ((fun p : Nat × α => p.1 == e) ∘ fun p => if p.1 == k then (k, v) else p) = fun p => p.1 == e := by
  funext p
  by_cases hk : p.1 = k <;> simp [hk]

theorem find?_assocSet_self {α : Type} (l : List (Nat × α)) (k : Nat) (v : α) :
    (assocSet l k v).find? (fun p => p.1 == k) = some (k, v) := by
  cases hfound : l.find? fun p => p.1 == k with
  | none =>
    have hany : ¬ (l.any fun p => p.1 == k) = true := by
      rw [List.any_eq_true]
      rintro ⟨p, hp, hk⟩
      exact List.find?_eq_none.mp hfound p hp hk
    rw [assocSet, if_neg hany, List.find?_append, hfound]
    simp
  | some p =>
    have hkey : (p.1 == k) = true := List.find?_some (p := fun p : Nat × α => p.1 == k) hfound
    have hany : (l.any fun p => p.1 == k) = true := List.any_eq_true.mpr ⟨p, List.mem_of_find?_eq_some hfound, hkey⟩
    rw [assocSet, if_pos hany, List.find?_map, key_comp_setKey, hfound, Option.map_some, if_pos hkey]

theorem find?_assocSet_other {α : Type} (l : List (Nat × α)) {k e : Nat} (h : e ≠ k) (v : α) :
    (assocSet l k v).find? (fun p => p.1 == e) = l.find? fun p => p.1 == e := by
  unfold assocSet
  split
  · rw [List.find?_map, key_comp_setKey]
    cases hfound : l.find? fun p => p.1 == e with
    | none => rfl
    | some p =>
      have hkey : p.1 = e := eq_of_beq (List.find?_some (p := fun p : Nat × α => p.1 == e) hfound)
      rw [Option.map_some, if_neg (by simpa [hkey] using h)]
  · simp [List.find?_append, Ne.symm h]

@[simp] theorem quota_setQuota_self (y : Die) (k q r : Nat) : (y.setQuota k q r).quota k = q := by
  rw [Die.quota, Die.setQuota, assocD, find?_assocSet_self]

theorem quota_setQuota_other (y : Die) {k e : Nat} (h : e ≠ k) (q r : Nat) : (y.setQuota k q r).quota e = y.quota e := by
  simp only [Die.quota, Die.setQuota, assocD, find?_assocSet_other y.quotas h]


/-! ### The gate that a register names (R118, R119) -/

theorem gateOf_eq_some_iff : s.gateOf x = some g ↔
    s.task? (x &&& 0xFFFFFFFF000007FF) = some g ∧ g.gate ≠ .stopped ∧ (g.gate = .hold → g.holdLeft ≠ 0) := by
  unfold State.gateOf gateHandle
  cases s.task? (x &&& 0xFFFFFFFF000007FF) with
  | none => simp
  | some y => grind

theorem gateOf_eq_none (h : ∀ g, s.task? (x &&& 0xFFFFFFFF000007FF) = some g → g.gate = .stopped ∨ (g.gate = .hold ∧ g.holdLeft = 0)) :
    s.gateOf x = none := by
  refine Option.eq_none_iff_forall_ne_some.mpr fun g hg => ?_
  obtain ⟨hfound, hrun, hleft⟩ := gateOf_eq_some_iff.mp hg
  obtain hstop | ⟨hhold, hzero⟩ := h g hfound
  · exact hrun hstop
  · exact hleft hhold hzero

/-- A task is found under the handle that it has. -/
theorem handle_of_task? {h : Word} (hfound : s.task? h = some g) : g.handle = h :=
  eq_of_beq (List.find?_some (p := fun t : Task => t.handle == h) hfound)

theorem task?_handle_of_gateOf (h : s.gateOf x = some g) : s.task? g.handle = some g := by
  obtain ⟨hfound, -⟩ := gateOf_eq_some_iff.mp h
  rwa [handle_of_task? hfound]

theorem nameErr_eq (s : State) (t g : Task) :
    s.nameErr t g = if g.crec.ctx = t.crec.ctx then none else s.systemErr t.crec.ctx := by
  simp [State.nameErr]

theorem nameErr_of_mayName (h : MayName s t.crec.ctx g.crec.ctx) : s.nameErr t g = none :=
  (nameErr_eq s t g).trans (contextErr_of_mayName h)

theorem nameErr_of_nameTrap (h : NameTrap s t.crec.ctx g.crec.ctx c) : s.nameErr t g = some c := by
  obtain ⟨hne, hcase⟩ := h
  rw [nameErr_eq, if_neg hne, State.systemErr]
  obtain ⟨hdown, rfl⟩ | ⟨hup, hsys, rfl⟩ := hcase
  · simp [hdown]
  · simp [hup, hsys]

/-! ### What a charge instruction gives -/

theorem chargeResult_of_found {h : Word} (hfound : s.task? h = some t) :
    s.chargeResult h d v = s.putTask ((t.setX d v).advance 4) := by
  simp [State.chargeResult, hfound]

theorem chargeResult_charged (h : OnThread s t n) :
    (charged s t n).chargeResult t.handle d v = (charged s t n).putTask (((drawn s t n).setX d v).advance 4) := by
  obtain ⟨-, hfound, -⟩ := h
  exact chargeResult_of_found (task_charged hfound)

/-- A trap of an instruction after its draw (R315). -/
theorem trapAt_charged (h : OnThread s t n) (c : Trap) (sub : Nat) :
    finish ((charged s t n).trapAt (drawn s t n) c sub) = faultedIn (charged s t n) (drawn s t n) c sub := by
  obtain ⟨-, hfound, -⟩ := h
  rw [State.trapAt, drawn_handle, State.takeTrap_thread (task_charged hfound)]
  rfl

theorem exec_chgRead_of_gate (h : OnThread s t 1) (hgate : (charged s t 1).gateOf (t.x a) = some g)
    (hname : MayName (charged s t 1) t.crec.ctx g.crec.ctx) :
    exec (.chgRead d a) s =
      .next ((charged s t 1).putTask (((drawn s t 1).setX d (BitVec.ofNat 64 g.account)).advance 4)) := by
  rw [← drawn_crec s t 1] at hname
  rw [exec, execChgRead, issueTask_thread h rfl]
  simp only [drawn_x, drawn_handle, hgate, nameErr_of_mayName hname, chargeResult_charged h, finish_nil]

theorem exec_chgRead_trapped (h : OnThread s t 1) (hgate : (charged s t 1).gateOf (t.x a) = some g)
    (htrap : NameTrap (charged s t 1) t.crec.ctx g.crec.ctx c) :
    exec (.chgRead d a) s = .next (faultedIn (charged s t 1) (drawn s t 1) c 0) := by
  rw [← drawn_crec s t 1] at htrap
  rw [exec, execChgRead, issueTask_thread h rfl]
  simp only [drawn_x, hgate, nameErr_of_nameTrap htrap, trapAt_charged h]

theorem exec_chgRead_of_no_gate (h : OnThread s t 1) (hgate : (charged s t 1).gateOf (t.x a) = none) :
    exec (.chgRead d a) s = .next ((charged s t 1).putTask (((drawn s t 1).setX d (BitVec.allOnes 64)).advance 4)) := by
  rw [exec, execChgRead, issueTask_thread h rfl]
  simp only [drawn_x, drawn_handle, hgate, chargeResult_charged h, finish_nil]

theorem exec_chgLow (h : OnThread s t 1) : exec (.chgLow d a) s = .next ((charged s t 1).putTask
    (({ drawn s t 1 with mark := (t.x a).toNat % 2 ^ 32,
                         armed := (t.x a).toNat % 2 ^ 32 < (drawn s t 1).account }.setX d (BitVec.ofNat 64 t.mark)).advance 4)) := by
  have hmark : wbits (t.x a) 31 0 = (t.x a).toNat % 2 ^ 32 := by simp [wbits, bitsOf]
  rw [exec, execChgLow, issueSimple_thread h]
  simp only [drawn_x, drawn_mark, hmark, gt_iff_lt]

theorem exec_chgHold (h : OnThread s t 1) : exec (.chgHold d a) s = .next ((charged s t 1).putTask
    (({ drawn s t 1 with holdField := (t.x a).extractLsb' 0 16 }.setX d (t.holdField.zeroExtend 64)).advance 4)) := by
  have hfield : (t.x a).setWidth 16 = (t.x a).extractLsb' 0 16 := BitVec.setWidth_eq_extractLsb' (by decide)
  rw [exec, execChgHold, issueSimple_thread h]
  simp only [drawn_x, drawn_holdField, hfield]

/-! ### Top-ups (R118) -/

/-- Which top-ups are accepted (R118). -/
theorem topUpOk_iff {y : Die} (hdie : s.die? t.die = some y) : s.topUpOk t g n = true ↔
    n ≠ 0 ∧ n ≤ 0xFFFFFFFF ∧ g.added + n ≤ 0xFFFFFFFF ∧ n ≤ y.quota t.crec.ctx ∧ 16 * n ≤ y.budget := by
  simp [State.topUpOk, die_eq hdie, and_assoc]

/-- The task of a gate that `n` packets were added to. -/
def toppedUp (g : Task) (n : Nat) : Task :=
  { g with account := g.account + 16 * n, added := g.added + n, armed := g.armed || g.mark < g.account + 16 * n }

theorem topUp_eq (s : State) (g : Task) (n : Nat) : s.topUp g n =
    if g.gate = .hold then (s.putTask (toppedUp g n)).resumeGate (toppedUp g n) else (s.putTask (toppedUp g n), []) := rfl

theorem exec_chgAdd_of_no_gate (h : OnThread s t 1) (hgate : (charged s t 1).gateOf (t.x a) = none) :
    exec (.chgAdd d a b) s = .next ((charged s t 1).putTask (((drawn s t 1).setX d 0).advance 4)) := by
  rw [exec, execChgAdd, issueTask_thread h rfl]
  simp only [drawn_x, drawn_handle, hgate, chargeResult_charged h, finish_nil]

theorem exec_chgAdd_trapped (h : OnThread s t 1) (hgate : (charged s t 1).gateOf (t.x a) = some g)
    (htrap : NameTrap (charged s t 1) t.crec.ctx g.crec.ctx c) :
    exec (.chgAdd d a b) s = .next (faultedIn (charged s t 1) (drawn s t 1) c 0) := by
  rw [← drawn_crec s t 1] at htrap
  rw [exec, execChgAdd, issueTask_thread h rfl]
  simp only [drawn_x, hgate, nameErr_of_nameTrap htrap, trapAt_charged h]

theorem exec_chgAdd_refused (h : OnThread s t 1) (hgate : (charged s t 1).gateOf (t.x a) = some g)
    (hname : MayName (charged s t 1) t.crec.ctx g.crec.ctx)
    (hno : (charged s t 1).topUpOk (drawn s t 1) g (t.x b).toNat = false) :
    exec (.chgAdd d a b) s = .next ((charged s t 1).putTask (((drawn s t 1).setX d 0).advance 4)) := by
  rw [← drawn_crec s t 1] at hname
  rw [exec, execChgAdd, issueTask_thread h rfl]
  simp only [drawn_x, drawn_handle, hgate, nameErr_of_mayName hname, hno, chargeResult_charged h, finish_nil, Bool.not_false,
    if_true]

/-- The issuer after an accepted `chg.add`, which answers the packets moved. -/
def answered (s : State) (t : Task) (d b : Reg) : Task := ((drawn s t 1).setX d (t.x b)).advance 4

/-- The package after an accepted `chg.add` has taken the packets from quota and budget, and answered (R117, R118). -/
def spent (s : State) (t : Task) (d b : Reg) : State :=
  ((charged s t 1).updDie t.die fun y =>
    { y.setQuota t.crec.ctx (y.quota t.crec.ctx - (t.x b).toNat) (y.reserve t.crec.ctx) with
      budget := y.budget - 16 * (t.x b).toNat }).putTask (answered s t d b)

theorem chargeResult_spend (h : OnThread s t 1) :
    ((charged s t 1).spend (drawn s t 1) (t.x b).toNat).chargeResult t.handle d (t.x b) = spent s t d b := by
  obtain ⟨-, hfound, -⟩ := h
  have hstays : ((charged s t 1).spend (drawn s t 1) (t.x b).toNat).task? t.handle = some (drawn s t 1) := task_charged hfound
  rw [chargeResult_of_found hstays, State.spend, drawn_die, drawn_crec]
  rfl

/-- The gate that a top-up names stands as it stood, but that its task has its answer if it is the issuer. -/
theorem task?_spent (h : OnThread s t 1) (hgate : (charged s t 1).task? g.handle = some g) :
    (spent s t d b).task? g.handle = some (if g.handle = t.handle then answered s t d b else g) := by
  obtain ⟨-, hfound, -⟩ := h
  have hhandle : (answered s t d b).handle = t.handle := drawn_handle s t 1
  by_cases hself : g.handle = t.handle
  · rw [if_pos hself, hself, ← hhandle]
    refine State.task?_putTask_self (u := drawn s t 1) ?_
    rw [hhandle]
    exact task_charged hfound
  · rw [if_neg hself]
    exact (State.task?_putTask_other (by rwa [hhandle])).trans hgate

theorem exec_chgAdd_accepted (h : OnThread s t 1) (hgate : (charged s t 1).gateOf (t.x a) = some g)
    (hname : MayName (charged s t 1) t.crec.ctx g.crec.ctx)
    (hok : (charged s t 1).topUpOk (drawn s t 1) g (t.x b).toNat = true) :
    exec (.chgAdd d a b) s = .next (finish
      ((spent s t d b).topUp (if g.handle = t.handle then answered s t d b else g) (t.x b).toNat)) := by
  rw [← drawn_crec s t 1] at hname
  rw [exec, execChgAdd, issueTask_thread h rfl]
  simp only [drawn_x, drawn_handle, hgate, nameErr_of_mayName hname, hok, chargeResult_spend h, State.topUpAt,
    task?_spent h (task?_handle_of_gateOf hgate), Bool.not_true, Bool.false_eq_true, if_false]

/-- A gate of the issuer's own has what its draw left. -/
theorem eq_drawn_of_own_gate (h : OnThread s t 1) (hgate : (charged s t 1).gateOf (t.x a) = some g)
    (hself : g.handle = t.handle) : g = drawn s t 1 := by
  obtain ⟨-, hfound, -⟩ := h
  have hg := task?_handle_of_gateOf hgate
  rw [hself, task_charged hfound] at hg
  exact (Option.some.inj hg).symm

end Sys2Proof.Laws.ChargeInstr

namespace Sys2Proof.Proofs

open Sys2Proof Sys2Proof.Machine Sys2Proof.Claims Sys2Proof.Laws.ChargeInstr

/-- Settles O20, an instruction at a time. -/
theorem chargeResults : Obligations.ChargeResults := by
  refine ⟨?add, ?ok, ?quota, ?addTrap, ?addNone, ?read, ?readNone, ?low, ?hold⟩
  case add =>
    intro d a b s t g h hgate hname
    refine ⟨fun hno => exec_chgAdd_refused h hgate hname hno, fun u g' hok hu hg' => ?_⟩
    rw [exec_chgAdd_accepted h hgate hname hok, topUp_eq, hu, hg']
    by_cases hself : g.handle = t.handle
    · obtain rfl := eq_drawn_of_own_gate h hgate hself
      simp only [if_pos hself]
      rfl
    · simp only [if_neg hself]
      rfl
  case ok => exact fun s t g n x hdie => topUpOk_iff hdie
  case quota => exact fun x c q r => ⟨quota_setQuota_self x c q r, fun e he => quota_setQuota_other x he q r⟩
  case addTrap => exact fun d a b s t g h hgate c htrap => exec_chgAdd_trapped h hgate htrap
  case addNone => exact fun d a b s t h hgate => exec_chgAdd_of_no_gate h hgate
  case read =>
    intro d a s t g h hfound hrun hleft
    have hgate := gateOf_eq_some_iff.mpr ⟨hfound, hrun, hleft⟩
    exact ⟨exec_chgRead_of_gate h hgate, fun c htrap => exec_chgRead_trapped h hgate htrap⟩
  case readNone => exact fun d a s t h hnone => exec_chgRead_of_no_gate h (gateOf_eq_none hnone)
  case low => exact fun d a s t h => exec_chgLow h
  case hold => exact fun d a s t h => exec_chgHold h

end Sys2Proof.Proofs
end

section
/-! SUPPORT. The issue of a nest (R105, R160, R161), and O23. -/
namespace Sys2Proof.Laws.Nests

open Sys2Proof Sys2Proof.Machine Sys2Proof.Claims Sys2Proof.Laws.Gate Sys2Proof.Laws.Arms

variable {s : State} {t : Task} {w : NestWord} {n d : Nat}

/-! ### Elements and their draw (R105, R160) -/

theorem foldl_levelCount_pos (l : List NestLevel) (h : 0 < n) : 0 < l.foldl (fun n x => n * levelCount x) n := by
  induction l generalizing n with
  | nil => exact h
  | cons x r ih => exact ih (Nat.mul_pos h (Nat.succ_pos _))

/-- A nest has an element. -/
theorem nestTotal_pos (w : NestWord) : 0 < nestTotal w := foldl_levelCount_pos w.lv Nat.one_pos

/-- An element draws for its operand A at least. -/
theorem nestDraw_pos (w : NestWord) : 0 < nestDraw w := by
  have hpart : 0 < if w.as = true then 2 else 4 := by split <;> decide
  simp only [nestDraw]
  omega

/-! ### The checks (R160) -/

@[simp] theorem nestCheck_drawn (base : Word) (o : Opnd) (j : Nat) :
    (drawn s t n).nestCheck w base o j = t.nestCheck w base o j := by
  simp [Task.nestCheck, Task.cellOk]

@[simp] theorem nestBase_drawn (o : Opnd) : (drawn s t n).nestBase w o = t.nestBase w o := by
  cases o <;> simp [Task.nestBase]

/-- The issue draw changes nothing that the checks look at. -/
@[simp] theorem nestChecks_drawn (k j : Nat) : (drawn s t n).nestChecks w k j = t.nestChecks w k j := by
  induction k generalizing j with
  | zero => rfl
  | succ k ih => simp only [Task.nestChecks, nestCheck_drawn, nestBase_drawn, ih]

/-! ### The grant (R108, R161) -/

/-- The command of a nest of `n` elements that draw `d` each, its issue draw taken. -/
def nestCmd (id : Nat) (addr : Word) (n d : Nat) : Cmd :=
  { kind := .nest id, addr := addr, issue := 4, issued := true, runs := [(n, d)], done := 0 }

theorem nestCmd_units (id : Nat) (addr : Word) : (nestCmd id addr n d).units = n := Nat.zero_add n

/-- An account that covers every element grants them all, with one debit. -/
theorem grantCmd_nestCmd_covered {id : Nat} {addr : Word} (hn : 0 < n) (hd : 0 < d) (hcover : n * d ≤ t.account) :
    s.grantCmd t (nestCmd id addr n d) = (granted s t (.nest id) [(n, d)], []) := by
  have hall : min n (t.account / d) = n := Nat.min_eq_left ((Nat.le_div_iff_mul_le hd).mpr hcover)
  have htake : takeUnits (nestCmd id addr n d).runs (nestCmd id addr n d).done t.account = (n, n * d) := by
    rw [nestCmd, takeUnits_one hd, hall]
  have hunits : Claims.unitsOf [(n, d)] = n := by simp
  have hdraw : drawOf [(n, d)] = n * d := by simp [drawOf]
  rw [grantCmd_running htake hn ((Nat.zero_add n).trans (nestCmd_units id addr).symm), granted, hunits, hdraw, if_neg hn.ne']
  rfl

/-! ### Issue (R161) -/

/-- A task that has issued a nest, numbered `id`, with no element granted yet. -/
def withNest (t : Task) (w : NestWord) (id : Nat) : Task :=
  { t.advance 32 with nests := t.nests ++
      [{ id := id, addr := t.pc, w := w, bd := t.x w.xd, ba := t.x w.xa, bb := t.x w.xb, granted := 0, ran := 0, v := 0 }] }

theorem nestBody_of_checked (hchecks : t.nestChecks w (nestTotal w) 0 = none) : State.nestBody w s t =
    (numbered s 1).grantCmd (withNest t w s.nextId) (nestCmd s.nextId t.pc (nestTotal w) (nestDraw w)) := by
  simp only [State.nestBody, hchecks]
  rfl

theorem nestBody_of_failed {c : Trap} {sub : Nat} (hchecks : t.nestChecks w (nestTotal w) 0 = some (c, sub)) :
    State.nestBody w s t = s.trapAt t c sub := by
  simp only [State.nestBody, hchecks]

theorem exec_nest_thread (h : OnThread s t 4) (hok : nestOk w = true) :
    exec (.nest w) s = .next (finish (State.nestBody w (charged s t 4) (drawn s t 4))) := by
  rw [exec, execNest, issueCmd_thread h (by simp [hok])]

theorem issueCmd_trapsAtIssue {i : Instr} {draw sub : Nat} {kind : CmdKind} {c : Trap} {pre : Task → Option (Trap × Nat)}
    {units : State → Task → List (Nat × Nat)} {thr : State → Task → State × List Job} (h : OnThread s t 0)
    (hpre : pre t = some (c, sub)) : issueCmd i draw kind pre units thr s = .next (faultedAtIssue s t c sub) := by
  obtain ⟨hcur, hfound, hready, hgate, hfree, hwait, hpaid, -⟩ := h
  simp [issueCmd, hcur, State.issueThread, hfound, hready, hgate, hfree, hwait, hpaid, hpre, State.trapAt,
    State.takeTrap_thread hfound, faultedAtIssue]

theorem drawn_account (s : State) (t : Task) (n : Nat) : (drawn s t n).account = t.account - n := State.debit_snd_account s t n

end Sys2Proof.Laws.Nests

namespace Sys2Proof.Proofs

open Sys2Proof Sys2Proof.Machine Sys2Proof.Claims Sys2Proof.Laws.Nests Sys2Proof.Laws.ChargeInstr

/-- Settles O23: the checks pass and the whole nest is granted, or one fails and traps, or its operands trap at issue. -/
theorem nestIssue : Obligations.NestIssue := by
  refine ⟨?issues, ?fails, ?illegal⟩
  case issues =>
    intro w s t h hok hchecks hcover
    rw [← nestChecks_drawn (s := s) (n := 4)] at hchecks
    have hcovers : nestTotal w * nestDraw w ≤ (withNest (drawn s t 4) w (charged s t 4).nextId).account := by
      change _ ≤ (drawn s t 4).account
      rw [drawn_account]
      omega
    rw [exec_nest_thread h hok, nestBody_of_checked hchecks,
      grantCmd_nestCmd_covered (nestTotal_pos w) (nestDraw_pos w) hcovers, finish_nil, charged_nextId]
    simp only [withNest, drawn_nests, drawn_x, drawn_pc]
  case fails =>
    intro w s t c sub h hok hchecks
    rw [← nestChecks_drawn (s := s) (n := 4)] at hchecks
    rw [exec_nest_thread h hok, nestBody_of_failed hchecks, trapAt_charged h]
  case illegal =>
    intro w s t h hbad
    rw [exec, execNest, issueCmd_trapsAtIssue h (by rw [hbad]; rfl)]

end Sys2Proof.Proofs
end

section
/-! SUPPORT. Thermal samples, throttle steps and the budget ring (R100, R103, R326, R344–R350), and O46. -/
namespace Sys2Proof.Laws.Rails

open Sys2Proof Sys2Proof.Machine Sys2Proof.Claims

variable {s : State} {x : Die} {g : Region} {d r : Nat} {temp : BitVec 16}

/-- Replacing the element at an index is the library's `set`. -/
theorem setAt_eq_set {α : Type} (l : List α) (i : Nat) (v : α) : setAt l i v = l.set i v := by
  induction l generalizing i with
  | nil => rfl
  | cons y r ih => cases i with
    | zero => rfl
    | succ i => rw [setAt, ih, List.set_cons_succ]

/-- Two changes of a die are one. -/
theorem updDie_updDie (s : State) (d : Nat) (f h : Die → Die) : (s.updDie d f).updDie d h = s.updDie d fun x => h (f x) := by
  simp only [State.updDie, modAt_modAt]

/-! ### A sample of a region (R346–R348) -/

/-- The model's damage integral is that of R346. -/
theorem damageNext_eq (n : Nat) (deg : Int) : damageNext n deg = (damage n deg).toNat := by
  rw [damageNext, damage, damageRate]
  generalize (if deg < 85 then (0 : Int) else 2 ^ ((deg - 85) / 5).toNat) = rate
  omega

/-- The model's judgement of alert is that of R347. -/
theorem judge_eq_sampled (g : Region) (temp : BitVec 16) :
    Region.judge { g with temp := temp, dmg := damageNext g.dmg (temp.toInt / 16) } = sampled g temp := by
  have hleave (n m a : Nat) : (n : Int) ≤ min (m : Int) ((a : Int) - 1) ↔ n ≤ m ∧ n < a := by omega
  simp only [Region.judge, sampled, damageNext_eq, hleave, ge_iff_le]

/-- What one sample does with a region, and whether it trips (R348). -/
theorem sample_eq (g : Region) (r : Nat) (temp : BitVec 16) : g.sample r temp =
    if 120 ≤ temp.toInt / 16 then
      ({ sampled g temp with tripped := true },
        decide (g.temp.toInt / 16 < 120) || !(g.tripped && !(sampled g temp).cool (r < 104)))
    else ({ sampled g temp with tripped := g.tripped && !(sampled g temp).cool (r < 104) }, false) := by
  rw [← judge_eq_sampled]
  rfl

theorem cool_sampled (b : Bool) : (sampled g temp).cool b =
    !(decide (105 ≤ temp.toInt / 16) || (b && (sampled g temp).inAlert)) := by
  have hdeg : (sampled g temp).degrees = temp.toInt / 16 := rfl
  by_cases hhot : 105 ≤ temp.toInt / 16
  · simp [Region.cool, hdeg, hhot]
  · simp [Region.cool, hdeg, hhot, not_le.mp hhot]

/-- A region below 120 °C keeps what an earlier trip brought until it is cool (R348). -/
theorem sample_below (h : temp.toInt / 16 < 120) : g.sample r temp =
    ({ sampled g temp with
        tripped := g.tripped && (105 ≤ temp.toInt / 16 || (r < 104 && (sampled g temp).inAlert)) }, false) := by
  rw [sample_eq, if_neg (not_le.mpr h), cool_sampled, Bool.not_not]

/-- At 120 °C no region is cool, so that it trips where it was below before or has released an earlier trip (R348). -/
theorem sample_at (h : 120 ≤ temp.toInt / 16) : g.sample r temp =
    ({ sampled g temp with tripped := true }, decide (g.temp.toInt / 16 < 120) || !g.tripped) := by
  have hhot : 105 ≤ temp.toInt / 16 := by omega
  rw [sample_eq, if_pos h, cool_sampled, decide_eq_true hhot]
  simp

theorem sample_of_reaches (h : Reaches g temp) : g.sample r temp = ({ sampled g temp with tripped := true }, true) := by
  obtain ⟨hdeg, hnew⟩ := h
  rw [sample_at hdeg]
  simpa using hnew

theorem sample_of_not_reaches (hdeg : 120 ≤ temp.toInt / 16) (h : ¬ Reaches g temp) :
    g.sample r temp = ({ sampled g temp with tripped := true }, false) := by
  rw [sample_at hdeg]
  simpa [Reaches, hdeg] using h

/-- A sample changes its region, and a trip is noted on the die and drops the cluster (R326, R348). -/
def afterSample (s : State) (d r : Nat) (p : Region × Bool) : State :=
  if p.2 = true then
    if r < 104 then (s.updDie d fun x => { x.setRegion r p.1 with trip := true }).dropCluster d r
    else s.updDie d fun x => { x.setRegion r p.1 with trip := true }
  else s.updDie d fun x => x.setRegion r p.1

theorem exec_thermalSample (hdie : s.die? d = some x) (hr : r < 107) (hg : x.regions[r]? = some g) :
    exec (.thermalSample d r temp) s = .next (afterSample s d r (g.sample r temp)) := by
  have hregion : x.region r = g := by simp [Die.region, List.getD, hg]
  rw [exec, execThermalSample, State.onDie_some hdie]
  simp only [hregion, ge_iff_le, if_neg (not_le.mpr hr), updDie_updDie, afterSample]
  split
  · rw [finish_nil]
  · rw [finish_nil]

theorem setRegion_eq (x : Die) (r : Nat) (g : Region) : x.setRegion r g = { x with regions := x.regions.set r g } := by
  rw [Die.setRegion, setAt_eq_set]

/-- A trip discards the one task that has a member on the cluster (R326). -/
theorem dropCluster_of_only {t : Task} (htasks : s.tasks = [t]) (hdie : t.die = d) (hmem : ∃ m ∈ t.members, m.cluster = r) :
    s.dropCluster d r = s.requeue t t.rerun false false := by
  have hfound : s.task? t.handle = some t := by simp [State.task?, htasks]
  have hon : [t].filter (fun t => t.die == d && t.members.any fun m => m.cluster == r) = [t] :=
    List.filter_cons_of_pos (by simpa [hdie] using hmem)
  rw [State.dropCluster, htasks, hon, List.foldl_cons, List.foldl_nil]
  simp only [hfound, State.preemptDiscard]

/-! ### Throttle steps (R349) -/

theorem exec_throttleSetOne {v : BitVec 3} (hdie : s.die? d = some x) (hsel : x.thermSel.toNat < 104) :
    exec (.throttleSetOne d v) s = .next (s.updDie d fun x => { x with steps := setAt x.steps x.thermSel.toNat v }) := by
  rw [exec, execThrottleSetOne, State.onDie_some hdie, finish_nil]
  exact congrArg Host.Outcome.next (updDie_congr hdie (if_pos hsel))

theorem exec_throttleSetAll {v : BitVec 3} (hdie : s.die? d = some x) :
    exec (.throttleSetAll d v) s = .next (s.updDie d fun _ => x.stepAll v) := by
  rw [exec, execThrottleSetAll, State.onDie_some hdie, finish_nil]
  exact congrArg Host.Outcome.next (updDie_congr hdie rfl)

theorem stepAll_steps {v : BitVec 3} {c : Nat} (hc : c < 104) :
    (x.stepAll v).steps[c]? = some (if x.has c then v else x.steps.getD c 0) := by
  simp [Die.stepAll, hc]

/-! ### One microsecond (R111, R114, R319, R350; log entry 7) -/

/-- Sampling the heads of the queues changes dies alone. -/
theorem foldl_sampleHeads_frame (l : List Nat) (s : State) : ∃ ds, l.foldl State.sampleHeads s = { s with dies := ds } := by
  induction l generalizing s with
  | nil => exact ⟨s.dies, rfl⟩
  | cons k l ih =>
    obtain ⟨ds, h⟩ := ih (s.sampleHeads k)
    exact ⟨ds, h⟩

theorem tick_frame (s : State) : ∃ ds, s.tick = { s with now := s.now + 1, tasks := s.tasks.map s.tickTask, dies := ds } :=
  foldl_sampleHeads_frame _ _

theorem tickTask_eq (s : State) (t : Task) : s.tickTask t = { t with
    holdLeft := if t.gate = .hold ∧ t.frozen = [] then t.holdLeft - 1000 else t.holdLeft
    hangCount := if s.countsHang t = true then t.hangCount + 1 else t.hangCount } := by
  simp [State.tickTask]

theorem die_preBusy_of_all (h : ∀ x ∈ s.dies, x.preBusy = none) (d : Nat) : (s.die d).preBusy = none := by
  unfold State.die
  rw [List.getD_eq_getElem?_getD]
  cases hdie : s.dies[d]? with
  | none => rfl
  | some x => exact h x (List.mem_of_getElem? hdie)

theorem preemptGoOn_of_idle (h : (s.die d).preBusy = none) : s.preemptGoOn d = s := by
  simp [State.preemptGoOn, h]

theorem foldl_preemptGoOn_of_idle (h : ∀ d, (s.die d).preBusy = none) (l : List Nat) : l.foldl State.preemptGoOn s = s := by
  induction l with
  | nil => rfl
  | cons d l ih => rw [List.foldl_cons, preemptGoOn_of_idle (h d), ih]

/-- Where no Save waits and no suspension is under way, nothing goes on. -/
theorem tidy_of_idle (hpre : ∀ x ∈ s.dies, x.preBusy = none) (hsusp : s.susp ≠ .suspending) : s.tidy = s := by
  rw [State.tidy, foldl_preemptGoOn_of_idle (die_preBusy_of_all hpre), State.suspendGoOn, if_pos (by simpa using hsusp)]

/-! ### The token of the ring (R103, R344; log entry 40) -/

theorem ringPass_nil (want : Die → Nat) (token : Nat) : ringPass want [] token = ([], token) := rfl

/-- The token passes one die, and what it still carries passes the others. -/
theorem ringPass_cons (want : Die → Nat) (x : Die) (l : List Die) (token : Nat) : ringPass want (x :: l) token =
    ({ x with budget := x.budget + takes x.budget (want x) token } ::
        (ringPass want l (token - takes x.budget (want x) token)).1,
      (ringPass want l (token - takes x.budget (want x) token)).2) := rfl

theorem ringTurn_eq (s : State) : s.ringTurn = { s with dies := (ringPass s.unmet
    (ringPass (fun x => x.allot.toNat * 2 ^ 20) s.dies (s.pkgLimit.toNat * 2 ^ 20)).1
    (ringPass (fun x => x.allot.toNat * 2 ^ 20) s.dies (s.pkgLimit.toNat * 2 ^ 20)).2).1 } := rfl

/-! ### The oldest record that waits for funding (R344) -/

/-- The model's test of a record that waits for funding. -/
def waitsForFunds (s : State) (x : Die) (q : QRec) : Bool :=
  (s.imageOf q).isNone && (s.recordBad q.crec).isNone && x.budget < q.crec.grains

theorem waitsForFunds_iff {q : QRec} : waitsForFunds s x q = true ↔ Unfunded s x q := by
  simp [waitsForFunds, Unfunded, and_assoc]

/-- A fold that keeps the smaller of two, and of equals the earlier, is the library's `argmin`. -/
theorem foldl_eq_argmin {α : Type} {f : α → Nat} {step : Option α → α → Option α}
    (hstep : ∀ b a, step b a = List.argAux (fun a c => f a < f c) b a) (l : List α) : l.foldl step none = l.argmin f := by
  rw [funext₂ hstep]
  rfl

theorem unmet_eq (s : State) (x : Die) : s.unmet x =
    ((x.records.filter (waitsForFunds s x)).argmin QRec.since).elim 0 fun q => q.crec.grains - x.budget := by
  have hwaits : waitsForFunds s x = fun q =>
    (s.imageOf q).isNone && (s.recordBad q.crec).isNone && decide (x.budget < q.crec.grains) := rfl
  rw [State.unmet, foldl_eq_argmin (f := QRec.since), hwaits]
  case hstep => exact fun b q => by cases b <;> rfl
  cases List.argmin QRec.since _ <;> rfl

/-- What is smaller than all before it, and not larger than any after it, is the smallest. -/
theorem argmin_of_first {α : Type} {f : α → Nat} {l r : List α} {a : α} (hl : ∀ b ∈ l, f a < f b) (hr : ∀ b ∈ r, f a ≤ f b) :
    (l ++ a :: r).argmin f = some a := by
  induction l with
  | nil =>
    rw [List.nil_append, List.argmin_cons]
    cases hmin : r.argmin f with
    | none => rfl
    | some b => exact if_neg (not_lt.mpr (hr b (List.argmin_mem hmin)))
  | cons b l ih =>
    rw [List.cons_append, List.argmin_cons, ih fun c hc => hl c (List.mem_cons_of_mem _ hc)]
    exact if_pos (hl b List.mem_cons_self)

theorem unmet_of_none (h : ∀ q ∈ x.records, ¬ Unfunded s x q) : s.unmet x = 0 := by
  have hnone : x.records.filter (waitsForFunds s x) = [] :=
    List.filter_eq_nil_iff.mpr fun q hq => fun hwaits => h q hq (waitsForFunds_iff.mp hwaits)
  rw [unmet_eq, hnone]
  rfl

theorem unmet_of_oldest {l m : List QRec} {q : QRec} (hrecords : x.records = l ++ q :: m) (hq : Unfunded s x q)
    (hl : ∀ p ∈ l, Unfunded s x p → q.since < p.since) (hm : ∀ p ∈ m, Unfunded s x p → q.since ≤ p.since) :
    s.unmet x = q.crec.grains - x.budget := by
  have hbefore : ∀ p ∈ l.filter (waitsForFunds s x), q.since < p.since := fun p hp =>
    hl p (List.mem_filter.mp hp).1 (waitsForFunds_iff.mp (List.mem_filter.mp hp).2)
  have hafter : ∀ p ∈ m.filter (waitsForFunds s x), q.since ≤ p.since := fun p hp =>
    hm p (List.mem_filter.mp hp).1 (waitsForFunds_iff.mp (List.mem_filter.mp hp).2)
  rw [unmet_eq, hrecords, List.filter_append, List.filter_cons_of_pos (waitsForFunds_iff.mpr hq), argmin_of_first hbefore hafter]
  rfl

end Sys2Proof.Laws.Rails

namespace Sys2Proof.Proofs

open Sys2Proof Sys2Proof.Machine Sys2Proof.Claims Sys2Proof.Laws.Rails

/-- Settles O46, a step at a time: the sample, the cluster that trips, the throttle, the timer, the turn of the ring. -/
theorem railSteps : Obligations.RailSteps := by
  refine ⟨?sample, ?drop, ?scratch, ?one, ?all, ?timer, ?microsecond, ?ring, ?unmet⟩
  case sample =>
    intro s d x r temp g hdie hr hg
    refine ⟨fun hdeg => ?below, fun hdeg hno => ?stays, fun hreach u hu => ⟨fun hcluster => ?cluster, fun hother => ?other⟩⟩
    case below =>
      rw [exec_thermalSample hdie hr hg, sample_below hdeg]
      simp only [afterSample, setRegion_eq, Bool.false_eq_true, if_false]
    case stays =>
      rw [exec_thermalSample hdie hr hg, sample_of_not_reaches hdeg hno]
      simp only [afterSample, setRegion_eq, Bool.false_eq_true, if_false]
    case cluster =>
      rw [exec_thermalSample hdie hr hg, sample_of_reaches hreach, hu]
      simp only [afterSample, setRegion_eq, if_true, if_pos hcluster]
    case other =>
      rw [exec_thermalSample hdie hr hg, sample_of_reaches hreach, hu]
      simp only [afterSample, setRegion_eq, if_true, if_neg (not_lt.mpr hother)]
  case drop => exact fun s d r t htasks hdie hmem => dropCluster_of_only htasks hdie hmem
  case scratch => exact State.dropCluster_scratch
  case one => exact fun s d x v hdie hsel => exec_throttleSetOne hdie hsel
  case all => exact fun s d x v hdie => ⟨x.stepAll v, exec_throttleSetAll hdie, rfl, fun c hc => stepAll_steps hc⟩
  case timer =>
    intro s d x hdie
    rw [exec, execTimerExpiry, State.onDie_some hdie, finish_nil]
  case microsecond =>
    intro s
    obtain ⟨ds, htick⟩ := tick_frame s
    refine ⟨rfl, by rw [htick], ?_, tidy_of_idle⟩
    rw [htick]
    exact List.map_congr_left fun t _ => tickTask_eq s t
  case ring =>
    intro s a b c d l n0 n1 n2 n3 m0 m1 m2 m3 hdies hl h0 h1 h2 h3 h4 h5 h6 h7
    rw [ringTurn_eq, hdies]
    simp only [ringPass_nil, ringPass_cons, ← hl, ← h0, ← h1, ← h2, ← h3, ← h4, ← h5, ← h6, ← h7]
  case unmet =>
    exact fun s x => ⟨unmet_of_none, fun l q m hrecords hq hl hm => unmet_of_oldest hrecords hq hl hm⟩

end Sys2Proof.Proofs
end

section
/-! SUPPORT. What a retirement without a commit leaves of the package where a handle names one task (R103, R112, R116, R338), and
O28, which does not say that it does. -/
namespace Sys2Proof.Laws.Discarding

open Sys2Proof Sys2Proof.Machine Sys2Proof.Claims Sys2Proof.Laws.Retiring

variable {s : State} {t : Task} {x : Die} {h : Word}

/-! ### Channels and locks (R266, R268, R298) -/

/-- Where no channel is BROKEN, leaving one changes the channels alone, and none is BROKEN then. -/
theorem releaseChan_frame {c : Chan} (hs : ∀ c ∈ s.channels, c.state ≠ .broken) (hc : c.state ≠ .broken) (w r : Bool) :
    ∃ cs, s.releaseChan c h w r = { s with channels := cs } ∧ ∀ c ∈ cs, c.state ≠ .broken := by
  unfold State.releaseChan
  extract_lets c'
  have hc' : c'.state ≠ .broken := hc
  rw [if_neg (by simp [hc'])]
  refine ⟨_, rfl, fun y hy => ?_⟩
  obtain ⟨z, hz, rfl⟩ := List.mem_map.mp hy
  split
  · exact hc'
  · exact hs z hz

theorem foldl_channels_frame {α : Type} {f : State → α → State}
    (hf : ∀ s a, (∀ c ∈ s.channels, c.state ≠ .broken) →
      ∃ cs, f s a = { s with channels := cs } ∧ ∀ c ∈ cs, c.state ≠ .broken)
    (l : List α) (hs : ∀ c ∈ s.channels, c.state ≠ .broken) : ∃ cs, l.foldl f s = { s with channels := cs } := by
  induction l generalizing s with
  | nil => exact ⟨s.channels, rfl⟩
  | cons a l ih =>
    obtain ⟨cs, hstep, hcs⟩ := hf s a hs
    obtain ⟨cs', hrest⟩ := ih (s := { s with channels := cs }) hcs
    exact ⟨cs', by rw [List.foldl_cons, hstep, hrest]⟩

theorem leaveChannels_frame (hs : ∀ c ∈ s.channels, c.state ≠ .broken) :
    ∃ cs, s.leaveChannels h = { s with channels := cs } := by
  refine foldl_channels_frame (fun s c0 hs => ?_) _ hs
  split
  next => exact ⟨s.channels, rfl, hs⟩
  next c hfound =>
    have hc : (c.returnPops h).state ≠ .broken := hs c (List.mem_of_find?_eq_some hfound)
    have hput : ∀ y ∈ (s.putChan (c.returnPops h)).channels, y.state ≠ .broken := by
      intro y hy
      obtain ⟨z, hz, rfl⟩ := List.mem_map.mp hy
      split
      · exact hc
      · exact hs z hz
    obtain ⟨cs, hrelease, hcs⟩ := releaseChan_frame (h := h) hput hc true true
    exact ⟨cs, hrelease, hcs⟩

/-! ### Fault records (R316, R317) -/

theorem refillPorts_of_recorded {l : List Frozen} (hl : ∀ f ∈ l, f.record ≠ none) (done : List Frozen) :
    s.refillPorts t l done = (s, done ++ l) := by
  induction l generalizing done with
  | nil => simp [State.refillPorts]
  | cons f l ih =>
    have hf : f.record.isSome = true := Option.isSome_iff_ne_none.mpr (hl f List.mem_cons_self)
    rw [State.refillPorts, if_pos hf, ih fun f hf => hl f (List.mem_cons_of_mem _ hf), List.append_assoc, List.singleton_append]

/-- A resident task put back as it is, where its handle names it alone. -/
theorem putTask_self (hs : ∀ u ∈ s.tasks, s.task? u.handle = some u) (ht : s.task? t.handle = some t) : s.putTask t = s := by
  have hmap : s.tasks.map (fun u => if u.handle == t.handle then t else u) = s.tasks := by
    refine (List.map_congr_left fun u hu => ?_).trans (List.map_id _)
    split
    next hsame =>
      have hu := hs u hu
      rw [eq_of_beq hsame, ht] at hu
      exact Option.some.inj hu
    next => rfl
  rw [State.putTask, hmap]

/-- Where a handle names one task and no frozen port waits for a record, none is written. -/
theorem refillRing_of_recorded {d : Nat} (hs : ∀ u ∈ s.tasks, s.task? u.handle = some u)
    (hports : ∀ u ∈ s.tasks, u.handle ≠ h → u.die = d → ∀ f ∈ u.frozen, f.record ≠ none) :
    s.refillRing d (some h) = s := by
  unfold State.refillRing
  refine List.foldlRecOn (motive := fun u => u = s) _ _ rfl fun _ hkept u hu => ?_
  subst hkept
  obtain ⟨hu, hother⟩ := List.mem_filter.mp hu
  obtain ⟨hdie, hhandle⟩ : u.die = d ∧ u.handle ≠ h := by simpa using hother
  simp only [hs u hu, refillPorts_of_recorded (hports u hu hhandle hdie), List.nil_append]
  exact putTask_self hs (hs u hu)

theorem withdrawFaults_of_settled (hdie : s.die? t.die = some x) (hfaults : ∀ f ∈ x.faults, f.handle = t.handle → f.state ≠ 0)
    (hs : ∀ u ∈ s.tasks, s.task? u.handle = some u)
    (hports : ∀ u ∈ s.tasks, u.handle ≠ t.handle → u.die = t.die → ∀ f ∈ u.frozen, f.record ≠ none) :
    s.withdrawFaults t = s := by
  have hsettled : ∀ f ∈ x.faults, ¬ (f.handle == t.handle && f.state == 0) = true := fun f hf => by simpa using hfaults f hf
  have hmine : x.faults.filter (fun f => f.handle == t.handle && f.state == 0) = [] := List.filter_eq_nil_iff.mpr hsettled
  have hmap : x.faults.map (fun f => if f.handle == t.handle && f.state == 0 then { f with state := 3 } else f) = x.faults :=
    (List.map_congr_left fun f hf => if_neg (hsettled f hf)).trans (List.map_id _)
  rw [State.withdrawFaults, die_eq hdie, hmine, List.foldl_nil, updDie_same hdie (by rw [hmap])]
  exact refillRing_of_recorded hs hports

/-! ### The report and the retirement (R112, R116, R338) -/

theorem sweepPass_frame (s : State) (l : List Nat) : ∃ w b, s.sweepPass l = { s with swept := w, sweeping := b } := by
  unfold State.sweepPass
  split
  · exact ⟨s.swept, s.sweeping, rfl⟩
  · exact ⟨_, _, rfl⟩

/-- Without a report and a join cell no byte lands and no number is taken. -/
theorem landReport_frame {d : Nat} {k : Option Nat} {r : Record} {p : Report} (hreport : r.report = 0) (hjoin : r.dw2 = 0) :
    ∃ c m w b, (s.landReport d k r p h).1 = { s with rdc := c, modified := m, swept := w, sweeping := b } := by
  have hbytes : s.reportBytes d r p = (s, [], []) := if_pos hreport
  obtain ⟨w, b, hsweep⟩ := sweepPass_frame { s with
    commitSeq := s.commitSeq + 1, rdc := s.rdc.filter fun _ => true, modified := [] ++ s.modified } []
  refine ⟨s.rdc.filter fun _ => true, [] ++ s.modified, w, b, ?_⟩
  have hland : ({ s with commitSeq := s.commitSeq + 1 } : State).publish 0 [] [] = { s with
      commitSeq := s.commitSeq + 1, rdc := s.rdc.filter fun _ => true, modified := [] ++ s.modified, swept := w, sweeping := b } :=
    hsweep
  simp only [State.landReport, hbytes, hland, if_pos hjoin]
  rfl

/-- Where a handle names one task, a task without report, join cell or pending fault record ends without effect: what changes is
the channels and locks that it leaves, the budget of its die, the rows of its gang, and the bookkeeping of caches and of the sweep. -/
theorem retire_frame {e : Ending} {tr : Trap} {sf g sub addr : Nat} (hreport : t.crec.report = 0) (hjoin : t.crec.dw2 = 0)
    (hdie : s.die? t.die = some x) (hfaults : ∀ f ∈ x.faults, f.handle = t.handle → f.state ≠ 0)
    (hchannels : ∀ c ∈ s.channels, c.state ≠ .broken) (hs : ∀ u ∈ s.tasks, s.task? u.handle = some u)
    (hports : ∀ u ∈ s.tasks, u.handle ≠ t.handle → u.die = t.die → ∀ f ∈ u.frozen, f.record ≠ none) :
    ∃ cs ls os c m w b, (s.retire t e tr sf g sub addr).1 = { s.refund t.die t.unused with
      channels := cs, locks := ls, rowOwner := os, tasks := s.tasks.filter fun u => u.handle != t.handle,
      rdc := c, modified := m, swept := w, sweeping := b } := by
  obtain ⟨cs, hleave⟩ := leaveChannels_frame (h := t.handle) hchannels
  have hdiscard : s.discard t = { s with channels := cs, locks := (({ s with channels := cs } : State).unlock t.handle).locks } := by
    rw [State.discard, hleave]
    exact withdrawFaults_of_settled hdie hfaults hs hports
  obtain ⟨c, m, w, b, hland⟩ := landReport_frame (s := (((s.discard t).refund t.die t.unused).freeRows t false).dropTask t.handle)
    (d := t.die) (k := some t.lead) (h := t.handle) hreport hjoin
  exact ⟨cs, _, _, c, m, w, b, hland.trans (by rw [hdiscard]; rfl)⟩

theorem die?_refund (hdie : s.die? t.die = some x) (n : Nat) :
    (s.refund t.die n).die? t.die = some { x with budget := min (x.budget + n) (2 ^ 38) } := by
  rw [State.refund, State.die?_updDie, if_pos rfl, hdie]
  rfl

/-- O28 where a handle names one task: its hypotheses and that one give what it says. -/
theorem retire_discards_of_handles_distinct (s : State) (t : Task) (e : Ending) (tr : Trap) (sf g sub addr : Nat) (x : Die)
    (hreport : t.crec.report = 0) (hjoin : t.crec.dw2 = 0)
    (hdie : s.die? t.die = some x) (hfaults : ∀ f ∈ x.faults, f.handle = t.handle → f.state ≠ 0)
    (hchannels : ∀ c ∈ s.channels, c.state ≠ .broken)
    (hports : ∀ u ∈ s.tasks, u.handle ≠ t.handle → u.die = t.die → ∀ f ∈ u.frozen, f.record ≠ none)
    (hs : ∀ u ∈ s.tasks, s.task? u.handle = some u) :
    ∃ s' js x', s.retire t e tr sf g sub addr = (s', js) ∧ s'.task? t.handle = none ∧ (∀ a, s'.byteAt a = s.byteAt a) ∧
      s'.commitSeq = s.commitSeq ∧ s'.scratch = s.scratch ∧ s'.die? t.die = some x' ∧
      x'.budget = min (x.budget + t.account + t.skipRefund) (2 ^ 38) := by
  obtain ⟨cs, ls, os, c, m, w, b, hframe⟩ :=
    retire_frame (e := e) (tr := tr) (sf := sf) (g := g) (sub := sub) (addr := addr) hreport hjoin hdie hfaults hchannels hs hports
  have hgone : (s.retire t e tr sf g sub addr).1.task? t.handle = none := task?_retire_self
  generalize s.retire t e tr sf g sub addr = p at hframe hgone ⊢
  obtain ⟨s', js⟩ := p
  obtain rfl : s' = _ := hframe
  exact ⟨_, js, { x with budget := min (x.budget + t.unused) (2 ^ 38) }, rfl, hgone, fun _ => rfl, rfl, rfl,
    die?_refund hdie t.unused, by rw [Task.unused, Nat.add_assoc]⟩

/-- A task alone in a package meets what is asked for. -/
theorem retire_alone : ∃ s' js x', (Tests.with1 Tests.base (Tests.tsk [])).retire (Tests.tsk []) .discarded .none 0 0 0 0 = (s', js) ∧
    (∀ a, s'.byteAt a = Tests.base.byteAt a) ∧ s'.die? 0 = some x' ∧ x'.budget = 1584 := by
  obtain ⟨s', js, x', hretire, -, hbytes, -, -, hdie, hbudget⟩ :=
    retire_discards_of_handles_distinct (Tests.with1 Tests.base (Tests.tsk [])) (Tests.tsk []) .discarded .none 0 0 0 0 (Die.reset 0)
      rfl rfl rfl (fun f hf => nomatch hf) (fun c hc => nomatch hc)
      (fun u hu hother => absurd (congrArg Task.handle (List.mem_singleton.mp hu)) hother)
      fun u hu => (List.mem_singleton.mp hu) ▸ Tests.task_found _ _
  exact ⟨s', js, x', hretire, hbytes, hdie, hbudget⟩

/-! ### Two tasks under one handle -/

/-- A port of the task with handle 7 on die 1 has met a miss, and waits for its record. -/
def frozenOnDie1 : Task :=
  { Tests.tsk [] with
    handle := 7
    die := 1
    frozen := [{ kind := 1, place := 0, part := 0, va := 0x1000, counter := 0, access := 0, addr := 0, record := none }] }

/-- Its handle names a task of die 0 too. -/
def sameHandle : State := { Tests.base with tasks := [Tests.tsk [], frozenOnDie1, { Tests.tsk [] with handle := 7 }] }

/-- The retirement of a task of die 0 looks for the other one of that die, finds the one of die 1 under its handle, and writes the fault
record of its port: byte 0 of memory becomes 7, the low byte of the handle. -/
theorem sameHandle_retire_byteAt : (sameHandle.retire (Tests.tsk []) .discarded .none 0 0 0 0).1.byteAt 0 = 7 := by decide +kernel

theorem sameHandle_byteAt : sameHandle.byteAt 0 = 0 := by decide +kernel

end Sys2Proof.Laws.Discarding

namespace Sys2Proof.Proofs

open Sys2Proof Sys2Proof.Machine Sys2Proof.Claims Sys2Proof.Laws.Discarding

/-- Refutes O28, in its clause on memory: its hypothesis on frozen ports speaks of the tasks of the die, but not of one on another die
under a handle that a task of the die has too, and the retirement writes that one's fault record. Where a handle names one
task, it holds (`retire_discards_of_handles_distinct`). -/
theorem not_retireDiscards : ¬ Obligations.RetireDiscards := by
  intro hall
  have hports : ∀ u ∈ sameHandle.tasks, u.handle ≠ (Tests.tsk []).handle → u.die = (Tests.tsk []).die →
      ∀ f ∈ u.frozen, f.record ≠ none := by decide +kernel
  obtain ⟨s', js, x', hretire, -, hbytes, -⟩ := hall sameHandle (Tests.tsk []) .discarded .none 0 0 0 0 (Die.reset 0)
    rfl rfl rfl (fun f hf => nomatch hf) (fun c hc => nomatch hc) hports
  have hbyte := hbytes 0
  have hlanded := sameHandle_retire_byteAt
  rw [hretire, hbyte, sameHandle_byteAt] at hlanded
  exact absurd hlanded (by decide)

end Sys2Proof.Proofs
end

section
/-! SUPPORT. Branches and jumps on a Bureau and in a task (R141, R142, R371), and O51. -/
namespace Sys2Proof.Laws.Jumping

open Sys2Proof Sys2Proof.Machine Sys2Proof.Claims

variable {s : State} {k : Nat} {x : Die} {t : Task} {i : Instr} {a b d : Reg} {off : BitVec 12} {c : Word → Word → Bool}
  {g : Word → (Reg → Word) → Word}

/-! ### Which operation a branch or a jump runs -/

theorem bne_eq_ne : (fun u v : Word => u != v) = fun u v => decide (u ≠ v) := by
  funext u v
  exact (decide_not).symm

theorem not_slt_eq_ge : (fun u v : Word => !u.slt v) = fun u v => decide (u.toInt ≥ v.toInt) := by
  funext u v
  rw [BitVec.slt, ← decide_not]
  simp

theorem not_lt_eq_ge : (fun u v : Word => !decide (u < v)) = fun u v => decide (u.toNat ≥ v.toNat) := by
  funext u v
  rw [← decide_not]
  simp [BitVec.lt_def]

/-- The conditions of the model are those of R141. -/
theorem exec_branch (h : branch i = some (a, b, off, c)) (s : State) : exec i s = issueBranch i a b off c s := by
  unfold branch at h
  split at h <;> cases h <;> rw [exec]
  case h_1 => rfl
  case h_2 => rw [execBne, bne_eq_ne]
  case h_3 => rfl
  case h_4 => rw [execBge, not_slt_eq_ge]
  case h_5 => rfl
  case h_6 => rw [execBgeu, not_lt_eq_ge]

theorem exec_jump (h : jump i = some (d, g)) (s : State) : exec i s = issueJump i d g s := by
  unfold jump at h
  split at h <;> cases h <;> rw [exec] <;> rfl

/-! ### Where control goes -/

theorem exec_branch_bureau (hi : branch i = some (a, b, off, c)) (h : OnBureau s k x) :
    exec i s = .next (onBureau s k
      (if c (x.bureau.x a) (x.bureau.x b) then
        (if 65536 ≤ (x.bureau.pc + off.signExtend 64 * 4).toNat then
          trapped x.bureau 5 (x.bureau.pc + off.signExtend 64 * 4)
        else { x.bureau with pc := x.bureau.pc + off.signExtend 64 * 4 })
      else { x.bureau with pc := x.bureau.pc + 4 })) := by
  rw [exec_branch hi, issueBranch, issueBoth_bureau h]
  congr 1
  by_cases htaken : c (x.bureau.x a) (x.bureau.x b) = true
  · simp only [htaken, if_true, Bool.true_and, ge_iff_le, decide_eq_true_eq]
    by_cases hfar : 65536 ≤ (x.bureau.pc + off.signExtend 64 * 4).toNat
    · rw [if_pos hfar, if_pos hfar, bureau_trap h, BitVec.ofNat_toNat, BitVec.setWidth_eq]
      rfl
    · rw [if_neg hfar, if_neg hfar, finish_nil, updBureau_const h.2.1]
  · simp only [htaken, Bool.false_eq_true, if_false, Bool.false_and, finish_nil]
    rw [updBureau_const h.2.1]

theorem exec_branch_thread (hi : branch i = some (a, b, off, c)) (h : OnThread s t 1) :
    exec i s = .next ((charged s t 1).putTask
      { drawn s t 1 with
        pc := if c (t.x a) (t.x b) then t.pc + off.signExtend 64 * 4 else t.pc + 4, wait := none, paid := false }) := by
  rw [exec_branch hi, issueBranch, issueBoth_thread h rfl, finish_nil]
  simp only [drawn_x, drawn_pc]

theorem exec_jump_bureau (hi : jump i = some (d, g)) (h : OnBureau s k x) (hgood : ¬ badTarget (g x.bureau.pc x.bureau.x))
    (hnear : (g x.bureau.pc x.bureau.x).toNat < 65536) :
    exec i s = .next (onBureau s k { x.bureau.setX d (x.bureau.pc + 4) with pc := g x.bureau.pc x.bureau.x }) := by
  have haligned : (g x.bureau.pc x.bureau.x).toNat % 4 = 0 := by
    simp only [badTarget, not_or, Decidable.not_not] at hgood
    exact hgood.1
  rw [exec_jump hi, issueJump, issueBoth_bureau h]
  dsimp only
  rw [if_neg (not_not.mpr haligned), if_neg (Nat.not_le.mpr hnear), finish_nil, updBureau_const h.2.1]

theorem exec_jump_thread (hi : jump i = some (d, g)) (h : OnThread s t 1) (hgood : ¬ badTarget (g t.pc t.x)) :
    exec i s = .next ((charged s t 1).putTask
      { (drawn s t 1).setX d (t.pc + 4) with pc := g t.pc t.x, wait := none, paid := false }) := by
  have hgo : (decide ((g t.pc t.x).toNat % 4 ≠ 0) || decide ((g t.pc t.x).toNat ≥ 2 ^ 52)) = false := by
    simpa [badTarget] using hgood
  rw [exec_jump hi, issueJump, issueBoth_thread h rfl]
  simp only [drawn_x, drawn_pc, hgo, Bool.false_eq_true, if_false, finish_nil]

end Sys2Proof.Laws.Jumping

namespace Sys2Proof.Proofs

open Sys2Proof Sys2Proof.Machine Sys2Proof.Claims Sys2Proof.Laws.Jumping

/-- Settles O51, by what a branch and a jump do in either mode. -/
theorem branchesAndJumps : Obligations.BranchesAndJumps :=
  ⟨fun _ _ _ _ _ hi => ⟨fun _ _ _ h => exec_branch_bureau hi h, fun _ _ h => exec_branch_thread hi h⟩,
    fun _ _ _ hi => ⟨fun _ _ _ h hgood hnear => exec_jump_bureau hi h hgood hnear,
      fun _ _ h hgood => exec_jump_thread hi h hgood⟩⟩

end Sys2Proof.Proofs
end

section
/-! SUPPORT. What loads and stores of scratch and of global memory run, and what they leave (R143–R146), for O2, O53 and O54. -/
namespace Sys2Proof.Laws.LoadStore

open Sys2Proof Sys2Proof.Machine Sys2Proof.Claims Sys2Proof.Laws.Decoding

variable {s u : State} {k : Nat} {x : Die} {t t' : Task} {i : Instr} {sp : Space} {n size addr : Nat} {sg : Bool}
  {a d v : Reg} {off : BitVec 12} {l : List Byte}

/-! ### Which operation a load or a store runs -/

/-- The load of the model for a space. -/
def loadIn : Space → Instr → Nat → Reg → Reg → BitVec 12 → State → Out
  | .scratch => issueLds
  | .glob => issueLdg

/-- The store of the model for a space. -/
def storeIn : Space → Instr → Nat → Reg → Reg → BitVec 12 → State → Out
  | .scratch => issueSts
  | .glob => issueStg

/-- A load issues with a size code, whose bytes and sign are those of its form (R143). -/
theorem exec_load (h : loadForm i = some (sp, n, sg, d, a, off)) :
    ∃ size < 7, n = sizeBytes size ∧ sg = decide (size < 4) ∧ ∀ s, exec i s = loadIn sp i size d a off s := by
  unfold loadForm at h
  split at h <;> cases h
  case h_1 | h_8 => exact ⟨0, by decide, rfl, rfl, fun s => by rw [exec]; rfl⟩
  case h_2 | h_9 => exact ⟨1, by decide, rfl, rfl, fun s => by rw [exec]; rfl⟩
  case h_3 | h_10 => exact ⟨2, by decide, rfl, rfl, fun s => by rw [exec]; rfl⟩
  case h_4 | h_11 => exact ⟨3, by decide, rfl, rfl, fun s => by rw [exec]; rfl⟩
  case h_5 | h_12 => exact ⟨4, by decide, rfl, rfl, fun s => by rw [exec]; rfl⟩
  case h_6 | h_13 => exact ⟨5, by decide, rfl, rfl, fun s => by rw [exec]; rfl⟩
  case h_7 | h_14 => exact ⟨6, by decide, rfl, rfl, fun s => by rw [exec]; rfl⟩

/-- A store issues with a size code, whose bytes are those of its form (R143). -/
theorem exec_store (h : storeForm i = some (sp, n, v, a, off)) :
    ∃ size, n = sizeBytes size ∧ ∀ s, exec i s = storeIn sp i size v a off s := by
  unfold storeForm at h
  split at h <;> cases h
  case h_1 | h_5 => exact ⟨0, rfl, fun s => by rw [exec]; rfl⟩
  case h_2 | h_6 => exact ⟨1, rfl, fun s => by rw [exec]; rfl⟩
  case h_3 | h_7 => exact ⟨2, rfl, fun s => by rw [exec]; rfl⟩
  case h_4 | h_8 => exact ⟨3, rfl, fun s => by rw [exec]; rfl⟩

theorem effective_eq (x : Reg → Word) (a : Reg) (off : BitVec 12) : (memAddr (x a) off).toNat = effective x a off := rfl

/-! ### The bytes of a register (R143) -/

/-- A number below the width of a word, zero-extended. -/
theorem zeroExtend_ofNat {m N : Nat} (h : N < 2 ^ m) :
    (BitVec.ofNat m N).zeroExtend 64 = BitVec.ofNat 64 N := by
  apply BitVec.eq_of_toNat_eq
  simp [Nat.mod_eq_of_lt h]

/-- What a load of the model gives is what R143 says, for bytes as many as its size code names. -/
theorem extendLoad_eq_extended (hsize : size < 7) (hlen : l.length = sizeBytes size) :
    extendLoad size l = extended (sizeBytes size) (decide (size < 4)) l := by
  have hlt := ofLeBytes_lt l
  rw [hlen] at hlt
  match size, hsize with
  | 0, _ | 1, _ | 2, _ => rfl
  | 3, _ => exact (BitVec.signExtend_eq _).symm
  | 4, _ | 5, _ | 6, _ => exact (zeroExtend_ofNat hlt).symm

theorem natBytes_eq (n N : Nat) : natBytes n N = (List.range n).map fun i => BitVec.ofNat 8 (N >>> (8 * i)) := by
  induction n generalizing N with
  | zero => rfl
  | succ n ih =>
    have hshift : ∀ i, N >>> (8 * (i + 1)) = (N / 256) >>> (8 * i) := fun i => by
      rw [Nat.mul_succ, Nat.add_comm, Nat.shiftRight_add, Nat.shiftRight_eq_div_pow N 8]
    simp [natBytes, ih, List.range_succ_eq_map, hshift, Function.comp_def]

theorem lowBytes_eq_natBytes (n : Nat) (w : Word) : natBytes n w.toNat = lowBytes n w := by
  rw [natBytes_eq]
  rfl

theorem lowBytes_length (n : Nat) (w : Word) : (lowBytes n w).length = n := by simp [lowBytes]

/-! ### What a task reads and may reach -/

@[simp] theorem drawn_cellOk (m c : Nat) : (drawn s t m).cellOk c = t.cellOk c := by
  simp [Task.cellOk]

@[simp] theorem drawn_nestTouches (m : Nat) (scratch : Bool) (b len : Nat) :
    (drawn s t m).nestTouches scratch b len = t.nestTouches scratch b len := by
  simp [Task.nestTouches]

@[simp] theorem drawn_scratchAt (m c o : Nat) : (drawn s t m).scratchAt c o = t.scratchAt c o := by
  simp [Task.scratchAt, Task.member]

@[simp] theorem charged_scratchRead (m b len : Nat) : (charged s t m).scratchRead (drawn s t m) b len = s.scratchRead t b len := by
  simp [State.scratchRead]

@[simp] theorem scratchWrite_drawn (m b : Nat) : u.scratchWrite (drawn s t m) b l = u.scratchWrite t b l := by
  simp [State.scratchWrite]

/-- An access within the cells of the region, aligned to its size, traps in nothing (R144). -/
theorem scratchTrap_of_reach (hreach : scratchReach t addr) (halign : addr % n = 0) : (drawn s t 1).scratchTrap addr n = none := by
  obtain ⟨hlow, hcell, hok⟩ := hreach
  have hperm : (decide (addr ≥ 2 ^ 32) || decide (addr % 2 ^ 17 ≥ Config.scratchBytes) || !t.cellOk (addr / 2 ^ 17)) = false := by
    simp only [hok, Bool.not_true, Bool.or_false, Bool.or_eq_false_iff, decide_eq_false_iff_not, ge_iff_le, Nat.not_le]
    exact ⟨hlow, hcell⟩
  rw [Task.scratchTrap, drawn_cellOk, hperm, if_neg Bool.false_ne_true, if_neg (not_not.mpr halign)]

/-- An access of a Bureau to its private memory that is aligned and below 65,536 traps in nothing (R137, R143). -/
theorem bureauScratchTrap_of_within (halign : addr % n = 0) (hlow : addr < 65536) : bureauScratchTrap addr n = none := by
  rw [bureauScratchTrap, if_neg (not_not.mpr halign), if_neg (Nat.not_le.mpr hlow)]

/-- An access of a Bureau to an address that it reaches, aligned to its size, traps in nothing (R199, R362, R363, R371). -/
theorem bureauCheck_of_reach {store : Bool} (halign : addr % n = 0) (hreach : physReach s addr store) :
    s.bureauCheck addr n store = none := by
  obtain ⟨hhome, hwin⟩ := hreach
  rw [State.bureauCheck, if_neg (not_not.mpr halign), hhome, if_neg (by decide)]
  split
  next => rfl
  next w hw =>
    obtain ⟨hup, hwr⟩ := hwin w hw
    cases store <;> simp_all

/-! ### Scratch (R144) -/

theorem exec_scratch_load_bureau (hi : loadForm i = some (.scratch, n, sg, d, a, off)) (h : OnBureau s k x)
    (halign : effective x.bureau.x a off % n = 0) (hlow : effective x.bureau.x a off < 65536) :
    exec i s = .next (onBureau s k ((x.bureau.setX d
      (extended n sg (x.bureau.priv.read (effective x.bureau.x a off) n))).advance 4)) := by
  obtain ⟨size, hsize, rfl, rfl, hexec⟩ := exec_load hi
  rw [hexec, loadIn, issueLds, issueBoth_bureau h]
  simp only [effective_eq, bureauScratchTrap_of_within halign hlow, finish_nil]
  rw [updBureau_const h.2.1, extendLoad_eq_extended hsize (by simp [Memory.read])]

theorem exec_scratch_load_thread (hi : loadForm i = some (.scratch, n, sg, d, a, off)) (h : OnThread s t 1)
    (hreach : scratchReach t (effective t.x a off)) (halign : effective t.x a off % n = 0)
    (hnest : t.nestTouches true (effective t.x a off) n = false) :
    exec i s = .next ((charged s t 1).putTask
      (((drawn s t 1).setX d (extended n sg (s.scratchRead t (effective t.x a off) n))).advance 4)) := by
  obtain ⟨size, hsize, rfl, rfl, hexec⟩ := exec_load hi
  rw [hexec, loadIn, issueLds, issueBoth_thread h rfl]
  simp only [drawn_x, effective_eq, scratchTrap_of_reach hreach halign, drawn_nestTouches, hnest, Bool.false_eq_true, if_false,
    charged_scratchRead, finish_nil]
  rw [extendLoad_eq_extended hsize (by simp [State.scratchRead, Memory.read])]

theorem exec_scratch_store_bureau (hi : storeForm i = some (.scratch, n, v, a, off)) (h : OnBureau s k x)
    (halign : effective x.bureau.x a off % n = 0) (hlow : effective x.bureau.x a off < 65536) :
    exec i s = .next (onBureau s k { x.bureau.advance 4 with
      priv := x.bureau.priv.write (effective x.bureau.x a off) (lowBytes n (x.bureau.x v)) }) := by
  obtain ⟨size, rfl, hexec⟩ := exec_store hi
  rw [hexec, storeIn, issueSts, issueBoth_bureau h]
  simp only [effective_eq, bureauScratchTrap_of_within halign hlow, lowBytes_eq_natBytes, finish_nil]
  rw [updBureau_const h.2.1]
  rfl

theorem exec_scratch_store_thread (hi : storeForm i = some (.scratch, n, v, a, off)) (h : OnThread s t 1)
    (hreach : scratchReach t (effective t.x a off)) (halign : effective t.x a off % n = 0)
    (hnest : t.nestTouches true (effective t.x a off) n = false) :
    exec i s = .next (((charged s t 1).scratchWrite t (effective t.x a off) (lowBytes n (t.x v))).putTask
      ((drawn s t 1).advance 4)) := by
  obtain ⟨size, rfl, hexec⟩ := exec_store hi
  rw [hexec, storeIn, issueSts, issueBoth_thread h rfl]
  simp only [drawn_x, effective_eq, scratchTrap_of_reach hreach halign, drawn_nestTouches, hnest, Bool.false_eq_true, if_false,
    scratchWrite_drawn, lowBytes_eq_natBytes, finish_nil]

/-! ### Global memory (R145, R146) -/

theorem accessRange_length {m c : Nat} {kind : AccKind} {ps : List (Nat × TlbEntry)}
    (h : s.accessRange m c kind addr n = (u, .ok ps)) : ps.length = n := by
  induction n generalizing s addr ps with
  | zero => cases h; rfl
  | succ n ih =>
    rw [State.accessRange] at h
    split at h
    next => cases h
    next s1 p _ =>
      split at h
      next => cases h
      next s2 r hr => cases h; exact congrArg Nat.succ (ih hr)

theorem viewRead_length {m : Nat} (h : s.viewRead t m addr n = (u, .ok (t', l))) : l.length = n := by
  rw [State.viewRead] at h
  split at h
  next => cases h
  next s1 ps hps =>
    split at h
    next => cases h
    next => cases h; rw [List.length_map]; exact accessRange_length hps

theorem die?_touch (m b c : Nat) : (s.touch m b c).die? k = s.die? k := by
  obtain ⟨f, r, w, sl, h⟩ := s.touch_frame m b c
  rw [h]
  rfl

theorem bytesAt_touch (m b c addr n : Nat) : (s.touch m b c).bytesAt addr n = s.bytesAt addr n := by
  obtain ⟨f, r, w, sl, h⟩ := s.touch_frame m b c
  rw [h]
  rfl

theorem exec_global_load_bureau (hi : loadForm i = some (.glob, n, sg, d, a, off)) (h : OnBureau s k x)
    (halign : effective x.bureau.x a off % n = 0) (hreach : physReach s (effective x.bureau.x a off) false) :
    exec i s = .next (onBureau (s.touch k (effective x.bureau.x a off) 0) k ((x.bureau.setX d
      (extended n sg (s.bytesAt (effective x.bureau.x a off) n))).advance 4)) := by
  obtain ⟨size, hsize, rfl, rfl, hexec⟩ := exec_load hi
  rw [hexec, loadIn, issueLdg, issueBoth_bureau h]
  simp only [effective_eq, bureauCheck_of_reach halign hreach, bytesAt_touch, finish_nil]
  rw [updBureau_const ((die?_touch ..).trans h.2.1), extendLoad_eq_extended hsize (by simp [State.bytesAt])]

theorem exec_global_load_thread (hi : loadForm i = some (.glob, n, sg, d, a, off)) (h : OnThread s t 1)
    (halign : effective t.x a off % n = 0) (hlow : effective t.x a off < 2 ^ 52)
    (hnest : (charged s t 1).nestTouches (drawn s t 1) (effective t.x a off) n = false)
    (hread : (charged s t 1).viewRead (drawn s t 1) 0 (effective t.x a off) n = (u, .ok (t', l))) :
    exec i s = .next (u.putTask ((t'.setX d (extended n sg l)).advance 4)) := by
  obtain ⟨size, hsize, rfl, rfl, hexec⟩ := exec_load hi
  rw [hexec, loadIn, issueLdg, issueBoth_thread h rfl]
  simp only [drawn_x, effective_eq]
  rw [if_neg (not_not.mpr halign), if_neg (Nat.not_le.mpr hlow), hnest, if_neg Bool.false_ne_true, hread]
  simp only [finish_nil]
  rw [extendLoad_eq_extended hsize (viewRead_length hread)]

theorem exec_global_store_bureau (hi : storeForm i = some (.glob, n, v, a, off)) (h : OnBureau s k x)
    (halign : effective x.bureau.x a off % n = 0) (hreach : physReach s (effective x.bureau.x a off) true) :
    exec i s = .next (finish ((onBureau s k (x.bureau.advance 4)).landExternal []
      (atAddr (effective x.bureau.x a off) (lowBytes n (x.bureau.x v))) 0)) := by
  obtain ⟨size, rfl, hexec⟩ := exec_store hi
  rw [hexec, storeIn, issueStg, issueBoth_bureau h]
  simp only [effective_eq, bureauCheck_of_reach halign hreach, lowBytes_eq_natBytes]
  rw [updBureau_const h.2.1]

theorem exec_global_store_thread (hi : storeForm i = some (.glob, n, v, a, off)) (h : OnThread s t 1)
    (halign : effective t.x a off % n = 0) (hro : t.crec.rohint = false) (hlow : effective t.x a off < 2 ^ 52)
    (hnest : (charged s t 1).nestTouches (drawn s t 1) (effective t.x a off) n = false)
    (hwrite : (charged s t 1).viewWrite (drawn s t 1) 0 (effective t.x a off) (lowBytes n (t.x v)) = (u, .ok t')) :
    exec i s = .next (u.putTask ((spaceFound t').advance 4)) := by
  obtain ⟨size, rfl, hexec⟩ := exec_store hi
  rw [hexec, storeIn, issueStg, issueBoth_thread h rfl]
  simp only [drawn_x, drawn_crec, effective_eq, lowBytes_eq_natBytes]
  rw [if_neg (not_not.mpr halign), hro, if_neg Bool.false_ne_true, if_neg (Nat.not_le.mpr hlow), hnest, if_neg Bool.false_ne_true,
    hwrite]
  exact congrArg Host.Outcome.next (finish_nil _)

/-! ### What a translated access changes of the package: caches and TLBs (R195–R204) -/

/-- A state whose caches, TLBs and counter of free values alone differ. -/
def CachesOnly (s u : State) : Prop := ∃ f r w sl tl td,
  u = { s with fresh := f, rdc := r, cacheWaits := w, slices := sl, tlb := tl, tlbDrops := td }

theorem CachesOnly.keeps (h : CachesOnly s u) : u.mem = s.mem ∧ u.hostMem = s.hostMem ∧ u.hcw = s.hcw ∧ u.scratch = s.scratch ∧
    u.commitSeq = s.commitSeq ∧ u.dies = s.dies ∧ u.tasks = s.tasks := by
  obtain ⟨_, _, _, _, _, _, rfl⟩ := h
  exact ⟨rfl, rfl, rfl, rfl, rfl, rfl, rfl⟩

theorem CachesOnly.refl (s : State) : CachesOnly s s := ⟨_, _, _, _, _, _, rfl⟩

theorem CachesOnly.trans {s u v : State} (h : CachesOnly s u) (h' : CachesOnly u v) : CachesOnly s v := by
  obtain ⟨_, _, _, _, _, _, rfl⟩ := h
  obtain ⟨_, _, _, _, _, _, rfl⟩ := h'
  exact ⟨_, _, _, _, _, _, rfl⟩

theorem touch_cachesOnly (s : State) (m b c : Nat) : CachesOnly s (s.touch m b c) := by
  obtain ⟨f, r, w, sl, h⟩ := s.touch_frame m b c
  exact ⟨f, r, w, sl, _, _, h⟩

theorem tableEntry_cachesOnly (s : State) (m table idx : Nat) : CachesOnly s (s.tableEntry m table idx).1 := by
  unfold State.tableEntry
  dsimp only
  split
  · exact .refl s
  · split
    · exact .refl s
    · exact touch_cachesOnly ..

theorem walkLast_cachesOnly (s : State) (m ctx va table : Nat) : CachesOnly s (s.walkLast m ctx va table).1 := by
  unfold State.walkLast
  grind only [tableEntry_cachesOnly, CachesOnly.trans, CachesOnly.refl]

theorem walkFrom_cachesOnly (s : State) (m ctx va table : Nat) (levels : List (Nat × Nat × Nat × Nat)) :
    CachesOnly s (s.walkFrom m ctx va table levels).1 := by
  fun_induction State.walkFrom s m ctx va table levels <;>
    grind only [tableEntry_cachesOnly, walkLast_cachesOnly, CachesOnly.trans]

theorem ctxRead_cachesOnly (s : State) (m ctx : Nat) : CachesOnly s (s.ctxRead m ctx) := by
  unfold State.ctxRead
  split
  · exact touch_cachesOnly ..
  · exact .refl s

theorem walk_cachesOnly (s : State) (m ctx va : Nat) : CachesOnly s (s.walk m ctx va).1 := by
  unfold State.walk
  grind only [ctxRead_cachesOnly, walkFrom_cachesOnly, CachesOnly.trans, CachesOnly.refl]

theorem tlb_cachesOnly (s : State) (tl : List TlbEntry) (td : List Bool) : CachesOnly s { s with tlb := tl, tlbDrops := td } :=
  ⟨_, _, _, _, _, _, rfl⟩

theorem translate_cachesOnly (s : State) (m ctx va : Nat) : CachesOnly s (s.translate m ctx va).1 := by
  unfold State.translate
  grind only [walk_cachesOnly, tlb_cachesOnly, CachesOnly.trans, CachesOnly.refl]

theorem access_cachesOnly (s : State) (m ctx va : Nat) (kind : AccKind) : CachesOnly s (s.access m ctx va kind).1 := by
  unfold State.access
  grind only [translate_cachesOnly]

theorem accessRange_cachesOnly (s : State) (m ctx : Nat) (kind : AccKind) (va n : Nat) :
    CachesOnly s (s.accessRange m ctx kind va n).1 := by
  induction n generalizing s va with
  | zero => exact .refl s
  | succ n ih =>
    unfold State.accessRange
    grind only [access_cachesOnly, CachesOnly.trans]

/-- A committed byte depends on memory, host memory and the windows alone (R362, R363). -/
theorem byteAt_congr (hmem : u.mem = s.mem) (hhost : u.hostMem = s.hostMem) (hwin : u.hcw = s.hcw) (p : Nat) :
    u.byteAt p = s.byteAt p := by
  simp [State.byteAt, State.winOf, State.hostByte, hmem, hhost, hwin]

/-! ### What a write of a task changes of it: Cupboard and share (R130, R146) -/

/-- A task whose Cupboard, with its lines and its shares, alone differs. -/
def CupboardOnly (t u : Task) : Prop := ∃ sh cl cup io, u = { t with share := sh, cupLines := cl, cup := cup, ioLines := io }

theorem CupboardOnly.keeps (h : CupboardOnly t t') : t'.handle = t.handle ∧ t'.regs = t.regs ∧ t'.snap = t.snap ∧
    t'.snapHost = t.snapHost ∧ t'.flags = t.flags ∧ t'.tl = t.tl ∧ t'.rwin = t.rwin ∧ t'.readSet = t.readSet ∧ t'.pc = t.pc := by
  obtain ⟨_, _, _, _, rfl⟩ := h
  exact ⟨rfl, rfl, rfl, rfl, rfl, rfl, rfl, rfl, rfl⟩

theorem CupboardOnly.refl (t : Task) : CupboardOnly t t := ⟨_, _, _, _, rfl⟩

theorem CupboardOnly.trans {t u v : Task} (h : CupboardOnly t u) (h' : CupboardOnly u v) : CupboardOnly t v := by
  obtain ⟨_, _, _, _, rfl⟩ := h
  obtain ⟨_, _, _, _, rfl⟩ := h'
  exact ⟨_, _, _, _, rfl⟩

theorem growShare_cupboardOnly {m len : Nat} (h : s.growShare t m len = .ok t') : CupboardOnly t t' := by
  unfold State.growShare at h
  split at h
  · cases h
  · split at h <;> cases h
    exact ⟨_, _, _, _, rfl⟩

theorem cupLine_cupboardOnly {m line : Nat} (h : s.cupLine t m line = .ok t') : CupboardOnly t t' := by
  unfold State.cupLine at h
  split at h
  · cases h
    exact .refl t
  · split at h <;> cases h
    next hgrow => exact (growShare_cupboardOnly hgrow).trans ⟨_, _, _, _, rfl⟩

theorem cupLineAll_cupboardOnly {m : Nat} {as : List Nat} (h : s.cupLineAll t m as = .ok t') : CupboardOnly t t' := by
  induction as generalizing s t with
  | nil => cases h; exact .refl _
  | cons b r ih =>
    unfold State.cupLineAll at h
    split at h
    · cases h
    · next hline => exact (cupLine_cupboardOnly hline).trans (ih h)

theorem cupWrite_cupboardOnly {m : Nat} {ps : List (Nat × TlbEntry)} (h : s.cupWrite t m ps l = .ok t') : CupboardOnly t t' := by
  unfold State.cupWrite at h
  split at h <;> cases h
  next hlines => exact (cupLineAll_cupboardOnly hlines).trans ⟨_, _, _, _, rfl⟩

/-- A write of a task changes caches, and its Cupboard. -/
theorem viewWrite_frame {m : Nat} (h : s.viewWrite t m addr l = (u, .ok t')) : CachesOnly s u ∧ CupboardOnly t t' := by
  have hcaches := accessRange_cachesOnly s t.die t.crec.ctx .store addr l.length
  unfold State.viewWrite at h
  split at h
  · cases h
  · next hrange =>
    rw [hrange] at hcaches
    obtain ⟨rfl, hwrite⟩ := Prod.mk.inj h
    exact ⟨hcaches, cupWrite_cupboardOnly hwrite⟩

/-! ### The other tasks -/

theorem task?_congr (h : u.tasks = s.tasks) (w : Word) : u.task? w = s.task? w := by
  rw [State.task?, h]
  rfl

/-- A draw leaves every other task. -/
theorem task?_charged_other {m : Nat} {w : Word} (hw : w ≠ t.handle) : (charged s t m).task? w = s.task? w := by
  have hother : (charged s t m).task? w = (s.debit t m).1.task? w := State.task?_putTask_other (by rwa [drawn_handle])
  exact hother.trans (task?_congr (State.debit_fst_tasks ..) w)

end Sys2Proof.Laws.LoadStore

namespace Sys2Proof.Proofs

open Sys2Proof Sys2Proof.Machine Sys2Proof.Claims Sys2Proof.Laws.LoadStore

/-- Settles O53: loads of scratch and of global memory, in both modes. -/
theorem loads : Obligations.Loads :=
  ⟨fun _ _ _ _ _ _ hi => ⟨fun _ _ _ h halign hlow => exec_scratch_load_bureau hi h halign hlow,
      fun _ _ h hreach halign hnest => exec_scratch_load_thread hi h hreach halign hnest⟩,
    fun _ _ _ _ _ _ hi => ⟨fun _ _ _ h halign hreach => exec_global_load_bureau hi h halign hreach,
      fun _ _ _ _ _ h halign hlow hnest hread => exec_global_load_thread hi h halign hlow hnest hread⟩⟩

/-- Settles O54: stores to scratch and to global memory, in both modes. -/
theorem stores : Obligations.Stores :=
  ⟨fun _ _ _ _ _ hi => ⟨fun _ _ _ h halign hlow => exec_scratch_store_bureau hi h halign hlow,
      fun _ _ h hreach halign hnest => exec_scratch_store_thread hi h hreach halign hnest⟩,
    fun _ _ _ _ _ hi => ⟨fun _ _ _ h halign hreach => exec_global_store_bureau hi h halign hreach,
      fun _ _ _ _ h halign hro hlow hnest hwrite => exec_global_store_thread hi h halign hro hlow hnest hwrite⟩⟩

/-- Settles O2: the write changes caches and the task's Cupboard alone, and the draw no more of what is asked for. -/
theorem globalStoreFrame : Obligations.GlobalStoreFrame := by
  intro i n v a off s t u t' hi h halign hro hlow hnest hwrite
  obtain ⟨hcaches, hcup⟩ := viewWrite_frame hwrite
  obtain ⟨hmem, hhost, hwin, hscratch, hseq, hdies, htasks⟩ := hcaches.keeps
  obtain ⟨hhandle, hregs, hsnap, hsnapHost, hflags, htl, hrwin, hreads, hpc⟩ := hcup.keeps
  simp only [drawn_handle, drawn_regs, drawn_snap, drawn_snapHost, drawn_flags, drawn_tl, drawn_rwin, drawn_readSet, drawn_pc]
    at hhandle hregs hsnap hsnapHost hflags htl hrwin hreads hpc
  simp only [charged_mem, charged_hostMem, charged_hcw, charged_scratch, charged_commitSeq, charged_dies]
    at hmem hhost hwin hscratch hseq hdies
  have hsame : ((spaceFound t').advance 4).handle = t.handle := hhandle
  refine ⟨_, (spaceFound t').advance 4, exec_global_store_thread hi h halign hro hlow hnest hwrite, ?found, hregs, hsnap, hsnapHost,
    hflags, htl, hrwin, hreads, congrArg (· + 4) hpc, byteAt_congr hmem hhost hwin, hmem, hhost, hscratch, hseq, hdies, ?others⟩
  case found =>
    rw [← hsame]
    refine State.task?_putTask_self (u := drawn s t 1) ?_
    rw [hsame, task?_congr htasks, task_charged h.2.1]
  case others =>
    intro w hw
    rw [State.task?_putTask_other (hsame ▸ hw), task?_congr htasks, task?_charged_other hw]

end Sys2Proof.Proofs
end

section
/-! SUPPORT. The groups of instructions that only tasks have (R137), and O12. -/
namespace Sys2Proof.Laws.TaskGroups

open Sys2Proof Sys2Proof.Machine Sys2Proof.Claims Sys2Proof.Laws.Encoding

variable {s : State} {k : Nat} {x : Die} {i : Instr}

/-! ### Which instructions they are -/

/-- The majors of the atomic region, the commit-time reductions, STRM, nest, COPY, TL, TASK, CHG, CH and MX (R45). -/
def taskMajors : List Nat := [0x0B, 0x0C, 0x10, 0x11, 0x12, 0x13, 0x15, 0x16, 0x17, 0x18]

/-- The instructions of these groups. -/
def taskOnly : Instr → Bool
  | .arBegin .. | .arLdW .. | .arLdD .. | .arStW .. | .arStD .. | .arEnd
  | .redAddW .. | .redAddD .. | .redMinW .. | .redMaxW .. | .redOrW .. | .redAndW .. | .redFaddS ..
  | .cfgLoad .. | .bar | .barCfg | .arm .. | .drain .. | .strmGo .. | .strmCond .. | .nest ..
  | .tcopy .. | .tcopyDmd .. | .tcopyCancel .. | .tlWait .. | .tlRead .. | .tlAdv ..
  | .spawn .. | .spawnj .. | .done | .yield | .abort .. | .tskSelf .. | .tskTs ..
  | .chgAdd .. | .chgRead .. | .chgLow .. | .chgHold .. | .chgSelf ..
  | .chOpen .. | .chPushW .. | .chPushD .. | .chPopW .. | .chPopD .. | .chPeek .. | .chClose .. | .chStat .. | .chBind ..
  | .mxFmt .. | .mxLds .. | .mxSwap .. | .mxArm .. | .mxGroup .. | .mxCsr .. | .mxCond .. | .mxStat .. | .mxClr .. => true
  | _ => false

/-- The low 7 bits of a word that ends in a major are that major (R28). -/
theorem major_append {n : Nat} (w : BitVec n) (m : BitVec 7) : (w ++ m).toNat % 128 = m.toNat := by
  rw [BitVec.toNat_append, Nat.shiftLeft_eq, Nat.mul_comm, ← Nat.two_pow_add_eq_or_of_lt m.isLt]
  omega

@[simp] theorem major_encA (m : BitVec 7) (d a b : BitVec 5) (fn : BitVec 10) : (encA m d a b fn).toNat % 128 = m.toNat :=
  major_append ..

@[simp] theorem major_encB (m : BitVec 7) (d a : BitVec 5) (fn : BitVec 3) (imm : BitVec 12) :
    (encB m d a fn imm).toNat % 128 = m.toNat := major_append ..

@[simp] theorem major_encJ (m : BitVec 7) (d : BitVec 5) (off : BitVec 20) : (encJ m d off).toNat % 128 = m.toNat := major_append ..

/-- The major of a word tells what is asked for, where it tells it of the major that the word ends in. -/
theorem told_by_major {n : Nat} {v : BitVec n} {m : BitVec 7} {w : BitVec (n + 7)} {told : Bool} (hw : v ++ m = w)
    (hm : w.toNat % 128 ∈ taskMajors) (htold : decide (m.toNat ∈ taskMajors) = told) : told = true := by
  rw [← hw, major_append] at hm
  rw [← htold, decide_eq_true hm]

/-- The major of an instruction's first word tells whether it is of these groups. -/
theorem taskOnly_of_major {w : BitVec 32} {ws : List (BitVec 32)} (he : encode i = some (w :: ws))
    (hm : w.toNat % 128 ∈ taskMajors) : taskOnly i = true := by
  unfold encode at he
  split at he
  case h_94 => rfl -- the first word of a `nest`
  all_goals
    simp only [Option.some.injEq, List.cons.injEq, reduceCtorEq] at he
  all_goals
    exact told_by_major he.1 hm rfl

/-! ### What they do on a Bureau -/

/-- An issue that traps ILLEGAL_OP on every Bureau (R137). -/
def TrapsOnBureau (f : State → Out) : Prop :=
  ∀ s k x, OnBureau s k x → f s = .next (onBureau s k (trapped x.bureau 1 0))

theorem issueTask_trapsOnBureau (i : Instr) (draw : Nat) (pre : Task → Option (Trap × Nat))
    (thr : State → Task → State × List Job) : TrapsOnBureau (issueTask i draw pre thr) := by
  intro s k x h
  rw [issueTask, issueBoth_bureau h, bureau_trap h]
  rfl

theorem issueCmd_trapsOnBureau (i : Instr) (draw : Nat) (kind : CmdKind) (pre : Task → Option (Trap × Nat))
    (units : State → Task → List (Nat × Nat)) (thr : State → Task → State × List Job) :
    TrapsOnBureau (issueCmd i draw kind pre units thr) := by
  intro s k x h
  obtain ⟨hcur, hdie, hwaiting, hhome⟩ := h
  rw [issueCmd, hcur]
  dsimp only
  rw [State.issueBureau_runs hdie hwaiting hhome, bureau_trap ⟨hcur, hdie, hwaiting, hhome⟩]
  rfl

/-- An instruction of these groups issues as a metered command does, or as another instruction that only tasks have. -/
theorem exec_trapsOnBureau (hi : taskOnly i = true) : TrapsOnBureau (exec i) := by
  intro s k x h
  cases i
  case cfgLoad | arm | strmGo | strmCond | nest | tcopy | tcopyDmd | mxLds | mxArm | mxGroup =>
    rw [exec]
    exact issueCmd_trapsOnBureau _ _ _ _ _ _ s k x h
  case arBegin | arLdW | arLdD | arStW | arStD | arEnd | redAddW | redAddD | redMinW | redMaxW | redOrW | redAndW | redFaddS |
      bar | barCfg | drain | tcopyCancel | tlWait | tlRead | tlAdv | spawn | spawnj | done | yield | abort | tskSelf | tskTs |
      chgAdd | chgRead | chgLow | chgHold | chgSelf | chOpen | chPushW | chPushD | chPopW | chPopD | chPeek | chClose | chStat |
      chBind | mxFmt | mxSwap | mxCsr | mxCond | mxStat | mxClr =>
    rw [exec]
    exact issueTask_trapsOnBureau _ _ _ _ s k x h
  all_goals exact Bool.noConfusion hi

end Sys2Proof.Laws.TaskGroups

namespace Sys2Proof.Proofs

open Sys2Proof Sys2Proof.Machine Sys2Proof.Claims Sys2Proof.Laws.TaskGroups

/-- Settles O12: the major names the groups, and each of their instructions traps. -/
theorem taskGroupsOnBureau : Obligations.TaskGroupsOnBureau :=
  fun _ _ _ s k x he hm h => exec_trapsOnBureau (taskOnly_of_major he hm) s k x h

end Sys2Proof.Proofs
end

section
/-! SUPPORT. The releases of a thread that waits (R151, R152, R154, R211), and O35. -/
namespace Sys2Proof.Laws.Releases

open Sys2Proof Sys2Proof.Machine Sys2Proof.Claims Sys2Proof.Laws.Funding Sys2Proof.Laws.Waits
  Sys2Proof.Laws.Arms

variable {s : State} {t : Task} {i : Instr} {tl sec : BitVec 5} {b : Reg}

/-! ### A release of a thread that may go on -/

/-- Nothing of what holds a waiting thread back. -/
theorem released_guard (h : Waits s t i) : (t.gate != .running || t.threadFrozen || !t.paid) = false := by
  obtain ⟨-, hrun, hfree, hpaid, -⟩ := h
  simp [hrun, hfree, hpaid]

theorem exec_barRelease_bar (h : Waits s t .bar) : exec (.barRelease t.handle) s = .next (finish (s.barBody t)) := by
  have ⟨hfound, _, _, _, hwait⟩ := h
  rw [exec, execBarRelease, State.onTask_some hfound, released_guard h, hwait]
  rfl

theorem exec_barRelease_barCfg (h : Waits s t .barCfg) : exec (.barRelease t.handle) s = .next (finish (s.barCfgBody t)) := by
  have ⟨hfound, _, _, _, hwait⟩ := h
  rw [exec, execBarRelease, State.onTask_some hfound, released_guard h, hwait]
  rfl

theorem exec_barRelease_drain (h : Waits s t (.drain sec)) :
    exec (.barRelease t.handle) s = .next (finish (State.drainBody sec s t)) := by
  have ⟨hfound, _, _, _, hwait⟩ := h
  rw [exec, execBarRelease, State.onTask_some hfound, released_guard h, hwait]
  rfl

theorem exec_timelineWaitRelease (h : Waits s t (.tlWait tl b)) :
    exec (.timelineWaitRelease t.handle) s = .next (finish (State.tlWaitBody tl b s t)) := by
  have ⟨hfound, _, _, _, hwait⟩ := h
  rw [exec, execTimelineWaitRelease, State.onTask_some hfound, released_guard h, hwait]
  rfl

/-! ### `tl.wait` and the gate of a go -/

/-- A wait for a value that the timeline has reached completes; on tl2 that of a task without arms to fund (R107, R211). -/
theorem finish_tlWaitBody_of_reached (h : Waits s t i) (harms : tl = 2 → t.arms = [])
    (hok : t.tlWaitBad tl.toNat (t.x b).toNat = false) (hreached : (t.x b).toNat ≤ t.timeline tl.toNat) :
    finish (State.tlWaitBody tl b s t) = s.putTask (t.advance 4) := by
  obtain ⟨hfound, hrun, -, -, -⟩ := h
  by_cases htl : tl = 2
  · subst htl
    have hthere : (t.block (.tlWait 2 b)).timeline 2 ≥ (t.x b).toNat := hreached
    rw [tlWaitBody_tl2, funded_of_no_arms hfound hrun (harms rfl), waitTl2, if_pos hthere, finish_nil]
    exact putTask_putTask rfl
  · have htl' : tl.toNat ≠ 2 := fun hsame => htl (BitVec.eq_of_toNat_eq hsame)
    rw [State.tlWaitBody]
    dsimp only
    rw [hok, if_neg Bool.false_ne_true, if_neg htl', if_pos hreached, finish_nil]

theorem exec_streamGateLaunch (go : Nat) (hfound : s.task? t.handle = some t) :
    exec (.streamGateLaunch t.handle go) s = .next (s.putTask
      { t with gos := t.gos.map fun (g : Go) => if g.id = go ∧ g.launched = false then
        { g with launched := (g.gate.map fun x => decide (x.2 ≤ t.timeline x.1)).getD true } else g }) := by
  rw [exec, execStreamGateLaunch, State.onTask_some hfound, finish_nil]
  congr 3
  refine List.map_congr_left fun g _ => ?_
  cases g.gate <;> simp

end Sys2Proof.Laws.Releases

namespace Sys2Proof.Proofs

open Sys2Proof Sys2Proof.Machine Sys2Proof.Claims Sys2Proof.Laws.Waits Sys2Proof.Laws.Releases

/-- Settles O35, a wait at a time: a release runs the waiting instruction again, which completes now. -/
theorem waitReleases : Obligations.WaitReleases := by
  refine ⟨?bar, ?barCfg, ?drain, ?tlWait, ?gate⟩
  case bar =>
    intro s t h harms hmet hopen
    have ⟨hfound, hrun, _⟩ := h
    rw [exec_barRelease_bar h, finish_barBody_of_closed hfound hrun harms hmet hopen]
    rfl
  case barCfg =>
    intro s t h harms hmet hopen
    have ⟨hfound, hrun, _⟩ := h
    have hclosed := finish_barCfgBody_of_closed hfound hrun harms hmet hopen
    refine ⟨fun hstaged => ?_, fun fs hstaged hok => ?_⟩
    · rw [exec_barRelease_barCfg h, hclosed, finish_putStaged_of_none hstaged]
      rfl
    · rw [exec_barRelease_barCfg h, hclosed, finish_putStaged_of_ok hstaged hok]
      rfl
  case drain =>
    intro sec s t h hmet hopen
    rw [exec_barRelease_drain h, finish_drainBody_of_closed hmet hopen]
  case tlWait =>
    intro tl b s t h harms hok hreached
    rw [exec_timelineWaitRelease h, finish_tlWaitBody_of_reached h harms hok hreached]
  case gate => exact fun s t go hfound => exec_streamGateLaunch go hfound

end Sys2Proof.Proofs
end

section
/-! SUPPORT. What a task's reads leave, and what a command whose units the account covers is granted (R108, R145,
R289), for O24. -/
namespace Sys2Proof.Laws.Streams

open Sys2Proof Sys2Proof.Machine Sys2Proof.Claims Sys2Proof.Laws.Gate

variable {s u : State} {t t' : Task} {c : Cmd} {runs : List (Nat × Nat)} {acc n : Nat}

/-! ### Reads of a task (R145, R289) -/

/-- A task whose read set alone differs. -/
def ReadsOnly (t u : Task) : Prop := ∃ rs, u = { t with readSet := rs }

theorem ReadsOnly.refl (t : Task) : ReadsOnly t t := ⟨_, rfl⟩

theorem ReadsOnly.trans {t u v : Task} (h : ReadsOnly t u) (h' : ReadsOnly u v) : ReadsOnly t v := by
  obtain ⟨_, rfl⟩ := h
  obtain ⟨_, rfl⟩ := h'
  exact ⟨_, rfl⟩

theorem ReadsOnly.keeps (h : ReadsOnly t t') : t'.account = t.account ∧ t'.hangCount = t.hangCount ∧ t'.ready = t.ready := by
  obtain ⟨_, rfl⟩ := h
  exact ⟨rfl, rfl, rfl⟩

theorem track_readsOnly {k line : Nat} (h : t.track k line = some t') : ReadsOnly t t' := by
  unfold Task.track at h
  split at h
  · cases h
    exact .refl t
  · split at h <;> cases h
    exact ⟨_, rfl⟩

theorem trackAll_readsOnly {k : Nat} {l : List (Nat × TlbEntry)} (h : t.trackAll k l = some t') : ReadsOnly t t' := by
  induction l generalizing t with
  | nil => cases h; exact .refl t'
  | cons p r ih =>
    unfold Task.trackAll at h
    split at h
    · split at h
      · cases h
      next v hv => exact (track_readsOnly hv).trans (ih h)
    · exact ih h

theorem viewRead_readsOnly {k va : Nat} {l : List Byte} (h : s.viewRead t k va n = (u, .ok (t', l))) : ReadsOnly t t' := by
  unfold State.viewRead at h
  split at h
  · cases h
  · split at h <;> cases h
    next hv => exact trackAll_readsOnly hv

theorem agRead_readsOnly {a : Ag} {va counter v : Nat} (h : s.agRead t a va n counter = .ok (u, t', v)) : ReadsOnly t t' := by
  unfold State.agRead at h
  split at h <;> cases h
  next hread => exact viewRead_readsOnly hread

theorem levelFibre_readsOnly {a : Ag} {r lo : Nat} (h : s.levelFibre t a r = .ok (u, t', lo, n)) : ReadsOnly t t' := by
  unfold State.levelFibre State.levelWord at h
  split at h
  · cases h
    exact .refl t
  · split at h
    · cases h
    next hlo =>
      split at h
      · cases h
      next hhi =>
        split at h <;> cases h
        exact (agRead_readsOnly hlo).trans (agRead_readsOnly hhi)

theorem agCount_readsOnly {a : Ag} {lo : Nat} (h : s.agCount t a = .ok (u, t', n, lo)) : ReadsOnly t t' := by
  unfold State.agCount at h
  split at h
  · cases h
    exact .refl t
  · split at h <;> cases h
    next hfibre => exact levelFibre_readsOnly hfibre
  · cases h
    exact .refl t

/-- Counting the passes of generators ahead reads, and changes nothing else of the task (log entry 49). -/
theorem agCounts_readsOnly {l : List Ag} {ags : List (Ag × Nat × Nat)} (h : s.agCounts t l = .ok (u, t', ags)) :
    ReadsOnly t t' := by
  induction l generalizing s t ags with
  | nil => cases h; exact .refl t'
  | cons a r ih =>
    unfold State.agCounts at h
    split at h
    · cases h
    next hcount =>
      split at h <;> cases h
      next hrest => exact (agCount_readsOnly hcount).trans (ih hrest)

/-- Reading the frames of an image changes nothing else of the task (R150). -/
theorem scanImage_readsOnly {a : Nat} {fs gs : List (BitVec 256)} {e : LoadEnd} (h : State.scanImage a n s t fs = (u, t', gs, e)) :
    ReadsOnly t t' := by
  induction n generalizing s t fs with
  | zero => cases h; exact .refl _
  | succ n ih =>
    unfold State.scanImage at h
    split at h
    next => cases h; exact .refl _
    next => cases h; exact .refl _
    next => cases h; exact .refl _
    next hread =>
      have hfirst := viewRead_readsOnly hread
      dsimp only at h
      split at h
      next => cases h; exact hfirst
      next =>
        split at h
        next => cases h; exact hfirst
        next =>
          split at h
          next => cases h; exact hfirst
          next => exact hfirst.trans (ih h)

/-! ### Commands that the account covers (R108) -/

theorem drawOf_cons (d : Nat) : drawOf ((n, d) :: runs) = n * d + drawOf runs := by simp [drawOf]

theorem drawOf_of_no_units (h : Claims.unitsOf runs = 0) : drawOf runs = 0 := by
  induction runs with
  | nil => rfl
  | cons r rs ih =>
    rw [unitsOf_cons] at h
    rw [drawOf_cons, ih (by omega), (by omega : r.1 = 0), Nat.zero_mul]

theorem takeUnits_of_covered (h : drawOf runs ≤ acc) : takeUnits runs 0 acc = (Claims.unitsOf runs, drawOf runs) := by
  induction runs generalizing acc with
  | nil => rfl
  | cons r rs ih =>
    obtain ⟨n, d⟩ := r
    rw [drawOf_cons] at h
    rw [drawOf_cons, unitsOf_cons, takeUnits]
    split
    next hnone =>
      obtain rfl : n = 0 := Nat.le_zero.mp hnone
      simpa using ih (by omega : drawOf rs ≤ acc)
    next =>
      have hall : (if d = 0 then n else min n (acc / d)) = n := by
        split
        next => rfl
        next hd => exact Nat.min_eq_left ((Nat.le_div_iff_mul_le (Nat.pos_of_ne_zero hd)).mpr (by omega))
      dsimp only
      rw [Nat.sub_zero, hall, if_neg (Nat.lt_irrefl n), ih (by omega)]

theorem units_eq_unitsOf (c : Cmd) : c.units = Claims.unitsOf c.runs := by
  have hsum : ∀ k, c.runs.foldl (fun n r => n + r.1) k = k + Claims.unitsOf c.runs := by
    induction c.runs with
    | nil => exact fun k => rfl
    | cons r rs ih => intro k; rw [List.foldl_cons, ih, unitsOf_cons, Nat.add_assoc]
  exact (hsum 0).trans (Nat.zero_add _)

/-- What a grant gives depends on the command's kind and on how many units were granted before, alone. -/
theorem applyGrant_congr {c' : Cmd} (hkind : c.kind = c'.kind) (hdone : c.done = c'.done) (k : Nat) :
    t.applyGrant c k = t.applyGrant c' k := by
  simp only [Task.applyGrant, hkind, hdone]

/-- A debit of nothing, for a task that has just drawn, changes nothing (R115). -/
theorem debit_zero (h : t.hangCount = 0) : s.debit t 0 = (s, t) := by
  have hquiet : (t.armed && t.crec.notice && decide (t.mark ≠ 0) && decide (t.mark < t.account) &&
      decide (t.account ≤ t.mark)) = false := by
    by_cases hmark : t.mark < t.account
    · simp [hmark, Nat.not_le.mpr hmark]
    · simp [hmark]
  have hsame : { t with account := t.account - 0, hangCount := 0 } = t := by rw [Nat.sub_zero, ← h]
  unfold State.debit
  dsimp only
  rw [Nat.sub_zero, hquiet, if_neg Bool.false_ne_true]
  exact congrArg (Prod.mk s) hsame

/-- All units of a command that has just issued are granted, where the account covers them. -/
theorem grantCmd_of_covered (hdone : c.done = 0) (hcover : drawOf c.runs ≤ t.account) (hhang : t.hangCount = 0) :
    s.grantCmd t c = (granted s t c.kind c.runs, []) := by
  have htake : takeUnits c.runs c.done t.account = (Claims.unitsOf c.runs, drawOf c.runs) := by
    rw [hdone, takeUnits_of_covered hcover]
  have hgrant := applyGrant_congr (c := c) (t := (s.debit t (drawOf c.runs)).2)
    (c' := { kind := c.kind, addr := 0, issue := 0, issued := true, runs := c.runs, done := 0 }) rfl hdone
  by_cases hnone : Claims.unitsOf c.runs = 0
  · have hall : c.done = c.units := by rw [hdone, units_eq_unitsOf, hnone]
    rw [State.grantCmd, granted, drawOf_of_no_units hnone, debit_zero hhang, if_pos hnone]
    exact if_pos hall
  · rw [grantCmd_running htake (Nat.pos_of_ne_zero hnone) (by rw [hdone, Nat.zero_add, units_eq_unitsOf]), granted, if_neg hnone,
      hgrant]

theorem drawn_hangCount (m : Nat) : (drawn s t m).hangCount = 0 := State.debit_snd_hangCount ..

theorem newId_charged (m : Nat) : (charged s t m).newId = (numbered (charged s t m) 1, s.nextId) := by
  rw [State.newId, charged_nextId, numbered]
  exact congrArg (fun k => ({ charged s t m with nextId := k + 1 }, s.nextId)) (charged_nextId ..).symm

theorem drawn_covers {m k : Nat} (h : m + k ≤ t.account) : k ≤ (drawn s t m).account := by
  have haccount : (drawn s t m).account = t.account - m := State.debit_snd_account ..
  omega

end Sys2Proof.Laws.Streams
end

section
/-! SUPPORT. `arm`, `strm.go`, `strm.cond` and `cfg.load` once their units are covered (R150, R153, R155, R156), and O24. -/
namespace Sys2Proof.Laws.Streams

open Sys2Proof Sys2Proof.Machine Sys2Proof.Claims Sys2Proof.Laws.Gate Sys2Proof.Laws.Arms Sys2Proof.Laws.Waits

variable {s u : State} {t t' : Task} {c : Cmd} {n : Nat}

/-! ### `arm` (R153) -/

theorem grantArm_of_covered (hdone : c.done = 0) (hcover : drawOf c.runs ≤ t.account) (hhang : t.hangCount = 0) :
    s.grantArm t c = (granted s t c.kind c.runs).settleTl2 t.handle := by
  rw [State.grantArm, grantCmd_of_covered hdone hcover hhang]
  rfl

theorem armBody_of_covered {sec : BitVec 5} {b : Reg} (hlow : (t.x b).toNat < 2 ^ 32) (hengines : t.sectionEngines sec.toNat ≠ [])
    (hcover : (t.x b).toNat * t.sectionDraw sec.toNat ≤ t.account) (hhang : t.hangCount = 0) :
    State.armBody sec b s t = (granted s.newId.1
      { t.advance 4 with ops2 := t.ops2 ++ [newOp s.newId.2 t.pc sec.toNat (t.x b).toNat false false] }
      (.arm s.newId.2) [((t.x b).toNat, t.sectionDraw sec.toNat)]).settleTl2 t.handle := by
  have hok : (decide ((t.x b).toNat ≥ 2 ^ 32) || (t.sectionEngines sec.toNat).isEmpty) = false := by
    rw [decide_eq_false (Nat.not_le.mpr hlow), List.isEmpty_eq_false_iff.mpr hengines, Bool.or_false]
  have hdraw : drawOf [((t.x b).toNat, t.sectionDraw sec.toNat)] ≤ t.account := by rwa [drawOf_cons]
  rw [State.armBody]
  dsimp only
  rw [hok, if_neg Bool.false_ne_true]
  exact grantArm_of_covered rfl hdraw hhang

theorem exec_arm_of_covered {sec : BitVec 5} {b : Reg} (h : OnThread s t 1) (hlow : (t.x b).toNat < 2 ^ 32)
    (hengines : (drawn s t 1).sectionEngines sec.toNat ≠ [])
    (hcover : 1 + (t.x b).toNat * (drawn s t 1).sectionDraw sec.toNat ≤ t.account) :
    exec (.arm sec b) s = .next (finish ((granted (numbered (charged s t 1) 1)
      { (drawn s t 1).advance 4 with ops2 := t.ops2 ++ [newOp s.nextId t.pc sec.toNat (t.x b).toNat false false] }
      (.arm s.nextId) [((t.x b).toNat, (drawn s t 1).sectionDraw sec.toNat)]).settleTl2 t.handle)) := by
  have hbody := armBody_of_covered (s := charged s t 1) (t := drawn s t 1) (sec := sec) (b := b) (by rwa [drawn_x]) hengines
    (by rw [drawn_x]; exact drawn_covers hcover) (drawn_hangCount 1)
  simp only [drawn_x, drawn_pc, drawn_ops2, drawn_handle, newId_charged] at hbody
  rw [exec, execArm, issueCmd_thread h rfl, hbody]

/-! ### `strm.go` and `strm.cond` (R155, R156) -/

/-- The gate of a `strm.cond`: a timeline in bits [2:0], a value above (R156). -/
theorem gate_eq (w : Word) : (wbits w 2 0, wbits w 63 3) = (w.toNat % 8, w.toNat / 8) := by
  have hlt := w.isLt
  simp only [wbits, bitsOf]
  congr 1
  · simp
  · exact Nat.mod_eq_of_lt (by omega)

/-- Both instructions issue a go; `strm.cond` holds it back by its gate. -/
theorem exec_go {i : Instr} {sec : BitVec 5} {a : Reg} {gate : Option (Nat × Nat)} (h : OnThread s t 1)
    (hi : i = .strmGo sec a ∧ gate = none ∨
      ∃ b, i = .strmCond sec a b ∧ gate = some ((t.x b).toNat % 8, (t.x b).toNat / 8)) :
    exec i s = .next (finish (State.goBody i sec (t.x a) gate (charged s t 1) (drawn s t 1))) := by
  obtain ⟨rfl, rfl⟩ | ⟨b, rfl, rfl⟩ := hi
  · rw [exec, execStrmGo, issueCmd_thread h rfl, State.strmGoBody, drawn_x]
  · rw [exec, execStrmCond, issueCmd_thread h rfl, State.strmCondBody, drawn_x, gate_eq]

/-- What a go does once the counts of its generators are read, where the account covers every wave (R106, R108). -/
theorem goBody_of_counts {i : Instr} {sec : BitVec 5} {d : Word} {gate : Option (Nat × Nat)} {ags : List (Ag × Nat × Nat)}
    (hok : t.srcBad d = false) (hcounts : State.agCounts s.newId.1 t (t.goAgs d) = .ok (u, t', ags)) (hhang : t.hangCount = 0) :
    (t'.goSources d ags = [] → State.goBody i sec d gate s t = (u.putTask (t'.advance 4), [])) ∧
    (t'.goSources d ags ≠ [] → drawOf (waveRuns ((t'.goSources d ags).map Prod.snd)) ≤ t.account →
      State.goBody i sec d gate s t = (granted u
        (({ t'.advance 4 with gos := t'.gos ++ [newGo s.newId.2 sec.toNat t gate (t'.goSources d ags)] } :
          Task).addPasses s.newId.2 d ags)
        (.go s.newId.2) (waveRuns ((t'.goSources d ags).map Prod.snd)), [])) := by
  obtain ⟨haccount, hcount, -⟩ := (agCounts_readsOnly hcounts).keeps
  unfold State.goBody
  simp only [hok, Bool.false_eq_true, if_false, hcounts]
  refine ⟨fun hnone => ?_, fun hsome hcover => ?_⟩
  · rw [hnone]
    rfl
  · rw [if_neg (by simpa using hsome)]
    have hcover' : drawOf (waveRuns ((t'.goSources d ags).map Prod.snd)) ≤ t'.account := by rwa [haccount]
    cases gate with
    | none => exact grantCmd_of_covered rfl hcover' (hcount.trans hhang)
    | some g => exact grantCmd_of_covered rfl hcover' (hcount.trans hhang)

theorem exec_go_of_counts {i : Instr} {sec : BitVec 5} {a : Reg} {gate : Option (Nat × Nat)} {ags : List (Ag × Nat × Nat)}
    (hi : i = .strmGo sec a ∧ gate = none ∨
      ∃ b, i = .strmCond sec a b ∧ gate = some ((t.x b).toNat % 8, (t.x b).toNat / 8))
    (h : OnThread s t 1) (hok : (drawn s t 1).srcBad (t.x a) = false)
    (hcounts : State.agCounts (numbered (charged s t 1) 1) (drawn s t 1) ((drawn s t 1).goAgs (t.x a)) = .ok (u, t', ags)) :
    (t'.goSources (t.x a) ags = [] → exec i s = .next (u.putTask (t'.advance 4))) ∧
    (t'.goSources (t.x a) ags ≠ [] → 1 + drawOf (waveRuns ((t'.goSources (t.x a) ags).map Prod.snd)) ≤ t.account →
      exec i s = .next (granted u
        (({ t'.advance 4 with gos := t'.gos ++ [newGo s.nextId sec.toNat t gate (t'.goSources (t.x a) ags)] } :
          Task).addPasses s.nextId (t.x a) ags)
        (.go s.nextId) (waveRuns ((t'.goSources (t.x a) ags).map Prod.snd)))) := by
  have hgo : ∀ srcs, newGo s.nextId sec.toNat (drawn s t 1) gate srcs = newGo s.nextId sec.toNat t gate srcs := fun srcs => by
    simp [newGo, Task.timeline]
  have hbody := goBody_of_counts (i := i) (sec := sec) (gate := gate) (s := charged s t 1) hok (by rw [newId_charged]; exact hcounts)
    (drawn_hangCount 1)
  simp only [newId_charged, hgo] at hbody
  obtain ⟨hnone, hsome⟩ := hbody
  rw [exec_go h hi]
  exact ⟨fun hempty => by rw [hnone hempty, finish_nil],
    fun hsrcs hcover => by rw [hsome hsrcs (drawn_covers hcover), finish_nil]⟩

/-! ### `cfg.load` (R129, R150) -/

/-- A load of which nothing is granted reads nothing. -/
theorem readGranted_of_none {k : State → Task → State × List Job} (hloading : t.loading = []) (hgrant : t.loadGrant = 0) :
    s.readGranted t k = k s t := by
  have hsame : { t with loading := [] } = t := by rw [← hloading]
  rw [State.readGranted, hloading, hgrant]
  exact congrArg (k s) hsame

/-- The granted frames are read, and they are the whole image: it is staged, and the thread is past its `cfg.load`. -/
theorem readGranted_of_whole {k : State → Task → State × List Job} {fs : List (BitVec 256)} (hready : t.ready = true)
    (hscan : State.scanImage t.loadBase (t.loadGrant - t.loading.length) s t t.loading = (u, t', fs, .whole)) :
    s.readGranted t k =
      (u.putTask ({ t' with gate := .running, cmd := none, loading := [], loadGrant := 0, staged := some fs }.advance 4), []) := by
  obtain ⟨-, -, hready'⟩ := (scanImage_readsOnly hscan).keeps
  rw [State.readGranted, hscan]
  exact if_pos (hready'.trans hready)

/-- The granted frames are read, and more are still to be granted. -/
theorem readGranted_of_more {k : State → Task → State × List Job} {fs : List (BitVec 256)}
    (hscan : State.scanImage t.loadBase (t.loadGrant - t.loading.length) s t t.loading = (u, t', fs, .more)) :
    s.readGranted t k = k u { t' with loading := fs } := by
  rw [State.readGranted, hscan]

/-- A task that loads an image of `n` frames and has been granted those that its account of `acc` covered (R108). -/
def loadGranted (t : Task) (n acc : Nat) : Task :=
  { t with
    loadGrant := min n acc, gate := if n ≤ acc then .running else .short,
    cmd := if n ≤ acc then none else some { kind := .cfgLoad, addr := t.pc, issue := 8, issued := true, runs := [(n, 1)], done := acc } }

/-- A load that begins draws the frames that the account covers, and reads them. -/
theorem loadGo_of_covered {base : Nat} (hbase : t.loadBase = base) (hready : t.ready = true) (hloading : t.loading = [])
    (hgrant : t.loadGrant = 0) (hn : n = s.framesLeft t base []) (hpos : 0 < min n t.account) :
    s.loadGo t = (s.debit t (min n t.account)).1.readGranted (loadGranted (s.debit t (min n t.account)).2 n t.account)
      fun s t => (s.putTask t, []) := by
  rw [State.loadGo, readGranted_of_none hloading hgrant]
  dsimp only
  rw [hloading, hbase, ← hn, if_neg hpos.ne']
  refine congrArg (fun v => (s.debit t (min n t.account)).1.readGranted v fun s t => (s.putTask t, [])) ?_
  rw [State.debit_snd_loadGrant, hgrant, Nat.zero_add]
  by_cases hall : n ≤ t.account
  · rw [loadGranted, if_neg (by omega), if_pos hall, if_neg (by omega), if_pos hall]
  · have hgranted : min n t.account = t.account := by omega
    have hpart : t.account < n := by omega
    have hcmd : Task.loadCmd { (s.debit t t.account).2 with loadGrant := t.account } (n - t.account) =
        { kind := .cfgLoad, addr := (s.debit t t.account).2.pc, issue := 8, issued := true, runs := [(n, 1)], done := t.account } := by
      simp [Task.loadCmd, Task.loadAddr, hready, Nat.add_sub_cancel' hpart.le]
    rw [loadGranted, hgranted, if_pos hpart, if_neg hall, if_pos hpart, if_neg hall, hcmd]

/-- A task that has issued a `cfg.load`: what it had staged is discarded (R150). -/
def beginLoad (t : Task) (a : Reg) : Task := { t.block (.cfgLoad a) with staged := none }

theorem beginLoad_fields (t : Task) (a : Reg) : (beginLoad t a).pc = t.pc ∧ (beginLoad t a).loadBase = (t.x a).toNat ∧
    (beginLoad t a).ready = t.ready ∧ (beginLoad t a).loading = t.loading ∧ (beginLoad t a).loadGrant = t.loadGrant :=
  ⟨rfl, rfl, rfl, rfl, rfl⟩

theorem cfgLoadBody_first {a : Reg} (hpaid : t.paid = false) : State.cfgLoadBody a s t = s.loadGo (beginLoad t a) := by
  rw [State.cfgLoadBody, hpaid]
  rfl

theorem exec_cfgLoad {a : Reg} (h : OnThread s t 8) (halign : (t.x a).toNat % 32 = 0) :
    exec (.cfgLoad a) s = .next (finish ((charged s t 8).loadGo (beginLoad (drawn s t 8) a))) := by
  have hpre : (if wbits (t.x a) 4 0 ≠ 0 then some (Trap.misalign, 0) else none) = none := by
    rw [if_neg]
    simpa [wbits, bitsOf] using halign
  rw [exec, execCfgLoad, issueCmd_thread h hpre, cfgLoadBody_first (paid_of_onThread h)]

theorem loadGranted_loadBase (s : State) (t : Task) (m n acc : Nat) : (loadGranted (s.debit t m).2 n acc).loadBase = t.loadBase := by
  simp [Task.loadBase, loadGranted, Task.x]

/-- What a load that begins leaves, by how its granted frames end. -/
theorem finish_loadGo_of_scan {base : Nat} {fs : List (BitVec 256)} {e : LoadEnd} (hbase : t.loadBase = base)
    (hready : t.ready = true) (hloading : t.loading = []) (hgrant : t.loadGrant = 0) (hn : n = s.framesLeft t base [])
    (hpos : 0 < min n t.account)
    (hscan : State.scanImage base (min n t.account) (s.debit t (min n t.account)).1
      (loadGranted (s.debit t (min n t.account)).2 n t.account) [] = (u, t', fs, e)) :
    (e = .whole → finish (s.loadGo t) = u.putTask
      ({ t' with gate := .running, cmd := none, loading := [], loadGrant := 0, staged := some fs }.advance 4)) ∧
    (e = .more → finish (s.loadGo t) = u.putTask { t' with loading := fs }) := by
  rw [loadGo_of_covered hbase hready hloading hgrant hn hpos]
  have hready' : (loadGranted (s.debit t (min n t.account)).2 n t.account).ready = true := (State.debit_snd_ready ..).trans hready
  have hloading' : (loadGranted (s.debit t (min n t.account)).2 n t.account).loading = [] :=
    (State.debit_snd_loading ..).trans hloading
  have hbase' := (loadGranted_loadBase s t (min n t.account) n t.account).trans hbase
  have hcount : (loadGranted (s.debit t (min n t.account)).2 n t.account).loadGrant = min n t.account := rfl
  generalize loadGranted (s.debit t (min n t.account)).2 n t.account = T at hscan hready' hloading' hbase' hcount ⊢
  have hscan' : State.scanImage T.loadBase (T.loadGrant - T.loading.length) (s.debit t (min n t.account)).1 T T.loading =
      (u, t', fs, e) := by
    rw [hbase', hcount, hloading']
    exact hscan
  refine ⟨?whole, ?more⟩
  case whole =>
    rintro rfl
    rw [readGranted_of_whole hready' hscan', finish_nil]
  case more =>
    rintro rfl
    rw [readGranted_of_more hscan', finish_nil]

theorem exec_cfgLoad_of_scan {a : Reg} {T : Task} {p : State × Task} {fs : List (BitVec 256)} {e : LoadEnd} (h : OnThread s t 8)
    (halign : (t.x a).toNat % 32 = 0) (hloading : t.loading = []) (hgrant : t.loadGrant = 0) (hT : T = beginLoad (drawn s t 8) a)
    (hn : n = (charged s t 8).framesLeft T (t.x a).toNat []) (hpos : 0 < min n T.account)
    (hp : p = (charged s t 8).debit T (min n T.account))
    (hscan : State.scanImage (t.x a).toNat (min n T.account) p.1
      { p.2 with
        loadGrant := min n T.account, gate := if n ≤ T.account then .running else .short,
        cmd := if n ≤ T.account then none else some { kind := .cfgLoad, addr := t.pc, issue := 8, issued := true,
                                                      runs := [(n, 1)], done := T.account } } [] = (u, t', fs, e)) :
    (e = .whole → exec (.cfgLoad a) s = .next (u.putTask
      ({ t' with gate := .running, cmd := none, loading := [], loadGrant := 0, staged := some fs }.advance 4))) ∧
    (e = .more → exec (.cfgLoad a) s = .next (u.putTask { t' with loading := fs })) := by
  have hfields := beginLoad_fields (drawn s t 8) a
  rw [← hT, drawn_pc, drawn_x, drawn_ready, drawn_loading, drawn_loadGrant, hloading, hgrant] at hfields
  obtain ⟨hpc, hbase, hready, hloading', hgrant'⟩ := hfields
  have ⟨_, _, hthread, _⟩ := h
  have hpc' : t.pc = p.2.pc := by rw [hp, State.debit_snd_pc, hpc]
  rw [hpc', hp] at hscan
  obtain ⟨hwhole, hmore⟩ := finish_loadGo_of_scan hbase (hready.trans hthread) hloading' hgrant' hn hpos hscan
  rw [exec_cfgLoad h halign, ← hT]
  exact ⟨fun he => congrArg _ (hwhole he), fun he => congrArg _ (hmore he)⟩

end Sys2Proof.Laws.Streams

namespace Sys2Proof.Proofs

open Sys2Proof Sys2Proof.Machine Sys2Proof.Claims Sys2Proof.Laws.Streams

/-- Settles O24, a command at a time: the load, the arm, the go. -/
theorem streamCommands : Obligations.StreamCommands := by
  refine ⟨?load, ?arm, ?go⟩
  case load =>
    exact fun a s t T n p u t' fs e h halign hloading hgrant hT hn hpos hp hscan =>
      exec_cfgLoad_of_scan h halign hloading hgrant hT hn hpos hp hscan
  case arm => exact fun sec b s t h hlow hengines hcover => exec_arm_of_covered h hlow hengines hcover
  case go => exact fun i sec a gate s t u t' ags hi h hok hcounts => exec_go_of_counts hi h hok hcounts

end Sys2Proof.Proofs
end

section
/-! SUPPORT. `tl.wait` and `tl.adv` at issue (R107, R211, R213), and O21. -/
namespace Sys2Proof.Laws.Timelines

open Sys2Proof Sys2Proof.Machine Sys2Proof.Claims Sys2Proof.Laws.Funding Sys2Proof.Laws.Waits Sys2Proof.Laws.Arms
  Sys2Proof.Laws.ChargeInstr

variable {s : State} {t u : Task} {tl : BitVec 5} {b : Reg} {m n v : Nat}

/-! ### The timelines after a draw -/

@[simp] theorem drawn_timeline : (drawn s t m).timeline n = t.timeline n := by
  simp [Task.timeline]

@[simp] theorem drawn_tlWaitBad : (drawn s t m).tlWaitBad n v = t.tlWaitBad n v := by
  simp [Task.tlWaitBad]

/-- A value that a timeline other than tl2 can never reach: one beyond the operations issued on tl0, tl1 or tl3, or beyond what tl4–tl7
count now (R211). -/
theorem tlWaitBad_of_out_of_reach (htl : n ≠ 2) (hissued : n < 4 → t.issued.getD n 0 < v) (hnow : 4 ≤ n → t.timeline n < v) :
    t.tlWaitBad n v = true := by
  rw [Task.tlWaitBad, if_neg htl]
  split
  next hlow => exact decide_eq_true (hissued hlow)
  next hhigh => exact decide_eq_true (hnow (Nat.not_lt.mp hhigh))

/-! ### `tl.wait` (R211) -/

theorem exec_tlWait (h : OnThread s t 1) :
    exec (.tlWait tl b) s = .next (finish (State.tlWaitBody tl b (charged s t 1) (drawn s t 1))) := by
  rw [exec, execTlWait, issueTask_thread h rfl]

theorem tlWaitBody_of_bad (hbad : t.tlWaitBad tl.toNat (t.x b).toNat = true) :
    State.tlWaitBody tl b s t = s.trapAt t .illegalOp 0 := by
  rw [State.tlWaitBody]
  exact if_pos hbad

/-- On a timeline other than tl2 the wait ends, or blocks the thread, by the value alone. -/
theorem tlWaitBody_of_ok (htl : tl.toNat ≠ 2) (hok : t.tlWaitBad tl.toNat (t.x b).toNat = false) :
    State.tlWaitBody tl b s t = if t.timeline tl.toNat ≥ (t.x b).toNat then (s.putTask (t.advance 4), [])
      else (s.putTask (t.block (.tlWait tl b)), []) := by
  rw [State.tlWaitBody]
  dsimp only
  rw [hok, if_neg Bool.false_ne_true, if_neg htl]

/-- On tl2 a task without arms has none to fund, and passes once the value is reached (R107). -/
theorem tlWaitBody_tl2_of_reached (hfound : s.task? t.handle = some u) (hrun : t.gate = .running) (harms : t.arms = [])
    (hreached : (t.x b).toNat ≤ t.timeline 2) : State.tlWaitBody 2 b s t = (s.putTask (t.advance 4), []) := by
  have hthere : (t.block (.tlWait 2 b)).timeline 2 ≥ (t.x b).toNat := hreached
  rw [tlWaitBody_tl2, funded_of_no_arms hfound hrun harms, waitTl2, if_pos hthere]
  exact congrArg (·, []) (putTask_putTask rfl)

/-! ### `tl.adv` (R213) -/

theorem exec_tlAdv (h : OnThread s t 1) (htl : 4 ≤ tl.toNat) :
    exec (.tlAdv tl b) s = .next (finish (
      if t.timeline tl.toNat + (t.x b).toNat ≥ 2 ^ 64 then (charged s t 1).trapAt (drawn s t 1) .illegalOp 0
      else if !t.nests.isEmpty then ((charged s t 1).putTask ((drawn s t 1).block (.tlAdv tl b)), [])
      else ((charged s t 1).putTask
        (((drawn s t 1).setTimeline tl.toNat (t.timeline tl.toNat + (t.x b).toNat)).advance 4), []))) := by
  rw [exec, execTlAdv, issueTask_thread h (if_neg (Nat.not_lt.mpr htl))]
  simp only [drawn_timeline, drawn_x, drawn_nests]

end Sys2Proof.Laws.Timelines

namespace Sys2Proof.Proofs

open Sys2Proof Sys2Proof.Machine Sys2Proof.Claims Sys2Proof.Laws.Timelines Sys2Proof.Laws.Waits Sys2Proof.Laws.ChargeInstr

/-- Settles O21: `tl.wait` by its value and its timeline, and `tl.adv` by its timeline, its sum and the task's nests. -/
theorem timelines : Obligations.Timelines := by
  refine ⟨?wait, ?wait2, ?adv, ?overflow, ?atIssue⟩
  case wait =>
    intro tl b s t h _ htl
    have htl : tl.toNat ≠ 2 := fun hsame => htl (BitVec.eq_of_toNat_eq hsame)
    have hbody := tlWaitBody_of_ok (s := charged s t 1) (t := drawn s t 1) (b := b) htl
    simp only [drawn_tlWaitBad, drawn_x, drawn_timeline] at hbody
    rw [exec_tlWait h]
    refine ⟨fun hreached hok => ?_, fun hahead hok => ?_, fun hissued hnow => ?_⟩
    · rw [hbody hok, if_pos hreached, finish_nil]
    · rw [hbody hok, if_neg (Nat.not_le.mpr hahead), finish_nil]
    · rw [tlWaitBody_of_bad (by simpa using tlWaitBad_of_out_of_reach htl hissued hnow), trapAt_charged h]
  case wait2 =>
    intro b s t h harms hreached
    rw [exec_tlWait h, tlWaitBody_tl2_of_reached (found_of_onThread h) (running_of_onThread h) (drawn_no_arms harms)
      (by simpa using hreached), finish_nil]
  case adv =>
    intro tl b s t h htl _ hsum
    rw [exec_tlAdv h htl, if_neg (Nat.not_le.mpr hsum)]
    refine ⟨fun hnone => ?_, fun hsome => ?_⟩
    · rw [hnone, if_neg (by decide), finish_nil]
    · rw [if_pos (by simpa using hsome), finish_nil]
  case overflow =>
    intro tl b s t h htl hsum
    rw [exec_tlAdv h htl, if_pos hsum, trapAt_charged h]
  case atIssue =>
    intro tl b s t h htl
    rw [exec, execTlAdv, issueTask, issueBoth_trapsAtIssue h (if_pos htl)]

end Sys2Proof.Proofs
end

section
/-! SUPPORT. `mx.lds`, `mx.arm` and `mx.group` once their units are covered (R209, R252, R254, R256, R257), and O30. -/
namespace Sys2Proof.Laws.Matrix

open Sys2Proof Sys2Proof.Machine Sys2Proof.Claims Sys2Proof.Laws.Arms Sys2Proof.Laws.Waits Sys2Proof.Laws.Streams

variable {s u : State} {t t' : Task} {a b : Reg} {sec : BitVec 5} {e : Engine} {xa xb r : Word} {gs : List (Nat × Nat)} {m n : Nat}

/-! ### The engine that an operand names (R252) -/

theorem wbits_engine (w : Word) : wbits w 3 0 = w.toNat % 16 := by
  simp [wbits, bitsOf]

/-- A command whose operand passes the checks does its work on the engine it names. -/
theorem onEngine_of_named {needFmt : Bool} {f : State → Task → Engine → State × List Job} (hk : xa.toNat % 16 < t.crec.engines)
    (hreserved : xa &&& r = 0) (he : t.engine? (xa.toNat % 16) = some e) (hfmt : e.fmt ≠ none) :
    onEngine xa r needFmt f s t = f s t e := by
  have hok : t.mxBad xa r needFmt = none := by
    simp [Task.mxBad, wbits_engine, hreserved, he, hk, hfmt]
  simp only [onEngine, hok, wbits_engine, he]

/-- In a task with engines no matrix command traps at issue. -/
theorem noEngines_of_some (h : t.crec.engines ≠ 0) : noEngines t = none := if_neg h

@[simp] theorem drawn_engine? (k : Nat) : (drawn s t m).engine? k = t.engine? k := by
  simp [Task.engine?]

/-! ### `mx.lds` (R254) -/

@[simp] theorem drawn_ldsBad : (drawn s t m).ldsBad e xa xb = t.ldsBad e xa xb := by
  simp [Task.ldsBad, Task.scratchOk, Task.cellOk]

theorem ldsBody_of_covered (hok : t.ldsBad e xa xb = none) (hcover : ldsBlocks e.code * 2 ≤ t.account) (hhang : t.hangCount = 0) :
    State.ldsBody xa xb s t e = (granted s.newId.1
      ((t.putEngine (e.pushLoad s.newId.2 (.lds (xa.getLsbD 4) (wbits xa 31 8)) xb t.pc (ldsBlocks e.code))).advance 4)
      (.lds e.k s.newId.2) [(ldsBlocks e.code, 2)], []) := by
  have hdraw : drawOf [(ldsBlocks e.code, 2)] ≤ t.account := by rwa [drawOf_cons]
  simp only [State.ldsBody, hok]
  exact grantCmd_of_covered rfl hdraw hhang

theorem exec_mxLds_of_covered (h : OnThread s t 2) (hk : (t.x a).toNat % 16 < t.crec.engines)
    (hreserved : t.x a &&& 0xFFFFFFFF000000E0 = 0) (he : t.engine? ((t.x a).toNat % 16) = some e) (hfmt : e.fmt ≠ none)
    (hok : t.ldsBad e (t.x a) (t.x b) = none) (hcover : 2 + ldsBlocks e.code * 2 ≤ t.account) :
    exec (.mxLds a b) s = .next (granted (numbered (charged s t 2) 1)
      (((drawn s t 2).putEngine (e.pushLoad s.nextId (.lds ((t.x a).getLsbD 4) ((t.x a).toNat / 256 % 2 ^ 24)) (t.x b) t.pc
        (ldsBlocks e.code))).advance 4) (.lds e.k s.nextId) [(ldsBlocks e.code, 2)]) := by
  have hbody := ldsBody_of_covered (s := charged s t 2) (t := drawn s t 2) (e := e) (xa := t.x a) (xb := t.x b)
    (by simpa using hok) (drawn_covers hcover) (drawn_hangCount 2)
  have hpitch : wbits (t.x a) 31 8 = (t.x a).toNat / 256 % 2 ^ 24 := rfl
  rw [newId_charged, drawn_pc, hpitch] at hbody
  rw [exec, execMxLds, issueCmd_thread h (noEngines_of_some (by omega)), State.mxLdsBody, drawn_x,
    onEngine_of_named (by simpa using hk) hreserved (by simpa using he) hfmt, hbody, finish_nil]

/-! ### `mx.arm` (R256) -/

/-- A task whose section's engines have taken a write of their cursors. -/
def withCursors (t : Task) (sec : Nat) (row : BitVec 32) (addr : Word) : Task :=
  (t.sectionEngines sec).foldl (fun (u : Task) (e : Engine) => u.putEngine (e.pushArr (.cursor row false) addr).runCursors) t

theorem withCursors_eq (t : Task) (sec : Nat) (row : BitVec 32) (addr : Word) :
    ∃ es, withCursors t sec row addr = { t with engines := es } :=
  foldl_engines (fun _ _ => ⟨_, rfl⟩) ..

/-- The commands that write the cursors carry the address of the thread's instruction, which they leave. -/
theorem foldl_cursors_eq (l : List Engine) (row : BitVec 32) (t : Task) :
    l.foldl (fun (u : Task) (e : Engine) => u.putEngine (e.pushArr (.cursor row false) u.pc).runCursors) t =
      l.foldl (fun (u : Task) (e : Engine) => u.putEngine (e.pushArr (.cursor row false) t.pc).runCursors) t := by
  induction l generalizing t with
  | nil => rfl
  | cons e l ih => exact ih (t.putEngine (e.pushArr (.cursor row false) t.pc).runCursors)

@[simp] theorem drawn_sectionEngines : (drawn s t m).sectionEngines n = t.sectionEngines n := by
  simp [Task.sectionEngines]

@[simp] theorem drawn_sectionDraw : (drawn s t m).sectionDraw n = t.sectionDraw n := by
  simp [Task.sectionDraw]

theorem mxArmBody_of_covered (hlow : (t.x a).toNat < 2 ^ 32) (hreserved : (t.x b).toNat / 2 ^ 32 % 2 ^ 30 = 0)
    (hengines : t.sectionEngines sec.toNat ≠ []) (hmig : (t.x b).getLsbD 63 = true → t.crec.mig = true)
    (hcover : (t.x b).toNat % 2 ^ 32 * t.sectionDraw sec.toNat ≤ t.account) (hhang : t.hangCount = 0) :
    State.mxArmBody sec a b s t = (granted s.newId.1
      { (withCursors t sec.toNat ((t.x a).extractLsb' 0 32) t.pc).advance 4 with
        ops2 := t.ops2 ++ [newOp s.newId.2 t.pc sec.toNat ((t.x b).toNat % 2 ^ 32) ((t.x b).getLsbD 62) ((t.x b).getLsbD 63)] }
      (.arm s.newId.2) [((t.x b).toNat % 2 ^ 32, t.sectionDraw sec.toNat)]).settleTl2 t.handle := by
  have hxa : wbits (t.x a) 63 32 = 0 := by
    simp only [wbits, bitsOf]
    omega
  have hxb : wbits (t.x b) 61 32 = 0 := hreserved
  have hok : (decide (wbits (t.x a) 63 32 ≠ 0) || decide (wbits (t.x b) 61 32 ≠ 0) || (t.sectionEngines sec.toNat).isEmpty) = false := by
    simp [hxa, hxb, hengines]
  have hmig' : ((t.x b).getLsbD 63 && !t.crec.mig) = false := by
    cases hbit : (t.x b).getLsbD 63
    · rfl
    · simp [hmig hbit]
  have hrow : (t.x a).setWidth 32 = (t.x a).extractLsb' 0 32 := BitVec.eq_of_toNat_eq (by simp)
  have hcount : wbits (t.x b) 31 0 = (t.x b).toNat % 2 ^ 32 := by simp [wbits, bitsOf]
  have hdraw : drawOf [((t.x b).toNat % 2 ^ 32, t.sectionDraw sec.toNat)] ≤ t.account := by rwa [drawOf_cons]
  obtain ⟨es, hT⟩ := withCursors_eq t sec.toNat ((t.x a).extractLsb' 0 32) t.pc
  rw [State.mxArmBody]
  dsimp only
  rw [hok, if_neg Bool.false_ne_true, hmig', if_neg Bool.false_ne_true, hcount, hrow, foldl_cursors_eq]
  unfold withCursors at hT ⊢
  rw [hT]
  exact grantArm_of_covered rfl hdraw hhang

theorem exec_mxArm_of_covered (h : OnThread s t 1) (hany : t.crec.engines ≠ 0) (hlow : (t.x a).toNat < 2 ^ 32)
    (hreserved : (t.x b).toNat / 2 ^ 32 % 2 ^ 30 = 0) (hengines : t.sectionEngines sec.toNat ≠ [])
    (hmig : (t.x b).getLsbD 63 = true → t.crec.mig = true)
    (hcover : 1 + (t.x b).toNat % 2 ^ 32 * t.sectionDraw sec.toNat ≤ t.account) :
    exec (.mxArm sec a b) s = .next (finish ((granted (numbered (charged s t 1) 1)
      { (withCursors (drawn s t 1) sec.toNat ((t.x a).extractLsb' 0 32) t.pc).advance 4 with
        ops2 := t.ops2 ++ [newOp s.nextId t.pc sec.toNat ((t.x b).toNat % 2 ^ 32) ((t.x b).getLsbD 62) ((t.x b).getLsbD 63)] }
      (.arm s.nextId) [((t.x b).toNat % 2 ^ 32, t.sectionDraw sec.toNat)]).settleTl2 t.handle)) := by
  have hbody := mxArmBody_of_covered (s := charged s t 1) (t := drawn s t 1) (a := a) (b := b) (sec := sec)
    (by simpa using hlow) (by simpa using hreserved) (by simpa using hengines) (by simpa using hmig)
    (by simpa using drawn_covers hcover) (drawn_hangCount 1)
  simp only [drawn_x, drawn_pc, drawn_ops2, drawn_handle, drawn_sectionDraw, newId_charged] at hbody
  rw [exec, execMxArm, issueCmd_thread h (noEngines_of_some hany), hbody]

/-! ### `mx.group` (R257) -/

/-- Reading a table of groups changes nothing else of the task than its read set. -/
theorem groupTable_readsOnly {base g : Nat} (h : State.groupTable base n g s t = (u, .ok (t', gs))) : ReadsOnly t t' := by
  induction n generalizing s t g gs with
  | zero => cases h; exact .refl _
  | succ n ih =>
    unfold State.groupTable at h
    split at h
    next => cases h
    next hread =>
      split at h
      next => cases h
      next hrest => cases h; exact (viewRead_readsOnly hread).trans (ih hrest)

theorem groupBody_of_table {i : Instr} (hsec : e.sec ≠ none) (hmig : xa.getLsbD 63 = true → t.crec.mig = true)
    (halign : xb.toNat % 16 = 0) (htable : State.groupTable xb.toNat (groupCount xa) 0 s t = (u, .ok (t', gs)))
    (hcover : drawOf (groupRuns e.code gs) ≤ t.account) (hhang : t.hangCount = 0) :
    State.groupBody i xa xb s t e = (granted (numbered u gs.length)
      { t'.advance 4 with ops2 := t'.ops2 ++ groupOps e (xa.getLsbD 63) t'.pc u.nextId gs }
      (.group u.nextId gs.length) (groupRuns e.code gs)).settleTl2 t'.handle := by
  have hsec' : e.sec.isNone = false := Option.isNone_eq_false_iff.mpr (Option.isSome_iff_ne_none.mpr hsec)
  have hmig' : (xa.getLsbD 63 && !t.crec.mig) = false := by
    cases hbit : xa.getLsbD 63
    · rfl
    · simp [hmig hbit]
  have halign' : wbits xb 3 0 = 0 := by rw [wbits_engine, halign]
  obtain ⟨haccount, hcount, -⟩ := (groupTable_readsOnly htable).keeps
  rw [State.groupBody, hsec', if_neg Bool.false_ne_true, hmig', if_neg Bool.false_ne_true, if_neg (not_not.mpr halign'), htable]
  exact grantArm_of_covered rfl (by rwa [← haccount] at hcover) (hcount.trans hhang)

theorem exec_mxGroup_of_table (h : OnThread s t 1) (hk : (t.x a).toNat % 16 < t.crec.engines)
    (hreserved : t.x a &&& 0x7FFFFFFF0000FFF0 = 0) (he : t.engine? ((t.x a).toNat % 16) = some e) (hfmt : e.fmt ≠ none)
    (hsec : e.sec ≠ none) (hmig : (t.x a).getLsbD 63 = true → t.crec.mig = true) (halign : (t.x b).toNat % 16 = 0)
    (htable : State.groupTable (t.x b).toNat ((t.x a).toNat / 2 ^ 16 % 2 ^ 16 + 1) 0 (charged s t 1) (drawn s t 1) = (u, .ok (t', gs)))
    (hcover : 1 + drawOf (groupRuns e.code gs) ≤ t.account) :
    exec (.mxGroup a b) s = .next (finish ((granted (numbered u gs.length)
      { t'.advance 4 with ops2 := t'.ops2 ++ groupOps e ((t.x a).getLsbD 63) t'.pc u.nextId gs }
      (.group u.nextId gs.length) (groupRuns e.code gs)).settleTl2 t'.handle)) := by
  rw [exec, execMxGroup, issueCmd_thread h (noEngines_of_some (by omega)), State.mxGroupBody, drawn_x,
    onEngine_of_named (by simpa using hk) hreserved (by simpa using he) hfmt,
    groupBody_of_table hsec (by simpa using hmig) halign htable (drawn_covers hcover) (drawn_hangCount 1)]

end Sys2Proof.Laws.Matrix

namespace Sys2Proof.Proofs

open Sys2Proof Sys2Proof.Machine Sys2Proof.Claims Sys2Proof.Laws.Matrix

/-- Settles O30, a command at a time: the load, the arm, the table of groups. -/
theorem matrixGrants : Obligations.MatrixGrants := by
  refine ⟨?lds, ?arm, ?group⟩
  case lds => exact fun a b s t e => exec_mxLds_of_covered
  case arm =>
    rintro sec a b s t T h hany hlow hreserved hengines hmig hcover rfl
    have hexec := exec_mxArm_of_covered h hany hlow hreserved hengines hmig hcover
    rwa [withCursors, drawn_sectionEngines] at hexec
  case group => exact fun a b s t e u t' gs => exec_mxGroup_of_table

end Sys2Proof.Proofs
end

section
/-! SUPPORT. The issue of a copy (R209, R214–R217, R219), for O56. -/
namespace Sys2Proof.Laws.Copying

open Sys2Proof Sys2Proof.Machine Sys2Proof.Claims Sys2Proof.Laws.Streams Sys2Proof.Laws.Nests

variable {s u : State} {t t' : Task} {i : Instr} {tl : BitVec 5} {a : Reg} {n sub va : Nat} {dmd : Bool} {c : Trap} {d : CopyDesc}

/-- Reading a descriptor changes nothing else of the task than its read set. -/
theorem readDesc_readsOnly {r : Except Nat CopyDesc} (h : s.readDesc t va dmd = (u, .ok (t', r))) : ReadsOnly t t' := by
  unfold State.readDesc at h
  split at h
  next => cases h
  next hread =>
    split at h
    next => cases h; exact viewRead_readsOnly hread
    next =>
      dsimp only at h
      split at h <;> cases h <;> exact viewRead_readsOnly hread

/-- A copy as it is queued, before any block is granted (R209, R217). -/
def queuedCopy (t : Task) (n id : Nat) (d : CopyDesc) : Copy :=
  { id := id, n := n, num := t.issued.getD n 0 + 1, addr := t.pc, d := d, granted := 0, ran := 0, running := false,
    cancelled := false, finished := false, rest := [] }

/-- A task past a copy that it has issued under number `id`. -/
def withCopy (t : Task) (n id : Nat) (d : CopyDesc) : Task :=
  { t.advance 4 with issued := setAt t.issued n (t.issued.getD n 0 + 1), copies := t.copies ++ [queuedCopy t n id d] }

theorem copyBody_of_checked (hread : s.readDesc t (t.x a).toNat dmd = (u, .ok (t', .ok d))) (hok : t'.copyBad n d = none)
    (hcover : d.blocks * 2 ≤ t.account) (hhang : t.hangCount = 0) :
    State.copyBody i n a dmd s t = (granted (numbered u 1) (withCopy t' n u.nextId d) (.copy u.nextId) [(d.blocks, 2)], []) := by
  obtain ⟨haccount, hcount, -⟩ := (readDesc_readsOnly hread).keeps
  have hdraw : drawOf [(d.blocks, 2)] ≤ t'.account := by rwa [drawOf_cons, haccount]
  simp only [State.copyBody, hread, hok]
  exact grantCmd_of_covered rfl hdraw (hcount.trans hhang)

theorem copyBody_of_bad (hread : s.readDesc t (t.x a).toNat dmd = (u, .ok (t', .ok d))) (hbad : t'.copyBad n d = some (c, sub)) :
    State.copyBody i n a dmd s t = u.trapAt t' c sub := by
  simp only [State.copyBody, hread, hbad]

/-- The address of a descriptor is a multiple of 64 where its low bits are 0 (R217). -/
theorem wbits_desc (w : Word) : wbits w 5 0 = w.toNat % 64 := by
  simp [wbits, bitsOf]

/-- Both copy instructions issue alike, the one in demand mode. -/
theorem exec_copy (hi : i = .tcopy tl a ∧ dmd = false ∨ i = .tcopyDmd tl a ∧ dmd = true) :
    exec i s = issueCopy i tl.toNat a dmd s := by
  obtain ⟨rfl, rfl⟩ | ⟨rfl, rfl⟩ := hi
  · rw [exec, execTcopy]
  · rw [exec, execTcopyDmd]

theorem issueCopy_thread (h : OnThread s t 2) (halign : (t.x a).toNat % 64 = 0) :
    issueCopy i n a dmd s = .next (finish (State.copyBody i n a dmd (charged s t 2) (drawn s t 2))) := by
  rw [issueCopy, issueCmd_thread h (if_neg (by rw [wbits_desc, halign]; exact not_not.mpr rfl))]

theorem issueCopy_misaligned (h : OnThread s t 0) (halign : (t.x a).toNat % 64 ≠ 0) :
    issueCopy i n a dmd s = .next (faultedAtIssue s t .misalign 0) := by
  rw [issueCopy, issueCmd_trapsAtIssue h (if_pos (by rwa [wbits_desc]))]

theorem copyIssue : CopyIssue := by
  intro i tl a dmd hi
  refine ⟨?queued, ?bad, ?misaligned⟩
  case queued =>
    intro s t u t' d h halign hread hok hcover
    rw [exec_copy hi, issueCopy_thread h halign,
      copyBody_of_checked (by rwa [drawn_x]) hok (drawn_covers hcover) (drawn_hangCount 2), finish_nil]
    rfl
  case bad =>
    intro s t u t' d c sub h halign hread hbad
    rw [exec_copy hi, issueCopy_thread h halign, copyBody_of_bad (by rwa [drawn_x]) hbad]
  case misaligned =>
    intro s t h halign
    rw [exec_copy hi, issueCopy_misaligned h halign]

end Sys2Proof.Laws.Copying
end
section
/-! SUPPORT. Copies that `tcopy.cancel` ends or marks, and the timeline that counts them (R209, R220), and O56. -/
namespace Sys2Proof.Laws.Cancelling

open Sys2Proof Sys2Proof.Machine Sys2Proof.Claims

variable {s : State} {t u : Task} {c : Copy} {cs l : List Copy} {fr : List Frozen} {w : List (PortId × Nat × Nat)} {die n num k m : Nat}
  {p : PortId}

/-! ### Counting on a timeline (R209) -/

/-- The next number of a timeline counts: it waits no more. -/
def countNext (t : Task) (n : Nat) : Task :=
  { t with finished := t.finished.filter (· != (n, t.timeline n + 1)) }.setTimeline n (t.timeline n + 1)

theorem finish_go_succ_of_mem (h : (n, t.timeline n + 1) ∈ t.finished) :
    Task.finish.go n (k + 1) t = Task.finish.go n k (countNext t n) := by
  rw [Task.finish.go, if_pos (by simpa using h), countNext]

theorem finish_go_of_not_mem (h : (n, t.timeline n + 1) ∉ t.finished) : Task.finish.go n k t = t := by
  cases k with
  | zero => rfl
  | succ k => rw [Task.finish.go, if_neg (by simpa using h)]

/-- Counting changes the timelines and the numbers that wait to be counted, nothing else of a task. -/
theorem finish_go_frame (n k : Nat) (t : Task) : ∃ tl f, Task.finish.go n k t = { t with tl := tl, finished := f } := by
  induction k generalizing t with
  | zero => exact ⟨_, _, rfl⟩
  | succ k ih =>
    by_cases h : (n, t.timeline n + 1) ∈ t.finished
    · obtain ⟨tl, f, hgo⟩ := ih (countNext t n)
      exact ⟨tl, f, (finish_go_succ_of_mem h).trans hgo⟩
    · exact ⟨_, _, finish_go_of_not_mem h⟩

/-- Copies that end count on their timelines, one after the other. -/
def finishAll (t : Task) (l : List Copy) : Task := l.foldl (fun u c => u.finish c.n c.num) t

theorem finishAll_frame (l : List Copy) (t : Task) : ∃ tl f, finishAll t l = { t with tl := tl, finished := f } := by
  induction l generalizing t with
  | nil => exact ⟨_, _, rfl⟩
  | cons c l ih =>
    obtain ⟨tl, f, h⟩ := finish_go_frame c.n (t.finished.length + 1) { t with finished := (c.n, c.num) :: t.finished }
    obtain ⟨tl', f', h'⟩ := ih (t.finish c.n c.num)
    exact ⟨tl', f', h'.trans (by rw [Task.finish, h])⟩

/-- A task with other copies, frozen ports, and ports that wait for space. -/
def withPorts (t : Task) (cs : List Copy) (fr : List Frozen) (w : List (PortId × Nat × Nat)) : Task :=
  { t with copies := cs, frozen := fr, spaceWait := w }

theorem finish_go_withPorts (n k : Nat) (t : Task) :
    Task.finish.go n k (withPorts t cs fr w) = withPorts (Task.finish.go n k t) cs fr w := by
  induction k generalizing t with
  | zero => rfl
  | succ k ih =>
    by_cases h : (n, t.timeline n + 1) ∈ t.finished
    · have hthere : (n, (withPorts t cs fr w).timeline n + 1) ∈ (withPorts t cs fr w).finished := h
      rw [finish_go_succ_of_mem h, finish_go_succ_of_mem hthere, ← ih]
      rfl
    · have hnot : (n, (withPorts t cs fr w).timeline n + 1) ∉ (withPorts t cs fr w).finished := h
      rw [finish_go_of_not_mem h, finish_go_of_not_mem hnot]

theorem finish_withPorts : (withPorts t cs fr w).finish n num = withPorts (t.finish n num) cs fr w :=
  finish_go_withPorts n (t.finished.length + 1) { t with finished := (n, num) :: t.finished }

theorem finishAll_withPorts (l : List Copy) (t : Task) : finishAll (withPorts t cs fr w) l = withPorts (finishAll t l) cs fr w := by
  induction l generalizing t with
  | nil => rfl
  | cons c l ih =>
    have hstep : (withPorts t cs fr w).finish c.n c.num = withPorts (t.finish c.n c.num) cs fr w := finish_withPorts
    exact (congrArg (finishAll · l) hstep).trans (ih _)

/-! ### The records of frozen ports that are withdrawn (R220, R316) -/

/-- The records of the ports `fr` that are port `p` are withdrawn. -/
def withdrawAt (die : Nat) (fr : List Frozen) (u : State) (p : PortId) : State :=
  (fr.filter (portOf · = p)).foldl (fun u f => (f.record.map fun i => u.settleFault die i 3).getD u) u

/-- One port thaws, after others: what is left frozen. -/
def withdrawPort (die : Nat) (x : State × List Frozen) (p : PortId) : State × List Frozen :=
  (withdrawAt die x.2 x.1 p, x.2.filter (portOf · ≠ p))

theorem isPort_eq (f : Frozen) (p : PortId) :
    (f.kind == p.kind && f.place == p.place && f.part == p.part) = decide (portOf f = p) := by
  obtain ⟨kind, place, part⟩ := p
  simp [portOf, beq_eq_decide, Bool.and_assoc]

theorem unfreeze_eq (s : State) (t : Task) (p : PortId) : s.unfreeze t p =
    ((withdrawPort t.die (s, t.frozen) p).1, { t with frozen := (withdrawPort t.die (s, t.frozen) p).2 }) := by
  have hothers : t.frozen.filter (fun f => !(f.kind == p.kind && f.place == p.place && f.part == p.part)) =
      t.frozen.filter (portOf · ≠ p) := List.filter_congr fun f _ => by rw [isPort_eq, decide_not]
  rw [State.unfreeze, hothers]
  refine Prod.ext ?_ rfl
  simp only [isPort_eq]
  refine List.foldl_ext _ _ _ fun u f _ => ?_
  cases f.record <;> rfl

/-- Of ports that are frozen alike the first withdraws the records, and those after it find none. -/
theorem foldl_withdrawPort (ps done : List PortId) (s : State) (fr : List Frozen) :
    ps.foldl (withdrawPort die) (s, fr.filter (portOf · ∉ done)) =
      ((ps.filter (· ∉ done)).eraseDups.foldl (withdrawAt die fr) s, fr.filter (portOf · ∉ done ++ ps)) := by
  induction ps generalizing done s with
  | nil => simp
  | cons p ps ih =>
    have hleft : (fr.filter (portOf · ∉ done)).filter (portOf · ≠ p) = fr.filter (portOf · ∉ done ++ [p]) := by
      rw [List.filter_filter]
      exact List.filter_congr fun f _ => by grind
    rw [List.foldl_cons, withdrawPort, hleft, ih, List.append_assoc, List.singleton_append]
    by_cases hp : p ∈ done
    · have hnone : (fr.filter (portOf · ∉ done)).filter (portOf · = p) = [] := by
        rw [List.filter_filter, List.filter_eq_nil_iff]
        grind
      have hsame : ps.filter (· ∉ done ++ [p]) = ps.filter (· ∉ done) := List.filter_congr fun q _ => by grind
      rw [withdrawAt, hnone, List.foldl_nil, List.filter_cons_of_neg (by simpa using hp), hsame]
    · have hmine : (fr.filter (portOf · ∉ done)).filter (portOf · = p) = fr.filter (portOf · = p) := by
        rw [List.filter_filter]
        exact List.filter_congr fun f _ => by grind
      have hrest : (ps.filter (· ∉ done)).filter (fun q => !q == p) = ps.filter (· ∉ done ++ [p]) := by
        rw [List.filter_filter]
        exact List.filter_congr fun q _ => by grind
      rw [List.filter_cons_of_pos (by simpa using hp), List.eraseDups_cons, List.foldl_cons, hrest, withdrawAt, hmine, ← withdrawAt]

/-! ### The copies of a timeline (R220) -/

/-- A copy as a cancel leaves it: ended, or, in the midst of a slot, marked to end with it. -/
def marked (t : Task) (c : Copy) : Copy :=
  if t.slotEnd c = true then { c with cancelled := true, finished := true, rest := [] } else { c with cancelled := true }

/-- The copies of a task after the cancel of one. -/
def mark (t : Task) (l : List Copy) (c : Copy) : List Copy := l.map fun x => if x.id = c.id then marked t c else x

theorem slotEnd_congr (h : u.cells = t.cells) : u.slotEnd = t.slotEnd := by
  funext c
  simp only [Task.slotEnd, Task.fifoAt, Task.cell?, h]

theorem finish_fields (t : Task) (n num : Nat) : (t.finish n num).cells = t.cells ∧ (t.finish n num).die = t.die := by
  obtain ⟨tl, f, h⟩ := finish_go_frame n (t.finished.length + 1) { t with finished := (n, num) :: t.finished }
  rw [Task.finish, h]
  exact ⟨rfl, rfl⟩

/-- A copy that is marked goes on to the end of its slot. -/
theorem putCopy_of_midst (h : ¬ t.slotEnd c = true) : u.putCopy { c with cancelled := true } =
    withPorts u (mark t u.copies c) u.frozen u.spaceWait := by
  simp only [Task.putCopy, mark, marked, if_neg h, beq_iff_eq, withPorts]

/-- A copy that ends counts on its timeline, and its port waits for nothing any more. -/
theorem endCopy_of_slotEnd (h : t.slotEnd c = true) : u.endCopy { c with cancelled := true } =
    withPorts (u.finish c.n c.num) (mark t u.copies c) u.frozen (u.spaceWait.filter (·.1 ≠ c.port)) := by
  have hcopies : u.copies.map (fun x => if x.id == c.id then { c with cancelled := true, finished := true, rest := [] } else x) =
      mark t u.copies c := List.map_congr_left fun x _ => by simp [marked, h]
  have hspace : u.spaceWait.filter (fun w => w.1 != c.port) = u.spaceWait.filter (·.1 ≠ c.port) :=
    List.filter_congr fun w _ => by rw [bne, beq_eq_decide, decide_not]
  rw [← finish_withPorts, ← hcopies, ← hspace]
  rfl

/-- The package and the frozen ports left once the ports of the copies `l` that run have thawed; a copy that does not run has no port that is
frozen. -/
def thawed (die : Nat) (l : List Copy) (x : State × List Frozen) : State × List Frozen :=
  ((l.filter Copy.running).map Copy.port).foldl (withdrawPort die) x

theorem thawed_append (l' : List Copy) (x : State × List Frozen) : thawed die (l ++ l') x = thawed die l' (thawed die l x) := by
  simp [thawed]

theorem unfreeze_thawed (s : State) (u : Task) (c : Copy) : (if c.running = true then s.unfreeze u c.port else (s, u)) =
    ((thawed u.die [c] (s, u.frozen)).1, withPorts u u.copies (thawed u.die [c] (s, u.frozen)).2 u.spaceWait) := by
  cases hrun : c.running
  · simp [thawed, hrun, withPorts]
  · simp [thawed, hrun, unfreeze_eq, withPorts]

/-- The package and the task `u` once the copies `cs` are cancelled, where a copy stands in its FIFO as task `t` says. -/
def afterCancel (t : Task) (cs : List Copy) (s : State) (u : Task) : State × Task :=
  let x := thawed t.die (cs.filter t.slotEnd) (s, u.frozen)
  (x.1, withPorts (finishAll u (cs.filter t.slotEnd)) (cs.foldl (mark t) u.copies) x.2
    (u.spaceWait.filter (·.1 ∉ (cs.filter t.slotEnd).map Copy.port)))

theorem afterCancel_cons_of_midst (h : ¬ t.slotEnd c = true) : afterCancel t (c :: cs) s u =
    afterCancel t cs s (withPorts u (mark t u.copies c) u.frozen u.spaceWait) := by
  rw [afterCancel, List.filter_cons_of_neg h, afterCancel, finishAll_withPorts]
  rfl

theorem afterCancel_cons_of_slotEnd (h : t.slotEnd c = true) : afterCancel t (c :: cs) s u =
    afterCancel t cs (thawed t.die [c] (s, u.frozen)).1
      (withPorts (u.finish c.n c.num) (mark t u.copies c) (thawed t.die [c] (s, u.frozen)).2 (u.spaceWait.filter (·.1 ≠ c.port))) := by
  have hspace : u.spaceWait.filter (·.1 ∉ (c :: cs.filter t.slotEnd).map Copy.port) =
      (u.spaceWait.filter (·.1 ≠ c.port)).filter (·.1 ∉ (cs.filter t.slotEnd).map Copy.port) := by
    rw [List.filter_filter]
    exact List.filter_congr fun w _ => by grind
  rw [afterCancel, List.filter_cons_of_pos h, hspace, afterCancel, finishAll_withPorts, ← List.singleton_append, thawed_append]
  rfl

/-- Cancelling copies in issue order (R220). -/
theorem cancelCopies_eq (cs : List Copy) (s : State) (hcells : u.cells = t.cells) (hdie : u.die = t.die) :
    State.cancelCopies cs s u = afterCancel t cs s u := by
  induction cs generalizing s u with
  | nil => simp [State.cancelCopies, afterCancel, withPorts, finishAll, thawed]
  | cons c cs ih =>
    obtain ⟨hcells', hdie'⟩ := finish_fields u c.n c.num
    rw [State.cancelCopies, slotEnd_congr hcells]
    by_cases h : t.slotEnd c = true
    · rw [if_pos h, unfreeze_thawed]
      dsimp only
      rw [endCopy_of_slotEnd h, finish_withPorts, afterCancel_cons_of_slotEnd h, ← hdie]
      exact ih _ (hcells'.trans hcells) (hdie'.trans hdie)
    · rw [if_neg h, putCopy_of_midst h, afterCancel_cons_of_midst h]
      exact ih _ hcells hdie

/-! ### `tcopy.cancel` (R220) -/

@[simp] theorem drawn_slotEnd : (drawn s t m).slotEnd = t.slotEnd := slotEnd_congr (drawn_cells s t m)

/-- Ports that run alike are counted once. -/
theorem thawed_eq (l : List Copy) (s : State) (fr : List Frozen) : thawed die l (s, fr) =
    (((l.filter Copy.running).map Copy.port).eraseDups.foldl (withdrawAt die fr) s,
      fr.filter (portOf · ∉ ((l.filter Copy.running).map Copy.port).eraseDups)) := by
  have hfold := foldl_withdrawPort (die := die) ((l.filter Copy.running).map Copy.port) [] s fr
  simpa [thawed] using hfold

/-- A task whose copies of timeline `n` are cancelled. -/
def cancelled (t : Task) (n : Nat) (u : Task) : Task :=
  withPorts (finishAll u (ending t n)) ((toCancel t n).foldl (mark t) t.copies) (t.frozen.filter (portOf · ∉ endingPorts t n))
    (t.spaceWait.filter (·.1 ∉ (ending t n).map Copy.port))

theorem cancelled_die (t : Task) (n : Nat) (u : Task) : (cancelled t n u).die = u.die := by
  obtain ⟨tl, f, h⟩ := finishAll_frame (ending t n) u
  rw [cancelled, h]
  rfl

theorem afterCancel_drawn (s v : State) : afterCancel t (toCancel t n) v (drawn s t m) =
    ((endingPorts t n).foldl (withdrawAt t.die t.frozen) v, cancelled t n (drawn s t m)) := by
  rw [afterCancel, ← ending, drawn_frozen, drawn_copies, drawn_spaceWait, thawed_eq]
  rfl

theorem exec_tcopyCancel {d : Reg} {tl : BitVec 5} (h : OnThread s t 1) : exec (.tcopyCancel d tl) s = .next
    ((((endingPorts t tl.toNat).foldl (withdrawAt t.die t.frozen) (charged s t 1)).putTask
      (((cancelled t tl.toNat (drawn s t 1)).setX d (BitVec.ofNat 64 (toCancel t tl.toNat).length)).advance 4)).refillRing t.die
        none) := by
  rw [exec, execTcopyCancel, issueTask_thread h rfl, drawn_copies, ← toCancel]
  dsimp only
  rw [cancelCopies_eq (t := t) _ _ (drawn_cells s t 1) (drawn_die s t 1), afterCancel_drawn]
  rw [finish_nil, cancelled_die, drawn_die]

/-! ### The largest number up to which all operations of a timeline are done (R209) -/

theorem timeline_setTimeline_self {v : Nat} (hn : n < 8) (hv : v < 2 ^ 64) : (t.setTimeline n v).timeline n = v := by
  simpa [Task.timeline, Task.setTimeline, List.getD, hn] using hv

theorem timeline_setTimeline_other {v : Nat} (hm : m ≠ n) : (t.setTimeline n v).timeline m = t.timeline m := by
  simp [Task.timeline, Task.setTimeline, List.getD, List.getElem?_set_ne hm.symm]

/-- Task `u` is `t` once timeline `n` has counted, up to `u.timeline n`, every number in a row that waited to be counted. -/
structure CountsTo (t : Task) (n : Nat) (u : Task) : Prop where
  rises : t.timeline n ≤ u.timeline n
  waited : ∀ i, t.timeline n < i → i ≤ u.timeline n → (n, i) ∈ t.finished
  next : (n, u.timeline n + 1) ∉ u.finished
  others : ∀ m, m ≠ n → u.timeline m = t.timeline m
  left : ∀ p, p ∈ u.finished ↔ p ∈ t.finished ∧ ¬ (p.1 = n ∧ t.timeline n < p.2 ∧ p.2 ≤ u.timeline n)

theorem countsTo_of_not_mem (h : (n, t.timeline n + 1) ∉ t.finished) : CountsTo t n t where
  rises := le_rfl
  waited _ hlt hle := absurd hle (Nat.not_le.mpr hlt)
  next := h
  others _ _ := rfl
  left _ := ⟨fun hp => ⟨hp, fun ⟨_, hlt, hle⟩ => absurd hle (Nat.not_le.mpr hlt)⟩, fun hp => hp.1⟩

theorem CountsTo.of_countNext (hn : n < 8) (hnum : t.timeline n + 1 < 2 ^ 64) (hmem : (n, t.timeline n + 1) ∈ t.finished)
    (h : CountsTo (countNext t n) n u) : CountsTo t n u := by
  have hnow : (countNext t n).timeline n = t.timeline n + 1 := timeline_setTimeline_self hn hnum
  have hothers : ∀ m, m ≠ n → (countNext t n).timeline m = t.timeline m := fun m hm => timeline_setTimeline_other hm
  have hleft : ∀ p, p ∈ (countNext t n).finished ↔ p ∈ t.finished ∧ p ≠ (n, t.timeline n + 1) := fun p => by
    simp [countNext, Task.setTimeline]
  obtain ⟨hrises, hwaited, hnext, hrest, hall⟩ := h
  rw [hnow] at hrises hwaited
  refine ⟨by omega, fun i hlt hle => ?_, hnext, fun m hm => (hrest m hm).trans (hothers m hm), fun p => ?_⟩
  · obtain rfl | hlt' : i = t.timeline n + 1 ∨ t.timeline n + 1 < i := by omega
    · exact hmem
    · exact ((hleft _).mp (hwaited i hlt' hle)).1
  · rw [hall, hleft, hnow, and_assoc]
    refine and_congr_right fun _ => ?_
    obtain ⟨k, i⟩ := p
    simp only [ne_eq, Prod.mk.injEq]
    omega

theorem countsTo_finish_go (hn : n < 8) (hnums : ∀ p ∈ t.finished, p.2 < 2 ^ 64) (hfuel : t.finished.length ≤ k) :
    CountsTo t n (Task.finish.go n k t) := by
  induction k generalizing t with
  | zero =>
    have hnone : t.finished = [] := List.length_eq_zero_iff.mp (Nat.le_zero.mp hfuel)
    exact countsTo_of_not_mem (by simp [hnone])
  | succ k ih =>
    by_cases hmem : (n, t.timeline n + 1) ∈ t.finished
    · rw [finish_go_succ_of_mem hmem]
      have hshorter : (countNext t n).finished.length < t.finished.length :=
        List.length_filter_lt_length_iff_exists.mpr ⟨_, hmem, by simp⟩
      exact (ih (fun p hp => hnums p (List.mem_filter.mp hp).1) (by omega)).of_countNext hn (hnums _ hmem) hmem
    · rw [finish_go_of_not_mem hmem]
      exact countsTo_of_not_mem hmem

/-- An operation that is done waits to be counted, and then its timeline counts. -/
theorem countsTo_finish (hn : n < 8) (hnum : num < 2 ^ 64) (hnums : ∀ p ∈ t.finished, p.2 < 2 ^ 64) :
    CountsTo { t with finished := (n, num) :: t.finished } n (t.finish n num) :=
  countsTo_finish_go hn (by simpa using ⟨hnum, fun a b hp => hnums (a, b) hp⟩) le_rfl

theorem copyCancel : CopyCancel := by
  refine ⟨?cancel, ?counts⟩
  case cancel =>
    rintro d tl s t n counted h rfl rfl
    obtain ⟨tl', f, hframe⟩ := finishAll_frame (ending t tl.toNat) (drawn s t 1)
    rw [exec_tcopyCancel h, cancelled, ← finishAll, hframe]
    rfl
  case counts =>
    rintro t n num K hn hnum hnums rfl
    obtain ⟨hrises, hwaited, hnext, hothers, hleft⟩ := countsTo_finish hn hnum hnums
    have hafter : ¬ ((n, (t.finish n num).timeline n + 1) = (n, num) ∨ (n, (t.finish n num).timeline n + 1) ∈ t.finished) := by
      simpa [hleft] using hnext
    refine ⟨hrises, fun i hlt hle => by simpa using hwaited i hlt hle, fun hsame => hafter (.inl (by rw [hsame])),
      fun hmem => hafter (.inr hmem), fun m _ hm => hothers m hm, fun p => by rw [hleft p, List.mem_cons]; rfl⟩

end Sys2Proof.Laws.Cancelling

namespace Sys2Proof.Proofs

open Sys2Proof Sys2Proof.Claims Sys2Proof.Laws.Copying Sys2Proof.Laws.Cancelling

/-- Settles O56, by `copyIssue` and `copyCancel`. -/
theorem copyCommands : Obligations.CopyCommands := ⟨copyIssue, copyCancel⟩

end Sys2Proof.Proofs
end

section
/-! SUPPORT. TLB invalidation, page moves and ways of L2 slices (R197, R199, R205, R206), and O47. -/
namespace Sys2Proof.Laws.Caches

open Sys2Proof Sys2Proof.Machine Sys2Proof.Claims

variable {s : State} {x : Die} {y : Slice} {d c k n now page o w : Nat} {v : BitVec 16}

/-! ### TLB invalidation (R197) -/

theorem tlbiDone_of_idle (hdie : s.die? d = some x) (hidle : x.tlbiOp = none) : s.tlbiDone d = s := by
  simp only [State.tlbiDone, die_eq hdie, hidle]

theorem tlbiStart_of_idle {scope : BitVec 2} (hdie : s.die? d = some x) (hidle : x.tlbiOp = none) (hscope : scope ≠ 3) (ctx : BitVec 16) :
    s.tlbiStart d ctx scope = s.updDie d fun x =>
      { x with tlbiCtx := ctx, tlbiScope := scope, tlbiOp := some (scope.toNat, ctx.toNat, x.tlbiVpn.toNat) } := by
  rw [State.tlbiStart, if_neg hscope, tlbiDone_of_idle hdie hidle]

/-- What an invalidation of scope 0, 1 or 2 removes: the entries of a page, of a context, or all. -/
theorem tlbiHits_iff {sc ctx vpn : Nat} {e : TlbEntry} (hsc : sc < 3) : tlbiHits (sc, ctx, vpn) e = true ↔
    sc = 2 ∨ (sc = 1 ∧ e.ctx = ctx) ∨ (sc = 0 ∧ e.covers ctx (vpn * 4096) = true) := by
  match sc, hsc with
  | 0, _ => simp [tlbiHits]
  | 1, _ => simp [tlbiHits]
  | 2, _ => simp [tlbiHits]

theorem tlbiDone_of_running {sc ctx vpn : Nat} (hdie : s.die? d = some x) (hop : x.tlbiOp = some (sc, ctx, vpn)) (hsc : sc < 3) :
    s.tlbiDone d = { s with tlb := s.tlb.filter fun e =>
      ¬ (sc = 2 ∨ (sc = 1 ∧ e.ctx = ctx) ∨ (sc = 0 ∧ e.covers ctx (vpn * 4096) = true)) }.updDie d fun x => { x with tlbiOp := none } := by
  have hkept : s.tlb.filter (fun e => !tlbiHits (sc, ctx, vpn) e) = s.tlb.filter fun e =>
      ¬ (sc = 2 ∨ (sc = 1 ∧ e.ctx = ctx) ∨ (sc = 0 ∧ e.covers ctx (vpn * 4096) = true)) :=
    List.filter_congr fun e _ => by rw [Bool.eq_iff_iff, decide_eq_true_iff, ← tlbiHits_iff hsc, Bool.not_eq_true', Bool.not_eq_true]
  simp only [State.tlbiDone, die_eq hdie, hop, hkept]

/-! ### Pages that move (R199) -/

/-- A write of HOME_SLICE that names a disabled cluster is refused. -/
theorem homeWrite_of_disabled (hdie : s.die? d = some x) (hhome : s.homeDie (x.homeSel.toNat * 65536) = some d)
    (hslice : s.homeSlice (x.homeSel.toNat * 65536) = some (d, c, k)) (hno : x.has n = false) (m : Nat) :
    s.homeWrite d n m = s.updDie d fun x => { x with homeErr := true } := by
  simp only [State.homeWrite, die_eq hdie, hhome, if_true, hslice, hno, Bool.not_false]

/-- The page moves to another slice; until its lines have left the old one the move is not complete. -/
theorem homeWrite_of_other {m : Nat} (hdie : s.die? d = some x) (hhome : s.homeDie (x.homeSel.toNat * 65536) = some d)
    (hslice : s.homeSlice (x.homeSel.toNat * 65536) = some (d, c, k)) (hhas : x.has n = true) (hother : (c, k) ≠ (n, m)) :
    s.homeWrite d n m = { s.updDie d (fun x => { x with homeErr := false }) with
      homing := (x.homeSel.toNat, n, m) :: s.homing.filter (·.1 ≠ x.homeSel.toNat)
      moving := s.moving ++ [(x.homeSel.toNat, 4 * c + k)] } := by
  have hmoves : (decide (c = n) && decide (k = m)) = false := by
    simpa [Prod.ext_iff] using hother
  have hrest : s.homing.filter (fun h => h.1 != x.homeSel.toNat) = s.homing.filter (·.1 ≠ x.homeSel.toNat) :=
    List.filter_congr fun h _ => by simp [bne, beq_eq_decide]
  simp only [State.homeWrite, die_eq hdie, hhome, if_true, hslice, hhas, Bool.not_true, Bool.false_eq_true, if_false, hmoves]
  rw [← hrest]
  rfl

/-- The one move of a page completes: no line of it is left in the old slice, and what waits for it goes on. -/
theorem exec_homePageMoveComplete (hdie : s.die? d = some x) (hhome : s.homeDie (page * 65536) = some d)
    (hone : s.moving.filter (·.1 = page) = [(page, o)]) (hmoved : s.homeSlice (page * 65536) ≠ some (d, o / 4, o % 4)) :
    exec (.homePageMoveComplete d page) s = .next (State.cacheGoOn
      { (s.setSlice { s.slice d (o / 4) (o % 4) with
          ways := (s.slice d (o / 4) (o % 4)).ways.filter fun w => w.line / 512 ≠ page }).updDie d (fun x =>
            if x.bureau.homeWait = some page then { x with bureau := { x.bureau with homeWait := none } } else x) with
        moving := s.moving.filter (·.1 ≠ page) }) := by
  have holds : s.moving.filter (fun m => m.1 == page) = [(page, o)] := by
    rw [← hone]
    exact List.filter_congr fun m _ => beq_eq_decide ..
  have hrest : s.moving.filter (fun m => m.1 != page) = s.moving.filter (·.1 ≠ page) :=
    List.filter_congr fun m _ => by simp [bne, beq_eq_decide]
  have hways : (s.slice d (o / 4) (o % 4)).ways.filter (fun w => w.line / 512 != page) =
      (s.slice d (o / 4) (o % 4)).ways.filter fun w => w.line / 512 ≠ page :=
    List.filter_congr fun w _ => by simp [bne, beq_eq_decide]
  rw [exec, execHomePageMoveComplete, State.onDie_some hdie, if_neg (not_not.mpr hhome)]
  simp only [holds, List.map_cons, List.map_nil, List.foldl_cons, List.foldl_nil, if_neg hmoved, finish_nil, hways, beq_iff_eq]
  rw [← hrest]
  rfl

/-- An access to a page that moves waits, unless the RDC of its die holds the line. -/
theorem touch_of_moving {a m : Nat} (hmoving : (page, m) ∈ s.moving) (hpage : a / 65536 = page) (hslice : (s.homeSlice a).isSome)
    (hmiss : ∀ r ∈ s.rdc, r.2.1 ≠ a / 128) (src cls : Nat) :
    s.touch src a cls = { s with cacheWaits := s.cacheWaits ++ [(src, a, cls)] } := by
  obtain ⟨⟨home, c, k⟩, hslice⟩ := Option.isSome_iff_exists.mp hslice
  have hnoCopy : s.rdc.any (fun r => r.1 == src && r.2.1 == lineOf a) = false := by
    rw [List.any_eq_false]
    intro r hr
    simp [lineOf, hmiss r hr]
  have hwaits : s.moving.any (fun m => m.1 == a / 65536) = true := List.any_eq_true.mpr ⟨_, hmoving, by simp [hpage]⟩
  simp only [State.touch, hslice, hnoCopy, hwaits, Bool.and_false, Bool.false_eq_true, if_false, Bool.true_or, if_true]

/-! ### Ways (R205, R206) -/

/-- What a write of GATE does with one way. -/
def gateStep (now : Nat) (v : BitVec 16) (y : Slice) (w : Nat) : Slice :=
  if v.getLsbD w && !y.gate.getLsbD w then y.gateWay w
  else if !v.getLsbD w && y.gate.getLsbD w then y.wakeWay now w
  else y

theorem gateStep_of_same (h : v.getLsbD w = y.gate.getLsbD w) : gateStep now v y w = y := by
  cases hbit : y.gate.getLsbD w <;> simp [gateStep, h, hbit]

theorem foldl_gateStep_of_same {l : List Nat} (h : ∀ i ∈ l, v.getLsbD i = y.gate.getLsbD i) : l.foldl (gateStep now v) y = y := by
  induction l with
  | nil => rfl
  | cons i l ih =>
    rw [List.foldl_cons, gateStep_of_same (h i List.mem_cons_self)]
    exact ih fun j hj => h j (List.mem_cons_of_mem _ hj)

/-- A write of GATE that differs from it at one way alone does what it does with that way. -/
theorem writeGate_of_one (hw : w < 16) (hother : ∀ i, i ≠ w → v.getLsbD i = y.gate.getLsbD i)
    (hkeeps : ∀ i, i ≠ w → (gateStep now v y w).gate.getLsbD i = y.gate.getLsbD i) : y.writeGate now v = gateStep now v y w := by
  obtain ⟨l, r, hl⟩ := List.append_of_mem (List.mem_range.mpr hw)
  have hnodup : (l ++ w :: r).Nodup := hl ▸ List.nodup_range
  have hleft : ∀ i ∈ l, i ≠ w := fun i hi hiw => by
    subst hiw
    exact (List.disjoint_of_nodup_append hnodup) hi List.mem_cons_self
  have hright : ∀ i ∈ r, i ≠ w := fun i hi hiw => by
    subst hiw
    exact (List.nodup_cons.mp (hnodup.of_append_right)).1 hi
  calc y.writeGate now v = (List.range 16).foldl (gateStep now v) y := rfl
    _ = r.foldl (gateStep now v) (gateStep now v (l.foldl (gateStep now v) y) w) := by rw [hl, List.foldl_append, List.foldl_cons]
    _ = r.foldl (gateStep now v) (gateStep now v y w) := by rw [foldl_gateStep_of_same fun i hi => hother i (hleft i hi)]
    _ = gateStep now v y w := foldl_gateStep_of_same fun i hi => by rw [hother i (hright i hi), hkeeps i (hright i hi)]

theorem getLsbD_or_twoPow {g : BitVec 16} {i : Nat} (hi : i ≠ w) : (g ||| BitVec.twoPow 16 w).getLsbD i = g.getLsbD i := by
  simp [BitVec.getLsbD_twoPow, hi.symm]

theorem getLsbD_and_not_twoPow {g : BitVec 16} {i : Nat} (hi : i ≠ w) : (g &&& ~~~BitVec.twoPow 16 w).getLsbD i = g.getLsbD i := by
  by_cases hlt : i < 16
  · simp [hi, hlt]
  · simp [BitVec.getLsbD_of_ge, Nat.not_lt.mp hlt]

/-- A way that is not gated and holds no channel slot is gated: it loses its lines, and AWAKE falls. -/
theorem writeGate_gates (hw : w < 16) (hgate : y.gate.getLsbD w = false) (hslots : y.slotWay w = false) :
    y.writeGate now (y.gate ||| BitVec.twoPow 16 w) =
      { y with ways := y.ways.filter (·.way ≠ w), gate := y.gate ||| BitVec.twoPow 16 w,
               awake := y.awake &&& ~~~BitVec.twoPow 16 w, waking := y.waking.filter (·.1 ≠ w) } := by
  have hrises : ((y.gate ||| BitVec.twoPow 16 w).getLsbD w && !y.gate.getLsbD w) = true := by
    rw [BitVec.getLsbD_or, hgate]
    simp [hw]
  have hways : y.ways.filter (fun z => z.way != w) = y.ways.filter (·.way ≠ w) :=
    List.filter_congr fun z _ => by simp [bne, beq_eq_decide]
  have hwaking : y.waking.filter (fun p => p.1 != w) = y.waking.filter (·.1 ≠ w) :=
    List.filter_congr fun p _ => by simp [bne, beq_eq_decide]
  have hstep : gateStep now (y.gate ||| BitVec.twoPow 16 w) y w =
      { y with ways := y.ways.filter (·.way ≠ w), gate := y.gate ||| BitVec.twoPow 16 w,
               awake := y.awake &&& ~~~BitVec.twoPow 16 w, waking := y.waking.filter (·.1 ≠ w) } := by
    rw [gateStep, if_pos hrises, Slice.gateWay, hslots, if_neg Bool.false_ne_true, hways, hwaking]
    rfl
  rw [writeGate_of_one hw (fun i hi => getLsbD_or_twoPow hi) (fun i hi => by rw [hstep]; exact getLsbD_or_twoPow hi), hstep]

/-- A way that is gated wakes empty, and is awake 2 µs later. -/
theorem writeGate_wakes (hw : w < 16) (hgate : y.gate.getLsbD w = true) :
    y.writeGate now (y.gate &&& ~~~BitVec.twoPow 16 w) =
      { y with gate := y.gate &&& ~~~BitVec.twoPow 16 w, waking := (w, now + 2) :: y.waking } := by
  have hfalls : (y.gate &&& ~~~BitVec.twoPow 16 w).getLsbD w = false := by
    simp [hw]
  have hstep : gateStep now (y.gate &&& ~~~BitVec.twoPow 16 w) y w =
      { y with gate := y.gate &&& ~~~BitVec.twoPow 16 w, waking := (w, now + 2) :: y.waking } := by
    rw [gateStep, hfalls, hgate]
    rfl
  rw [writeGate_of_one hw (fun i hi => getLsbD_and_not_twoPow hi) (fun i hi => by rw [hstep]; exact getLsbD_and_not_twoPow hi), hstep]

theorem gateWrite_of_selected (h : s.selected d = some y) (v : BitVec 16) :
    s.gateWrite d v = (s.setSlice (y.writeGate s.now v)).cacheGoOn := by
  simp only [State.gateWrite, h]

theorem exec_wayGate (hdie : s.die? d = some x) (h : s.selected d = some y) (v : BitVec 16) :
    exec (.wayGate d v) s = .next (s.setSlice (y.writeGate s.now (y.gate ||| v))).cacheGoOn := by
  rw [exec, execWayGate, State.onDie_some hdie]
  simp only [h, gateWrite_of_selected h, finish_nil]

theorem exec_wayWake (hdie : s.die? d = some x) (h : s.selected d = some y) (v : BitVec 16) :
    exec (.wayWake d v) s = .next (s.setSlice (y.writeGate s.now (y.gate &&& ~~~v))).cacheGoOn := by
  rw [exec, execWayWake, State.onDie_some hdie]
  simp only [h, gateWrite_of_selected h, finish_nil]

/-- A waking way becomes usable once its time has come. -/
theorem exec_wayAwake {t : Nat} (hdie : s.die? d = some x) (hwaking : (w, t) ∈ (s.slice d c k).waking) (hnow : t ≤ s.now) :
    exec (.wayAwake d c k w) s = .next (s.setSlice
      { s.slice d c k with awake := (s.slice d c k).awake ||| 1#16 <<< w, waking := (s.slice d c k).waking.filter (·.1 ≠ w) }).cacheGoOn := by
  have hdue : (s.slice d c k).waking.any (fun p => p.1 == w && p.2 ≤ s.now) = true :=
    List.any_eq_true.mpr ⟨_, hwaking, by simp [hnow]⟩
  have hrest : (s.slice d c k).waking.filter (fun p => p.1 != w) = (s.slice d c k).waking.filter (·.1 ≠ w) :=
    List.filter_congr fun p _ => by simp [bne, beq_eq_decide]
  rw [exec, execWayAwake, State.onDie_some hdie]
  simp only [hdue, if_true, finish_nil, hrest]

/-- Where nothing waits nothing is tried again. -/
theorem cacheGoOn_of_none (h : s.cacheWaits = []) : s.cacheGoOn = s := by
  have hsame : { s with cacheWaits := [] } = s := by rw [← h]
  rw [State.cacheGoOn, h]
  exact hsame

end Sys2Proof.Laws.Caches

namespace Sys2Proof.Proofs

open Sys2Proof Sys2Proof.Machine Sys2Proof.Claims Sys2Proof.Laws.Caches

/-- Settles O47, a part at a time: an invalidation as it starts and ends, a page as it moves, and the ways of a slice. -/
theorem cacheSteps : Obligations.CacheSteps := by
  refine ⟨?starts, ?ends, ?moves, ?moved, ?waits, ?ways, ?awake, ?goOn⟩
  case starts =>
    intro s d x ctx hdie hidle
    refine ⟨?_, ?_, ?_⟩
    · rw [exec, execTlbiPage, State.onDie_some hdie, tlbiStart_of_idle hdie hidle (by decide), finish_nil]
      rfl
    · rw [exec, execTlbiContext, State.onDie_some hdie, tlbiStart_of_idle hdie hidle (by decide), finish_nil]
      rfl
    · rw [exec, execTlbiAll, State.onDie_some hdie, tlbiStart_of_idle hdie hidle (by decide), finish_nil]
      rfl
  case ends =>
    intro s d x sc ctx vpn hdie hop hsc
    rw [exec, execTlbInvalidateComplete, State.onDie_some hdie, tlbiDone_of_running hdie hop hsc, finish_nil]
  case moves =>
    intro s d x v c k hdie hhome hslice
    have hcluster : wbits v 6 0 = v.toNat % 128 := by simp [wbits, bitsOf]
    have hnumber : wbits v 8 7 = v.toNat / 128 % 4 := rfl
    have hexec : exec (.homeSliceWrite d v) s = .next (s.homeWrite d (v.toNat % 128) (v.toNat / 128 % 4)) := by
      rw [exec, execHomeSliceWrite, State.onDie_some hdie, hcluster, hnumber, finish_nil]
    rw [hexec]
    exact ⟨fun hno => by rw [homeWrite_of_disabled hdie hhome hslice hno],
      fun hhas hother => by rw [homeWrite_of_other hdie hhome hslice hhas hother]⟩
  case moved => exact fun s d x page o => exec_homePageMoveComplete
  case waits => exact fun s d page hmoving src a cls hpage hslice hmiss => touch_of_moving hmoving hpage hslice hmiss src cls
  case ways =>
    intro s d x y w hdie hsel
    refine ⟨fun hgate hslots => ?_, fun hgate => ?_⟩
    · rw [exec_wayGate hdie hsel, writeGate_gates w.isLt hgate hslots]
    · rw [exec_wayWake hdie hsel, writeGate_wakes w.isLt hgate]
  case awake =>
    rintro s d x c k w t _ hdie rfl hwaking hnow
    exact exec_wayAwake hdie hwaking hnow
  case goOn => exact fun s => cacheGoOn_of_none

end Sys2Proof.Proofs
end

section
/-! SUPPORT. Writes, reads and snoops from outside the package (R199, R201, R287, R288, R363), and O49. -/
namespace Sys2Proof.Laws.Outside

open Sys2Proof Sys2Proof.Machine Sys2Proof.Claims Sys2Proof.Laws.LoadStore Sys2Proof.Laws.Discarding

variable {s u : State} {a b n : Nat} {l : List Byte} {i : Instr}

/-! ### Requests (R199, R287, R288, R352) -/

theorem serves_of_memory (hstage : s.stage = .c) (hhome : s.hasHome a = true) (hwin : s.winOf a = none) : s.serves a = true := by
  simp [State.serves, hstage, hhome, hwin]

theorem serves_eq_false (h : s.stage ≠ .c ∨ s.hasHome a = false) : s.serves a = false := by
  obtain h | h := h <;> simp [State.serves, h]

theorem inPage_of_request (h : Request a n) : inPage a n = true := by
  obtain ⟨hpos, hpage, -⟩ := h
  simp [inPage, hpos.ne', hpage]

/-- A write from outside stores its bytes, whoever asks for it. -/
theorem exec_outsideWrite (h : Claims.outsideWrite i = some (a, l)) : exec i s = .next (finish (s.outsideWrite a l)) := by
  unfold Claims.outsideWrite at h
  split at h
  next a' l' =>
    split at h
    next hreq =>
      cases h
      obtain ⟨hpage, hpos, hlow⟩ := hreq
      rw [exec, execHostWrite, inPage_of_request ⟨hpos, hpage, hlow⟩]
      simp [Nat.not_le.mpr hlow]
    next => cases h
  next a' l' =>
    split at h
    next hpos =>
      cases h
      have hsome : l.isEmpty = false := by simpa [List.length_pos_iff] using hpos
      rw [exec, execUalinkWrite, hsome, if_neg Bool.false_ne_true]
    next => cases h
  next a' l' =>
    split at h
    next hline =>
      cases h
      obtain ⟨halign, hlen⟩ := hline
      rw [exec, execCxlMemWrite, if_neg (by simp [halign, hlen])]
    next => cases h
  next => cases h

theorem outsideWrite_of_serves (h : s.serves a = true) (l : List Byte) : s.outsideWrite a l = s.landExternal [] (atAddr a l) 0 := by
  rw [State.outsideWrite, if_pos h]

theorem outsideWrite_of_not_serves (h : s.serves a = false) (l : List Byte) : s.outsideWrite a l = (s.refuseAccess a, []) := by
  rw [State.outsideWrite, h, if_neg Bool.false_ne_true]

theorem exec_hostRead (h : Request a n) : exec (.hostRead a n) s =
    .next (if s.serves a = true then { s with out := s.out ++ [.read a (s.bytesAt a n)] } else s.refuseAccess a) := by
  have hpage := inPage_of_request h
  obtain ⟨-, -, hlow⟩ := h
  rw [exec, execHostRead, hpage, if_neg (Nat.not_le.mpr hlow)]
  cases s.serves a <;> rfl

/-! ### One external commit (R283, R287) -/

theorem foldl_cachesOnly {α : Type} {f : State → α → State} (h : ∀ s x, CachesOnly s (f s x)) (r : List α) (s : State) :
    CachesOnly s (r.foldl f s) := by
  induction r generalizing s with
  | nil => exact .refl s
  | cons x r ih => exact (h s x).trans (ih _)

theorem touchHome_cachesOnly (s : State) (m c : Nat) : CachesOnly s (s.touchHome m c) := by
  unfold State.touchHome
  split
  · exact touch_cachesOnly ..
  · exact .refl s

/-- Bytes that have landed pass their home slices, which changes the caches alone (R203). -/
theorem publish_cachesOnly (s : State) (c : Nat) (out : List Nat) (r : List (Nat × Byte)) :
    CachesOnly (s.land r) (s.publish c out r) :=
  foldl_cachesOnly (fun s _ => touchHome_cachesOnly s _ c) _ _

/-- In a package without enabled windows every byte is set in the package's own memory (R362). -/
theorem setBytes_of_no_windows (hwin : ∀ p, s.winOf p = none) (r : List (Nat × Byte)) :
    s.setBytes r = { s with mem := r.foldl (fun m p => m.set p.1 p.2) s.mem } := by
  rw [State.setBytes]
  induction r generalizing s with
  | nil => rfl
  | cons p r ih =>
    have hone : s.setByte p.1 p.2 = { s with mem := s.mem.set p.1 p.2 } := by rw [State.setByte, hwin]
    rw [List.foldl_cons, hone]
    exact ih (s := { s with mem := s.mem.set p.1 p.2 }) hwin

theorem land_frame (s : State) (r : List (Nat × Byte)) : ∃ c m w k,
    s.land r = { s.setBytes r with rdc := c, modified := m, swept := w, sweeping := k } := by
  unfold State.land
  obtain ⟨w, k, h⟩ := sweepPass_frame _ _
  exact ⟨_, _, w, k, h⟩

theorem foldl_set_atAddr (m : Memory) (a : Nat) (l : List Byte) : (atAddr a l).foldl (fun m p => m.set p.1 p.2) m = m.write a l := by
  induction l generalizing m a with
  | nil => rfl
  | cons b l ih => exact ih ..

/-- An external commit takes the next number, and in a package without windows its bytes are in memory; the windows stay. -/
theorem landExternal_mem (hwin : ∀ p, s.winOf p = none) : (s.landExternal [] (atAddr a l) 0).1.commitSeq = s.commitSeq + 1 ∧
    (s.landExternal [] (atAddr a l) 0).1.mem = s.mem.write a l ∧ (s.landExternal [] (atAddr a l) 0).1.hcw = s.hcw := by
  obtain ⟨hmem, -, hhcw, -, hseq, -, -⟩ := (publish_cachesOnly { s with commitSeq := s.commitSeq + 1 } 0 [] (atAddr a l)).keeps
  obtain ⟨c, m, w, k, hland⟩ := land_frame { s with commitSeq := s.commitSeq + 1 } (atAddr a l)
  rw [setBytes_of_no_windows (s := { s with commitSeq := s.commitSeq + 1 }) hwin, foldl_set_atAddr] at hland
  rw [hland] at hmem hhcw hseq
  exact ⟨hseq, hmem, hhcw⟩

theorem byteAt_of_no_window (h : s.winOf b = none) : s.byteAt b = s.mem.get b := by
  rw [State.byteAt, h]

/-- What a memory reads after a write. -/
theorem get_write {m : Memory} (hwf : m.wf = true) (a : Nat) (l : List Byte) (b : Nat) :
    (m.write a l).get b = if a ≤ b ∧ b < a + l.length then l.getD (b - a) 0 else m.get b := by
  split
  next hin =>
    obtain ⟨k, rfl⟩ := Nat.exists_eq_add_of_le hin.1
    have hk : k < l.length := by omega
    rw [Memory.get_write_inside hwf a l hk, Nat.add_sub_cancel_left, List.getD_eq_getElem _ _ hk]
  next hout => exact Memory.get_write_outside hwf a l (by omega)

/-! ### Readers that are doomed (R290) -/

theorem mem_atAddr {k : Nat} (h : k < l.length) : ∃ b, (a + k, b) ∈ atAddr a l := by
  induction l generalizing a k with
  | nil => cases h
  | cons b l ih =>
    cases k with
    | zero => exact ⟨b, List.mem_cons_self⟩
    | succ k =>
      obtain ⟨c, hc⟩ := ih (a := a + 1) (Nat.lt_of_succ_lt_succ h)
      exact ⟨c, List.mem_cons_of_mem _ (by rwa [Nat.add_right_comm] at hc)⟩

theorem line_mem_atAddr {k : Nat} (h : k < l.length) : (a + k) / 128 ∈ ((atAddr a l).map fun p => lineOf p.1).eraseDups := by
  obtain ⟨b, hb⟩ := mem_atAddr (a := a) h
  exact List.mem_eraseDups.mpr (List.mem_map.mpr ⟨_, hb, rfl⟩)

/-- A task that has read one of the lines is doomed. -/
theorem doom_mem_doomJobs {t : Task} {lines : List Nat} {but : Word} {r : Nat × Nat} (ht : t ∈ s.tasks) (hbut : t.handle ≠ but)
    (hr : r ∈ t.readSet) (hline : r.2 ∈ lines) : Job.doom t.handle false ∈ s.doomJobs lines but := by
  have hall : t ∈ s.allTasks := List.mem_append_left _ ht
  have hreads : t ∈ s.readers lines but :=
    List.mem_filter.mpr ⟨hall, Bool.and_eq_true_iff.mpr ⟨bne_iff_ne.mpr hbut, List.any_eq_true.mpr ⟨r, hr, by simpa using hline⟩⟩⟩
  exact List.mem_map.mpr ⟨_, List.mem_eraseDups.mpr (List.mem_append_right _ (List.mem_map.mpr ⟨t, hreads, rfl⟩)), rfl⟩

/-! ### Snoops (R363) -/

/-- The device answers a snoop with the committed value, and holds the line modified no more. -/
def answered (s : State) (a : Nat) : State :=
  { s with out := s.out ++ [.read a (s.bytesAt a 64)], modified := s.modified.filter (· ≠ a / 64) }

theorem filter_bne (l : List Nat) (k : Nat) : l.filter (· != k) = l.filter (· ≠ k) :=
  List.filter_congr fun x _ => by simp [bne, beq_eq_decide]

theorem snoop_guard {w : HWin} (halign : a % 64 = 0) (hwin : s.winOf a = some w) (hlink : s.cxlCache = true) :
    (decide (a % 64 ≠ 0) || (s.winOf a).isNone || !s.cxlCache) = false := by
  simp [halign, hwin, hlink]

theorem exec_cxlCacheSnoop_none {w : HWin} (halign : a % 64 = 0) (hwin : s.winOf a = some w) (hlink : s.cxlCache = true) :
    exec (.cxlCacheSnoop a none) s = .next (answered s a) := by
  rw [exec, execCxlCacheSnoop, snoop_guard halign hwin hlink, if_neg Bool.false_ne_true]
  dsimp only
  rw [filter_bne]
  rfl

theorem exec_cxlCacheSnoop_some {w : HWin} {v : State} (halign : a % 64 = 0) (hwin : s.winOf a = some w) (hlink : s.cxlCache = true)
    (hlen : l.length = 64) (hv : v = ({ (answered s a).dropLine (a / 128) with commitSeq := s.commitSeq + 1 }.publish 0 [a / 128]
      (atAddr a l)).stamp [a / 128] none) :
    exec (.cxlCacheSnoop a (some l)) s =
      .next (finish ({ v with modified := v.modified.filter (· ≠ a / 64) }, (answered s a).doomJobs [a / 128] 0)) := by
  rw [exec, execCxlCacheSnoop, snoop_guard halign hwin hlink, if_neg Bool.false_ne_true]
  dsimp only
  rw [filter_bne, filter_bne, if_neg (not_not.mpr hlen), hv]
  rfl

theorem slice_place (s : State) (d c k : Nat) : (s.slice d c k).die = d ∧ (s.slice d c k).cluster = c ∧ (s.slice d c k).slice = k := by
  unfold State.slice
  split
  next x hx => simpa [and_assoc] using List.find?_some hx
  next => exact ⟨rfl, rfl, rfl⟩

/-- A slice put back with other ways is found at its place. -/
theorem ways_setSlice (s : State) (d c k : Nat) (ways : List Way) :
    ((s.setSlice { s.slice d c k with ways }).slice d c k).ways = ways := by
  obtain ⟨hdie, hcluster, hslice⟩ := slice_place s d c k
  rw [State.slice, State.setSlice]
  simp [hdie, hcluster, hslice]

/-- A line that another agent takes is in no RDC. -/
theorem dropLine_rdc (s : State) (line : Nat) : (s.dropLine line).rdc = s.rdc.filter fun r => r.2.1 != line := by
  unfold State.dropLine
  dsimp only
  split <;> rfl

/-- A line that another agent takes is not in its home slice. -/
theorem dropLine_ways {line d c k : Nat} (h : s.homeSlice (128 * line) = some (d, c, k)) :
    ((s.dropLine line).slice d c k).ways = (s.slice d c k).ways.filter fun w => w.line != line := by
  unfold State.dropLine
  dsimp only
  split
  next hnone => exact absurd (hnone.symm.trans h) nofun
  next d' c' k' hsome =>
    cases hsome.symm.trans h
    exact ways_setSlice { s with rdc := s.rdc.filter fun r => r.2.1 != line } d c k _

end Sys2Proof.Laws.Outside

namespace Sys2Proof.Proofs

open Sys2Proof Sys2Proof.Machine Sys2Proof.Claims Sys2Proof.Laws.Outside

/-- Settles O49, a part at a time: a write as a request and as a commit, the readers it dooms, a read, and the snoops of a window. -/
theorem outsideAccess : Obligations.OutsideAccess := by
  refine ⟨?write, ?commit, ?dooms, ?read, ?snoop, ?snoopWrite, ?drop⟩
  case write =>
    intro s i a l hi
    rw [exec_outsideWrite hi]
    refine ⟨fun hstage hhome hwin => ?_, fun hnot => ?_⟩
    · rw [outsideWrite_of_serves (serves_of_memory hstage hhome hwin)]
    · rw [outsideWrite_of_not_serves (serves_eq_false hnot), finish_nil, State.refuseAccess]
  case commit =>
    intro s a l b hwf hwin
    obtain ⟨hseq, hmem, hhcw⟩ := landExternal_mem (a := a) (l := l) hwin
    have hwin' : (s.landExternal [] (atAddr a l) 0).1.winOf b = none := by rw [State.winOf, hhcw]; exact hwin b
    rw [byteAt_of_no_window hwin', hmem, get_write hwf, byteAt_of_no_window (hwin b)]
    exact ⟨hseq, rfl⟩
  case dooms =>
    rintro s a l h ⟨t, ht, rfl, hzero, r, hr, k, hk, hline⟩
    exact doom_mem_doomJobs ht hzero hr (hline ▸ line_mem_atAddr hk)
  case read =>
    intro s a n hreq
    rw [exec_hostRead hreq]
    refine ⟨fun hstage hhome hwin => ?_, fun hnot => ?_⟩
    · rw [if_pos (serves_of_memory hstage hhome hwin), State.bytesAt]
    · rw [serves_eq_false hnot, if_neg Bool.false_ne_true, State.refuseAccess]
  case snoop => exact fun s a w halign hwin hlink => exec_cxlCacheSnoop_none halign hwin hlink
  case snoopWrite =>
    rintro s a w l u v js halign hwin hlink hlen rfl rfl hv
    exact exec_cxlCacheSnoop_some halign hwin hlink hlen hv
  case drop =>
    intro s line
    refine ⟨fun r hr => ?_, fun d c k h w hw => ?_⟩
    · rw [dropLine_rdc] at hr
      simpa using (List.mem_filter.mp hr).2
    · rw [dropLine_ways h] at hw
      simpa using (List.mem_filter.mp hw).2

end Sys2Proof.Proofs
end

section
/-! SUPPORT. Power-good, bring-up, the sweep, RESYNC and ATTEST (R352, R353, R357, R359, R361), and O50. -/
namespace Sys2Proof.Laws.BringUp

open Sys2Proof Sys2Proof.Machine Sys2Proof.Claims Sys2Proof.Laws.LoadStore

variable {s : State} {b n : Nat}

/-! ### Memory of which a part is kept -/

/-- Of a memory in canonical form a filter by address keeps some bytes, and the others read 0. -/
theorem get_filter_from {m : Memory} {lo : Nat} (hwf : Memory.wfFrom lo m = true) (p : Nat → Bool) (a : Nat) :
    Memory.get (m.filter fun c => p c.1) a = if p a = true then m.get a else 0 := by
  induction m generalizing lo with
  | nil => exact (ite_self _).symm
  | cons c m ih =>
    obtain ⟨k, v⟩ := c
    obtain ⟨-, hm⟩ := Bool.and_eq_true_iff.mp hwf
    have ih := ih hm
    have hbelow : a < k → Memory.get m a = 0 := fun hlt => Memory.get_below hm (Nat.lt_succ_of_lt hlt)
    by_cases hk : p k = true
    · rw [List.filter_cons_of_pos (p := fun c : Host.Cell => p c.1) hk, Memory.get, Memory.get, ih]
      by_cases heq : a = k
      · rw [if_pos heq, if_pos heq, heq, if_pos hk]
      · rw [if_neg heq, if_neg heq]
        split
        next hlt => exact (ite_self _).symm
        next => rfl
    · rw [List.filter_cons_of_neg (p := fun c : Host.Cell => p c.1) hk, ih, Memory.get]
      by_cases ha : p a = true
      · have heq : a ≠ k := fun heq => hk (heq ▸ ha)
        rw [if_pos ha, if_pos ha, if_neg heq]
        split
        next hlt => exact hbelow hlt
        next => rfl
      · rw [if_neg ha, if_neg ha]

theorem get_filter {m : Memory} (hwf : m.wf = true) (p : Nat → Bool) (a : Nat) :
    Memory.get (m.filter fun c => p c.1) a = if p a = true then m.get a else 0 :=
  get_filter_from hwf p a

/-- Of a memory in canonical form a part is cleared. -/
theorem get_filter_not {m : Memory} (hwf : m.wf = true) (p : Nat → Bool) (a : Nat) :
    Memory.get (m.filter fun c => !p c.1) a = if p a = true then 0 else m.get a := by
  rw [get_filter hwf fun a => !p a]
  cases p a <;> rfl

/-! ### Power-good (R352) -/

theorem verified_eq_true_iff (f : Firmware) : f.verified = true ↔
    f.scheme = .ecdsaP384Sha384 ∧ ecdsaVerify Config.firmwareKey (sha384 f.code) f.sig = true := by
  rw [Firmware.verified, Bool.and_eq_true, beq_iff_eq]

/-- The first firmware stage is judged, where there is one. -/
theorem any_take_one_iff (l : List Firmware) : ((l.take 1).any fun f => !f.verified) = true ↔ ∃ f, l.head? = some f ∧
    ¬(f.scheme = .ecdsaP384Sha384 ∧ ecdsaVerify Config.firmwareKey (sha384 f.code) f.sig = true) := by
  simp only [← verified_eq_true_iff]
  cases l with
  | nil => simp
  | cons f l => simp

/-- After power-good a die is as at reset, but for its fuses. -/
theorem powerGood_die {d : Nat} {x : Die}
    (h : ((List.range 4).map fun d => { Die.reset d with enabled := (s.die d).enabled })[d]? = some x) :
    x = { Die.reset d with enabled := (s.die d).enabled } := by
  rw [List.getElem?_map] at h
  obtain ⟨k, hk, rfl⟩ := Option.map_eq_some_iff.mp h
  obtain ⟨-, rfl⟩ := List.getElem?_eq_some_iff.mp hk
  rw [List.getElem_range]

/-! ### Stage B (R352, R353, R357) -/

/-- The state at the start of stage B, before the second tier is cleared. -/
def stageBegun (s : State) : State := { s with stage := .b, restoring := s.restore, restoreRun := false, failDie := 0, cause := 0 }

theorem stageB_of_restore (h : s.restore = true) : s.stageB = stageBegun s := by
  unfold State.stageB
  exact if_pos h

theorem stageB_of_no_restore (h : s.restore = false) : s.stageB =
    { stageBegun s with mem := s.mem.filter (fun c => !s.secondTier (c.1 / 65536)), sweeping := true, swept := [] } := by
  unfold State.stageB
  exact if_neg (ne_true_of_eq_false h)

section
variable (hstage : s.stage = .a) (hvalid : s.fwInvalid = false)
include hstage hvalid

theorem bootGo_of_verified (h : ∀ f ∈ s.firmware, f.verified = true) : s.bootGo = s.stageB := by
  have hall : s.firmware.all Firmware.verified = true := List.all_eq_true.mpr h
  rw [State.bootGo, hstage, hvalid, if_neg (by decide), if_pos hall]

theorem bootGo_of_unverified (h : ∃ f ∈ s.firmware, f.verified = false) : s.bootGo = { s with fwInvalid := true } := by
  obtain ⟨f, hf, hbad⟩ := h
  have hall : ¬s.firmware.all Firmware.verified = true := fun hall => by
    rw [List.all_eq_true.mp hall f hf] at hbad
    cases hbad
  rw [State.bootGo, hstage, hvalid, if_neg (by decide), if_neg hall]

end

theorem exec_stageBTimeout (h : s.stageAEnd + 50000 ≤ s.now) : exec .stageBTimeout s = .next s.bootGo := by
  rw [exec, execStageBTimeout, if_pos h]

theorem exec_stageBComplete_fresh (hstage : s.stage = .b) (hrun : s.restoreRun = false) (h : s.restoring = false) :
    exec (.stageBComplete none) s = .next { s.train with
      homing := [], moving := [], mem := s.mem.filter (fun c => !s.train.inHbm c.1), commitSeq := 0, published := [], stage := .c } := by
  rw [exec, execStageBComplete, hstage, hrun, if_neg (by decide)]
  exact if_neg (ne_true_of_eq_false h)

theorem exec_stageBComplete_restoring (hstage : s.stage = .b) (hrun : s.restoreRun = false) (h : s.restoring = true) :
    exec (.stageBComplete none) s = .next { s.train with restoreRun := true } := by
  rw [exec, execStageBComplete, hstage, hrun, if_neg (by decide)]
  exact if_pos h

theorem exec_stageBComplete_some (hstage : s.stage = .b) (hrun : s.restoreRun = false) (f : StageFailure) :
    exec (.stageBComplete (some f)) s =
      .next { s with stage := .a, restoring := false, sweeping := false, failDie := f.die, cause := f.cause } := by
  rw [exec, execStageBComplete, hstage, hrun, if_neg (by decide)]

/-! ### The sweep (R353) -/

theorem sweepPass_new (hsweeping : s.sweeping = true) (hsecond : s.secondTier b = true) (hnew : b ∉ s.swept) : s.sweepPass [b] =
    { s with swept := b :: s.swept, sweeping := decide (s.swept.length + 1 < s.tierBlocks) } := by
  simp [State.sweepPass, hsweeping, hsecond, hnew]

theorem sweepPass_elsewhere (h : s.sweeping = false ∨ s.secondTier b = false) : s.sweepPass [b] =
    { s with sweeping := s.sweeping && decide (s.swept.length < s.tierBlocks) } := by
  cases hsweeping : s.sweeping with
  | false =>
    rw [State.sweepPass, hsweeping, if_pos (by decide), Bool.false_and, ← hsweeping]
  | true =>
    have hsecond := h.resolve_left (by rw [hsweeping]; decide)
    simp [State.sweepPass, hsweeping, hsecond]

/-! ### RESYNC and ATTEST (R359, R361) -/

/-- An address register takes bits 51–6, a multiple of 64. -/
theorem wbits_addr (v : Word) : 64 * wbits v 51 6 = v.toNat % 2 ^ 52 / 64 * 64 := by
  rw [wbits, bitsOf]
  omega

theorem exec_resyncSummaryWritten (hbusy : s.resyncBusy = true) (hlen : 64 ≤ n)
    (hn : n = ofLeBytes ((List.range 8).map fun i => s.hostByte (s.resyncAddr + i))) :
    exec .resyncSummaryWritten s = .next { s with resyncBusy := false, hostMem := s.hostMem.write s.resyncAddr (s.summary n) } := by
  rw [exec, execResyncSummaryWritten, hbusy, if_neg (by decide), State.hostBytes, ← hn]
  dsimp only
  rw [if_neg (Nat.not_lt.mpr hlen), State.hostPut]

@[simp] theorem natBytes_length (n N : Nat) : (natBytes n N).length = n := by
  rw [natBytes_eq, List.length_map, List.length_range]

theorem length_resyncHeader (s : State) (last : Nat) : (s.resyncHeader last).length = 64 := by
  simp [State.resyncHeader, State.resyncSections, List.length_flatMap]

theorem slotEntries_length : ∀ e ∈ s.slotEntries, e.length = 16 := by
  intro e he
  obtain ⟨p, -, he⟩ := List.mem_flatMap.mp he
  simp only [List.mem_append, List.mem_map] at he
  obtain (⟨i, -, rfl⟩ | ⟨w, -, rfl⟩) | ⟨q, -, rfl⟩ := he
  · split <;> simp
  · simp
  · simp

theorem taskEntries_length : ∀ e ∈ s.taskEntries, e.length = 16 := by
  intro e he
  simp only [State.taskEntries, List.mem_append, List.mem_map] at he
  obtain ⟨t, -, rfl⟩ | ⟨x, -, rfl⟩ := he <;> simp

theorem chanEntries_length : ∀ e ∈ s.chanEntries, e.length = 16 := by
  intro e he
  obtain ⟨c, -, rfl⟩ := List.mem_map.mp he
  simp

theorem quotaEntries_length : ∀ e ∈ s.quotaEntries, e.length = 16 := by
  intro e he
  obtain ⟨p, -, he⟩ := List.mem_flatMap.mp he
  obtain ⟨q, -, rfl⟩ := List.mem_map.mp he
  simp

/-- Each entry of a summary has 16 bytes. -/
theorem resyncEntries_length : ∀ e ∈ s.resyncEntries, e.length = 16 := by
  intro e he
  simp only [State.resyncEntries, State.resyncSections, List.flatten_cons, List.flatten_nil, List.mem_append] at he
  split at he
  · exact quotaEntries_length e (by simpa using he)
  · obtain he | he | he | he | he := he
    · exact slotEntries_length e he
    · exact taskEntries_length e he
    · exact chanEntries_length e he
    · exact quotaEntries_length e he
    · cases he

theorem length_flatten_of_forall {l : List (List Byte)} {k : Nat} (h : ∀ e ∈ l, e.length = k) : l.flatten.length = l.length * k := by
  rw [List.length_flatten, List.map_congr_left h, List.map_const', List.sum_replicate, smul_eq_mul]

theorem length_summary (s : State) (n : Nat) :
    (s.summary n).length = 64 + min s.resyncEntries.length ((n - 64) / 16) * 16 := by
  have hentries : ∀ e ∈ s.resyncEntries.take (min s.resyncEntries.length ((n - 64) / 16)), e.length = 16 :=
    fun e he => resyncEntries_length e (List.mem_of_mem_take he)
  rw [State.summary, List.length_append, length_resyncHeader, length_flatten_of_forall hentries, List.length_take]
  simp

end Sys2Proof.Laws.BringUp

namespace Sys2Proof.Proofs

open Sys2Proof Sys2Proof.Machine Sys2Proof.Claims Sys2Proof.Laws.BringUp

/-- Settles O50, a part at a time: power-good, the start and the end of stage B, the sweep, RESYNC with its summary, and ATTEST. -/
theorem bringUpSteps : Obligations.BringUpSteps := by
  refine ⟨?powerGood, ?go, ?complete, ?sweep, ?noSweep, ?request, ?written, ?length, ?attest⟩
  case powerGood =>
    intro s
    refine ⟨_, rfl, rfl, rfl, rfl, rfl, rfl, rfl, rfl, rfl, rfl, rfl, rfl, rfl, rfl, fun d x hx => powerGood_die hx,
      fun hwf a => get_filter hwf persists a, any_take_one_iff s.firmware⟩
  case go =>
    rintro s b hstage hvalid rfl
    refine ⟨fun hverified => ?_, fun hbad => ?_⟩
    · have hgo := bootGo_of_verified hstage hvalid hverified
      refine ⟨fun hrestore => ?_, fun hfresh => ?_⟩
      · rw [stageB_of_restore hrestore] at hgo
        exact ⟨congrArg Host.Outcome.next hgo, fun htime => (exec_stageBTimeout htime).trans (congrArg Host.Outcome.next hgo)⟩
      · rw [stageB_of_no_restore hfresh] at hgo
        exact ⟨_, congrArg Host.Outcome.next hgo, fun htime => (exec_stageBTimeout htime).trans (congrArg Host.Outcome.next hgo), rfl,
          fun hwf a => get_filter_not hwf (fun a => s.secondTier (a / 65536)) a⟩
    · exact congrArg Host.Outcome.next (bootGo_of_unverified hstage hvalid hbad)
  case complete =>
    intro s hstage hrun
    refine ⟨fun hfresh => ?_, fun hrestore => ?_, exec_stageBComplete_some hstage hrun⟩
    · exact ⟨_, exec_stageBComplete_fresh hstage hrun hfresh, rfl, rfl, rfl, rfl, rfl, rfl, rfl, rfl,
        fun hwf a => get_filter_not hwf s.train.inHbm a⟩
    · exact ⟨_, exec_stageBComplete_restoring hstage hrun hrestore, hstage, rfl, rfl⟩
  case sweep => exact fun s b hsweeping hsecond hnew => congrArg Host.Outcome.next (sweepPass_new hsweeping hsecond hnew)
  case noSweep => exact fun s b h => congrArg Host.Outcome.next (sweepPass_elsewhere h)
  case request =>
    intro s v hidle
    rw [exec, execResyncRequest, hidle, if_neg Bool.false_ne_true, wbits_addr]
  case written => exact fun s n hbusy hn hlen => exec_resyncSummaryWritten hbusy hlen hn
  case length =>
    intro s n hlen
    rw [length_summary, State.resyncLength]
    omega
  case attest =>
    rintro s v u a nonce body rfl rfl rfl rfl
    rw [exec, execAttestRequest, wbits_addr]
    rfl

end Sys2Proof.Proofs
end

section
/-! SUPPORT. Pushes, pops and peeks: the channel they open, what they do and where they fail (R263, R266–R268, R275, R277), and O59. -/
namespace Sys2Proof.Laws.ChannelUse

open Sys2Proof Sys2Proof.Machine Sys2Proof.Claims Sys2Proof.Laws.LoadStore Sys2Proof.Laws.Waits

variable {s u : State} {t : Task} {i : Instr} {c : Chan} {e : List Byte} {a b d : Reg} {n num sub : Nat} {word : Bool}

/-! ### The channel that is opened (R263, R275) -/

theorem cte_cachesOnly (s : State) (t : Task) (num : Nat) : CachesOnly s (s.cte t num).1 := by
  have haccess := access_cachesOnly s t.die t.crec.ctx (s.cteAddr t.crec.ctx num) .load
  unfold State.cte
  split
  · exact .refl s
  · split
    · exact .refl s
    · split
      next v _ hv => rwa [hv] at haccess
      next v pa e hv =>
        rw [hv] at haccess
        dsimp only
        split
        · exact haccess
        · exact haccess.trans (touch_cachesOnly ..)

/-- Opening a channel reads its table entry and changes nothing else. -/
theorem openChan_fst (s : State) (t : Task) (num : Nat) : (s.openChan t num).1 = (s.cte t num).1 := by
  unfold State.openChan
  split
  next h => rw [h]
  next h => rw [h]
  next h =>
    rw [h]
    split
    · split
      · rfl
      · split <;> rfl
    · rfl

theorem openChan_cachesOnly {r : Except ChanErr Chan} (hopen : s.openChan t num = (u, r)) : CachesOnly s u := by
  have h := cte_cachesOnly s t num
  rwa [← openChan_fst, hopen] at h

/-- A task that has opened a channel traps as it was drawn. -/
theorem trapAt_opened {r : Except ChanErr Chan} (h : OnThread s t n) (hopen : (charged s t n).openChan (drawn s t n) num = (u, r))
    (code : Trap) (sub : Nat) : finish (u.trapAt (drawn s t n) code sub) = faultedIn u (drawn s t n) code sub := by
  obtain ⟨-, -, -, -, -, -, htasks⟩ := (openChan_cachesOnly hopen).keeps
  have hfound : u.task? (drawn s t n).handle = some (drawn s t n) := (task?_congr htasks _).trans (found_of_onThread h)
  rw [State.trapAt, State.takeTrap_thread hfound]
  rfl

theorem cte_of_down (hdown : s.ctxDown t.crec.ctx = true) : s.cte t num = (s, .error (.acc .host 0)) := by
  rw [State.cte, if_pos hdown]

theorem cte_of_beyond (hup : s.ctxDown t.crec.ctx = false) (hbeyond : s.chanCount t.crec.ctx ≤ num) : s.cte t num = (s, .ok none) := by
  rw [State.cte, hup, if_neg Bool.false_ne_true, if_pos hbeyond]

theorem openChan_of_cte_error {r : ChanErr} (h : s.cte t num = (u, .error r)) : s.openChan t num = (u, .error r) := by
  rw [State.openChan, h]

theorem openChan_of_beyond (h : s.cte t num = (u, .ok none)) : s.openChan t num = (u, .error (.misuse 1)) := by
  rw [State.openChan, h]

section
variable {pa : Nat} (hcte : s.cte t num = (u, .ok (some pa)))
include hcte

theorem openChan_of_no_channel (hnone : u.chan? t.crec.ctx num = none) : s.openChan t num = (u, .error (.misuse 2)) := by
  simp only [State.openChan, hcte, hnone]

theorem openChan_of_not_opened (hchan : u.chan? t.crec.ctx num = some c) (hstate : c.state ≠ .opened) :
    s.openChan t num = (u, .error (.misuse 2)) := by
  have hne : (c.state != .opened) = true := bne_iff_ne.mpr hstate
  simp only [State.openChan, hcte, hchan, hne, if_true]

variable (hchan : u.chan? t.crec.ctx num = some c) (hstate : c.state = .opened)
include hchan hstate

theorem openChan_of_hutchErr {x : AccErr} (herr : u.hutchErr c = some x) : s.openChan t num = (u, .error (.acc x 0)) := by
  have heq : (c.state != .opened) = false := by rw [hstate]; rfl
  simp only [State.openChan, hcte, hchan, heq, herr, Bool.false_eq_true, if_false]

theorem openChan_of_hutch_reached (hreached : u.hutchErr c = none) : s.openChan t num = (u, .ok c) := by
  have heq : (c.state != .opened) = false := by rw [hstate]; rfl
  simp only [State.openChan, hcte, hchan, heq, hreached, Bool.false_eq_true, if_false]

end

/-! ### The pages of a Hutch (R199, R363) -/

theorem hutchErr_of_down (h : ∃ p ∈ c.usedPages, u.linkDown (c.pages.getD p 0) = true) : u.hutchErr c = some .host := by
  obtain ⟨p, hp, hdown⟩ := h
  unfold State.hutchErr
  exact if_pos (List.any_eq_true.mpr ⟨_, List.mem_map_of_mem (List.mem_append_left _ hp), hdown⟩)

theorem no_page_down (hup : ∀ p, u.linkDown (c.pages.getD p 0) = false) (l : List Nat) :
    ¬((l.map fun p => c.pages.getD p 0).any u.linkDown = true) := by
  simp only [List.any_map, List.any_eq_true, not_exists, not_and, Function.comp_apply]
  intro p _
  rw [hup p]
  exact Bool.false_ne_true

theorem hutchErr_of_homeless (hup : ∀ p, u.linkDown (c.pages.getD p 0) = false)
    (h : ∃ p ∈ c.usedPages, u.hasHome (c.pages.getD p 0) = false) : u.hutchErr c = some .perm := by
  obtain ⟨p, hp, hlost⟩ := h
  unfold State.hutchErr
  rw [if_neg (no_page_down hup _)]
  exact if_pos (List.any_eq_true.mpr ⟨_, List.mem_map_of_mem (List.mem_append_left _ hp), by rw [hlost]; rfl⟩)

theorem hutchErr_of_reached (hup : ∀ p, u.linkDown (c.pages.getD p 0) = false) (hhome : ∀ p, u.hasHome (c.pages.getD p 0) = true) :
    u.hutchErr c = none := by
  unfold State.hutchErr
  rw [if_neg (no_page_down hup _)]
  refine if_neg ?_
  simp only [List.any_map, List.any_eq_true, not_exists, not_and, Function.comp_apply]
  intro p _
  rw [hhome p]
  exact Bool.false_ne_true

/-! ### Scratch after a draw (R144) -/

theorem drawn_elementTrap (m addr size : Nat) : (drawn s t m).elementTrap addr size = t.elementTrap addr size := by
  simp [Task.elementTrap]

theorem scratchRead_drawn (m addr len : Nat) : u.scratchRead (drawn s t m) addr len = u.scratchRead t addr len := by
  simp [State.scratchRead]

/-! ### Pushes (R267, R277) -/

theorem pushBody_of_error {r : ChanErr} (hbad : chanBad (t.x a) = false) (hopen : s.openChan t (chanNum (t.x a)) = (u, .error r)) :
    pushBody i word a b s t = u.chanErr t i (chanNum (t.x a)) r := by
  simp only [pushBody, hbad, hopen, Bool.false_eq_true, if_false]

section
variable (hbad : chanBad (t.x a) = false) (hopen : s.openChan t (chanNum (t.x a)) = (u, .ok c))
include hbad hopen

theorem pushBody_of_misuse (hside : c.pushBad t.handle word = some sub) :
    pushBody i word a b s t = u.trapAt t .channelMisuse (sub + 16 * chanNum (t.x a)) := by
  simp only [pushBody, hbad, hopen, hside, Bool.false_eq_true, if_false]
  rfl

variable (hside : c.pushBad t.handle word = none)
include hside

theorem pushBody_of_waited (hdata : t.pushData = some e) : pushBody i word a b s t = u.pushWait t i c e := by
  simp only [pushBody, hbad, hopen, hside, hdata, Bool.false_eq_true, if_false]

variable (hdata : t.pushData = none) (hro : t.crec.rohint = false)
include hdata hro

theorem pushBody_of_small (hsize : c.size ≤ 8) : pushBody i word a b s t = u.pushWait t i c (lowBytes c.size (t.x b)) := by
  simp only [pushBody, hbad, hopen, hside, hdata, hro, hsize, lowBytes_eq_natBytes, Bool.false_eq_true, if_false, if_true]

theorem pushBody_of_large (hsize : 8 < c.size) (htrap : t.elementTrap (t.x b).toNat c.size = none)
    (hnest : t.nestTouches true (t.x b).toNat c.size = false) :
    pushBody i word a b s t = u.pushWait t i c (u.scratchRead t (t.x b).toNat c.size) := by
  have hlarge : ¬c.size ≤ 8 := Nat.not_le.mpr hsize
  simp only [pushBody, hbad, hopen, hside, hdata, hro, hlarge, htrap, hnest, Bool.false_eq_true, if_false]

end

/-- An element that is read waits for room, and is held once there is room. -/
theorem pushes_pushWait (u : State) (t : Task) (i : Instr) (c : Chan) (e : List Byte) :
    Pushes u t i c e (.next (finish (u.pushWait t i c e))) := by
  refine ⟨fun hfull => ?_, fun hroom t1 hgrown => ?_⟩
  · have hno : c.roomFor { t with pushData := some e } = false := decide_eq_false (Nat.not_le.mpr hfull)
    rw [State.pushWait, hno, if_pos (by decide), finish_nil]
  · have hyes : c.roomFor { t with pushData := some e } = true := decide_eq_true hroom
    have hheld : u.holdPush { t with pushData := some e } 0 c e =
        .ok { t1 with pushes := t1.pushes ++ [(c.num, e)], pushData := none } := by
      obtain ⟨hline, hgrow⟩ | ⟨hline, rfl⟩ := hgrown
      · unfold State.holdPush
        rw [hgrow]
        exact if_pos hline
      · exact if_neg hline
    rw [State.pushWait, hyes, if_neg (by decide), hheld]
    exact congrArg Host.Outcome.next (finish_nil _)

theorem exec_push (hi : i = .chPushW a b ∧ word = true ∨ i = .chPushD a b ∧ word = false) :
    exec i s = issueTask i 2 noTrap (pushBody i word a b) s := by
  obtain ⟨rfl, rfl⟩ | ⟨rfl, rfl⟩ := hi
  · rw [exec, execChPushW]
  · rw [exec, execChPushD]

/-! ### Waits that end (R267, R268) -/

/-- The thread of a task that waits in an instruction, paid, and may go on. -/
theorem waiting_of_blocked (hrun : t.gate = .running) (hthawed : t.threadFrozen = false) (hpaid : t.paid = true)
    (hwait : t.wait = some i) : t.waiting = some i := by
  rw [Task.waiting, hrun, hthawed, hpaid, ← hwait]
  rfl

theorem exec_channelPushRelease (hi : i = .chPushW a b ∧ word = true ∨ i = .chPushD a b ∧ word = false)
    (hfound : s.task? t.handle = some t) (hwaiting : t.waiting = some i) :
    exec (.channelPushRelease t.handle) s = .next (finish (pushBody i word a b s t)) := by
  rw [exec, execChannelPushRelease, State.onTask_some hfound, hwaiting]
  obtain ⟨rfl, rfl⟩ | ⟨rfl, rfl⟩ := hi <;> rfl

theorem exec_channelPopRelease (hi : popForm i = some (word, d, a, b)) (hfound : s.task? t.handle = some t)
    (hwaiting : t.waiting = some i) :
    exec (.channelPopRelease t.handle) s = .next (finish (popBody i word d a b s t)) := by
  rw [exec, execChannelPopRelease, State.onTask_some hfound, hwaiting]
  unfold popForm at hi
  split at hi <;> cases hi <;> rfl

/-! ### Pops and peeks (R268, R277, R327, R372) -/

theorem popBody_of_error {r : ChanErr} (hbad : chanBad (t.x a) = false) (hopen : s.openChan t (chanNum (t.x a)) = (u, .error r)) :
    popBody i word d a b s t = u.chanErr t i (chanNum (t.x a)) r := by
  simp only [popBody, hbad, hopen, Bool.false_eq_true, if_false]

theorem peekBody_of_error {r : ChanErr} (hbad : chanBad (t.x a) = false) (hopen : s.openChan t (chanNum (t.x a)) = (u, .error r)) :
    peekBody d a s t = u.chanErr t (.chPeek d a) (chanNum (t.x a)) r := by
  simp only [peekBody, hbad, hopen, Bool.false_eq_true, if_false]

/-- Whether a pop stores its element in scratch (R277). -/
def storesElement (c : Chan) (b : Reg) : Bool := c.size ≥ 16 && b ≠ 0

theorem storesElement_eq_true (hsize : 16 ≤ c.size) (hb : b ≠ 0) : storesElement c b = true := by
  rw [storesElement, decide_eq_true hsize, decide_eq_true hb, Bool.and_self]

theorem storesElement_eq_false (h : c.size < 16 ∨ b = 0) : storesElement c b = false := by
  obtain h | h := h <;> simp [storesElement, h]

/-- A low-charge notice that is popped exempts the task by its own die and lead cluster, whatever the registers hold (R372). -/
theorem noticePopped_setX {v : State} {x : Entry} (hdies : v.dies = u.dies) (w : Word) : v.noticePopped (t.setX d w) x =
    (if x.notice = true ∧ (1 ≤ (u.die t.die).step t.lead ∨ 0 < t.exempt) then { t with exempt := 2048 } else t).setX d w := by
  have hdie : v.die (t.setX d w).die = u.die t.die := by rw [State.die, State.die, hdies]; rfl
  have hguard : (x.notice && (decide ((v.die (t.setX d w).die).step (t.setX d w).lead ≥ 1) || decide ((t.setX d w).exempt > 0))) =
      decide (x.notice = true ∧ (1 ≤ (u.die t.die).step t.lead ∨ 0 < t.exempt)) := by
    rw [hdie, Bool.decide_and, Bool.decide_or, Bool.decide_eq_true]
    rfl
  rw [State.noticePopped, hguard]
  simp only [decide_eq_true_eq]
  split <;> rfl

/-- What a pop does once it has passed its checks. -/
def popOpened (u : State) (t : Task) (i : Instr) (c : Chan) (d b : Reg) : State × List Job :=
  match c.next with
  | none => (u.putTask (t.block i), [])
  | some x =>
    if storesElement c b && t.nestTouches true (t.x b).toNat c.size then (u.putTask (t.block i), [])
    else
      let v := u.putChan (c.popNext t.handle)
      let v := if storesElement c b then v.scratchWrite t (t.x b).toNat x.data else v
      (v.putTask ((v.noticePopped (t.setX d (c.lowWord x)) x).advance 4), [])

section
variable (hbad : chanBad (t.x a) = false) (hopen : s.openChan t (chanNum (t.x a)) = (u, .ok c))
include hbad hopen

theorem popBody_of_misuse (hside : c.popBad t.handle (some word) = some sub) :
    popBody i word d a b s t = u.trapAt t .channelMisuse (sub + 16 * chanNum (t.x a)) := by
  simp only [popBody, hbad, hopen, hside, Bool.false_eq_true, if_false]
  rfl

theorem popBody_of_checked (hside : c.popBad t.handle (some word) = none)
    (htrap : 16 ≤ c.size → b ≠ 0 → t.elementTrap (t.x b).toNat c.size = none) : popBody i word d a b s t = popOpened u t i c d b := by
  have hnone : (if c.size ≥ 16 && b ≠ 0 then t.elementTrap (t.x b).toNat c.size else none) = none := by
    split
    next h =>
      simp only [Bool.and_eq_true, decide_eq_true_eq] at h
      exact htrap h.1 h.2
    next => rfl
  simp only [popBody, hbad, hopen, hside, hnone, Bool.false_eq_true, if_false]
  rfl

variable (hside : c.popBad t.handle none = none)
include hside

theorem peekBody_of_empty (hnone : c.next = none) : peekBody d a s t = (u.putTask (t.block (.chPeek d a)), []) := by
  simp only [peekBody, hbad, hopen, hside, hnone, Bool.false_eq_true, if_false]

theorem peekBody_of_entry {x : Entry} (hnext : c.next = some x) :
    peekBody d a s t = (u.putTask ((t.setX d (c.lowWord x)).advance 4), []) := by
  simp only [peekBody, hbad, hopen, hside, hnext, Bool.false_eq_true, if_false]

end

/-- A pop waits for an entry, and takes the oldest. -/
theorem pops_popOpened (u : State) (t : Task) (i : Instr) (c : Chan) (d b : Reg) :
    Pops u t i c d b (.next (finish (popOpened u t i c d b))) := by
  refine ⟨fun hnone => ?_, ?_⟩
  · rw [popOpened, hnone, finish_nil]
  · rintro x t2 hnext rfl
    refine ⟨fun hregister => ?_, fun hsize hb hnest => ?_⟩
    · simp only [popOpened, hnext, storesElement_eq_false hregister, Bool.false_and, Bool.false_eq_true, if_false, finish_nil]
      rw [noticePopped_setX rfl]
      rfl
    · simp only [popOpened, hnext, storesElement_eq_true hsize hb, hnest, Bool.and_false, Bool.false_eq_true, if_false, if_true,
        finish_nil]
      rw [noticePopped_setX rfl]
      rfl

theorem exec_pop (hi : popForm i = some (word, d, a, b)) : exec i s = issueTask i 2 noTrap (popBody i word d a b) s := by
  unfold popForm at hi
  split at hi <;> cases hi
  · rw [exec, execChPopW]
  · rw [exec, execChPopD]

/-! ### Where they fail (R199, R263, R275, R363) -/

theorem chanErr_acc {x : AccErr} (hmiss : x ≠ .miss) (va : Nat) : u.chanErr t i num (.acc x va) = u.trapAt t x.trap 0 := by
  cases x
  case miss => exact absurd rfl hmiss
  all_goals rfl

/-- A push, pop or peek whose channel does not open ends as the reason says. -/
theorem exec_of_openChan_error {r : ChanErr} (hi : channelForm i = some (n, a)) (h : OnThread s t n) (hbad : chanBad (t.x a) = false)
    (hopen : (charged s t n).openChan (drawn s t n) (chanNum (t.x a)) = (u, .error r)) :
    exec i s = .next (finish (u.chanErr (drawn s t n) i (chanNum (t.x a)) r)) := by
  rw [← drawn_x s t n] at hbad hopen ⊢
  unfold channelForm at hi
  split at hi <;> cases hi
  next => rw [exec, execChPushW, issueTask_thread h rfl, pushBody_of_error hbad hopen]
  next => rw [exec, execChPushD, issueTask_thread h rfl, pushBody_of_error hbad hopen]
  next => rw [exec, execChPopW, issueTask_thread h rfl, popBody_of_error hbad hopen]
  next => rw [exec, execChPopD, issueTask_thread h rfl, popBody_of_error hbad hopen]
  next => rw [exec, execChPeek, issueTask_thread h rfl, peekBody_of_error hbad hopen]

end Sys2Proof.Laws.ChannelUse

namespace Sys2Proof.Proofs

open Sys2Proof Sys2Proof.Machine Sys2Proof.Claims Sys2Proof.Laws.ChannelUse Sys2Proof.Laws.LoadStore

theorem channelPushes : ChannelPushes := by
  intro i word a b hi
  refine ⟨?issue, ?misuse, ?release⟩
  case issue =>
    intro s t u c e h hbad hdata hro hopen hside hread
    rw [exec_push hi, issueTask_thread h rfl]
    rw [← drawn_x s t 2] at hbad hopen hread
    rw [← drawn_handle s t 2] at hside
    rw [← drawn_pushData s t 2] at hdata
    have hro' : (drawn s t 2).crec.rohint = false := by rwa [drawn_crec]
    obtain ⟨hsize, rfl⟩ | ⟨hsize, htrap, hnest, rfl⟩ := hread
    · rw [pushBody_of_small hbad hopen hside hdata hro' hsize]
      exact pushes_pushWait ..
    · rw [pushBody_of_large hbad hopen hside hdata hro' hsize (by rwa [drawn_elementTrap]) (by rwa [drawn_nestTouches]),
        scratchRead_drawn]
      exact pushes_pushWait ..
  case misuse =>
    intro s t u c sub h hbad hopen hside
    rw [exec_push hi, issueTask_thread h rfl,
      pushBody_of_misuse (by rwa [drawn_x]) (by rwa [drawn_x]) (by rwa [drawn_handle]), drawn_x, trapAt_opened h hopen]
  case release =>
    intro s t u c e hfound hrun hthawed hpaid hwait hbad hdata hopen hside
    rw [exec_channelPushRelease hi hfound (waiting_of_blocked hrun hthawed hpaid hwait), pushBody_of_waited hbad hopen hside hdata]
    exact pushes_pushWait ..

theorem channelPops : ChannelPops := by
  refine ⟨fun i word d a b hi => ⟨?issue, ?misuse, ?release⟩, ?peek⟩
  case issue =>
    intro s t u c h hbad hopen hside htrap
    rw [exec_pop hi, issueTask_thread h rfl, popBody_of_checked (c := c) (by rwa [drawn_x]) (by rwa [drawn_x]) (by rwa [drawn_handle])
      (by rwa [drawn_x, drawn_elementTrap])]
    exact pops_popOpened ..
  case misuse =>
    intro s t u c sub h hbad hopen hside
    rw [exec_pop hi, issueTask_thread h rfl,
      popBody_of_misuse (by rwa [drawn_x]) (by rwa [drawn_x]) (by rwa [drawn_handle]), drawn_x, trapAt_opened h hopen]
  case release =>
    intro s t u c hfound hrun hthawed hpaid hwait hbad hopen hside htrap
    rw [exec_channelPopRelease hi hfound (waiting_of_blocked hrun hthawed hpaid hwait), popBody_of_checked hbad hopen hside htrap]
    exact pops_popOpened ..
  case peek =>
    intro d a s t u c h hbad hopen hside
    rw [exec, execChPeek, issueTask_thread h rfl]
    rw [← drawn_x s t 1] at hbad hopen
    rw [← drawn_handle s t 1] at hside
    refine ⟨fun hnone => ?_, fun x hnext => ?_⟩
    · rw [peekBody_of_empty hbad hopen hside hnone, finish_nil]
    · rw [peekBody_of_entry hbad hopen hside hnext, finish_nil]
      rfl

theorem channelFails : ChannelFails := by
  refine ⟨?fails, ?opens, ?down⟩
  case fails =>
    intro i n a s t u hi h hbad
    refine ⟨fun sub hopen => ?_, fun e va hopen hmiss => ?_, fun va hopen => ?_⟩
    · rw [exec_of_openChan_error hi h hbad hopen]
      exact congrArg Host.Outcome.next (trapAt_opened h hopen ..)
    · rw [exec_of_openChan_error hi h hbad hopen, chanErr_acc hmiss, trapAt_opened h hopen]
    · rw [exec_of_openChan_error hi h hbad hopen, State.chanErr, finish_nil, ← drawn_pc s t n]
      rfl
  case opens =>
    intro s t num hup
    refine ⟨fun hbeyond => openChan_of_beyond (cte_of_beyond hup hbeyond), fun u pa hcte => ⟨openChan_of_no_channel hcte, ?_⟩⟩
    intro c hchan
    refine ⟨openChan_of_not_opened hcte hchan, fun hstate hdown => ?_, fun hstate hlinks hlost => ?_, fun hstate hlinks hhome => ?_⟩
    · exact openChan_of_hutchErr hcte hchan hstate (hutchErr_of_down hdown)
    · exact openChan_of_hutchErr hcte hchan hstate (hutchErr_of_homeless hlinks hlost)
    · exact openChan_of_hutch_reached hcte hchan hstate (hutchErr_of_reached hlinks hhome)
  case down => exact fun s t num hdown => openChan_of_cte_error (cte_of_down hdown)

/-- Settles O59: a push or pop opens its channel, passes the checks of its side and width, and waits or goes on alike at issue and after a
wait; a channel that does not open decides how it fails. -/
theorem channelTransfers : Obligations.ChannelTransfers := ⟨channelPushes, channelPops, channelFails⟩

end Sys2Proof.Proofs
end

section
/-! SUPPORT. The replies of portal requests and of gather requests (R236, R311, R315), and O33. -/
namespace Sys2Proof.Laws.Replying

open Sys2Proof Sys2Proof.Machine Sys2Proof.Claims Sys2Proof.Laws.Copying

variable {s u : State} {t t' : Task} {cell req lane place idx : Nat} {x : Cell} {v : BitVec 240} {w : Word} {a b : Ag}

/-! ### Portal replies (R311) -/

/-- A portal cell of a task whose request `req` a reply may answer: it is outstanding for `lane`. -/
structure Requested (t : Task) (cell req : Nat) (x : Cell) (v : BitVec 240) (lane : Nat) : Prop where
  cell_eq : t.cell? cell = some x
  frame_eq : x.cu = some v
  lane_eq : x.reqLane req = some lane

/-- A portal cell whose request `req` has its value in its lanes. -/
def filled (x : Cell) (v : BitVec 240) (req : Nat) (w : Word) : Cell :=
  { x with portal := x.portal.map fun f => f.fill req (portalWide (cuImm v 0)) w }

/-- A task that a reply has reached: one request fewer is outstanding, and the reply is progress (R319). -/
def replied (t : Task) (y : Cell) : Task :=
  { t.putCell y with portalReqs := t.portalReqs - 1, hangCount := 0 }

theorem portalAnswer_of_none (h : Requested t cell req x v lane) :
    s.portalAnswer t cell req none = s.taskFault t .host (lane + 16 * cell) t.openGo := by
  simp only [State.portalAnswer, h.cell_eq, h.frame_eq, h.lane_eq]

/-- The reply leaves whether the fabric works, so that the task before it decides whether an item may leave. -/
theorem portalAnswer_of_value (h : Requested t cell req x v lane) :
    s.portalAnswer t cell req (some w) =
      ((if t.running then s.orLeave (replied t (filled x v req w)) (.cu cell)
          ((replied t (filled x v req w)).portalOut (filled x v req w) v)
        else s.putTask (replied t (filled x v req w))).tidy, []) := by
  rw [State.portalAnswer, h.cell_eq]
  dsimp only
  split
  next v' lane' hframe hlane =>
    cases h.frame_eq.symm.trans hframe
    rfl
  next hnone => exact absurd h.lane_eq (hnone v lane h.frame_eq)

theorem exec_portalTimeout_of_requested (ht : s.task? t.handle = some t) (h : Requested t cell req x v lane) :
    exec (.portalTimeout t.handle cell req) s = .next (finish (s.taskFault t .host (lane + 16 * cell) t.openGo)) := by
  rw [exec, execPortalTimeout, State.onTask_some ht, portalAnswer_of_none h]

theorem exec_portalReply_of_error (ht : s.task? t.handle = some t) (h : Requested t cell req x v lane) :
    exec (.portalReply t.handle cell req false w) s = .next (finish (s.taskFault t .host (lane + 16 * cell) t.openGo)) := by
  rw [exec, execPortalReply, State.onTask_some ht, if_neg Bool.false_ne_true, portalAnswer_of_none h]

theorem exec_portalReply_of_value (ht : s.task? t.handle = some t) (h : Requested t cell req x v lane) :
    exec (.portalReply t.handle cell req true w) s =
      .next (if t.running then s.orLeave (replied t (filled x v req w)) (.cu cell)
          ((replied t (filled x v req w)).portalOut (filled x v req w) v)
        else s.putTask (replied t (filled x v req w))).tidy := by
  rw [exec, execPortalReply, State.onTask_some ht, if_pos rfl, portalAnswer_of_value h, finish_nil]

/-! ### Gather replies (R236) -/

theorem exec_gatherReply_of_ok (hworks : Works s t) (ha : t.ag? place = some a) (hmode : agMode a.frame = 2)
    (hfree : t.portFrozen a.port = false) (hread : s.gatherReply t a idx = .ok (u, t')) (hb : t'.ag? place = some b) :
    exec (.gatherReply t.handle place idx) s = .next
      (u.orLeave { t' with hangCount := 0 } (.ag place) (({ t' with hangCount := 0 } : Task).gatherEmit b)) := by
  have hgoes : (!t.running || decide (agMode a.frame ≠ 2) || t.portFrozen a.port) = false := by
    simp [running_of_works hworks, hmode, hfree]
  obtain ⟨ht, -⟩ := hworks
  rw [exec, execGatherReply, State.onTask_some ht]
  simp only [ha, hgoes, Bool.false_eq_true, if_false, hread, hb, finish_nil]

end Sys2Proof.Laws.Replying

namespace Sys2Proof.Proofs

open Sys2Proof Sys2Proof.Machine Sys2Proof.Claims Sys2Proof.Laws.Replying

/-- Settles O33: a portal request that times out or fails, one that is answered while the task's fabric rests or works, and the read of
a gather request. -/
theorem replies : Obligations.Replies := by
  refine ⟨?portal, ?gather⟩
  case portal =>
    intro s t cell req x v lane w ht hcell hframe hlane
    have hreq : Requested t cell req x v lane := ⟨hcell, hframe, hlane⟩
    refine ⟨exec_portalTimeout_of_requested ht hreq, exec_portalReply_of_error ht hreq, ?_⟩
    rintro y t' rfl rfl
    refine ⟨fun hrests => ?_, fun hruns => ?_⟩
    · rw [exec_portalReply_of_value ht hreq, hrests, if_neg Bool.false_ne_true]
      rfl
    · rw [exec_portalReply_of_value ht hreq, hruns, if_pos rfl]
      rfl
  case gather =>
    exact fun s t place idx a u t' b => exec_gatherReply_of_ok

end Sys2Proof.Proofs
end

section
/-! SUPPORT. The matrix commands at issue: the operand that names an engine, the binding, the queued commands, the status, and the
traps of all of them (R245, R252–R256, R258–R261), and O60. -/
namespace Sys2Proof.Laws.MatrixIssue

open Sys2Proof Sys2Proof.Machine Sys2Proof.Claims Sys2Proof.Laws.Waits Sys2Proof.Laws.Nests Sys2Proof.Laws.Streams
  Sys2Proof.Laws.ChargeInstr Sys2Proof.Laws.Copying Sys2Proof.Laws.Matrix

variable {s : State} {t : Task} {i : Instr} {a b d : Reg} {sec : BitVec 5} {e : Engine} {xa xb r : Word} {needFmt : Bool} {c : Trap}
  {m n : Nat}

/-! ### The operand (R252) -/

@[simp] theorem drawn_mxBad : (drawn s t m).mxBad xa r needFmt = t.mxBad xa r needFmt := by
  simp [Task.mxBad]

/-- Register `a` of a task names its allotted engine `e`, and sets none of the reserved bits `r`. -/
structure Names (t : Task) (a : Reg) (r : Word) (e : Engine) : Prop where
  allotted : (t.x a).toNat % 16 < t.crec.engines
  reserved : t.x a &&& r = 0
  found : t.engine? ((t.x a).toNat % 16) = some e

/-- The checks on such an operand leave the format, where the command needs one. -/
theorem mxBad_of_names (hnames : Names t a r e) :
    t.mxBad (t.x a) r needFmt = if needFmt && e.fmt.isNone then some .mxFormat else none := by
  obtain ⟨hk, hreserved, he⟩ := hnames
  simp [Task.mxBad, wbits_engine, hreserved, he, hk]

theorem mxBad_of_formatted (hnames : Names t a r e) (hfmt : needFmt = true → e.fmt ≠ none) : t.mxBad (t.x a) r needFmt = none := by
  rw [mxBad_of_names hnames]
  exact if_neg (by simpa using hfmt)

theorem mxBad_of_unset (hnames : Names t a r e) (hfmt : e.fmt = none) : t.mxBad (t.x a) r true = some .mxFormat := by
  rw [mxBad_of_names hnames, hfmt]
  rfl

/-- An engine at or above the count, or a reserved bit. -/
theorem mxBad_of_illegal (h : t.crec.engines ≤ xa.toNat % 16 ∨ xa &&& r ≠ 0) : t.mxBad xa r needFmt = some .illegalOp := by
  rw [Task.mxBad, wbits_engine]
  exact if_pos (by simpa using h)

section
variable {f : State → Task → Engine → State × List Job}

theorem onEngine_of_bad (h : t.mxBad xa r needFmt = some c) : onEngine xa r needFmt f s t = s.trapAt t c 0 := by
  simp only [onEngine, h]

theorem onEngine_of_accepted (h : t.mxBad xa r needFmt = none) (he : t.engine? (xa.toNat % 16) = some e) :
    onEngine xa r needFmt f s t = f s t e := by
  simp only [onEngine, h, wbits_engine, he]

end

/-- Every command that names an engine issues in one way: engines there must be, then it draws, then its operand is checked. -/
theorem exec_engineOperand (hi : engineOperand i = some (n, a, r, needFmt)) (s : State) :
    ∃ kind units, ∃ f : Task → State → Task → Engine → State × List Job,
      exec i s = issueCmd i n kind noEngines units (fun s t => onEngine (t.x a) r needFmt (f t) s t) s := by
  unfold engineOperand at hi
  split at hi <;> cases hi
  all_goals exact ⟨_, _, _, rfl⟩

theorem exec_of_bad_operand (hi : engineOperand i = some (n, a, r, needFmt)) (h : OnThread s t n) (hany : t.crec.engines ≠ 0)
    (hbad : t.mxBad (t.x a) r needFmt = some c) : exec i s = .next (faultedIn (charged s t n) (drawn s t n) c 0) := by
  obtain ⟨kind, units, f, hexec⟩ := exec_engineOperand hi s
  rw [hexec, issueCmd_thread h (noEngines_of_some hany), drawn_x, onEngine_of_bad (by rwa [drawn_mxBad]), trapAt_charged h]

/-- A command that draws 1 grain does its work on the engine that its operand names. -/
theorem issueMx_of_names {f : Task → State → Task → Engine → State × List Job} (h : OnThread s t 1)
    (hnames : Names t a r e) (hfmt : needFmt = true → e.fmt ≠ none) :
    issueMx i (fun s t => onEngine (t.x a) r needFmt (f t) s t) s =
      .next (finish (f (drawn s t 1) (charged s t 1) (drawn s t 1) e)) := by
  have hok : (drawn s t 1).mxBad (t.x a) r needFmt = none := by rw [drawn_mxBad, mxBad_of_formatted hnames hfmt]
  have hany : t.crec.engines ≠ 0 := Nat.ne_zero_of_lt hnames.allotted
  rw [issueMx, issueTask_thread h (noEngines_of_some hany), drawn_x,
    onEngine_of_accepted hok (by rw [drawn_engine?, hnames.found])]

/-! ### `mx.fmt` (R253) -/

/-- What `mx.fmt` does with the engine that its operand names: the format code first, then the pitch, then the wait for the queues. -/
theorem exec_mxFmt_of_names (h : OnThread s t 1) (hnames : Names t a 0xFFFFFF0000008000 e) :
    exec (.mxFmt sec a b) s = .next (finish (
      if (t.x a).toNat / 16 % 16 > 8 then (charged s t 1).trapAt (drawn s t 1) .mxFormat 0
      else if (t.x a).toNat / 2 ^ 16 % 2 ^ 24 = 0 then (charged s t 1).trapAt (drawn s t 1) .illegalOp 0
      else if !e.empty then ((charged s t 1).putTask ((drawn s t 1).block (.mxFmt sec a b)), [])
      else State.mxBind sec.toNat (t.x a) (t.x b) (charged s t 1) (drawn s t 1) e)) := by
  rw [exec, execMxFmt, issueMx_of_names h hnames (by simp)]
  simp only [drawn_x]
  rfl

/-- An engine is bound where the other engines of its section have the same format, the base of the destination is aligned, and the
links of its sides carry what they must. -/
theorem mxBind_of_ok (hsame : ∀ o ∈ t.engines, o.k ≠ e.k → o.sec = some n → o.fmt = some (xa.toNat / 16 % 16))
    (halign : xb.toNat % destBytes (xa.toNat / 16 % 16) = 0)
    (hside : sideOk t.frames t.crec.rows e.k (xa.toNat / 2 ^ 12 % 4) (xa.getLsbD 11) = true) :
    State.mxBind n xa xb s t e = (s.putTask ((t.putEngine (e.bind n xa xb)).advance 4), []) := by
  have hcode : wbits xa 7 4 = xa.toNat / 16 % 16 := rfl
  have hsides : wbits xa 13 12 = xa.toNat / 2 ^ 12 % 4 := rfl
  have hagree : (t.engines.any fun o => o.k ≠ e.k && o.sec == some n && o.fmt != some (xa.toNat / 16 % 16)) = false := by
    rw [List.any_eq_false]
    intro o ho
    simpa using hsame o ho
  rw [State.mxBind, hcode, hsides, hagree, if_neg Bool.false_ne_true, if_neg (not_not.mpr halign), hside, if_neg (by decide)]

/-! ### The queued commands (R255, R258, R259) -/

theorem exec_mxSwap_of_names (h : OnThread s t 1) (hnames : Names t a 0xFFFFFFFFFFFFFFF0 e) (hfmt : e.fmt ≠ none) :
    exec (.mxSwap a) s = .next ((charged s t 1).putTask (((drawn s t 1).putEngine (e.pushArr .swap t.pc)).advance 4)) := by
  rw [exec, execMxSwap, issueMx_of_names h hnames fun _ => hfmt, finish_nil, drawn_pc]

theorem exec_mxCsr_of_names (h : OnThread s t 1) (hnames : Names t a 0xFFFFFFFFFFFFFFF0 e) (hfmt : e.fmt ≠ none) :
    exec (.mxCsr a b) s = .next (finish (State.sparseLoad .csr (t.x b) (charged s t 1) (drawn s t 1) e)) := by
  rw [exec, execMxCsr, issueMx_of_names h hnames fun _ => hfmt, drawn_x]

theorem exec_mxCond_of_names (h : OnThread s t 1) (hnames : Names t a 0xFFFFFFFFFFFFFFC0 e) (hfmt : e.fmt ≠ none) :
    exec (.mxCond a b) s = .next (finish
      (State.sparseLoad (.cond ((t.x a).toNat / 16 % 4 + 1)) (t.x b) (charged s t 1) (drawn s t 1) e)) := by
  rw [exec, execMxCond, issueMx_of_names h hnames fun _ => hfmt, drawn_x]
  rfl

/-- A build of the shadow plane is queued under a number of its own. -/
theorem sparseLoad_charged {kind : LoadKind} (hcode : e.code < 2) (halign : xb.toNat % 64 = 0) :
    State.sparseLoad kind xb (charged s t 1) (drawn s t 1) e = ((numbered (charged s t 1) 1).putTask
      (((drawn s t 1).putEngine (e.pushLoad s.nextId kind xb t.pc 0)).advance 4), []) := by
  rw [State.sparseLoad, if_neg (Nat.not_le.mpr hcode), if_neg (not_not.mpr ((wbits_desc xb).trans halign)), newId_charged, drawn_pc]

theorem sparseLoad_of_format {kind : LoadKind} (hcode : 2 ≤ e.code) : State.sparseLoad kind xb s t e = s.trapAt t .mxFormat 0 :=
  if_pos hcode

/-! ### `mx.stat` and `mx.clr` (R260, R261) -/

@[simp] theorem drawn_mxStatus : (drawn s t m).mxStatus e = t.mxStatus e := by
  simp [Task.mxStatus, Task.outstandingOn]

theorem exec_mxStat_of_names (h : OnThread s t 1) (hnames : Names t a 0xFFFFFFFFFFFFFFF0 e) :
    exec (.mxStat d a) s = .next ((charged s t 1).putTask (((drawn s t 1).setX d (t.mxStatus e)).advance 4)) := by
  rw [exec, execMxStat, issueMx_of_names h hnames (by simp), finish_nil, drawn_mxStatus]

theorem exec_mxClr_of_names (h : OnThread s t 1) (hnames : Names t a 0xFFFFFFFFFFFFFFF0 e) :
    exec (.mxClr a) s = .next (finish (
      if !e.empty then ((charged s t 1).putTask ((drawn s t 1).block (.mxClr a)), [])
      else ((charged s t 1).putTask
        (((drawn s t 1).putEngine { e with active := Plane.fresh, shadow := Plane.fresh, cursor := 0 }).advance 4), []))) := by
  rw [exec, execMxClr, issueMx_of_names h hnames (by simp)]

theorem matrixCommands : MatrixCommands := by
  intro a s t e h he hk
  refine ⟨?fmt, ?swapAndCsr, ?cond, ?statAndClr⟩
  case fmt =>
    intro sec b hreserved hcode hpitch
    rw [exec_mxFmt_of_names h ⟨hk, hreserved, he⟩, if_neg (Nat.not_lt.mpr hcode), if_neg hpitch]
    refine ⟨fun hbusy => ?_, fun hempty hsame halign hside => ?_⟩
    · rw [hbusy, if_pos (by decide), finish_nil]
    · rw [hempty, if_neg (by decide), mxBind_of_ok (by simpa using hsame) halign (by simpa using hside), finish_nil]
  case swapAndCsr =>
    intro hreserved hfmt
    refine ⟨exec_mxSwap_of_names h ⟨hk, hreserved, he⟩ hfmt, fun b hcode halign => ?_⟩
    rw [exec_mxCsr_of_names h ⟨hk, hreserved, he⟩ hfmt, sparseLoad_charged hcode halign, finish_nil]
  case cond =>
    intro b hreserved hfmt hcode halign
    rw [exec_mxCond_of_names h ⟨hk, hreserved, he⟩ hfmt, sparseLoad_charged hcode halign, finish_nil]
  case statAndClr =>
    intro hreserved
    refine ⟨fun d => exec_mxStat_of_names h ⟨hk, hreserved, he⟩, ?_⟩
    rw [exec_mxClr_of_names h ⟨hk, hreserved, he⟩]
    refine ⟨fun hbusy => ?_, fun hempty => ?_⟩
    · rw [hbusy, if_pos (by decide), finish_nil]
    · rw [hempty, if_neg (by decide), finish_nil]

/-! ### The traps of `mx.arm`, and of a task without engines (R252, R256) -/

theorem mxArmBody_of_illegal
    (h : 2 ^ 32 ≤ (t.x a).toNat ∨ (t.x b).toNat / 2 ^ 32 % 2 ^ 30 ≠ 0 ∨ t.sectionEngines sec.toNat = []) :
    State.mxArmBody sec a b s t = s.trapAt t .illegalOp 0 := by
  have hhigh : wbits (t.x a) 63 32 ≠ 0 ↔ 2 ^ 32 ≤ (t.x a).toNat := by
    have hlt := (t.x a).isLt
    simp only [wbits, bitsOf]
    omega
  have hreserved : wbits (t.x b) 61 32 = (t.x b).toNat / 2 ^ 32 % 2 ^ 30 := rfl
  rw [State.mxArmBody]
  dsimp only
  rw [if_pos]
  simpa [-ne_eq, hhigh, hreserved, or_assoc] using h

/-- In a task without engines every matrix command traps at issue. -/
theorem exec_of_no_engines (h : OnThread s t 0) (hnone : t.crec.engines = 0)
    (hi : engineOperand i ≠ none ∨ ∃ sec a b, i = .mxArm sec a b) : exec i s = .next (faultedAtIssue s t .illegalOp 0) := by
  have hpre : noEngines t = some (.illegalOp, 0) := if_pos hnone
  obtain hoperand | ⟨sec, a, b, rfl⟩ := hi
  · obtain ⟨⟨n, a, r, needFmt⟩, hi⟩ := Option.ne_none_iff_exists'.mp hoperand
    obtain ⟨kind, units, f, hexec⟩ := exec_engineOperand hi s
    rw [hexec, issueCmd_trapsAtIssue h hpre]
  · rw [exec, execMxArm, issueCmd_trapsAtIssue h hpre]

theorem matrixTraps : MatrixTraps := by
  refine ⟨?operand, ?code, ?sparse, ?arm, ?without⟩
  case operand =>
    intro i n a r f s t hi h hany
    refine ⟨fun hillegal => exec_of_bad_operand hi h hany (mxBad_of_illegal hillegal), ?_⟩
    rintro e rfl hk hreserved he hunset
    exact exec_of_bad_operand hi h hany (mxBad_of_unset ⟨hk, hreserved, he⟩ hunset)
  case code =>
    intro sec a b s t e h hk hreserved he hcode
    rw [exec_mxFmt_of_names h ⟨hk, hreserved, he⟩, if_pos hcode, trapAt_charged h]
  case sparse =>
    intro i a b s t e c hi h hk he hfmt hc
    have hset : e.fmt ≠ none := by simp [hfmt]
    have hcode : 2 ≤ e.code := by simpa [Engine.code, hfmt] using hc
    obtain ⟨rfl, hreserved⟩ | ⟨rfl, hreserved⟩ := hi
    · rw [exec_mxCsr_of_names h ⟨hk, hreserved, he⟩ hset, sparseLoad_of_format hcode, trapAt_charged h]
    · rw [exec_mxCond_of_names h ⟨hk, hreserved, he⟩ hset, sparseLoad_of_format hcode, trapAt_charged h]
  case arm =>
    intro sec a b s t h hany hillegal
    rw [exec, execMxArm, issueCmd_thread h (noEngines_of_some hany), mxArmBody_of_illegal (by simpa using hillegal), trapAt_charged h]
  case without =>
    intro i s t h hnone hi
    refine exec_of_no_engines h hnone ?_
    obtain ⟨_, _, _, rfl⟩ | ⟨_, rfl⟩ | ⟨_, rfl⟩ | ⟨_, _, rfl⟩ | ⟨_, _, rfl⟩ | ⟨_, _, rfl⟩ | ⟨_, _, rfl⟩ | ⟨_, _, rfl⟩ | harm :=
      hi
    pick_goal 9
    · exact .inr harm
    all_goals exact .inl (Option.some_ne_none _)

end Sys2Proof.Laws.MatrixIssue

namespace Sys2Proof.Proofs

open Sys2Proof Sys2Proof.Claims Sys2Proof.Laws.MatrixIssue

/-- Settles O60: what the commands do on the engine that the operand names, and where all of them trap. -/
theorem matrixIssue : Obligations.MatrixIssue := ⟨matrixCommands, matrixTraps⟩

end Sys2Proof.Proofs
end

section
/-! SUPPORT. The steps of a matrix engine: the beat that takes a header or a row, the planes, the tile in progress, and migration (R246,
R248, R249, R251, R262), and O34. -/
namespace Sys2Proof.Laws.Engines

open Sys2Proof Sys2Proof.Machine Sys2Proof.Claims Sys2Proof.Laws Sys2Proof.Laws.Copying

variable {s u : State} {t t' t1 : Task} {e y : Engine} {l : LoadCmd} {r : List LoadCmd} {p : Plane} {k n op pos : Nat} {ds : List Nat}

/-! ### A beat in which a unit fires by itself (R163) -/

theorem runBeat_of_beat {v : FUnit} (hrun : t.running = true) (hbeat : s.beat t v = .ok (u, t')) (hfault : t'.beatFault = none) :
    s.runBeat t v = (u.putTask { t' with hangCount := 0 }, []) := by
  simp [State.runBeat, hrun, hbeat, hfault, State.fired]

/-- What a unit leaves that fires by itself in its beat. -/
theorem leaves_of_fires {v : FUnit} (hworks : Works s t) (hfires : s.fireUnit t v = .ok (u, t')) :
    Leaves u t v t' (.next (finish (s.runBeat t v))) := by
  rintro ⟨hhop, hwants⟩ hfault hspare hzero
  have hbeat := beat_alone hhop hwants hfires hspare hzero
  rw [runBeat_of_beat (running_of_works hworks) hbeat (by rw [settle_beatFault, stamp_beatFault, hfault]), finish_nil]

theorem leaves_activationRow (hworks : Works s t) (he : t.engine? k = some e) (hfires : s.engineBeat t e = .ok (s, t')) :
    Leaves s t (.eng k) t' (exec (.activationRow t.handle k) s) := by
  have hunit : s.fireUnit t (.eng k) = .ok (s, t') := by rw [← hfires, State.fireUnit, he]
  obtain ⟨hfound, -⟩ := id hworks
  rw [exec, execActivationRow, State.onTask_some hfound]
  exact leaves_of_fires hworks hunit

/-! ### What an engine takes in a beat (R246, R251) -/

theorem engineBeat_of_header (hfree : t.portFrozen e.port = false) (htile : e.tile? ≠ none) (hheader : e.header = true)
    (htaken : e.headerTaken = false) : s.engineBeat t e = s.headerBeat t e := by
  simp [State.engineBeat, hfree, htile, hheader, htaken]

theorem engineBeat_of_row (hfree : t.portFrozen e.port = false) (htile : e.tile? ≠ none)
    (hheader : e.header = true → e.headerTaken = true) (hrows : e.taken < 64) : s.engineBeat t e = s.rowBeat t e := by
  have htaken : (e.header && !e.headerTaken) = false := by simpa using hheader
  simp [State.engineBeat, hfree, htile, htaken, Nat.not_le.mpr hrows]

/-- A header token E only counts as taken: cursor and overwriting stay as the command set them. -/
theorem headerBeat_of_end {x : Item} (hx : t.head (.eng e.k 4) = some x) (htok : tokOf x.asToken = .e)
    (hy : (t.take (.eng e.k 4)).engine? e.k = some y) :
    s.headerBeat t e = .ok (s, (t.take (.eng e.k 4)).putEngine { y with headerTaken := true }) := by
  simp [State.headerBeat, hx, htok, hy]

/-- The sixteen values that a link supplies, a lane at a time: those of the record on it, or none. -/
def linkValues (code : Nat) (o : Option LinkRec) : List (Option (BitVec 16)) :=
  (List.range 16).map fun i => o.bind fun r =>
    if r.m.getLsbD i = true ∧ r.a.getLsbD i = true then some (laneValue code (r.v.getD i 0)) else none

@[simp] theorem linkValues_none (code : Nat) : linkValues code none = List.replicate 16 none := rfl

/-- A performed lane is one that is present and active. -/
theorem linkValues_some (code : Nat) (x : LinkRec) : linkValues code (some x) = recordValues code x := by
  simp [linkValues, recordValues, bit16]

/-- The row, or the beat of a wide one, that the four links of an engine supply of which `ds` are driven. -/
def rowValues (t : Task) (e : Engine) (ds : List Nat) : List (Option (BitVec 16)) :=
  (List.range 4).flatMap fun p => linkValues e.code (if p ∈ ds then (t.head (.eng e.k p)).map Item.asRecord else none)

/-- An engine after a beat of a row: the row is whole once it is as wide as the active plane asks. -/
def tookBeat (y : Engine) (vals : List (Option (BitVec 16))) : Engine :=
  if 64 * y.active.q ≤ (y.beats ++ vals).length then { y with beats := [], rows := y.rows ++ [y.beats ++ vals] }
  else { y with beats := y.beats ++ vals }

theorem rowBeat_of_heads (hds : ds = (List.range 4).filter (t.driven e.k e.side ·)) (hheads : ∀ p ∈ ds, t.head (.eng e.k p) ≠ none)
    (ht1 : t1 = ds.foldl (fun t p => t.take (.eng e.k p)) t) (hy : t1.engine? e.k = some y) :
    s.rowBeat t e = .ok (s, t1.putEngine (tookBeat y (rowValues t e ds))) := by
  have hall : (ds.any fun p => (t.head (.eng e.k p)).isNone) = false := by simpa using hheads
  simp only [State.rowBeat, ← hds, hall, Bool.false_eq_true, if_false, ← ht1, hy]
  refine congrArg (fun vals => Except.ok (s, t1.putEngine (tookBeat y vals))) (List.flatMap_congr fun p _ => ?_)
  by_cases hp : p ∈ ds
  · cases hx : t.head (.eng e.k p)
    · exact absurd hx (hheads p hp)
    · simp [hp, linkValues_some]
  · simp [hp]

/-! ### The planes, and the tile in progress (R248, R249) -/

theorem engineStep_of_works {f : State → Task → Engine → State × List Job} (hworks : Works s t) (he : t.engine? k = some e)
    (hfree : t.portFrozen e.port = false) : s.engineStep t.handle k f = .next (finish (f s t e)) := by
  obtain ⟨hfound, -⟩ := id hworks
  rw [State.engineStep, State.onTask_some hfound]
  simp [he, running_of_works hworks, hfree]

theorem loadRun_of_csr (hloads : e.loads = l :: r) (hkind : l.kind = .csr) (hrun : s.csrRun t e l = .ok (u, t', p))
    (hy : t'.engine? e.k = some y) : s.loadRun t e = (u, t'.putEngine { y with loads := r, shadow := p }, none) := by
  simp [State.loadRun, hloads, hkind, hrun, hy]

/-- A step of an engine that nothing stops and that changed the task is progress (R319). -/
theorem engineEnd_of_progress (h : t' ≠ t) : s.engineEnd t t' none = (s.putTask { t' with hangCount := 0 }, []) := by
  simp [State.engineEnd, h]

/-! ### Migration (R262) -/

theorem ringNext_eq (c : Nat) (next : Bool) : ringNext c next = if next then (c + 1) % 104 else (c + 103) % 104 := by
  cases next <;> rfl

theorem movable_of_waiting {x : ArrCmd} {ovw : Bool} {i m : Nat} (hx : e.arr[pos]? = some x) (hkind : x.kind = .tiles op n ovw true i m)
    (hhome : ∀ m ∈ e.migrated, m.1 ≠ op) (hstart : pos = 0 → e.taken = 0 ∧ e.beats = [] ∧ e.headerTaken = false) :
    e.movable pos = some op := by
  have hstay : (e.migrated.any fun m => m.1 == op) = false := by simpa using hhome
  simpa [Engine.movable, hx, hkind, hstay, and_assoc, imp_iff_not_or] using hstart

/-- A command that may move does so where the cluster next to its own is enabled, idle and not gated. -/
theorem exec_matrixMigration_of_movable {c : Nat} {next : Bool} (hworks : Works s t) (he : t.engine? k = some e)
    (hfree : t.portFrozen e.port = false) (hmove : e.movable pos = some op) (hc : ringNext (t.member k).cluster next = c) :
    exec (.matrixMigration t.handle k ⟨next, pos⟩) s = .next (
      if (s.die t.die).has c && !s.engineTaken t.die c && !(s.die t.die).gated c then
        s.putTask (t.putEngine { e with migrated := e.migrated ++ [(op, c)] })
      else s) := by
  rw [exec, execMatrixMigration, engineStep_of_works hworks he hfree]
  dsimp only
  rw [hmove, hc]
  dsimp only
  split <;> rw [finish_nil]

end Sys2Proof.Laws.Engines

namespace Sys2Proof.Proofs

open Sys2Proof Sys2Proof.Machine Sys2Proof.Claims Sys2Proof.Laws Sys2Proof.Laws.Engines

/-- Settles O34, a step at a time: the row and the header of a tile, the swap, the load, the build from CSR, the tile that is done, and
the command that moves. -/
theorem engineSteps : Obligations.EngineSteps := by
  intro s t k e hworks he hfree
  obtain rfl := engine_k he
  refine ⟨?row, ?header, ?swap, ?load, ?csr, ?tile, ?migration⟩
  case row =>
    intro ds vals t1 y htile hheader hrows hds hheads hvals ht1 hy
    have hsupplied : vals = rowValues t e ds := by
      rw [hvals]
      refine List.flatMap_congr fun p _ => List.map_congr_left fun i _ => ?_
      generalize (if p ∈ ds then (t.head (.eng e.k p)).map Item.asRecord else none) = o
      cases o <;> rfl
    rw [hsupplied]
    exact leaves_activationRow hworks he
      ((engineBeat_of_row hfree htile hheader hrows).trans (rowBeat_of_heads hds hheads ht1 hy))
  case header =>
    intro x y htile hheader htaken hx htok hy
    exact leaves_activationRow hworks he
      ((engineBeat_of_header hfree htile hheader htaken).trans (headerBeat_of_end hx htok hy))
  case swap =>
    intro hready
    refine ⟨?_, rfl, rfl, rfl⟩
    rw [exec, execPlaneSwapRun, engineStep_of_works hworks he hfree, hready, if_pos rfl, finish_nil, State.fired]
  case load =>
    intro u t' hready hrun hchanged
    rw [exec, execPlaneLoadRun, engineStep_of_works hworks he hfree, hready, if_neg (by decide)]
    simp only [hrun, engineEnd_of_progress hchanged, finish_nil]
  case csr =>
    exact fun l r u t' p y hloads _ hkind hrun hy => loadRun_of_csr hloads hkind hrun hy
  case tile =>
    intro op n ovw u t' e' v t'' js htile hrows he' hdone hadvance
    rw [exec, execMatrixTile, engineStep_of_works hworks he hfree]
    simp only [htile, hrows, he', ge_iff_le, hdone, if_true, hadvance, State.fired]
  case migration =>
    intro pos x op n ovw a b c next hx hkind hhome hstart hc
    have hmove := movable_of_waiting hx hkind hhome hstart
    rw [exec_matrixMigration_of_movable hworks he hfree hmove ((ringNext_eq ..).trans hc.symm)]
    refine ⟨fun hthere hidle hpowered => ?_, fun hdisabled => ?_⟩
    · simp [hthere, hidle, hpowered]
    · simp [hdisabled]

end Sys2Proof.Proofs
end

section
/-! SUPPORT. `done` and the commit: its waits, the checks before it, the commits on whose account a task is aborted and those that spare it
(R269, R290, R291, R298, R340), and O26. -/
namespace Sys2Proof.Laws.Committing

open Sys2Proof Sys2Proof.Machine Sys2Proof.Claims Sys2Proof.Laws.Funding Sys2Proof.Laws.Waits

variable {s : State} {t u : Task} {ctx n : Nat} {who : Option Nat}

/-! ### The waits of `done` (R340) -/

/-- A task that has reached `done`: its region is closed, and its commit has begun. -/
def begun (t : Task) : Task := { t with regionOpen := false, committing := true }

/-- What `done` waits for beside the walker arms: the work that `bar` covers, and the copies. -/
def workOver (t : Task) : Bool := t.barMet && t.copies.all Copy.finished

/-- What `done` does once the work of a task is over: it waits for commit order, and then commits. -/
def commitInOrder (s : State) (t : Task) : State × List Job :=
  if s.inOrder t then (s.putTask t).tryCommit t else (s.putTask (t.block .done), [])

theorem doneBody_eq (s : State) (t : Task) : s.doneBody t =
    s.funded (begun t) .done fun s t => s.barWait t .done workOver (fun _ => true) commitInOrder := rfl

section
variable (hfound : s.task? t.handle = some u) (hrun : t.gate = .running) (harms : t.arms = [])
include hfound hrun harms

theorem doneBody_of_working (hwork : workOver t = false) : s.doneBody t = (s.putTask ((begun t).block .done), []) := by
  rw [doneBody_eq, funded_barWait_of_not_met (t := begun t) hfound hrun harms hwork]

theorem doneBody_of_over (hwork : workOver t = true) (hopen : ((begun t).block .done).openPass (fun _ => true) = none) :
    s.doneBody t = commitInOrder (s.putTask ((begun t).block .done)) (forgetting ((begun t).block .done)) := by
  rw [doneBody_eq, funded_barWait_of_closed (t := begun t) hfound hrun harms hwork (block_openPass.symm.trans hopen)]

end

/-! ### The checks of a commit (R269, R290, R298) -/

theorem tryCommit_of_stale (hstale : s.staleBy t ≠ []) :
    s.tryCommit t = (s.putTask t, [.doom t.handle ((s.staleBy t).all fun w => w == some t.crec.ctx)]) := by
  rw [State.tryCommit, if_pos (by simpa using hstale)]

section
variable (hfresh : s.staleBy t = [])
include hfresh

theorem tryCommit_of_locked (hlock : (State.requestAll t (s.landCommit t).lines s).2.1 = false) :
    s.tryCommit t = ((State.requestAll t (s.landCommit t).lines s).1.putTask (t.block .done),
      (State.requestAll t (s.landCommit t).lines s).2.2) := by
  simp [State.tryCommit, hfresh, hlock]

variable (hlock : (State.requestAll t (s.landCommit t).lines s).2.1 = true)
include hlock

/-- A task that would doom the oldest timed task of its context is aborted itself (log entry 34). -/
theorem tryCommit_of_oldest_reader
    (holdest : ∃ u ∈ s.readers (s.landCommit t).lines t.handle, u.crec.ctx = t.crec.ctx ∧ s.isOldest u = true) :
    s.tryCommit t = (s.putTask t, [.doom t.handle true]) := by
  have hany : ((s.readers (s.landCommit t).lines t.handle).any fun u => u.crec.ctx == t.crec.ctx && s.isOldest u) = true := by
    simpa using holdest
  simp only [State.tryCommit, hfresh, List.isEmpty_nil, hlock, hany, Bool.not_true, Bool.false_eq_true, if_false, if_true]

theorem tryCommit_of_free
    (hnone : ∀ u ∈ s.readers (s.landCommit t).lines t.handle, u.crec.ctx = t.crec.ctx → s.isOldest u = false) :
    s.tryCommit t = s.afterCommit t (s.landCommit t) := by
  have hany : ((s.readers (s.landCommit t).lines t.handle).any fun u => u.crec.ctx == t.crec.ctx && s.isOldest u) = false := by
    simpa using hnone
  simp only [State.tryCommit, hfresh, List.isEmpty_nil, hlock, hany, Bool.not_true, Bool.false_eq_true, if_false]

end

/-- `done` answers what it owes in every case: it waits for work and copies, then for commit order, and then passes the checks or not. -/
theorem doneAnswers_doneBody (hfound : s.task? t.handle = some u) (hrun : t.gate = .running) :
    DoneAnswers s t (.next (finish (s.doneBody t))) := by
  intro T0 T V U hT0 hT hV hU harms
  obtain rfl : T0 = (begun t).block .done := hT0
  obtain rfl : T = forgetting ((begun t).block .done) := hT
  subst hV hU
  have hsame : ((s.putTask ((begun t).block .done)).putTask (forgetting ((begun t).block .done))).putTask
      (forgetting ((begun t).block .done)) =
      (s.putTask ((begun t).block .done)).putTask (forgetting ((begun t).block .done)) := putTask_putTask rfl
  refine ⟨fun hwaits => ?_, fun hmet hcopies hopen => ?_⟩
  · have hwork : workOver t = false := Bool.and_eq_false_iff.mpr (by simpa using hwaits)
    rw [doneBody_of_working hfound hrun harms hwork, finish_nil]
  · have hwork : workOver t = true := Bool.and_eq_true_iff.mpr ⟨hmet, List.all_eq_true.mpr hcopies⟩
    rw [doneBody_of_over hfound hrun harms hwork hopen, commitInOrder]
    refine ⟨fun horder => ?_, fun horder hstale => ?_, fun horder hfresh hlock hnone => ?_, fun horder hfresh hlock holdest => ?_,
      fun horder hfresh hlock => ?_⟩
    · rw [if_neg (Bool.eq_false_iff.mp horder), finish_nil]
      rfl
    · rw [if_pos horder, tryCommit_of_stale hstale, hsame]
      rfl
    · rw [if_pos horder, tryCommit_of_free hfresh hlock hnone]
    · rw [if_pos horder, tryCommit_of_oldest_reader hfresh hlock holdest, hsame]
      rfl
    · rw [if_pos horder, tryCommit_of_locked hfresh hlock]
      rfl

theorem exec_taskCommit (hfound : s.task? t.handle = some t) (hrun : t.gate = .running) (hthawed : t.threadFrozen = false)
    (hpaid : t.paid = true) (hwait : t.wait = some .done) :
    exec (.taskCommit t.handle) s = .next (finish (s.doneBody t)) := by
  rw [exec, execTaskCommit, State.onTask_some hfound]
  simp [hrun, hthawed, hpaid, hwait]

/-! ### The commits that a task is aborted on account of (R269, R290) -/

theorem staleBy_of_irrevocable (h : t.irrevocable = true) : s.staleBy t = [] := if_pos h

/-- A task that is not irrevocable is aborted on account of each commit after its Snapshot that published a line it has read and does
not spare it. -/
theorem mem_staleBy_iff : who ∈ s.staleBy t ↔ t.irrevocable = false ∧ ∃ line n r, (line, who, n) ∈ s.published ∧ t.snapNum < n ∧
    r ∈ t.readSet ∧ r.2 = line ∧ ¬(who = some t.crec.ctx ∧ n ∈ t.sparedBy) := by
  cases hirr : t.irrevocable with
  | true => simp [staleBy_of_irrevocable hirr]
  | false =>
    simp only [State.staleBy, hirr, Bool.false_eq_true, if_false, List.mem_map, List.mem_filter, Bool.and_eq_true, decide_eq_true_eq,
      List.any_eq_true, beq_iff_eq, Bool.not_eq_true', Bool.and_eq_false_iff, true_and]
    constructor
    · rintro ⟨⟨line, w, n⟩, ⟨hmem, ⟨hafter, r, hr, hline⟩, hspare⟩, rfl⟩
      refine ⟨line, n, r, hmem, hafter, hr, hline, ?_⟩
      rintro ⟨rfl, hspared⟩
      simp [hspared] at hspare
    · rintro ⟨line, n, r, hmem, hafter, hr, hline, hspare⟩
      refine ⟨(line, who, n), ⟨hmem, ⟨hafter, r, hr, hline⟩, ?_⟩, rfl⟩
      simpa [imp_iff_not_or] using hspare

/-! ### The commits that spare a task (R290; log entry 34) -/

/-- A task after commit `n` of context `ctx` in package `s`: the oldest timed one of the context is never aborted on account of it. -/
def sparedTask (s : State) (ctx n : Nat) (t : Task) : Task :=
  if t.crec.ctx = ctx ∧ s.isOldest t = true then { t with sparedBy := n :: t.sparedBy } else t

theorem sparedTask_handle (s : State) (ctx n : Nat) (t : Task) : (sparedTask s ctx n t).handle = t.handle := by
  rw [sparedTask]
  split <;> rfl

theorem spare_eq (s : State) (ctx n : Nat) : s.spare ctx n = { s with
    tasks := s.tasks.map (sparedTask s ctx n), saved := s.saved.map fun v => { v with task := sparedTask s ctx n v.task } } := by
  simp [State.spare, sparedTask]

theorem task?_spare (h : s.task? t.handle = some t) : (s.spare ctx n).task? t.handle = some (sparedTask s ctx n t) := by
  simp only [State.task?] at h
  simp only [spare_eq, State.task?, List.find?_map, Function.comp_def, sparedTask_handle, h, Option.map_some]

theorem mem_saved_spare {v : Saved} (h : v ∈ s.saved) :
    { v with task := sparedTask s ctx n v.task } ∈ (s.spare ctx n).saved := by
  rw [spare_eq]
  exact List.mem_map_of_mem h

end Sys2Proof.Laws.Committing

namespace Sys2Proof.Proofs

open Sys2Proof Sys2Proof.Machine Sys2Proof.Claims Sys2Proof.Laws.Waits Sys2Proof.Laws.Committing

/-- Settles O26: `done` at issue, and when it is tried again; the commits that a task is aborted on account of, and those that spare it. -/
theorem doneCommits : Obligations.DoneCommits := by
  refine ⟨?issue, ?again, ?stale, ?onlyStale, ?spares⟩
  case issue =>
    intro s t h
    rw [exec, execDone, issueTask_thread h rfl]
    exact doneAnswers_doneBody (found_of_onThread h) (running_of_onThread h)
  case again =>
    intro s t hfound hrun hthawed hpaid hwait
    rw [exec_taskCommit hfound hrun hthawed hpaid hwait]
    exact doneAnswers_doneBody hfound hrun
  case stale =>
    exact fun s t line who n r hmem hafter hr hline hrevocable hspare =>
      mem_staleBy_iff.mpr ⟨hrevocable, line, n, r, hmem, hafter, hr, hline, hspare⟩
  case onlyStale =>
    refine fun s t => ⟨staleBy_of_irrevocable, fun who hwho => ?_⟩
    obtain ⟨-, hcommit⟩ := mem_staleBy_iff.mp hwho
    exact hcommit
  case spares =>
    refine fun s ctx n => ⟨rfl, rfl, fun t => task?_spare, fun v hv => ?_⟩
    have hmem := mem_saved_spare (ctx := ctx) (n := n) hv
    rw [sparedTask] at hmem
    split
    next hspared => rwa [if_pos hspared] at hmem
    next hspared => rwa [if_neg hspared] at hmem

end Sys2Proof.Proofs
end

section
/-! SUPPORT. Bound channels and their peers: what is forwarded and acknowledged, the credit for it, an entry that lands, a link that fails,
and how a binding begins and ends (R274, R278, R280, R287), and O42. -/
namespace Sys2Proof.Laws.Linking

open Sys2Proof Sys2Proof.Machine Sys2Proof.Claims

variable {s : State} {c : Chan} {e : Entry} {l r : List Entry} {data : List Byte} {ctx num k port : Nat} {peer far : BitVec 16}
  {p : BitVec 4} {rdir : Bool}

/-! ### Outbound channels (R274) -/

/-- A channel that forwards its entries, if its far channel grants credit. -/
structure Outbound (c : Chan) : Prop where
  opened : c.state = .opened
  remote : c.remote = true
  outward : c.rdir = false
  thawed : c.frozen = false

theorem find?_not_sent (hl : ∀ x ∈ l, x.sent = true) (he : e.sent = false) :
    (l ++ e :: r).find? (fun e => !e.sent) = some e := by
  have hnone : l.find? (fun e => !e.sent) = none := by simpa using hl
  rw [List.find?_append, hnone, Option.none_or, List.find?_cons_of_pos (by simp [he])]

/-- The first entry that is not marked as forwarded is marked. -/
theorem mark_first (hl : ∀ x ∈ l, x.sent = true) (he : e.sent = false) :
    execChannelForward.mark (l ++ e :: r) = l ++ { e with sent := true } :: r := by
  induction l with
  | nil => simp [execChannelForward.mark, he]
  | cons x l ih =>
    rw [List.forall_mem_cons] at hl
    rw [List.cons_append, execChannelForward.mark, if_pos hl.1, ih hl.2, List.cons_append]

theorem exec_channelForward_of_no_credit (hc : s.chan? ctx num = some c) (hcredit : c.credit = 0) :
    exec (.channelForward ctx num) s = .next s := by
  simp [exec, execChannelForward, hc, hcredit]

theorem exec_channelForward_of_credit (hc : s.chan? ctx num = some c) (hout : Outbound c) (hentries : c.entries = l ++ e :: r)
    (hl : ∀ x ∈ l, x.sent = true) (he : e.sent = false) (hcredit : c.credit ≠ 0) :
    exec (.channelForward ctx num) s = .next
      { s.putChan { c with entries := l ++ { e with sent := true } :: r, credit := c.credit - 1 } with
        out := s.out ++ [.forward ctx num e.data] } := by
  have hgo : (c.state != .opened || !c.remote || c.rdir || c.frozen || decide (c.credit = 0)) = false := by
    simp [hout.opened, hout.remote, hout.outward, hout.thawed, hcredit]
  rw [exec, execChannelForward, hc]
  simp only [hgo, Bool.false_eq_true, if_false, hentries, find?_not_sent hl he, mark_first hl he]

theorem acked_of_entry (hentries : c.entries = e :: r) (he : e.sent = true) :
    c.acked ⟨num, true, k⟩ = Chan.refill { c with entries := r, head := c.head + 1, credit := c.credit + k } := by
  simp [Chan.acked, hentries, he]

theorem acked_of_credit : c.acked ⟨num, false, k⟩ = { c with credit := c.credit + k } := by
  simp only [Chan.acked, Bool.false_and, Bool.false_eq_true, if_false]
  split <;> rfl

theorem exec_channelPeerAck {ack : PeerAck} (hc : s.chan? ctx ack.num = some c) (hremote : c.remote = true) (hout : c.rdir = false)
    (hclosing : c.closing = false) :
    exec (.channelPeerAck ctx ack) s = .next ((s.zeroPages c (c.acked ack)).putChan (c.acked ack)) := by
  simp [exec, execChannelPeerAck, hc, hremote, hout, hclosing]

/-! ### Inbound channels (R274, R287) -/

theorem grantCredit_eq (hc : s.chan? ctx num = some c) : s.grantCredit ctx num =
    if c.remote = true ∧ c.rdir = true ∧ c.state = .opened ∧ c.frozen = false ∧ c.capacity - (c.entries.length + c.granted) ≠ 0 then
      { s.putChan { c with granted := c.granted + (c.capacity - (c.entries.length + c.granted)) } with
        out := s.out ++ [.credit ctx num (c.capacity - (c.entries.length + c.granted))] }
    else s := by
  simp [State.grantCredit, hc, and_assoc]

theorem exec_ualinkWrite_chan : exec (.ualinkWrite (.chan ctx num) data) s = .next (s.landEntry ctx num data) := by
  rw [exec, execUalinkWrite]

theorem landEntry_of_no_credit (hc : s.chan? ctx num = some c) (hgranted : c.granted = 0) : s.landEntry ctx num data = s := by
  simp [State.landEntry, hc, hgranted]

theorem landEntry_of_credit (hc : s.chan? ctx num = some c) (hopened : c.state = .opened) (hremote : c.remote = true)
    (hin : c.rdir = true) (hthawed : c.frozen = false) (hsize : data.length = c.size) (hgranted : c.granted ≠ 0) :
    s.landEntry ctx num data = { s.placeEntry { c with granted := c.granted - 1 } data false 0 with
      commitSeq := (s.placeEntry { c with granted := c.granted - 1 } data false 0).commitSeq + 1
      out := (s.placeEntry { c with granted := c.granted - 1 } data false 0).out ++ [.entryAck ctx num] } := by
  simp [State.landEntry, hc, hopened, hremote, hin, hthawed, hsize, hgranted]

/-- An entry that is placed changes its channel, and where it spills the caches. -/
theorem placeEntry_keeps (s : State) (c : Chan) (data : List Byte) (notice : Bool) (cls : Nat) :
    (s.placeEntry c data notice cls).channels = (s.putChan (c.place data notice)).channels ∧
    (s.placeEntry c data notice cls).mem = s.mem ∧ (s.placeEntry c data notice cls).tasks = s.tasks ∧
    (s.placeEntry c data notice cls).commitSeq = s.commitSeq ∧ (s.placeEntry c data notice cls).out = s.out := by
  unfold State.placeEntry
  dsimp only
  split
  · obtain ⟨_, _, _, _, _, h⟩ := State.landSpill_frame (s.putChan (c.place data notice)) _ _
    rw [h]
    exact ⟨rfl, rfl, rfl, rfl, rfl⟩
  · exact ⟨rfl, rfl, rfl, rfl, rfl⟩

/-! ### A link that fails, and the ends of a binding (R274, R278) -/

theorem exec_linkFailure {d : Nat} {x : Die} (hd : s.die? d = some x) : exec (.linkFailure d port) s = .next
    { s with ualTrained := s.ualTrained &&& ~~~BitVec.twoPow 16 port,
             ualAtomics := s.ualAtomics &&& ~~~BitVec.twoPow 16 port,
             channels := s.channels.map fun (c : Chan) =>
               if (c.remote = true ∨ c.unbinding = true) ∧ c.port.toNat = port then { c with state := .broken } else c } := by
  rw [exec, execLinkFailure, State.onDie_some hd, finish_nil]
  simp [BitVec.twoPow]

theorem exec_peerUnbind_request (hc : s.chan? ctx num = some c) (hremote : c.remote = true) :
    exec (.peerUnbind ctx num false) s = .next { s.putChan c.unbind with out := s.out ++ [.unbindAck ctx num] } := by
  simp [exec, execPeerUnbind, hc, hremote]

/-- The acknowledgement of an own unbind ends the binding, and closes the channel where nothing else keeps it (R278). -/
theorem exec_peerUnbind_ack (hc : s.chan? ctx num = some c) (hunbinding : c.unbinding = true) :
    exec (.peerUnbind ctx num true) s = .next (
      if s.canClose { c.unbind with unbinding := false } then s.closeChan { c.unbind with unbinding := false }
      else s.putChan { c.unbind with unbinding := false }) := by
  simp [exec, execPeerUnbind, hc, hunbinding]

theorem exec_peerUnbind_stray (hc : s.chan? ctx num = some c) (hunbinding : c.unbinding = false) :
    exec (.peerUnbind ctx num true) s = .next s := by
  simp [exec, execPeerUnbind, hc, hunbinding]

/-! ### A peer's handshake (R280) -/

/-- The side that a link of a direction takes is the one that `sideOf` names for the other. -/
theorem bindable_iff : c.bindable rdir = true ↔
    c.state = .opened ∧ c.remote = false ∧ c.unbinding = false ∧ sideOf c (!rdir) = 0 := by
  cases rdir <;> simp [Chan.bindable, sideOf, and_assoc]

theorem exec_peerBindHandshake (hc : s.chan? ctx num = some c) : exec (.peerBindHandshake ctx num peer far p ⟨rdir, k⟩) s = .next (
    if c.bindable rdir then
      { s.putChan (c.bind peer far p rdir k) with out := s.out ++ [.bindReply ctx num true (c.bind peer far p rdir k).granted] }
    else { s with out := s.out ++ [.bindReply ctx num false 0] }) := by
  rw [exec, execPeerBindHandshake, hc]
  dsimp only
  split <;> rfl

end Sys2Proof.Laws.Linking

namespace Sys2Proof.Proofs

open Sys2Proof Sys2Proof.Machine Sys2Proof.Claims Sys2Proof.Laws.Linking

/-- Settles O42, a message at a time: an entry forwarded, an acknowledgement, a grant of credit, an entry that lands, a link that fails, an
unbind with its acknowledgement, and a handshake. -/
theorem channelLinks : Obligations.ChannelLinks := by
  refine ⟨?forward, ?ack, ?creditOnly, ?grant, ?land, ?failure, ?unbind, ?handshake⟩
  case forward =>
    intro s ctx num c l e r hc hopened hremote hout hthawed hentries hl he
    exact ⟨exec_channelForward_of_no_credit hc,
      exec_channelForward_of_credit hc ⟨hopened, hremote, hout, hthawed⟩ hentries hl he⟩
  case ack =>
    rintro s ctx num c e r k c' hc hremote hout hentries he hclosing rfl
    rw [exec_channelPeerAck hc hremote hout hclosing, acked_of_entry hentries he]
  case creditOnly =>
    rintro s ctx num c k c' hc hremote hout hclosing rfl
    rw [exec_channelPeerAck hc hremote hout hclosing, acked_of_credit]
  case grant =>
    rintro s ctx num c n hc rfl
    exact grantCredit_eq hc
  case land =>
    intro s ctx num c data hc hopened hremote hin hthawed hsize
    rw [exec_ualinkWrite_chan]
    refine ⟨fun hnone => by rw [landEntry_of_no_credit hc hnone], fun hgranted => ?_⟩
    obtain ⟨hchannels, hmem, htasks, hseq, hout⟩ := placeEntry_keeps s { c with granted := c.granted - 1 } data false 0
    refine ⟨_, hchannels, hmem, htasks, ?_⟩
    rw [landEntry_of_credit hc hopened hremote hin hthawed hsize hgranted, hseq, hout]
  case failure => exact fun s d x port hd _ => exec_linkFailure hd
  case unbind =>
    rintro s ctx num c u hc rfl
    refine ⟨exec_peerUnbind_request hc, fun hunbinding hclose => ?_, fun hunbinding hstays => ?_, exec_peerUnbind_stray hc⟩
    · rw [exec_peerUnbind_ack hc hunbinding]
      exact congrArg Host.Outcome.next (if_pos hclose)
    · rw [exec_peerUnbind_ack hc hunbinding]
      exact congrArg Host.Outcome.next (if_neg (Bool.eq_false_iff.mp hstays))
  case handshake =>
    rintro s ctx num c peer far port rdir k g hc hopened hfree hbound rfl
    rw [exec_peerBindHandshake hc]
    refine ⟨fun hside => ?_, fun hside => ?_⟩
    · rw [if_pos (bindable_iff.mpr ⟨hopened, hfree, hbound, hside⟩)]
      rfl
    · rw [if_neg (mt bindable_iff.mp fun ⟨_, _, _, hfree⟩ => hside hfree)]

end Sys2Proof.Proofs
end

section
/-! SUPPORT. `ch.open` at or above the entry count, and where the context's table entry lies in a window whose link is down (R276, R363), and
O58, which says of every package what the first does where that entry can be read. -/
namespace Sys2Proof.Laws.ChannelOpening

open Sys2Proof Sys2Proof.Machine Sys2Proof.Claims Sys2Proof.Laws.ChannelUse Sys2Proof.Laws.ChargeInstr

variable {s : State} {t : Task} {d a : Reg}

/-- The entry count of the table is reached: code 2, where the context's table entry can be read. -/
theorem exec_chOpen_of_beyond (h : OnThread s t 1) (hbad : chanBad (t.x a) = false) (hup : (charged s t 1).ctxDown t.crec.ctx = false)
    (hbeyond : (charged s t 1).chanCount t.crec.ctx ≤ chanNum (t.x a)) :
    exec (.chOpen d a) s = .next ((charged s t 1).putTask (((drawn s t 1).setX d 2).advance 4)) := by
  have hcte := cte_of_beyond (t := drawn s t 1) (num := chanNum (t.x a)) (by rwa [drawn_crec]) (by rwa [drawn_crec])
  rw [exec, execChOpen, issueTask_thread h rfl]
  simp only [drawn_x, hbad, hcte, Bool.false_eq_true, if_false, finish_nil]
  rfl

/-- The context's table entry lies in a window whose link is down: the task ends with HOST, whatever the channel number (R363). -/
theorem exec_chOpen_of_down (h : OnThread s t 1) (hbad : chanBad (t.x a) = false) (hdown : (charged s t 1).ctxDown t.crec.ctx = true) :
    exec (.chOpen d a) s = .next (faultedIn (charged s t 1) (drawn s t 1) .host 0) := by
  have hcte (num : Nat) := cte_of_down (t := drawn s t 1) (num := num) (by rwa [drawn_crec])
  rw [exec, execChOpen, issueTask_thread h rfl]
  simp only [drawn_x, hbad, hcte, Bool.false_eq_true, if_false, chanErr_acc (x := .host) (by decide)]
  exact congrArg Host.Outcome.next (trapAt_charged h .host 0)

/-! ### A context table behind a link that is down -/

/-- The one context has its table entry, with a channel table of 4 entries, in a host-coherent window at an address that has no other home,
and CXL.cache is not trained. -/
def tableBehindLink : State :=
  { Tests.base with
    ctxBase := 0x8000000000000
    ctxCount := 1
    cxlCache := false
    hcw := Tests.base.hcw.set 0 { dev := 0x8000000000000, hostBase := 0, size := 21, en := true, wr := true }
    hostMem := Overlay.write [] 0 (natBytes 8 0 ++ natBytes 8 2 ++ natBytes 8 0x9000 ++ natBytes 8 4) }

/-- A task of that context that names channel 4. -/
def opener : Task := Tests.tsk [(1, 4)]

theorem opener_moves : OnThread (Tests.with1 tableBehindLink opener) opener 1 :=
  Tests.tsk_moves tableBehindLink [(1, 4)] 1 (by decide)

theorem opener_ctxDown : (charged (Tests.with1 tableBehindLink opener) opener 1).ctxDown opener.crec.ctx = true := by decide +kernel

theorem opener_beyond :
    (charged (Tests.with1 tableBehindLink opener) opener 1).chanCount opener.crec.ctx ≤ chanNum (opener.x 1) := by decide +kernel

/-- The trap leaves no task. -/
theorem opener_trapped_tasks :
    (faultedIn (charged (Tests.with1 tableBehindLink opener) opener 1) (drawn (Tests.with1 tableBehindLink opener) opener 1) .host
      0).tasks.length = 0 := by decide +kernel

theorem opener_charged_tasks : (charged (Tests.with1 tableBehindLink opener) opener 1).tasks.length = 1 := by decide +kernel

end Sys2Proof.Laws.ChannelOpening

namespace Sys2Proof.Proofs

open Sys2Proof Sys2Proof.Machine Sys2Proof.Claims Sys2Proof.Laws.ChannelOpening

/-- Refutes O58, in its clause on channel numbers at or above the entry count: it gives code 2 for them in every package, but where the
context's table entry lies in a window whose link is down the task ends with HOST. Where that entry can be read the clause holds
(`exec_chOpen_of_beyond`). -/
theorem not_channelAccess : ¬ Obligations.ChannelAccess := by
  rintro ⟨⟨hbeyond, -⟩, -⟩
  have hopen := hbeyond 5 1 _ opener opener_moves (by decide) opener_beyond
  rw [exec_chOpen_of_down opener_moves (by decide) opener_ctxDown] at hopen
  have htasks := congrArg (fun u : State => u.tasks.length) (Host.Outcome.next.inj hopen)
  simp only [State.putTask, List.length_map, opener_trapped_tasks, opener_charged_tasks] at htasks
  exact absurd htasks (by decide)

end Sys2Proof.Proofs
end

section
/-! SUPPORT. What the instructions of an atomic region do (R297–R299), O16, and O55, which leaves out that they reach the home slice of their
line. -/
namespace Sys2Proof.Laws.Atomic

open Sys2Proof Sys2Proof.Machine Sys2Proof.Claims Sys2Proof.Laws.LoadStore Sys2Proof.Laws.Waits Sys2Proof.Laws.Retiring

variable {s u : State} {t : Task} {i : Instr} {a v : Reg} {n m pa : Nat} {st : Bool} {e : TlbEntry}

/-! ### Traps in a region (R299) -/

/-- A task traps as it was drawn where nothing has changed the tasks since. -/
theorem trapAt_of_tasks (h : OnThread s t m) (htasks : u.tasks = (charged s t m).tasks) (code : Trap) (sub : Nat) :
    finish (u.trapAt (drawn s t m) code sub) = faultedIn u (drawn s t m) code sub := by
  have hfound : u.task? (drawn s t m).handle = some (drawn s t m) := (task?_congr htasks _).trans (found_of_onThread h)
  rw [State.trapAt, State.takeTrap_thread hfound]
  rfl

theorem tasks_of_translate {d ctx va : Nat} {r : Except XErr TlbEntry} (h : s.translate d ctx va = (u, r)) : u.tasks = s.tasks := by
  have htasks := translate_tasks (s := s) d ctx va
  rwa [h] at htasks

theorem tasks_of_access {d ctx va : Nat} {k : AccKind} {r : Except AccErr (Nat × TlbEntry)} (h : s.access d ctx va k = (u, r)) :
    u.tasks = s.tasks := by
  have htasks := access_tasks (s := s) d ctx va k
  rwa [h] at htasks

/-- The loads and stores of a region issue alike, and differ in what they do with the working value. -/
theorem exec_atomic (hi : atomicForm i = some (a, n, st, v)) : ∃ act, ∀ s, exec i s = issueAr i n a act s := by
  unfold atomicForm at hi
  split at hi <;> cases hi
  all_goals exact ⟨_, fun s => by rw [exec]; rfl⟩

section
variable (hi : atomicForm i = some (a, n, st, v)) (h : OnThread s t 1)
include hi h

theorem exec_atomic_of_no_region (hopen : t.regionOpen = false) :
    exec i s = .next (faultedIn (charged s t 1) (drawn s t 1) .illegalOp 0) := by
  obtain ⟨act, hexec⟩ := exec_atomic hi
  rw [hexec, issueAr, issueTask_thread h rfl]
  simp only [drawn_regionOpen, hopen, Bool.not_false, if_true, trapAt_of_tasks h rfl]

variable (hopen : t.regionOpen = true)
include hopen

theorem exec_atomic_of_misaligned (halign : (t.x a).toNat % n ≠ 0) :
    exec i s = .next (faultedIn (charged s t 1) (drawn s t 1) .misalign 0) := by
  obtain ⟨act, hexec⟩ := exec_atomic hi
  rw [hexec, issueAr, issueTask_thread h rfl]
  simp only [drawn_regionOpen, hopen, Bool.not_true, Bool.false_eq_true, if_false, drawn_x, if_pos halign, trapAt_of_tasks h rfl]

theorem exec_atomic_of_limit (halign : (t.x a).toNat % n = 0)
    (htranslate : (charged s t 1).translate t.die t.crec.ctx (t.x a).toNat = (u, .ok e))
    (hlimit : 8 ≤ t.arOps ∨ t.lockLine ≠ some (e.phys (t.x a).toNat / 128)) :
    exec i s = .next (faultedIn u (drawn s t 1) .atomLimit 0) := by
  obtain ⟨act, hexec⟩ := exec_atomic hi
  have hbad : (t.lockLine != some (lineOf (e.phys (t.x a).toNat)) || decide (t.arOps ≥ 8)) = true := by
    rw [Bool.or_eq_true, bne_iff_ne, decide_eq_true_iff]
    exact hlimit.symm
  rw [hexec, issueAr, issueTask_thread h rfl]
  simp only [drawn_regionOpen, hopen, Bool.not_true, Bool.false_eq_true, if_false, drawn_x, halign, ne_eq, not_true_eq_false, drawn_die,
    drawn_crec, htranslate, drawn_lockLine, drawn_arOps, if_pos hbad, trapAt_of_tasks h (tasks_of_translate htranslate)]

end

theorem exec_arEnd_of_no_region (h : OnThread s t 1) (hopen : t.regionOpen = false) :
    exec .arEnd s = .next (faultedIn (charged s t 1) (drawn s t 1) .illegalOp 0) := by
  rw [exec, execArEnd, issueTask_thread h rfl]
  simp only [drawn_regionOpen, hopen, Bool.not_false, if_true, trapAt_of_tasks h rfl]

/-! ### `ar.begin` on a line that no task has locked (R203, R297, R298) -/

/-- The line is locked, and the committed value that becomes its working value is read at the line's home slice, in the task's class. -/
theorem exec_arBegin_of_free (h : OnThread s t 1) (hopen : t.regionOpen = false) (hro : t.crec.rohint = false)
    (hlow : (t.x a).toNat < 2 ^ 52) (haccess : (charged s t 1).access t.die t.crec.ctx (t.x a).toNat .store = (u, .ok (pa, e)))
    (hio : e.io = false) (hline : t.lockLine = none) (hfree : u.lock? (pa / 128) = none) :
    exec (.arBegin a) s = .next (State.putTask
      ((u.setLock { line := pa / 128, holder := some t.handle, work := [], waiters := [] }).touchHome (128 * (pa / 128)) t.crec.cls)
      ({ drawn s t 1 with lockLine := some (pa / 128), regionOpen := true }.advance 4)) := by
  have hrequest : u.request (drawn s t 1) (lineOf pa) = (u, true, []) := by
    rw [State.request, show u.lock? (lineOf pa) = none from hfree]
  rw [exec, execArBegin, issueTask_thread h rfl]
  simp only [drawn_regionOpen, hopen, Bool.false_eq_true, if_false, drawn_crec, hro, drawn_x, Nat.not_le.mpr hlow, drawn_die, haccess,
    hio, drawn_lockLine, hline, Option.isSome_none, Bool.false_and, hrequest, State.takeLock,
    show u.lock? (lineOf pa) = none from hfree, drawn_handle, finish_nil]
  rfl

/-- A task that names a line of die 0, in a package where context 0 has its first 16 MiB mapped. -/
def locker : Task := Tests.tsk [(1, 0x1000)]

theorem locker_moves : OnThread (Tests.with1 Tests.base locker) locker 1 := Tests.tsk_moves Tests.base [(1, 0x1000)] 1 (by decide)

theorem locker_access : ∃ e, (charged (Tests.with1 Tests.base locker) locker 1).access locker.die locker.crec.ctx (locker.x 1).toNat .store =
    (charged (Tests.with1 Tests.base locker) locker 1, .ok (0x1000, e)) ∧ e.io = false := ⟨_, rfl, rfl⟩

/-- The line of the lock is in its home slice. -/
theorem locker_slices :
    (((charged (Tests.with1 Tests.base locker) locker 1).setLock
      { line := 0x1000 / 128, holder := some locker.handle, work := [], waiters := [] }).touchHome (128 * (0x1000 / 128))
        locker.crec.cls).slices.length = 1 := by decide +kernel

end Sys2Proof.Laws.Atomic

namespace Sys2Proof.Proofs

open Sys2Proof Sys2Proof.Machine Sys2Proof.Claims Sys2Proof.Laws.Atomic

/-- Settles O16, by the trap of each access of a region and of `ar.end`. -/
theorem atomicTraps : Obligations.AtomicTraps := by
  refine ⟨fun i a n st v s t hi h => ⟨exec_atomic_of_no_region hi h, exec_atomic_of_misaligned hi h, fun u e => ?_⟩,
    fun s t => exec_arEnd_of_no_region⟩
  exact exec_atomic_of_limit hi h

/-- Refutes O55, in its clause on a line without a lock: it says that `ar.begin` changes the locks and the task alone, but the committed
value is read at the line's home slice, which then holds the line. What `ar.begin` leaves is `exec_arBegin_of_free`. -/
theorem not_atomicRegion : ¬ Obligations.AtomicRegion := by
  rintro ⟨hbegin, -⟩
  obtain ⟨e, haccess, hio⟩ := locker_access
  obtain ⟨-, -, hfree, -⟩ := hbegin 1 _ locker _ _ e locker_moves rfl rfl (by decide) haccess hio
  have hsame := hfree rfl rfl
  rw [exec_arBegin_of_free locker_moves rfl rfl (by decide) haccess hio rfl rfl] at hsame
  have hslices := congrArg (fun u : State => u.slices.length) (Host.Outcome.next.inj hsame)
  simp only [State.putTask] at hslices
  rw [locker_slices] at hslices
  exact absurd hslices (by decide +kernel)

end Sys2Proof.Proofs
end

section
/-! SUPPORT. A commit-time reduction of the thread (R300, R301), and O17. -/
namespace Sys2Proof.Laws.Reducing

open Sys2Proof Sys2Proof.Machine Sys2Proof.Claims Sys2Proof.Laws.LoadStore Sys2Proof.Laws.Atomic

variable {s u : State} {t t' t1 : Task} {i : Instr} {a b : Reg} {op n pa va : Nat} {w : Word} {cell : Option Nat} {e : TlbEntry}

/-- The seven reductions issue alike, each with its FN code, which tells its bytes. -/
theorem exec_reduction (hi : reduction i = some (op, n, a, b)) : n = redWidth op ∧ ∀ s, exec i s = issueRed i op a b s := by
  unfold reduction at hi
  split at hi <;> cases hi
  all_goals exact ⟨rfl, fun s => by rw [exec]; rfl⟩

/-- A reduction that is held at `pa`, with the low bytes of its operand. -/
def heldAt (op pa : Nat) (w : Word) (cell : Option Nat) : Reduction :=
  { op := op, addr := pa, width := redWidth op, operand := BitVec.ofNat 64 (w.toNat % 2 ^ (8 * redWidth op)), cell := cell }

/-- A task that holds one reduction more. -/
def holding (t : Task) (r : Reduction) : Task := { t with reds := t.reds ++ [r] }

/-- A held reduction meets the `n` bytes at `pa` in part. -/
def partly (pa n : Nat) (r : Reduction) : Bool := r.addr < pa + n && pa < r.addr + r.width && !(r.addr == pa && r.width == n)

theorem partly_iff {r : Reduction} : partly pa n r = true ↔ r.addr < pa + n ∧ pa < r.addr + r.width ∧ ¬ (r.addr = pa ∧ r.width = n) := by
  simp [partly, and_assoc, not_and_or, -not_and]

section
variable (hro : t.crec.rohint = false) (halign : va % redWidth op = 0) (hlow : va < 2 ^ 52)
  (haccess : s.access t.die t.crec.ctx va .store = (u, .ok (pa, e))) (hio : e.io = false)
include hro halign hlow haccess hio

theorem holdRed_of_partly (hpartly : t.reds.any (partly pa (redWidth op)) = true) :
    s.holdRed t 0 op va w cell = (u, .error (.trap .misalign)) := by
  rw [State.holdRed]
  simp only [hro, halign, Nat.not_le.mpr hlow, haccess, hio, Bool.false_eq_true, if_false, ne_eq, not_true_eq_false]
  exact if_pos hpartly

variable (hwhole : t.reds.any (partly pa (redWidth op)) = false)
include hwhole

theorem holdRed_of_counted (hline : (0, pa / 128) ∈ t.redLines) :
    s.holdRed t 0 op va w cell = (u, .ok (holding t (heldAt op pa w cell))) := by
  rw [State.holdRed]
  simp only [hro, halign, Nat.not_le.mpr hlow, haccess, hio, Bool.false_eq_true, if_false, ne_eq, not_true_eq_false]
  exact (if_neg (Bool.eq_false_iff.mp hwhole)).trans (if_pos (List.contains_iff_mem.mpr hline))

theorem holdRed_of_grown (hline : (0, pa / 128) ∉ t.redLines) (hgrow : u.growShare t 0 128 = .ok t1) :
    s.holdRed t 0 op va w cell = (u, .ok (holding { t1 with redLines := (0, pa / 128) :: t1.redLines } (heldAt op pa w cell))) := by
  rw [State.holdRed]
  simp only [hro, halign, Nat.not_le.mpr hlow, haccess, hio, Bool.false_eq_true, if_false, ne_eq, not_true_eq_false, hgrow]
  exact (if_neg (Bool.eq_false_iff.mp hwhole)).trans (if_neg (mt List.contains_iff_mem.mp hline))

end

theorem issueRed_of_held (h : OnThread s t 1)
    (hheld : (charged s t 1).holdRed (drawn s t 1) 0 op (t.x a).toNat (t.x b) none = (u, .ok t')) :
    issueRed i op a b s = .next (u.putTask ((spaceFound t').advance 4)) := by
  rw [issueRed, issueTask_thread h rfl]
  simp only [drawn_x, hheld]
  exact congrArg Host.Outcome.next (finish_nil _)

theorem issueRed_of_trap {c : Trap} (h : OnThread s t 1)
    (hheld : (charged s t 1).holdRed (drawn s t 1) 0 op (t.x a).toNat (t.x b) none = (u, .error (.trap c)))
    (htasks : u.tasks = (charged s t 1).tasks) : issueRed i op a b s = .next (faultedIn u (drawn s t 1) c 0) := by
  rw [issueRed, issueTask_thread h rfl]
  simp only [drawn_x, hheld]
  exact congrArg Host.Outcome.next (trapAt_of_tasks h htasks c 0)

/-- An access changes no byte of memory. -/
theorem byteAt_of_access {m : Nat} {d ctx : Nat} {k : AccKind} {r : Except AccErr (Nat × TlbEntry)}
    (haccess : (charged s t m).access d ctx va k = (u, r)) (p : Nat) : u.byteAt p = s.byteAt p := by
  have hcaches := access_cachesOnly (charged s t m) d ctx va k
  rw [haccess] at hcaches
  obtain ⟨hmem, hhost, hwin, -⟩ := hcaches.keeps
  exact byteAt_congr (hmem.trans (charged_mem ..)) (hhost.trans (charged_hostMem ..)) (hwin.trans (charged_hcw ..)) p

end Sys2Proof.Laws.Reducing

namespace Sys2Proof.Proofs

open Sys2Proof Sys2Proof.Machine Sys2Proof.Claims Sys2Proof.Laws.Atomic Sys2Proof.Laws.Reducing

/-- Settles O17: a reduction on a line that counts already, on a new line, and one that meets a held one in part. -/
theorem reductions : Obligations.Reductions := by
  intro i op n a b s t u pa e hi h hro halign hlow haccess hio
  obtain ⟨rfl, hexec⟩ := exec_reduction hi
  rw [← drawn_crec s t 1] at hro
  have haccess' : (charged s t 1).access (drawn s t 1).die (drawn s t 1).crec.ctx (t.x a).toNat .store = (u, .ok (pa, e)) := by
    rwa [drawn_die, drawn_crec]
  refine ⟨fun hwhole t' ht' => ⟨?_, byteAt_of_access haccess⟩, fun r hr hbelow habove hpart => ?_⟩
  · have hnone : (drawn s t 1).reds.any (partly pa (redWidth op)) = false := by
      rw [drawn_reds, List.any_eq_false]
      intro r hr hpartly
      obtain ⟨hbelow, habove, hpart⟩ := partly_iff.mp hpartly
      exact hpart (hwhole r hr hbelow habove)
    rw [hexec]
    obtain ⟨hline, rfl⟩ | ⟨hline, t1, hgrow, rfl⟩ := ht'
    · exact issueRed_of_held h (holdRed_of_counted hro halign hlow haccess' hio hnone (by rwa [drawn_redLines]))
    · exact issueRed_of_held h (holdRed_of_grown hro halign hlow haccess' hio hnone (by rwa [drawn_redLines]) hgrow)
  · have hsome : (drawn s t 1).reds.any (partly pa (redWidth op)) = true := by
      rw [drawn_reds, List.any_eq_true]
      exact ⟨r, hr, partly_iff.mpr ⟨hbelow, habove, hpart⟩⟩
    rw [hexec]
    exact issueRed_of_trap h (holdRed_of_partly hro halign hlow haccess' hio hsome) (tasks_of_access haccess)

end Sys2Proof.Proofs
end

section
/-! SUPPORT. `trap` and `abort` (R335, R339, R342), and O10 and O29; the package at reset, and O7. -/
namespace Sys2Proof.Laws.Ending

open Sys2Proof Sys2Proof.Machine Sys2Proof.Claims Sys2Proof.Laws.Atomic

variable {s : State} {t : Task} {a : Reg}

/-! ### `abort` (R339, R342) -/

/-- Bits 63 to 33 of xA are 0 below 2^33. -/
theorem wbits_high_eq_zero_iff {w : Word} : wbits w 63 33 = 0 ↔ w.toNat < 2 ^ 33 := by
  have hw := w.isLt
  simp only [wbits, bitsOf]
  omega

theorem wbits_low_of_lt {w : Word} (h : w.toNat < 2 ^ 32) : wbits w 31 0 = w.toNat := by
  simp only [wbits, bitsOf]
  omega

/-- Below 2^33, bit 32 tells the two halves. -/
theorem getLsbD_32_iff {w : Word} (h : w.toNat < 2 ^ 33) : w.getLsbD 32 = true ↔ 2 ^ 32 ≤ w.toNat := by
  rw [← BitVec.testBit_toNat, Nat.testBit_eq_decide_div_mod_eq, decide_eq_true_iff]
  omega

section
variable (h : OnThread s t 0)
include h

theorem exec_abort_of_reserved (hhigh : 2 ^ 33 ≤ (t.x a).toNat) :
    exec (.abort a) s = .next (faultedIn (charged s t 0) (drawn s t 0) .illegalOp 0) := by
  rw [exec, execAbort, issueTask_thread h rfl]
  simp only [drawn_x, ne_eq, wbits_high_eq_zero_iff, Nat.not_lt.mpr hhigh, not_false_eq_true, if_true, trapAt_of_tasks h rfl]

theorem exec_abort_of_retry (hlow : (t.x a).toNat < 2 ^ 33) (hbit : 2 ^ 32 ≤ (t.x a).toNat) :
    exec (.abort a) s = .next (finish ((charged s t 0).retry (drawn s t 0))) := by
  rw [exec, execAbort, issueTask_thread h rfl]
  simp only [drawn_x, ne_eq, wbits_high_eq_zero_iff, hlow, not_true_eq_false, if_false, (getLsbD_32_iff hlow).mpr hbit, if_true]

theorem exec_abort_of_discard (hlow : (t.x a).toNat < 2 ^ 32) :
    exec (.abort a) s = .next (finish ((charged s t 0).retire { drawn s t 0 with gate := .stopped } .discarded .none 0 0
      (t.x a).toNat t.pc.toNat)) := by
  have hlow' : (t.x a).toNat < 2 ^ 33 := by omega
  have hbit : ¬ (t.x a).getLsbD 32 = true := fun hb => Nat.not_le.mpr hlow ((getLsbD_32_iff hlow').mp hb)
  rw [exec, execAbort, issueTask_thread h rfl]
  simp only [drawn_x, ne_eq, wbits_high_eq_zero_iff, hlow', not_true_eq_false, if_false, if_neg hbit, wbits_low_of_lt hlow, drawn_pc]

end

theorem retry_of_few (h : t.rerun < 64) : s.retry t = (s.requeue t (t.rerun + 1) t.irrevocable false, []) :=
  if_neg (by omega)

theorem retry_of_many (h : 64 ≤ t.rerun) : s.retry t = s.retire { t with gate := .stopped } .conflictLimit .none 0 0 0 0 :=
  if_pos (by omega)

/-! ### Reset -/

/-- A die of the package at reset is one of the four. -/
theorem reset_die {d : Nat} {x : Die} (h : State.reset.die? d = some x) : x = Die.reset d := by
  have hget : ((List.range 4).map Die.reset)[d]? = some x := h
  rw [List.getElem?_map, Option.map_eq_some_iff] at hget
  obtain ⟨k, hk, rfl⟩ := hget
  obtain ⟨hd, hk⟩ := List.getElem?_eq_some_iff.mp hk
  rw [← hk, List.getElem_range]

theorem reset_slice (d c k : Nat) : State.reset.slice d c k = Slice.fresh d c k := rfl

end Sys2Proof.Laws.Ending

namespace Sys2Proof.Proofs

open Sys2Proof Sys2Proof.Machine Sys2Proof.Claims Sys2Proof.Laws.Atomic Sys2Proof.Laws.Ending

/-- Settles O10: trap entry on the Bureau, and the end of a task. -/
theorem trapInstruction : Obligations.TrapInstruction := by
  refine ⟨fun s k x imm h => ?_, fun s t imm h => ?_⟩
  · have hcode : BitVec.ofNat 8 Trap.brk.code = 0x11 := rfl
    rw [exec, execTrap, issueBoth_bureau h, bureau_trap h, hcode, BitVec.ofNat_toNat]
  · obtain ⟨-, hfound, -⟩ := id h
    rw [exec, execTrap, issueBoth_thread h rfl, trapAt_drawn hfound]
    rfl

/-- Settles O29, by the value of xA. -/
theorem abortResults : Obligations.AbortResults := by
  refine fun a s t h => ⟨exec_abort_of_reserved h, fun hlow hbit hfew => ?_, fun hlow hbit hmany => ?_, exec_abort_of_discard h⟩
  · rw [exec_abort_of_retry h hlow hbit, retry_of_few (by rwa [drawn_rerun]), finish_nil, drawn_rerun, drawn_irrevocable]
  · rw [exec_abort_of_retry h hlow hbit, retry_of_many (by rwa [drawn_rerun])]

/-- Settles O7: the package, its slices, and its dies, whose registers hold what they hold at reset. -/
theorem resetValues : Obligations.ResetValues := by
  refine ⟨rfl, rfl, rfl, rfl, rfl, rfl, rfl, rfl, rfl, rfl, rfl, rfl, rfl, rfl, rfl, rfl, rfl, rfl, rfl, rfl, rfl, rfl, fun d c k => ?_,
    fun d x hx => ?_⟩
  · rw [reset_slice]
    exact ⟨rfl, rfl, rfl, rfl⟩
  · obtain rfl := reset_die hx
    refine ⟨rfl, rfl, rfl, rfl, rfl, rfl, rfl, rfl, rfl, rfl, rfl, rfl, rfl, rfl, rfl, rfl, rfl, rfl, rfl, rfl, rfl, rfl, rfl, rfl, rfl,
      rfl, rfl, rfl, rfl, rfl, rfl, rfl, rfl, rfl, rfl, rfl, rfl, rfl, rfl, fun r hr => ?_, fun w hw => ?_⟩
    · obtain rfl := List.eq_of_mem_replicate hr
      exact ⟨rfl, rfl, rfl, rfl, rfl⟩
    · obtain rfl := List.eq_of_mem_replicate hw
      exact ⟨rfl, rfl, rfl, rfl, rfl, rfl⟩

end Sys2Proof.Proofs
end

section
/-! SUPPORT. What `sys.wr`, `sys.set` and `sys.clr` leave (R332, R334), and O14. -/
namespace Sys2Proof.Laws.RegisterForms

open Sys2Proof Sys2Proof.Machine Sys2Proof.Claims Sys2Proof.Laws.Registers Sys2Proof.Laws.LoadStore

variable {s : State} {k : Nat} {x : Die} {t : Task} {i : Instr} {num : BitVec 12} {d a : Reg} {c : Bool} {f : Word → Word → Word → Word}
variable {rw : Word} {get : Bureau → Word} {put : Bureau → Word → Bool → Bureau}

/-! ### The three forms (R334) -/

/-- What a register form writes, from the fields, the old value of the RW bits and xA: the RW bits, the WO bits, the W1C bits to clear. -/
abbrev Written := RegFields → Word → Word → Word × Option Word × Word

/-- A form `g` of the model writes the RW bits that `f` gives, and clears the W1C bits that xA names if `c`. -/
structure Writes (g : Written) (c : Bool) (f : Word → Word → Word → Word) : Prop where
  value : ∀ fs old v, (g fs (old &&& fs.rw) v).1 = f old fs.rw v
  clears : ∀ fs old v, (g fs old v).2.2 = if c then v &&& fs.w1c else 0
  masked : ∀ old rw v, f (old &&& rw) rw v = f old rw v
  within : ∀ old rw v, f old rw v &&& rw = f old rw v

/-- The three forms issue alike, and differ in what they write. -/
theorem exec_registerForm (hi : registerForm i = some (num, d, a, c, f)) :
    ∃ reads g, (∀ s, exec i s = issueReg i num d a reads (some g) s) ∧ Writes g c f := by
  unfold registerForm at hi
  split at hi <;> cases hi
  case h_1 => exact ⟨_, _, fun s => by rw [exec]; rfl, fun _ _ _ => rfl, fun _ _ _ => rfl, fun _ _ _ => rfl, fun _ _ _ => by grind⟩
  case h_2 =>
    exact ⟨_, _, fun s => by rw [exec]; rfl, fun _ _ _ => by grind, fun _ _ _ => rfl, fun _ _ _ => by grind, fun _ _ _ => by grind⟩
  case h_3 => exact ⟨_, _, fun s => by rw [exec]; rfl, fun _ _ _ => rfl, fun _ _ _ => rfl, fun _ _ _ => by grind, fun _ _ _ => by grind⟩

/-! ### The Bureau's own registers (R332) -/

/-- A register whose RW bits are `rw`: a Bureau reads in them what it holds, and a write leaves what `put` says. -/
structure OwnRegister (num : Nat) (rw : Word) (get : Bureau → Word) (put : Bureau → Word → Bool → Bureau) : Prop where
  fields : ∃ fs, regFields num = some fs ∧ fs.rw = rw ∧
    ∀ (s : State) k (v w : Word) wo (c : Bool), s.regWrite k num false v wo (if c then w &&& fs.w1c else 0) =
      (s.updBureau k fun b => put b v (c && w.getLsbD 3), [])
  not_task : taskReg num = false
  not_doorbell : num ≠ 0x317
  reads : ∀ (s : State) k, s.regRead k num &&& rw = get (s.die k).bureau

theorem ofNat_wbits_low (w : Word) : BitVec.ofNat 16 (wbits w 15 0) = w.extractLsb' 0 16 := by
  apply BitVec.eq_of_toNat_eq
  simp [wbits, bitsOf]

theorem ofNat_wbits_mask (w : Word) : BitVec.ofNat 4 (wbits w 19 16) = w.extractLsb' 16 4 := by
  apply BitVec.eq_of_toNat_eq
  simp [wbits, bitsOf, Nat.shiftRight_eq_div_pow]

/-- The bits of the interrupt register, where IE, PIE, INTRAP, DT, PEND and MASK stand; its RW bits are IE, PIE and MASK. -/
theorem intr_rwBits : ∀ (ie pie intrap dt : Bool) (pend mask : BitVec 4),
    BitVec.ofNat 64 ((if ie then 2 ^ 0 else 0) + (if pie then 2 ^ 1 else 0) + (if intrap then 2 ^ 2 else 0) + (if dt then 2 ^ 3 else 0) +
      256 * pend.toNat + 2 ^ 16 * mask.toNat) &&& 0xF0003 =
    mask.zeroExtend 64 <<< 16 ||| oneIf pie <<< 1 ||| oneIf ie := by decide +kernel

theorem and_allOnes64 (w : Word) : w &&& 0xFFFFFFFFFFFFFFFF = w := BitVec.and_allOnes

theorem vec_rwBits (vec : BitVec 16) : BitVec.ofNat 64 vec.toNat &&& 0xFFFF = vec.zeroExtend 64 := by
  apply BitVec.eq_of_toNat_eq
  have hvec : vec.toNat % 2 ^ 64 = vec.toNat := Nat.mod_eq_of_lt (Nat.lt_trans vec.isLt (by decide))
  have hlow : vec.toNat &&& 2 ^ 16 - 1 = vec.toNat := by rw [Nat.and_two_pow_sub_one_eq_mod, Nat.mod_eq_of_lt vec.isLt]
  rw [BitVec.toNat_and, BitVec.toNat_ofNat, BitVec.toNat_setWidth, hvec]
  exact hlow

theorem regWrite_vec (s : State) (k : Nat) (v : Word) (wo : Option Word) (clear : Word) : s.regWrite k 0x303 false v wo clear =
    (s.updBureau k fun b => { b with vec := BitVec.ofNat 16 (wbits v 15 0) &&& 0xFFFC }, []) := rfl

theorem regWrite_intr (s : State) (k : Nat) (v : Word) (wo : Option Word) (clear : Word) : s.regWrite k 0x304 false v wo clear =
    (s.updBureau k fun b => { b with ie := v.getLsbD 0, pie := v.getLsbD 1, mask := BitVec.ofNat 4 (wbits v 19 16),
                                     dt := b.dt && !clear.getLsbD 3 }, []) := rfl

theorem ownRegister {n : Nat} (h : bureauRegister n = some (rw, get, put)) : OwnRegister n rw get put := by
  unfold bureauRegister at h
  split_ifs at h with htpc hvec hintr hpad <;> subst n <;> cases h
  · exact ⟨⟨_, rfl, rfl, fun _ _ _ _ _ _ => rfl⟩, rfl, by decide, fun _ _ => and_allOnes64 _⟩
  · refine ⟨⟨_, rfl, rfl, fun s k v w wo c => ?_⟩, rfl, by decide, fun s k => ?_⟩
    · rw [regWrite_vec, ofNat_wbits_low]
    · exact vec_rwBits _
  · refine ⟨⟨_, rfl, rfl, fun s k v w wo c => ?_⟩, rfl, by decide, fun s k => ?_⟩
    · have hclear : (if c then w &&& 8 else 0 : Word).getLsbD 3 = (c && w.getLsbD 3) := by cases c <;> simp
      rw [regWrite_intr, ofNat_wbits_mask, hclear]
    · exact intr_rwBits ..
  · exact ⟨⟨_, rfl, rfl, fun _ _ _ _ _ _ => rfl⟩, rfl, by decide, fun _ _ => and_allOnes64 _⟩

/-! ### On a Bureau -/

section
variable (hi : registerForm i = some (num, d, a, c, f))
include hi

theorem exec_registerForm_bureau (hreg : bureauRegister num.toNat = some (rw, get, put)) (h : OnBureau s k x) :
    exec i s = .next (onBureau s k
      (put ((x.bureau.setX d (s.regRead k num.toNat)).advance 4) (f (get x.bureau) rw (x.bureau.x a))
        (c && (x.bureau.x a).getLsbD 3))) := by
  obtain ⟨reads, g, hexec, hg⟩ := exec_registerForm hi
  obtain ⟨⟨fs, hfs, rfl, hwrite⟩, htask, hbell, hread⟩ := ownRegister hreg
  have hold : (if reads then s.bureauRegRead k num.toNat else (s, s.regRead k num.toNat)) = (s, s.regRead k num.toNat) := by
    rw [bureauRegRead_of_not_taskReg htask hbell, ite_self]
  have hvalue : (g fs (s.regRead k num.toNat &&& fs.rw) (x.bureau.x a)).1 = f (get x.bureau) fs.rw (x.bureau.x a) := by
    rw [hg.value, ← hg.masked, hread, die_eq h.2.1]
  rw [hexec, issueReg, issueBoth_bureau h, hfs]
  simp only [hold, htask, Bool.false_eq_true, if_false, hvalue, hg.clears, hwrite, finish_nil]
  rw [updBureau_const h.2.1, updBureau_const (onB_die h.2.1), onB_onB]

/-! ### In a task -/

theorem exec_registerForm_thread (htask : taskReg num.toNat = true) (h : OnThread s t 1) : ∃ v fs, regFields num.toNat = some fs ∧
    v = f (t.regRead num.toNat) fs.rw (t.x a) ∧
    exec i s = .next ((charged s t 1).putTask ((((drawn s t 1).regWrite num.toNat v).setX d (t.regRead num.toNat)).advance 4)) := by
  obtain ⟨reads, g, hexec, hg⟩ := exec_registerForm hi
  obtain ⟨fs, hfs⟩ := regFields_taskReg htask
  have hread : (drawn s t 1).regRead num.toNat = t.regRead num.toNat := by simp only [Task.regRead, drawn_flags, drawn_rwin]
  refine ⟨_, fs, hfs, rfl, ?_⟩
  rw [hexec, issueReg, issueBoth_thread h (taskRegTrap_taskReg htask), hfs]
  simp only [hread, drawn_x, hg.value, finish_nil]

end

/-- A write to RWIN `n` (R304). -/
theorem regWrite_rwin (t : Task) (n : Fin 8) {v : Word} (hv : v &&& onesFrom 51 2 = v) :
    t.regWrite (0x130 + n.val) v = { t with rwin := t.rwin.set n v } := by
  have hset : t.rwin.setIfInBounds (0x130 + n.val - 0x130) v = t.rwin.set n v := by
    rw [Nat.add_sub_cancel_left]
    ext j hj
    simp [Vector.getElem_set, Vector.getElem_setIfInBounds]
  rw [Task.regWrite, if_pos (by simp; omega), hv, hset]

/-- FLAGS ignores writes (R334). -/
theorem regWrite_flags (t : Task) (v : Word) : t.regWrite 0x138 v = t := rfl

end Sys2Proof.Laws.RegisterForms

namespace Sys2Proof.Proofs

open Sys2Proof Sys2Proof.Machine Sys2Proof.Claims Sys2Proof.Laws.Registers Sys2Proof.Laws.RegisterForms

/-- Settles O14: the Bureau's own registers, RWIN, and FLAGS. -/
theorem registerWrites : Obligations.RegisterWrites := by
  refine ⟨fun i num d a c f rw get put s k x => exec_registerForm_bureau, fun i d a c f s t n hi h => ?_, fun i d a c f s t hi h => ?_⟩
  · obtain ⟨_, _, _, hg⟩ := exec_registerForm hi
    obtain ⟨v, fs, hfs, rfl, hexec⟩ := exec_registerForm_thread hi (by rw [toNat_rwin, taskReg_iff]; omega) h
    rw [toNat_rwin, regFields_rwin] at hfs
    cases hfs
    rw [hexec, toNat_rwin, regRead_rwin, regWrite_rwin _ _ (hg.within t.rwin[n] (onesFrom 51 2) (t.x a)), drawn_rwin]
    rfl
  · obtain ⟨v, fs, -, -, hexec⟩ := exec_registerForm_thread hi rfl h
    rw [hexec]
    rfl

end Sys2Proof.Proofs
end

section
/-! SUPPORT. Writes through the register window, the doorbell, and HCW_CTL (R334, R354, R356, R362), and O48. -/
namespace Sys2Proof.Laws.RegisterWindow

open Sys2Proof Sys2Proof.Machine Sys2Proof.Claims Sys2Proof.Laws.Registers Sys2Proof.Laws.RegisterForms Sys2Proof.Laws.Rails

variable {s : State} {d k n : Nat} {x : Die} {num : BitVec 12} {v : Word} {w : HWin} {fs : RegFields}

/-! ### The register window (R354) -/

theorem exec_registerWrite (hx : s.die? d = some x) :
    exec (.registerWrite d num v) s = .next (finish (s.regSet d num.toNat true v)) := by
  rw [exec, execRegisterWrite, State.onDie_some hx]

theorem exec_registerWrite_of {u : State} (hx : s.die? d = some x) (hset : s.regSet d num.toNat true v = (u, [])) :
    exec (.registerWrite d num v) s = .next u := by
  rw [exec_registerWrite hx, hset, finish_nil]

theorem regSet_of_fields (hfields : regFields n = some fs) (htask : taskReg n = false) :
    s.regSet d n true v = s.regWrite d n true (v &&& fs.rw) (some (v &&& fs.wo)) (v &&& fs.w1c) := by
  simp only [State.regSet, hfields, htask, Bool.false_eq_true, if_false]

/-- The registers that no write changes. -/
theorem readOnly_cases (h : regFields n = roReg) (htask : taskReg n = false) :
    n = 0x100 ∨ n = 0x102 ∨ n = 0x112 ∨ (0x220 ≤ n ∧ n ≤ 0x22F) ∨ n = 0x300 ∨ n = 0x302 := by
  simp only [taskReg, Bool.and_eq_false_iff, decide_eq_false_iff_not] at htask
  simp [regFields, roReg, rwBits, onesFrom, ite_eq_iff] at h
  omega

theorem regWrite_readOnly (h : regFields n = roReg) (htask : taskReg n = false) (host : Bool) (rw : Word) (wo : Option Word)
    (clear : Word) : s.regWrite d n host rw wo clear = (s, []) := by
  obtain rfl | rfl | rfl | ⟨hlo, hhi⟩ | rfl | rfl := readOnly_cases h htask
  case inr.inr.inr.inl => interval_cases n <;> rfl
  all_goals rfl

/-- A number that names no register, and a read-only register: nothing happens. -/
theorem regSet_of_readOnly (h : regFields n = none ∨ regFields n = roReg) : s.regSet d n true v = (s, []) := by
  obtain h | h := h
  · simp only [State.regSet, h]
  · cases htask : taskReg n with
    | true => simp only [State.regSet, h, roReg, htask, if_true]
    | false => rw [regSet_of_fields h htask, regWrite_readOnly h htask]

/-- The low bits of a value that was masked to them. -/
theorem wbits_masked {m : Word} (hm : m.toNat = 2 ^ (n + 1) - 1) (v : Word) :
    wbits (v &&& m) n 0 = (v.extractLsb' 0 (n + 1)).toNat := by
  simp [wbits, bitsOf, hm, Nat.and_two_pow_sub_one_eq_mod]

theorem ofNat_toNat_self {m : Nat} (b : BitVec m) : BitVec.ofNat m b.toNat = b := by simp

theorem regSet_sliceLen (s : State) (d : Nat) (v : Word) : s.regSet d 0x120 true v = (s.updDie d fun x =>
    { x with sliceLen := if v.extractLsb' 0 16 = 0 then 1 else v.extractLsb' 0 16 }, []) := by
  have hwrite (rw : Word) : s.regWrite d 0x120 true rw (some (v &&& 0)) (v &&& 0) = (s.updDie d fun x =>
      { x with sliceLen := if wbits rw 15 0 = 0 then 1 else BitVec.ofNat 16 (wbits rw 15 0) }, []) := rfl
  rw [regSet_of_fields rfl rfl, hwrite, wbits_masked (n := 15) rfl, ofNat_toNat_self]
  simp only [BitVec.toNat_eq]
  rfl

theorem regSet_hangIvl (s : State) (d : Nat) (v : Word) : s.regSet d 0x121 true v =
    (s.updDie d fun x => { x with hangIvl := v.extractLsb' 0 32 }, []) := by
  have hwrite (rw : Word) : s.regWrite d 0x121 true rw (some (v &&& 0)) (v &&& 0) =
      (s.updDie d fun x => { x with hangIvl := BitVec.ofNat 32 (wbits rw 31 0) }, []) := rfl
  rw [regSet_of_fields rfl rfl, hwrite, wbits_masked (n := 31) rfl, ofNat_toNat_self]

theorem regSet_timerCmp (s : State) (d : Nat) (v : Word) : s.regSet d 0x111 true v =
    (s.updDie d fun x => { x with timerCmp := v }, []) := by
  have hwrite (rw : Word) : s.regWrite d 0x111 true rw (some (v &&& 0)) (v &&& 0) =
      (s.updDie d fun x => { x with timerCmp := rw }, []) := rfl
  rw [regSet_of_fields rfl rfl, hwrite]
  exact congrArg (fun w => (s.updDie d fun x => { x with timerCmp := w }, [])) (and_allOnes64 v)

theorem regSet_tpc (s : State) (d : Nat) (v : Word) : s.regSet d 0x301 true v =
    (s.updDie d fun x => { x with bureau := { x.bureau with tpc := v } }, []) := by
  have hwrite (rw : Word) : s.regWrite d 0x301 true rw (some (v &&& 0)) (v &&& 0) =
      (s.updDie d fun x => { x with bureau := { x.bureau with tpc := rw } }, []) := rfl
  rw [regSet_of_fields rfl rfl, hwrite]
  exact congrArg (fun w => (s.updDie d fun x => { x with bureau := { x.bureau with tpc := w } }, [])) (and_allOnes64 v)

/-- A doorbell write sets HOST (R356). -/
theorem regSet_doorbell (s : State) (d : Nat) (v : BitVec 32) : s.regSet d 0x317 true (v.setWidth 64) =
    (s.updDie d fun x => { x with doorbell := v, rung := true }, []) := by
  have hwrite (rw w : Word) : s.regWrite d 0x317 true rw (some w) w =
      (s.updDie d fun x => { x with doorbell := BitVec.ofNat 32 (wbits rw 31 0), rung := x.rung || true }, []) := rfl
  have hlow : (v.setWidth 64).extractLsb' 0 32 = v := by
    apply BitVec.eq_of_toNat_eq
    simpa using v.isLt
  rw [regSet_of_fields rfl rfl]
  exact (hwrite _ _).trans (by rw [wbits_masked (n := 31) rfl, ofNat_toNat_self, hlow]; simp only [Bool.or_true])

/-! ### HCW_CTL (R362) -/

/-- What HCW_CTL gives a window that takes SIZE, WR and EN. -/
def hcwTaken (w : HWin) (v : Word) : HWin :=
  { w with size := if 21 ≤ v.toNat % 64 ∧ v.toNat % 64 ≤ 40 then v.extractLsb' 0 6 else 21, wr := v.getLsbD 7, en := v.getLsbD 6 }

theorem hcwCtl_masked (s : State) (hw : s.hcw[k]? = some w) (v : Word) : s.hcwCtl k (v &&& 0xFF) =
    if w.en && v.getLsbD 6 then s else
      { (if w.en then { s with modified := s.modified.filter fun l => !w.covers (64 * l) } else s) with
        hcw := s.hcw.set k { hcwTaken w v with en := v.getLsbD 6 && s.windowFree k (hcwTaken w v) } } := by
  have hget : s.hcw.getD k HWin.reset = w := by simp [List.getD, hw]
  have hsize : wbits (v &&& 0xFF) 5 0 = v.toNat % 64 := by
    have hmask : (v &&& 0xFF).toNat = v.toNat % 2 ^ 8 := (BitVec.toNat_and ..).trans (Nat.and_two_pow_sub_one_eq_mod v.toNat 8)
    simp only [wbits, bitsOf, hmask]
    omega
  have hofNat : BitVec.ofNat 6 (v.toNat % 64) = v.extractLsb' 0 6 := by
    apply BitVec.eq_of_toNat_eq
    simp
  have hwr : (v &&& 0xFF).getLsbD 7 = v.getLsbD 7 := by simp
  have hen : (v &&& 0xFF).getLsbD 6 = v.getLsbD 6 := by simp
  rw [State.hcwCtl, hget, hsize, hofNat, hwr, hen, hcwTaken]
  simp only [Bool.and_eq_true, decide_eq_true_eq, setAt_eq_set]
  split
  · rfl
  · cases w.en <;> rfl

end Sys2Proof.Laws.RegisterWindow

namespace Sys2Proof.Proofs

open Sys2Proof Sys2Proof.Machine Sys2Proof.Claims Sys2Proof.Laws.Registers Sys2Proof.Laws.RegisterWindow

/-- Settles O48: the register window, the doorbell, and HCW_CTL. -/
theorem hostRegisters : Obligations.HostRegisters := by
  refine ⟨?plain, ?window, ?doorbell, ?hcw⟩
  case plain =>
    intro s d x v hx
    exact ⟨exec_registerWrite_of hx (regSet_timerCmp s d v), exec_registerWrite_of hx (regSet_sliceLen s d v),
      exec_registerWrite_of hx (regSet_hangIvl s d v), exec_registerWrite_of hx (regSet_tpc s d v),
      fun num h => exec_registerWrite_of hx (regSet_of_readOnly h)⟩
  case window =>
    intro s d x num fs v hx hfs htask
    rw [exec_registerWrite hx, regSet_of_fields hfs (by rwa [← Bool.not_eq_true, taskReg_iff])]
  case doorbell =>
    refine fun s d x v hx => ⟨?_, ?_⟩
    · rw [exec, execDoorbellWrite, State.onDie_some hx, regSet_doorbell, finish_nil]
    · rw [exec, execDoorbellRead, State.onDie_some hx, finish_nil]
  case hcw =>
    intro s k w v hk hw
    rw [exec, execHcwCtlWrite, if_pos hk, hcwCtl_masked s hw]
    refine ⟨fun hen hstays => by rw [hen, hstays]; rfl, ?_⟩
    rintro w' rfl
    refine ⟨fun hoff => by rw [hoff]; rfl, fun hen hends => ?_⟩
    have hcovers (l : Nat) : (!w.covers (64 * l)) = decide ¬(w.dev.toNat ≤ 64 * l ∧ 64 * l < w.dev.toNat + 2 ^ w.size.toNat) := by
      rw [HWin.covers, hen, Bool.true_and, decide_not, Bool.decide_and]
    simp only [hen, hends, Bool.and_false, Bool.false_and, Bool.false_eq_true, if_false, if_true, hcovers]
    rfl

end Sys2Proof.Proofs
end

section
/-! SUPPORT. `eret`, `wfi` and the entry of interrupts (R333, R336), and O15. -/
namespace Sys2Proof.Laws.Interrupts

open Sys2Proof Sys2Proof.Machine Sys2Proof.Claims

variable {s : State} {d k : Nat} {x : Die} {b : Bureau}

/-! ### The source that enters first (R333) -/

/-- The lowest pending source that MASK enables. -/
structure Lowest (p : BitVec 4) (k : Nat) : Prop where
  bit : p.getLsbD k = true
  lower : ∀ j < k, p.getLsbD j = false

theorem source_of_lowest (h : Lowest (x.pend s.now &&& x.bureau.mask) k) (hk : k < 4) : x.source s.now = some k := by
  rw [Die.source, List.find?_range_eq_some]
  exact ⟨h.bit, List.mem_range.mpr hk, fun j hj => by rw [h.lower j hj]; rfl⟩

theorem source_of_none (h : x.pend s.now &&& x.bureau.mask = 0) : x.source s.now = none := by
  rw [Die.source, List.find?_eq_none]
  intro j _
  simp [h]

theorem source_isSome (h : x.pend s.now &&& x.bureau.mask ≠ 0) : ∃ k, x.source s.now = some k := by
  rw [← Option.isSome_iff_exists, Option.isSome_iff_ne_none, Ne, Die.source, List.find?_eq_none]
  refine fun hnone => h (BitVec.eq_of_getLsbD_eq fun j hj => ?_)
  simpa using hnone j (List.mem_range.mpr hj)

/-- FAULT alone. -/
theorem lowest_fault : Lowest 8 3 := ⟨by decide, by decide⟩

/-! ### Entry (R333) -/

theorem enter_eq_interrupted (b : Bureau) (code : BitVec 8) : b.enter code 0 false = interrupted b code := by
  simp [Bureau.enter, interrupted]

/-- The code of a source: of FAULT a free value among those that R314 assigns (log entry 12). -/
def sourceCode (s : State) (k : Nat) : BitVec 8 :=
  if k < 3 then BitVec.ofNat 8 (0x12 + k) else BitVec.ofNat 8 ((Config.freeByte s.fresh).toNat % 0x15)

/-- A package whose Bureau has entered its handler for a source: for FAULT a free value is taken. -/
def entered (s : State) (d k : Nat) (b : Bureau) : State :=
  if k < 3 then onBureau s d (interrupted b (sourceCode s k))
  else { onBureau s d (interrupted b (sourceCode s k)) with fresh := s.fresh + 1 }

theorem interrupt_eq_entered (hx : s.die? d = some x) : s.interrupt d k = entered s d k x.bureau := by
  rw [State.interrupt, entered, sourceCode]
  split
  · rw [updBureau_const hx, enter_eq_interrupted]
  · rw [← enter_eq_interrupted, ← updBureau_const hx (·.enter (BitVec.ofNat 8 ((Config.freeByte s.fresh).toNat % 0x15)) 0 false)]
    rfl

theorem entered_onBureau (s : State) (d k : Nat) (b b' : Bureau) : entered (onBureau s d b) d k b' = entered s d k b' := by
  rw [entered, onB_onB]
  rfl

/-! ### A Bureau that is woken (R333, R336) -/

theorem wake_of_none (hx : s.die? d = some x) (hnone : x.source s.now = none) : s.wake d = s := by
  simp only [State.wake, die_eq hx, hnone]

section
variable (hx : s.die? d = some x) (hsource : x.source s.now = some k)
include hx hsource

theorem wake_of_enabled (hie : x.bureau.ie = true) : s.wake d = entered s d k x.bureau := by
  simp only [State.wake, die_eq hx, hsource, hie, if_true]
  rw [updBureau_const hx, interrupt_eq_entered (onB_die hx), entered_onBureau]
  rfl

theorem wake_of_disabled (hie : x.bureau.ie = false) : s.wake d = onBureau s d { x.bureau with waiting := false } := by
  simp only [State.wake, die_eq hx, hsource, hie, Bool.false_eq_true, if_false, updBureau_const hx]

end

/-! ### `eret`, `wfi`, and the steps that wake a Bureau -/

theorem exec_eret_bureau (h : OnBureau s d x) :
    exec .eret s = .next (onBureau s d { x.bureau with ie := x.bureau.pie, intrap := false, pc := x.bureau.tpc }) := by
  obtain ⟨-, hx, -⟩ := id h
  rw [exec, execEret, issueBoth_bureau h, finish_nil, updBureau_const hx, Bureau.eret]

/-- A Bureau that has reached `wfi`. -/
def atWfi (b : Bureau) : Bureau := { b with pc := b.pc + 4, waiting := true }

theorem exec_wfi_bureau (h : OnBureau s d x) : exec .wfi s = .next ((onBureau s d (atWfi x.bureau)).wake d) := by
  obtain ⟨-, hx, -⟩ := id h
  rw [exec, execWfi, issueBoth_bureau h, finish_nil, updBureau_const hx]
  rfl

theorem exec_wfi_of_none (h : OnBureau s d x) (hnone : x.source s.now = none) :
    exec .wfi s = .next (onBureau s d { x.bureau with pc := x.bureau.pc + 4, waiting := true }) := by
  obtain ⟨-, hx, -⟩ := id h
  rw [exec_wfi_bureau h, wake_of_none (onB_die (b := atWfi x.bureau) hx) hnone]
  rfl

section
variable (h : OnBureau s d x) (hsource : x.source s.now = some k)
include h hsource

theorem exec_wfi_of_disabled (hie : x.bureau.ie = false) :
    exec .wfi s = .next (onBureau s d { x.bureau with pc := x.bureau.pc + 4, waiting := false }) := by
  obtain ⟨-, hx, -⟩ := id h
  rw [exec_wfi_bureau h, wake_of_disabled (onB_die (b := atWfi x.bureau) hx) hsource hie, onB_onB]
  rfl

theorem exec_wfi_of_enabled (hie : x.bureau.ie = true) :
    exec .wfi s = .next (entered s d k { x.bureau with pc := x.bureau.pc + 4 }) := by
  obtain ⟨-, hx, -⟩ := id h
  rw [exec_wfi_bureau h, wake_of_enabled (onB_die (b := atWfi x.bureau) hx) hsource hie, entered_onBureau]
  rfl

end

theorem exec_bureauTrapEntry (hx : s.die? d = some x) (hie : x.bureau.ie = true) : exec (.bureauTrapEntry d) s = .next (s.wake d) := by
  rw [exec, execBureauTrapEntry, State.onDie_some hx, if_pos hie, finish_nil]

theorem exec_wfiWake (hx : s.die? d = some x) (hwaits : x.bureau.waiting = true) : exec (.wfiWake d) s = .next (s.wake d) := by
  rw [exec, execWfiWake, State.onDie_some hx, if_pos hwaits, finish_nil]

/-- THERMAL, TIMER and HOST have codes of their own. -/
theorem entered_of_lt (s : State) (d : Nat) (b : Bureau) (hk : k < 3) :
    entered s d k b = onBureau s d (interrupted b (BitVec.ofNat 8 (0x12 + k))) := by
  rw [entered, sourceCode, if_pos hk, if_pos hk]

end Sys2Proof.Laws.Interrupts

namespace Sys2Proof.Proofs

open Sys2Proof Sys2Proof.Machine Sys2Proof.Claims Sys2Proof.Laws.Interrupts

/-- Settles O15: `eret`; `wfi` with nothing pending, with IE = 0, and with IE = 1; the two steps that wake a Bureau. -/
theorem interruptsAndReturn : Obligations.InterruptsAndReturn := by
  refine ⟨fun s k x => exec_eret_bureau, fun s k x h hnone => exec_wfi_of_none h (source_of_none hnone),
    fun s k x h hpend hie => ?_, fun s k x h hie j hj hbit hlower => ?_, fun s k x h hie hfault => ?_, fun s d x hx hie => ⟨?_, ?_⟩,
    fun s d x hx hie hwaits hpend => ?_⟩
  · obtain ⟨j, hsource⟩ := source_isSome hpend
    exact exec_wfi_of_disabled h hsource hie
  · rw [exec_wfi_of_enabled h (source_of_lowest ⟨hbit, hlower⟩ (by omega)) hie, entered_of_lt _ _ _ hj]
  · rw [exec_wfi_of_enabled h (source_of_lowest (hfault ▸ lowest_fault) (by decide)) hie]
    rfl
  · intro k hk hbit hlower
    have hwake := wake_of_enabled hx (source_of_lowest ⟨hbit, hlower⟩ (by omega)) hie
    rw [entered_of_lt _ _ _ hk] at hwake
    exact ⟨by rw [exec_bureauTrapEntry hx hie, hwake], fun hwaits => by rw [exec_wfiWake hx hwaits, hwake]⟩
  · intro hfault
    have hwake := wake_of_enabled hx (source_of_lowest (hfault ▸ lowest_fault) (by decide)) hie
    refine ⟨?_, fun hwaits => by rw [exec_wfiWake hx hwaits, exec_bureauTrapEntry hx hie]⟩
    rw [exec_bureauTrapEntry hx hie, hwake]
    rfl
  · obtain ⟨j, hsource⟩ := source_isSome hpend
    rw [exec_wfiWake hx hwaits, wake_of_disabled hx hsource hie]

end Sys2Proof.Proofs
end

section
/-! SUPPORT. What a commit publishes: a task's Cupboard, and over it the folds of the reductions that it holds (R286, R301, R302), and
O27. -/
namespace Sys2Proof.Laws.Publishing

open Sys2Proof Sys2Proof.Machine Sys2Proof.Claims Sys2Proof.Laws.LoadStore Sys2Proof.Laws.Outside Sys2Proof.Laws.Soundness

variable {s : State} {t : Task} {m : Memory} {o : Overlay} {l : List (Nat × Byte)} {a lo : Nat} {v : Byte}

/-! ### Overlays: what they hold, and what memory reads under them -/

theorem get?_below (h : Overlay.wfFrom lo o = true) (ha : a < lo) : Overlay.get? o a = none := by
  cases o with
  | nil => rfl
  | cons c r =>
    rw [Overlay.wfFrom, Bool.and_eq_true, decide_eq_true_iff] at h
    rw [Overlay.get?, if_neg (by omega), if_pos (by omega)]

theorem get?_set (h : Overlay.wfFrom lo o = true) (a c : Nat) (v : Byte) :
    Overlay.get? (Overlay.set o a v) c = if c = a then some v else Overlay.get? o c := by
  induction o generalizing lo with
  | nil =>
    simp only [Overlay.set, Overlay.get?]
    split <;> simp
  | cons x r ih =>
    obtain ⟨k, b⟩ := x
    rw [Overlay.wfFrom, Bool.and_eq_true, decide_eq_true_iff] at h
    have hlow : ∀ e, e < k + 1 → Overlay.get? r e = none := fun e he => get?_below h.2 he
    have ih := ih h.2
    simp only [Overlay.set]
    grind [Overlay.get?]

/-- A memory with the bytes of an overlay over it. -/
theorem get_foldl_overlay (ho : Overlay.wfFrom lo o = true) (hm : m.wf = true) :
    (o.foldl (fun m p => m.set p.1 p.2) m : Memory).get a = (Overlay.get? o a).getD (m.get a) := by
  induction o generalizing m lo with
  | nil => rfl
  | cons x r ih =>
    obtain ⟨k, b⟩ := x
    rw [Overlay.wfFrom, Bool.and_eq_true, decide_eq_true_iff] at ho
    rw [List.foldl_cons, ih ho.2 (Memory.set_wf hm), Memory.get_set_from hm, Overlay.get?]
    have hlow : a < k + 1 → Overlay.get? r a = none := get?_below ho.2
    grind

/-- An overlay keeps its byte at an address that no cell of a list names. -/
theorem get?_foldl_set_of_not_named (ho : o.wf = true) (hl : ∀ p ∈ l, p.1 ≠ a) :
    Overlay.get? (l.foldl (fun o p => Overlay.set o p.1 p.2) o) a = Overlay.get? o a := by
  induction l generalizing o with
  | nil => rfl
  | cons p r ih =>
    rw [List.forall_mem_cons] at hl
    rw [List.foldl_cons, ih (Overlay.set_wf ho) hl.2, get?_set ho, if_neg hl.1.symm]

/-- Where the cells of a list that name an address agree, the overlay holds their byte. -/
theorem get?_foldl_set_of_agreed (ho : o.wf = true) (hl : ∃ p ∈ l, p.1 = a) (hv : ∀ p ∈ l, p.1 = a → p.2 = v) :
    Overlay.get? (l.foldl (fun o p => Overlay.set o p.1 p.2) o) a = some v := by
  induction l generalizing o with
  | nil => simp at hl
  | cons p r ih =>
    rw [List.forall_mem_cons] at hv
    rw [List.foldl_cons]
    by_cases hr : ∃ q ∈ r, q.1 = a
    · exact ih (Overlay.set_wf ho) hr hv.2
    · push Not at hr
      have hp : p.1 = a := by
        obtain ⟨q, hq, hqa⟩ := hl
        obtain rfl | hq := List.mem_cons.mp hq
        · exact hqa
        · exact absurd hqa (hr q hq)
      rw [get?_foldl_set_of_not_named (Overlay.set_wf ho) hr, get?_set ho, if_pos hp.symm, hv.1 hp]

theorem mem_atAddr_iff {p : Nat × Byte} {l : List Byte} : p ∈ atAddr a l ↔ ∃ k, ∃ h : k < l.length, p = (a + k, l[k]) := by
  induction l generalizing a with
  | nil => simp [atAddr]
  | cons b l ih =>
    rw [atAddr, List.mem_cons, ih]
    constructor
    · rintro (rfl | ⟨k, hk, rfl⟩)
      · exact ⟨0, by simp, rfl⟩
      · exact ⟨k + 1, by simpa using hk, by simp [Nat.add_right_comm, Nat.add_assoc]⟩
    · rintro ⟨k, hk, rfl⟩
      cases k with
      | zero => exact .inl rfl
      | succ k => exact .inr ⟨k, by simpa using hk, by simp [Nat.add_right_comm, Nat.add_assoc]⟩

theorem toNat_natBytes {n w i : Nat} (h : i < (natBytes n w).length) : ((natBytes n w)[i]).toNat = w / 2 ^ (8 * i) % 256 := by
  simp [natBytes_eq, Nat.shiftRight_eq_div_pow]

/-! ### What a reduction makes of a value (R301) -/

theorem redCombine_eq (op : Nat) (ftz : Bool) (v x : Nat) : redCombine op ftz v x = combined op ftz v x := by
  have hslt : (BitVec.ofNat 32 v).slt (BitVec.ofNat 32 x) = decide ((BitVec.ofNat 32 v).toInt < (BitVec.ofNat 32 x).toInt) := rfl
  have hsame : (BitVec.ofNat 32 v).toInt = (BitVec.ofNat 32 x).toInt → v % 2 ^ 32 = x % 2 ^ 32 := fun h => by
    simpa using congrArg BitVec.toNat (BitVec.eq_of_toInt_eq h)
  unfold redCombine combined
  split
  case h_3 | h_4 =>
    simp only [hslt, decide_eq_true_eq, Prod.mk.injEq, and_true]
    split_ifs <;> simp only [BitVec.toNat_ofNat] <;> omega
  all_goals simp

/-! ### The order of the fold (R302) -/

theorem insertNat_eq (n : Nat) (l : List Nat) : insertNat n l = l.orderedInsert (· ≤ ·) n := by
  induction l with
  | nil => rfl
  | cons x r ih => rw [insertNat, List.orderedInsert_cons, ih]

theorem sortNat_eq (l : List Nat) : sortNat l = l.insertionSort (· ≤ ·) := by
  induction l with
  | nil => rfl
  | cons x r ih => rw [sortNat, List.foldr_cons, ← sortNat, insertNat_eq, ih, List.insertionSort_cons]

/-- A rising list of numbers below a bound holds what the range up to the bound holds of it. -/
theorem filter_range_eq {L : List Nat} {N : Nat} (hsorted : L.Pairwise (· ≤ ·)) (hnodup : L.Nodup) (hlt : ∀ c ∈ L, c < N) :
    (List.range N).filter (· ∈ L) = L := by
  refine List.Perm.eq_of_pairwise (le := (· ≤ ·)) (fun _ _ _ _ => Nat.le_antisymm) (List.Pairwise.filter _ ?_) hsorted ?_
  · exact List.pairwise_le_range
  · rw [List.perm_ext_iff_of_nodup (List.nodup_range.filter _) hnodup]
    intro c
    simpa using hlt c

theorem flatMap_filter {α β : Type} {f : α → List β} {p : α → Bool} (l : List α) (h : ∀ x ∈ l, p x = false → f x = []) :
    (l.filter p).flatMap f = l.flatMap f := by
  induction l with
  | nil => rfl
  | cons x r ih =>
    rw [List.forall_mem_cons] at h
    rw [List.filter_cons, List.flatMap_cons, ← ih h.2]
    split
    · rw [List.flatMap_cons]
    next hx => rw [h.1 (Bool.eq_false_iff.mpr hx), List.nil_append]

theorem nodup_eraseDups : (l : List Nat) → l.eraseDups.Nodup
  | [] => List.nodup_nil
  | n :: l => by
    rw [List.eraseDups_cons, List.nodup_cons, List.mem_eraseDups]
    exact ⟨by simp, nodup_eraseDups _⟩
termination_by l => l.length
decreasing_by exact Nat.lt_succ_of_le (List.length_filter_le ..)

/-- The reductions that a task holds at an address, in the order in which they are folded. -/
def folding (t : Task) (a : Nat) : List Reduction :=
  (t.reds.filter fun r => r.addr = a ∧ r.cell = none) ++
    (List.range 107).flatMap fun c => t.reds.filter fun r => r.addr = a ∧ r.cell = some c

/-- The reductions at an address whose cell is `o`. -/
theorem filter_addr_cell (t : Task) (a : Nat) (o : Option Nat) : (t.reds.filter fun r => r.addr == a).filter (fun r => r.cell == o) =
    t.reds.filter fun r => r.addr = a ∧ r.cell = o := by
  rw [List.filter_filter]
  exact List.filter_congr fun r _ => by simp [beq_eq_decide, Bool.and_comm]

theorem foldOrder_eq (hcells : ∀ r ∈ t.reds, ∀ c, r.cell = some c → c < 107) (a : Nat) : t.foldOrder a = folding t a := by
  have hthread : (t.reds.filter fun r => r.addr == a).filter (fun r => r.cell.isNone) =
      t.reds.filter fun r => r.addr = a ∧ r.cell = none := by
    rw [← filter_addr_cell]
    exact List.filter_congr fun r _ => by cases r.cell <;> rfl
  have hcell (c : Nat) : c ∈ ((t.reds.filter fun r => r.addr == a).filterMap Reduction.cell).eraseDups ↔
      ∃ r ∈ t.reds, r.addr = a ∧ r.cell = some c := by
    simp [List.mem_eraseDups, and_assoc]
  simp only [Task.foldOrder, folding, hthread, filter_addr_cell, sortNat_eq]
  congr 1
  rw [← flatMap_filter (List.range 107) (p := (· ∈ ((t.reds.filter fun r => r.addr == a).filterMap Reduction.cell).eraseDups.insertionSort
    (· ≤ ·))) ?_]
  · rw [filter_range_eq (List.pairwise_insertionSort ..) ((List.perm_insertionSort ..).nodup_iff.mpr (nodup_eraseDups _))]
    intro c hc
    obtain ⟨r, hr, -, hrc⟩ := (hcell c).mp ((List.perm_insertionSort ..).mem_iff.mp hc)
    exact hcells r hr c hrc
  · intro c _ hc
    rw [List.filter_eq_nil_iff]
    intro r hr hrc
    rw [decide_eq_false_iff_not, (List.perm_insertionSort ..).mem_iff, hcell] at hc
    exact hc ⟨r, hr, of_decide_eq_true hrc⟩

theorem mem_folding {r : Reduction} (hcells : ∀ r ∈ t.reds, ∀ c, r.cell = some c → c < 107) :
    r ∈ folding t a ↔ r ∈ t.reds ∧ r.addr = a := by
  rw [folding, List.mem_append, List.mem_filter, List.mem_flatMap]
  simp only [decide_eq_true_eq, List.mem_range, List.mem_filter]
  constructor
  · rintro (⟨hr, hra, -⟩ | ⟨c, -, hr, hra, -⟩) <;> exact ⟨hr, hra⟩
  · rintro ⟨hr, hra⟩
    cases hrc : r.cell with
    | none => exact .inl ⟨hr, hra, rfl⟩
    | some c => exact .inr ⟨c, hcells r hr c hrc, hr, hra, rfl⟩

/-- The bytes of the fold at an address: those of the first reduction there. -/
def foldWidth (t : Task) (a : Nat) : Nat := ((folding t a).head?.map Reduction.width).getD 4

theorem foldWidth_of_mem {r : Reduction} (hcells : ∀ r ∈ t.reds, ∀ c, r.cell = some c → c < 107) (hr : r ∈ t.reds) {w : Nat}
    (hw : ∀ q ∈ t.reds, q.addr = r.addr → q.width = w) : foldWidth t r.addr = w := by
  rw [foldWidth]
  cases hhead : (folding t r.addr).head? with
  | none =>
    rw [List.head?_eq_none_iff] at hhead
    exact absurd ((mem_folding hcells).mpr ⟨hr, rfl⟩) (hhead ▸ List.not_mem_nil)
  | some q =>
    obtain ⟨hq, hqa⟩ := (mem_folding hcells).mp (List.mem_of_head? hhead)
    exact hw q hq hqa

/-! ### The folds of a task (R302) -/

/-- The addresses at which a task holds reductions. -/
def foldAddrs (t : Task) : List Nat := (t.reds.map Reduction.addr).eraseDups

theorem mem_foldAddrs : a ∈ foldAddrs t ↔ ∃ r ∈ t.reds, r.addr = a := by
  rw [foldAddrs, List.mem_eraseDups, List.mem_map]

theorem foldl_gather {α β : Type} (f : α → List β) (g : α → Flags) (l : List α) (x : List β) (y : Flags) :
    l.foldl (fun acc a => (acc.1 ++ f a, acc.2 ||| g a)) (x, y) = (x ++ l.flatMap f, l.foldl (fun y a => y ||| g a) y) := by
  induction l generalizing x y with
  | nil => simp
  | cons a l ih => rw [List.foldl_cons, ih, List.flatMap_cons, List.append_assoc, List.foldl_cons]

/-- The bytes that the fold at an address gives. -/
def foldBytes (s : State) (t : Task) (a : Nat) : List (Nat × Byte) :=
  atAddr a (natBytes (foldWidth t a) (folded s t a (foldWidth t a)).1)

/-- The byte that a fold starts from: the task's own, or the committed one. -/
def ownOrCommitted (s : State) (t : Task) (a : Nat) : Byte :=
  match Overlay.get? t.cup a with
  | some b => b
  | none => s.byteAt a

theorem foldReds_eq (hcells : ∀ r ∈ t.reds, ∀ c, r.cell = some c → c < 107) : s.foldReds t t.cup =
    ((foldAddrs t).flatMap (foldBytes s t), (foldAddrs t).foldl (fun f a => f ||| (folded s t a (foldWidth t a)).2) 0) := by
  rw [← List.nil_append ((foldAddrs t).flatMap _), ← foldl_gather, State.foldReds]
  refine List.foldl_ext _ _ _ fun acc a _ => ?_
  have hown : (fun i => (Overlay.get? t.cup (a + i)).getD (s.byteAt (a + i))) = fun i => ownOrCommitted s t (a + i) := by
    funext i
    rw [ownOrCommitted]
    split <;> simp [*]
  simp only [foldOrder_eq hcells, redCombine_eq, foldBytes, folded, hown]
  rfl

theorem eraseDups_of_one {n : Nat} {l : List Nat} (hn : n ∈ l) (hall : ∀ x ∈ l, x = n) : l.eraseDups = [n] := by
  cases l with
  | nil => simp at hn
  | cons x l =>
    rw [List.forall_mem_cons] at hall
    obtain ⟨rfl, hall⟩ := hall
    have hrest : l.filter (fun y => !y == x) = [] := by
      rw [List.filter_eq_nil_iff]
      intro y hy
      simp [hall y hy]
    rw [List.eraseDups_cons, hrest, List.eraseDups_nil]

/-- Where a task's reductions lie at one address, the fold there raises the flags of the commit. -/
theorem foldReds_flags_of_one {w : Nat} (hcells : ∀ r ∈ t.reds, ∀ c, r.cell = some c → c < 107) (hne : t.reds ≠ [])
    (hone : ∀ r ∈ t.reds, r.addr = a ∧ r.width = w) : (s.foldReds t t.cup).2 = (folded s t a w).2 := by
  obtain ⟨r, hr⟩ := List.exists_mem_of_ne_nil _ hne
  obtain ⟨rfl, rfl⟩ := hone r hr
  have haddrs : foldAddrs t = [r.addr] := by
    refine eraseDups_of_one (List.mem_map_of_mem hr) fun x hx => ?_
    obtain ⟨q, hq, rfl⟩ := List.mem_map.mp hx
    exact (hone q hq).1
  rw [foldReds_eq hcells, haddrs, List.foldl_cons, List.foldl_nil, foldWidth_of_mem hcells hr fun q hq _ => (hone q hq).2]
  exact BitVec.zero_or

/-! ### What a commit leaves in memory (R286) -/

/-- The bytes that a commit publishes: those of the Cupboard, and over them the folds. -/
def publishedBytes (s : State) (t : Task) : Overlay := (s.foldReds t t.cup).1.foldl (fun o p => o.set p.1 p.2) t.cup

/-- The package once the bytes of a commit have landed. -/
def publishedState (s : State) (t : Task) : State :=
  ({ s with commitSeq := s.commitSeq + 1 }.publish t.crec.cls t.ioLines (publishedBytes s t)).publish 0 [] []

theorem landCommit_of_plain (hincs : t.joinIncs = []) (hdecs : t.joinDecs = []) (hjoin : t.crec.dw2 = 0) (hreport : t.crec.report = 0)
    (hlock : t.lockLine = none) : ∃ lines, s.landCommit t = { s := publishedState s t, lines := lines, conts := [] } := by
  simp [State.landCommit, State.ownBytes, hlock, Task.flag, hincs, hdecs, hjoin, hreport, State.joinChanges, State.reportBytes,
    publishedState, publishedBytes]

theorem publishedState_frame (hwin : ∀ p, s.winOf p = none) : (publishedState s t).commitSeq = s.commitSeq + 1 ∧
    (publishedState s t).mem = (publishedBytes s t).foldl (fun m p => m.set p.1 p.2) s.mem ∧ (publishedState s t).hcw = s.hcw ∧
    (publishedState s t).scratch = s.scratch ∧ (publishedState s t).tasks = s.tasks := by
  obtain ⟨c, m, w, k, hland⟩ := land_frame { s with commitSeq := s.commitSeq + 1 } (publishedBytes s t)
  rw [setBytes_of_no_windows (s := { s with commitSeq := s.commitSeq + 1 }) hwin] at hland
  obtain ⟨hmem, -, hhcw, hscratch, hseq, -, htasks⟩ :=
    (publish_cachesOnly { s with commitSeq := s.commitSeq + 1 } t.crec.cls t.ioLines (publishedBytes s t)).keeps
  obtain ⟨c', m', w', k', hland'⟩ :=
    land_frame ({ s with commitSeq := s.commitSeq + 1 }.publish t.crec.cls t.ioLines (publishedBytes s t)) []
  obtain ⟨hmem', -, hhcw', hscratch', hseq', -, htasks'⟩ :=
    (publish_cachesOnly ({ s with commitSeq := s.commitSeq + 1 }.publish t.crec.cls t.ioLines (publishedBytes s t)) 0 [] []).keeps
  rw [hland'] at hmem' hhcw' hscratch' hseq' htasks'
  rw [hland] at hmem hhcw hscratch hseq htasks
  exact ⟨hseq'.trans hseq, hmem'.trans hmem, hhcw'.trans hhcw, hscratch'.trans hscratch, htasks'.trans htasks⟩

theorem winOf_of_disabled (h : ∀ w ∈ s.hcw, w.en = false) (p : Nat) : s.winOf p = none := by
  rw [State.winOf, List.find?_eq_none]
  intro w hw
  simp [HWin.covers, h w hw]

theorem byteAt_publishedState (hwin : ∀ p, s.winOf p = none) (hmem : s.mem.wf = true) (hcup : Overlay.wf t.cup = true) (a : Nat) :
    (publishedState s t).byteAt a = (Overlay.get? (publishedBytes s t) a).getD (s.byteAt a) := by
  obtain ⟨-, hm, hw, -⟩ := publishedState_frame (t := t) hwin
  have hwin' : (publishedState s t).winOf a = none := by rw [State.winOf, hw]; exact hwin a
  rw [byteAt_of_no_window hwin', byteAt_of_no_window (hwin a), hm, 
    get_foldl_overlay (o := publishedBytes s t) (Overlay.foldl_set_pair_wf hcup) hmem]

/-! ### The bytes of a commit: the folds, and the Cupboard elsewhere -/

section
variable (hcells : ∀ r ∈ t.reds, ∀ c, r.cell = some c → c < 107) (hpos : ∀ r ∈ t.reds, 0 < r.width)
  (hapart : ∀ r ∈ t.reds, ∀ q ∈ t.reds,
    r.addr = q.addr ∧ r.width = q.width ∨ r.addr + r.width ≤ q.addr ∨ q.addr + q.width ≤ r.addr)
include hcells hpos hapart

theorem foldWidth_of_apart {r : Reduction} (hr : r ∈ t.reds) : foldWidth t r.addr = r.width := by
  refine foldWidth_of_mem hcells hr fun q hq hqr => ?_
  have := hapart q hq r hr
  have := hpos q hq
  have := hpos r hr
  omega

/-- A byte that a commit folds is one of a reduction that the task holds. -/
theorem mem_foldReds_iff {p : Nat × Byte} : p ∈ (s.foldReds t t.cup).1 ↔ ∃ r ∈ t.reds, ∃ i, ∃ h : i < (natBytes r.width
    (folded s t r.addr r.width).1).length, p = (r.addr + i, (natBytes r.width (folded s t r.addr r.width).1)[i]) := by
  rw [foldReds_eq hcells, List.mem_flatMap]
  constructor
  · rintro ⟨a, ha, hp⟩
    obtain ⟨r, hr, rfl⟩ := mem_foldAddrs.mp ha
    rw [foldBytes, foldWidth_of_apart hcells hpos hapart hr] at hp
    exact ⟨r, hr, mem_atAddr_iff.mp hp⟩
  · rintro ⟨r, hr, hp⟩
    refine ⟨r.addr, mem_foldAddrs.mpr ⟨r, hr, rfl⟩, ?_⟩
    rw [foldBytes, foldWidth_of_apart hcells hpos hapart hr]
    exact mem_atAddr_iff.mpr hp

/-- At the address of a reduction the commit publishes the bytes of the fold. -/
theorem get?_publishedBytes_of_reduced (hcup : Overlay.wf t.cup = true) {r : Reduction} (hr : r ∈ t.reds) {i : Nat} (hi : i < r.width) :
    ∃ v : Byte, Overlay.get? (publishedBytes s t) (r.addr + i) = some v ∧
      v.toNat = (folded s t r.addr r.width).1 / 2 ^ (8 * i) % 256 := by
  have hlen : i < (natBytes r.width (folded s t r.addr r.width).1).length := by simpa [natBytes_eq] using hi
  refine ⟨(natBytes r.width (folded s t r.addr r.width).1)[i], get?_foldl_set_of_agreed hcup ?_ ?_, toNat_natBytes hlen⟩
  · exact ⟨_, (mem_foldReds_iff hcells hpos hapart).mpr ⟨r, hr, i, hlen, rfl⟩, rfl⟩
  · intro p hp hpa
    obtain ⟨q, hq, k, hk, rfl⟩ := (mem_foldReds_iff hcells hpos hapart).mp hp
    have hkw : k < q.width := by simpa [natBytes_eq] using hk
    have hsame : q.addr = r.addr ∧ q.width = r.width := by
      have := hapart q hq r hr
      simp only at hpa
      omega
    obtain ⟨haddr, hwidth⟩ := hsame
    obtain rfl : k = i := by
      simp only at hpa
      omega
    simp only [haddr, hwidth]

/-- Elsewhere it publishes what the Cupboard holds. -/
theorem get?_publishedBytes_of_apart (hcup : Overlay.wf t.cup = true) (ha : ∀ r ∈ t.reds, a < r.addr ∨ r.addr + r.width ≤ a) :
    Overlay.get? (publishedBytes s t) a = Overlay.get? t.cup a := by
  refine get?_foldl_set_of_not_named hcup fun p hp hpa => ?_
  obtain ⟨q, hq, k, hk, rfl⟩ := (mem_foldReds_iff hcells hpos hapart).mp hp
  have hkw : k < q.width := by simpa [natBytes_eq] using hk
  have := ha q hq
  simp only at hpa
  omega

end

end Sys2Proof.Laws.Publishing

namespace Sys2Proof.Proofs

open Sys2Proof.Laws.Publishing

/-- Settles O27: the bytes that the commit lands are the Cupboard's, and over them the fold of each address with reductions; no two
ranges of reductions meet in part, so each byte comes from one fold. -/
theorem commitPublishes : Obligations.CommitPublishes := by
  refine ⟨fun s t hincs hdecs hjoin hreport hlock hmem hcup hwins hreds hapart => ?_, fun s t a w hne hone => ?_⟩
  · have hcells : ∀ r ∈ t.reds, ∀ c, r.cell = some c → c < 107 := fun r hr => (hreds r hr).2.2
    have hpos : ∀ r ∈ t.reds, 0 < r.width := fun r hr => by
      rw [(hreds r hr).1]
      split <;> omega
    obtain ⟨lines, hland⟩ := landCommit_of_plain (s := s) hincs hdecs hjoin hreport hlock
    have hbyte := byteAt_publishedState (s := s) (t := t) (winOf_of_disabled hwins) hmem hcup
    obtain ⟨hseq, -, -, hscratch, htasks⟩ := publishedState_frame (t := t) (winOf_of_disabled hwins)
    rw [hland]
    refine ⟨hseq, fun r hr i hi => ?_, fun a ha => ?_, rfl, hscratch, htasks⟩
    · obtain ⟨v, hget, hv⟩ := get?_publishedBytes_of_reduced (s := s) hcells hpos hapart hcup hr hi
      rw [hbyte, hget, Option.getD_some, hv]
    · rw [hbyte, get?_publishedBytes_of_apart hcells hpos hapart hcup ha]
  · exact foldReds_flags_of_one (fun r hr => (hone r hr).2.2.2) hne fun r hr => ⟨(hone r hr).1, (hone r hr).2.1⟩

end Sys2Proof.Proofs
end

section
/-! SUPPORT. What a restore does to the times in a Wardrobe (R357, log entry 13), and the refutation of O45. -/
namespace Sys2Proof.Laws.Restoring

open Sys2Proof Sys2Proof.Machine Sys2Proof.Tests

/-- The restore of the Wardrobe that stands at SAFEBASE restores each die from the descriptor's. -/
theorem exec_wardrobeRestore_of_standing {s : State} {w : Descriptor} (hstage : s.stage = .b) (hrun : s.restoreRun = true)
    (hw : s.wardrobeAt = some w) : ∃ u, exec .wardrobeRestore s = .next u ∧
      u.dies = (s.dies.zip w.dies).map fun p => p.1.restored p.2 s.now := by
  change ∃ u, execWardrobeRestore s = .next u ∧ _
  rw [execWardrobeRestore, hstage, hrun, hw]
  exact ⟨_, rfl, rfl⟩

theorem restored_pending (d w : Die) (now : Nat) : (d.restored w now).pending = w.pending.map fun p => (p.1, now) := rfl

/-- A Wardrobe whose die 0 holds a notification of queue 1, taken at microsecond 1. -/
def notifiedChest : Descriptor := { chest with dies := [{ Die.reset 0 with pending := [(1, 1)] }] }

/-- A package at microsecond 0, in stage B, about to restore that Wardrobe. -/
def beforeRestore : State :=
  { roomy with
    hcw := [], stage := .b, restoreRun := true, wardrobe := [(0x10000, notifiedChest)]
    mem := Memory.write [] (0x10000 + 4096) ((Config.descriptorBytes notifiedChest).take (2 ^ 22)) }

theorem beforeRestore_wardrobeAt : beforeRestore.wardrobeAt = some notifiedChest := by
  refine stands_at _ _ rfl rfl rfl fun n hn => ?_
  refine safe_there _ { base := 0x10000, size := 0x1000000, die := 0, kind := .cxl } _ (by decide +kernel) rfl ?_
  change 0x10000 + (4096 + n) ≤ 0x10000 + 0x1000000
  omega

end Sys2Proof.Laws.Restoring

namespace Sys2Proof.Proofs

open Sys2Proof.Laws.Restoring Sys2Proof.Machine

/-- Refutes O45: in its last clause the restored die has the descriptor's pending notifications with their times, but a restore makes
what waits begin to wait at the restore. A notification taken at microsecond 1 and restored at microsecond 0 is pending since 0. -/
theorem not_suspendSteps : ¬ Obligations.SuspendSteps := by
  intro h
  obtain ⟨-, -, -, -, -, -, -, -, -, -, -, -, hrestore⟩ := h
  obtain ⟨u, hexec, -, -, -, -, -, -, -, -, -, -, hdies⟩ := hrestore beforeRestore notifiedChest beforeRestore_wardrobeAt rfl rfl
  obtain ⟨z, hz, -, -, -, hpending, -⟩ := hdies 0 (Die.reset 0) _ rfl rfl
  obtain ⟨u', hexec', hdies'⟩ := exec_wardrobeRestore_of_standing (s := beforeRestore) rfl rfl beforeRestore_wardrobeAt
  obtain rfl : u = u' := by injection hexec.symm.trans hexec'
  have hrestored : u.die? 0 = some ((Die.reset 0).restored { Die.reset 0 with pending := [(1, 1)] } beforeRestore.now) := by
    rw [State.die?, hdies']
    rfl
  obtain rfl := Option.some.inj (hz.symm.trans hrestored)
  rw [restored_pending] at hpending
  exact absurd hpending (by decide)

end Sys2Proof.Proofs
end

section
/-! SUPPORT. Fault records, their resolution, ECC events and pre-emption (R314–R318, R322–R326, R351), and O44. -/
namespace Sys2Proof.Laws.Intervening

open Sys2Proof Sys2Proof.Machine Sys2Proof.Claims Sys2Proof.Laws.Retiring

variable {s : State} {t : Task} {x : Die} {f : Frozen} {d k : Nat}

/-! ### What bytes that the device writes leave unchanged -/

theorem setByte_dies (a : Nat) (b : Byte) : (s.setByte a b).dies = s.dies := by
  unfold State.setByte
  split <;> rfl

theorem setBytes_dies (l : List (Nat × Byte)) : (s.setBytes l).dies = s.dies := by
  unfold State.setBytes
  induction l generalizing s with
  | nil => rfl
  | cons p r ih => exact ih.trans (setByte_dies p.1 p.2)

theorem setHomed_dies (a : Nat) (l : List Byte) : (s.setHomed a l).dies = s.dies := by
  obtain ⟨c, m, w, k, h⟩ := Outside.land_frame s ((atAddr a l).filter fun p => s.reaches p.1)
  rw [State.setHomed, h]
  exact setBytes_dies _

theorem setHomed_tasks (a : Nat) (l : List Byte) : (s.setHomed a l).tasks = s.tasks := land_tasks _

/-! ### The fault ring (R316–R318) -/

theorem ringFull_iff : x.ringFull = true ↔ x.fringHead = x.fringTail ∧ ∃ r ∈ x.faults, r.state = 0 := by
  simp [Die.ringFull]

theorem faultBytes_eq (t : Task) (f : Frozen) : faultBytes t f = natBytes 8 t.handle.toNat ++ natBytes 8 f.va.toNat ++
    natBytes 8 (f.kind + 16 * f.access + 64 * (f.place % 1024) + 65536 * t.crec.ctx) ++ natBytes 8 f.counter ++
    natBytes 8 t.crec.dw3.toNat ++ List.replicate 24 0 := by
  rw [faultBytes, List.append_assoc]
  rfl

/-- A die with the record of a frozen port of task `h` at its tail. -/
def recorded (x : Die) (h : Word) (f : Frozen) : Die :=
  { x with
    fringTail := x.fringTail + 1
    faults := x.faults.filter (fun r => r.index ≠ x.fringTail.toNat) ++
      [{ index := x.fringTail.toNat, handle := h, kind := f.kind, place := f.place, state := 0 }] }

theorem freeze_of_ringFull (hfree : t.isFrozen f.kind f.place f.part = false) (hx : s.die? t.die = some x) (hfull : x.ringFull = true) :
    s.freeze t f = s.putTask { t with frozen := t.frozen ++ [f] } := by
  simp [State.freeze, hfree, State.record, die_eq hx, hfull]

theorem freeze_of_room (hfree : t.isFrozen f.kind f.place f.part = false) (hx : s.die? t.die = some x) (hroom : x.ringFull = false) :
    s.freeze t f =
      ((s.setHomed (x.fringBase.toNat + 64 * x.fringTail.toNat) (faultBytes t f)).updDie t.die fun x => recorded x t.handle f).putTask
        { t with frozen := t.frozen ++ [{ f with record := some x.fringTail.toNat }] } := by
  have hdie : (s.setHomed (x.fringBase.toNat + 64 * x.fringTail.toNat) (faultBytes t f)).die? t.die = some x := by
    rw [State.die?, setHomed_dies]
    exact hx
  simp only [State.freeze, hfree, State.record, die_eq hx, hroom]
  refine congrArg (State.putTask · _) (updDie_congr hdie ?_)
  simp [recorded, bne, beq_eq_decide]

/-! ### A resolver's action (R316, R318) -/

theorem settleFault_task? (d k st : Nat) (h : Word) : (s.settleFault d k st).task? h = s.task? h :=
  LoadStore.task?_congr (setHomed_tasks _ _) h

/-- The task whose port waits for the pending record `k` of a die. -/
structure Awaits (s : State) (d k : Nat) (t : Task) (f : Frozen) : Prop where
  pending : ∃ r, ((s.die d).faults.find? fun r => r.index = k ∧ r.state = 0) = some r ∧ s.task? r.handle = some t
  frozen : (t.frozen.find? fun f => f.record = some k) = some f

theorem handle_of_task? {h : Word} (ht : s.task? h = some t) : t.handle = h := by
  simpa using List.find?_some ht

theorem resolve_retry (h : Awaits s d k t f) : s.resolve d k 1 =
    (((s.settleFault d k 1).putTask { t with frozen := t.frozen.filter fun f => f.record ≠ some k }).refillRing d none, []) := by
  obtain ⟨⟨r, hr, ht⟩, hf⟩ := h
  simp only [Bool.decide_and] at hr
  simp [State.resolve, beq_eq_decide, hr, ht, hf, bne]

theorem resolve_fail (h : Awaits s d k t f) : s.resolve d k 2 =
    (((s.settleFault d k 2).retire { t with gate := .stopped } .faulted .xlate 0 0 f.kind f.addr.toNat).1.refillRing d none,
      ((s.settleFault d k 2).retire { t with gate := .stopped } .faulted .xlate 0 0 f.kind f.addr.toNat).2) := by
  obtain ⟨⟨r, hr, ht⟩, hf⟩ := h
  have hown : (s.settleFault d k 2).task? t.handle = some t := by
    rw [settleFault_task?, handle_of_task? ht]
    exact ht
  simp only [Bool.decide_and] at hr
  simp [State.resolve, beq_eq_decide, hr, ht, hf, State.takeTrap_thread hown]

/-! ### ECC events (R351) -/

/-- A corrected error counts in its region. -/
def corrected (x : Die) (r : Nat) : Die :=
  x.setRegion r { x.region r with corr := if (x.region r).corr = 0xFFFFFFFF then 0xFFFFFFFF else (x.region r).corr + 1 }

/-- An uncorrected error counts in its region. -/
def uncorrected (x : Die) (r : Nat) : Die :=
  x.setRegion r { x.region r with uncorr := if (x.region r).uncorr = 0xFFFF then 0xFFFF else (x.region r).uncorr + 1 }

theorem if_eq_const {α : Type} [DecidableEq α] (a m b : α) : (if a = m then a else b) = if a = m then m else b := by
  split
  · assumption
  · rfl

theorem exec_eccEvent_corrected (hx : s.die? d = some x) (r : Nat) (h : Word) (sub : BitVec 2) :
    exec (.eccEvent d r false h sub) s = .next (s.updDie d fun x => corrected x r) := by
  have hones : BitVec.allOnes 32 = 0xFFFFFFFF := by decide
  change execEccEvent d r false h sub s = _
  simp only [execEccEvent, State.onDie_some hx, Bool.not_false, if_true, finish_nil]
  refine congrArg Host.Outcome.next (updDie_congr hx ?_)
  simp only [corrected, hones, if_eq_const]

theorem exec_eccEvent_uncorrected (hx : s.die? d = some x) (ht : s.task? t.handle = some t) (r : Nat) (sub : BitVec 2) :
    exec (.eccEvent d r true t.handle sub) s = .next (finish ((s.updDie d fun x => uncorrected x r).retire { t with gate := .stopped }
      .faulted .eccUncorrected 0 0 sub.toNat t.pc.toNat)) := by
  have hones : BitVec.allOnes 16 = 0xFFFF := by decide
  have hcount : s.updDie d (fun y => y.setRegion r { x.region r with
      uncorr := if (x.region r).uncorr = 0xFFFF then 0xFFFF else (x.region r).uncorr + 1 }) = s.updDie d fun x => uncorrected x r :=
    updDie_congr hx rfl
  have hown : (s.updDie d fun x => uncorrected x r).task? t.handle = some t := ht
  change execEccEvent d r true t.handle sub s = _
  simp only [execEccEvent, State.onDie_some hx, Bool.not_true, Bool.false_eq_true, if_false, hones, if_eq_const, hcount, hown,
    State.takeTrap_thread hown]

/-! ### Pre-emption (R322–R326) -/

theorem gathering_eq_false_iff {a : Ag} : t.gathering a = false ↔
    (agMode a.frame = 2 → t.isFrozen 2 a.place 0 = false → ∀ g ∈ a.gathers, g.2 ≠ none) := by
  rw [Task.gathering]
  cases t.isFrozen 2 a.place 0 <;> simp [Option.eq_none_iff_forall_ne_some]

theorem midBlock_eq_false_iff {c : Copy} : t.midBlock c = false ↔ (c.finished = false → c.ran ≠ c.d.total →
    t.isFrozen 3 c.d.cluster c.n = false → t.fifoHeld c = false → c.ran * c.d.width % 128 = 0) := by
  rw [Task.midBlock]
  cases t.isFrozen 3 c.d.cluster c.n <;> cases t.fifoHeld c <;> simp [imp_iff_not_or, or_assoc]

theorem mustWait_eq_false_iff (hmode : t.crec.pmode = 1) : s.mustWait t 0 = false ↔ Arrived s t := by
  have hgather : t.ags.any t.gathering = false ↔ ∀ a ∈ t.ags, agMode a.frame = 2 → t.isFrozen 2 a.place 0 = false →
      ∀ g ∈ a.gathers, g.2 ≠ none := by
    simp only [List.any_eq_false, Bool.not_eq_true, gathering_eq_false_iff]
  have hcopies : t.copies.any t.midBlock = false ↔ ∀ c ∈ t.copies, c.finished = false → c.ran ≠ c.d.total →
      t.isFrozen 3 c.d.cluster c.n = false → t.fifoHeld c = false → c.ran * c.d.width % 128 = 0 := by
    simp only [List.any_eq_false, Bool.not_eq_true, midBlock_eq_false_iff]
  have hrows : (t.engines.any fun e => !e.beats.isEmpty && !t.rowHeld e) = false ↔
      ∀ e ∈ t.engines, e.beats = [] ∨ t.rowHeld e = true := by
    simp [imp_iff_not_or]
  rw [Arrived, ← hgather, ← hcopies, ← hrows, State.mustWait, hmode]
  cases s.hung t <;> simp [and_assoc]

theorem mustWait_of_pmode (hmode : t.crec.pmode ≠ 1) (m : Nat) : s.mustWait t m = false := by
  simp [State.mustWait, hmode]

theorem preemptWrite_of_ready {m : Nat} (h : MayPreempt s d x t) (hm : m < 3) (hwait : s.mustWait t m = false) :
    s.preemptWrite d m = (withResult (s.preempt t m).1 d (s.preempt t m).2.1, (s.preempt t m).2.2) := by
  obtain ⟨hx, hbusy, hhandle, ht, hdie, hcommit⟩ := h
  simp [State.preemptWrite, die_eq hx, hbusy, hhandle, ht, hdie, hcommit, hwait, withResult]
  omega

theorem preemptWrite_of_mustWait {m : Nat} (h : MayPreempt s d x t) (hm : m < 3) (hwait : s.mustWait t m = true) :
    s.preemptWrite d m = (s.updDie d fun x => { x with preBusy := some t.handle }, []) := by
  obtain ⟨hx, hbusy, hhandle, ht, hdie, hcommit⟩ := h
  simp [State.preemptWrite, die_eq hx, hbusy, hhandle, ht, hdie, hcommit, hwait]
  omega

theorem preempt_of_mode {m : Nat} (hm : m ≠ 2) (h : m ≠ 0 ∨ t.crec.pmode ≠ 1) :
    s.preempt t m = (s.requeue t t.rerun false false, 0, []) := by
  have hsave : ¬(m = 0 ∧ t.crec.pmode = 1) := by tauto
  simp [State.preempt, State.preemptDiscard, hm, hsave]

theorem preempt_save (hmode : t.crec.pmode = 1) : s.preempt t 0 =
    if s.cannotSave t then (s.requeue t t.rerun false false, 2, []) else (s.save t, 0, []) := by
  simp [State.preempt, State.preemptDiscard, hmode]

/-- A write of PRE_CTL that settles at once, and leaves nothing more to do. -/
theorem preempts (h : MayPreempt s d x t) {m : Nat} (hm : m < 3) (hwait : s.mustWait t m = false) {u : State} {r : BitVec 3}
    {js : List Job} (hdone : s.preempt t m = (u, r, js)) :
    s.onDie d (fun s _ => s.preemptWrite d m) = .next (finish (withResult u d r, js)) := by
  rw [State.onDie_some h.1, preemptWrite_of_ready h hm hwait, hdone]

theorem preempts_alone (h : MayPreempt s d x t) {m : Nat} (hm : m < 3) (hwait : s.mustWait t m = false) {u : State} {r : BitVec 3}
    (hdone : s.preempt t m = (u, r, [])) : s.onDie d (fun s _ => s.preemptWrite d m) = .next (withResult u d r) := by
  rw [preempts h hm hwait hdone, finish_nil]

end Sys2Proof.Laws.Intervening

namespace Sys2Proof.Proofs

open Sys2Proof.Machine Sys2Proof.Claims Sys2Proof.Laws.Intervening

/-- Settles O44, clause by clause: a freeze meets a full ring or room in it; a resolver's action finds the port by its record; an ECC event
counts in its region; a pre-emption waits exactly while something has not arrived. -/
theorem interventionSteps : Obligations.InterventionSteps := by
  refine ⟨fun s t f x hx hfree => ⟨fun hfull => ?_, fun hroom => ?_⟩, fun s d x k r t f hx hr ht hf => ?_, fun s d x r h sub hx => ?_,
    fun s d x r t sub u hx ht hu => ?_, fun s d x t h => ?_⟩
  · exact freeze_of_ringFull hfree hx (ringFull_iff.mpr hfull)
  · rw [freeze_of_room hfree hx (Bool.eq_false_iff.mpr (mt ringFull_iff.mp hroom)), faultBytes_eq]
    rfl
  · have hawaits : Awaits s d k t f := ⟨⟨r, by rwa [die_eq hx], ht⟩, hf⟩
    have hexec (m : Nat) : s.onDie d (fun s _ => s.resolve d k m) = .next (finish (s.resolve d k m)) := State.onDie_some hx _
    refine ⟨(hexec 1).trans ?_, fun u js hret => (hexec 2).trans ?_⟩
    · rw [resolve_retry hawaits, finish_nil]
    · rw [resolve_fail hawaits, hret]
  · exact exec_eccEvent_corrected hx r h sub
  · rw [hu]
    exact exec_eccEvent_uncorrected hx ht r sub
  · have hnowait (m : Nat) (hm : m ≠ 0) : s.mustWait t m = false := by simp [State.mustWait, hm]
    refine ⟨?_, fun u js hret => ?_, fun hmode => ?_, fun hmode harr hsave => ?_, fun hmode harr hsave => ?_, fun hmode harr => ?_⟩
    · exact preempts_alone h (by decide) (hnowait 1 (by decide)) (preempt_of_mode (by decide) (.inl (by decide)))
    · refine preempts h (by decide) (hnowait 2 (by decide)) ?_
      rw [State.preempt, if_pos rfl, hret]
    · exact preempts_alone h (by decide) (mustWait_of_pmode hmode 0) (preempt_of_mode (by decide) (.inr hmode))
    · exact preempts_alone h (by decide) ((mustWait_eq_false_iff hmode).mpr harr) (by rw [preempt_save hmode, hsave]; rfl)
    · exact preempts_alone h (by decide) ((mustWait_eq_false_iff hmode).mpr harr) (by rw [preempt_save hmode, hsave]; rfl)
    · have hwait : s.mustWait t 0 = true := by rwa [← Bool.not_eq_false, mustWait_eq_false_iff hmode]
      change s.onDie d (fun s _ => s.preemptWrite d 0) = _
      rw [State.onDie_some h.1, preemptWrite_of_mustWait h (by decide) hwait, finish_nil]

end Sys2Proof.Proofs
end

section
/-! SUPPORT. FP32 patterns: what a pattern denotes, and how an exact value is rounded toward zero (R56, R57, R65, R66). -/
namespace Sys2Proof.Laws.Rounding

open Sys2Proof Sys2Proof.Machine Sys2Proof.Claims

variable {rm : BitVec 2} {flush neg ix : Bool} {m M s b : Nat} {e k : Int}

theorem bitLen_eq (h : 2 ^ b ≤ m) (h' : m < 2 ^ (b + 1)) : bitLen m = b + 1 := by
  have hm : m ≠ 0 := by
    rintro rfl
    simp at h
  rw [bitLen, if_neg hm, (Nat.log2_eq_iff hm).mpr ⟨h, h'⟩]

theorem bitLen_spec (hm : m ≠ 0) : ∃ b, bitLen m = b + 1 ∧ 2 ^ b ≤ m ∧ m < 2 ^ (b + 1) :=
  ⟨Nat.log2 m, if_neg hm, Nat.log2_self_le hm, Nat.lt_log2_self⟩

theorem bitLen_shift (hm : m ≠ 0) (s : Nat) : bitLen (m * 2 ^ s) = bitLen m + s := by
  obtain ⟨b, hb, hlo, hhi⟩ := bitLen_spec hm
  rw [hb, bitLen_eq (b := b + s)]
  · omega
  · rw [pow_add]
    exact Nat.mul_le_mul_right _ hlo
  · rw [Nat.add_right_comm, pow_add]
    exact Nat.mul_lt_mul_of_pos_right hhi (by positivity)

/-- The sign bit of a pattern. -/
def signOf (neg : Bool) : Nat := if neg then 2 ^ 31 else 0

@[simp] theorem signOf_false : signOf false = 0 := rfl

@[simp] theorem signOf_true : signOf true = 2 ^ 31 := rfl

theorem zero_s (neg : Bool) : Fmt.s.zero neg = signOf neg := rfl

/-! ### Reading (R57) -/

theorem unpack_s (x : Nat) : Fmt.s.unpack x =
    if x / 2 ^ 23 % 2 ^ 8 = 255 then
      if x % 2 ^ 23 = 0 then .inf (x / 2 ^ 31 % 2 == 1) else .nan (decide (x % 2 ^ 23 < 2 ^ 22))
    else if x / 2 ^ 23 % 2 ^ 8 = 0 then .fin (x / 2 ^ 31 % 2 == 1) (x % 2 ^ 23) (-149)
    else .fin (x / 2 ^ 31 % 2 == 1) (2 ^ 23 + x % 2 ^ 23) ((x / 2 ^ 23 % 2 ^ 8 : Nat) - (127 : Nat) - (23 : Nat)) := rfl

theorem unpack_normal {f fr : Nat} (hf : 1 ≤ f) (hf' : f ≤ 254) (hfr : fr < 2 ^ 23) :
    Fmt.s.unpack (signOf neg + f * 2 ^ 23 + fr) = .fin neg (2 ^ 23 + fr) ((f : Int) - 150) := by
  have hfrac : (signOf neg + f * 2 ^ 23 + fr) % 2 ^ 23 = fr := by cases neg <;> simp [signOf] <;> omega
  have hexp : (signOf neg + f * 2 ^ 23 + fr) / 2 ^ 23 % 2 ^ 8 = f := by cases neg <;> simp [signOf] <;> omega
  have hneg : ((signOf neg + f * 2 ^ 23 + fr) / 2 ^ (23 + 8) % 2 == 1) = neg := by cases neg <;> simp [signOf] <;> omega
  simp only [Fmt.unpack, Fmt.frac, Fmt.exp, hfrac, hexp, hneg]
  rw [if_neg (by omega), if_neg (by omega)]
  congr 1
  simp [Fmt.bias]
  omega

theorem unpack_subnormal {fr : Nat} (hfr : fr < 2 ^ 23) : Fmt.s.unpack (signOf neg + fr) = .fin neg fr (-149) := by
  have hfrac : (signOf neg + fr) % 2 ^ 23 = fr := by cases neg <;> simp [signOf] <;> omega
  have hexp : (signOf neg + fr) / 2 ^ 23 % 2 ^ 8 = 0 := by cases neg <;> simp [signOf] <;> omega
  have hneg : ((signOf neg + fr) / 2 ^ (23 + 8) % 2 == 1) = neg := by cases neg <;> simp [signOf] <;> omega
  simp only [Fmt.unpack, Fmt.frac, Fmt.exp, hfrac, hexp, hneg]
  rfl

/-! ### Rounding -/

/-- A value that 24 bits hold in the normal range is its own result. -/
theorem round_of_grid (hq : e + bitLen m - 24 = k) (hgrid : roundGrid rm neg m e k = (M, false)) (hhi : M < 2 ^ 24)
    (hk1 : -149 ≤ k) (hk2 : k ≤ 104) : Fmt.s.round rm flush neg m e = (signOf neg + (k + 150).toNat * 2 ^ 23 + (M - 2 ^ 23), 0) := by
  have hq' : e + bitLen m - ((23 + 1 : Nat) : Int) = k := hq
  have hcarry : ¬ M = 2 ^ (23 + 1) := by omega
  have hmin : (1 : Int) - (Fmt.s.bias : Nat) - (23 : Nat) = -149 := rfl
  have hfield : (k - -149).toNat + 1 = (k + 150).toNat := by omega
  have hmax : ¬ 2 ^ Fmt.s.exp - 1 ≤ (k + 150).toNat := by
    change ¬ 255 ≤ _
    omega
  simp only [Fmt.round, Fmt.frac, hq', hgrid]
  rw [if_neg hcarry]
  simp only [hmin, hfield]
  rw [if_neg (by omega), if_neg hmax]
  rfl

/-- A value of at most 24 bits. -/
theorem round_of_fits (hM : m * 2 ^ s = M) (hlo : 2 ^ 23 ≤ M) (hhi : M < 2 ^ 24) (hk : e - s = k) (hk1 : -149 ≤ k) (hk2 : k ≤ 104) :
    Fmt.s.round rm flush neg m e = (signOf neg + (k + 150).toNat * 2 ^ 23 + (M - 2 ^ 23), 0) := by
  have hm : m ≠ 0 := by
    rintro rfl
    omega
  have hlen : bitLen m + s = 24 := by
    rw [← bitLen_shift hm, hM, bitLen_eq hlo hhi]
  refine round_of_grid (by omega) ?_ hhi hk1 hk2
  rw [roundGrid, if_pos (by omega), show (e - k).toNat = s by omega, hM]

theorem roundGrid_toward_zero {q : Int} (h : e < q) : roundGrid 1 neg m e q = (m / 2 ^ (q - e).toNat, decide (m % 2 ^ (q - e).toNat ≠ 0)) := by
  rw [roundGrid, if_neg (by omega)]
  rfl

/-- Toward zero, the part of a value above 24 bits is below 2^24. -/
theorem roundGrid_lt (hm : m ≠ 0) : (roundGrid 1 neg m e (e + bitLen m - 24)).1 < 2 ^ 24 := by
  obtain ⟨b, hb, hlo, hhi⟩ := bitLen_spec hm
  rw [hb]
  by_cases h : e + ((b + 1 : Nat) : Int) - 24 ≤ e
  · rw [roundGrid, if_pos h, show (e - (e + ((b + 1 : Nat) : Int) - 24)).toNat = 24 - (b + 1) by omega]
    calc m * 2 ^ (24 - (b + 1)) < 2 ^ (b + 1) * 2 ^ (24 - (b + 1)) := Nat.mul_lt_mul_of_pos_right hhi (by positivity)
      _ = 2 ^ 24 := by rw [← pow_add]; congr 1; omega
  · rw [roundGrid_toward_zero (by omega), show (e + ((b + 1 : Nat) : Int) - 24 - e).toNat = b + 1 - 24 by omega,
      Nat.div_lt_iff_lt_mul (by positivity), ← pow_add]
    exact hhi.trans_le (Nat.pow_le_pow_right (by decide) (by omega))

/-- A value below the normal range is flushed, or truncated to the subnormal grid. -/
theorem round_of_tiny (hm : m ≠ 0) (htiny : e + bitLen m ≤ -126) : Fmt.s.round 1 flush neg m e =
    if flush then (signOf neg, fUF ||| fNX)
    else (signOf neg + (roundGrid 1 neg m e (-149)).1, flagIf (roundGrid 1 neg m e (-149)).2 (fUF ||| fNX)) := by
  have hlt := roundGrid_lt (neg := neg) (e := e) hm
  have hq : e + bitLen m - ((23 + 1 : Nat) : Int) = e + bitLen m - 24 := rfl
  simp only [Fmt.round, Fmt.frac, hq]
  rw [if_neg (show ¬ _ = 2 ^ (23 + 1) by omega), if_pos (by simp [Fmt.bias]; omega)]
  rfl

/-- A value beyond the normal range overflows. -/
theorem round_of_huge (hm : m ≠ 0) (hhuge : 129 ≤ e + bitLen m) : Fmt.s.round 1 flush neg m e = (Fmt.s.maxFin neg, fOF ||| fNX) := by
  have hlt := roundGrid_lt (neg := neg) (e := e) hm
  have hq : e + bitLen m - ((23 + 1 : Nat) : Int) = e + bitLen m - 24 := rfl
  simp only [Fmt.round, Fmt.frac, hq]
  rw [if_neg (show ¬ _ = 2 ^ (23 + 1) by omega), if_neg (by simp [Fmt.bias]; omega), if_pos (by simp [Fmt.bias, Fmt.exp]; omega)]
  rfl

end Sys2Proof.Laws.Rounding
end

section
/-! SUPPORT. The node operations on one lane (R170–R177, R182). -/
namespace Sys2Proof.Laws.NodeOps

open Sys2Proof Sys2Proof.Machine Sys2Proof.Claims Sys2Proof.Laws.Rounding

variable {rm : BitVec 2} {sat ftz : Bool} {imm : Nat} {a b c : Lane}

/-! ### Integers (R72, R170, R172, R174) -/

theorem satInt_wraps (sat : Bool) (v : Int) :
    ((sat = false ∨ (-2147483648 ≤ v ∧ v ≤ 2147483647)) → satInt sat v = (BitVec.ofInt 32 v, 0)) ∧
    (sat = true → 2147483647 < v → satInt sat v = (0x7FFFFFFF, fSAT)) ∧
    (sat = true → v < -2147483648 → satInt sat v = (0x80000000, fSAT)) := by
  refine ⟨?_, ?_, ?_⟩
  · rintro (rfl | ⟨hlo, hhi⟩)
    · rfl
    · simp [satInt, not_lt.mpr hlo, not_lt.mpr hhi]
  · rintro rfl h
    simp [satInt, h]
  · rintro rfl h
    simp [satInt, h, show ¬(2147483647 < v) by omega]

theorem slt_iff {x y : Lane} : x.slt y = true ↔ x.toInt < y.toInt := BitVec.slt_iff_toInt_lt

theorem eq_of_toInt_eq {x y : Lane} (h : x.toInt = y.toInt) : x = y := BitVec.eq_of_toInt_eq h

theorem smaller_eq (x y : Lane) : (if x.slt y then x else y) = if x.toInt ≤ y.toInt then x else y := by
  by_cases hlt : x.toInt < y.toInt
  · rw [if_pos (slt_iff.mpr hlt), if_pos hlt.le]
  · rw [if_neg (mt slt_iff.mp hlt)]
    split
    next hle => exact eq_of_toInt_eq (by omega)
    · rfl

theorem larger_eq (x y : Lane) : (if x.slt y then y else x) = if x.toInt ≤ y.toInt then y else x := by
  by_cases hlt : x.toInt < y.toInt
  · rw [if_pos (slt_iff.mpr hlt), if_pos hlt.le]
  · rw [if_neg (mt slt_iff.mp hlt)]
    split
    next hle => exact eq_of_toInt_eq (by omega)
    · rfl

/-! ### Formats (R58, R171–R174) -/

theorem nan_s : Fmt.s.nan = 0x7FC00000 := rfl

theorem fsign_of_number {v : Lane} (h : (Fmt.s.unpack a.toNat).isNan = false) : fsign a v = (v, 0) := by
  unfold fsign
  split
  next hnan => rw [hnan] at h; cases h
  · rfl

theorem fsign_of_nan {v : Lane} (h : (Fmt.s.unpack a.toNat).isNan = true) : (fsign a v).1 = 0x7FC00000 := by
  unfold fsign
  split
  · rfl
  next hnan =>
    cases hv : Fmt.s.unpack a.toNat <;> rw [hv] at h
    case nan sig => exact absurd hv (hnan sig)
    all_goals cases h

/-- The operations of three formats: their codes go up by the format. -/
theorem nodeOp_triples {k : Nat} (hk : k < 3) :
    nodeOp (0x20 + k) rm sat ftz imm a b c =
      laneOf (fadd (tripleFmt k) rm (ftz && decide (k = 0)) ((tripleFmt k).get a) ((tripleFmt k).get b)) ∧
    nodeOp (0x23 + k) rm sat ftz imm a b c =
      laneOf (fsub (tripleFmt k) rm (ftz && decide (k = 0)) ((tripleFmt k).get a) ((tripleFmt k).get b)) ∧
    nodeOp (0x26 + k) rm sat ftz imm a b c =
      laneOf (fmul (tripleFmt k) rm (ftz && decide (k = 0)) ((tripleFmt k).get a) ((tripleFmt k).get b)) ∧
    nodeOp (0x29 + k) rm sat ftz imm a b c =
      laneOf (ffma (tripleFmt k) rm (ftz && decide (k = 0)) ((tripleFmt k).get a) ((tripleFmt k).get b) ((tripleFmt k).get c)) ∧
    nodeOp (0x2C + k) rm sat ftz imm a b c = laneOf (fminmax (tripleFmt k) false ((tripleFmt k).get a) ((tripleFmt k).get b)) ∧
    nodeOp (0x2F + k) rm sat ftz imm a b c = laneOf (fminmax (tripleFmt k) true ((tripleFmt k).get a) ((tripleFmt k).get b)) := by
  interval_cases k <;> exact ⟨rfl, rfl, rfl, rfl, rfl, rfl⟩

/-- A NaN that an operation of FP32 reads in operand a (R68, R171–R174). -/
theorem nodeOp_of_nan (h : (Fmt.s.unpack a.toNat).isNan = true) :
    (nodeOp 0x32 rm sat ftz imm a b c).1 = 0x7FC00000 ∧ (nodeOp 0x33 rm sat ftz imm a b c).1 = 0x7FC00000 ∧
    (nodeOp 0x20 rm sat ftz imm a b c).1 = 0x7FC00000 ∧ (nodeOp 0x2C rm sat ftz imm a b c).1 = 0x7FC00000 ∧
    (nodeOp 0x34 rm sat ftz imm a b c).1 = 0 ∧ nodeOp 0x35 rm sat ftz imm a b c = (0, fNV) ∧
    nodeOp 0x36 rm sat ftz imm a b c = (0, fNV) := by
  have hadd (flush : Bool) : (fadd .s rm flush a.toNat b.toNat).1 = 0x7FC00000 := by simp [fadd, h, nanOut, nan_s]
  have hmin : (fminmax .s false a.toNat b.toNat).1 = 0x7FC00000 := by simp [fminmax, h, nanOut, nan_s]
  refine ⟨fsign_of_nan h, fsign_of_nan h, ?_, ?_, ?_, ?_, ?_⟩
  · exact congrArg (BitVec.ofNat 32) (hadd _)
  · exact congrArg (BitVec.ofNat 32) hmin
  · change (laneOf (feq a.toNat b.toNat)).1 = 0
    simp [feq, h, laneOf]
  · change laneOf (flt a.toNat b.toNat) = (0, fNV)
    simp [flt, h, laneOf]
  · change laneOf (fle a.toNat b.toNat) = (0, fNV)
    simp [fle, h, laneOf]

/-! ### Block exponents (R182) -/

/-- The power of two that a block exponent gives: normal, or subnormal. -/
theorem bexpOf_eq {m E : Nat} (hE : 1 ≤ E) (hE' : E ≤ 254) (hm : 2 ≤ m) (hm' : m ≤ 8) :
    bexpOf m E = BitVec.ofNat 32 (if m ≤ E + 1 then (E + 2 - m) * 2 ^ 23 else 2 ^ (E + 24 - m)) := by
  rw [bexpOf, if_neg (by omega), if_neg (by omega)]
  congr 1
  split
  · rw [round_of_fits (s := 23) (M := 2 ^ 23) (k := (E : Int) - 148 - m) rfl (by decide) (by decide) (by omega) (by omega) (by omega)]
    rw [signOf_false]
    omega
  · rw [round_of_tiny (by decide) (by change _ + (1 : Int) ≤ _; omega), if_neg (by decide), roundGrid, if_pos (by omega)]
    rw [signOf_false, Nat.one_mul, Nat.zero_add, show ((E : Int) - 125 - m - -149).toNat = E + 24 - m by omega]

theorem nodeOp_bexp : nodeOp 0x5F rm sat ftz imm a b c = (bexpOf (imm % 16) (a.toNat % 256), 0) := rfl

/-! ### The table -/

theorem nodeTable : NodeTable := by
  intro rm sat ftz imm a b c op wrap byte
  have hwrap (v : Int) : wrap v (satInt sat v) := satInt_wraps sat v
  refine ⟨⟨hwrap _, hwrap _, hwrap _, hwrap _, hwrap _, hwrap _, ?_⟩, ⟨?_, ?_, ?_⟩, ⟨rfl, rfl, rfl, rfl, rfl, rfl⟩, ⟨rfl, ?_, ?_, rfl⟩, ?_, ?_,
    ?_, ⟨rfl, rfl, rfl⟩, ⟨rfl, rfl, rfl, rfl, rfl, rfl⟩, ⟨rfl, rfl⟩, ⟨rfl, rfl⟩, ⟨rfl, rfl, rfl, rfl⟩, ?_, ?_, ?_⟩
  · have hsum : (c.toInt + ((byte a 0).toNat * (byte b 0).toNat + (byte a 1).toNat * (byte b 1).toNat +
        (byte a 2).toNat * (byte b 2).toNat + (byte a 3).toNat * (byte b 3).toNat : Nat)) =
        c.toInt + uByte a 0 * uByte b 0 + uByte a 1 * uByte b 1 + uByte a 2 * uByte b 2 + uByte a 3 * uByte b 3 := by
      push_cast
      simp only [uByte, byte]
      ring
    rw [hsum]
    exact hwrap _
  · exact congrArg (·, (0 : Flags)) (smaller_eq a b)
  · exact congrArg (·, (0 : Flags)) (larger_eq a b)
  · refine congrArg (·, (0 : Flags)) ((smaller_eq _ c).trans ?_)
    rw [larger_eq a b]
  · exact congrArg (·, (0 : Flags)) (if_congr slt_iff rfl rfl)
  · exact congrArg (·, (0 : Flags)) (if_congr BitVec.lt_def rfl rfl)
  · rintro k hk f x y z flush rfl rfl rfl rfl rfl
    exact nodeOp_triples hk
  · exact fun h => ⟨fsign_of_number h, fsign_of_number h⟩
  · exact nodeOp_of_nan
  · intro h
    change nodeOp 0x5F rm sat ftz imm a b c = _
    rw [nodeOp_bexp, h]
    rfl
  · intro h
    change nodeOp 0x5F rm sat ftz imm a b c = _
    rw [nodeOp_bexp, h]
    rfl
  · rintro E m rfl rfl hE hE' hm hm'
    change nodeOp 0x5F rm sat ftz imm a b c = _
    rw [nodeOp_bexp, bexpOf_eq hE hE' hm hm']

end Sys2Proof.Laws.NodeOps
end

section
/-! SUPPORT. The approximations of FP32 (R176): reciprocal, reciprocal square root, power of two and binary logarithm. -/
namespace Sys2Proof.Laws.Approximating

open Sys2Proof Sys2Proof.Machine Sys2Proof.Claims Sys2Proof.Laws.Rounding

variable {ftz n : Bool} {x m r t s : Nat} {e : Int}

/-! ### Finite numbers of FP32 -/

/-- A finite number is subnormal, or has a significand of 24 bits. -/
theorem fin_range (h : Fmt.s.unpack x = .fin n m e) : e = -149 ∧ m < 2 ^ 23 ∨ -149 ≤ e ∧ e ≤ 104 ∧ 2 ^ 23 ≤ m ∧ m < 2 ^ 24 := by
  have hfrac : x % 2 ^ 23 < 2 ^ 23 := Nat.mod_lt _ (by decide)
  have hexp : x / 2 ^ 23 % 2 ^ 8 < 2 ^ 8 := Nat.mod_lt _ (by decide)
  rw [unpack_s] at h
  split at h
  · split at h <;> cases h
  · split at h
    · cases h
      omega
    next hinf hsub =>
      injection h with _ hm he
      generalize x % 2 ^ 23 = fr at *
      generalize x / 2 ^ 23 % 2 ^ 8 = ex at *
      omega

/-! ### The result of an approximation -/

/-- 16 significant bits fill a significand of 24 bits with 8 more, or with 7 where they carry. -/
theorem exists_fill (hlo : 2 ^ 15 ≤ r) (hhi : r ≤ 2 ^ 16) : ∃ j, (j = 7 ∧ r = 2 ^ 16 ∨ j = 8 ∧ r < 2 ^ 16) ∧ 2 ^ 23 ≤ r * 2 ^ j ∧
    r * 2 ^ j < 2 ^ 24 ∧ r * 2 ^ j % 256 = 0 := by
  obtain rfl | hlt := hhi.eq_or_lt
  · exact ⟨7, .inl ⟨rfl, rfl⟩, by decide, by decide, by decide⟩
  · exact ⟨8, .inr ⟨rfl, hlt⟩, by omega, by omega, by omega⟩

theorem approxOut_of_round {ix : Bool} {v : Nat} {fl : Flags} (h : Fmt.s.round 1 ftz n r e = (v, fl)) : approxOut ftz n r e ix =
    if fl &&& fOF ≠ 0 then (Fmt.s.inf n, fOF ||| fNX)
    else (v, fl ||| flagIf ix fNX ||| flagIf (ix && decide (e + bitLen r ≤ -126)) fUF) := by
  simp only [approxOut, h]

/-- In the normal range an approximation gives its 16 bits. -/
theorem approxOut_sixteen {j : Nat} (ix : Bool) (hlo : 2 ^ 23 ≤ r * 2 ^ j) (hhi : r * 2 ^ j < 2 ^ 24) (hbits : r * 2 ^ j % 256 = 0)
    (hmin : -149 ≤ e - j) (hmax : e - j ≤ 104) : Sixteen (approxOut ftz n r e ix).1 n (r * 2 ^ j) (e - j) ∧
    (approxOut ftz n r e ix).2 = if ix then fNX else 0 := by
  have hr : r ≠ 0 := by
    rintro rfl
    omega
  have hlen : bitLen r + j = 24 := by rw [← bitLen_shift hr, bitLen_eq hlo hhi]
  have htiny : ¬ e + bitLen r ≤ -126 := by omega
  have hround := round_of_fits (rm := 1) (flush := ftz) (neg := n) (e := e) rfl hlo hhi rfl hmin hmax
  have hread := unpack_normal (neg := n) (f := (e - j + 150).toNat) (fr := r * 2 ^ j - 2 ^ 23) (by omega) (by omega) (by omega)
  have hout : approxOut ftz n r e ix =
      (signOf n + (e - j + 150).toNat * 2 ^ 23 + (r * 2 ^ j - 2 ^ 23), if ix then fNX else 0) := by
    rw [approxOut_of_round hround, decide_eq_false htiny, Bool.and_false, if_neg (by decide)]
    cases ix <;> rfl
  rw [hout]
  refine ⟨⟨?_, hlo, hhi, hbits⟩, rfl⟩
  rw [hread, show 2 ^ 23 + (r * 2 ^ j - 2 ^ 23) = r * 2 ^ j by omega, show ((e - j + 150).toNat : Int) - 150 = e - j by omega]

/-- Beyond the normal range it gives an infinity. -/
theorem approxOut_huge (ix : Bool) (hr : r ≠ 0) (h : 129 ≤ e + bitLen r) : approxOut ftz n r e ix = (Fmt.s.inf n, fOF ||| fNX) := by
  rw [approxOut_of_round (round_of_huge hr h), if_pos (by decide)]

/-- Below it, it gives a zero where it flushes. -/
theorem approxOut_flushed (ix : Bool) (hr : r ≠ 0) (h : e + bitLen r ≤ -126) :
    approxOut true n r e ix = (signOf n, fUF ||| fNX) := by
  rw [approxOut_of_round ((round_of_tiny hr h).trans (if_pos rfl)), if_neg (by decide), decide_eq_true h]
  cases ix <;> rfl

/-- Below it, it is truncated to the subnormal grid where it does not flush. -/
theorem approxOut_tiny (ix : Bool) (hr : r ≠ 0) (h : e + bitLen r ≤ -126) : approxOut false n r e ix =
    (signOf n + (roundGrid 1 n r e (-149)).1, if (ix || (roundGrid 1 n r e (-149)).2) = true then fUF ||| fNX else 0) := by
  rw [approxOut_of_round ((round_of_tiny hr h).trans (if_neg (by decide))), decide_eq_true h]
  generalize (roundGrid 1 n r e (-149)).2 = cut
  cases ix <;> cases cut <;> rfl

/-! ### The reciprocal -/

/-- The bits before the point of the quotient that `frcp` forms, for a number of `b` bits. -/
theorem quotient_range {b : Nat} (hlo : 2 ^ b ≤ m) (hhi : m < 2 ^ (b + 1)) : 2 ^ 15 ≤ 2 ^ (b + 16) / m ∧ 2 ^ (b + 16) / m ≤ 2 ^ 16 := by
  have hm : 0 < m := (by positivity : 0 < 2 ^ b).trans_le hlo
  constructor
  · rw [Nat.le_div_iff_mul_le hm]
    calc 2 ^ 15 * m ≤ 2 ^ 15 * 2 ^ (b + 1) := Nat.mul_le_mul_left _ hhi.le
      _ = 2 ^ (b + 16) := by ring
  · refine Nat.div_le_of_le_mul ?_
    calc 2 ^ (b + 16) = 2 ^ b * 2 ^ 16 := by ring
      _ ≤ m * 2 ^ 16 := Nat.mul_le_mul_right _ hlo

theorem frcp_of_finite (h : Finite x n m e) {b : Nat} (hb : bitLen m = b + 1) : frcp ftz x =
    approxOut ftz n (2 ^ (b + 16) / m) (-((b + 16 : Nat) : Int) - e) (decide (2 ^ (b + 16) % m ≠ 0)) := by
  rw [frcp, h.1]
  simp only [h.2, if_false, hb]

/-- What a division toward zero says of its quotient, with the same number of bits put under quotient and dividend. -/
theorem div_scaled {p q k : Nat} (hq : q = 2 ^ k / p) (hp : 0 < p) (j : Nat) : q * 2 ^ j * p ≤ 2 ^ (k + j) ∧
    2 ^ (k + j) < (q + 1) * 2 ^ j * p ∧ (q * 2 ^ j * p = 2 ^ (k + j) ↔ 2 ^ k % p = 0) := by
  have hdiv : q * p + 2 ^ k % p = 2 ^ k := by rw [hq]; exact Nat.div_add_mod' _ _
  have hmod : 2 ^ k % p < p := Nat.mod_lt _ hp
  have hj0 : 0 < 2 ^ j := by positivity
  generalize 2 ^ k % p = rest at *
  rw [pow_add, ← hdiv]
  generalize 2 ^ j = u at *
  refine ⟨by nlinarith, by nlinarith, ?_⟩
  rw [show q * u * p = q * p * u by ring, Nat.mul_right_cancel_iff hj0]
  omega

/-- One more in the last of 16 bits is at most 256 more in 24 bits. -/
theorem next_le {j : Nat} (hj : j ≤ 8) (q : Nat) : (q + 1) * 2 ^ j ≤ q * 2 ^ j + 256 := by
  have : 2 ^ j ≤ 2 ^ 8 := Nat.pow_le_pow_right (by decide) hj
  rw [Nat.succ_mul]
  omega

theorem exp_lt {a c : Nat} (h : 2 ^ a ≤ m) (h' : m < 2 ^ c) : a < c :=
  (Nat.pow_lt_pow_iff_right (by decide)).mp (h.trans_lt h')

/-- The quotient carries to 2^16 for a power of two only. -/
theorem eq_two_pow_of_carry {b : Nat} (hlo : 2 ^ b ≤ m) (h : 2 ^ (b + 16) / m = 2 ^ 16) : m = 2 ^ b := by
  have hm : 0 < m := (by positivity : 0 < 2 ^ b).trans_le hlo
  have : 2 ^ 16 * m ≤ 2 ^ b * 2 ^ 16 := by
    rw [← pow_add, ← Nat.le_div_iff_mul_le hm, h]
  omega

/-- The exponent of the reciprocal of a number is in the normal range. -/
theorem frcp_exponent (h : Finite x n m e) (hrange : 2 ^ 23 ≤ m ∧ e ≤ 102 ∨ e = -149 ∧ 2 ^ 21 < m) {b j : Nat} (hlo : 2 ^ b ≤ m)
    (hhi : m < 2 ^ (b + 1)) (hj : j = 7 ∧ 2 ^ (b + 16) / m = 2 ^ 16 ∨ j = 8 ∧ 2 ^ (b + 16) / m < 2 ^ 16) :
    -149 ≤ -((b + 16 : Nat) : Int) - e - j ∧ -((b + 16 : Nat) : Int) - e - j ≤ 104 := by
  have hcarry : j = 7 → m = 2 ^ b := fun hj7 => eq_two_pow_of_carry hlo (by omega)
  have hb : 21 < b + 1 := exp_lt (m := m) (by omega) hhi
  obtain ⟨he, hm⟩ | ⟨he, -, hmlo, hmhi⟩ := fin_range h.1
  · have hb' : b < 23 := exp_lt hlo hm
    obtain rfl | rfl : b = 21 ∨ b = 22 := by omega
    all_goals omega
  · have hb' : b < 24 := exp_lt hlo hmhi
    have hb'' : 23 < b + 1 := exp_lt hmlo hhi
    obtain rfl : b = 23 := by omega
    omega

theorem frcp_normal (h : Finite x n m e) (hrange : 2 ^ 23 ≤ m ∧ e ≤ 102 ∨ e = -149 ∧ 2 ^ 21 < m) :
    ∃ r d : Nat, Sixteen (frcp ftz x).1 n r (-(d : Int) - e) ∧ r * m ≤ 2 ^ d ∧ 2 ^ d < (r + 256) * m ∧
      (frcp ftz x).2 = if r * m = 2 ^ d then 0 else fNX := by
  obtain ⟨b, hb, hblo, hbhi⟩ := bitLen_spec h.2
  obtain ⟨hqlo, hqhi⟩ := quotient_range hblo hbhi
  obtain ⟨j, hj, hlo, hhi, hbits⟩ := exists_fill hqlo hqhi
  obtain ⟨hmin, hmax⟩ := frcp_exponent h hrange hblo hbhi hj
  obtain ⟨hout, hflags⟩ := approxOut_sixteen (ftz := ftz) (n := n) (e := -((b + 16 : Nat) : Int) - e) (decide (2 ^ (b + 16) % m ≠ 0)) hlo hhi
    hbits hmin hmax
  obtain ⟨hle, hlt, heq⟩ := div_scaled (k := b + 16) rfl (Nat.pos_of_ne_zero h.2) j
  rw [frcp_of_finite h hb]
  refine ⟨_, b + 16 + j, ?_, hle, hlt.trans_le (Nat.mul_le_mul_right _ (next_le (by omega) _)), ?_⟩
  · rwa [show -((b + 16 + j : Nat) : Int) - e = -((b + 16 : Nat) : Int) - e - j by omega]
  · rw [hflags]
    simp only [heq, decide_eq_true_eq, ite_not]

theorem frcp_huge (h : Finite x n m e) (he : e = -149) (hm : m ≤ 2 ^ 21) :
    frcp ftz x = (if n = true then 0xFF800000 else 0x7F800000, fOF ||| fNX) := by
  obtain ⟨b, hb, hblo, hbhi⟩ := bitLen_spec h.2
  obtain ⟨hqlo, hqhi⟩ := quotient_range hblo hbhi
  have hb' : b < 22 := exp_lt hblo (by omega)
  have hlen : 129 ≤ -((b + 16 : Nat) : Int) - e + bitLen (2 ^ (b + 16) / m) := by
    obtain hq | hq := hqhi.eq_or_lt
    · have : b ≤ 21 := by omega
      rw [hq, bitLen_eq (b := 16) (by decide) (by decide)]
      omega
    · rw [bitLen_eq (b := 15) hqlo hq]
      obtain rfl | hb'' : b = 21 ∨ b < 21 := by omega
      · obtain rfl : m = 2 ^ 21 := by omega
        exact absurd hq (by decide)
      · omega
  rw [frcp_of_finite h hb, approxOut_huge _ (by omega) hlen]
  cases n <;> rfl

/-- A number whose reciprocal is below 2^-126, or just that. -/
theorem frcp_large (h : Finite x n m e) (he : 103 ≤ e) : 2 ^ 23 ≤ m ∧ m < 2 ^ 24 ∧ e ≤ 104 ∧ bitLen m = 23 + 1 := by
  obtain ⟨he', -⟩ | ⟨-, he', hmlo, hmhi⟩ := fin_range h.1
  · omega
  · exact ⟨hmlo, hmhi, he', bitLen_eq hmlo hmhi⟩

theorem frcp_subnormal (h : Finite x n m e) (he : 103 ≤ e) : ∃ r q : Nat, Fmt.s.unpack (frcp false x).1 = .fin n (r * 2 ^ q) (-149) ∧
    2 ^ 15 ≤ r ∧ r < 2 ^ 16 ∧ r * 2 ^ q * m ≤ 2 ^ (149 - e).toNat ∧ 2 ^ (149 - e).toNat < (r + 1) * 2 ^ q * m ∧
    (frcp false x).2 = if r * 2 ^ q * m = 2 ^ (149 - e).toNat then 0 else fUF ||| fNX := by
  obtain ⟨hmlo, hmhi, he', hb⟩ := frcp_large h he
  obtain ⟨hqlo, hqhi⟩ := quotient_range hmlo hmhi
  rw [frcp_of_finite h hb]
  obtain hq | hq := hqhi.eq_or_lt
  · obtain rfl := eq_two_pow_of_carry hmlo hq
    obtain rfl | rfl : e = 103 ∨ e = 104 := by omega
    · exact ⟨2 ^ 15, 8, by cases n <;> decide, by decide, by decide, by decide, by decide, by cases n <;> decide⟩
    · exact ⟨2 ^ 15, 7, by cases n <;> decide, by decide, by decide, by decide, by decide, by cases n <;> decide⟩
  · have htiny : -((23 + 16 : Nat) : Int) - e + bitLen (2 ^ (23 + 16) / m) ≤ -126 := by
      rw [bitLen_eq (b := 15) hqlo hq]
      omega
    obtain ⟨j, rfl⟩ : ∃ j : Nat, e = 110 - (j : Int) := ⟨(110 - e).toNat, by omega⟩
    have hgrid : roundGrid 1 n (2 ^ (23 + 16) / m) (-((23 + 16 : Nat) : Int) - (110 - j)) (-149) = (2 ^ (23 + 16) / m * 2 ^ j, false) := by
      rw [roundGrid, if_pos (by omega)]
      congr 3
      omega
    obtain ⟨hle, hlt, heq⟩ := div_scaled (k := 23 + 16) rfl (Nat.pos_of_ne_zero h.2) j
    have hexp : (149 - (110 - (j : Int))).toNat = 23 + 16 + j := by omega
    rw [approxOut_tiny _ (by omega) htiny, hgrid, hexp]
    refine ⟨_, j, unpack_subnormal ?_, hqlo, hq, hle, hlt, ?_⟩
    · obtain rfl | rfl : j = 6 ∨ j = 7 := by omega
      all_goals omega
    · simp only [heq, Bool.or_false, decide_eq_true_eq, ite_not]

theorem frcp_flushed (h : Finite x n m e) (he : 103 ≤ e) (hm : 2 ^ 126 < m * 2 ^ e.toNat) :
    frcp true x = (if n = true then 0x80000000 else 0, fUF ||| fNX) := by
  obtain ⟨hmlo, hmhi, he', hb⟩ := frcp_large h he
  obtain ⟨hqlo, hqhi⟩ := quotient_range hmlo hmhi
  have htiny : -((23 + 16 : Nat) : Int) - e + bitLen (2 ^ (23 + 16) / m) ≤ -126 := by
    obtain hq | hq := hqhi.eq_or_lt
    · obtain rfl := eq_two_pow_of_carry hmlo hq
      obtain rfl | rfl : e = 103 ∨ e = 104 := by omega
      · exact absurd hm (by decide)
      · decide
    · rw [bitLen_eq (b := 15) hqlo hq]
      omega
  rw [frcp_of_finite h hb, approxOut_flushed _ (by omega) htiny]
  cases n <;> rfl

/-! ### The reciprocal square root -/

/-- The root that `frsq` forms, of a number whose exponent is even. -/
def root (p k : Nat) : Nat := Nat.sqrt (2 ^ (2 * k) / p)

theorem root_spec {p k : Nat} (hp : 0 < p) : root p k ^ 2 * p ≤ 2 ^ (2 * k) ∧ 2 ^ (2 * k) < (root p k + 1) ^ 2 * p := by
  have hlo : root p k ^ 2 ≤ 2 ^ (2 * k) / p := Nat.sqrt_le' _
  have hhi : 2 ^ (2 * k) / p < (root p k + 1) ^ 2 := Nat.lt_succ_sqrt' _
  exact ⟨(Nat.le_div_iff_mul_le hp).mp hlo, (Nat.div_lt_iff_lt_mul hp).mp hhi⟩

theorem root_range {p b : Nat} (hlo : 2 ^ b ≤ p) (hhi : p < 2 ^ (b + 1)) :
    2 ^ 15 ≤ root p ((b + 1 + 31) / 2) ∧ root p ((b + 1 + 31) / 2) ≤ 2 ^ 16 := by
  have hp : 0 < p := (by positivity : 0 < 2 ^ b).trans_le hlo
  have hk : b + 31 ≤ 2 * ((b + 1 + 31) / 2) ∧ 2 * ((b + 1 + 31) / 2) ≤ b + 32 := by omega
  generalize (b + 1 + 31) / 2 = k at *
  constructor
  · rw [root, Nat.le_sqrt, Nat.le_div_iff_mul_le hp]
    calc 2 ^ 15 * 2 ^ 15 * p ≤ 2 ^ 30 * 2 ^ (b + 1) := Nat.mul_le_mul_left _ hhi.le
      _ = 2 ^ (b + 31) := by ring
      _ ≤ 2 ^ (2 * k) := Nat.pow_le_pow_right (by decide) hk.1
  · have hsq : root p k ^ 2 * 2 ^ b ≤ (2 ^ 16) ^ 2 * 2 ^ b :=
      calc root p k ^ 2 * 2 ^ b ≤ root p k ^ 2 * p := Nat.mul_le_mul_left _ hlo
        _ ≤ 2 ^ (2 * k) := (root_spec hp).1
        _ ≤ 2 ^ (b + 32) := Nat.pow_le_pow_right (by decide) hk.2
        _ = (2 ^ 16) ^ 2 * 2 ^ b := by ring
    exact (Nat.pow_le_pow_iff_left (by decide)).mp (Nat.le_of_mul_le_mul_right hsq (by positivity))

theorem frsq_of_finite (h : Finite x false m e) {E : Int} {i : Nat} (hi : i ≤ 1) (he : e = 2 * E + i) : frsq ftz x =
    approxOut ftz false (root (m * 2 ^ i) ((bitLen (m * 2 ^ i) + 31) / 2)) (-(((bitLen (m * 2 ^ i) + 31) / 2 : Nat) : Int) - E)
      (decide (root (m * 2 ^ i) ((bitLen (m * 2 ^ i) + 31) / 2) * root (m * 2 ^ i) ((bitLen (m * 2 ^ i) + 31) / 2) * (m * 2 ^ i) ≠
        2 ^ (2 * ((bitLen (m * 2 ^ i) + 31) / 2)))) := by
  have hsplit : (if e % 2 = 0 then (m, e) else (2 * m, e - 1)) = (m * 2 ^ i, 2 * E) := by
    obtain rfl | rfl : i = 0 ∨ i = 1 := by omega
    · rw [if_pos (by omega), he]
      simp
    · rw [if_neg (by omega), he, pow_one, Nat.mul_comm]
      simp
  rw [frsq, h.1]
  simp only [h.2, if_false, hsplit, Bool.false_eq_true]
  rw [show 2 * E / 2 = E by omega]
  rfl

theorem frsq_normal (h : Finite x false m e) : ∃ (r d : Nat) (k : Int), 2 * k + e = -(d : Int) ∧ Sixteen (frsq ftz x).1 false r k ∧
    r ^ 2 * m ≤ 2 ^ d ∧ 2 ^ d < (r + 256) ^ 2 * m ∧ (frsq ftz x).2 = if r ^ 2 * m = 2 ^ d then 0 else fNX := by
  obtain ⟨E, i, hi, he⟩ : ∃ (E : Int) (i : Nat), i ≤ 1 ∧ e = 2 * E + i := ⟨e / 2, (e % 2).toNat, by omega, by omega⟩
  have hp : m * 2 ^ i ≠ 0 := Nat.mul_ne_zero h.2 (by positivity)
  rw [frsq_of_finite h hi he]
  obtain ⟨b, hb, hblo, hbhi⟩ := bitLen_spec hp
  obtain ⟨hrlo, hrhi⟩ := root_range hblo hbhi
  have hm24 : m < 2 ^ 24 ∧ -149 ≤ e ∧ e ≤ 104 := by
    have := fin_range h.1
    omega
  have hb25 : b < 25 := exp_lt hblo (by
    have : 2 ^ i ≤ 2 ^ 1 := Nat.pow_le_pow_right (by decide) hi
    nlinarith)
  obtain ⟨hle, hlt⟩ := root_spec (p := m * 2 ^ i) (k := (b + 1 + 31) / 2) (Nat.pos_of_ne_zero hp)
  obtain ⟨j, hj, hlo, hhi, hbits⟩ := exists_fill hrlo hrhi
  rw [hb]
  generalize hk : (b + 1 + 31) / 2 = k at *
  generalize root (m * 2 ^ i) k = r at *
  obtain ⟨hout, hflags⟩ := approxOut_sixteen (ftz := ftz) (n := false) (e := -(k : Int) - E)
    (decide (r * r * (m * 2 ^ i) ≠ 2 ^ (2 * k))) hlo hhi hbits (by omega) (by omega)
  have hd : 2 ^ (2 * k + 2 * j - i) * 2 ^ i = 2 ^ (2 * k) * (2 ^ j) ^ 2 := by
    rw [← pow_add, ← pow_mul, ← pow_add]
    congr 1
    omega
  have hi0 : 0 < 2 ^ i := by positivity
  have hj0 : 0 < (2 ^ j) ^ 2 := by positivity
  have hsq : (r * 2 ^ j) ^ 2 * m * 2 ^ i = r ^ 2 * (m * 2 ^ i) * (2 ^ j) ^ 2 := by ring
  refine ⟨r * 2 ^ j, 2 * k + 2 * j - i, -(k : Int) - E - j, by omega, hout, ?_, ?_, ?_⟩
  · refine Nat.le_of_mul_le_mul_right ?_ hi0
    rw [hd, hsq]
    exact Nat.mul_le_mul_right _ hle
  · refine Nat.lt_of_mul_lt_mul_right (a := 2 ^ i) ?_
    calc 2 ^ (2 * k + 2 * j - i) * 2 ^ i = 2 ^ (2 * k) * (2 ^ j) ^ 2 := hd
      _ < (r + 1) ^ 2 * (m * 2 ^ i) * (2 ^ j) ^ 2 := Nat.mul_lt_mul_of_pos_right hlt hj0
      _ = ((r + 1) * 2 ^ j) ^ 2 * (m * 2 ^ i) := by ring
      _ ≤ (r * 2 ^ j + 256) ^ 2 * (m * 2 ^ i) := Nat.mul_le_mul_right _ (Nat.pow_le_pow_left (next_le (by omega) r) 2)
      _ = (r * 2 ^ j + 256) ^ 2 * m * 2 ^ i := (Nat.mul_assoc ..).symm
  · have hexact : (r * 2 ^ j) ^ 2 * m = 2 ^ (2 * k + 2 * j - i) ↔ r * r * (m * 2 ^ i) = 2 ^ (2 * k) := by
      rw [← Nat.mul_right_cancel_iff hi0, hd, hsq, Nat.mul_right_cancel_iff hj0, sq]
    rw [hflags]
    simp only [hexact, decide_eq_true_eq, ite_not]

/-! ### The greatest number that a predicate admits -/

theorem greatest_spec {p : Nat → Bool} {w base : Nat} (hbase : p base = true)
    (htop : p (base + 2 ^ w) = false) : base ≤ greatest p w base ∧ greatest p w base < base + 2 ^ w ∧ p (greatest p w base) = true ∧
      p (greatest p w base + 1) = false := by
  induction w generalizing base with
  | zero => exact ⟨le_rfl, by simp [greatest], hbase, htop⟩
  | succ w ih =>
    rw [greatest]
    rw [pow_succ, Nat.mul_two, ← Nat.add_assoc] at htop
    split
    next hmid =>
      obtain ⟨hlo, hhi, hp, hnext⟩ := ih hmid htop
      exact ⟨by omega, by rw [pow_succ]; omega, hp, hnext⟩
    next hmid =>
      obtain ⟨hlo, hhi, hp, hnext⟩ := ih hbase (Bool.eq_false_iff.mpr hmid)
      exact ⟨hlo, by rw [pow_succ]; omega, hp, hnext⟩

/-! ### Powers of two -/

/-- The 16 bits of 2^(f/2^t). -/
def expBits (t f : Nat) : Nat :=
  if f = 0 then 2 ^ 15 else greatest (fun r => decide (r ^ (2 ^ t) ≤ 2 ^ (15 * 2 ^ t + f))) 15 (2 ^ 15)

theorem expBits_spec {f : Nat} (hf : f < 2 ^ t) : 2 ^ 15 ≤ expBits t f ∧ expBits t f < 2 ^ 16 ∧
    expBits t f ^ (2 ^ t) ≤ 2 ^ (15 * 2 ^ t + f) ∧ 2 ^ (15 * 2 ^ t + f) < (expBits t f + 1) ^ (2 ^ t) := by
  have hpos : 2 ^ t ≠ 0 := by positivity
  rw [expBits]
  split
  next h0 =>
    rw [h0, Nat.add_zero, pow_mul]
    exact ⟨le_rfl, by decide, le_rfl, Nat.pow_lt_pow_left (Nat.lt_succ_self _) hpos⟩
  next h0 =>
    generalize 2 ^ t = T at *
    obtain ⟨hlo, hhi, hp, hnext⟩ := greatest_spec (p := fun r => decide (r ^ T ≤ 2 ^ (15 * T + f))) (w := 15) (base := 2 ^ 15)
      (decide_eq_true (by
        rw [← pow_mul]
        exact Nat.pow_le_pow_right (by decide) (by omega)))
      (decide_eq_false (by
        rw [show 2 ^ 15 + 2 ^ 15 = 2 ^ 16 by rfl, ← pow_mul, Nat.pow_le_pow_iff_right (by decide)]
        omega))
    exact ⟨hlo, hhi, of_decide_eq_true hp, by simpa using hnext⟩

/-- The result of `fexp2` for the number v / 2^t. -/
def expOut (ftz : Bool) (t : Nat) (v : Int) : Nat × Flags :=
  if 128 ≤ v / 2 ^ t then (0x7F800000, fOF ||| fNX)
  else if v / 2 ^ t < -150 then (0, fUF ||| fNX)
  else approxOut ftz false (expBits t (v % 2 ^ t).toNat) (v / 2 ^ t - 15) (decide (v % 2 ^ t ≠ 0))

/-- 2^-150 is below the subnormal grid. -/
theorem approxOut_vanishing (ix : Bool) (hlo : 2 ^ 15 ≤ r) (hhi : r < 2 ^ 16) : approxOut ftz false r (-165) ix = (0, fUF ||| fNX) := by
  have htiny : (-165 : Int) + bitLen r ≤ -126 := by
    rw [bitLen_eq hlo hhi]
    decide
  cases ftz
  · have hgrid : roundGrid 1 false r (-165) (-149) = (0, true) := by
      rw [roundGrid_toward_zero (by decide), show ((-149 : Int) - -165).toNat = 16 by rfl, Nat.div_eq_of_lt hhi, Nat.mod_eq_of_lt hhi,
        decide_eq_true (by omega)]
    rw [approxOut_tiny ix (by omega) htiny, hgrid, Bool.or_true]
    rfl
  · exact approxOut_flushed ix (by omega) htiny

theorem fexp2_of_finite (h : Finite x n m e) {v : Int} (hv : v = (if n = true then -1 else 1) * m * 2 ^ e.toNat) (ht : t = (-e).toNat) :
    fexp2 ftz x = expOut ftz t v := by
  have hsign : (if n = true then -(m : Int) else m) = (if n = true then -1 else 1) * m := by split <;> simp
  rw [fexp2, h.1]
  simp only [hsign]
  by_cases he : 0 ≤ e
  · obtain rfl : t = 0 := by omega
    rw [if_pos he, ← hv, expOut, pow_zero, Int.ediv_one, Int.emod_one]
    by_cases h128 : 128 ≤ v
    · rw [if_pos h128, if_pos h128]
      rfl
    · rw [if_neg h128, if_neg h128]
      by_cases hlow : v < -150
      · rw [if_pos (by omega), if_pos hlow]
      · rw [if_neg hlow]
        obtain rfl | hv' : v = -150 ∨ -149 ≤ v := by omega
        · rw [if_pos (by decide)]
          exact (approxOut_vanishing _ (by decide) (by decide)).symm
        · rw [if_neg (by omega)]
          rfl
  · have he0 : e.toNat = 0 := by omega
    rw [if_neg he, ← ht, expOut]
    rw [he0, pow_zero, mul_one] at hv
    rw [← hv]
    by_cases h128 : 128 ≤ v / 2 ^ t
    · rw [if_pos h128, if_pos h128]
      rfl
    · rw [if_neg h128, if_neg h128]
      by_cases hlow : v / 2 ^ t < -150
      · rw [if_pos hlow, if_pos hlow]
      · have hmod : 0 ≤ v % 2 ^ t := Int.emod_nonneg _ (by positivity)
        rw [if_neg hlow, if_neg hlow]
        by_cases hf : (v % 2 ^ t).toNat = 0
        · rw [if_pos hf, hf, decide_eq_false (by omega)]
          rfl
        · rw [if_neg hf, expBits, if_neg hf, decide_eq_true (by omega)]

/-- The whole part and the rest of v / 2^t. -/
theorem parts_of (t : Nat) (v : Int) : ∃ f : Nat, v = v / 2 ^ t * 2 ^ t + f ∧ f < 2 ^ t ∧ (v % 2 ^ t).toNat = f ∧ (v % 2 ^ t = 0 ↔ f = 0) := by
  have hpos : (0 : Int) < 2 ^ t := by positivity
  have hmod : 0 ≤ v % 2 ^ t := Int.emod_nonneg _ hpos.ne'
  have hlt : v % 2 ^ t < ((2 ^ t : Nat) : Int) := by
    push_cast
    exact Int.emod_lt_of_pos _ hpos
  have hdiv : v / 2 ^ t * 2 ^ t + v % 2 ^ t = v := Int.ediv_mul_add_emod v (2 ^ t)
  exact ⟨(v % 2 ^ t).toNat, by omega, by omega, rfl, by omega⟩

theorem le_div_iff (t : Nat) (c v : Int) : c ≤ v / 2 ^ t ↔ c * 2 ^ t ≤ v := Int.le_ediv_iff_mul_le (by positivity)

theorem div_lt_iff (t : Nat) (c v : Int) : v / 2 ^ t < c ↔ v < c * 2 ^ t := Int.ediv_lt_iff_lt_mul (by positivity)

/-- The number whose power of two a result of 16 bits approximates, over the result's own grid. -/
theorem scaled_rest {i c : Int} {f : Nat} {v : Int} (hv : v = i * 2 ^ t + f) (hc : 0 ≤ c) :
    ((c.toNat * 2 ^ t + f : Nat) : Int) = v - (i - c) * 2 ^ t := by
  push_cast
  rw [Int.toNat_of_nonneg hc, hv]
  ring

theorem expOut_normal {v : Int} (hlo : -126 * 2 ^ t ≤ v) (hhi : v < 128 * 2 ^ t) : ∃ (r d : Nat) (k : Int), (d : Int) = v - k * 2 ^ t ∧
    Sixteen (expOut ftz t v).1 false r k ∧ r ^ 2 ^ t ≤ 2 ^ d ∧ 2 ^ d < (r + 256) ^ 2 ^ t ∧
    (expOut ftz t v).2 = if v % 2 ^ t = 0 then 0 else fNX := by
  rw [← le_div_iff] at hlo
  rw [← div_lt_iff] at hhi
  obtain ⟨f, hv, hf, hrest, hzero⟩ := parts_of t v
  obtain ⟨hglo, hghi, hle, hlt⟩ := expBits_spec hf
  rw [expOut, if_neg (by omega), if_neg (by omega), hrest]
  generalize v / 2 ^ t = i at *
  generalize expBits t f = g at *
  obtain ⟨hout, hflags⟩ := approxOut_sixteen (ftz := ftz) (n := false) (r := g) (j := 8) (e := i - 15) (decide (v % 2 ^ t ≠ 0))
    (by omega) (by omega) (by omega) (by omega) (by omega)
  have hd : 2 ^ (15 * 2 ^ t + f) * (2 ^ 8) ^ 2 ^ t = 2 ^ (23 * 2 ^ t + f) := by
    rw [← pow_mul, ← pow_add]
    congr 1
    omega
  refine ⟨g * 2 ^ 8, 23 * 2 ^ t + f, i - 15 - (8 : Nat), ?_, hout, ?_, ?_, ?_⟩
  · exact (scaled_rest (c := 23) hv (by decide)).trans (by rw [show i - 15 - ((8 : Nat) : Int) = i - 23 by omega])
  · rw [← hd, mul_pow]
    exact Nat.mul_le_mul_right _ hle
  · calc 2 ^ (23 * 2 ^ t + f) = 2 ^ (15 * 2 ^ t + f) * (2 ^ 8) ^ 2 ^ t := hd.symm
      _ < (g + 1) ^ 2 ^ t * (2 ^ 8) ^ 2 ^ t := Nat.mul_lt_mul_of_pos_right hlt (by positivity)
      _ = (g * 2 ^ 8 + 256) ^ 2 ^ t := by rw [← mul_pow, show (g + 1) * 2 ^ 8 = g * 2 ^ 8 + 256 by omega]
  · rw [hflags]
    simp only [decide_eq_true_eq, ite_not]

theorem expOut_huge {v : Int} (h : 128 * 2 ^ t ≤ v) : expOut ftz t v = (0x7F800000, fOF ||| fNX) :=
  if_pos ((le_div_iff t 128 v).mpr h)

theorem expOut_vanishing {v : Int} (h : v < -149 * 2 ^ t) : expOut ftz t v = (0, fUF ||| fNX) := by
  rw [← div_lt_iff] at h
  obtain ⟨f, hv, hf, hrest, hzero⟩ := parts_of t v
  obtain ⟨hglo, hghi, -⟩ := expBits_spec hf
  rw [expOut, if_neg (by omega), hrest]
  split
  · rfl
  · rw [show v / 2 ^ t - 15 = -165 by omega]
    exact approxOut_vanishing _ hglo hghi

theorem expOut_flushed {v : Int} (hlo : -149 * 2 ^ t ≤ v) (hhi : v < -126 * 2 ^ t) : expOut true t v = (0, fUF ||| fNX) := by
  rw [← le_div_iff] at hlo
  rw [← div_lt_iff] at hhi
  obtain ⟨f, hv, hf, hrest, hzero⟩ := parts_of t v
  obtain ⟨hglo, hghi, -⟩ := expBits_spec hf
  rw [expOut, if_neg (by omega), if_neg (by omega), hrest]
  exact approxOut_flushed _ (by omega) (by rw [bitLen_eq hglo hghi]; omega)

/-- Sixteen bits on the subnormal grid: as they are, or cut off at the grid. -/
theorem roundGrid_subnormal {g : Nat} {i : Int} (hi : -149 ≤ i) (hi' : i < -126) : ∃ s : Nat, s ≤ 15 ∧
    (i - max (i - 15) (-149)).toNat + s = 15 ∧
    roundGrid 1 false g (i - 15) (-149) = (g / 2 ^ s * 2 ^ (max (i - 15) (-149) + 149).toNat, decide (g % 2 ^ s ≠ 0)) := by
  by_cases hgrid : -149 ≤ i - 15
  · refine ⟨0, by omega, by omega, ?_⟩
    rw [roundGrid, if_pos hgrid, max_eq_left hgrid, pow_zero, Nat.div_one, Nat.mod_one]
    rfl
  · refine ⟨(-149 - (i - 15)).toNat, by omega, by omega, ?_⟩
    rw [roundGrid_toward_zero (by omega), max_eq_right (by omega)]
    simp

theorem expOut_subnormal {v : Int} (hlo : -149 * 2 ^ t ≤ v) (hhi : v < -126 * 2 ^ t) {c : Int} (hc : c = max (v / 2 ^ t - 15) (-149)) :
    ∃ j d : Nat, (d : Int) = v - c * 2 ^ t ∧ Fmt.s.unpack (expOut false t v).1 = .fin false (j * 2 ^ (c + 149).toNat) (-149) ∧
      j ^ 2 ^ t ≤ 2 ^ d ∧ 2 ^ d < (j + 1) ^ 2 ^ t ∧ (expOut false t v).2 = if v % 2 ^ t = 0 then 0 else fUF ||| fNX := by
  rw [← le_div_iff] at hlo
  rw [← div_lt_iff] at hhi
  obtain ⟨f, hv, hf, hrest, hzero⟩ := parts_of t v
  obtain ⟨hglo, hghi, hle, hlt⟩ := expBits_spec hf
  obtain ⟨s, hs, hsum, hgrid⟩ := roundGrid_subnormal (g := expBits t f) hlo hhi
  rw [← hc] at hgrid hsum
  have hexact : f = 0 → expBits t f % 2 ^ s = 0 := by
    rintro rfl
    exact Nat.mod_eq_zero_of_dvd (pow_dvd_pow 2 hs)
  rw [expOut, if_neg (by omega), if_neg (by omega), hrest, approxOut_tiny _ (by omega) (by rw [bitLen_eq hglo hghi]; omega), hgrid]
  generalize v / 2 ^ t = i at *
  generalize expBits t f = g at *
  have hd : 2 ^ (15 * 2 ^ t + f) = 2 ^ ((i - c).toNat * 2 ^ t + f) * (2 ^ s) ^ 2 ^ t := by
    rw [← pow_mul, ← pow_add, ← hsum]
    congr 1
    ring
  have hpos : 0 < (2 ^ s) ^ 2 ^ t := by positivity
  refine ⟨g / 2 ^ s, (i - c).toNat * 2 ^ t + f, ?_, ?_, ?_, ?_, ?_⟩
  · exact (scaled_rest hv (by omega)).trans (by rw [show i - (i - c) = c by omega])
  · have hshift : 2 ^ (c + 149).toNat ≤ 2 ^ 7 := Nat.pow_le_pow_right (by decide) (by omega)
    have hcut : g / 2 ^ s < 2 ^ 16 := (Nat.div_le_self g _).trans_lt hghi
    have hfits : g / 2 ^ s * 2 ^ (c + 149).toNat < 2 ^ 16 * 2 ^ 7 := Nat.mul_lt_mul_of_lt_of_le hcut hshift (by positivity)
    simpa using unpack_subnormal (neg := false) hfits
  · refine Nat.le_of_mul_le_mul_right (hd ▸ ?_) hpos
    rw [← mul_pow]
    exact (Nat.pow_le_pow_left (Nat.div_mul_le_self g _) _).trans hle
  · refine Nat.lt_of_mul_lt_mul_right (a := (2 ^ s) ^ 2 ^ t) (hd ▸ ?_)
    rw [← mul_pow]
    exact hlt.trans_le (Nat.pow_le_pow_left (Nat.lt_mul_of_div_lt (Nat.lt_succ_self _) (by positivity)) _)
  · by_cases h0 : v % 2 ^ t = 0
    · rw [if_pos h0, decide_eq_false (not_not_intro h0), decide_eq_false (not_not_intro (hexact (hzero.mp h0)))]
      rfl
    · rw [if_neg h0, decide_eq_true h0]
      rfl

/-! ### The binary logarithm -/

/-- Whether 2^(r / 2^s) is at most the number m × 2^e, or, where that is below 1, at most its reciprocal. -/
def LogAtLeast (inv : Bool) (m : Nat) (e : Int) (s r : Nat) : Prop :=
  if inv then m ^ 2 ^ s * 2 ^ (e.toNat * 2 ^ s + r) ≤ 2 ^ ((-e).toNat * 2 ^ s)
  else 2 ^ (r + (-e).toNat * 2 ^ s) ≤ m ^ 2 ^ s * 2 ^ (e.toNat * 2 ^ s)

section
variable {inv : Bool}

theorem powLe_iff (hm : m ≠ 0) : powLe inv m e s r = true ↔ LogAtLeast inv m e s r := by
  have hpos : 0 < m ^ 2 ^ s := by positivity
  have he : e * 2 ^ s = ((e.toNat * 2 ^ s : Nat) : Int) - ((-e).toNat * 2 ^ s : Nat) := by
    push_cast
    rw [← sub_mul]
    congr 1
    omega
  rw [powLe, LogAtLeast, Int.neg_mul, he]
  generalize m ^ 2 ^ s = A at *
  generalize e.toNat * 2 ^ s = P at *
  generalize (-e).toNat * 2 ^ s = N at *
  cases inv
  · simp only [Bool.false_eq_true, if_false, Bool.or_eq_true, decide_eq_true_eq]
    by_cases hk : (r : Int) - (P - N) < 0
    · refine iff_of_true (.inl hk) ?_
      calc 2 ^ (r + N) ≤ 2 ^ P := Nat.pow_le_pow_right (by decide) (by omega)
        _ ≤ A * 2 ^ P := Nat.le_mul_of_pos_left _ hpos
    · rw [or_iff_right hk, ← Nat.mul_le_mul_right_iff (k := 2 ^ P) (by positivity), ← pow_add,
        show ((r : Int) - (P - N)).toNat + P = r + N by omega]
  · simp only [if_true, Bool.and_eq_true, decide_eq_true_eq]
    by_cases hk : 0 ≤ -((P : Int) - N) - r
    · rw [and_iff_right hk, ← Nat.mul_le_mul_right_iff (k := 2 ^ (P + r)) (by positivity), ← pow_add,
        show (-((P : Int) - N) - r).toNat + (P + r) = N by omega]
    · refine iff_of_false (fun h => hk h.1) (not_le.mpr ?_)
      calc 2 ^ N < 2 ^ (P + r) := Nat.pow_lt_pow_right (by decide) (by omega)
        _ ≤ A * 2 ^ (P + r) := Nat.le_mul_of_pos_left _ hpos

theorem logAtLeast_double : LogAtLeast inv m e (s + 1) (r * 2) ↔ LogAtLeast inv m e s r := by
  cases inv
  · simp only [LogAtLeast, Bool.false_eq_true, if_false]
    rw [show r * 2 + (-e).toNat * 2 ^ (s + 1) = (r + (-e).toNat * 2 ^ s) * 2 by ring,
      show e.toNat * 2 ^ (s + 1) = e.toNat * 2 ^ s * 2 by ring, pow_succ 2 s, pow_mul, pow_mul, pow_mul, ← mul_pow,
      Nat.pow_le_pow_iff_left (by decide)]
  · simp only [LogAtLeast, if_true]
    rw [show e.toNat * 2 ^ (s + 1) + r * 2 = (e.toNat * 2 ^ s + r) * 2 by ring,
      show (-e).toNat * 2 ^ (s + 1) = (-e).toNat * 2 ^ s * 2 by ring, pow_succ 2 s, pow_mul, pow_mul, pow_mul, ← mul_pow,
      Nat.pow_le_pow_iff_left (by decide)]

theorem logAtLeast_scale (j : Nat) : LogAtLeast inv m e (s + j) (r * 2 ^ j) ↔ LogAtLeast inv m e s r := by
  induction j with
  | zero => simp
  | succ j ih => rw [← Nat.add_assoc, pow_succ, ← Nat.mul_assoc, logAtLeast_double, ih]

theorem LogAtLeast.mono {q : Nat} (h : LogAtLeast inv m e s r) (hq : q ≤ r) : LogAtLeast inv m e s q := by
  cases inv
  · simp only [LogAtLeast, Bool.false_eq_true, if_false] at *
    exact (Nat.pow_le_pow_right (by decide) (by omega)).trans h
  · simp only [LogAtLeast, if_true] at *
    exact (Nat.mul_le_mul_left _ (Nat.pow_le_pow_right (by decide) (by omega))).trans h

/-! The logarithm of a number that is no power of two reaches 2^15 / 2^s for some s below 40. -/

theorem pow_succ_add_le (y k : Nat) : y ^ (k + 1) + (k + 1) * y ^ k ≤ (y + 1) ^ (k + 1) := by
  induction k with
  | zero => simp
  | succ k ih =>
    calc y ^ (k + 1 + 1) + (k + 1 + 1) * y ^ (k + 1) ≤ y ^ (k + 1 + 1) + (k + 1 + 1) * y ^ (k + 1) + (k + 1) * y ^ k :=
          Nat.le_add_right ..
      _ = (y ^ (k + 1) + (k + 1) * y ^ k) * (y + 1) := by ring
      _ ≤ (y + 1) ^ (k + 1) * (y + 1) := Nat.mul_le_mul_right _ ih
      _ = (y + 1) ^ (k + 1 + 1) := (pow_succ ..).symm

theorem two_mul_pow_le {y k : Nat} (hk : 0 < k) (hy : y ≤ k) : 2 * y ^ k ≤ (y + 1) ^ k := by
  cases k with
  | zero => omega
  | succ k =>
    have := pow_succ_add_le y k
    have : y ^ (k + 1) ≤ (k + 1) * y ^ k := by
      rw [pow_succ, Nat.mul_comm]
      exact Nat.mul_le_mul_right _ hy
    omega

/-- A logarithm of at least 1 / 2^s: of a number above 1, which is at least 2, or m over the power of two just below it. -/
theorem logAtLeast_above {b : Nat} (hm : 2 ^ b < m) (htop : 0 ≤ e + b) : ∃ s ≤ b, LogAtLeast false m e s 1 := by
  obtain htop | htop : 1 ≤ e + b ∨ e = -(b : Int) := by omega
  · refine ⟨0, b.zero_le, ?_⟩
    simp only [LogAtLeast, Bool.false_eq_true, if_false, pow_zero, Nat.mul_one, pow_one]
    calc 2 ^ (1 + (-e).toNat) ≤ 2 ^ (b + e.toNat) := Nat.pow_le_pow_right (by decide) (by omega)
      _ = 2 ^ b * 2 ^ e.toNat := pow_add ..
      _ ≤ m * 2 ^ e.toNat := Nat.mul_le_mul_right _ hm.le
  · refine ⟨b, le_rfl, ?_⟩
    simp only [LogAtLeast, Bool.false_eq_true, if_false]
    calc 2 ^ (1 + (-e).toNat * 2 ^ b) = 2 * (2 ^ b) ^ 2 ^ b := by
          rw [← pow_mul, pow_add, pow_one]
          congr 3
          omega
      _ ≤ (2 ^ b + 1) ^ 2 ^ b := two_mul_pow_le (by positivity) le_rfl
      _ ≤ m ^ 2 ^ b := Nat.pow_le_pow_left hm _
      _ ≤ m ^ 2 ^ b * 2 ^ (e.toNat * 2 ^ b) := Nat.le_mul_of_pos_right _ (by positivity)

/-- The same of the reciprocal of a number below 1. -/
theorem logAtLeast_below {b : Nat} (hm : m < 2 ^ (b + 1)) (htop : e + b < 0) : ∃ s ≤ b + 1, LogAtLeast true m e s 1 := by
  have he : e.toNat = 0 := by omega
  obtain htop | htop : e + b ≤ -2 ∨ e = -((b + 1 : Nat) : Int) := by omega
  · refine ⟨0, (b + 1).zero_le, ?_⟩
    simp only [LogAtLeast, if_true, pow_zero, Nat.mul_one, pow_one, he, Nat.zero_add]
    calc m * 2 ≤ 2 ^ (b + 1) * 2 := Nat.mul_le_mul_right _ hm.le
      _ = 2 ^ (b + 2) := (pow_succ ..).symm
      _ ≤ 2 ^ (-e).toNat := Nat.pow_le_pow_right (by decide) (by omega)
  · refine ⟨b + 1, le_rfl, ?_⟩
    simp only [LogAtLeast, if_true, he, Nat.zero_mul, Nat.zero_add, pow_one]
    calc m ^ 2 ^ (b + 1) * 2 = 2 * m ^ 2 ^ (b + 1) := Nat.mul_comm ..
      _ ≤ (m + 1) ^ 2 ^ (b + 1) := two_mul_pow_le (by positivity) hm.le
      _ ≤ (2 ^ (b + 1)) ^ 2 ^ (b + 1) := Nat.pow_le_pow_left hm _
      _ = 2 ^ ((-e).toNat * 2 ^ (b + 1)) := by rw [← pow_mul, show (-e).toNat = b + 1 by omega]

/-- The logarithm of a number of FP32 is below 2^15, and so is that of its reciprocal. -/
theorem not_logAtLeast_zero (h : Fmt.s.unpack x = .fin n m e) (hm : m ≠ 0) {r : Nat} (hr : 200 ≤ r) : ¬ LogAtLeast inv m e 0 r := by
  have hrange : m < 2 ^ 24 ∧ -149 ≤ e ∧ e ≤ 104 := by
    have := fin_range h
    omega
  cases inv
  · simp only [LogAtLeast, Bool.false_eq_true, if_false, pow_zero, Nat.mul_one, pow_one, not_le]
    calc m * 2 ^ e.toNat < 2 ^ 24 * 2 ^ e.toNat := Nat.mul_lt_mul_of_pos_right hrange.1 (by positivity)
      _ = 2 ^ (24 + e.toNat) := (pow_add ..).symm
      _ ≤ 2 ^ (r + (-e).toNat) := Nat.pow_le_pow_right (by decide) (by omega)
  · simp only [LogAtLeast, if_true, pow_zero, Nat.mul_one, pow_one, not_le]
    calc 2 ^ (-e).toNat < 2 ^ (e.toNat + r) := Nat.pow_lt_pow_right (by decide) (by omega)
      _ ≤ m * 2 ^ (e.toNat + r) := Nat.le_mul_of_pos_left _ (Nat.pos_of_ne_zero hm)

/-- The first s below 40 for which the logarithm reaches 2^15 / 2^s, and the greatest 16 bits that it reaches there. -/
theorem logBits_spec (h : Finite x n m e) (hex : ∃ s ≤ 24, LogAtLeast inv m e s 1) :
    ∃ s g, ((List.range 40).find? fun s => powLe inv m e s (2 ^ 15)) = some s ∧ greatest (powLe inv m e s) 15 (2 ^ 15) = g ∧ s < 40 ∧
      2 ^ 15 ≤ g ∧ g < 2 ^ 16 ∧ LogAtLeast inv m e s g ∧ ¬ LogAtLeast inv m e s (g + 1) := by
  obtain ⟨s0, hs0, hlog0⟩ := hex
  have hlog := (logAtLeast_scale 15).mpr hlog0
  rw [Nat.one_mul] at hlog
  cases hfind : (List.range 40).find? fun s => powLe inv m e s (2 ^ 15) with
  | none =>
    rw [List.find?_eq_none] at hfind
    exact absurd ((powLe_iff h.2).mpr hlog) (hfind (s0 + 15) (List.mem_range.mpr (by omega)))
  | some s =>
    obtain ⟨hreach, hs, hfirst⟩ := List.find?_range_eq_some.mp hfind
    have htop : ¬ LogAtLeast inv m e s (2 ^ 15 * 2) := by
      cases s with
      | zero => exact not_logAtLeast_zero h.1 h.2 (by decide)
      | succ s =>
        rw [logAtLeast_double, ← powLe_iff h.2]
        simpa using hfirst s (Nat.lt_succ_self s)
    obtain ⟨hlo, hhi, hp, hnext⟩ := greatest_spec (p := powLe inv m e s) (w := 15) hreach
      (Bool.eq_false_iff.mpr (mt (powLe_iff h.2).mp htop))
    exact ⟨s, _, rfl, rfl, List.mem_range.mp hs, hlo, hhi, (powLe_iff h.2).mp hp, fun hl => by
      rw [(powLe_iff h.2).mpr hl] at hnext
      cases hnext⟩

/-- Sixteen bits of the logarithm, with the next number above it in 24 bits. -/
theorem flog2_bits (h : Finite x false m e) (hnot : ∀ j : Nat, m ≠ 2 ^ j) (hinv : decide (e + bitLen m - 1 < 0) = inv)
    (hex : ∃ s ≤ 24, LogAtLeast inv m e s 1) : ∃ r s : Nat, Sixteen (flog2 ftz x).1 inv r (-(s : Int)) ∧ (flog2 ftz x).2 = fNX ∧
      LogAtLeast inv m e s r ∧ ¬ LogAtLeast inv m e s (r + 256) := by
  obtain ⟨s, g, hfind, hgreatest, hs, hlo, hhi, hreach, hnext⟩ := logBits_spec h hex
  obtain ⟨hout, hflags⟩ := approxOut_sixteen (ftz := ftz) (n := inv) (r := g) (j := 8) (e := -(s : Int)) true (by omega) (by omega)
    (by omega) (by omega) (by omega)
  have hres : flog2 ftz x = approxOut ftz inv g (-(s : Int)) true := by
    rw [flog2, h.1]
    simp only [h.2, if_false, Bool.false_eq_true, hnot, hinv, hfind, hgreatest]
  refine ⟨g * 2 ^ 8, s + 8, ?_, ?_, (logAtLeast_scale 8).mpr hreach, fun hl => hnext ((logAtLeast_scale 8).mp ?_)⟩
  · rw [hres]
    rwa [show -((s + 8 : Nat) : Int) = -(s : Int) - (8 : Nat) by omega]
  · rw [hres, hflags, if_pos rfl]
  · exact hl.mono (by omega)

end

theorem bitLen_lt_of_fin (h : Finite x n m e) : ∃ b, bitLen m = b + 1 ∧ 2 ^ b ≤ m ∧ m < 2 ^ (b + 1) ∧ b ≤ 23 := by
  obtain ⟨b, hb, hlo, hhi⟩ := bitLen_spec h.2
  have hm : m < 2 ^ 24 := by
    have := fin_range h.1
    omega
  exact ⟨b, hb, hlo, hhi, Nat.lt_succ_iff.mp (exp_lt hlo hm)⟩

theorem flog2_above (h : Finite x false m e) (hnot : ∀ j : Nat, m ≠ 2 ^ j) (htop : 0 ≤ e + bitLen m - 1) :
    ∃ r s : Nat, Sixteen (flog2 ftz x).1 false r (-(s : Int)) ∧ (flog2 ftz x).2 = fNX ∧
      2 ^ (r + (-e).toNat * 2 ^ s) ≤ m ^ 2 ^ s * 2 ^ (e.toNat * 2 ^ s) ∧
      m ^ 2 ^ s * 2 ^ (e.toNat * 2 ^ s) < 2 ^ (r + 256 + (-e).toNat * 2 ^ s) := by
  obtain ⟨b, hb, hlo, -, hb23⟩ := bitLen_lt_of_fin h
  have hex : ∃ s ≤ 24, LogAtLeast false m e s 1 := by
    obtain ⟨s, hs, hlog⟩ := logAtLeast_above (b := b) (e := e) (hlo.lt_of_ne (hnot b).symm) (by omega)
    exact ⟨s, by omega, hlog⟩
  obtain ⟨r, s, hout, hflags, hreach, hnext⟩ := flog2_bits (ftz := ftz) h hnot (decide_eq_false (by omega)) hex
  simp only [LogAtLeast, Bool.false_eq_true, if_false, not_le] at hreach hnext
  exact ⟨r, s, hout, hflags, hreach, hnext⟩

theorem flog2_below (h : Finite x false m e) (hnot : ∀ j : Nat, m ≠ 2 ^ j) (htop : e + bitLen m - 1 < 0) :
    ∃ r s : Nat, Sixteen (flog2 ftz x).1 true r (-(s : Int)) ∧ (flog2 ftz x).2 = fNX ∧
      m ^ 2 ^ s * 2 ^ (e.toNat * 2 ^ s + r) ≤ 2 ^ ((-e).toNat * 2 ^ s) ∧
      2 ^ ((-e).toNat * 2 ^ s) < m ^ 2 ^ s * 2 ^ (e.toNat * 2 ^ s + r + 256) := by
  obtain ⟨b, hb, -, hhi, hb23⟩ := bitLen_lt_of_fin h
  have hex : ∃ s ≤ 24, LogAtLeast true m e s 1 := by
    obtain ⟨s, hs, hlog⟩ := logAtLeast_below (b := b) (e := e) hhi (by omega)
    exact ⟨s, by omega, hlog⟩
  obtain ⟨r, s, hout, hflags, hreach, hnext⟩ := flog2_bits (ftz := ftz) h hnot (decide_eq_true htop) hex
  simp only [LogAtLeast, if_true, not_le, ← Nat.add_assoc] at hreach hnext
  exact ⟨r, s, hout, hflags, hreach, hnext⟩

/-- A whole number of at most 24 bits is its own result. -/
theorem round_of_small {q : Nat} (hq : q ≠ 0) (hq' : q < 2 ^ 24) : ∃ y, ∀ flush, Fmt.s.round 1 flush n q 0 = (y, 0) := by
  obtain ⟨b, -, hlo, hhi⟩ := bitLen_spec hq
  have hb : b < 24 := exp_lt hlo hq'
  have hfill : 2 ^ 24 = 2 ^ (b + 1) * 2 ^ (23 - b) := by
    rw [← pow_add]
    congr 1
    omega
  have hfill' : 2 ^ 23 = 2 ^ b * 2 ^ (23 - b) := by
    rw [← pow_add]
    congr 1
    omega
  exact ⟨_, fun flush => round_of_fits (s := 23 - b) rfl (hfill'.trans_le (Nat.mul_le_mul_right _ hlo))
    ((Nat.mul_lt_mul_of_pos_right hhi (by positivity)).trans_eq hfill.symm) rfl (by omega) (by omega)⟩

theorem flog2_two_pow (h : Finite x false m e) {j : Nat} (hj : m = 2 ^ j) : flog2 ftz x = fcvtSW 1 (e + j) := by
  have hlen : bitLen m = j + 1 := by rw [hj, bitLen_eq le_rfl (Nat.pow_lt_pow_succ (by decide))]
  have hrange : m < 2 ^ 24 ∧ -149 ≤ e ∧ e ≤ 104 := by
    have := fin_range h.1
    omega
  have hj24 : j < 24 := exp_lt hj.ge hrange.1
  rw [flog2, h.1]
  simp only [h.2, if_false, Bool.false_eq_true, hlen, Nat.add_sub_cancel]
  rw [show e + ((j + 1 : Nat) : Int) - 1 = e + j by omega, if_pos hj]
  by_cases htop : e + (j : Int) = 0
  · rw [if_pos htop, htop]
    rfl
  · obtain ⟨y, hy⟩ := round_of_small (n := decide (e + (j : Int) < 0)) (q := (e + (j : Int)).natAbs) (by omega) (by omega)
    rw [if_neg htop, approxOut_of_round (hy ftz), fcvtSW, Fmt.roundInt, if_neg htop, hy false, if_neg (by decide), Bool.false_and]
    rfl

/-! ### All four -/

theorem approximations : Approximations := by
  refine ⟨fun ftz x n m e h => ⟨frcp_normal h, frcp_huge h, ?_, ?_⟩, fun ftz x m e h => frsq_normal h, fun ftz x n m e t v h hv ht => ?_,
    fun ftz x m e h => ⟨fun j hj => flog2_two_pow h hj, flog2_above h, flog2_below h⟩, fun ftz m e x h => ?_, fun ftz => ?_,
    fun ftz x sig h f hf => ?_⟩
  · rintro he rfl
    exact frcp_subnormal h he
  · rintro he hm rfl
    exact frcp_flushed h he hm
  · rw [fexp2_of_finite h hv ht]
    refine ⟨expOut_normal, expOut_huge, expOut_vanishing, ?_, ?_⟩
    · rintro hlo hhi rfl
      exact expOut_flushed hlo hhi
    · rintro hlo hhi rfl g hg
      exact expOut_subnormal hlo hhi hg
  · rw [frsq, flog2, h.1]
    simp only [h.2, if_false, if_true]
    exact ⟨rfl, rfl⟩
  · cases ftz <;> decide +kernel
  · simp only [List.mem_cons, List.not_mem_nil, or_false] at hf
    obtain rfl | rfl | rfl | rfl := hf <;> cases sig <;> simp only [frcp, frsq, fexp2, flog2, h] <;> rfl

end Sys2Proof.Laws.Approximating
end

section
/-! SUPPORT. Blocks (R60–R65, R73, R179–R181): how they are packed, their product, how a block is formed, and how its product is accumulated. -/
namespace Sys2Proof.Laws.Blocks

open Sys2Proof Sys2Proof.Machine Sys2Proof.Claims Sys2Proof.Laws.Rounding

variable {m w k i j : Nat} {rm : BitVec 2}

/-! ### Rounding to a grid (R65) -/

theorem roundGrid_eq (rm : BitVec 2) (neg : Bool) (m : Nat) (e q : Int) : roundGrid rm neg m e q =
    (rounded rm neg (m * 2 ^ (e - q).toNat) (2 ^ (q - e).toNat), decide (m * 2 ^ (e - q).toNat % 2 ^ (q - e).toNat ≠ 0)) := by
  rw [roundGrid]
  by_cases h : q ≤ e
  · rw [if_pos h, show (q - e).toNat = 0 by omega, pow_zero, rounded, Nat.mod_one, Nat.div_one]
    simp
  · rw [if_neg h, show (e - q).toNat = 0 by omega, pow_zero, Nat.mul_one, rounded]
    generalize 2 ^ (q - e).toNat = d
    have hcases : rm = 0 ∨ rm = 1 ∨ rm = 2 ∨ rm = 3 := by
      revert rm
      decide
    obtain rfl | rfl | rfl | rfl := hcases
    · by_cases hup : d < 2 * (m % d) ∨ 2 * (m % d) = d ∧ m / d % 2 = 1 <;> simp [hup]
    · simp
    · by_cases hup : neg = true ∧ m % d ≠ 0 <;> simp [hup]
    · by_cases hup : neg = false ∧ m % d ≠ 0 <;> simp [hup]

/-! ### Digits of a string of bits (R61) -/

/-- A number put together from digits of `w` bits, the lowest first. -/
def ofDigits (w : Nat) (l : List Nat) : Nat := l.foldr (fun v acc => v + 2 ^ w * acc) 0

theorem testBit_ofDigits {l : List Nat} (hw : 0 < w) (hl : ∀ v ∈ l, v < 2 ^ w) (k : Nat) :
    (ofDigits w l).testBit k = (l.getD (k / w) 0).testBit (k % w) := by
  induction l generalizing k with
  | nil => simp [ofDigits]
  | cons v r ih =>
    rw [List.forall_mem_cons] at hl
    have hcons : ofDigits w (v :: r) = 2 ^ w * ofDigits w r + v := Nat.add_comm ..
    rw [hcons, Nat.testBit_two_pow_mul_add _ hl.1]
    split
    next hk => rw [Nat.div_eq_of_lt hk, Nat.mod_eq_of_lt hk, List.getD_cons_zero]
    next hk =>
      rw [ih hl.2, Nat.div_eq_sub_div (a := k) hw (by omega), List.getD_cons_succ, Nat.mod_eq_sub_mod (a := k) (by omega)]

theorem mod_two_pow_succ (v n : Nat) : v % 2 ^ (n + 1) = v % 2 ^ n + if v.testBit n = true then 2 ^ n else 0 := by
  rw [Nat.mod_pow_succ, Nat.testBit_eq_decide_div_mod_eq]
  rcases Nat.mod_two_eq_zero_or_one (v / 2 ^ n) with h | h <;> simp [h]

/-- The bits of a number below a place sum to its rest. -/
theorem sum_bits (v n : Nat) : ((List.range n).map fun i => if v.testBit i = true then (2 : Int) ^ i else 0).sum = (v % 2 ^ n : Nat) := by
  induction n with
  | zero => simp [Nat.mod_one]
  | succ n ih =>
    rw [List.range_succ, List.map_append, List.sum_append, ih, mod_two_pow_succ]
    cases h : v.testBit n <;> simp [h]

/-! ### The product of two blocks (R61, R62) -/

theorem blockBit_eq (ws : List Lane) (k : Nat) : blockBit ws k = (ofDigits 32 (ws.map BitVec.toNat)).testBit k := by
  rw [testBit_ofDigits (by decide), blockBit, ← BitVec.testBit_toNat]
  · congr 1
    simp [List.getD_eq_getElem?_getD, List.getElem?_map]
    cases ws[k / 32]? <;> rfl
  · intro v hv
    obtain ⟨b, -, rfl⟩ := List.mem_map.mp hv
    exact b.isLt

theorem mantissa_eq (hm : 0 < m) (ws : List Lane) (j : Nat) : mantissa m ws j = element m ws j := by
  obtain ⟨n, rfl⟩ : ∃ n, m = n + 1 := ⟨m - 1, by omega⟩
  have hword : ws.foldr (fun w acc => w.toNat + 2 ^ 32 * acc) 0 = ofDigits 32 (ws.map BitVec.toNat) := by
    rw [ofDigits, List.foldr_map]
  have hbit (i : Nat) : blockBit ws ((n + 1) * j + i) = (ofDigits 32 (ws.map BitVec.toNat) / 2 ^ ((n + 1) * j)).testBit i := by
    rw [blockBit_eq, Nat.testBit_div_two_pow, Nat.add_comm]
  simp only [mantissa, element, hword, hbit, Nat.add_sub_cancel, sum_bits, mantissa.signedOf32, mod_two_pow_succ]
  generalize ofDigits 32 (ws.map BitVec.toNat) / 2 ^ ((n + 1) * j) = v
  have hlow : v % 2 ^ n < 2 ^ n := Nat.mod_lt _ (by positivity)
  cases v.testBit n
  · simp [hlow]
  · simp
    ring

theorem blockProduct_eq (hm : 0 < m) (p q : List Lane) :
    blockProduct m p q = ((List.range 32).map fun j => element m p j * element m q j).sum := by
  simp only [blockProduct, mantissa_eq hm]
  rw [List.sum_eq_foldl, List.foldl_map]

/-! ### Packing (R61) -/

theorem getLsbD_packBlock {ms : List Int} (hm : 0 < m) (hw : w < m) (hi : i < 32) : ∃ d, (packBlock m ms)[w]? = some d ∧
    d.getLsbD i = (BitVec.ofInt m (ms.getD ((32 * w + i) / m) 0)).getLsbD ((32 * w + i) % m) := by
  have hstr : ms.foldr (fun v acc => (v % 2 ^ m).toNat + 2 ^ m * acc) 0 = ofDigits m (ms.map fun v => (v % 2 ^ m).toNat) := by
    rw [ofDigits, List.foldr_map]
  have hdigits : ∀ v ∈ ms.map (fun v : Int => (v % 2 ^ m).toNat), v < 2 ^ m := by
    intro v hv
    obtain ⟨z, -, rfl⟩ := List.mem_map.mp hv
    have hpos : (0 : Int) < 2 ^ m := by positivity
    have := Int.emod_lt_of_pos z hpos
    have := Int.emod_nonneg z hpos.ne'
    zify
    omega
  refine ⟨_, by rw [packBlock, List.getElem?_map, List.getElem?_range hw, Option.map_some], ?_⟩
  rw [hstr, BitVec.getLsbD_ofNat, decide_eq_true hi, Bool.true_and, Nat.testBit_div_two_pow, Nat.add_comm i, testBit_ofDigits hm hdigits,
    ← BitVec.testBit_toNat, BitVec.toNat_ofInt]
  congr 1
  simp [List.getD_eq_getElem?_getD, List.getElem?_map]
  cases ms[(32 * w + i) / m]? <;> simp

/-! ### Forming a block (R64) -/

section
variable {h : Int} {vs : List Lane} {xs : List FVal}

/-- The fold that finds the largest exponent of some numbers. -/
def maxLog (o : Option Int) (xs : List FVal) : Option Int :=
  xs.foldl (fun (b : Option Int) x => match x with
    | .fin _ 0 _ => b
    | .fin _ k e => match b with
      | none => some (floorLog2 k e)
      | some y => some (max y (floorLog2 k e))
    | _ => b) o

/-- The larger of an exponent, if there is one yet, and another. -/
def larger (o : Option Int) (y : Int) : Int := match o with
  | none => y
  | some z => max z y

theorem larger_eq {o : Option Int} {y : Int} (ho : ∀ z, o = some z → z ≤ h) (hy : y ≤ h) (heq : o = some h ∨ y = h) :
    larger o y = h := by
  cases o with
  | none => simpa [larger] using heq
  | some z =>
    have := ho z rfl
    simp only [larger, Option.some.injEq] at *
    omega

theorem larger_le {o : Option Int} {y : Int} (ho : ∀ z, o = some z → z ≤ h) (hy : y ≤ h) : larger o y ≤ h := by
  cases o with
  | none => exact hy
  | some z => exact max_le (ho z rfl) hy

/-- A finite number below 2^(h+1) in magnitude. -/
def Within (h : Int) (x : FVal) : Prop := ∃ n k e, x = .fin n k e ∧ k < 2 ^ (h + 1 - e).toNat

/-- A number of at least 2^h in magnitude. -/
def Reaching (h : Int) (x : FVal) : Prop := ∃ n k e, x = .fin n k e ∧ e ≤ h ∧ 2 ^ (h - e).toNat ≤ k

theorem exp_lt_of {a c p : Nat} (hlo : 2 ^ a ≤ p) (hhi : p < 2 ^ c) : a < c := (Nat.pow_lt_pow_iff_right (by decide)).mp (hlo.trans_lt hhi)

theorem floorLog2_le {p : Nat} {e : Int} (hp : p ≠ 0) (hlt : p < 2 ^ (h + 1 - e).toNat) : floorLog2 p e ≤ h := by
  obtain ⟨b, hb, hlo, -⟩ := bitLen_spec hp
  have := exp_lt_of hlo hlt
  rw [floorLog2, hb]
  omega

theorem floorLog2_eq {p : Nat} {e : Int} (hlt : p < 2 ^ (h + 1 - e).toNat) (he : e ≤ h) (hge : 2 ^ (h - e).toNat ≤ p) : floorLog2 p e = h := by
  rw [floorLog2, bitLen_eq (b := (h - e).toNat) hge (by rwa [show (h - e).toNat + 1 = (h + 1 - e).toNat by omega])]
  omega

theorem maxLog_eq {o : Option Int} (ho : ∀ y, o = some y → y ≤ h) (hxs : ∀ x ∈ xs, Within h x)
    (hreach : o = some h ∨ ∃ x ∈ xs, Reaching h x) : maxLog o xs = some h := by
  induction xs generalizing o with
  | nil => simpa [maxLog] using hreach
  | cons x r ih =>
    rw [List.forall_mem_cons] at hxs
    obtain ⟨⟨n, p, e, rfl, hlt⟩, hr⟩ := hxs
    cases p with
    | zero =>
      refine ih ho hr (hreach.imp_right ?_)
      rintro ⟨x, hx, hx'⟩
      obtain rfl | hx := List.mem_cons.mp hx
      · obtain ⟨n', p', e', heq, -, hge⟩ := hx'
        cases heq
        exact absurd hge (not_le.mpr (by positivity))
      · exact ⟨x, hx, hx'⟩
    | succ p =>
      have hle := floorLog2_le (Nat.succ_ne_zero p) hlt
      have hstep : maxLog o (.fin n (p + 1) e :: r) = maxLog (some (larger o (floorLog2 (p + 1) e))) r := by cases o <;> rfl
      rw [hstep]
      refine ih (fun y hy => Option.some.inj hy ▸ larger_le ho hle) hr ?_
      obtain ho' | ⟨x, hx, hx'⟩ := hreach
      · exact .inl (congrArg some (larger_eq ho hle (.inl ho')))
      · obtain rfl | hx := List.mem_cons.mp hx
        · obtain ⟨n', p', e', heq, he, hge⟩ := hx'
          cases heq
          exact .inl (congrArg some (larger_eq ho hle (.inr (floorLog2_eq hlt he hge))))
        · exact .inr ⟨x, hx, hx'⟩

/-- What `bquant` makes of one value, with its flags. -/
def quantPair (m : Nat) (rm : BitVec 2) (q : Int) (x : FVal) : Int × Flags :=
  ((quantised m rm q x).1, if (quantised m rm q x).2.1 = true then fSAT ||| fNX else flagIf (quantised m rm q x).2.2 fNX)

theorem clamped_eq {lo hi v : Int} (hle : lo ≤ hi) (ix : Bool) :
    (if v > hi then (hi, fSAT ||| fNX) else if v < lo then (lo, fSAT ||| fNX) else (v, flagIf ix fNX)) =
      (max lo (min hi v), if decide (v < lo ∨ hi < v) = true then fSAT ||| fNX else flagIf ix fNX) := by
  split
  next h => simp [h, hle, min_eq_left (le_of_lt h)]
  next h =>
    split
    next h' => simp [h', (min_le_right hi v).trans h'.le]
    next h' => simp [h, h', min_eq_right (not_lt.mp h), max_eq_right (not_lt.mp h')]

/-- The same as the model forms it. -/
def quantLane (m : Nat) (rm : BitVec 2) (q : Int) (x : FVal) : Int × Flags :=
  let hi : Int := 2 ^ (m - 1) - 1
  let lo : Int := -2 ^ (m - 1)
  match x with
  | .fin n k ex =>
    let (r, ix) := roundGrid rm n k ex q
    let v : Int := if n then -(r : Int) else r
    if v > hi then (hi, fSAT ||| fNX) else if v < lo then (lo, fSAT ||| fNX) else (v, flagIf ix fNX)
  | _ => ((0 : Int), (0 : Flags))

theorem quantLane_eq (m : Nat) (rm : BitVec 2) (q : Int) (x : FVal) : quantLane m rm q x = quantPair m rm q x := by
  have hpos : (1 : Int) ≤ 2 ^ (m - 1) := one_le_pow₀ (by decide)
  cases x with
  | nan s => rfl
  | inf n => rfl
  | fin n k ex =>
    have hsign (r : Nat) : (if n = true then -(r : Int) else r) = (if n = true then -1 else 1) * r := by split <;> simp
    simp only [quantLane, roundGrid_eq, hsign, clamped_eq (show -(2 : Int) ^ (m - 1) ≤ 2 ^ (m - 1) - 1 by omega)]
    rfl

theorem bquantOf_eq (m : Nat) (rm : BitVec 2) (vs : List Lane) : bquantOf m rm vs =
    let xs := vs.map fun v => Fmt.s.unpack v.toNat
    let E := max ((maxLog none xs).getD 0 + 127) 1
    let rs := xs.map (quantLane m rm (E - 125 - m))
    if xs.any (fun x => x.isNan || x.isInf) then (255, vs.map fun _ => 0, fNV)
    else if xs.all FVal.isZero then (0, vs.map fun _ => 0, 0)
    else (E.toNat, rs.map Prod.fst, rs.foldl (fun f p => f ||| p.2) 0) := rfl

theorem foldl_or_or {α : Type} (A B : α → Flags) (l : List α) (f g : Flags) :
    l.foldl (fun f r => f ||| (A r ||| B r)) (f ||| g) = l.foldl (fun f r => f ||| A r) f ||| l.foldl (fun f r => f ||| B r) g := by
  induction l generalizing f g with
  | nil => rfl
  | cons r l ih =>
    rw [List.foldl_cons, List.foldl_cons, List.foldl_cons, ← ih]
    congr 1
    grind

theorem foldl_flagIf {α : Type} (p : α → Bool) (c : Flags) (l : List α) (f : Flags) :
    l.foldl (fun f r => f ||| flagIf (p r) c) f = f ||| flagIf (l.any p) c := by
  induction l generalizing f with
  | nil => simp [flagIf]
  | cons r l ih =>
    rw [List.foldl_cons, ih, List.any_cons]
    cases p r <;> cases l.any p <;> simp [flagIf, BitVec.or_assoc]

theorem foldl_flags (l : List (Int × Bool × Bool)) :
    l.foldl (fun f r => f ||| if r.2.1 = true then fSAT ||| fNX else flagIf r.2.2 fNX) 0 =
      (if ∃ r ∈ l, r.2.1 = true then fSAT else 0) ||| if ∃ r ∈ l, r.2.1 = true ∨ r.2.2 = true then fNX else 0 := by
  have hsplit (r : Int × Bool × Bool) : (if r.2.1 = true then fSAT ||| fNX else flagIf r.2.2 fNX) =
      flagIf r.2.1 fSAT ||| flagIf (r.2.1 || r.2.2) fNX := by
    obtain ⟨v, cut, ix⟩ := r
    cases cut <;> cases ix <;> simp [flagIf]
  have hboth := foldl_or_or (fun r : Int × Bool × Bool => flagIf r.2.1 fSAT) (fun r => flagIf (r.2.1 || r.2.2) fNX) l 0 0
  rw [foldl_flagIf, foldl_flagIf] at hboth
  simp only [hsplit]
  refine hboth.trans ?_
  simp only [flagIf, List.any_eq_true, Bool.or_eq_true]
  exact congrArg₂ (· ||| ·) BitVec.zero_or BitVec.zero_or

theorem bquantOf_infinite (h : ∃ v ∈ vs, (Fmt.s.unpack v.toNat).isNan = true ∨ (Fmt.s.unpack v.toNat).isInf = true) :
    bquantOf m rm vs = (255, vs.map fun _ => 0, fNV) := by
  have hany : (vs.map fun v => Fmt.s.unpack v.toNat).any (fun x => x.isNan || x.isInf) = true := by simpa using h
  rw [bquantOf_eq]
  simp only [hany, if_true]

theorem bquantOf_zero (h : ∀ v ∈ vs, v = 0 ∨ v = 0x80000000) : bquantOf m rm vs = (0, vs.map fun _ => 0, 0) := by
  have hread (v : Lane) (hv : v ∈ vs) : ∃ n, Fmt.s.unpack v.toNat = .fin n 0 (-149) := by
    obtain rfl | rfl := h v hv
    · exact ⟨false, rfl⟩
    · exact ⟨true, rfl⟩
  have hany : (vs.map fun v => Fmt.s.unpack v.toNat).any (fun x => x.isNan || x.isInf) = false := by
    simp only [List.any_map, List.any_eq_false, Function.comp]
    intro v hv
    obtain ⟨n, hn⟩ := hread v hv
    rw [hn]
    exact Bool.false_ne_true
  have hall : (vs.map fun v => Fmt.s.unpack v.toNat).all FVal.isZero = true := by
    simp only [List.all_map, List.all_eq_true, Function.comp]
    intro v hv
    obtain ⟨n, hn⟩ := hread v hv
    rw [hn]
    rfl
  rw [bquantOf_eq]
  simp only [hany, hall, if_true, Bool.false_eq_true, if_false]

theorem bquantOf_finite (hxs : xs = vs.map fun v => Fmt.s.unpack v.toNat) (hin : ∀ x ∈ xs, Within h x)
    (hreach : ∃ x ∈ xs, Reaching h x) {E : Int} (hE : E = max (h + 127) 1) : bquantOf m rm vs =
      (E.toNat, xs.map fun x => (quantPair m rm (E - 125 - m) x).1,
        (xs.map (quantPair m rm (E - 125 - m))).foldl (fun f p => f ||| p.2) 0) := by
  have hany : xs.any (fun x => x.isNan || x.isInf) = false := by
    rw [List.any_eq_false]
    intro x hx
    obtain ⟨n, k, e, rfl, -⟩ := hin x hx
    exact Bool.false_ne_true
  have hall : xs.all FVal.isZero = false := by
    obtain ⟨x, hx, n, k, e, rfl, -, hk⟩ := hreach
    rw [List.all_eq_false]
    refine ⟨_, hx, ?_⟩
    cases k with
    | zero => exact absurd hk (not_le.mpr (by positivity))
    | succ k => exact Bool.false_ne_true
  have hlog := maxLog_eq (o := none) (by simp) hin (.inr hreach)
  rw [bquantOf_eq]
  simp only [← hxs, hany, hall, if_false, Bool.false_eq_true, hlog, Option.getD_some, ← hE, List.map_map]
  rw [show quantLane m rm (E - 125 - m) = quantPair m rm (E - 125 - m) from funext (quantLane_eq m rm _)]
  rfl

end

/-! ### Accumulating a product (R63, R67, R181) -/

theorem scacc_of_nan {a b c acc : Lane} (h : (Fmt.s.unpack b.toNat).isNan = true ∨ (Fmt.s.unpack c.toNat).isNan = true ∨
    (Fmt.s.unpack acc.toNat).isNan = true) : scacc rm a b c acc = (0x7FC00000, fNV) := by
  have hany : ((Fmt.s.unpack b.toNat).isNan || (Fmt.s.unpack c.toNat).isNan || (Fmt.s.unpack acc.toNat).isNan) = true := by
    simpa [or_assoc] using h
  rw [scacc, if_pos hany]

/-- A product of a whole number and two finite numbers, added to a finite number. -/
structure Accumulates (a b c acc : Lane) (n1 : Bool) (m1 : Nat) (e1 : Int) (n2 : Bool) (m2 : Nat) (e2 : Int) (n0 : Bool) (m0 : Nat)
    (e0 : Int) : Prop where
  left : Fmt.s.unpack b.toNat = .fin n1 m1 e1
  right : Fmt.s.unpack c.toNat = .fin n2 m2 e2
  base : Fmt.s.unpack acc.toNat = .fin n0 m0 e0

section
variable {a b c acc : Lane} {n0 n1 n2 : Bool} {m0 m1 m2 : Nat} {e0 e1 e2 p E V : Int}

/-- The sign and the size of the product that `scacc` adds. -/
theorem product_eq : (FVal.fin ((decide (a.toInt < 0) != n1) != n2) (a.toInt.natAbs * m1 * m2) (0 + e1 + e2)).dy =
    (a.toInt * ((if n1 = true then -1 else 1) * m1) * ((if n2 = true then -1 else 1) * m2), e1 + e2) := by
  have habs : |a.toInt| = if a.toInt < 0 then -a.toInt else a.toInt := by
    split
    next h => exact abs_of_neg h
    next h => exact abs_of_nonneg (not_lt.mp h)
  rw [FVal.dy, zero_add]
  push_cast
  rw [habs]
  by_cases hneg : a.toInt < 0 <;> cases n1 <;> cases n2 <;> simp [hneg]

/-- `scacc` rounds the exact sum; an exact zero has the sign of two zeros, or that of the rounding. -/
theorem scacc_of_finite (h : Accumulates a b c acc n1 m1 e1 n2 m2 e2 n0 m0 e0)
    (hp : p = a.toInt * ((if n1 = true then -1 else 1) * m1) * ((if n2 = true then -1 else 1) * m2)) (hE : E = min e0 (e1 + e2))
    (hV : V = (if n0 = true then -1 else 1) * m0 * 2 ^ (e0 - E).toNat + p * 2 ^ (e1 + e2 - E).toNat) :
    scacc rm a b c acc = laneOf (Fmt.s.roundInt rm true
      (if decide (m0 = 0) && decide (a.toInt.natAbs * m1 * m2 = 0) && n0 == ((decide (a.toInt < 0) != n1) != n2) then n0 else rm == 2)
      V E) := by
  have hbase : (FVal.fin n0 m0 e0).dy = ((if n0 = true then (-1 : Int) else 1) * (m0 : Int), e0) := by
    cases n0 <;> simp [FVal.dy]
  have hzero (n : Bool) (k : Nat) (e : Int) : (FVal.fin n k e).isZero = decide (k = 0) := by
    cases k <;> rfl
  have hsum : Dy.add (FVal.fin n0 m0 e0).dy (FVal.fin ((decide (a.toInt < 0) != n1) != n2) (a.toInt.natAbs * m1 * m2) (0 + e1 + e2)).dy =
      (V, E) := by
    rw [hbase, product_eq, ← hp, Dy.add, ← hE, hV]
  have hexp : scacc rm a b c acc = laneOf (fsum .s rm true (.fin n0 m0 e0)
      (.fin ((decide (a.toInt < 0) != n1) != n2) (a.toInt.natAbs * m1 * m2) (0 + e1 + e2))) := by
    simp only [scacc, h.left, h.right, h.base]
    rfl
  rw [hexp]
  simp only [fsum, hsum, hzero]
  rfl

theorem zero_lane (n : Bool) : laneOf (Fmt.s.zero n, 0) = (if n = true then 0x80000000 else 0, 0) := by cases n <;> rfl

theorem scacc_nonzero (h : Accumulates a b c acc n1 m1 e1 n2 m2 e2 n0 m0 e0)
    (hp : p = a.toInt * ((if n1 = true then -1 else 1) * m1) * ((if n2 = true then -1 else 1) * m2)) (hE : E = min e0 (e1 + e2))
    (hV : V = (if n0 = true then -1 else 1) * m0 * 2 ^ (e0 - E).toNat + p * 2 ^ (e1 + e2 - E).toNat) (hne : V ≠ 0) :
    scacc rm a b c acc = laneOf (Fmt.s.round rm true (decide (V < 0)) V.natAbs E) := by
  rw [scacc_of_finite h hp hE hV, Fmt.roundInt, if_neg hne]

/-- A normal number is what it reads as. -/
theorem eq_of_unpack_normal (h : Fmt.s.unpack acc.toNat = .fin n0 m0 e0) (hm : 2 ^ 23 ≤ m0) : m0 < 2 ^ 24 ∧ -149 ≤ e0 ∧ e0 ≤ 104 ∧
    acc.toNat = signOf n0 + (e0 + 150).toNat * 2 ^ 23 + (m0 - 2 ^ 23) := by
  have hacc : acc.toNat < 2 ^ 32 := acc.isLt
  rw [unpack_s] at h
  split at h
  · split at h <;> cases h
  · split at h
    · cases h
      omega
    next hinf hsub =>
      injection h with hn hm' he
      have hsign : signOf n0 = acc.toNat / 2 ^ 31 * 2 ^ 31 := by
        rw [← hn]
        obtain hz | hz : acc.toNat / 2 ^ 31 = 0 ∨ acc.toNat / 2 ^ 31 = 1 := by omega
        · rw [hz]; rfl
        · rw [hz]; rfl
      rw [hsign]
      omega

theorem scacc_of_zero_product (h : Accumulates a b c acc n1 m1 e1 n2 m2 e2 n0 m0 e0)
    (hp : p = a.toInt * ((if n1 = true then -1 else 1) * m1) * ((if n2 = true then -1 else 1) * m2)) (hE : E = min e0 (e1 + e2))
    (hV : V = (if n0 = true then -1 else 1) * m0 * 2 ^ (e0 - E).toNat + p * 2 ^ (e1 + e2 - E).toNat) (hp0 : p = 0) (hm : 2 ^ 23 ≤ m0) :
    scacc rm a b c acc = (acc, 0) := by
  obtain ⟨hm', he, he', hacc⟩ := eq_of_unpack_normal h.base hm
  have hpow : 0 < 2 ^ (e0 - E).toNat := by positivity
  rw [hp0, zero_mul, add_zero] at hV
  have hsize : V.natAbs = m0 * 2 ^ (e0 - E).toNat := by
    rw [hV]
    cases n0 <;> simp [Int.natAbs_mul, Int.natAbs_pow]
  have hneg : decide (V < 0) = n0 := by
    have hpos : (0 : Int) < m0 * 2 ^ (e0 - E).toNat := by positivity
    rw [hV]
    cases n0
    · simp [hpos.le]
    · simpa using hpos
  have hne : V ≠ 0 := by
    rw [← Int.natAbs_ne_zero, hsize]
    positivity
  rw [scacc_nonzero h hp hE (by rw [hV, hp0]; ring) hne, hneg, hsize]
  have hgrid : roundGrid rm n0 (m0 * 2 ^ (e0 - E).toNat) E e0 = (m0, false) := by
    rw [roundGrid_eq, show (E - e0).toNat = 0 by omega, pow_zero, Nat.mul_one, rounded, Nat.mul_mod_left, Nat.mul_div_cancel _ hpow]
    simp [hpow.ne]
  have hlen : E + bitLen (m0 * 2 ^ (e0 - E).toNat) - 24 = e0 := by
    rw [bitLen_shift (by omega), bitLen_eq hm hm']
    omega
  rw [round_of_grid hlen hgrid hm' he he', ← hacc, laneOf, BitVec.ofNat_toNat, BitVec.setWidth_eq]

theorem scacc_cancelled (h : Accumulates a b c acc n1 m1 e1 n2 m2 e2 n0 m0 e0)
    (hp : p = a.toInt * ((if n1 = true then -1 else 1) * m1) * ((if n2 = true then -1 else 1) * m2)) (hE : E = min e0 (e1 + e2))
    (hV : V = (if n0 = true then -1 else 1) * m0 * 2 ^ (e0 - E).toNat + p * 2 ^ (e1 + e2 - E).toNat) (hp0 : p ≠ 0) (hV0 : V = 0) :
    scacc rm a b c acc = (if rm = 2 then 0x80000000 else 0, 0) := by
  have hsize : ¬ a.toInt.natAbs * m1 * m2 = 0 := by
    intro h0
    refine hp0 ?_
    simp only [Nat.mul_eq_zero, Int.natAbs_eq_zero] at h0
    obtain (h0 | h0) | h0 := h0 <;> rw [hp, h0] <;> simp
  rw [scacc_of_finite h hp hE hV, Fmt.roundInt, if_pos hV0, zero_lane]
  simp [hsize]

theorem scacc_zeros (h : Accumulates a b c acc n1 m1 e1 n2 m2 e2 n0 m0 e0)
    (hp : p = a.toInt * ((if n1 = true then -1 else 1) * m1) * ((if n2 = true then -1 else 1) * m2)) (hE : E = min e0 (e1 + e2))
    (hV : V = (if n0 = true then -1 else 1) * m0 * 2 ^ (e0 - E).toNat + p * 2 ^ (e1 + e2 - E).toNat) (hp0 : p = 0)
    (hacc : acc = 0x80000000) (ha : 0 ≤ a.toInt) (hn : n1 = n2) : scacc rm a b c acc = (if rm = 2 then 0x80000000 else 0, 0) := by
  obtain ⟨rfl, rfl, rfl⟩ : n0 = true ∧ m0 = 0 ∧ e0 = -149 := by
    have hbase := h.base
    rw [hacc, show Fmt.s.unpack (0x80000000 : Lane).toNat = .fin true 0 (-149) from rfl] at hbase
    cases hbase
    exact ⟨rfl, rfl, rfl⟩
  have hV0 : V = 0 := by simp [hV, hp0]
  rw [scacc_of_finite h hp hE hV, Fmt.roundInt, if_pos hV0, zero_lane]
  simp [hn, not_lt.mpr ha]

end

/-! ### All of them -/

theorem blockOperations : BlockOperations := by
  refine ⟨roundGrid_eq, fun m p q hm _ => blockProduct_eq (by omega) p q, fun m rm vs _ _ => ⟨bquantOf_infinite, bquantOf_zero, ?_⟩,
    fun m ms w i hm _ _ hw hi => getLsbD_packBlock (by omega) hw hi, fun rm a b c acc h => scacc_of_nan h, ?_⟩
  · intro h E rs hin hreach hE hrs
    have hin' : ∀ x ∈ vs.map (fun v => Fmt.s.unpack v.toNat), Within h x := by
      simpa [Within] using hin
    have hreach' : ∃ x ∈ vs.map (fun v => Fmt.s.unpack v.toNat), Reaching h x := by
      simpa [Reaching] using hreach
    rw [bquantOf_finite rfl hin' hreach' hE, hrs, ← foldl_flags]
    simp only [List.map_map, List.foldl_map]
    rfl
  · intro rm a b c acc n1 m1 e1 n2 m2 e2 n0 m0 e0 p E V hb hc hacc hp hE hV
    have h : Accumulates a b c acc n1 m1 e1 n2 m2 e2 n0 m0 e0 := ⟨hb, hc, hacc⟩
    exact ⟨scacc_nonzero h hp hE hV, scacc_of_zero_product h hp hE hV, scacc_cancelled h hp hE hV, scacc_zeros h hp hE hV⟩

end Sys2Proof.Laws.Blocks
end

section
/-! SUPPORT. Lanes and masks of link records: `filter`, `merge`, `exit`, what a unit emits and what a stage gives (R166–R168, R178–R187). -/
namespace Sys2Proof.Laws.Records

open Sys2Proof Sys2Proof.Machine Sys2Proof.Claims

variable {i n k : Nat} {v : BitVec 240} {x : StageIn} {l : List LinkRec}

/-! ### Masks -/

theorem getLsbD_foldl_or (f : Nat → Bool) (l : List Nat) (w : BitVec 16) (hi : i < 16) :
    (l.foldl (fun m j => if f j then m ||| (1#16 <<< j) else m) w).getLsbD i = (w.getLsbD i || (decide (i ∈ l) && f i)) := by
  induction l generalizing w with
  | nil => simp
  | cons j r ih =>
    rw [List.foldl_cons, ih]
    by_cases hij : i = j
    · subst hij
      cases hf : f i
      · simp
      · simp [hi]
    · have hone : (1#16 <<< j).getLsbD i = false := by
        simp only [BitVec.getLsbD_shiftLeft, BitVec.getLsbD_one]
        grind
      cases hf : f j <;> simp [hone, hij]

@[simp] theorem getLsbD_maskOf (f : Nat → Bool) (hi : i < 16) : (maskOf f).getLsbD i = f i := by
  rw [maskOf, getLsbD_foldl_or f _ _ hi]
  simp [hi]

/-- A mask of 16 lanes is 0 exactly where no lane is in it. -/
theorem mask_eq_zero_iff {w : BitVec 16} : w = 0 ↔ ∀ i < 16, w.getLsbD i = false := by
  constructor
  · rintro rfl i -
    exact BitVec.getLsbD_zero
  · intro h
    exact BitVec.eq_of_getLsbD_eq fun i hi => by simpa using h i hi

theorem getLsbD_foldl_and (f : LinkRec → BitVec 16) (w : BitVec 16) :
    (l.foldl (fun m r => m &&& f r) w).getLsbD i = true ↔ w.getLsbD i = true ∧ ∀ r ∈ l, (f r).getLsbD i = true := by
  induction l generalizing w with
  | nil => simp
  | cons r l ih => rw [List.foldl_cons, ih, BitVec.getLsbD_and, Bool.and_eq_true, List.forall_mem_cons, and_assoc]

/-- The lanes that every record of a list has in a mask. -/
theorem getLsbD_common (f : LinkRec → BitVec 16) (hi : i < 16) :
    (l.foldl (fun m r => m &&& f r) (BitVec.allOnes 16)).getLsbD i = true ↔ ∀ r ∈ l, (f r).getLsbD i = true := by
  rw [getLsbD_foldl_and f, BitVec.getLsbD_allOnes, decide_eq_true hi]
  exact ⟨And.right, And.intro rfl⟩

theorem getLsbD_performed (hi : i < 16) : (performed l).getLsbD i = true ↔ ∀ r ∈ l, r.m.getLsbD i = true ∧ r.a.getLsbD i = true := by
  rw [performed]
  simp only [BitVec.and_assoc, getLsbD_common (fun r => r.m &&& r.a) hi, BitVec.getLsbD_and, Bool.and_eq_true]

/-! ### `filter`, `merge` and `exit` (R184, R185, R187) -/

theorem filterOut_getLsbD (imm : Nat) (a : LinkRec) (b : List Lane) (hi : i < 16) :
    let pred : Prop := if imm % 2 = 0 then b.getD i 0 ≠ 0 else a.t.toNat = imm / 256 % 256
    ((filterOut imm a b).1.m.getLsbD i = true ↔ a.m.getLsbD i = true ∧ pred) ∧
    ((filterOut imm a b).1.a.getLsbD i = true ↔ a.a.getLsbD i = true ∧ pred) ∧
    ((filterOut imm a b).2.m.getLsbD i = true ↔ a.m.getLsbD i = true ∧ ¬ pred) ∧
    ((filterOut imm a b).2.a.getLsbD i = true ↔ a.a.getLsbD i = true ∧ ¬ pred) := by
  have htag : bitsOf imm 15 8 = imm / 256 % 256 := rfl
  by_cases himm : imm % 2 = 0
  · simp [filterOut, himm, hi, -BitVec.getLsbD_eq_getElem]
  · by_cases ht : a.t.toNat = imm / 256 % 256
    · simp [filterOut, himm, htag, ht, -BitVec.getLsbD_eq_getElem, -BitVec.reduceAllOnes]
    · simp [filterOut, himm, htag, ht, -BitVec.getLsbD_eq_getElem, -BitVec.reduceAllOnes]

theorem filterOut_keeps (imm : Nat) (a : LinkRec) (b : List Lane) (r : LinkRec)
    (h : r = (filterOut imm a b).1 ∨ r = (filterOut imm a b).2) : r.v = a.v ∧ r.t = a.t ∧ r.p = a.p := by
  obtain rfl | rfl := h <;> exact ⟨rfl, rfl, rfl⟩

theorem recombine_lanes (a b : LinkRec) (hi : i < 16) :
    (recombine a b).m.getLsbD i = (a.m.getLsbD i || b.m.getLsbD i) ∧ (recombine a b).a.getLsbD i = (a.a.getLsbD i || b.a.getLsbD i) ∧
    (recombine a b).v[i]? = some (if a.m.getLsbD i then a.v.getD i 0 else b.v.getD i 0) ∧ (recombine a b).t = a.t ∧
    (recombine a b).p = a.p := by
  simp [recombine, bit16, hi]

/-- The lanes that stay active in a loop: those whose predicate does not hold. -/
def staying (a : LinkRec) (b : List Lane) : BitVec 16 := a.a &&& ~~~(maskOf fun i => b.getD i 0 ≠ 0)

theorem getLsbD_staying (a : LinkRec) (b : List Lane) (hi : i < 16) :
    (staying a b).getLsbD i = true ↔ a.a.getLsbD i = true ∧ b.getD i 0 = 0 := by
  simp [staying, hi, -BitVec.getLsbD_eq_getElem]

theorem exitOut_eq (a : LinkRec) (b : List Lane) : exitOut a b =
    if staying a b = 0 then ({ a with a := a.m, p := 0 }, true) else ({ a with a := staying a b }, false) := rfl

theorem exitOut_leaves (a : LinkRec) (b : List Lane) (h : ∀ i < 16, a.a.getLsbD i = true → b.getD i 0 ≠ 0) :
    exitOut a b = ({ a with a := a.m, p := 0 }, true) := by
  rw [exitOut_eq, if_pos]
  rw [mask_eq_zero_iff]
  intro i hi
  rw [Bool.eq_false_iff, Ne, getLsbD_staying a b hi]
  exact fun ⟨hact, hzero⟩ => h i hi hact hzero

theorem exitOut_stays (a : LinkRec) (b : List Lane) (h : ∃ i < 16, a.a.getLsbD i = true ∧ b.getD i 0 = 0) :
    exitOut a b = ({ a with a := staying a b }, false) := by
  obtain ⟨i, hi, hactive⟩ := h
  rw [exitOut_eq, if_neg]
  rw [mask_eq_zero_iff]
  intro hnone
  have := (getLsbD_staying a b hi).mpr hactive
  rw [hnone i hi] at this
  cases this

/-! ### What a unit emits (R164, R184, R187) -/

/-- Whether a stage has two outputs: a `filter` or an `exit`. -/
def parts (v : BitVec 240) (k : Nat) : Bool := cuOp v k = 0x70 || cuOp v k = 0x73

theorem foldl_last_of_none (p : Nat → Bool) (l : List Nat) (o : Option Nat) (h : ∀ k ∈ l, p k = false) :
    l.foldl (fun b k => if p k then some k else b) o = o := by
  induction l generalizing o with
  | nil => rfl
  | cons k l ih =>
    rw [List.forall_mem_cons] at h
    rw [List.foldl_cons, h.1]
    exact ih _ h.2

theorem foldl_last_of_one (p : Nat → Bool) (l : List Nat) (o : Option Nat) (hk : k ∈ l) (hp : p k = true) (h : ∀ j ∈ l, j ≠ k → p j = false) :
    l.foldl (fun b k => if p k then some k else b) o = some k := by
  induction l generalizing o with
  | nil => simp at hk
  | cons j l ih =>
    rw [List.forall_mem_cons] at h
    rw [List.foldl_cons]
    by_cases hl : k ∈ l
    · exact ih _ hl h.2
    · obtain rfl | hk := List.mem_cons.mp hk
      · rw [hp, if_pos rfl]
        exact foldl_last_of_none p l _ fun j hj => h.2 j hj (by rintro rfl; exact hl hj)
      · exact absurd hk hl

/-- What stage `k` of a unit reads when its results leave. -/
def leavingIn (port : Nat → LinkRec) (acc : List (List Lane)) (res : List LinkRec) (k : Nat) : StageIn :=
  { port := port, prev := if k = 0 then LinkRec.none else res.getD (k - 1) LinkRec.none, acc := acc.getD k [] }

theorem cuEmits_of_parting {port : Nat → LinkRec} {acc : List (List Lane)} {res : List LinkRec} (hk : k < 4) (hsel : cuSel v k 0 ≤ 4)
    (hpart : parts v k = true) (hothers : ∀ j < 4, j ≠ k → parts v j = false) :
    cuEmits v port acc res =
      let x := leavingIn port acc res k
      let r := if cuSel v k 0 = 4 then x.prev else port (cuSel v k 0)
      let b := stageOperand v k 1 x
      if cuOp v k = 0x70 then [(0, .record (filterOut (cuImm v k) r b).1), (1, .record (filterOut (cuImm v k) r b).2)]
      else [(if (exitOut r b).2 = true then 0 else 1, .record (exitOut r b).1)] := by
  have hlast : (List.range 4).foldl (fun b k => if cuOp v k = 0x70 || cuOp v k = 0x73 then some k else b) none = some k :=
    foldl_last_of_one (parts v) _ _ (List.mem_range.mpr hk) hpart fun j hj => hothers j (List.mem_range.mp hj)
  have hexit (p : LinkRec × Bool) : (match p with | (r, leaves) => if leaves then [(0, Item.record r)] else [(1, .record r)]) =
      [(if p.2 = true then 0 else 1, .record p.1)] := by
    obtain ⟨r, leaves⟩ := p
    cases leaves <;> rfl
  rw [cuEmits, hlast]
  by_cases h4 : cuSel v k 0 = 4
  · simp only [h4, Nat.lt_irrefl, if_true, if_false]
    exact if_congr Iff.rfl rfl (hexit _)
  · have hlt : cuSel v k 0 < 4 := by omega
    simp only [h4, hlt, if_true, if_false]
    exact if_congr Iff.rfl rfl (hexit _)

theorem cuEmits_of_plain {port : Nat → LinkRec} {acc : List (List Lane)} {res : List LinkRec} (h : ∀ j < 4, parts v j = false) :
    cuEmits v port acc res = (cuOuts v).map fun n => (n, .record (res.getD (cuOutSrc v n) LinkRec.none)) := by
  have hlast : (List.range 4).foldl (fun b k => if cuOp v k = 0x70 || cuOp v k = 0x73 then some k else b) none = none :=
    foldl_last_of_none (parts v) _ _ fun j hj => h j (List.mem_range.mp hj)
  rw [cuEmits, hlast]

theorem parts_eq_false (h : cuOp v k ≠ 0x70 ∧ cuOp v k ≠ 0x73) : parts v k = false := by simp [parts, h]

theorem emissions : Emissions := by
  refine ⟨fun v port acc res k x r b hk hsel hothers hx hr hb => ?_, fun v port acc res h => cuEmits_of_plain fun j hj => parts_eq_false (h j hj)⟩
  have hemits (hpart : parts v k = true) := cuEmits_of_parting (port := port) (acc := acc) (res := res) hk hsel hpart
    fun j hj hjk => parts_eq_false (hothers j hj hjk)
  obtain rfl : x = leavingIn port acc res k := hx
  subst hr hb
  refine ⟨fun hop => ?_, fun hop => ?_⟩
  · rw [hemits (by simp [parts, hop])]
    exact if_pos hop
  · rw [hemits (by simp [parts, hop])]
    exact if_neg (by rw [hop]; decide)

/-! ### One stage (R166, R168, R178–R181) -/

/-- The accumulator after a stage: it takes the lanes of a mask where the stage writes it. -/
def accAfter (v : BitVec 240) (k : Nat) (acc : List Lane) (w : BitVec 16) (l : List Lane) : List Lane :=
  if cuAcc v k then (List.range 16).map fun i => if bit16 w i then l.getD i 0 else acc.getD i 0 else acc

theorem accAfter_getElem? {acc l : List Lane} {w : BitVec 16} (hacc : cuAcc v k = true) (hi : i < 16) :
    (accAfter v k acc w l)[i]? = some (if w.getLsbD i = true then l.getD i 0 else acc.getD i 0) := by
  rw [accAfter, if_pos hacc, List.getElem?_map, List.getElem?_range hi, Option.map_some, bit16]

theorem accAfter_of_not {acc l : List Lane} {w : BitVec 16} (hacc : cuAcc v k = false) : accAfter v k acc w l = acc := by
  rw [accAfter, hacc]
  rfl

/-- The lanes that every record of a stage has in M, and in A. -/
def common (f : LinkRec → BitVec 16) (l : List LinkRec) : BitVec 16 := l.foldl (fun m r => m &&& f r) (BitVec.allOnes 16)

theorem getLsbD_common_and (hi : i < 16) : (common LinkRec.m l &&& common LinkRec.a l).getLsbD i = true ↔
    ∀ r ∈ l, r.m.getLsbD i = true ∧ r.a.getLsbD i = true := by
  rw [BitVec.getLsbD_and, Bool.and_eq_true, common, common, getLsbD_common _ hi, getLsbD_common _ hi]
  exact ⟨fun ⟨h, h'⟩ r hr => ⟨h r hr, h' r hr⟩, fun h => ⟨fun r hr => (h r hr).1, fun r hr => (h r hr).2⟩⟩

/-- What a lane-wise stage gives in one lane. -/
def laneResult (ftz : Bool) (v : BitVec 240) (k : Nat) (x : StageIn) (i : Nat) : Flagged :=
  if cuOp v k = 0x5E then
    scacc (cuRm v k) ((stageOperand v k 0 x).getD i 0) ((stageOperand v k 1 x).getD i 0) ((stageOperand v k 2 x).getD i 0) (x.acc.getD i 0)
  else nodeOp (cuOp v k) (cuRm v k) (cuSat v k) ftz (cuImm v k) ((stageOperand v k 0 x).getD i 0) ((stageOperand v k 1 x).getD i 0)
    ((stageOperand v k 2 x).getD i 0)

/-- The result record of a stage with some lanes and masks: tag and pass count are those of the first record read. -/
def resultOf (v : BitVec 240) (k : Nat) (x : StageIn) (l : List Lane) (m a : BitVec 16) : LinkRec :=
  { v := l, m := m, a := a, t := ((stageRecords v k x).head?.map LinkRec.t).getD 0, p := ((stageRecords v k x).head?.map LinkRec.p).getD 0 }

theorem resultOf_first {r : LinkRec} {l : List LinkRec} (h : stageRecords v k x = r :: l) (ls : List Lane) (m a : BitVec 16) :
    (resultOf v k x ls m a).t = r.t ∧ (resultOf v k x ls m a).p = r.p := by
  rw [resultOf, h]
  exact ⟨rfl, rfl⟩

/-- The lanes that stage `k` performs. -/
def performing (v : BitVec 240) (k : Nat) (x : StageIn) : BitVec 16 :=
  common LinkRec.m (stageRecords v k x) &&& common LinkRec.a (stageRecords v k x)

/-- The lanes of a lane-wise stage. -/
def laneResults (ftz : Bool) (v : BitVec 240) (k : Nat) (x : StageIn) : List Lane :=
  (List.range 16).map fun i => (if !bit16 (performing v k x) i then ((stageOperand v k 0 x).getD i 0, (0 : Flags)) else laneResult ftz v k x i).1

theorem cuStage_lanewise {ftz : Bool} (hred : laneReduction (cuOp v k) (cuSel v k 2) = false) (hop : ¬(0x50 ≤ cuOp v k ∧ cuOp v k ≤ 0x5D)) :
    (cuStage ftz v k x).res = resultOf v k x (laneResults ftz v k x) (common LinkRec.m (stageRecords v k x))
      (common LinkRec.a (stageRecords v k x)) ∧
    (cuStage ftz v k x).acc = accAfter v k x.acc (performing v k x) (laneResults ftz v k x) := by
  have hdot : (0x50 ≤ cuOp v k && cuOp v k ≤ 0x56) = false := by
    rw [Bool.and_eq_false_imp]; intro h; simp at *; omega
  have hquant : (0x57 ≤ cuOp v k && cuOp v k ≤ 0x5D) = false := by
    rw [Bool.and_eq_false_imp]; intro h; simp at *; omega
  simp only [cuStage, hred, hdot, hquant, Bool.false_eq_true, if_false, resultOf, laneResults, List.map_map]
  exact ⟨rfl, rfl⟩

theorem getElem?_laneResults {ftz : Bool} (hi : i < 16) : (laneResults ftz v k x)[i]? =
    some (if (∀ r ∈ stageRecords v k x, r.m.getLsbD i = true ∧ r.a.getLsbD i = true) then (laneResult ftz v k x i).1
      else (stageOperand v k 0 x).getD i 0) := by
  rw [laneResults, List.getElem?_map, List.getElem?_range hi, Option.map_some, bit16]
  by_cases h : ∀ r ∈ stageRecords v k x, r.m.getLsbD i = true ∧ r.a.getLsbD i = true
  · rw [if_pos h, performing, (getLsbD_common_and hi).mpr h]
    rfl
  · rw [if_neg h, performing, Bool.eq_false_iff.mpr (mt (getLsbD_common_and hi).mp h)]
    rfl

/-! ### Lane reductions (R178) -/

theorem laneTree_of_none (op : Lane → Lane → Flagged) : (laneTree op (List.replicate 16 none)).1 = none := rfl

theorem laneTree_of_first (op : Lane → Lane → Flagged) (w : Lane) : (laneTree op (some w :: List.replicate 15 none)).1 = some w := rfl

/-- The tree over the lanes that a stage performs. -/
def treeLanes (v : BitVec 240) (k : Nat) (x : StageIn) : List (Option Lane) :=
  (List.range 16).map fun i => if bit16 (performing v k x) i then some ((stageOperand v k 0 x).getD i 0) else none

theorem cuStage_reduction_none {ftz : Bool} (hred : laneReduction (cuOp v k) (cuSel v k 2) = true)
    (hnone : ∀ j < 16, (performing v k x).getLsbD j = false) : (cuStage ftz v k x).res.m = 0 ∧ (cuStage ftz v k x).res.a = 0 := by
  have htree : treeLanes v k x = List.replicate 16 none := by
    rw [List.eq_replicate_iff]
    refine ⟨by simp [treeLanes], fun o ho => ?_⟩
    simp only [treeLanes, List.mem_map, List.mem_range, bit16] at ho
    obtain ⟨j, hj, rfl⟩ := ho
    exact if_neg (by simp [hnone j hj])
  have hres := laneTree_of_none fun y z => nodeOp (cuOp v k) (cuRm v k) (cuSat v k) ftz 0 y z 0
  rw [← htree] at hres
  simp only [cuStage, hred, if_true]
  split
  next r hr => exact absurd (hr.symm.trans hres) (by simp)
  next => exact ⟨rfl, rfl⟩

theorem cuStage_reduction_one {ftz : Bool} (hred : laneReduction (cuOp v k) (cuSel v k 2) = true) (hone : performing v k x = 1) :
    (cuStage ftz v k x).res.m = 1 ∧ (cuStage ftz v k x).res.a = 1 ∧ (cuStage ftz v k x).res.v =
      reducedLane (cuOp v k) ((stageOperand v k 0 x).getD 0 0) :: (stageOperand v k 0 x).drop 1 := by
  have htree : treeLanes v k x = some ((stageOperand v k 0 x).getD 0 0) :: List.replicate 15 none := by
    rw [treeLanes, hone]
    rfl
  have hres := laneTree_of_first (fun y z => nodeOp (cuOp v k) (cuRm v k) (cuSat v k) ftz 0 y z 0) ((stageOperand v k 0 x).getD 0 0)
  rw [← htree] at hres
  simp only [cuStage, hred, if_true]
  split
  next r hr =>
    obtain rfl := Option.some.inj (hr.symm.trans hres)
    exact ⟨rfl, rfl, rfl⟩
  next hr => exact absurd (hr.symm.trans hres) (by simp)

/-! ### Block operations (R179, R180) -/

theorem laneReduction_of_block (h : 0x50 ≤ cuOp v k) (h' : cuOp v k ≤ 0x5D) (sel : Nat) : laneReduction (cuOp v k) sel = false := by
  generalize cuOp v k = op at h h'
  have : opCombining op = false := by
    interval_cases op <;> rfl
  rw [laneReduction, this, Bool.false_and]

/-- What stage `k` gives with a `bdot`. -/
def dotOf (v : BitVec 240) (k : Nat) (x : StageIn) : List Lane × BitVec 16 × Flags :=
  bdotStage (cuOp v k - 0x4E) (cuSat v k) (performed (recordsOf v k x [0, 1])) (stageOperand v k 0 x) (stageOperand v k 1 x)
    (stageOperand v k 2 x)

/-- What stage `k` gives with a `bquant`. -/
def quantOf (v : BitVec 240) (k : Nat) (x : StageIn) : List Lane × BitVec 16 × Flags :=
  bquantStage (cuOp v k - 0x55) (cuRm v k) (performing v k x) (stageOperand v k 0 x) (stageOperand v k 1 x)

theorem cuStage_bdot {ftz : Bool} (h : 0x50 ≤ cuOp v k) (h' : cuOp v k ≤ 0x56) : cuStage ftz v k x =
    { res := resultOf v k x (dotOf v k x).1 (dotOf v k x).2.1 (dotOf v k x).2.1,
      acc := accAfter v k x.acc (dotOf v k x).2.1 (dotOf v k x).1, flags := (dotOf v k x).2.2 } := by
  have hdot : (0x50 ≤ cuOp v k && cuOp v k ≤ 0x56) = true := by simp [h, h']
  simp only [cuStage, laneReduction_of_block h (by omega), hdot, Bool.false_eq_true, if_false, if_true]
  rfl

theorem cuStage_bquant {ftz : Bool} (h : 0x57 ≤ cuOp v k) (h' : cuOp v k ≤ 0x5D) : cuStage ftz v k x =
    { res := resultOf v k x (quantOf v k x).1 (quantOf v k x).2.1 (quantOf v k x).2.1,
      acc := accAfter v k x.acc (quantOf v k x).2.1 (quantOf v k x).1, flags := (quantOf v k x).2.2 } := by
  have hdot : (0x50 ≤ cuOp v k && cuOp v k ≤ 0x56) = false := by
    rw [Bool.and_eq_false_iff, decide_eq_false_iff_not, decide_eq_false_iff_not]; omega
  have hquant : (0x57 ≤ cuOp v k && cuOp v k ≤ 0x5D) = true := by simp [h, h']
  simp only [cuStage, laneReduction_of_block (show 0x50 ≤ cuOp v k by omega) h', hdot, hquant, Bool.false_eq_true, if_false, if_true]
  rfl

theorem bdotStage_lane {m : Nat} {sat : Bool} {w : BitVec 16} {a b c : List Lane} (hi : i < 16) :
    (bdotStage m sat w a b c).1[i]? = some (if 16 / m ≤ i then 0
      else if (List.range m).all (fun j => bit16 w (m * i + j)) then
        (satInt sat ((c.getD i 0).toInt + blockProduct m ((a.drop (m * i)).take m) ((b.drop (m * i)).take m))).1
      else c.getD i 0) ∧ ((bdotStage m sat w a b c).2.1.getLsbD i = decide (i < 16 / m)) := by
  refine ⟨?_, by rw [bdotStage, getLsbD_maskOf _ hi]⟩
  simp only [bdotStage, List.map_map, List.getElem?_map, List.getElem?_range hi, Option.map_some, Function.comp]
  split
  · rfl
  · split <;> rfl

theorem bquantStage_lane {m : Nat} {rm : BitVec 2} {w : BitVec 16} {a b : List Lane} (hi : i < 16) {vs : List Lane}
    (hvs : vs = (List.range 32).map fun i => if bit16 w (i % 16) then (if i < 16 then a else b).getD (i % 16) 0 else 0) :
    (bquantStage m rm w a b).1[i]? = some (if i < m then (packBlock m (bquantOf m rm vs).2.1).getD i 0
      else if i = 15 then BitVec.ofNat 32 (bquantOf m rm vs).1 else 0) ∧
    (bquantStage m rm w a b).2.1.getLsbD i = decide (i < m ∨ i = 15) ∧ (bquantStage m rm w a b).2.2 = (bquantOf m rm vs).2.2 := by
  subst hvs
  refine ⟨?_, ?_, rfl⟩
  · simp only [bquantStage, List.getElem?_map, List.getElem?_range hi, Option.map_some]
  · rw [bquantStage, getLsbD_maskOf _ hi, Bool.decide_or]

/-- A block slot is performed where each of its lanes is. -/
theorem performed_all_iff {m : Nat} (hm : 0 < m) (hi : i < 16 / m) : (List.range m).all (fun j => bit16 (performed l) (m * i + j)) = true ↔
    ∀ j < m, ∀ r ∈ l, r.m.getLsbD (m * i + j) = true ∧ r.a.getLsbD (m * i + j) = true := by
  have hfits : (i + 1) * m ≤ 16 := (Nat.le_div_iff_mul_le hm).mp hi
  have hlane (j : Nat) (hj : j < m) : m * i + j < 16 := by nlinarith
  simp only [List.all_eq_true, List.mem_range, bit16]
  exact forall₂_congr fun j hj => getLsbD_performed (hlane j hj)

theorem performing_getLsbD_iff {j : Nat} (hj : j < 16) : bit16 (performing v k x) j = true ↔
    ((stageRecords v k x).all fun r => r.m.getLsbD j && r.a.getLsbD j) = true := by
  rw [bit16, performing, getLsbD_common_and hj]
  simp

theorem stages : Stages := by
  intro ftz v k x i o a b c rs ho ha hb hc hrs hi
  subst ho ha hb hc hrs
  refine ⟨fun hred hop => ?_, fun hred => ⟨fun hnone => ?_, fun r hr hm hact _ => ?_⟩, fun m n hm hn h h' => ?_,
    fun m vs hm h h' hvs => ?_, fun h h' => ?_⟩
  · obtain ⟨hres, hacc⟩ := cuStage_lanewise (ftz := ftz) (x := x) hred hop
    rw [hres, hacc]
    refine ⟨?_, ?_, ?_, fun hon => ?_, fun hoff => accAfter_of_not hoff, fun r l h => resultOf_first h ..⟩
    · refine (getElem?_laneResults hi).trans ?_
      rw [laneResult]
    · exact getLsbD_common _ hi
    · exact getLsbD_common _ hi
    · rw [accAfter_getElem? hon hi]
      simp only [performing, getLsbD_common_and hi]
      rfl
  · refine cuStage_reduction_none hred fun j hj => ?_
    obtain ⟨r, hr, hout⟩ := hnone j hj
    rw [Bool.eq_false_iff, performing, Ne, getLsbD_common_and hj]
    intro hall
    obtain ⟨hm, hact⟩ := hall r hr
    rw [hm, hact] at hout
    simp at hout
  · refine cuStage_reduction_one hred ?_
    rw [performing, hr, common, common, List.foldl_cons, List.foldl_cons, hm, hact]
    rfl
  · subst hm hn
    rw [cuStage_bdot h h']
    obtain ⟨hlane, hmask⟩ := bdotStage_lane (m := cuOp v k - 0x4E) (sat := cuSat v k) (w := performed (recordsOf v k x [0, 1]))
      (a := stageOperand v k 0 x) (b := stageOperand v k 1 x) (c := stageOperand v k 2 x) hi
    refine ⟨hlane.trans (congrArg some ?_), hmask, rfl⟩
    split
    · rfl
    next hslot => exact if_congr (performed_all_iff (by omega) (by omega)) rfl rfl
  · subst hm
    rw [cuStage_bquant h h']
    have hvs' : vs = (List.range 32).map fun i => if bit16 (performing v k x) (i % 16) then
        (if i < 16 then stageOperand v k 0 x else stageOperand v k 1 x).getD (i % 16) 0 else 0 := by
      rw [hvs]
      exact List.map_congr_left fun j _ => if_congr (performing_getLsbD_iff (by omega)).symm rfl rfl
    obtain ⟨hlane, hmask, hflags⟩ := bquantStage_lane (m := cuOp v k - 0x55) (rm := cuRm v k) hi hvs'
    exact ⟨hlane, hmask, rfl, hflags⟩
  · by_cases hdot : cuOp v k ≤ 0x56
    · rw [cuStage_bdot h hdot]
      exact ⟨fun hon => accAfter_getElem? hon hi, fun hoff => accAfter_of_not hoff, fun r l h => resultOf_first h ..⟩
    · rw [cuStage_bquant (by omega) h']
      exact ⟨fun hon => accAfter_getElem? hon hi, fun hoff => accAfter_of_not hoff, fun r l h => resultOf_first h ..⟩

end Sys2Proof.Laws.Records
end

section
/-! SUPPORT. O32: what node, block and record operations and stages give. -/
namespace Sys2Proof.Proofs

open Sys2Proof.Laws Sys2Proof.Laws.Records

/-- Settles O32: the record operations lane by lane, then the node table, the approximations by exact comparison of whole numbers, the block
operations by the bits of their strings, and the stage by its kinds. -/
theorem recordOperations : Obligations.RecordOperations := by
  refine ⟨fun imm a b i hi => filterOut_getLsbD imm a b hi, filterOut_keeps, fun a b i hi => recombine_lanes a b hi, fun a b =>
    ⟨exitOut_leaves a b, fun h => ⟨_, exitOut_stays a b h, fun i hi => getLsbD_staying a b hi⟩⟩, emissions, NodeOps.nodeTable,
    Approximating.approximations, Blocks.blockOperations, stages⟩

end Sys2Proof.Proofs
end

section
/-! SUPPORT. The steps of a gang's fabric: each is one beat of a unit, which fires by itself or meets a fault (R163, R164). -/
namespace Sys2Proof.Laws.Beats

open Sys2Proof Sys2Proof.Machine Sys2Proof.Claims Sys2Proof.Laws

variable {s s' : State} {t T : Task} {u : FUnit} {c p h m : Nat} {x : Cell} {v : BitVec 240} {a : Ag} {i : Instr}

/-! ### A step is one beat of its unit -/

theorem exec_cuStep {h : Word} {k : BitVec 240 → Prop} (hstep : cuStep i = some (h, c, k)) (hh : h = t.handle)
    (ht : s.task? t.handle = some t) (hc : t.cell? c = some x) (hv : x.cu = some v) (hk : k v) :
    exec i s = .next (finish (s.runBeat t (.cu c))) := by
  subst hh
  cases i <;> simp only [cuStep, Option.some.injEq, Prod.mk.injEq, reduceCtorEq] at hstep <;>
    obtain ⟨rfl, rfl, rfl⟩ := hstep <;> exact cuEvent_eq ht hc hv _ (by simpa [and_assoc, or_assoc, imp_iff_not_or, Nat.not_le] using hk)

theorem agEvent_eq (ht : s.task? t.handle = some t) (ha : t.ag? p = some a) (hm : agMode a.frame = m) :
    s.agEvent t.handle p m = .next (finish (s.runBeat t (.ag p))) := by
  rw [State.agEvent, State.onTask_some ht]
  simp [ha, hm]

theorem exec_agStep {h : Word} (hstep : agStep i = some (h, p, m)) (hh : h = t.handle) (ht : s.task? t.handle = some t)
    (ha : t.ag? p = some a) (hm : agMode a.frame = m) : exec i s = .next (finish (s.runBeat t (.ag p))) := by
  subst hh
  cases i <;> simp only [agStep, Option.some.injEq, Prod.mk.injEq, reduceCtorEq] at hstep <;>
    obtain ⟨rfl, rfl, rfl⟩ := hstep <;> exact agEvent_eq ht ha hm

theorem exec_muAccess (ht : s.task? t.handle = some t) :
    exec (.muAccess t.handle c) s = .next (finish (s.runBeat t (.mu c))) := by
  rw [exec, execMuAccess, State.onTask_some ht]

theorem exec_activationRow (ht : s.task? t.handle = some t) :
    exec (.activationRow t.handle c) s = .next (finish (s.runBeat t (.eng c))) := by
  rw [exec, execActivationRow, State.onTask_some ht]

/-! ### What a beat answers -/

theorem beatAnswers_of_works (hworks : Works s t) : BeatAnswers s t u (.next (finish (s.runBeat t u))) := by
  have hrun := Copying.running_of_works hworks
  refine ⟨fun s' t' hbeat => ⟨fun hfault => ?_, fun c sub addr hfault => ?_⟩, fun hidle => ?_, fun e hstop => ?_⟩
  · rw [Engines.runBeat_of_beat hrun hbeat hfault, finish_nil]
  · simp [State.runBeat, hrun, hbeat, hfault]
  · simp [State.runBeat, hrun, hidle, State.stop, finish_nil]
  · simp [State.runBeat, hrun, hstop]

/-- A unit that fires by itself in its step. -/
theorem leaves_of_step (hstep : exec i s = .next (finish (s.runBeat t u))) (hworks : Works s t)
    (hfires : s.fireUnit t u = .ok (s', T)) : Leaves s' t u T (exec i s) :=
  hstep ▸ Engines.leaves_of_fires hworks hfires

/-- A unit whose firing faults in its step. -/
theorem meets_of_step {tr : Trap} {sub addr : Nat} (hstep : exec i s = .next (finish (s.runBeat t u))) (hworks : Works s t)
    (hfault : s.fireUnit t u = .error (.fault tr sub addr)) : Meets s t u tr sub addr (exec i s) := by
  rintro ⟨hhop, hwants⟩
  rw [hstep, State.runBeat, beat_fault hhop hwants hfault]
  simp [Copying.running_of_works hworks, State.stop]

/-! ### Cells of a task -/

theorem cell?_isSome_of_idx {t t' : Task} (h : t'.cells.map Cell.idx = t.cells.map Cell.idx) (hc : t.cell? c = some x) :
    ∃ y, t'.cell? c = some y := by
  rw [← Option.isSome_iff_exists, cell?_isSome, h, ← cell?_isSome, hc, Option.isSome_some]

theorem updCell_eq (hc : t.cell? c = some x) (f : Cell → Cell) : t.updCell c f = t.putCell (f x) := by
  rw [Task.updCell, hc]

end Sys2Proof.Laws.Beats
end

section
/-! SUPPORT. Ordinary units, `merge` and `recirc`, of O31 (R164, R185, R186). -/
namespace Sys2Proof.Laws.Beats

open Sys2Proof Sys2Proof.Machine Sys2Proof.Claims Sys2Proof.Laws

variable {s s' : State} {t T : Task} {c : Nat} {x : Cell} {v : BitVec 240} {taken : List Nat} {first : Option LinkRec} {r : LinkRec}

/-- The record that a firing sees at an input: the head of a port that it takes. -/
theorem firedPort_eq (n : Nat) : (if taken.contains n then (t.portHead c n).getD LinkRec.none else LinkRec.none) =
    if n ∈ taken then (t.portHead c n).getD LinkRec.none else LinkRec.none := by
  simp

/-- Whether every output of a unit can take a record. -/
def OutsRoom (t : Task) (c : Nat) (v : BitVec 240) : Prop := ∀ n ∈ cuOuts v, ∀ d ∈ t.outDests c n, t.room d = true

theorem outsRoom_iff : ((cuOuts v).all fun n => (t.outDests c n).all t.room) = true ↔ OutsRoom t c v := by
  simp [OutsRoom, List.all_eq_true]

theorem fired_of_room {res : List LinkRec} {acc : List (List Lane)} {fl : Flags} (hc : t.cell? c = some x)
    (hrun : runStages t.crec.ftz v x.acc (fun n => if n ∈ taken then (t.portHead c n).getD LinkRec.none else LinkRec.none) first =
      (res, acc, fl)) (hroom : OutsRoom t c v) :
    t.fired x v taken first = (((t.takePorts c taken).flag fl).updCell c fun y => { y with acc := acc }).emit c (cuEmits v
      (fun n => if n ∈ taken then (t.portHead c n).getD LinkRec.none else LinkRec.none) x.acc res) := by
  obtain rfl := cell_idx hc
  obtain ⟨y, hy⟩ := cell?_isSome_of_idx (t' := (t.takePorts x.idx taken).flag fl) (takePorts_idx t x.idx taken) hc
  simp only [Task.fired, firedPort_eq, hrun, outsRoom_iff.2 hroom, hy, updCell_eq hy]
  rfl

theorem fired_of_full (hc : t.cell? c = some x) (hfull : ∃ n ∈ cuOuts v, ∃ d ∈ t.outDests c n, t.room d = false) :
    t.fired x v taken first = none := by
  obtain rfl := cell_idx hc
  obtain ⟨n, hn, d, hd, hroom⟩ := hfull
  have hall : ((cuOuts v).all fun n => (t.outDests x.idx n).all t.room) = false := by
    rw [Bool.eq_false_iff, ne_eq, outsRoom_iff]
    intro hroom'
    simp [hroom' n hn d hd] at hroom
  simp [Task.fired, hall]

theorem cuBeat_cuFire (hop : cuOp v 0 < 0x80) : s.cuBeat t x v = (t.cuFire x v).map fun t => (s, t) := by
  unfold State.cuBeat
  split
  case h_10 => rfl
  all_goals omega

/-- A firing of an ordinary unit that meets no pass bound: what it takes next, and what it leaves. -/
theorem cuFire_of_next (hpass : t.passesOut x v = false) (hnext : t.cuNext x v = some (taken, first))
    (hfired : (if cuOp v 0 = 0x71 ∧ cuImm v 0 % 4 = 1 then t.putCell { x with turn := !x.turn } else t).fired x v taken first = some T) :
    t.cuFire x v = .ok T := by
  simp [Task.cuFire, hpass, hnext, hfired]

theorem passesOut_of_op (hop : cuOp v 0 ≠ 0x72) : t.passesOut x v = false := by
  simp [Task.passesOut, hop]

/-- A step of a unit that is no order node. -/
theorem leaves_cuFire (hworks : Works s t) (hc : t.cell? c = some x) (hv : x.cu = some v) (hfibre : cuFibre v = false)
    (hop : cuOp v 0 < 0x80) (hfire : t.cuFire x v = .ok T) : Leaves s t (.cu c) T (exec (.cuFire t.handle c) s) := by
  refine leaves_of_step (exec_cuStep rfl rfl hworks.1 hc hv ⟨hfibre, .inl hop⟩) hworks ?_
  rw [fireUnit_cu hc hv hfibre, cuBeat_cuFire hop, hfire, Except.map]

/-! ### What each kind takes next -/

theorem cuFire_ordinary (hc : t.cell? c = some x) (h71 : cuOp v 0 ≠ 0x71) (h72 : cuOp v 0 ≠ 0x72) (hins : cuIns v ≠ [])
    (hheads : ∀ n ∈ cuIns v, t.portHead c n ≠ none) (hfired : t.fired x v (cuIns v) none = some T) : t.cuFire x v = .ok T := by
  obtain rfl := cell_idx hc
  have hsome : (cuIns v).any (fun n => (t.portHead x.idx n).isNone) = false := by
    simpa [List.any_eq_false, Option.isNone_iff_eq_none] using hheads
  refine cuFire_of_next (passesOut_of_op h72) (taken := cuIns v) (first := none) ?_ (by simpa [h71] using hfired)
  simp [Task.cuNext, h71, h72, hins, hsome]

theorem cuFire_mergeBoth {p q : LinkRec} (hc : t.cell? c = some x) (hop : cuOp v 0 = 0x71) (hmode : cuImm v 0 % 4 = 0)
    (ha : t.portHead c (cuSel v 0 0) = some p) (hb : t.portHead c (cuSel v 0 1) = some q)
    (hfired : t.fired x v [cuSel v 0 0, cuSel v 0 1] (some (recombine p q)) = some T) : t.cuFire x v = .ok T := by
  obtain rfl := cell_idx hc
  refine cuFire_of_next (passesOut_of_op (by simp [hop])) (taken := [cuSel v 0 0, cuSel v 0 1]) (first := some (recombine p q)) ?_
    (by simpa [hmode] using hfired)
  simp [Task.cuNext, hop, hmode, ha, hb]

theorem cuFire_mergeTurn {p : LinkRec} (hc : t.cell? c = some x) (hop : cuOp v 0 = 0x71) (hmode : cuImm v 0 % 4 = 1)
    (hhead : t.portHead c (if x.turn = true then cuSel v 0 1 else cuSel v 0 0) = some p)
    (hfired : (t.putCell { x with turn := !x.turn }).fired x v [if x.turn = true then cuSel v 0 1 else cuSel v 0 0] (some p) =
      some T) : t.cuFire x v = .ok T := by
  obtain rfl := cell_idx hc
  refine cuFire_of_next (passesOut_of_op (by simp [hop])) (taken := [if x.turn = true then cuSel v 0 1 else cuSel v 0 0])
    (first := some p) ?_ (by simpa [hop, hmode] using hfired)
  rcases hturn : x.turn with _ | _ <;> simp [hturn] at hhead <;> simp [Task.cuNext, hop, hmode, hturn, hhead]

theorem cuFire_mergeFirst {p : LinkRec} (hc : t.cell? c = some x) (hop : cuOp v 0 = 0x71) (hmode : cuImm v 0 % 4 = 2)
    (ha : t.portHead c (cuSel v 0 0) = some p) (hfired : t.fired x v [cuSel v 0 0] (some p) = some T) : t.cuFire x v = .ok T := by
  obtain rfl := cell_idx hc
  refine cuFire_of_next (passesOut_of_op (by simp [hop])) (taken := [cuSel v 0 0]) (first := some p) ?_ (by simpa [hmode] using hfired)
  simp [Task.cuNext, hop, hmode, ha]

theorem cuFire_mergeSecond {p : LinkRec} (hc : t.cell? c = some x) (hop : cuOp v 0 = 0x71) (hmode : cuImm v 0 % 4 = 2)
    (ha : t.portHead c (cuSel v 0 0) = none) (hb : t.portHead c (cuSel v 0 1) = some p)
    (hfired : t.fired x v [cuSel v 0 1] (some p) = some T) : t.cuFire x v = .ok T := by
  obtain rfl := cell_idx hc
  refine cuFire_of_next (passesOut_of_op (by simp [hop])) (taken := [cuSel v 0 1]) (first := some p) ?_ (by simpa [hmode] using hfired)
  simp [Task.cuNext, hop, hmode, ha, hb]

theorem cuFire_recircRound (hc : t.cell? c = some x) (hop : cuOp v 0 = 0x72) (hb : t.portHead c (cuSel v 0 1) = some r)
    (hbound : r.p.toNat < cuImm v 0) (hfired : t.fired x v [cuSel v 0 1] (some { r with p := r.p + 1 }) = some T) :
    t.cuFire x v = .ok T := by
  obtain rfl := cell_idx hc
  refine cuFire_of_next (taken := [cuSel v 0 1]) (first := some { r with p := r.p + 1 }) ?_ ?_ (by simpa [hop] using hfired)
  · simpa [Task.passesOut, hb] using fun _ => hbound
  · simp [Task.cuNext, hop, hb]

theorem cuFire_recircEnter (hc : t.cell? c = some x) (hop : cuOp v 0 = 0x72) (hb : t.portHead c (cuSel v 0 1) = none)
    (ha : t.portHead c (cuSel v 0 0) = some r) (hfired : t.fired x v [cuSel v 0 0] (some { r with p := 1, a := r.m }) = some T) :
    t.cuFire x v = .ok T := by
  obtain rfl := cell_idx hc
  refine cuFire_of_next (taken := [cuSel v 0 0]) (first := some { r with p := 1, a := r.m }) ?_ ?_ (by simpa [hop] using hfired)
  · simp [Task.passesOut, hb]
  · simp [Task.cuNext, hop, hb, ha]

/-- A record at the pass bound breaks the beat in which it is taken (R186). -/
theorem cuFire_recircBound (hc : t.cell? c = some x) (hop : cuOp v 0 = 0x72) (hb : t.portHead c (cuSel v 0 1) = some r)
    (hbound : cuImm v 0 ≤ r.p.toNat) (hroom : OutsRoom t c v) :
    t.cuFire x v = .ok ((t.takePorts c [cuSel v 0 1]).breakBeat .illegalOp c 0) := by
  obtain rfl := cell_idx hc
  have hpass : t.passesOut x v = true := by simpa [Task.passesOut, hop, hb] using hbound
  simp only [Task.cuFire, hpass, outsRoom_iff.2 hroom, if_true]

theorem takePorts_beatFault (t : Task) (c : Nat) (ps : List Nat) : (t.takePorts c ps).beatFault = t.beatFault := by
  induction ps generalizing t with
  | nil => rfl
  | cons n ps ih => exact (ih _).trans (setQueue_beatFault t _ _)

/-- A beat that its own firing breaks ends the task with what the beat left. -/
theorem exec_of_broken {u : FUnit} {i : Instr} {tr : Trap} {sub addr : Nat} {U W : Task}
    (hstep : exec i s = .next (finish (s.runBeat t u))) (hworks : Works s t) (hlooks : Looks t u)
    (hfires : s.fireUnit t u = .ok (s, T)) (hfault : T.beatFault = some (tr, sub, addr)) (hU : U = t.stamp T u)
    (hspare : U.spareOuts u = []) (hzero : U.zeroHeld = []) (hW : W = { U.settle (U.allDests.length * 16) with beatFault := none }) :
    exec i s = .next (finish ((s.putTask W).taskFault W tr sub addr)) := by
  subst hU hW
  have hbeat := beat_alone hlooks.1 hlooks.2 hfires hspare hzero
  have hanswer := (beatAnswers_of_works (u := u) hworks).1 _ _ hbeat
  rw [hstep, hanswer.2 tr sub addr (by rw [settle_beatFault, stamp_beatFault, hfault])]

theorem cuBeats : CuBeats := by
  refine ⟨fun t c x v taken first res acc fl hc hrun => ⟨fired_of_room hc hrun, fired_of_full hc⟩,
    fun s t c x v T hworks hc hv hfibre => ⟨fun hop h71 h72 hins hheads hfired => ?_, ?_, ?_⟩⟩
  · exact leaves_cuFire hworks hc hv hfibre hop (cuFire_ordinary hc h71 h72 hins hheads hfired)
  · rintro hop a b rfl rfl
    have hleaves {T : Task} := leaves_cuFire (T := T) hworks hc hv hfibre (by omega)
    exact ⟨fun p q hmode ha hb hfired => hleaves (cuFire_mergeBoth hc hop hmode ha hb hfired),
      fun p hmode hhead hfired => hleaves (cuFire_mergeTurn hc hop hmode hhead hfired),
      fun p hmode ha hfired => hleaves (cuFire_mergeFirst hc hop hmode ha hfired),
      fun p hmode ha hb hfired => hleaves (cuFire_mergeSecond hc hop hmode ha hb hfired)⟩
  · rintro hop a b r rfl rfl
    have hlow : cuOp v 0 < 0x80 := by omega
    have hleaves {T : Task} := leaves_cuFire (T := T) hworks hc hv hfibre hlow
    refine ⟨fun hb hbound hfired => hleaves (cuFire_recircRound hc hop hb hbound hfired), ?_,
      fun hb ha hfired => hleaves (cuFire_recircEnter hc hop hb ha hfired)⟩
    intro U W hb hbound hroom hlooks hnone hU hspare hzero hW
    refine exec_of_broken (exec_cuStep rfl rfl hworks.1 hc hv ⟨hfibre, .inl hlow⟩) hworks hlooks ?_ rfl hU hspare hzero hW
    rw [fireUnit_cu hc hv hfibre, cuBeat_cuFire hlow, cuFire_recircBound hc hop hb hbound hroom, Except.map, Task.breakBeat,
      takePorts_beatFault, hnone]
    rfl

end Sys2Proof.Laws.Beats
end

section
/-! SUPPORT. Order nodes, of O31 (R306–R308). -/
namespace Sys2Proof.Laws.Beats

open Sys2Proof Sys2Proof.Machine Sys2Proof.Claims Sys2Proof.Laws

variable {s s' : State} {t T T1 : Task} {c a b p op N n k i : Nat} {x : Cell} {v : BitVec 240} {q r g : LinkRec} {y : CtlState} {ps : List Nat}

/-! ### Permits (R306) -/

theorem pmtEnter_passes (hc : t.cell? c = some x) (hb : t.portHead c (cuSel v 0 1) = none) (ha : t.portHead c (cuSel v 0 0) = some r)
    (hpermits : x.permits = p + 1) (hemit : (t.takePorts c [cuSel v 0 0]).emit c [(0, .record r)] = some T1) :
    t.pmtEnter x v = .ok (T1.updCell c fun y => { y with permits := p }) := by
  obtain rfl := cell_idx hc
  simp [Task.pmtEnter, hb, ha, hpermits, hemit]
  rfl

theorem pmtEnter_returns (hc : t.cell? c = some x) (hb : t.portHead c (cuSel v 0 1) = some q) (hroom : x.permits < 255)
    (ha : (t.takePorts c [cuSel v 0 1]).portHead c (cuSel v 0 0) = none) :
    t.pmtEnter x v = .ok ((t.takePorts c [cuSel v 0 1]).updCell c fun y => { y with permits := x.permits + 1 }) := by
  obtain rfl := cell_idx hc
  simp [Task.pmtEnter, hb, ha, Nat.not_le.2 hroom]
  rfl

theorem pmtEnter_both (hc : t.cell? c = some x) (hb : t.portHead c (cuSel v 0 1) = some q) (hroom : x.permits < 255)
    (ha : (t.takePorts c [cuSel v 0 1]).portHead c (cuSel v 0 0) = some r)
    (hemit : ((t.takePorts c [cuSel v 0 1]).takePorts c [cuSel v 0 0]).emit c [(0, .record r)] = some T1) :
    t.pmtEnter x v = .ok (T1.updCell c fun y => { y with permits := x.permits }) := by
  obtain rfl := cell_idx hc
  simp [Task.pmtEnter, hb, ha, Nat.not_le.2 hroom, hemit]
  rfl

theorem pmtEnter_over (hc : t.cell? c = some x) (hb : t.portHead c (cuSel v 0 1) = some q) (hfull : 255 ≤ x.permits) :
    t.pmtEnter x v = .error (.fault .illegalOp c t.openGo) := by
  obtain rfl := cell_idx hc
  simp [Task.pmtEnter, hb, hfull]

theorem pmtExit_passes (hc : t.cell? c = some x) (ha : t.portHead c (cuSel v 0 0) = some r)
    (hemit : (t.takePorts c [cuSel v 0 0]).emit c [(0, .record r), (1, .record LinkRec.none)] = some T) : t.pmtExit x v = .ok T := by
  obtain rfl := cell_idx hc
  simp [Task.pmtExit, ha, hemit]

theorem barFire_passes (hc : t.cell? c = some x) (hheads : ∀ n ∈ cuIns v, t.portHead c n ≠ none)
    (ha : t.portHead c (cuSel v 0 0) = some r)
    (hemit : (t.takePorts c (cuIns v)).emit c ((cuOuts v).map fun n => (n, .record r)) = some T) : t.barFire x v = .ok T := by
  obtain rfl := cell_idx hc
  have hsome : (cuIns v).any (fun n => (t.portHead x.idx n).isNone) = false := by
    simpa [List.any_eq_false, Option.isNone_iff_eq_none] using hheads
  simp [Task.barFire, hsome, ha, hemit]

/-! ### Controllers (R307) -/

theorem ctlTake_of_takes (h : ControllerTakes t c a b n x.ctl y ps) : ∃ ta tb,
    ctlTake x n (t.portHead c a) (t.portHead c b) = .ok (y, ta, tb) ∧ (if ta = true then [a] else []) ++ (if tb = true then [b] else []) = ps := by
  rcases h with ⟨r, hgo, ha, hb, rfl, rfl⟩ | ⟨hgo, hb, rfl, rfl⟩ | ⟨r, hgo, hb, howed, rfl, rfl⟩
  · exact ⟨true, false, by simp [ctlTake, hgo, ha, hb], rfl⟩
  · obtain ⟨g, hg⟩ := Option.ne_none_iff_exists'.1 hgo
    exact ⟨false, false, by simp [ctlTake, hg, hb], rfl⟩
  · obtain ⟨g, hg⟩ := Option.ne_none_iff_exists'.1 hgo
    exact ⟨false, true, by simp only [ctlTake, hg, hb]; simpa using howed, rfl⟩

theorem any_id_eq_false {l : List Bool} : l.any id = false ↔ ∀ w ∈ l, w = false := by
  simp [List.any_eq_false]

theorem foldl_add_eq_sum (l : List Nat) : l.foldl (· + ·) 0 = l.sum := by
  rw [List.sum_eq_foldl]

/-- The lowest number below `n` that has a property is the one that a search finds. -/
theorem find?_range_of_least {f : Nat → Bool} (hk : k < n) (hf : f k = true) (hleast : ∀ j < k, f j = false) :
    (List.range n).find? f = some k := by
  rw [List.find?_range_eq_some]
  exact ⟨hf, by simpa using hk, by simpa using hleast⟩

theorem ctlNext_of_sends (h : ControllerSends op N n y k i) : ctlNext op N n y = some (k, i) := by
  rcases h with ⟨rfl, hback, hleft, rfl, rfl⟩ | ⟨rfl, ⟨hk, hmay⟩, hleast, rfl⟩ | ⟨rfl, hk, hfresh, hleast, rfl⟩
  · simp [ctlNext, foldl_add_eq_sum, any_id_eq_false.2 hback, Nat.not_le.2 hleft]
  · have hfind := find?_range_of_least (f := fun k => decide (y.next.getD k 0 < N) && !y.await.getD k false && (decide (k = 0) ||
      decide (y.next.getD (k - 1) 0 - (if y.await.getD (k - 1) false = true then 1 else 0) > y.next.getD k 0))) hk
      (by simpa [and_assoc] using hmay) (fun j hj => by
        rw [Bool.eq_false_iff]
        intro hf
        exact hleast j hj ⟨by omega, by simpa [and_assoc] using hf⟩)
    simpa [ctlNext] using hfind
  · have hfind := find?_range_of_least (f := fun k => decide (y.next.getD k 0 = 0)) hk (by simpa using hfresh)
      (fun j hj => by simpa using hleast j hj)
    simpa [ctlNext] using hfind

theorem ctlDone_iff (hop : op = 0x82 ∨ op = 0x83 ∨ op = 0x84) : ctlDone op N n y = true ↔ ControllerOver op N n y := by
  have hback : (!y.await.any id) = true ↔ ∀ w ∈ y.await, w = false := by rw [Bool.not_eq_true', any_id_eq_false]
  rcases hop with rfl | rfl | rfl <;> simp only [ctlDone, ControllerOver, Bool.and_eq_true, hback] <;>
    simp [foldl_add_eq_sum, List.all_eq_true]

theorem ctlN_eq (imm : Nat) : ctlN imm = imm % 4096 + 1 := rfl

theorem ctlKids_eq (imm : Nat) : ctlKids imm = imm / 4096 % 8 + 1 := rfl

section
variable (hc : t.cell? c = some x) (htakes : ControllerTakes t c (cuSel v 0 0) (cuSel v 0 1) (ctlKids (cuImm v 0)) x.ctl y ps)
  (hgo : y.go = some g)
include hc htakes hgo

theorem ctlBeat_sends (hover : ctlDone (cuOp v 0) (ctlN (cuImm v 0)) (ctlKids (cuImm v 0)) y = false)
    (hnext : ctlNext (cuOp v 0) (ctlN (cuImm v 0)) (ctlKids (cuImm v 0)) y = some (k, i))
    (hemit : (t.takePorts c ps).emit c
      [(0, .record (ctlRec (if cuOp v 0 = 0x84 then ctlN (cuImm v 0) else i) (BitVec.ofNat 8 k) i))] = some T1) :
    t.ctlBeat x v = .ok (T1.updCell c fun z => { z with
      ctl := { y with next := modAt y.next k (· + 1), await := setAt y.await k true } }) := by
  obtain rfl := cell_idx hc
  obtain ⟨ta, tb, htake, rfl⟩ := ctlTake_of_takes htakes
  simp only [Task.ctlBeat, htake, hgo, hover, hnext, hemit]
  rfl

theorem ctlBeat_ends (hover : ctlDone (cuOp v 0) (ctlN (cuImm v 0)) (ctlKids (cuImm v 0)) y = true)
    (hemit : (t.takePorts c ps).emit c [(1, .record (ctlRec (ctlN (cuImm v 0)) g.t 0))] = some T1) :
    t.ctlBeat x v = .ok (T1.updCell c fun z => { z with ctl := { y with go := none } }) := by
  obtain rfl := cell_idx hc
  obtain ⟨ta, tb, htake, rfl⟩ := ctlTake_of_takes htakes
  simp only [Task.ctlBeat, htake, hgo, hover, hemit]
  rfl

end

/-! ### The steps -/

theorem cuBeat_pmtEnter (hop : cuOp v 0 = 0x80) : s.cuBeat t x v = (t.pmtEnter x v).map fun t => (s, t) := by
  simp only [State.cuBeat, hop]

theorem cuBeat_pmtExit (hop : cuOp v 0 = 0x81) : s.cuBeat t x v = (t.pmtExit x v).map fun t => (s, t) := by
  simp only [State.cuBeat, hop]

theorem cuBeat_ctlBeat (hop : cuOp v 0 = 0x82 ∨ cuOp v 0 = 0x83 ∨ cuOp v 0 = 0x84) :
    s.cuBeat t x v = (t.ctlBeat x v).map fun t => (s, t) := by
  rcases hop with hop | hop | hop <;> simp only [State.cuBeat, hop]

theorem cuBeat_barFire (hop : cuOp v 0 = 0x86) : s.cuBeat t x v = (t.barFire x v).map fun t => (s, t) := by
  simp only [State.cuBeat, hop]

/-- A step of an order node: what its firing gives is what its beat leaves. -/
theorem leaves_orderStep {j : Instr} {h : Word} {kind : BitVec 240 → Prop} {e : Except Stop Task} (hstep : cuStep j = some (h, c, kind))
    (hh : h = t.handle) (hkind : kind v) (hworks : Works s t) (hc : t.cell? c = some x) (hv : x.cu = some v) (hfibre : cuFibre v = false)
    (hbeat : s.cuBeat t x v = e.map fun t => (s, t)) (hfires : e = .ok T) : Leaves s t (.cu c) T (exec j s) := by
  refine leaves_of_step (exec_cuStep hstep hh hworks.1 hc hv hkind) hworks ?_
  rw [fireUnit_cu hc hv hfibre, hbeat, hfires, Except.map]

theorem orderBeats : OrderBeats := by
  constructor
  · rintro s t c x v T T1 a b hworks hc hv hfibre rfl rfl
    refine ⟨fun hop => ?_, fun hop r ha hemit => ?_, fun hop r hheads ha hemit => ?_⟩
    · have hleaves {T : Task} := leaves_orderStep (T := T) (j := .pmtEnter t.handle c) rfl rfl ⟨hfibre, hop⟩ hworks hc hv hfibre
        (cuBeat_pmtEnter hop)
      refine ⟨?_, ?_, ?_, ?_⟩
      · rintro r p hb ha hpermits hemit rfl
        exact hleaves (pmtEnter_passes hc hb ha hpermits hemit)
      · rintro q hb hroom ha rfl
        exact hleaves (pmtEnter_returns hc hb hroom ha)
      · rintro q r hb hroom ha hemit rfl
        exact hleaves (pmtEnter_both hc hb hroom ha hemit)
      · intro q hb hfull
        refine meets_of_step (exec_cuStep rfl rfl hworks.1 hc hv ⟨hfibre, hop⟩) hworks ?_
        rw [fireUnit_cu hc hv hfibre, cuBeat_pmtEnter hop, pmtEnter_over hc hb hfull, Except.map]
    · exact leaves_orderStep rfl rfl ⟨hfibre, hop⟩ hworks hc hv hfibre (cuBeat_pmtExit hop) (pmtExit_passes hc ha hemit)
    · exact leaves_orderStep rfl rfl ⟨hfibre, hop⟩ hworks hc hv hfibre (cuBeat_barFire hop) (barFire_passes hc hheads ha hemit)
  · rintro s t c x v T T1 y ps i0 N n g hworks hc hv hfibre hi rfl rfl htakes hgo
    have hop : cuOp v 0 = 0x82 ∨ cuOp v 0 = 0x83 ∨ cuOp v 0 = 0x84 := by
      rcases hi with ⟨-, hop⟩ | ⟨-, hop⟩ | ⟨-, hop⟩ <;> simp [hop]
    have hleaves {T : Task} (hfires : t.ctlBeat x v = .ok T) : Leaves s t (.cu c) T (exec i0 s) := by
      rcases hi with ⟨rfl, h⟩ | ⟨rfl, h⟩ | ⟨rfl, h⟩ <;>
        exact leaves_orderStep rfl rfl ⟨hfibre, h⟩ hworks hc hv hfibre (cuBeat_ctlBeat hop) hfires
    rw [← ctlKids_eq] at htakes
    rw [← ctlN_eq, ← ctlKids_eq]
    constructor
    · rintro k i hsends hover hemit rfl
      exact hleaves (ctlBeat_sends hc htakes hgo (by rwa [Bool.eq_false_iff, ne_eq, ctlDone_iff hop]) (ctlNext_of_sends hsends) hemit)
    · rintro hover hemit rfl
      exact hleaves (ctlBeat_ends hc htakes hgo ((ctlDone_iff hop).2 hover) hemit)

end Sys2Proof.Laws.Beats
end

section
/-! SUPPORT. Memory units, of O31 (R162, R190). -/
namespace Sys2Proof.Laws.Beats

open Sys2Proof Sys2Proof.Machine Sys2Proof.Claims Sys2Proof.Laws

variable {s s' : State} {t T : Task} {c j : Nat} {x : Cell} {v : BitVec 240} {q : Pass} {ps : List Pass} {r : LinkRec}

/-! ### One access -/

theorem muRead_v (s : State) (t : Task) (x : Cell) (v : BitVec 240) (i : Nat) (hj : j < 16) : (s.muRead t x v i).v[j]? =
    some (if j < muLanes v then
      BitVec.ofNat 32 (ofLeBytes (s.scratchRead t (x.idx * 2 ^ 17 + (muAt v i).toNat + j * muLane v) (muLane v))) else 0) := by
  simp [State.muRead, muAddr, hj]

theorem muRead_m (s : State) (t : Task) (x : Cell) (v : BitVec 240) (i : Nat) (hj : j < 16) :
    (s.muRead t x v i).m.getLsbD j = decide (j < muLanes v) := Records.getLsbD_maskOf _ hj

theorem muWrite_one (s : State) (t : Task) (x : Cell) (v : BitVec 240) (i : Nat) (r : LinkRec) (hlanes : muLanes v = 1) :
    s.muWrite t x v i r = if r.m.getLsbD 0 = true then
      s.scratchWrite t (x.idx * 2 ^ 17 + (muAt v i).toNat) (natBytes (muLane v) (r.v.getD 0 0).toNat) else s := by
  simp [State.muWrite, hlanes, bit16, muAddr]

/-! ### Streams -/

theorem muStep_idx (x : Cell) (fibre : Bool) : (x.muStep fibre).idx = x.idx := by
  rw [Cell.muStep]
  split
  · rfl
  · split_ifs <;> rfl

theorem muBeat_read (hc : t.cell? c = some x) (hmode : muMode v = 1) (hpass : x.passes = q :: ps) (hlaunched : t.launched q = true)
    (htail : x.tail = 0) (hgranted : q.pos < q.granted)
    (hplace : (t.putCell (x.muStep (muTokens x v))).place (t.dests c 8) (muItem (muTokens x v) (s.muRead t x v q.pos)) = some T) :
    s.muBeat t x v = .ok (s, T) := by
  obtain rfl := cell_idx hc
  simp [State.muBeat, hmode, State.muSource, hpass, hlaunched, htail, Nat.not_le.2 hgranted, muStep_idx, hplace]

/-- The cell of a write or rw stream after an access: the next one comes. -/
def passed (v : BitVec 240) (x y : Cell) : Cell := { y with pos := if x.pos + 1 < muCount v then x.pos + 1 else 0 }

theorem muRecord_eq (hc : t.cell? c = some x) : s.muRecord t x v r =
    if muMode v = 3 then match ((t.take (.cell c 9)).updCell c (passed v x)).place
        (((t.take (.cell c 9)).updCell c (passed v x)).dests c 8) (muItem (muTokens x v) (s.muRead t x v x.pos)) with
      | some T => .ok (s.muWrite t x v x.pos r, T)
      | none => .error .idle
    else .ok (s.muWrite t x v x.pos r, (t.take (.cell c 9)).updCell c (passed v x)) := by
  obtain rfl := cell_idx hc
  obtain ⟨y, hy⟩ := cell?_isSome_of_idx (t' := t.take (.cell x.idx 9)) (setQueue_idx _ _ _) hc
  simp only [State.muRecord, hy, updCell_eq hy]
  rfl

section
variable (hc : t.cell? c = some x) (hhead : (t.head (.cell c 9)).map Item.body = some (.record r))
include hc hhead

theorem muTake_record : s.muTake t x v = s.muRecord t x v r := by
  obtain rfl := cell_idx hc
  rw [State.muTake, hhead]

theorem muBeat_write (hmode : muMode v = 2) :
    s.muBeat t x v = .ok (s.muWrite t x v x.pos r, (t.take (.cell c 9)).updCell c (passed v x)) := by
  simp only [State.muBeat, hmode, muTake_record hc hhead, muRecord_eq hc]
  rfl

theorem muBeat_readWrite (hmode : muMode v = 3)
    (hplace : ((t.take (.cell c 9)).updCell c (passed v x)).place (((t.take (.cell c 9)).updCell c (passed v x)).dests c 8)
      (muItem (muTokens x v) (s.muRead t x v x.pos)) = some T) :
    s.muBeat t x v = .ok (s.muWrite t x v x.pos r, T) := by
  simp only [State.muBeat, hmode, muTake_record hc hhead, muRecord_eq hc, hplace, if_true]

end

theorem leaves_muAccess (hworks : Works s t) (hc : t.cell? c = some x) (hv : x.mu = some v) (hfires : s.muBeat t x v = .ok (s', T)) :
    Leaves s' t (.mu c) T (exec (.muAccess t.handle c) s) :=
  leaves_of_step (exec_muAccess hworks.1) hworks (by simp only [State.fireUnit, hc, hv, hfires])

theorem muBeats : MuBeats := by
  refine ⟨fun s t x v i j _ hj => ⟨muRead_v s t x v i hj, muRead_m s t x v i hj, rfl⟩, ?_, ?_, fun s t x v i r => muWrite_one s t x v i r⟩
  · intro s t c x v q r T hworks hc hv hmode hpass hlaunched htail hgranted hplace
    exact leaves_muAccess hworks hc hv (muBeat_read hc hmode hpass hlaunched htail hgranted hplace)
  · rintro s t c x v r T1 hworks hc hv hhead rfl
    exact ⟨fun hmode => leaves_muAccess hworks hc hv (muBeat_write hc hhead hmode),
      fun hmode T hplace => leaves_muAccess hworks hc hv (muBeat_readWrite hc hhead hmode hplace)⟩

end Sys2Proof.Laws.Beats
end

section
/-! SUPPORT. Arithmetic units in fibre mode, of O31 (R226, R233). -/
namespace Sys2Proof.Laws.Beats

open Sys2Proof Sys2Proof.Machine Sys2Proof.Claims Sys2Proof.Laws

variable {s s' : State} {t T : Task} {c : Nat} {x : Cell} {v : BitVec 240} {w : BitVec 32} {toks : Nat → BitVec 36}

/-- The token at an input of a unit, E where there is none. -/
def unitTok (t : Task) (x : Cell) (n : Nat) : BitVec 36 := ((t.tokHead x n).map Prod.fst).getD absentTok

theorem unitTok_of_head {n : Nat} {k : BitVec 36 × Bool} (h : t.tokHead x n = some k) : unitTok t x n = k.1 := by
  rw [unitTok, h]; rfl

@[simp] theorem isItem_stop (j : Nat) : (Tok.stop j).isItem = false := rfl
@[simp] theorem isItem_done : Tok.done.isItem = false := rfl
@[simp] theorem isItem_h (w : BitVec 32) : (Tok.h w).isItem = false := rfl

/-- What an arithmetic unit does with the tokens of its enabled inputs. -/
def unitTokens (s : State) (t : Task) (x : Cell) (v : BitVec 240) : Fired :=
  let ks := (cuIns v).map fun n => tokOf (unitTok t x n)
  if ks.all Tok.isItem then
    if ks.contains .e then orIdle s ((t.takeUnit x.idx (cuIns v)).emitAll x v absentTok)
    else orIdle s (t.unitItems x v (unitTok t x))
  else match ks with
    | .stop j :: r => if r.all (· == .stop j) then orIdle s ((t.takeUnit x.idx (cuIns v)).emitAll x v (stopTok j))
      else .error (malformed 4 x.idx ((cuIns v).headD 0) false t.openGo)
    | .done :: r => if r.all (· == .done) then orIdle s ((t.takeUnit x.idx (cuIns v)).emitAll x v doneTok)
      else .error (malformed 4 x.idx ((cuIns v).headD 0) false t.openGo)
    | _ => .error (malformed 4 x.idx ((cuIns v).headD 0) false t.openGo)

section
variable (hfaults : ∀ n ∈ cuIns v, ∀ k, t.tokHead x n = some k → unitFault n (x.port n) (tokOf k.1) = none)
include hfaults

theorem unitFaults_none : ((cuIns v).map fun n => (n, t.tokHead x n)).findSome? (fun h => h.2.bind fun k =>
    (unitFault h.1 (x.port h.1) (tokOf k.1)).map fun e => (e, h.1)) = none := by
  rw [List.findSome?_eq_none_iff]
  intro h hh
  obtain ⟨n, hn, rfl⟩ := List.mem_map.1 hh
  rcases hk : t.tokHead x n with _ | k
  · rfl
  · simp [hfaults n hn k hk]

theorem unitBeat_header (h0 : cuIn v 0 = true) (hhead : t.tokHead x 0 ≠ none) (htok : tokOf (unitTok t x 0) = .h w) :
    s.unitBeat t x v = orIdle s ((t.takeUnit x.idx [0]).emitAll x v (hNext w)) := by
  obtain ⟨k, hk⟩ := Option.ne_none_iff_exists'.1 hhead
  rw [unitTok_of_head hk] at htok
  simp only [State.unitBeat, unitFaults_none hfaults, h0, hk, if_true, Option.map_some, htok]

/-- Where no header stands at input 0 and every enabled input holds a token, the unit works on the tokens. -/
theorem unitBeat_tokens (hins : cuIns v ≠ []) (hheads : ∀ n ∈ cuIns v, t.tokHead x n ≠ none)
    (hheader : cuIn v 0 = true → ∀ w, tokOf (unitTok t x 0) ≠ .h w) : s.unitBeat t x v = unitTokens s t x v := by
  have hsome : ((cuIns v).map fun n => (n, t.tokHead x n)).any (fun h => h.2.isNone) = false := by
    simpa [List.any_eq_false, Option.isNone_iff_eq_none] using hheads
  have hempty : (cuIns v).isEmpty = false := by simpa using hins
  unfold State.unitBeat
  extract_lets heads bad
  rw [unitFaults_none hfaults]
  split
  · contradiction
  split
  case h_1 w hw =>
    by_cases h0 : cuIn v 0 = true
    · rw [if_pos h0, Option.map_eq_some_iff] at hw
      obtain ⟨k, hk, htok⟩ := hw
      exact absurd (by rw [unitTok_of_head hk, htok]) (hheader h0 w)
    · simp [h0] at hw
  case h_2 =>
    rw [hsome, hempty]
    rfl

end

/-! ### What the tokens give -/

theorem unitTokens_items (hitems : ∀ n ∈ cuIns v, (tokOf (unitTok t x n)).isItem = true ∧ tokOf (unitTok t x n) ≠ .e) :
    unitTokens s t x v = orIdle s (t.unitItems x v (unitTok t x)) := by
  have hall : ((cuIns v).map fun n => tokOf (unitTok t x n)).all Tok.isItem = true := by
    simpa [List.all_eq_true] using fun n hn => (hitems n hn).1
  have hnone : ((cuIns v).map fun n => tokOf (unitTok t x n)).contains .e = false := by
    rw [Bool.eq_false_iff, ne_eq, List.contains_iff_mem, List.mem_map]
    rintro ⟨n, hn, he⟩
    exact (hitems n hn).2 he
  simp only [unitTokens, hall, hnone, if_true]
  rfl

theorem unitTokens_absent (hitems : ∀ n ∈ cuIns v, (tokOf (unitTok t x n)).isItem = true)
    (habsent : ∃ n ∈ cuIns v, tokOf (unitTok t x n) = .e) :
    unitTokens s t x v = orIdle s ((t.takeUnit x.idx (cuIns v)).emitAll x v absentTok) := by
  have hall : ((cuIns v).map fun n => tokOf (unitTok t x n)).all Tok.isItem = true := by
    simpa [List.all_eq_true] using hitems
  have hsome : ((cuIns v).map fun n => tokOf (unitTok t x n)).contains .e = true := by
    rw [List.contains_iff_mem, List.mem_map]
    exact habsent
  simp only [unitTokens, hall, hsome, if_true]

/-- Tokens that are one and the same. -/
theorem map_eq_cons_of_forall {k : Tok} (hins : cuIns v ≠ []) (hsame : ∀ n ∈ cuIns v, tokOf (toks n) = k) :
    ∃ r, ((cuIns v).map fun n => tokOf (toks n)) = k :: r ∧ (r.all (· == k)) = true := by
  obtain ⟨n, l, hl⟩ := List.exists_cons_of_ne_nil hins
  rw [hl] at hsame ⊢
  refine ⟨l.map fun n => tokOf (toks n), by simp [hsame n], ?_⟩
  simpa [List.all_eq_true] using fun m hm => hsame m (by simp [hm])

theorem unitTokens_stop {j : Nat} (hins : cuIns v ≠ []) (hstops : ∀ n ∈ cuIns v, tokOf (unitTok t x n) = .stop j) :
    unitTokens s t x v = orIdle s ((t.takeUnit x.idx (cuIns v)).emitAll x v (stopTok j)) := by
  obtain ⟨r, hr, hall⟩ := map_eq_cons_of_forall hins hstops
  unfold unitTokens
  simp only [hr]
  rw [List.all_cons, if_neg (by simp), if_pos hall]

theorem unitTokens_done (hins : cuIns v ≠ []) (hdone : ∀ n ∈ cuIns v, tokOf (unitTok t x n) = .done) :
    unitTokens s t x v = orIdle s ((t.takeUnit x.idx (cuIns v)).emitAll x v doneTok) := by
  obtain ⟨r, hr, hall⟩ := map_eq_cons_of_forall hins hdone
  unfold unitTokens
  simp only [hr]
  rw [List.all_cons, if_neg (by simp), if_pos hall]

/-- A stop beside a token that is another one is malformed. -/
theorem unitTokens_unlike {n m j : Nat} (hn : n ∈ cuIns v) (hm : m ∈ cuIns v) (hstop : tokOf (unitTok t x n) = .stop j)
    (hother : tokOf (unitTok t x m) ≠ .stop j) :
    unitTokens s t x v = .error (malformed 4 x.idx ((cuIns v).headD 0) false t.openGo) := by
  have hnmem : Tok.stop j ∈ (cuIns v).map fun n => tokOf (unitTok t x n) := List.mem_map.2 ⟨n, hn, hstop⟩
  have hmmem : tokOf (unitTok t x m) ∈ (cuIns v).map fun n => tokOf (unitTok t x n) := List.mem_map.2 ⟨m, hm, rfl⟩
  have hall : ((cuIns v).map fun n => tokOf (unitTok t x n)).all Tok.isItem = false := by
    rw [List.all_eq_false]
    exact ⟨_, hnmem, by simp⟩
  simp only [unitTokens, hall]
  split
  · rename_i hfalse; simp at hfalse
  split
  case h_1 i r hks =>
    rw [hks, List.mem_cons] at hnmem hmmem
    rw [if_neg]
    intro hr
    have hr (k : Tok) (hk : k ∈ r) : k = .stop i := by simpa using List.all_eq_true.1 hr k hk
    have hij : Tok.stop j = .stop i := hnmem.elim id (hr _)
    exact hother ((hmmem.elim id (hr _)).trans hij.symm)
  case h_2 r hks =>
    rw [hks, List.mem_cons] at hnmem
    rw [if_neg]
    intro hr
    have hr (k : Tok) (hk : k ∈ r) : k = .done := by simpa using List.all_eq_true.1 hr k hk
    have hdone : Tok.stop j = .done := hnmem.elim id (hr _)
    cases hdone
  case h_3 => rfl

/-! ### Items -/

theorem takeUnit_idx (t : Task) (c : Nat) (ps : List Nat) : (t.takeUnit c ps).cells.map Cell.idx = t.cells.map Cell.idx := by
  induction ps generalizing t with
  | nil => rfl
  | cons n ps ih =>
    rw [Task.takeUnit, List.foldl_cons, ← Task.takeUnit, ih]
    split
    · rfl
    · split
      · rfl
      · rw [Task.take, setQueue_idx, putCell_idx]

theorem unitItems_pass (hbusy : busyStages v = []) : t.unitItems x v toks = (t.takeUnit x.idx (cuIns v)).emit x.idx
    ((cuOuts v).map fun n => (n, .token (passToken v toks (cuOutSrc v n)))) := by
  simp [Task.unitItems, hbusy]

theorem unitItems_stages {res : List LinkRec} {acc : List (List Lane)} {fl : Flags} (hc : t.cell? x.idx = some x)
    (hbusy : busyStages v ≠ [])
    (hrun : runStages t.crec.ftz v x.acc (fun n => (Item.token (toks n)).asRecord) none = (res, acc, fl)) :
    t.unitItems x v toks = (((t.takeUnit x.idx (cuIns v)).flag fl).updCell x.idx fun y => { y with acc := acc }).emit x.idx
      ((cuOuts v).map fun n => (n, .token (mkTok 2 ((res.getD (cuOutSrc v n) LinkRec.none).v.headD 0)))) := by
  obtain ⟨y, hy⟩ := cell?_isSome_of_idx (t' := (t.takeUnit x.idx (cuIns v)).flag fl) (takeUnit_idx t x.idx (cuIns v)) hc
  have hbusy : (busyStages v).isEmpty = false := by simpa using hbusy
  simp only [Task.unitItems, hbusy, hrun, hy, updCell_eq hy]
  rfl

/-! ### The step -/

theorem joins_eq (hv : x.cu = some v) : x.joins = (cuFibre v && 0x60 ≤ cuOp v 0 && cuOp v 0 ≤ 0x66) := by
  rw [Cell.joins, hv]

theorem mem_cuIns {n : Nat} (hn : n < 4) : n ∈ cuIns v ↔ cuIn v n = true := by
  simp [cuIns, hn]

theorem fireUnit_unit (hc : t.cell? c = some x) (hv : x.cu = some v) (hfibre : cuFibre v = true)
    (hop : ¬ (0x60 ≤ cuOp v 0 ∧ cuOp v 0 ≤ 0x66)) : s.fireUnit t (.cu c) = s.unitBeat t x v := by
  have hjoins : x.joins = false := by rw [joins_eq hv]; simpa [hfibre] using hop
  simp [State.fireUnit, hc, hv, hfibre, State.fibreBeat, hjoins]

theorem fibreBeats : FibreBeats := by
  rintro s t c x v toks T hworks hc hv hfibre hop hins rfl hfaults
  obtain rfl := cell_idx hc
  have hstep := exec_cuStep (i := .fibreUnitFire t.handle x.idx) rfl rfl hworks.1 hc hv ⟨hfibre, hop⟩
  have hleaves (o : Option Task) (hbeat : s.unitBeat t x v = orIdle s o) (ho : o = some T) :
      Leaves s t (.cu x.idx) T (exec (.fibreUnitFire t.handle x.idx) s) :=
    leaves_of_step hstep hworks (by rw [fireUnit_unit hc hv hfibre hop, hbeat, ho, orIdle])
  refine ⟨fun w h0 hhead htok hemit => hleaves _ (unitBeat_header hfaults h0 hhead htok) hemit, fun hheads => ?_⟩
  have htokens (hno : ∀ w, 0 ∈ cuIns v → tokOf (unitTok t x 0) ≠ .h w) : s.unitBeat t x v = unitTokens s t x v :=
    unitBeat_tokens hfaults hins hheads fun h0 w => hno w ((mem_cuIns (by omega)).2 h0)
  have hnoItem (hitems : ∀ n ∈ cuIns v, (tokOf (unitTok t x n)).isItem = true) (w : BitVec 32) (h0 : 0 ∈ cuIns v) :
      tokOf (unitTok t x 0) ≠ .h w := fun h => by simpa [h] using hitems 0 h0
  refine ⟨fun hitems => ?_, fun hitems habsent hemit => ?_, fun j hstops hemit => ?_, fun hdone hemit => ?_, ?_⟩
  · have hbeat := (htokens (hnoItem fun n hn => (hitems n hn).1)).trans (unitTokens_items hitems)
    exact ⟨fun res acc fl hbusy hrun hemit => hleaves _ hbeat ((unitItems_stages hc hbusy hrun).trans hemit),
      fun hbusy hemit => hleaves _ hbeat ((unitItems_pass hbusy).trans hemit)⟩
  · exact hleaves _ ((htokens (hnoItem hitems)).trans (unitTokens_absent hitems habsent)) hemit
  · refine hleaves _ ((htokens fun w h0 h => ?_).trans (unitTokens_stop hins hstops)) hemit
    cases h.symm.trans (hstops 0 h0)
  · refine hleaves _ ((htokens fun w h0 h => ?_).trans (unitTokens_done hins hdone)) hemit
    cases h.symm.trans (hdone 0 h0)
  · intro n m j hn hm hstop hother hheader
    refine meets_of_step hstep hworks ?_
    rw [fireUnit_unit hc hv hfibre hop, htokens fun w _ => hheader w, unitTokens_unlike hn hm hstop hother, malformed]
    rfl

end Sys2Proof.Laws.Beats
end

section
/-! SUPPORT. Edge address generators, of O31 (R222, R235–R239). -/
namespace Sys2Proof.Laws.Beats

open Sys2Proof Sys2Proof.Machine Sys2Proof.Claims Sys2Proof.Laws

variable {s s' : State} {t t' T T1 : Task} {p m va : Nat} {a b : Ag} {q : Pass} {ps : List Pass} {o x y : Item} {os : List Item}
  {k i : Tok} {w : BitVec 32} {l : List Byte}

/-! ### What a generator is -/

theorem agAddress_eq (a : Ag) (disp : Int) : a.addr disp = agAddress a disp := by
  simp [Ag.addr, Ag.width, agAddress]

theorem agRead_eq (hread : s.viewRead t (placeCluster a.place) va m = (s', .ok (t', l))) (n : Nat) :
    s.agRead t a va m n = .ok (s', t', ofLeBytes l) := by
  rw [State.agRead, hread]

theorem tokVal_of_v {e : BitVec 36} (h : tokOf e = .v w) : tokVal e = w := by
  unfold tokOf at h
  split at h
  case h_3 => exact Tok.v.inj h
  case h_7 => split at h <;> cases h
  all_goals cases h

theorem start_of_headers (h : a.headers = []) : a.start = a := by
  obtain ⟨⟩ := a
  subst h
  simp [Ag.start, agApply]

theorem tookIn_eq (ac : Accept) (r : PortState) (h : k ≠ .done) : tookIn ac r k = ac.took r k := if_neg h

theorem agEmit_nothing (hout : a.out = []) (hout2 : a.out2 = []) : t.agEmit a = none := by
  simp [Task.agEmit, hout, hout2]

theorem agEmit_first (ha : t.ag? p = some a) (hout : a.out = o :: os) (hout2 : a.out2 = [])
    (hplace : (t.updAg p fun b => { b with out := os }).place (t.agDests p (agPort a.frame)) o = some T) : t.agEmit a = some T := by
  obtain rfl := ag_place ha
  simp [Task.agEmit, hout, hout2, hplace]

/-! ### AFFINE (R235) -/

theorem affineBeat_emits (ha : t.ag? p = some a) (hsource : t.agSource a = true) (hpass : PassAt t a q ps) (hout : a.out = o :: os)
    (hout2 : a.out2 = []) (hplace : (t.updAg p fun b => { b with out := os }).place (t.agDests p (agPort a.frame)) o = some T)
    (hb : T.ag? p = some b) :
    s.affineBeat t a = .ok (s, if b.out = [] ∧ q.total ≤ q.pos then T.agEndPass b else T) := by
  obtain ⟨hpasses, hlaunched⟩ := hpass
  have hemit := agEmit_first ha hout hout2 hplace
  obtain rfl := ag_place ha
  simp [State.affineBeat, hsource, hpasses, hlaunched, hemit, hb]

/-- What an AFFINE read in token mode leaves of its generator. -/
theorem affineBeat_reads (ha : t.ag? p = some a) (hsource : t.agSource a = true) (hpass : PassAt t a q ps) (hout : a.out = [])
    (hout2 : a.out2 = []) (hgranted : q.pos < q.granted)
    (hread : s.viewRead t (placeCluster p) (agAddress a (a.boxDisp q.pos)) (2 ^ agEsize a.frame) = (s', .ok (t', l)))
    (htokens : agTokens a.frame = true) : s.affineBeat t a = .ok (s', t'.updAg p fun b => { b with
      passes := match b.passes with | y :: z => { y with pos := y.pos + 1 } :: z | [] => []
      out := .token (mkTok 2 (BitVec.ofNat 32 (ofLeBytes l))) ::
        ((match a.closes q.pos with | some k => [Item.token (stopTok k)] | none => []) ++
          if q.total ≤ q.pos + 1 then [.token doneTok] else []) }) := by
  obtain ⟨hpasses, hlaunched⟩ := hpass
  obtain rfl := ag_place ha
  rw [← agAddress_eq] at hread
  have hread := agRead_eq (a := a) hread q.pos
  simp only [State.affineBeat, hsource, hpasses, hlaunched, agEmit_nothing hout hout2, hout, List.isEmpty_nil, Nat.not_le.2 hgranted]
  simp [State.affineRead, Ag.width, hread, htokens] <;> rfl

theorem affineBeat_writes {e : BitVec 36} (ha : t.ag? p = some a) (hsource : t.agSource a = false)
    (hhead : (t.head (.ag p false)).map Item.body = some (.token e)) (htok : tokOf e = .v w) (hlast : a.inp.lastStop = none)
    (hpos : a.pos = 0) (hbox : 0 < a.boxTotal)
    (hwrite : s.agWrite (t.take (.ag p false)) a (agAddress a (a.boxDisp 0)) (natBytes (min (2 ^ agEsize a.frame) 4) w.toNat) 0 =
      .ok (s', t')) :
    s.affineBeat t a = .ok (s', t'.updAg p fun b =>
      { b with pos := b.pos + 1, inp := { b.inp with begun := true, lastStop := none } }) := by
  obtain rfl := ag_place ha
  have hval : tokVal e = w := tokVal_of_v htok
  rw [← agAddress_eq] at hwrite
  have hwrite : s.agWrite (t.take (.ag a.place false)) a (a.addr (a.boxDisp 0)) (natBytes (min a.width 4) w.toNat) 0 = .ok (s', t') :=
    hwrite
  simp [State.affineBeat, hsource, hhead, State.affineToken, htok, hlast, hpos, hval, Nat.pos_iff_ne_zero.1 hbox, hwrite, Except.map]

/-! ### GATHER (R236) -/

theorem gatherEmit_none (h : a.gathers = [] ∨ ∃ va g, a.gathers = (va, none) :: g) : t.gatherEmit a = none := by
  obtain h | ⟨va, g, h⟩ := h <;> simp [Task.gatherEmit, h]

theorem gatherBeat_gives {e : BitVec 36} {g : List (Nat × Option (BitVec 36))} (ha : t.ag? p = some a)
    (hgathers : a.gathers = (va, some e) :: g)
    (hplace : (t.updAg p fun b => { b with gathers := g }).place (t.agDests p (agPort a.frame)) (.token e) = some T) :
    s.gatherBeat t a = .ok (s, T) := by
  obtain rfl := ag_place ha
  simp [State.gatherBeat, Task.gatherEmit, hgathers, hplace]

theorem gatherBeat_requests (ha : t.ag? p = some a) (hgathers : a.gathers = [] ∨ ∃ va g, a.gathers = (va, none) :: g)
    (hheaders : a.headers = []) (hhead : t.head (.ag p false) = some x) (htok : tokOf x.asToken = k)
    (hkind : (∃ w, k = .c w ∨ k = .f w)) (hfault : a.accept.fault a.inp k = none) (hbound : k.val.toNat < agBound a.frame) :
    s.gatherBeat t a = .ok (s, ((t.putAg a).take (.ag p false)).updAg p fun b => { b with
      inp := a.accept.took b.inp k, gathers := b.gathers ++ [(agAddress a ((k.val.toNat : Int) * agStride a.frame 0), none)] }) := by
  obtain rfl := ag_place ha
  obtain ⟨w, rfl | rfl⟩ := hkind <;>
    simp only [State.gatherBeat, gatherEmit_none hgathers, State.gatherTake, hhead, htok, start_of_headers hheaders, hfault,
      Nat.not_le.2 hbound, agAddress_eq] <;> rfl

/-! ### SCATTER (R237) -/

theorem scatterBeat_stores (ha : t.ag? p = some a) (hheaders : a.headers = []) (hhead : t.head (.ag p false) = some x)
    (hvalue : t.head (.ag p true) = some y) (hi : tokOf x.asToken = i) (hkind : ∃ z, i = .c z ∨ i = .f z) (hv : tokOf y.asToken = .v w)
    (hfault : a.accept.fault a.inp i = none) (vAcc : Accept)
    (hacc : vAcc = { c := false, f := false, v := true, e := true, depth := agDepth a.frame, order := 0 })
    (hvFault : vAcc.fault a.inp2 (.v w) = none) (hbound : i.val.toNat < agBound a.frame)
    (hwrite : s.agWrite ((((t.putAg a).take (.ag p false)).take (.ag p true)).updAg p fun b =>
      { b with inp := a.accept.took b.inp i, inp2 := vAcc.took b.inp2 (.v w) }) a
      (agAddress a ((i.val.toNat : Int) * agStride a.frame 0)) (natBytes (min (2 ^ agEsize a.frame) 4) w.toNat) a.pos = .ok (s', t')) :
    s.scatterBeat t a = .ok (s', t') := by
  obtain rfl := ag_place ha
  subst hacc
  rw [← agAddress_eq] at hwrite
  obtain ⟨z, rfl | rfl⟩ := hkind <;>
    simp only [State.scatterBeat, hhead, hvalue, Option.map_some, hi, hv, start_of_headers hheaders, Option.bind_some, hfault, hvFault,
      Nat.not_le.2 hbound] <;> exact hwrite

/-! ### LEVEL (R238) -/

theorem levelBeat_takes (hdepth : agDepth a.frame ≠ 0) (hout : a.out = []) (hout2 : a.out2 = []) :
    s.levelBeat t a = s.levelTake t a := by
  simp [State.levelBeat, agEmit_nothing hout hout2, hout, hout2, hdepth]

section
variable (ha : t.ag? p = some a) (hdepth : agDepth a.frame ≠ 0) (hheaders : a.headers = []) (hout : a.out = []) (hout2 : a.out2 = [])
  (hhead : t.head (.ag p false) = some x)
include ha hdepth hheaders hout hout2 hhead

theorem levelBeat_raises {n : Nat} (htok : tokOf x.asToken = .stop n) (hfault : a.accept.fault a.inp (.stop n) = none) (hn : n < 5) :
    s.levelBeat t a = .ok (s, (((t.putAg a).take (.ag p false)).updAg p fun b => { b with inp := a.accept.took b.inp (.stop n) }).updAg p
      fun b => { b with out := b.out ++ [.token (stopTok (n + 1))], out2 := b.out2 ++ [.token (stopTok (n + 1))], open? := false }) := by
  rw [levelBeat_takes hdepth hout hout2]
  obtain rfl := ag_place ha
  simp only [State.levelTake, hhead, htok, start_of_headers hheaders, hfault, Nat.not_le.2 hn]
  rfl

theorem levelBeat_expands (htok : tokOf x.asToken = .f w) (hfault : a.accept.fault a.inp (.f w) = none)
    (hbound : w.toNat < agBound a.frame) (hp1 : agP1 a.frame = 0) (hfan : agFan a.frame = 1) :
    s.levelBeat t a = .ok (s, (((t.putAg a).take (.ag p false)).updAg p fun b => { b with inp := a.accept.took b.inp (.f w) }).updAg p
      fun b => { b with out := b.out ++ (if a.open? = true then [Item.token (stopTok 0)] else []) ++ [.token (mkTok 0 0)],
                        out2 := b.out2 ++ (if a.open? = true then [Item.token (stopTok 0)] else []) ++ [.token (mkTok 1 w)],
                        open? := true }) := by
  rw [levelBeat_takes hdepth hout hout2]
  obtain rfl := ag_place ha
  have hval : (Tok.f w).val = w := rfl
  simp only [State.levelTake, hhead, htok, start_of_headers hheaders, hfault, hval, Nat.not_le.2 hbound, State.levelFibre, hp1, if_true,
    hfan, List.range_one, State.levelTokens, State.levelCoord, Nat.mul_one, Nat.add_zero, BitVec.ofNat_toNat, BitVec.setWidth_eq]
  rfl

end

/-! ### CHANNEL (R239, R281) -/

theorem channelBeat_pops {u : State} {c : Chan} {e : Entry} (ha : t.ag? p = some a) (hfree : t.isFrozen 7 p 1 = false)
    (hdepth : agDepth a.frame = 0)
    (hpass : PassAt t a q ps) (hout : a.out = []) (hout2 : a.out2 = []) (hgranted : q.pos < q.granted)
    (hopen : s.openChan t a.chan = (u, .ok c)) (hfirst : q.pos = 0 → c.popBad t.handle (some false) = none ∧ c.esize = 1)
    (hnext : c.next = some e) (hfits : ofLeBytes e.data < 2 ^ 36) (htag : tokOf (BitVec.ofNat 36 (ofLeBytes e.data)) ≠ .bad) :
    s.channelBeat t a = .ok (u.putChan (c.popNext t.handle), t.updAg p fun b => { b with
      out := [.token (canonTok (BitVec.ofNat 36 (ofLeBytes e.data)))]
      passes := { q with pos := if tokOf (BitVec.ofNat 36 (ofLeBytes e.data)) = .done ∨ q.total ≤ q.pos + 1 then q.total else q.pos + 1 } ::
        b.passes.drop 1 }) := by
  obtain rfl := ag_place ha
  obtain ⟨hpasses, hlaunched⟩ := hpass
  have hfirst : (if q.pos = 0 then (c.popBad t.handle (some false)).or c.tokenWidth else none) = none := by
    split
    · next h => obtain ⟨hpop, hsize⟩ := hfirst h; simp [hpop, Chan.tokenWidth, hsize]
    · rfl
  have hfits : ¬ 68719476736 ≤ ofLeBytes e.data := by omega
  simp only [State.channelBeat, hfree, hdepth, hpasses, hlaunched, agEmit_nothing hout hout2, hout, List.isEmpty_nil,
    Nat.not_le.2 hgranted]
  simp [State.channelPop, hopen, hfirst, hnext, hfits, htag]

/-! ### The steps -/

theorem leaves_agStep {j : Instr} (hat : AgAt s t p a m) (hstep : agStep j = some (t.handle, p, m))
    (hfires : s.agBeat t a = .ok (s', T)) : Leaves s' t (.ag p) T (exec j s) := by
  obtain ⟨hworks, ha, hmode, -⟩ := hat
  exact leaves_of_step (exec_agStep hstep rfl hworks.1 ha hmode) hworks (by simp only [State.fireUnit, ha, hfires])

theorem agBeat_affine (hat : AgAt s t p a 1) : s.agBeat t a = s.affineBeat t a := by
  obtain ⟨-, -, hmode, hfree⟩ := hat
  simp [State.agBeat, hfree, hmode]

theorem agBeat_gather (hat : AgAt s t p a 2) : s.agBeat t a = s.gatherBeat t a := by
  obtain ⟨-, -, hmode, hfree⟩ := hat
  simp [State.agBeat, hfree, hmode]

theorem agBeat_scatter (hat : AgAt s t p a 3) : s.agBeat t a = s.scatterBeat t a := by
  obtain ⟨-, -, hmode, hfree⟩ := hat
  simp [State.agBeat, hfree, hmode]

theorem agBeat_level (hat : AgAt s t p a 4) : s.agBeat t a = s.levelBeat t a := by
  obtain ⟨-, -, hmode, hfree⟩ := hat
  simp [State.agBeat, hfree, hmode]

theorem agBeat_channel (hat : AgAt s t p a 5) : s.agBeat t a = s.channelBeat t a := by
  obtain ⟨-, -, hmode, hfree⟩ := hat
  simp [State.agBeat, hfree, hmode]

theorem agBeats : AgBeats := by
  refine ⟨?_, ?_, ?_, ?_, ?_, ?_, ?_, ?_⟩
  · intro s t p a q r s' t' l hat hsource hpass hout hout2 hgranted hread htokens
    exact leaves_agStep hat rfl ((agBeat_affine hat).trans (affineBeat_reads hat.2.1 hsource hpass hout hout2 hgranted hread htokens))
  · intro s t p a q r o os T1 b hat hsource hpass hout hout2 hplace hb
    exact leaves_agStep hat rfl ((agBeat_affine hat).trans (affineBeat_emits hat.2.1 hsource hpass hout hout2 hplace hb))
  · intro s t p a k w s' t' hat hsource hhead htok hlast hpos hbox hwrite
    exact leaves_agStep hat rfl ((agBeat_affine hat).trans (affineBeat_writes hat.2.1 hsource hhead htok hlast hpos hbox hwrite))
  · intro s t p a x k hat hgathers hheaders hhead htok hkind hfault hbound
    exact leaves_agStep hat rfl ((agBeat_gather hat).trans
      (gatherBeat_requests hat.2.1 hgathers hheaders hhead htok hkind hfault hbound))
  · intro s t p a va k g T hat hgathers hplace
    exact leaves_agStep hat rfl ((agBeat_gather hat).trans (gatherBeat_gives hat.2.1 hgathers hplace))
  · intro s t p a x y i w vAcc s' t' hat hheaders hhead hvalue hi hkind hv hfault hacc hvFault hbound hwrite
    exact leaves_agStep hat rfl ((agBeat_scatter hat).trans
      (scatterBeat_stores hat.2.1 hheaders hhead hvalue hi hkind hv hfault vAcc hacc hvFault hbound hwrite))
  · intro s t p a x k hat hdepth hheaders hout hout2 hhead htok hfault
    constructor
    · rintro n rfl hn
      exact leaves_agStep hat rfl ((agBeat_level hat).trans
        (levelBeat_raises hat.2.1 hdepth hheaders hout hout2 hhead htok hfault hn))
    · rintro w rfl hbound hp1 hfan
      exact leaves_agStep hat rfl ((agBeat_level hat).trans
        (levelBeat_expands hat.2.1 hdepth hheaders hout hout2 hhead htok hfault hbound hp1 hfan))
  · rintro s t p a q r u c e k hat hfree hdepth hpass hout hout2 hgranted hopen hfirst hnext rfl hfits htag
    exact leaves_agStep hat rfl ((agBeat_channel hat).trans
      (channelBeat_pops hat.2.1 hfree hdepth hpass hout hout2 hgranted hopen hfirst hnext hfits htag))

end Sys2Proof.Laws.Beats
end

section
/-! SUPPORT. Join stages, of O31 (R227–R233, R242). -/
namespace Sys2Proof.Laws.Beats

open Sys2Proof Sys2Proof.Machine Sys2Proof.Claims Sys2Proof.Laws

variable {s : State} {t t0 T T1 : Task} {c n e p q o : Nat} {x x0 y : Cell} {v v0 : BitVec 240} {j : JoinPorts} {ka kb ca cb : BitVec 36}
  {ps l r : List Nat} {k : BitVec 36 × Bool} {d : BitVec 32}

/-! ### Faults in every beat (R233, R242) -/

theorem earlyFault_none (h : tokOf k.1 ≠ .bad ∧ ∀ w, tokOf k.1 ≠ .h w) : earlyFault (tokOf k.1) = none := by
  obtain ⟨hbad, hheader⟩ := h
  unfold earlyFault
  split
  case h_1 hk => exact absurd hk hbad
  case h_2 w hk => exact absurd hk (hheader w)
  case h_3 => rfl

theorem joinEarly_none (h : ∀ n ∈ cuIns v, n ≠ p → InForce t x n) : t.joinEarly x v p = none := by
  rw [Task.joinEarly, List.findSome?_eq_none_iff]
  intro n hn
  obtain ⟨hn, hp⟩ := List.mem_filter.1 hn
  rcases hk : t.tokHead x n with _ | k
  · rfl
  · rw [Option.bind_some, earlyFault_none (h n hn (by simpa using hp) k hk), Option.map_none]

theorem joinEarly_some (hins : (cuIns v).filter (· ≠ p) = l ++ n :: r) (hforce : ∀ m ∈ l, InForce t x m) (hk : t.tokHead x n = some k)
    (he : earlyFault (tokOf k.1) = some e) : t.joinEarly x v p = some (malformed e x.idx n false t.openGo) := by
  have hins : (cuIns v).filter (· != p) = l ++ n :: r := by rw [← hins]; congr 1; ext m; rw [bne, decide_not, beq_eq_decide]
  have hl : l.findSome? (fun n => (t.tokHead x n).bind fun k => (earlyFault (tokOf k.1)).map fun e =>
      malformed e x.idx n false t.openGo) = none := by
    rw [List.findSome?_eq_none_iff]
    intro m hm
    rcases hk : t.tokHead x m with _ | k
    · rfl
    · rw [Option.bind_some, earlyFault_none (hforce m hm k hk), Option.map_none]
  rw [Task.joinEarly, hins, List.findSome?_append, hl, Option.none_or, List.findSome?_cons, hk, Option.bind_some, he, Option.map_some]

theorem earlyFault_eq (h : tokOf k.1 = .bad ∧ e = 5 ∨ ∃ w, tokOf k.1 = .h w ∧ e = 7) : earlyFault (tokOf k.1) = some e := by
  obtain ⟨hk, rfl⟩ | ⟨w, hk, rfl⟩ := h <;> rw [hk] <;> rfl

theorem joinBeat_early (h : t.joinEarly x v (cuSel v 0 0) = some (malformed e x.idx n false t.openGo)) :
    s.joinBeat t x v = .error (malformed e x.idx n false t.openGo) := by
  unfold State.joinBeat
  extract_lets j0
  rw [show t.joinEarly x v j0.a = _ from h]

/-! ### The tokens that a join stands before -/

theorem cell?_putCell (hc : t0.cell? c = some x0) (hx : x.idx = c) : (t0.putCell x).cell? c = some x := by
  have hx0 := cell_idx hc
  simp only [Task.cell?, Task.putCell] at hc ⊢
  rw [List.find?_map, show ((fun y : Cell => y.idx == c) ∘ fun y => if (y.idx == x.idx) = true then x else y) = fun y => y.idx == c from ?_,
    hc]
  · simp [hx0, hx]
  · funext y
    simp only [Function.comp]
    split
    · next h => simpa [hx] using (eq_of_beq h).trans hx
    · rfl

/-- A cell with other values in force stands before the same tokens. -/
theorem tokHead_putCell (hc : t0.cell? c = some x0) (hx : x = { x0 with cu := some v, headers := [] }) (n : Nat) :
    (t0.putCell x).tokHead x n = t0.tokHead x0 n := by
  have hidx : x.idx = c := by rw [hx, ← cell_idx hc]
  have hqueue : (t0.putCell x).queue (.cell c (5 + n)) = t0.queue (.cell c (5 + n)) := by
    simp only [Task.queue, cell?_putCell hc hidx, hc]
    rw [hx]
  have hport : x.port n = x0.port n := by rw [hx]; rfl
  rw [Task.tokHead, Task.tokHead, hport, Task.head, Task.head, hidx, cell_idx hc, hqueue]

/-- The token at an input of a join, E where the join has no such input. -/
def portTok (t : Task) (x : Cell) (o : Option Nat) : BitVec 36 := (o.bind fun n => (t.tokHead x n).map Prod.fst).getD absentTok

theorem portTok_of_head (h : t.tokHead x n = some k) : portTok t x (some n) = k.1 := by
  rw [portTok, Option.bind_some, h]; rfl

/-- What a join does with the tokens that it stands before. -/
def joinTokens (s : State) (t : Task) (x : Cell) (v : BitVec 240) (j : JoinPorts) (ka kb ca cb : BitVec 36) : Fired :=
  match j.op with
  | 0x62 => s.joinRepeat t x v j ka kb ca
  | 0x63 => s.joinReduce t x v j ka ca
  | 0x65 => s.joinStop t x v j ka ca cb
  | 0x66 => s.joinCount t x v j ka
  | _ => s.joinTwo t x v j ka kb ca cb

theorem not_unlike_of {b c : Bool} (h : b = true → c = true) : ¬ (b && !c) = true := by
  cases b <;> simp_all

theorem mem_all_a (j : JoinPorts) : j.a ∈ j.all := by simp [JoinPorts.all]

theorem joinBeat_tokens (hc : t0.cell? c = some x0) (hsel : cuSel v0 0 0 = cuSel v 0 0) (hv : v = joinApply v0 x0.headers)
    (hx : x = { x0 with cu := some v, headers := [] }) (ht : t = t0.putCell x) (hat : JoinAt t x v ka kb ca cb)
    (hforce : ∀ n ∈ cuIns v0, n ≠ cuSel v0 0 0 → InForce t0 x0 n) :
    s.joinBeat t0 x0 v0 = joinTokens s t x v (joinPorts v) ka kb ca cb := by
  obtain ⟨hheads, hka, hkb, hca, hcb, hheader, hsameA, hsameB, hsameC⟩ := hat
  obtain ⟨k, f, hk, -⟩ := hheads (joinPorts v).a (mem_all_a _)
  have hka' : ka = k := hka.trans (portTok_of_head hk)
  have hk0 : t0.tokHead x0 (joinPorts v0).a = some (k, f) := by
    rw [← hk, ht, tokHead_putCell hc hx, show (joinPorts v0).a = (joinPorts v).a from hsel]
  have hearly : t0.joinEarly x0 v0 (joinPorts v0).a = none := joinEarly_none hforce
  have hfaults : ((joinPorts v).all.map fun n => (n, t.tokHead x n)).findSome? (fun h => h.2.bind fun k =>
      if k.2 = true then ((joinPorts v).fault x h.1 (tokOf k.1)).map fun e => (e, h.1) else none) = none := by
    rw [List.findSome?_eq_none_iff]
    intro h hh
    obtain ⟨n, hn, rfl⟩ := List.mem_map.1 hh
    obtain ⟨k, f, hk, hf⟩ := hheads n hn
    rw [hk, Option.bind_some]
    split
    · next hfresh => rw [hf hfresh, Option.map_none]
    · rfl
  have hsome : ((joinPorts v).all.map fun n => (n, t.tokHead x n)).any (fun h => h.2.isNone) = false := by
    rw [List.any_eq_false]
    intro h hh
    obtain ⟨n, hn, rfl⟩ := List.mem_map.1 hh
    obtain ⟨k, f, hk, -⟩ := hheads n hn
    simp [hk]
  subst ht hx hv
  unfold State.joinBeat
  extract_lets j0
  rw [hearly, hk0, Option.map_some]
  split
  · contradiction
  · next w _ hw => exact absurd (Option.some.inj hw) (hka' ▸ hheader w)
  rw [if_neg (by simp), hfaults]
  split
  · contradiction
  rw [hsome, if_neg Bool.false_ne_true]
  rename_i x t _ _ tok ka' kb' ca' cb' _ _ _ _ _ _
  have htok (o : Option Nat) : tok o = portTok t x o := by cases o <;> rfl
  rw [show ka' = ka from (htok _).trans hka.symm, show kb' = kb from (htok _).trans hkb.symm,
    show ca' = ca from (htok _).trans hca.symm, show cb' = cb from (htok _).trans hcb.symm,
    if_neg (not_unlike_of fun h => hsameA (Option.isSome_iff_ne_none.1 h)), if_neg (not_unlike_of fun h => ?_),
    if_neg (not_unlike_of fun h => ?_)]
  · rfl
  · obtain ⟨hcb, hb⟩ := Bool.and_eq_true_iff.1 h
    exact hsameC (Option.isSome_iff_ne_none.1 hcb) (Option.isNone_iff_eq_none.1 hb)
  · obtain ⟨hcb, hb⟩ := Bool.and_eq_true_iff.1 h
    exact hsameB (Option.isSome_iff_ne_none.1 hcb) (Option.isSome_iff_ne_none.1 hb)

end Sys2Proof.Laws.Beats
end

section
/-! SUPPORT. What each join does with the tokens that it stands before, of O31 (R228–R232). -/
namespace Sys2Proof.Laws.Beats

open Sys2Proof Sys2Proof.Machine Sys2Proof.Claims Sys2Proof.Laws

variable {s : State} {t t0 T T1 : Task} {c n e p q o : Nat} {x x0 y : Cell} {v v0 : BitVec 240} {j : JoinPorts} {ka kb ca cb : BitVec 36}
  {ps : List Nat} {d d' : BitVec 32}

/-! ### Items of two inputs (R228–R230) -/

/-- No input of a side that an action rewinds has a window beyond its bound (R228). -/
def WindowsFit (x : Cell) (ps : List Nat) (action : Nat) : Prop := ∀ n ∈ ps, action = 2 → (x.port n).window.length ≤ 1024

theorem windowOver_none {action : Nat} {b : Bool} (h : WindowsFit x ps action) :
    (if (decide (action = 2) && b) = true then x.windowOver ps else none) = none := by
  split
  · next hact =>
    have hact : action = 2 := by simp at hact; exact hact.1
    rw [Cell.windowOver, List.find?_eq_none]
    intro n hn
    have := h n hn hact
    simpa using this
  · rfl

/-- The token that leaves for a companion: E where its side has not the coordinate that leaves (R227). -/
def leftToken (em : Nat) (coord : BitVec 32) (k comp : BitVec 36) : BitVec 36 :=
  if (tokOf k).isItem = false ∨ (em = 2 ∧ (tokOf k).val ≠ coord) then absentTok else comp

theorem leftToken_eq (em : Nat) (coord : BitVec 32) (k comp : BitVec 36) : leftToken em coord k comp =
    if (!(tokOf k).isItem) = true then absentTok
    else if (decide (em = 2) && decide ((tokOf k).val ≠ coord)) = true then absentTok else comp := by
  rw [leftToken]
  cases (tokOf k).isItem <;> simp

/-- The two sides of a join after the actions of an outcome. -/
def Acted (t : Task) (x : Cell) (v : BitVec 240) (j : JoinPorts) (o : Nat) (ka kb : BitVec 36) : Task :=
  (t.act x.idx j j.sideA (tokOf ka).isItem (cuAct v o 0)).act x.idx j j.sideB (tokOf kb).isItem (cuAct v o 1)

section
variable (hA : WindowsFit x j.sideA (cuAct v o 0)) (hB : WindowsFit x j.sideB (cuAct v o 1))
include hA hB

theorem joinItems_silent (hem : cuAct v o 2 = 0) : s.joinItems t x v j o ka kb ca cb = .ok (s, Acted t x v j o ka kb) := by
  unfold State.joinItems
  extract_lets ta tb actA actB em
  rw [windowOver_none hA, windowOver_none hB]
  exact if_pos hem

theorem joinItems_emits (hem : cuAct v o 2 ≠ 0) (hop : j.op ≠ 0x62) {coord : BitVec 32}
    (hcoord : coord = if o = 2 then (tokOf kb).val else (tokOf ka).val)
    (hemit : (Acted t x v j o ka kb).emitJoin x v j.imm (if j.op = 0x64 then mkTok 2 (BitVec.ofNat 32 o) else mkTok 0 coord)
      (leftToken (cuAct v o 2) coord ka ca) (leftToken (cuAct v o 2) coord kb cb) = some T) :
    s.joinItems t x v j o ka kb ca cb = .ok (s, T) := by
  rw [leftToken_eq, leftToken_eq, hcoord] at hemit
  unfold State.joinItems
  extract_lets ta tb actA actB em
  rw [windowOver_none hA, windowOver_none hB]
  dsimp only
  rename_i coord holder r ca' cb' t'
  have hr : r = if j.op = 0x64 then mkTok 2 (BitVec.ofNat 32 o) else mkTok 0 coord := by
    unfold r
    split
    · contradiction
    · next h => rw [if_pos h]
    · next h => rw [if_neg h]
  rw [if_neg hem, hr, show cb' = holder tb cb from if_neg hop]
  exact congrArg (orIdle s) hemit

theorem joinItems_repeats (hem : cuAct v 0 2 ≠ 0) (hop : j.op = 0x62) (ho : o = 0) (ha : (tokOf ka).isItem = true)
    (hemit : (Acted t x v j 0 ka kb).emitJoin x v j.imm ka ca kb = some T) : s.joinItems t x v j o ka kb ca cb = .ok (s, T) := by
  subst ho
  unfold State.joinItems
  extract_lets ta tb actA actB em
  rw [windowOver_none hA, windowOver_none hB]
  dsimp only
  rename_i coord holder r ca' cb' t'
  have hr : r = ka := by unfold r; rw [hop]; rfl
  have hca : ca' = ca := by unfold ca' holder coord ta; simp [ha]
  rw [if_neg hem, hr, hca, show cb' = kb from if_pos hop]
  exact congrArg (orIdle s) hemit

end

/-! ### Stops and D (R228) -/

theorem joinPass_eq (h : (t.consumeAll x.idx j ps).emitAll x v ka = some T) : s.joinPass t x v j ps ka = .ok (s, T) := by
  rw [State.joinPass, h, orIdle]

theorem joinTwo_stops (ha : tokOf ka = .stop p) (hb : tokOf kb = .stop p)
    (hemit : (t.consumeAll x.idx j j.all).emitAll x v (stopTok p) = some T) : s.joinTwo t x v j ka kb ca cb = .ok (s, T) := by
  unfold State.joinTwo
  rw [ha, hb]
  exact (if_pos rfl).trans (joinPass_eq hemit)

theorem joinTwo_ends (ha : tokOf ka = .done) (hb : tokOf kb = .done)
    (hemit : (t.consumeAll x.idx j j.all).emitAll x v doneTok = some T) : s.joinTwo t x v j ka kb ca cb = .ok (s, T.endPass x.idx) := by
  unfold State.joinTwo
  rw [ha, hb]
  dsimp only
  rw [joinPass_eq hemit, Except.map]

theorem joinTwo_unlike (ha : tokOf ka = .stop p) (hb : tokOf kb = .stop q) (hpq : p ≠ q) :
    s.joinTwo t x v j ka kb ca cb = .error (malformed 4 x.idx j.a false t.openGo) := by
  unfold State.joinTwo
  rw [ha, hb]
  exact if_neg hpq

theorem joinTwo_items (hitem : (tokOf ka).isItem = true ∨ (tokOf kb).isItem = true) (ha : tokOf ka ≠ .done) (hb : tokOf kb ≠ .done) :
    s.joinTwo t x v j ka kb ca cb = s.joinItems t x v j (joinOutcome (tokOf ka) (tokOf kb)) ka kb ca cb := by
  unfold State.joinTwo
  split
  case h_1 hp hq => simp [hp, hq] at hitem
  case h_2 hp hq => exact absurd hp ha
  case h_3 => exact absurd ‹tokOf ka = .done› ha
  case h_4 => exact absurd ‹tokOf kb = .done› hb
  case h_5 => rfl

/-! ### `jrepeat` (R230) -/

theorem joinRepeat_items (ha : (tokOf ka).isItem = true) (hb : (tokOf kb).isItem = true) :
    s.joinRepeat t x v j ka kb ca = s.joinItems t x v j 0 ka kb ca kb := by
  unfold State.joinRepeat
  extract_lets bad b
  split
  case h_1 hp _ => simp [hp] at ha
  case h_2 hp => simp [hp] at ha
  case h_3 hp _ => simp [hp] at ha
  case h_4 hp _ => simp [hp] at ha
  case h_5 => rw [ha, hb]; rfl

theorem joinRepeat_closes (ha : tokOf ka = .stop 0) (hb : (tokOf kb).isItem = true)
    (hemit : (t.consumeAll x.idx j j.all).emitAll x v (stopTok 0) = some T) : s.joinRepeat t x v j ka kb ca = .ok (s, T) := by
  unfold State.joinRepeat
  rw [ha]
  exact (if_pos hb).trans (joinPass_eq hemit)

theorem joinRepeat_stops {k : Nat} (ha : tokOf ka = .stop (k + 1)) (hb : tokOf kb = .stop k)
    (hemit : ((t.updCell x.idx fun y => { y with afterItem := false }).consumeAll x.idx j j.all).emitAll x v (stopTok (k + 1)) = some T) :
    s.joinRepeat t x v j ka kb ca = .ok (s, T) := by
  unfold State.joinRepeat
  rw [ha, hb]
  exact (if_pos rfl).trans (joinPass_eq hemit)

/-! ### `jreduce` (R231) -/

/-- The value of a companion's token, if it is a V. -/
def valueOf : Tok → Option (BitVec 32)
  | .v w => some w
  | _ => none

theorem eq_of_valueOf {k : Tok} (h : valueOf k = some d) : k = .v d := by
  unfold valueOf at h
  split at h
  · exact congrArg Tok.v (Option.some.inj h)
  · cases h

theorem joinReduce_opens (ha : tokOf ka = .c d) (hrun : x.runCoord = none) : s.joinReduce t x v j ka ca =
    .ok (s, (t.consumeAll x.idx j j.sideA).updCell x.idx fun y => { y with runCoord := some d, runValue := valueOf (tokOf ca) }) := by
  unfold State.joinReduce
  rw [ha, hrun]
  rfl

theorem joinReduce_gathers {a b : BitVec 32} {r : Flagged} (ha : tokOf ka = .c d) (hrun : x.runCoord = some d)
    (hvalue : x.runValue = some a) (hb : valueOf (tokOf ca) = some b)
    (hr : r = nodeOp (reduceOp (joinParam j.imm)) (cuRm v 0) (cuSat v 0) t.crec.ftz 0 a b 0) : s.joinReduce t x v j ka ca =
    .ok (s, ((t.consumeAll x.idx j j.sideA).updCell x.idx fun y => { y with runValue := some r.1 }).flag r.2) := by
  subst hr
  unfold State.joinReduce
  rw [ha, hrun]
  dsimp only
  rw [if_pos (by simp), hvalue, eq_of_valueOf hb]

theorem joinReduce_changes (ha : tokOf ka = .c d) (hrun : x.runCoord = some d') (hne : d' ≠ d)
    (hwhole : (joinParam j.imm).testBit 3 = false)
    (hemit : ((t.consumeAll x.idx j j.sideA).updCell x.idx fun y => { y with runCoord := some d, runValue := valueOf (tokOf ca) }).emitRun
      x v j d' = some T) : s.joinReduce t x v j ka ca = .ok (s, T) := by
  unfold State.joinReduce
  rw [ha, hrun]
  dsimp only
  rw [if_neg (by simp [hwhole, hne])]
  exact congrArg (orIdle s) hemit

theorem joinReduce_stops (ha : tokOf ka = .stop p) (hrun : x.runCoord = none)
    (hemit : (t.consumeAll x.idx j j.sideA).emitAll x v (stopTok p) = some T) : s.joinReduce t x v j ka ca = .ok (s, T) := by
  unfold State.joinReduce
  rw [ha, hrun]
  exact joinPass_eq hemit

/-! ### `jstop` (R232) -/

theorem joinStop_drops (ha : tokOf ka = .stop p) (hp : p < joinParam j.imm) :
    s.joinStop t x v j ka ca cb = .ok (s, t.consumeAll x.idx j j.all) := by
  unfold State.joinStop
  rw [ha]
  exact if_pos hp

theorem joinStop_lowers (ha : tokOf ka = .stop p) (hp : joinParam j.imm ≤ p)
    (hemit : (t.consumeAll x.idx j j.all).emitAll x v (stopTok (p - joinParam j.imm)) = some T) :
    s.joinStop t x v j ka ca cb = .ok (s, T) := by
  unfold State.joinStop
  rw [ha]
  exact (if_neg (Nat.not_lt.2 hp)).trans (joinPass_eq hemit)

theorem joinStop_items (ha : (tokOf ka).isItem = true)
    (hemit : (t.consumeAll x.idx j j.all).emitJoin x v j.imm ka ca cb = some T) : s.joinStop t x v j ka ca cb = .ok (s, T) := by
  unfold State.joinStop
  extract_lets n
  split
  case h_1 hp => simp [hp] at ha
  case h_2 hp => simp [hp] at ha
  case h_3 => exact congrArg (orIdle s) hemit

/-! ### `jcount` (R232) -/

theorem joinCount_items (ha : (tokOf ka).isItem = true) : s.joinCount t x v j ka = .ok (s, (t.consumeAll x.idx j j.all).updCell x.idx
    fun y => { y with count := if tokOf ka = .e then y.count else y.count + 1, afterItem := true }) := by
  unfold State.joinCount
  extract_lets upd
  split
  case h_1 hp => simp [hp] at ha
  case h_2 hp => simp [hp] at ha
  case h_3 => rfl

theorem joinCount_stops (ha : tokOf ka = .stop p) (hrun : x.runValue = none) (hitem : p = 0 ∨ x.afterItem = true)
    (hemit : (t.updCell x.idx fun y => { y with runValue := some 1 }).emitJoin x v j.imm (mkTok 2 (BitVec.ofNat 32 x.count)) absentTok
      absentTok = some T) : s.joinCount t x v j ka = .ok (s, T) := by
  unfold State.joinCount
  rw [ha]
  dsimp only
  rw [if_pos (by simpa [hrun] using hitem)]
  exact congrArg (orIdle s) hemit

/-! ### The steps -/

theorem joinTokens_two (hop : j.op = 0x60 ∨ j.op = 0x61 ∨ j.op = 0x64) :
    joinTokens s t x v j ka kb ca cb = s.joinTwo t x v j ka kb ca cb := by
  unfold joinTokens
  rcases hop with hop | hop | hop <;> rw [hop] <;> rfl

theorem joinTokens_repeat (hop : j.op = 0x62) : joinTokens s t x v j ka kb ca cb = s.joinRepeat t x v j ka kb ca := by
  rw [joinTokens, hop]; rfl

theorem joinTokens_reduce (hop : j.op = 0x63) : joinTokens s t x v j ka kb ca cb = s.joinReduce t x v j ka ca := by
  rw [joinTokens, hop]; rfl

theorem joinTokens_stop (hop : j.op = 0x65) : joinTokens s t x v j ka kb ca cb = s.joinStop t x v j ka ca cb := by
  rw [joinTokens, hop]; rfl

theorem joinTokens_count (hop : j.op = 0x66) : joinTokens s t x v j ka kb ca cb = s.joinCount t x v j ka := by
  rw [joinTokens, hop]; rfl

theorem fireUnit_join (hc : t.cell? c = some x) (hv : x.cu = some v) (hfibre : cuFibre v = true) (hlow : 0x60 ≤ cuOp v 0)
    (hhigh : cuOp v 0 ≤ 0x66) : s.fireUnit t (.cu c) = s.joinBeat t x v := by
  have hjoins : x.joins = true := by rw [joins_eq hv]; simp [hfibre, hlow, hhigh]
  simp [State.fireUnit, hc, hv, hfibre, State.fibreBeat, hjoins]

theorem joinStep_meetsEarly {l r : List Nat} {k : BitVec 36 × Bool} (hworks : Works s t) (hc : t.cell? c = some x)
    (hv : x.cu = some v) (hfibre : cuFibre v = true) (hlow : 0x60 ≤ cuOp v 0) (hhigh : cuOp v 0 ≤ 0x66)
    (hins : (cuIns v).filter (· ≠ cuSel v 0 0) = l ++ n :: r) (hforce : ∀ m ∈ l, InForce t x m) (hk : t.tokHead x n = some k)
    (he : tokOf k.1 = .bad ∧ e = 5 ∨ ∃ w, tokOf k.1 = .h w ∧ e = 7) :
    Meets s t (.cu c) .fibreMalformed (e + 256 * c + 2 ^ 18 * n) t.openGo (exec (.joinStep t.handle c) s) := by
  obtain rfl := cell_idx hc
  refine meets_of_step (exec_cuStep rfl rfl hworks.1 hc hv ⟨hfibre, hlow, hhigh⟩) hworks ?_
  rw [fireUnit_join hc hv hfibre hlow hhigh, joinBeat_early (joinEarly_some hins hforce hk (earlyFault_eq he)), malformed]
  rfl

theorem joinBeats : JoinBeats := by
  refine ⟨fun s t c x v l n r k e hworks hc hv hfibre hlow hhigh hins hforce hk he =>
    joinStep_meetsEarly hworks hc hv hfibre hlow hhigh hins hforce hk he, ?_⟩
  intro s t0 t c x0 x v0 v j ka kb ca cb T hworks hc0 hv0 hfibre hlow hhigh hsel hv hx ht hj hat hforce
  have hstep := exec_cuStep (i := .joinStep t0.handle c) rfl rfl hworks.1 hc0 hv0 ⟨hfibre, hlow, hhigh⟩
  have hfire : s.fireUnit t0 (.cu c) = joinTokens s t x v j ka kb ca cb := by
    rw [fireUnit_join hc0 hv0 hfibre hlow hhigh, joinBeat_tokens hc0 hsel hv hx ht hat hforce, hj]
  have hleaves {T : Task} (h : joinTokens s t x v j ka kb ca cb = .ok (s, T)) : Leaves s t0 (.cu c) T (exec (.joinStep t0.handle c) s) :=
    leaves_of_step hstep hworks (hfire.trans h)
  obtain rfl : x.idx = c := by rw [hx, ← cell_idx hc0]
  refine ⟨fun hop => ?_, fun hop => ?_, fun hop w hw => ?_, fun hop => ?_, fun hop => ?_⟩
  · refine ⟨fun p ha hb hemit => hleaves ((joinTokens_two hop).trans (joinTwo_stops ha hb hemit)), ?_, fun p q ha hb hpq => ?_, ?_⟩
    · rintro T1 ha hb hemit rfl
      exact hleaves ((joinTokens_two hop).trans (joinTwo_ends ha hb hemit))
    · refine meets_of_step hstep hworks ?_
      rw [hfire, joinTokens_two hop, joinTwo_unlike ha hb hpq, malformed]
      rfl
    · rintro o actA actB em T1 rfl hitem ha hb rfl rfl rfl hA hB rfl
      have hitems {T : Task} (h : s.joinItems t x v j (joinOutcome (tokOf ka) (tokOf kb)) ka kb ca cb = .ok (s, T)) :=
        hleaves ((joinTokens_two hop).trans ((joinTwo_items hitem ha hb).trans h))
      refine ⟨fun hem => hitems (joinItems_silent hA hB hem), ?_⟩
      rintro hem coord la lb hcoord rfl rfl hemit
      exact hitems (joinItems_emits hA hB hem (by omega) hcoord hemit)
  · refine ⟨?_, fun ha hb hemit => hleaves ((joinTokens_repeat hop).trans (joinRepeat_closes ha hb hemit)),
      fun k ha hb hemit => hleaves ((joinTokens_repeat hop).trans (joinRepeat_stops ha hb hemit))⟩
    rintro ha hb T1 hA hB hem rfl hemit
    refine hleaves ((joinTokens_repeat hop).trans ((joinRepeat_items ha hb).trans (joinItems_repeats (fun _ _ h => absurd h hA)
      (fun _ _ h => absurd h hB) hem hop rfl ha ?_)))
    rw [Acted, ha, hb]
    exact hemit
  · have hw : w = valueOf (tokOf ca) := by rw [hw]; rfl
    subst hw
    refine ⟨fun d ha hrun => hleaves ((joinTokens_reduce hop).trans (joinReduce_opens ha hrun)), fun d a b r ha hrun hvalue hb hr =>
      hleaves ((joinTokens_reduce hop).trans (joinReduce_gathers ha hrun hvalue hb hr)), fun d e ha hrun hne hwhole hemit =>
      hleaves ((joinTokens_reduce hop).trans (joinReduce_changes ha hrun hne hwhole hemit)), fun p ha hrun hemit =>
      hleaves ((joinTokens_reduce hop).trans (joinReduce_stops ha hrun hemit))⟩
  · exact ⟨fun p ha hp => hleaves ((joinTokens_stop hop).trans (joinStop_drops ha hp)), fun p ha hp hemit =>
      hleaves ((joinTokens_stop hop).trans (joinStop_lowers ha hp hemit)),
      fun ha hemit => hleaves ((joinTokens_stop hop).trans (joinStop_items ha hemit))⟩
  · exact ⟨fun ha => hleaves ((joinTokens_count hop).trans (joinCount_items ha)), fun p ha hrun hitem hemit =>
      hleaves ((joinTokens_count hop).trans (joinCount_stops ha hrun hitem hemit))⟩

end Sys2Proof.Laws.Beats
end

section
/-! SUPPORT. O31: a step of a fabric unit is one beat, and what each kind of unit does in it. -/
namespace Sys2Proof.Proofs

open Sys2Proof.Laws.Beats

/-- Settles O31: each step is one beat of its unit (`exec_cuStep`, `exec_agStep`), a beat answers as its firing does
(`beatAnswers_of_works`), and what a firing gives is computed kind by kind. -/
theorem fabricBeats : Obligations.FabricBeats := by
  refine ⟨?_, ?_, ?_, ?_, cuBeats, orderBeats, fibreBeats, joinBeats, agBeats, muBeats⟩
  · intro i h c k v s t hstep hh hworks hcell hk
    obtain ⟨x, hc, hv⟩ := Option.bind_eq_some_iff.1 hcell
    rw [exec_cuStep hstep hh hworks.1 hc hv hk]
    exact beatAnswers_of_works hworks
  · intro i h p m a s t hstep hh hworks ha hm
    rw [exec_agStep hstep hh hworks.1 ha hm]
    exact beatAnswers_of_works hworks
  · intro c s t hworks
    rw [exec_muAccess hworks.1]
    exact beatAnswers_of_works hworks
  · intro k s t hworks
    rw [exec_activationRow hworks.1]
    exact beatAnswers_of_works hworks

end Sys2Proof.Proofs
end
